-- ==== Sys2Proof/Word.lean ====
section
/-! DEFINITION. Word types of the Cerlinko 4 and their plainest names (R17, R54). -/

namespace Sys2Proof

/-- A byte of memory (R17). -/
abbrev Byte := BitVec 8

/-- A vector-register lane, 32 bits (R54). -/
abbrev Word := BitVec 32

/-- A scalar register or an address, 64 bits (R54). -/
abbrev DWord := BitVec 64

/-- A lane mask: bit l is lane l (R56). -/
abbrev Mask := BitVec 32

/-- The squad width of the Cerlinko 4 (R3). -/
abbrev lanes : Nat := 32

end Sys2Proof
end

