-- ==== Sys2Proof/Config.lean ====
section
/-! DEFINITION. The constants of the Cerlinko 4 and the values that its manual leaves open. Each free value is an opaque
constant applied to the machine's ticket counter or to the operands it depends on, so nothing can be proved of its value. -/

namespace Sys2Proof.Config

/-- Instructions of one quantum (R41). -/
abbrev quantum : Nat := 4096

/-- The number that stands for the management core beside the physical cores 0 to 127 (R316, R329). -/
abbrev mcCore : Nat := 128

/-- Where BAR0 stands for system squads (R397). -/
abbrev controlBase : Nat := 0xFFFFFFC000000

/-- Spare pages of the memory controllers (R330). -/
abbrev sparePages : Nat := 64

/-- Implementation revision in DEVID. DESIGN CHOICE (log 9): the manual gives no number. -/
abbrev revision : Nat := 1

/-- Nanoseconds that pass in a step whose time the plan does not fix (log 4). -/
opaque freeNs : Nat → Nat

/-- Arithmetic clocks that pass on a core in a step (log 4). -/
opaque freeClocks : Nat → Nat

/-- The slice that the home function assigns to a line (R96; log 5). -/
opaque homeSlice : Nat → Nat

/-- The set of a slice that a line belongs to (R96; log 7). -/
opaque lineSet : Nat → Nat

/-- The way that a line is placed in, as a choice among the ways that may take it (R96; log 7). -/
opaque freeWay : Nat → Nat

/-- The set of a core's L1 that a line belongs to (R93; log 7). -/
opaque l1Set : Nat → Nat

/-- The line that a full set of an L1 gives up (R93; log 7). -/
opaque l1Victim : Nat → Nat

/-- The entry that a full TLB gives up (R364; log 7). -/
opaque tlbVictim : Nat → Nat

/-- Nanoseconds for which a failed walk stays outstanding (R365; log 75). -/
opaque walkNs : Nat → Nat

/-- The stack of a granule of interleaved HBM (R108; log 5). -/
opaque granuleStack : Nat → Nat

/-- Whether the fetch of a halfword still finds the bytes that a store has replaced (R140; log 35). -/
opaque fetchOld : Nat → Bool

/-- Whether a row operation has reached a sector of its page when a racing access meets it (R109, R415; log 81). -/
opaque rowReached : Nat → Nat → Bool

/-- The choice made in a contiguity group that is not well formed (R366; log 10). -/
opaque contigPick : Nat → Nat


/-- The code base that `brx` and `callx` add to in squad 0 of the management core, which has no launch record (R172, R424;
log 15). -/
opaque mcCodeBase : BitVec 64

/-- Syndromes and counters whose values the manual leaves open (R377, R407; log 11). -/
opaque freeWord : Nat → BitVec 64

/-- The span port that the address hash chooses (R400; log 11). -/
opaque portHash : Nat → Nat

/-- The three seeds of the key pair that the root of trust derives from a device secret and a measurement (R405; log 83). -/
opaque attestSeed : List (BitVec 8) → List (BitVec 8) → Nat → BitVec 256

/-- The randomness of the signature of a report (R405; log 83). -/
opaque signRandom : Nat → BitVec 256

/-- The keys of CXL IDE that firmware establishes (R405; log 83). -/
opaque ideKey : Nat → BitVec 256

/-- What an open counter of the survey has gained since it was last reported: record, position and ticket (R407; log 11). -/
opaque surveyGain : Nat → Nat → Nat → BitVec 64

/-- The FP32 result of a special function (R66) in the cases that the enclosure of Machine/Special.lean does not settle:
function number and operand. The manual fixes the exact result; this value is never used where the enclosure decides. -/
opaque special : Nat → BitVec 32 → BitVec 32

end Sys2Proof.Config
end

