-- ==== Sys2Proof/Syntax.lean ====
section
/-! DEFINITION. The instruction set of the Cerlinko 4 (Faruf 2): ONE inductive, one constructor per row of
the opcode table. The first 339 constructors are the instructions with encodings (R138 to R155); the last 70 are the
device's own indivisible steps (spec/95), which carry no encoding and reach the machine through its plan.
Operand fields are the encoding's bit fields, lowest field first. -/

namespace Sys2Proof

/-- What a scrub finds in a sector or line (R374, R375). -/
inductive Finding where
  | clean                       -- nothing
  | corrected                   -- a correctable error: corrected, counted in CE
  | dataError                   -- an uncorrectable data error
  | tagError                    -- an uncorrectable tag error (LLC only)
  | metadataError               -- an uncorrectable metadata error (HBM only)
  deriving DecidableEq, Repr

/-- A function that completes bring-up (R402, R403): the ready bit it sets, and for a stack the base, the size and the
first row of its stack-linear region. -/
inductive ReadyFunction where
  | chip (n : Nat)
  | stack (k base size row : Nat)
  | edge (e : Nat)
  | host
  | span (p : Nat)
  | ide
  | attest
  deriving DecidableEq, Repr

/-- An access from a peer device, served at the home slice (R400). -/
inductive OutsideRequest where
  | read (pa n : Nat)
  | write (pa : Nat) (bytes : List (BitVec 8)) (bad : Bool)
  deriving DecidableEq, Repr

/-- The instructions and the device steps of the opcode table. -/
inductive Instr where
  /-- 16-bit lane form of mov: copies va to vd in each enabled lane (R141) -/
  | mov16 (d : BitVec 5) (a : BitVec 5)
  /-- 16-bit lane form of add with D as destination and first source (R141) -/
  | add16 (d : BitVec 5) (a : BitVec 5)
  /-- 16-bit lane form of sub with D as destination and first source (R141) -/
  | sub16 (d : BitVec 5) (a : BitVec 5)
  /-- 16-bit lane form of mul with D as destination and first source (R141) -/
  | mul16 (d : BitVec 5) (a : BitVec 5)
  /-- 16-bit lane form of and with D as destination and first source (R141) -/
  | and16 (d : BitVec 5) (a : BitVec 5)
  /-- 16-bit lane form of or with D as destination and first source (R141) -/
  | or16 (d : BitVec 5) (a : BitVec 5)
  /-- 16-bit lane form of xor with D as destination and first source (R141) -/
  | xor16 (d : BitVec 5) (a : BitVec 5)
  /-- 16-bit lane form of shl with D as destination and first source (R141) -/
  | shl16 (d : BitVec 5) (a : BitVec 5)
  /-- 16-bit lane form of shr with D as destination and first source (R141) -/
  | shr16 (d : BitVec 5) (a : BitVec 5)
  /-- 16-bit lane form of sar with D as destination and first source (R141) -/
  | sar16 (d : BitVec 5) (a : BitVec 5)
  /-- 16-bit lane form of fadd with D as destination and first source (R141) -/
  | fadd16 (d : BitVec 5) (a : BitVec 5)
  /-- 16-bit lane form of fsub with D as destination and first source (R141) -/
  | fsub16 (d : BitVec 5) (a : BitVec 5)
  /-- 16-bit lane form of fmul with D as destination and first source (R141) -/
  | fmul16 (d : BitVec 5) (a : BitVec 5)
  /-- 16-bit lane form of fmin with D as destination and first source (R141) -/
  | fmin16 (d : BitVec 5) (a : BitVec 5)
  /-- 16-bit lane form of fmax with D as destination and first source (R141) -/
  | fmax16 (d : BitVec 5) (a : BitVec 5)
  /-- 16-bit lane form of fneg: negates va into vd (R141) -/
  | fneg16 (d : BitVec 5) (a : BitVec 5)
  /-- Does nothing (R174) -/
  | nop
  /-- Gives each thread of the running group a guard window over its next n instructions (R146) -/
  | guard (p : BitVec 3) (n : BitVec 1) (c : BitVec 2)
  /-- Prefix that sets the order and scope of the following memory instruction (R147) -/
  | ord (sc : BitVec 3) (o : BitVec 3)
  /-- Advances the running group past it and sets it aside, forcing a switch (R174) -/
  | yield
  /-- Retires every thread of the running group; the last thread's exit waits for all counters (R45) -/
  | exit
  /-- Sends each thread to the return address held in its v126 (R173) -/
  | ret
  /-- Raises user trap 0x02 with its code in TRAPINFO (R187) -/
  | brk (c : BitVec 10)
  /-- Blocks until every selected counter class is zero, then consumes class errors (R177) -/
  | wait0 (m : BitVec 5)
  /-- Wrapping 32-bit add with vector B (R193) -/
  | add (d : BitVec 7) (a : BitVec 7) (b : BitVec 7)
  /-- Wrapping 32-bit add with scalar B broadcast to every lane (R193) -/
  | addS (d : BitVec 7) (a : BitVec 7) (b : BitVec 7)
  /-- Wrapping 32-bit subtract with vector B (R193) -/
  | sub (d : BitVec 7) (a : BitVec 7) (b : BitVec 7)
  /-- Wrapping 32-bit subtract with scalar B (R193) -/
  | subS (d : BitVec 7) (a : BitVec 7) (b : BitVec 7)
  /-- Low 32 bits of the product with vector B (R193) -/
  | mul (d : BitVec 7) (a : BitVec 7) (b : BitVec 7)
  /-- Low 32 bits of the product with scalar B (R193) -/
  | mulS (d : BitVec 7) (a : BitVec 7) (b : BitVec 7)
  /-- High 32 bits of the signed product with vector B (R193) -/
  | mulhiI32 (d : BitVec 7) (a : BitVec 7) (b : BitVec 7)
  /-- High 32 bits of the signed product with scalar B (R193) -/
  | mulhiI32S (d : BitVec 7) (a : BitVec 7) (b : BitVec 7)
  /-- High 32 bits of the unsigned product with vector B (R193) -/
  | mulhiN32 (d : BitVec 7) (a : BitVec 7) (b : BitVec 7)
  /-- High 32 bits of the unsigned product with scalar B (R193) -/
  | mulhiN32S (d : BitVec 7) (a : BitVec 7) (b : BitVec 7)
  /-- Bitwise and with vector B (R193) -/
  | and (d : BitVec 7) (a : BitVec 7) (b : BitVec 7)
  /-- Bitwise and with scalar B (R193) -/
  | andS (d : BitVec 7) (a : BitVec 7) (b : BitVec 7)
  /-- Bitwise or with vector B (R193) -/
  | or (d : BitVec 7) (a : BitVec 7) (b : BitVec 7)
  /-- Bitwise or with scalar B (R193) -/
  | orS (d : BitVec 7) (a : BitVec 7) (b : BitVec 7)
  /-- Bitwise xor with vector B (R193) -/
  | xor (d : BitVec 7) (a : BitVec 7) (b : BitVec 7)
  /-- Bitwise xor with scalar B (R193) -/
  | xorS (d : BitVec 7) (a : BitVec 7) (b : BitVec 7)
  /-- Left shift by vector B, 0 when the count is 32 or more (R193) -/
  | shl (d : BitVec 7) (a : BitVec 7) (b : BitVec 7)
  /-- Left shift by scalar B (R193) -/
  | shlS (d : BitVec 7) (a : BitVec 7) (b : BitVec 7)
  /-- Logical right shift by vector B (R193) -/
  | shr (d : BitVec 7) (a : BitVec 7) (b : BitVec 7)
  /-- Logical right shift by scalar B (R193) -/
  | shrS (d : BitVec 7) (a : BitVec 7) (b : BitVec 7)
  /-- Arithmetic right shift by vector B (R193) -/
  | sar (d : BitVec 7) (a : BitVec 7) (b : BitVec 7)
  /-- Arithmetic right shift by scalar B (R193) -/
  | sarS (d : BitVec 7) (a : BitVec 7) (b : BitVec 7)
  /-- Signed minimum with vector B (R193) -/
  | minI32 (d : BitVec 7) (a : BitVec 7) (b : BitVec 7)
  /-- Signed minimum with scalar B (R193) -/
  | minI32S (d : BitVec 7) (a : BitVec 7) (b : BitVec 7)
  /-- Signed maximum with vector B (R193) -/
  | maxI32 (d : BitVec 7) (a : BitVec 7) (b : BitVec 7)
  /-- Signed maximum with scalar B (R193) -/
  | maxI32S (d : BitVec 7) (a : BitVec 7) (b : BitVec 7)
  /-- Unsigned minimum with vector B (R193) -/
  | minN32 (d : BitVec 7) (a : BitVec 7) (b : BitVec 7)
  /-- Unsigned minimum with scalar B (R193) -/
  | minN32S (d : BitVec 7) (a : BitVec 7) (b : BitVec 7)
  /-- Unsigned maximum with vector B (R193) -/
  | maxN32 (d : BitVec 7) (a : BitVec 7) (b : BitVec 7)
  /-- Unsigned maximum with scalar B (R193) -/
  | maxN32S (d : BitVec 7) (a : BitVec 7) (b : BitVec 7)
  /-- Signed saturating add with vector B (R193) -/
  | addsatI32 (d : BitVec 7) (a : BitVec 7) (b : BitVec 7)
  /-- Signed saturating add with scalar B (R193) -/
  | addsatI32S (d : BitVec 7) (a : BitVec 7) (b : BitVec 7)
  /-- Signed saturating subtract with vector B (R193) -/
  | subsatI32 (d : BitVec 7) (a : BitVec 7) (b : BitVec 7)
  /-- Signed saturating subtract with scalar B (R193) -/
  | subsatI32S (d : BitVec 7) (a : BitVec 7) (b : BitVec 7)
  /-- Wrapping multiply-add a × b + d with vector B (R193) -/
  | mad (d : BitVec 7) (a : BitVec 7) (b : BitVec 7)
  /-- Wrapping multiply-add with scalar B (R193) -/
  | madS (d : BitVec 7) (a : BitVec 7) (b : BitVec 7)
  /-- Byte permute of a under nibble selectors from vector B (R194) -/
  | prmt (d : BitVec 7) (a : BitVec 7) (b : BitVec 7)
  /-- Byte permute under selectors from scalar B (R194) -/
  | prmtS (d : BitVec 7) (a : BitVec 7) (b : BitVec 7)
  /-- Bit-field extract with position and length from vector B (R195) -/
  | bfe (d : BitVec 7) (a : BitVec 7) (b : BitVec 7)
  /-- Bit-field extract with position and length from scalar B (R195) -/
  | bfeS (d : BitVec 7) (a : BitVec 7) (b : BitVec 7)
  /-- Bit-field insert of b[31:16] into a, controlled by vector B (R195) -/
  | bfi (d : BitVec 7) (a : BitVec 7) (b : BitVec 7)
  /-- Bit-field insert controlled by scalar B (R195) -/
  | bfiS (d : BitVec 7) (a : BitVec 7) (b : BitVec 7)
  /-- Writes a predicate from an integer comparison with vector B (R196) -/
  | setp (p : BitVec 3) (c : BitVec 4) (a : BitVec 7) (b : BitVec 7)
  /-- Writes a predicate from an integer comparison with scalar B (R196) -/
  | setpS (p : BitVec 3) (c : BitVec 4) (a : BitVec 7) (b : BitVec 7)
  /-- Selects a or the old d under a predicate (R197) -/
  | selp (d : BitVec 7) (a : BitVec 7) (p : BitVec 3) (n : BitVec 1)
  /-- Counts the 1 bits of a (R197) -/
  | popc (d : BitVec 7) (a : BitVec 7)
  /-- Counts leading zeros of a (R197) -/
  | clz (d : BitVec 7) (a : BitVec 7)
  /-- Reverses the bits of a (R197) -/
  | brev (d : BitVec 7) (a : BitVec 7)
  /-- Signed absolute value, wrapping (R197) -/
  | abs (d : BitVec 7) (a : BitVec 7)
  /-- Two's complement negation (R197) -/
  | neg (d : BitVec 7) (a : BitVec 7)
  /-- Bitwise complement (R197) -/
  | not (d : BitVec 7) (a : BitVec 7)
  /-- Copies va to vd (R197) -/
  | mov (d : BitVec 7) (a : BitVec 7)
  /-- Copies the low 32 bits of a scalar register to vd in each enabled lane (R182) -/
  | movs (d : BitVec 7) (a : BitVec 7)
  /-- Sign-extends the low w bits of a (R197) -/
  | sext (d : BitVec 7) (a : BitVec 7) (w : BitVec 7)
  /-- Writes va to the vector register whose number a scalar register holds (R198) -/
  | movx (d : BitVec 7) (a : BitVec 7)
  /-- Reads the vector register whose number a scalar register holds into vd (R198) -/
  | movxr (d : BitVec 7) (a : BitVec 7)
  /-- FP32 add with vector B (R201) -/
  | fadd (d : BitVec 7) (a : BitVec 7) (b : BitVec 7)
  /-- FP32 add with scalar B (R201) -/
  | faddS (d : BitVec 7) (a : BitVec 7) (b : BitVec 7)
  /-- FP32 subtract with vector B (R201) -/
  | fsub (d : BitVec 7) (a : BitVec 7) (b : BitVec 7)
  /-- FP32 subtract with scalar B (R201) -/
  | fsubS (d : BitVec 7) (a : BitVec 7) (b : BitVec 7)
  /-- FP32 multiply with vector B (R201) -/
  | fmul (d : BitVec 7) (a : BitVec 7) (b : BitVec 7)
  /-- FP32 multiply with scalar B (R201) -/
  | fmulS (d : BitVec 7) (a : BitVec 7) (b : BitVec 7)
  /-- FP32 fused a × b + d with vector B (R201) -/
  | ffma (d : BitVec 7) (a : BitVec 7) (b : BitVec 7)
  /-- FP32 fused a × b + d with scalar B (R201) -/
  | ffmaS (d : BitVec 7) (a : BitVec 7) (b : BitVec 7)
  /-- FP32 fused d − a × b with vector B (R201) -/
  | fnma (d : BitVec 7) (a : BitVec 7) (b : BitVec 7)
  /-- FP32 fused d − a × b with scalar B (R201) -/
  | fnmaS (d : BitVec 7) (a : BitVec 7) (b : BitVec 7)
  /-- FP32 minimumNumber with vector B (R201) -/
  | fmin (d : BitVec 7) (a : BitVec 7) (b : BitVec 7)
  /-- FP32 minimumNumber with scalar B (R201) -/
  | fminS (d : BitVec 7) (a : BitVec 7) (b : BitVec 7)
  /-- FP32 maximumNumber with vector B (R201) -/
  | fmax (d : BitVec 7) (a : BitVec 7) (b : BitVec 7)
  /-- FP32 maximumNumber with scalar B (R201) -/
  | fmaxS (d : BitVec 7) (a : BitVec 7) (b : BitVec 7)
  /-- Writes a predicate from an FP32 comparison with vector B (R202) -/
  | fsetp (p : BitVec 3) (c : BitVec 4) (a : BitVec 7) (b : BitVec 7)
  /-- Writes a predicate from an FP32 comparison with scalar B (R202) -/
  | fsetpS (p : BitVec 3) (c : BitVec 4) (a : BitVec 7) (b : BitVec 7)
  /-- FP32 divide rounded to nearest-even with vector B (R201) -/
  | fdiv (d : BitVec 7) (a : BitVec 7) (b : BitVec 7)
  /-- FP32 divide rounded to nearest-even with scalar B (R201) -/
  | fdivS (d : BitVec 7) (a : BitVec 7) (b : BitVec 7)
  /-- FP32 absolute value after FTZ, raising nothing (R204) -/
  | fabs (d : BitVec 7) (a : BitVec 7)
  /-- FP32 negation after FTZ, raising nothing (R204) -/
  | fneg (d : BitVec 7) (a : BitVec 7)
  /-- Correctly rounded FP32 reciprocal (R203) -/
  | frcp (d : BitVec 7) (a : BitVec 7)
  /-- Correctly rounded FP32 reciprocal square root (R203) -/
  | frsq (d : BitVec 7) (a : BitVec 7)
  /-- Correctly rounded FP32 square root (R203) -/
  | fsqrt (d : BitVec 7) (a : BitVec 7)
  /-- Correctly rounded 2^a (R203) -/
  | fex2 (d : BitVec 7) (a : BitVec 7)
  /-- Correctly rounded log2 a (R203) -/
  | flg2 (d : BitVec 7) (a : BitVec 7)
  /-- Correctly rounded sine (R203) -/
  | fsin (d : BitVec 7) (a : BitVec 7)
  /-- Correctly rounded cosine (R203) -/
  | fcos (d : BitVec 7) (a : BitVec 7)
  /-- Correctly rounded hyperbolic tangent (R203) -/
  | ftanh (d : BitVec 7) (a : BitVec 7)
  /-- Rounds a to an integral FP32 value in the selected mode (R204) -/
  | frnd (d : BitVec 7) (a : BitVec 7) (m : BitVec 3)
  /-- Writes a one-hot class mask of a (R204) -/
  | fclass (d : BitVec 7) (a : BitVec 7)
  /-- Packed FP16 add with vector B (R205) -/
  | hadd2 (d : BitVec 7) (a : BitVec 7) (b : BitVec 7)
  /-- Packed FP16 add with scalar B (R205) -/
  | hadd2S (d : BitVec 7) (a : BitVec 7) (b : BitVec 7)
  /-- Packed FP16 multiply with vector B (R205) -/
  | hmul2 (d : BitVec 7) (a : BitVec 7) (b : BitVec 7)
  /-- Packed FP16 multiply with scalar B (R205) -/
  | hmul2S (d : BitVec 7) (a : BitVec 7) (b : BitVec 7)
  /-- Packed FP16 fused multiply-add with vector B (R205) -/
  | hfma2 (d : BitVec 7) (a : BitVec 7) (b : BitVec 7)
  /-- Packed FP16 fused multiply-add with scalar B (R205) -/
  | hfma2S (d : BitVec 7) (a : BitVec 7) (b : BitVec 7)
  /-- Packed BF16 add with vector B (R205) -/
  | badd2 (d : BitVec 7) (a : BitVec 7) (b : BitVec 7)
  /-- Packed BF16 add with scalar B (R205) -/
  | badd2S (d : BitVec 7) (a : BitVec 7) (b : BitVec 7)
  /-- Packed BF16 multiply with vector B (R205) -/
  | bmul2 (d : BitVec 7) (a : BitVec 7) (b : BitVec 7)
  /-- Packed BF16 multiply with scalar B (R205) -/
  | bmul2S (d : BitVec 7) (a : BitVec 7) (b : BitVec 7)
  /-- Packed BF16 fused multiply-add with vector B (R205) -/
  | bfma2 (d : BitVec 7) (a : BitVec 7) (b : BitVec 7)
  /-- Packed BF16 fused multiply-add with scalar B (R205) -/
  | bfma2S (d : BitVec 7) (a : BitVec 7) (b : BitVec 7)
  /-- Four BF16 products per lane accumulated into an FP32 pair, vector B (R206) -/
  | dot2 (d : BitVec 7) (a : BitVec 7) (b : BitVec 7)
  /-- Four BF16 products per lane into an FP32 pair, scalar B (R206) -/
  | dot2S (d : BitVec 7) (a : BitVec 7) (b : BitVec 7)
  /-- Wrapping four-way signed byte dot product accumulated into d, vector B (R207) -/
  | idot4 (d : BitVec 7) (a : BitVec 7) (b : BitVec 7)
  /-- Wrapping four-way signed byte dot product, scalar B (R207) -/
  | idot4S (d : BitVec 7) (a : BitVec 7) (b : BitVec 7)
  /-- Converts a float to an integer with the selected rounding and saturation (R209) -/
  | cvtfi (d : BitVec 7) (a : BitVec 7) (sc : BitVec 7)
  /-- Converts an integer to a float (R210) -/
  | cvtif (d : BitVec 7) (a : BitVec 7) (sc : BitVec 7)
  /-- Converts between two float formats (R211) -/
  | cvtff (d : BitVec 7) (a : BitVec 7) (sc : BitVec 7)
  /-- Narrows n FP32 registers into one packed register (R212) -/
  | cvtpk (d : BitVec 7) (a : BitVec 7) (sc : BitVec 7)
  /-- Widens packed elements into n FP32 registers (R213) -/
  | cvtup (d : BitVec 7) (a : BitVec 7) (sc : BitVec 7)
  /-- Computes the E8M0 scale of the squad's MX block (R214) -/
  | mxscale (d : BitVec 7) (a : BitVec 7) (fm : BitVec 1)
  /-- Quantises each lane's element against its block scale to an MX code (R215) -/
  | mxq (d : BitVec 7) (a : BitVec 7) (fm : BitVec 1)
  /-- Reads va from the lane given by vector B (R216) -/
  | shflIdx (d : BitVec 7) (a : BitVec 7) (b : BitVec 7)
  /-- Reads va from lane xor k (R216) -/
  | shflXor (d : BitVec 7) (a : BitVec 7) (b : BitVec 7)
  /-- Reads va from lane − k, or the lane itself below k (R216) -/
  | shflUp (d : BitVec 7) (a : BitVec 7) (b : BitVec 7)
  /-- Reads va from lane + k, or the lane itself at the top (R216) -/
  | shflDn (d : BitVec 7) (a : BitVec 7) (b : BitVec 7)
  /-- Reduces a over the squad in butterfly order and writes the result to every enabled lane (R217) -/
  | redsq (d : BitVec 7) (a : BitVec 7) (o : BitVec 7)
  /-- Writes each enabled lane's inclusive prefix of a over the squad (R217) -/
  | scan (d : BitVec 7) (a : BitVec 7) (o : BitVec 7)
  /-- Writes a scalar mask of enabled lanes 0–63 whose predicate is true (R218) -/
  | voteBallot (d : BitVec 7) (a : BitVec 3) (n : BitVec 1)
  /-- Sets a predicate true when every enabled lane's predicate is true (R218) -/
  | voteAll (d : BitVec 3) (a : BitVec 3) (n : BitVec 1)
  /-- Sets a predicate true when any enabled lane's predicate is true (R218) -/
  | voteAny (d : BitVec 3) (a : BitVec 3) (n : BitVec 1)
  /-- Sets a predicate true when all enabled lanes' predicates are equal (R218) -/
  | voteUni (d : BitVec 3) (a : BitVec 3) (n : BitVec 1)
  /-- Writes a scalar ballot of lanes 64–127 (R218) -/
  | voteBallotHi (d : BitVec 7) (a : BitVec 3) (n : BitVec 1)
  /-- Writes the mask of enabled lanes holding an equal value (R219) -/
  | matchAny (d : BitVec 7) (a : BitVec 7)
  /-- Writes the lowest enabled lane holding an equal value (R219) -/
  | matchFirst (d : BitVec 7) (a : BitVec 7)
  /-- Scalar wrapping add (R183) -/
  | sadd (d : BitVec 7) (a : BitVec 7) (b : BitVec 7)
  /-- Scalar wrapping subtract (R183) -/
  | ssub (d : BitVec 7) (a : BitVec 7) (b : BitVec 7)
  /-- Scalar low 64-bit product (R183) -/
  | smul (d : BitVec 7) (a : BitVec 7) (b : BitVec 7)
  /-- Scalar high 64 bits of the signed product (R183) -/
  | smulhi (d : BitVec 7) (a : BitVec 7) (b : BitVec 7)
  /-- Scalar bitwise and (R183) -/
  | sand (d : BitVec 7) (a : BitVec 7) (b : BitVec 7)
  /-- Scalar bitwise or (R183) -/
  | sor (d : BitVec 7) (a : BitVec 7) (b : BitVec 7)
  /-- Scalar bitwise xor (R183) -/
  | sxor (d : BitVec 7) (a : BitVec 7) (b : BitVec 7)
  /-- Scalar left shift (R183) -/
  | sshl (d : BitVec 7) (a : BitVec 7) (b : BitVec 7)
  /-- Scalar logical right shift (R183) -/
  | sshr (d : BitVec 7) (a : BitVec 7) (b : BitVec 7)
  /-- Scalar arithmetic right shift (R183) -/
  | ssar (d : BitVec 7) (a : BitVec 7) (b : BitVec 7)
  /-- Scalar signed minimum (R183) -/
  | smin (d : BitVec 7) (a : BitVec 7) (b : BitVec 7)
  /-- Scalar signed maximum (R183) -/
  | smax (d : BitVec 7) (a : BitVec 7) (b : BitVec 7)
  /-- Scalar unsigned minimum (R183) -/
  | sminn (d : BitVec 7) (a : BitVec 7) (b : BitVec 7)
  /-- Scalar unsigned maximum (R183) -/
  | smaxn (d : BitVec 7) (a : BitVec 7) (b : BitVec 7)
  /-- Scalar equality test giving 1 or 0 (R183) -/
  | seq (d : BitVec 7) (a : BitVec 7) (b : BitVec 7)
  /-- Scalar inequality test (R183) -/
  | sne (d : BitVec 7) (a : BitVec 7) (b : BitVec 7)
  /-- Scalar signed less-than (R183) -/
  | slt (d : BitVec 7) (a : BitVec 7) (b : BitVec 7)
  /-- Scalar signed less-or-equal (R183) -/
  | sle (d : BitVec 7) (a : BitVec 7) (b : BitVec 7)
  /-- Scalar unsigned less-than (R183) -/
  | sltn (d : BitVec 7) (a : BitVec 7) (b : BitVec 7)
  /-- Scalar unsigned less-or-equal (R183) -/
  | slen (d : BitVec 7) (a : BitVec 7) (b : BitVec 7)
  /-- Scalar move (R183) -/
  | smov (d : BitVec 7) (a : BitVec 7)
  /-- Scalar unsigned divide, all ones on division by zero (R183) -/
  | sdivn (d : BitVec 7) (a : BitVec 7) (b : BitVec 7)
  /-- Scalar unsigned remainder (R183) -/
  | sremn (d : BitVec 7) (a : BitVec 7) (b : BitVec 7)
  /-- Scalar leading zero count (R183) -/
  | sclz (d : BitVec 7) (a : BitVec 7)
  /-- Scalar population count (R183) -/
  | spopc (d : BitVec 7) (a : BitVec 7)
  /-- Selects a or b by whether the old s[D] is non-zero (R183) -/
  | ssel (d : BitVec 7) (a : BitVec 7) (b : BitVec 7)
  /-- Reads a special register into a scalar register (R180) -/
  | rdsr (d : BitVec 7) (n : BitVec 7)
  /-- Writes MODE or FLAGS from a scalar register (R180) -/
  | wrsr (n : BitVec 7) (a : BitVec 7)
  /-- Writes the 64-bit meridian count to a scalar register (R181) -/
  | time (d : BitVec 7)
  /-- Reads one lane of a vector register into a scalar register (R182) -/
  | rdlane (d : BitVec 7) (a : BitVec 7) (b : BitVec 7)
  /-- Writes a scalar value into one lane of a vector register (R182) -/
  | wrlane (d : BitVec 7) (a : BitVec 7) (b : BitVec 7)
  /-- Predicate and with optional negations (R186) -/
  | pand (d : BitVec 3) (a : BitVec 3) (x : BitVec 1) (b : BitVec 3) (y : BitVec 1)
  /-- Predicate or with optional negations (R186) -/
  | por (d : BitVec 3) (a : BitVec 3) (x : BitVec 1) (b : BitVec 3) (y : BitVec 1)
  /-- Predicate xor with optional negations (R186) -/
  | pxor (d : BitVec 3) (a : BitVec 3) (x : BitVec 1) (b : BitVec 3) (y : BitVec 1)
  /-- Sets a predicate where va is non-zero (R186) -/
  | pset (d : BitVec 3) (a : BitVec 7)
  /-- Writes 1 or 0 into vd from a predicate (R186) -/
  | pget (d : BitVec 7) (a : BitVec 3) (n : BitVec 1)
  /-- Sets a predicate from the bits of a scalar lane mask (R186) -/
  | pmask (d : BitVec 3) (a : BitVec 7) (h : BitVec 1)
  /-- Reads a system register into a scalar register (R324) -/
  | mfsr (d : BitVec 7) (n : BitVec 7)
  /-- Writes a scalar register to a system register (R324) -/
  | mtsr (n : BitVec 7) (a : BitVec 7)
  /-- Removes every translation from every TLB of the device (R325) -/
  | tlbinvAll (a : BitVec 7)
  /-- Removes every translation of one context (R325) -/
  | tlbinvCtx (a : BitVec 7)
  /-- Removes every entry covering one 64 KiB page of a context (R325) -/
  | tlbinvPage (a : BitVec 7)
  /-- Writes back dirty sectors of a physical range in every L1 and LLC slice (R326) -/
  | cchopWb (d : BitVec 7) (a : BitVec 7)
  /-- Writes back and invalidates every line of a physical range (R326) -/
  | cchopWbinv (d : BitVec 7) (a : BitVec 7)
  /-- Invalidates every line of a range, discarding dirty data and pending deferred faults (R326) -/
  | cchopInv (d : BitVec 7) (a : BitVec 7)
  /-- Clears the keep mark of every line of a range (R326) -/
  | cchopUnkeep (d : BitVec 7) (a : BitVec 7)
  /-- Makes every block latch its snapshot on one meridian tick and returns that tick (R327) -/
  | survey (d : BitVec 7) (a : BitVec 7)
  /-- Blocks the running group until a selected EVPEND bit is set (R328) -/
  | halt (a : BitVec 7)
  /-- Pre-empts the unit holding a crew slot and writes its image to a keep address (R329) -/
  | cxsave (d : BitVec 7) (a : BitVec 7)
  /-- Resumes a unit from its image on chosen or distributor-chosen cores (R329) -/
  | cxrest (d : BitVec 7) (a : BitVec 7)
  /-- Returns marked threads from the system handler to SYSPC (R322) -/
  | sret
  /-- Holds new flits at both ends of the selected link until flits in flight complete (R334) -/
  | lnkctlPause (d : BitVec 7) (a : BitVec 7)
  /-- Lets traffic and queued turns of a paused link proceed (R334) -/
  | lnkctlResume (d : BitVec 7) (a : BitVec 7)
  /-- Moves one lane's traffic to its group's spare lane on a paused link (R389) -/
  | lnkctlSpare (d : BitVec 7) (a : BitVec 7)
  /-- Retrains one lane group of a paused link at x16, x8 or x4, keeping its direction (R390) -/
  | lnkctlWidth (d : BitVec 7) (a : BitVec 7)
  /-- Clears the retry counters of the selected link (R334) -/
  | lnkctlClrretry (d : BitVec 7) (a : BitVec 7)
  /-- Reads the owner, state, way, slice and code of a line in its home slice (R332) -/
  | errrd (d : BitVec 7) (a : BitVec 7)
  /-- Creates a residency from a descriptor, placing compute banks on each named core (R333) -/
  | retainCreate (d : BitVec 7) (a : BitVec 7)
  /-- Destroys a residency, zeroing and freeing its banks (R333) -/
  | retainDestroy (d : BitVec 7) (a : BitVec 7)
  /-- Returns the banks per core of a residency (R333) -/
  | retainQuery (d : BitVec 7) (a : BitVec 7)
  /-- Reads a line's compression metadata code (R330) -/
  | mcctlMetard (d : BitVec 7) (a : BitVec 7)
  /-- Writes a line's metadata code as raw or poisoned (R330) -/
  | mcctlMetawr (d : BitVec 7) (a : BitVec 7)
  /-- Copies a page to a spare page and redirects all later accesses to it (R330) -/
  | mcctlRetire (d : BitVec 7) (a : BitVec 7)
  /-- Writes back, invalidates and stops allocation in the selected LLC way (R331) -/
  | wayctlQuar (d : BitVec 7)
  /-- Lets a quarantined way allocate again, empty (R331) -/
  | wayctlRelease (d : BitVec 7)
  /-- Invalidates every line of the selected way, discarding dirty data (R331) -/
  | wayctlDiscard (d : BitVec 7)
  /-- Raises user trap 0x01 with s[A] in TRAPINFO (R187) -/
  | trap (a : BitVec 7)
  /-- Returns marked threads from a user trap handler to TRAPNEXT, restoring guard windows (R188) -/
  | rett
  /-- Adds a sign-extended immediate (R199) -/
  | addi (d : BitVec 7) (a : BitVec 7) (imm : BitVec 10)
  /-- Ands with a sign-extended immediate (R199) -/
  | andi (d : BitVec 7) (a : BitVec 7) (imm : BitVec 10)
  /-- Ors with a sign-extended immediate (R199) -/
  | ori (d : BitVec 7) (a : BitVec 7) (imm : BitVec 10)
  /-- Xors with a sign-extended immediate (R199) -/
  | xori (d : BitVec 7) (a : BitVec 7) (imm : BitVec 10)
  /-- Left shift by an immediate 0–31 (R199) -/
  | shli (d : BitVec 7) (a : BitVec 7) (imm : BitVec 10)
  /-- Logical right shift by an immediate (R199) -/
  | shri (d : BitVec 7) (a : BitVec 7) (imm : BitVec 10)
  /-- Arithmetic right shift by an immediate (R199) -/
  | sari (d : BitVec 7) (a : BitVec 7) (imm : BitVec 10)
  /-- Multiplies by a sign-extended immediate (R199) -/
  | muli (d : BitVec 7) (a : BitVec 7) (imm : BitVec 10)
  /-- Writes a predicate from a comparison with an immediate (R196) -/
  | setpi (p : BitVec 3) (c : BitVec 4) (a : BitVec 7) (imm : BitVec 10)
  /-- Writes an immediate, widened by an ext prefix, to vd (R199) -/
  | movi (d : BitVec 7) (imm : BitVec 10)
  /-- Looks up bytes of a per-thread register table by index bytes (R200) -/
  | tlu (d : BitVec 7) (a : BitVec 7) (t : BitVec 7) (n : BitVec 3)
  /-- Adds the immediate times the lane number (R199) -/
  | lidx (d : BitVec 7) (a : BitVec 7) (imm : BitVec 10)
  /-- Scalar add of a sign-extended immediate (R184) -/
  | saddi (d : BitVec 7) (a : BitVec 7) (imm : BitVec 10)
  /-- Scalar and with an immediate (R184) -/
  | sandi (d : BitVec 7) (a : BitVec 7) (imm : BitVec 10)
  /-- Scalar or with an immediate (R184) -/
  | sori (d : BitVec 7) (a : BitVec 7) (imm : BitVec 10)
  /-- Scalar xor with an immediate (R184) -/
  | sxori (d : BitVec 7) (a : BitVec 7) (imm : BitVec 10)
  /-- Scalar left shift by an immediate 0–63 (R184) -/
  | sshli (d : BitVec 7) (a : BitVec 7) (imm : BitVec 10)
  /-- Scalar logical right shift by an immediate (R184) -/
  | sshri (d : BitVec 7) (a : BitVec 7) (imm : BitVec 10)
  /-- Scalar arithmetic right shift by an immediate (R184) -/
  | ssari (d : BitVec 7) (a : BitVec 7) (imm : BitVec 10)
  /-- Scalar multiply by an immediate (R184) -/
  | smuli (d : BitVec 7) (a : BitVec 7) (imm : BitVec 10)
  /-- Scalar equality with an immediate (R184) -/
  | seqi (d : BitVec 7) (a : BitVec 7) (imm : BitVec 10)
  /-- Scalar signed less-than an immediate (R184) -/
  | slti (d : BitVec 7) (a : BitVec 7) (imm : BitVec 10)
  /-- Scalar unsigned less-than an immediate (R184) -/
  | sltni (d : BitVec 7) (a : BitVec 7) (imm : BitVec 10)
  /-- Branches every thread of the running group to a relative target (R170) -/
  | bra (x : BitVec 24)
  /-- Branches every thread and writes the return address to v126 (R170) -/
  | call (x : BitVec 24)
  /-- Branches each thread whose predicate differs from the negate bit (R170) -/
  | brp (p : BitVec 3) (n : BitVec 1) (x : BitVec 20)
  /-- Branches every thread when a scalar register is zero (R170) -/
  | bsz (r : BitVec 6) (x : BitVec 18)
  /-- Branches every thread when a scalar register is non-zero (R170) -/
  | bsnz (r : BitVec 6) (x : BitVec 18)
  /-- Writes a sign-extended 18-bit immediate to a scalar register (R185) -/
  | li (r : BitVec 6) (imm : BitVec 18)
  /-- Prefix carrying a 24-bit extension payload for the following instruction (R148) -/
  | ext (x : BitVec 24)
  /-- Blocks until each waited counter is at or below its threshold, then consumes class errors (R176) -/
  | wait (l : BitVec 5) (sc : BitVec 5) (c : BitVec 5) (t : BitVec 5) (a : BitVec 4)
  /-- Branches each thread through an offset table indexed by a vector register (R172) -/
  | brx (x : BitVec 7) (t : BitVec 6)
  /-- Calls through an offset table, writing v126 (R172) -/
  | callx (x : BitVec 7) (t : BitVec 6)
  /-- Arrives at a crew barrier and blocks until the generation completes (R236) -/
  | barSync (b : BitVec 4) (n : BitVec 6)
  /-- Arrives at a crew barrier without waiting (R236) -/
  | barArrive (b : BitVec 4) (n : BitVec 6)
  /-- Blocks until the generation in which the squad last arrived completes (R236) -/
  | barWait (b : BitVec 4)
  /-- Arrives at a team barrier and blocks until the generation completes (R236) -/
  | tbarSync (b : BitVec 2) (n : BitVec 6)
  /-- Arrives at a team barrier without waiting (R236) -/
  | tbarArrive (b : BitVec 2) (n : BitVec 6)
  /-- Blocks until the squad's team-barrier generation completes (R236) -/
  | tbarWait (b : BitVec 2)
  /-- Writes MODE fields under their own write enables (R179) -/
  | setmode (r : BitVec 2) (z : BitVec 1) (t : BitVec 5) (w : BitVec 1) (fm : BitVec 1) (en : BitVec 5)
  /-- Loads from global memory into vector registers of each enabled lane (R223) -/
  | ld (w : BitVec 3) (d : BitVec 7) (a : BitVec 7) (b : BitVec 7)
  /-- Stores vector registers of each enabled lane to global memory (R223) -/
  | st (w : BitVec 3) (d : BitVec 7) (a : BitVec 7) (b : BitVec 7)
  /-- Loads from the crew's scratchpad, optionally pushing a .last handle at retirement (R223) -/
  | lds (w : BitVec 3) (d : BitVec 7) (a : BitVec 7) (b : BitVec 7)
  /-- Stores to the crew's scratchpad (R223) -/
  | sts (w : BitVec 3) (d : BitVec 7) (a : BitVec 7) (b : BitVec 7)
  /-- Loads from the team peer's scratchpad (R227) -/
  | ldt (w : BitVec 3) (d : BitVec 7) (a : BitVec 7) (b : BitVec 7)
  /-- Stores to the team peer's scratchpad (R227) -/
  | stt (w : BitVec 3) (d : BitVec 7) (a : BitVec 7) (b : BitVec 7)
  /-- Scalar load from global memory at s[B] + s[A] (R222) -/
  | sld (w : BitVec 3) (d : BitVec 7) (a : BitVec 7) (b : BitVec 7)
  /-- Scalar store to global memory at s[B] + s[A] (R222) -/
  | sst (w : BitVec 3) (d : BitVec 7) (a : BitVec 7) (b : BitVec 7)
  /-- Atomic wrapping 32-bit add, lanes combined in ascending order (R229) -/
  | atomAdd (d : BitVec 7) (a : BitVec 7) (b : BitVec 7)
  /-- Atomic signed 32-bit minimum (R229) -/
  | atomMinI32 (d : BitVec 7) (a : BitVec 7) (b : BitVec 7)
  /-- Atomic signed 32-bit maximum (R229) -/
  | atomMaxI32 (d : BitVec 7) (a : BitVec 7) (b : BitVec 7)
  /-- Atomic unsigned 32-bit minimum (R229) -/
  | atomMinN32 (d : BitVec 7) (a : BitVec 7) (b : BitVec 7)
  /-- Atomic unsigned 32-bit maximum (R229) -/
  | atomMaxN32 (d : BitVec 7) (a : BitVec 7) (b : BitVec 7)
  /-- Atomic 32-bit and (R229) -/
  | atomAnd (d : BitVec 7) (a : BitVec 7) (b : BitVec 7)
  /-- Atomic 32-bit or (R229) -/
  | atomOr (d : BitVec 7) (a : BitVec 7) (b : BitVec 7)
  /-- Atomic 32-bit xor (R229) -/
  | atomXor (d : BitVec 7) (a : BitVec 7) (b : BitVec 7)
  /-- Atomic 32-bit exchange (R229) -/
  | atom2Exch (d : BitVec 7) (a : BitVec 7) (b : BitVec 7)
  /-- Atomic 32-bit compare-and-swap (R229) -/
  | atom2Cas (d : BitVec 7) (a : BitVec 7) (b : BitVec 7)
  /-- Atomic FP32 add combining lanes in lane order with nearest-even rounding (R230) -/
  | atom2FaddF32 (d : BitVec 7) (a : BitVec 7) (b : BitVec 7)
  /-- Atomic FP32 minimumNumber (R229) -/
  | atom2FminF32 (d : BitVec 7) (a : BitVec 7) (b : BitVec 7)
  /-- Atomic FP32 maximumNumber (R229) -/
  | atom2FmaxF32 (d : BitVec 7) (a : BitVec 7) (b : BitVec 7)
  /-- Atomic wrapping 64-bit add (R229) -/
  | atom2AddI64 (d : BitVec 7) (a : BitVec 7) (b : BitVec 7)
  /-- Atomic 64-bit exchange (R229) -/
  | atom2ExchB64 (d : BitVec 7) (a : BitVec 7) (b : BitVec 7)
  /-- Atomic 64-bit compare-and-swap (R229) -/
  | atom2CasB64 (d : BitVec 7) (a : BitVec 7) (b : BitVec 7)
  /-- Scalar atomic on global memory with one operand and one old value (R231) -/
  | satom (fm : BitVec 3) (d : BitVec 7) (a : BitVec 7) (b : BitVec 7)
  /-- Atomic on the crew's scratchpad, performed in its bank (R228) -/
  | atoms (fm : BitVec 3) (d : BitVec 7) (a : BitVec 7) (b : BitVec 7)
  /-- Orders the running group's accesses at a scope, optionally first waiting for all outstanding operations (R233) -/
  | fence (sc : BitVec 3) (o : BitVec 3) (y : BitVec 1)
  /-- Prefetches each enabled lane's sector into the L1 or LLC, dropped when it cannot translate (R234) -/
  | pref (l : BitVec 1) (a : BitVec 7) (b : BitVec 7)
  /-- Appends a value to a crew queue, blocking while it is full (R238) -/
  | qpush (d : BitVec 7) (q : BitVec 4)
  /-- Appends a value and push time to a span queue at its home, blocking while full (R241) -/
  | qpushSpan (d : BitVec 7) (a : BitVec 7)
  /-- Appends to a crew queue if a slot is free, reporting success (R238) -/
  | qpushTry (d : BitVec 7) (q : BitVec 4) (b : BitVec 7)
  /-- Appends to a span queue if room exists, reporting success (R241) -/
  | qpushSpanTry (d : BitVec 7) (a : BitVec 7) (b : BitVec 7)
  /-- Removes the oldest entry of a crew queue, blocking while it is empty (R238) -/
  | qpop (d : BitVec 7) (q : BitVec 4)
  /-- Removes the oldest span-queue entry with its push time, blocking while empty (R241) -/
  | qpopSpan (d : BitVec 7) (a : BitVec 7)
  /-- Removes a crew-queue entry if present, reporting success (R238) -/
  | qpopTry (d : BitVec 7) (q : BitVec 4) (b : BitVec 7)
  /-- Removes a span-queue entry if present, reporting success (R241) -/
  | qpopSpanTry (d : BitVec 7) (a : BitVec 7) (b : BitVec 7)
  /-- Adds to a span semaphore at its home with release (R244) -/
  | semAdd (d : BitVec 7) (a : BitVec 7)
  /-- Blocks until a span semaphore reaches a threshold, then acquires (R244) -/
  | semWait (d : BitVec 7) (a : BitVec 7) (b : BitVec 7)
  /-- Reads a span semaphore's value without ordering (R244) -/
  | semRead (a : BitVec 7) (b : BitVec 7)
  /-- Submits a launch record to the context's partition and returns the submission status (R245) -/
  | launch (d : BitVec 7) (a : BitVec 7)
  /-- Copies bytes from global memory to scratchpad (R251) -/
  | cpyGs (d : BitVec 7) (a : BitVec 7) (b : BitVec 7)
  /-- Copies bytes from scratchpad to global memory (R251) -/
  | cpySg (d : BitVec 7) (a : BitVec 7) (b : BitVec 7)
  /-- Copies bytes between global ranges (R251) -/
  | cpyGg (d : BitVec 7) (a : BitVec 7) (b : BitVec 7)
  /-- Copies bytes from own scratchpad to the peer's scratchpad (R251) -/
  | cpySp (d : BitVec 7) (a : BitVec 7) (b : BitVec 7)
  /-- Copies a 2-D block from global memory to scratchpad (R252) -/
  | cpyGs2 (d : BitVec 7) (a : BitVec 7) (b : BitVec 7)
  /-- Copies a 2-D block from scratchpad to global memory (R252) -/
  | cpySg2 (d : BitVec 7) (a : BitVec 7) (b : BitVec 7)
  /-- Fetches a range into its home LLC slices and marks the lines kept (R254) -/
  | cpyPin (d : BitVec 7) (a : BitVec 7) (b : BitVec 7)
  /-- Loads bank tile images into a slot of consecutive compute banks (R259) -/
  | bload (fm : BitVec 3) (d : BitVec 7) (a : BitVec 7) (b : BitVec 7)
  /-- Converts a storage bank's tile image bytes into plane layout in place (R260) -/
  | xformToplanes (d : BitVec 7) (a : BitVec 7) (b : BitVec 7)
  /-- Converts a storage bank's planes back to image bytes (R260) -/
  | xformFromplanes (d : BitVec 7) (a : BitVec 7) (b : BitVec 7)
  /-- Fills every word of a bank, or a slot's scale bytes, with a value (R260) -/
  | xformFill (d : BitVec 7) (a : BitVec 7) (b : BitVec 7)
  /-- Zeroes a bank (R260) -/
  | xformZero (d : BitVec 7) (a : BitVec 7) (b : BitVec 7)
  /-- Verifies a compute bank's planes, poisoning mismatches (R260) -/
  | xformChecksum (d : BitVec 7) (a : BitVec 7) (b : BitVec 7)
  /-- Multiplies a scratchpad activation tile by a weight slot in 1–32 banks into accumulator rows (R261) -/
  | tmac (p : BitVec 3) (d : BitVec 7) (a : BitVec 7) (b : BitVec 7)
  /-- Drains accumulator rows through the distiller to global memory in a chosen format (R265) -/
  | tdrain (fm : BitVec 3) (d : BitVec 7) (a : BitVec 7) (b : BitVec 7)
  /-- Zeroes n accumulator rows (R268) -/
  | taccZero (a : BitVec 7) (b : BitVec 7)
  /-- Reads 32 elements of an accumulator row into a vector register (R268) -/
  | taccRead (d : BitVec 7) (a : BitVec 7) (b : BitVec 7)
  /-- Writes a vector register into 32 elements of an accumulator row (R268) -/
  | taccWrite (d : BitVec 7) (a : BitVec 7) (b : BitVec 7)
  /-- Adds n source rows into n accumulator rows (R268) -/
  | taccAdd (d : BitVec 7) (a : BitVec 7) (b : BitVec 7)
  /-- Multiplies every element of n rows by an FP32 multiplier (R268) -/
  | taccScale (d : BitVec 7) (a : BitVec 7) (b : BitVec 7)
  /-- Turns the last storage bank into a compute bank with 96 new accumulator rows (R255) -/
  | bankCompute
  /-- Turns the last own compute bank into a storage bank (R255) -/
  | bankStorage
  /-- Maps the bound residency's banks as logical banks 0 to b − 1 (R255) -/
  | bankAttach
  /-- Unmaps the bound residency's banks (R255) -/
  | bankDetach
  /-- Returns the crew's bank counts or a bank's poison mask (R256) -/
  | bankQuery (d : BitVec 7) (a : BitVec 7)
  /-- Forms one dot product of length L in a fixed summation order (R269) -/
  | dotv (fm : BitVec 3) (d : BitVec 7) (a : BitVec 7) (b : BitVec 7)
  /-- Applies a truth table bitwise to every window element (R273) -/
  | arrLogic (d : BitVec 7) (a : BitVec 7) (b : BitVec 7)
  /-- Adds or subtracts, optionally saturating, in every window element (R273) -/
  | arrAddsub (d : BitVec 7) (a : BitVec 7) (b : BitVec 7)
  /-- Multiplies in every window element (R273) -/
  | arrMul (d : BitVec 7) (a : BitVec 7) (b : BitVec 7)
  /-- Compares in every window element, writing 1 or 0 (R273) -/
  | arrCmp (d : BitVec 7) (a : BitVec 7) (b : BitVec 7)
  /-- Selects b or the old d in every window element (R273) -/
  | arrSel (d : BitVec 7) (a : BitVec 7) (b : BitVec 7)
  /-- Shifts every window element (R273) -/
  | arrShift (d : BitVec 7) (a : BitVec 7) (b : BitVec 7)
  /-- Counts 1 bits in every window element (R273) -/
  | arrPopc (d : BitVec 7) (a : BitVec 7)
  /-- Writes the destination immediate to every window element (R273) -/
  | arrBcast (d : BitVec 7)
  /-- Arms an array window on a way group, filtering, writing back and loading its backing range (R98) -/
  | arrxArm (d : BitVec 7) (a : BitVec 7) (b : BitVec 7)
  /-- Writes a window back to its backing range and returns its way groups to cache (R100) -/
  | arrxDisarm (d : BitVec 7) (a : BitVec 7)
  /-- Loads a range of elements from memory into window rows (R270) -/
  | arrxLoad (d : BitVec 7) (a : BitVec 7) (b : BitVec 7)
  /-- Stores a range of window elements to memory (R270) -/
  | arrxStore (d : BitVec 7) (a : BitVec 7) (b : BitVec 7)
  /-- Fills a range of window elements with an immediate (R270) -/
  | arrxFill (d : BitVec 7) (a : BitVec 7)
  /-- Returns a window's armed state, way group, span and dropped-prefetch count (R271) -/
  | arrxQuery (d : BitVec 7) (a : BitVec 7)
  /-- Copies a stack-capable page within its stack, in DRAM or through the base-die buffer (R275) -/
  | stkRowcopy (d : BitVec 7) (a : BitVec 7) (b : BitVec 7)
  /-- Zeroes a stack-capable page in DRAM (R275) -/
  | stkRowzero (d : BitVec 7) (a : BitVec 7)
  /-- Reports a page's stack, capability and row (R275) -/
  | stkProbe (d : BitVec 7) (a : BitVec 7)
  /-- Queues a turn of an owned link to a new lane-group split (R276) -/
  | lnkTurn (d : BitVec 7) (a : BitVec 7)
  /-- Returns a link's split, queued turns, dead-time state and last turn start (R277) -/
  | lnkStatus (d : BitVec 7) (a : BitVec 7)
  /-- At a boundary where an enabled EVPEND bit is set and HS is 0, squad 0 of the management core enters its handler (R321) -/
  | systemEventDelivery
  /-- When the quantum count reaches 4096 the running group is set aside and the count resets (R41) -/
  | quantumExpiry (sq : Nat)
  /-- A blocked instruction's condition comes to hold, it completes and its thread becomes ready (R42) -/
  | blockedInstructionComplete (sq k : Nat)
  /-- A load's value is written into every enabled lane's destination, possibly with poison marks (R224) -/
  | loadComplete (sq k : Nat)
  /-- A store's bytes are written into the L1, home or bank, or refused with an error (R224) -/
  | storeComplete (sq k : Nat)
  /-- An atomic's updates are applied at their homes and the old values written, or it fails per location (R232) -/
  | atomicComplete (sq k : Nat)
  /-- An engine operation completes, writing its token completion value or result registers (R249) -/
  | engineOperationComplete (sq k : Nat)
  /-- A marked operation's handle is pushed to its crew queue at retirement, waiting while the queue is full (R88) -/
  | lastPush (sq k : Nat)
  /-- After the last exit, every counter reaches zero, any error faults, and the squad retires (R46) -/
  | squadRetire (sq : Nat)
  /-- A request waiting on a not-present page walks again after a covering tlbinv completes (R369) -/
  | notPresentReplay (sq k : Nat)
  /-- The device takes the next ring entry of a work queue and accepts or refuses its launch record (R337) -/
  | workQueueEntryTake (q : Nat)
  /-- At least every 10 µs the device re-evaluates pending dependences (R342) -/
  | dependencePoll
  /-- The distributor places a waiting crew on an allowed core once resources free (R348) -/
  | crewPlacement (g n : Nat) (cores : List Nat)
  /-- USED passes the budget, so the timed grid is demoted and a budget record is written (R347) -/
  | timedBudgetExceeded (g : Nat)
  /-- Every squad stands at a boundary, so outstanding operations are completed or stopped at chunk boundaries (R353) -/
  | preemptDraining (u : Nat)
  /-- Draining ends, so dirty L1 sectors are written back and the image is written to a keep slot (R353) -/
  | preemptSaving (u : Nat)
  /-- The image write ends, freeing cores, banks and slots, or the unit runs again with a record if it faulted (R353) -/
  | preemptSaved (u : Nat)
  /-- At placement the image is read, recorded copy chunks completed and L1 copies invalidated (R353) -/
  | preemptRestoring (u : Nat) (cores : List Nat)
  /-- Restoration ends and the unit is RUNNING again (R353) -/
  | preemptResumed (u : Nat)
  /-- PARTCTL start sets CHIPS to TARGET from OFF (R358) -/
  | partitionStart (p : Nat)
  /-- Every chiplet and its memory reports ready, so the partition becomes RUNNING (R358) -/
  | partitionStartComplete (p : Nat)
  /-- PARTCTL resize checks, opens arriving chiplets and evacuates units on departing cores (R359) -/
  | partitionResize (p : Nat)
  /-- Evacuation ends, departing chiplets leave CHIPS and evacuated units resume (R359) -/
  | resizeRelease (p : Nat)
  /-- The resize finishes: RUNNING, ERR 0 and event 5 (R359) -/
  | resizeDone (p : Nat)
  /-- PARTCTL stop turns a RUNNING partition with no outstanding grids OFF (R358) -/
  | partitionStop (p : Nat)
  /-- PARTCTL end context stops a context's units, disarms its windows and ends its grids in the partition (R358) -/
  | endContext (p ctx : Nat)
  /-- The ending partition returns to RUNNING with ERR set and event 5 (R358) -/
  | endContextComplete (p : Nat)
  /-- A CMD of 5–7 runs nothing and sets ERR 8 with event 5 (R358) -/
  | partctlInvalidCmd (p : Nat)
  /-- A PARTCTL write changing RCORES, RMEM or RLNK is accepted or refused with ERR 3 (R357) -/
  | reservationWrite (p : Nat) (v : BitVec 64)
  /-- A queued turn reaches the head after spacing, pause and training, and its groups drain and go quiet (R386) -/
  | linkTurnStart (n : Nat)
  /-- After 36 ns the turned groups carry in their new direction (R386) -/
  | turnDeadTimeEnd (n : Nat)
  /-- A flit failing its CRC is replayed, counting a retry and blaming a lane (R388) -/
  | flitReplay (n g lane : Nat)
  /-- A 1 ms meridian window ends and replay counting starts a new window (R388) -/
  | retryWindowExpiry
  /-- A span port loses training, is marked down, clears its ready bit and writes a kind 6 record (R400) -/
  | spanPortDown (p : Nat)
  /-- A span port trains again and returns to use in every mask naming it (R400) -/
  | spanPortTrained (p : Nat)
  /-- With no trained port to a peer for 1 ms, its accesses end with poison or errors (R400) -/
  | peerAccessTimeout (peer : Nat)
  /-- An access from a peer device is served at this device's home slice (R400) -/
  | peerRequest (rq : OutsideRequest)
  /-- A host write to HDM is performed at the line's home slice (R398) -/
  | hostHdmWrite (pa : Nat) (bytes : List (BitVec 8)) (bad : Bool)
  /-- A host read of HDM returns the home's value, expanded and with poison marked (R398) -/
  | hostHdmRead (pa n : Nat)
  /-- Any host write to DOORBELL sets EVPEND bit 20 (R397) -/
  | doorbell
  /-- A write to a queue's QCFG that sets EN resets QREAD to QWRITE and clears QERR when valid (R336) -/
  | qcfgWrite (q : Nat) (v : BitVec 64)
  /-- The submitter advances a work queue's write index, making entries available (R337) -/
  | qwriteWrite (q : Nat) (v : BitVec 64)
  /-- A host write to any other BAR0 register or mailbox, or an ignored write (R396) -/
  | bar0Write (off width : Nat) (v : BitVec 64)
  /-- An mtsr of SYSSTAT clears EVPEND bits written 1 and sets EVENA from squad 0 (R319) -/
  | sysstatWrite (v : BitVec 64)
  /-- An mtsr of ERRPOP sets RD and, on setting EN, sets RD to WR (R378) -/
  | errpopWrite (v : BitVec 64)
  /-- An mtsr of MCWIN with EN 1 puts a non-overlapping compression window in force (R330) -/
  | mcwinEnable (v : BitVec 64)
  /-- An mtsr of MCWIN with EN 0 starts rewriting compressed lines raw while BUSY reads 1 (R330) -/
  | mcwinDisable (v : BitVec 64)
  /-- Every compressed line of the window is raw, so EN clears and BUSY drops (R330) -/
  | mcwinExpansionDone (w : Nat)
  /-- An mtsr of SURVEYCTL with CMPEN schedules a compare latch (R407) -/
  | surveyctlWrite (v : BitVec 64)
  /-- The meridian reaches the compare tick, every block latches its snapshot, and AUTO advances CMP (R407) -/
  | surveyCompareLatch
  /-- The 285 snapshot records are written to the area and EVPEND bit 18 is set (R407) -/
  | surveyWriteOutDone
  /-- An mtsr of LNKLANES clears the BAD bits written 1 (R394) -/
  | lnklanesWrite (v : BitVec 64)
  /-- An mtsr of KEEPBASE sets the keep area only while the partition is OFF (R354) -/
  | keepbaseWrite (v : BitVec 64)
  /-- An mtsr of any other system register writes its RW and W1C fields (R324) -/
  | systemRegisterWrite (n : BitVec 7) (v : BitVec 64)
  /-- Every 16 µs the scrubber verifies compute planes, poisoning mismatches with a record (R257) -/
  | planeScrub (bank : Nat)
  /-- Every valid LLC line is scrubbed at least every 100 ms, correcting or poisoning (R375) -/
  | llcScrub (sec : Nat) (finding : Finding)
  /-- Every HBM sector is scrubbed at least every 12 hours (R375) -/
  | hbmScrub (sec : Nat) (finding : Finding)
  /-- An idle bank enters retention after IDLE µs with RETBANK set (R408) -/
  | bankRetentionEntry (bank : Nat)
  /-- A retained bank leaves retention and its planes are verified (R408) -/
  | bankRetentionExit (bank : Nat)
  /-- A way group with four quarantined ways enters retention with RETWAY set (R408) -/
  | wayGroupRetentionEntry (slice g : Nat)
  /-- A retained way group leaves retention (R408) -/
  | wayGroupRetentionExit (slice g : Nat)
  /-- An over-current warning halves the issue rate of ports F0, F1 and E (R409) -/
  | overcurrentWarning
  /-- The warning clears and full issue rate returns (R409) -/
  | overcurrentClear
  /-- The module removes power on a thermal trip (R409) -/
  | thermalTrip
  /-- Power-on starts the bring-up sequence from step 1, keeping no state (R401) -/
  | powerOnReset
  /-- A CXL conventional reset at the host port runs the bring-up sequence from step 1 (R401) -/
  | cxlConventionalReset
  /-- Every die's meridian copy locks within 1 ns of the source and READY0.MERID is set (R401) -/
  | meridianLock
  /-- The root of trust's check of the firmware image ends with a boot status (R404) -/
  | firmwareVerify (status : BitVec 8) (entry : BitVec 64)
  /-- A chiplet, stack, edge die, port or key completes bring-up, sets its ready bit and EVPEND bit 22 (R402) -/
  | functionReady (fn : ReadyFunction)
  /-- Fetched halfwords that form no assigned encoding raise fault 0x40 precisely and stop the squad. Such encodings include an unassigned 16-bit minor, an unassigned class R, I, L or M op, an unassigned SUB or selector, or a bar op of 3 (R150) -/
  | illegalInstructionFault
  deriving DecidableEq, Repr

end Sys2Proof
end

