-- ==== Sys2Proof/Machine/Operands.lean ====
section
/-! DEFINITION. Operand forms: for each instruction the prefixes it accepts, the counter it raises (R61, R113, R146,
R148, R221, R247), the registers it reads and writes, and the conditions on its fields that are known at decode
(R143 to R156). -/

namespace Sys2Proof.Machine

/-- The five counter classes, in the order of the `wait` payload (R61, R62). -/
inductive OpClass where
  | ld | st | cp | tl | ar
  deriving DecidableEq, Repr

/-- The position of a class in CNTS and in wait payloads (R62). -/
def OpClass.index : OpClass → Nat
  | .ld => 0 | .st => 1 | .cp => 2 | .tl => 3 | .ar => 4

/-- The most operations of a class that can be outstanding (R61). -/
def OpClass.max : OpClass → Nat
  | .ar => 14
  | _ => 30

/-- The five classes in the order in which errors are examined (R178). -/
def OpClass.all : List OpClass := [.ld, .st, .cp, .tl, .ar]

/-- What an `ord` before the instruction may say (R112, R113). -/
inductive OrdUse where
  | none | load | store | rmw
  deriving DecidableEq, Repr

/-- What an `ext` before the instruction means (R148). -/
inductive ExtUse where
  | none | tag | fill | imm | last | atomSet
  deriving DecidableEq, Repr

/-- What the issue checks need to know of an instruction. -/
structure Traits where
  guard  : Bool := false          -- accepts a guard (R146)
  ord    : OrdUse := .none        -- accepts an ord (R113)
  ext    : ExtUse := .none        -- accepts an ext (R148)
  cls    : Option OpClass := none -- the counter it raises (R61)
  priv   : Bool := false          -- codes 0xC0 to 0xCD (R314)
  mcStop : Bool := false          -- raises 0x4C on the management core (R316)
  device : Bool := false          -- a device step: never fetched
  sync   : Bool := false          -- waits for the squad's earlier loads and stores (R123, R132)
  obs    : Bool := false          -- waits for the squad's earlier acquires (R116)
  deriving DecidableEq, Repr

/-- Lane instructions (R190). -/
def Traits.lane : Traits := { guard := true }
/-- Conversions with a tensor tag (R208). -/
def Traits.laneTag : Traits := { guard := true, ext := .tag }
/-- movi (R199). -/
def Traits.laneImm : Traits := { guard := true, ext := .imm }
/-- tlu (R200). -/
def Traits.laneFill : Traits := { guard := true, ext := .fill }
/-- Instructions that accept no prefix and count in no counter (R168, R221, R247). -/
def Traits.control : Traits := {  }
/-- System instructions (R323). -/
def Traits.system : Traits := { priv := true }
/-- ld, ldt (R221). -/
def Traits.load : Traits := { guard := true, ord := .load, cls := some .ld }
/-- lds (R221, R87). -/
def Traits.loadLast : Traits := { guard := true, ord := .load, ext := .last, cls := some .ld }
/-- st, sts, stt (R221). -/
def Traits.store : Traits := { guard := true, ord := .store, cls := some .st }
/-- sld (R221). -/
def Traits.sload : Traits := { ord := .load, cls := some .ld }
/-- sst (R221). -/
def Traits.sstore : Traits := { ord := .store, cls := some .st }
/-- atom, atom2 (R221). -/
def Traits.atomic : Traits := { guard := true, ord := .rmw, cls := some .ld }
/-- atoms (R221). -/
def Traits.atomicS : Traits := { guard := true, ord := .rmw, ext := .atomSet, cls := some .ld }
/-- satom (R221). -/
def Traits.satomic : Traits := { ord := .rmw, ext := .atomSet, cls := some .ld }
/-- Instructions that synchronise (R123, R132). -/
def Traits.synch : Traits := { sync := true }
/-- Instructions that read shared state at issue. -/
def Traits.observe : Traits := { obs := true }
/-- pref (R234). -/
def Traits.pref : Traits := { guard := true }
/-- CP operations without a mark (R247). -/
def Traits.copy : Traits := { cls := some .cp }
/-- cpy from scratchpad (R87). -/
def Traits.copyLast : Traits := { ext := .last, cls := some .cp }
/-- bload (R259, R316). -/
def Traits.bankCopy : Traits := { cls := some .cp, mcStop := true }
/-- TL operations (R247, R316). -/
def Traits.tile : Traits := { cls := some .tl, mcStop := true }
/-- tmac (R87, R316). -/
def Traits.tileLast : Traits := { ext := .last, cls := some .tl, mcStop := true }
/-- bank (R255, R316). -/
def Traits.bank : Traits := { mcStop := true }
/-- AR operations (R247, R316). -/
def Traits.array : Traits := { cls := some .ar, mcStop := true }
/-- Device steps (spec/95). -/
def Traits.devStep : Traits := { device := true }

/-- The traits of each instruction. -/
def traitsOf : Instr → Traits
  | .mov16 _ _ => .lane
  | .add16 _ _ => .lane
  | .sub16 _ _ => .lane
  | .mul16 _ _ => .lane
  | .and16 _ _ => .lane
  | .or16 _ _ => .lane
  | .xor16 _ _ => .lane
  | .shl16 _ _ => .lane
  | .shr16 _ _ => .lane
  | .sar16 _ _ => .lane
  | .fadd16 _ _ => .lane
  | .fsub16 _ _ => .lane
  | .fmul16 _ _ => .lane
  | .fmin16 _ _ => .lane
  | .fmax16 _ _ => .lane
  | .fneg16 _ _ => .lane
  | .nop => .control
  | .guard _ _ _ => .control
  | .ord _ _ => .control
  | .yield => .control
  | .exit => .control
  | .ret => .control
  | .brk _ => .control
  | .wait0 _ => .control
  | .add _ _ _ => .lane
  | .addS _ _ _ => .lane
  | .sub _ _ _ => .lane
  | .subS _ _ _ => .lane
  | .mul _ _ _ => .lane
  | .mulS _ _ _ => .lane
  | .mulhiI32 _ _ _ => .lane
  | .mulhiI32S _ _ _ => .lane
  | .mulhiN32 _ _ _ => .lane
  | .mulhiN32S _ _ _ => .lane
  | .and _ _ _ => .lane
  | .andS _ _ _ => .lane
  | .or _ _ _ => .lane
  | .orS _ _ _ => .lane
  | .xor _ _ _ => .lane
  | .xorS _ _ _ => .lane
  | .shl _ _ _ => .lane
  | .shlS _ _ _ => .lane
  | .shr _ _ _ => .lane
  | .shrS _ _ _ => .lane
  | .sar _ _ _ => .lane
  | .sarS _ _ _ => .lane
  | .minI32 _ _ _ => .lane
  | .minI32S _ _ _ => .lane
  | .maxI32 _ _ _ => .lane
  | .maxI32S _ _ _ => .lane
  | .minN32 _ _ _ => .lane
  | .minN32S _ _ _ => .lane
  | .maxN32 _ _ _ => .lane
  | .maxN32S _ _ _ => .lane
  | .addsatI32 _ _ _ => .lane
  | .addsatI32S _ _ _ => .lane
  | .subsatI32 _ _ _ => .lane
  | .subsatI32S _ _ _ => .lane
  | .mad _ _ _ => .lane
  | .madS _ _ _ => .lane
  | .prmt _ _ _ => .lane
  | .prmtS _ _ _ => .lane
  | .bfe _ _ _ => .lane
  | .bfeS _ _ _ => .lane
  | .bfi _ _ _ => .lane
  | .bfiS _ _ _ => .lane
  | .setp _ _ _ _ => .lane
  | .setpS _ _ _ _ => .lane
  | .selp _ _ _ _ => .lane
  | .popc _ _ => .lane
  | .clz _ _ => .lane
  | .brev _ _ => .lane
  | .abs _ _ => .lane
  | .neg _ _ => .lane
  | .not _ _ => .lane
  | .mov _ _ => .lane
  | .movs _ _ => .lane
  | .sext _ _ _ => .lane
  | .movx _ _ => .lane
  | .movxr _ _ => .lane
  | .fadd _ _ _ => .lane
  | .faddS _ _ _ => .lane
  | .fsub _ _ _ => .lane
  | .fsubS _ _ _ => .lane
  | .fmul _ _ _ => .lane
  | .fmulS _ _ _ => .lane
  | .ffma _ _ _ => .lane
  | .ffmaS _ _ _ => .lane
  | .fnma _ _ _ => .lane
  | .fnmaS _ _ _ => .lane
  | .fmin _ _ _ => .lane
  | .fminS _ _ _ => .lane
  | .fmax _ _ _ => .lane
  | .fmaxS _ _ _ => .lane
  | .fsetp _ _ _ _ => .lane
  | .fsetpS _ _ _ _ => .lane
  | .fdiv _ _ _ => .lane
  | .fdivS _ _ _ => .lane
  | .fabs _ _ => .lane
  | .fneg _ _ => .lane
  | .frcp _ _ => .lane
  | .frsq _ _ => .lane
  | .fsqrt _ _ => .lane
  | .fex2 _ _ => .lane
  | .flg2 _ _ => .lane
  | .fsin _ _ => .lane
  | .fcos _ _ => .lane
  | .ftanh _ _ => .lane
  | .frnd _ _ _ => .lane
  | .fclass _ _ => .lane
  | .hadd2 _ _ _ => .lane
  | .hadd2S _ _ _ => .lane
  | .hmul2 _ _ _ => .lane
  | .hmul2S _ _ _ => .lane
  | .hfma2 _ _ _ => .lane
  | .hfma2S _ _ _ => .lane
  | .badd2 _ _ _ => .lane
  | .badd2S _ _ _ => .lane
  | .bmul2 _ _ _ => .lane
  | .bmul2S _ _ _ => .lane
  | .bfma2 _ _ _ => .lane
  | .bfma2S _ _ _ => .lane
  | .dot2 _ _ _ => .lane
  | .dot2S _ _ _ => .lane
  | .idot4 _ _ _ => .lane
  | .idot4S _ _ _ => .lane
  | .cvtfi _ _ _ => .laneTag
  | .cvtif _ _ _ => .laneTag
  | .cvtff _ _ _ => .laneTag
  | .cvtpk _ _ _ => .laneTag
  | .cvtup _ _ _ => .lane
  | .mxscale _ _ _ => .lane
  | .mxq _ _ _ => .laneTag
  | .shflIdx _ _ _ => .lane
  | .shflXor _ _ _ => .lane
  | .shflUp _ _ _ => .lane
  | .shflDn _ _ _ => .lane
  | .redsq _ _ _ => .lane
  | .scan _ _ _ => .lane
  | .voteBallot _ _ _ => .lane
  | .voteAll _ _ _ => .lane
  | .voteAny _ _ _ => .lane
  | .voteUni _ _ _ => .lane
  | .voteBallotHi _ _ _ => .lane
  | .matchAny _ _ => .lane
  | .matchFirst _ _ => .lane
  | .sadd _ _ _ => .control
  | .ssub _ _ _ => .control
  | .smul _ _ _ => .control
  | .smulhi _ _ _ => .control
  | .sand _ _ _ => .control
  | .sor _ _ _ => .control
  | .sxor _ _ _ => .control
  | .sshl _ _ _ => .control
  | .sshr _ _ _ => .control
  | .ssar _ _ _ => .control
  | .smin _ _ _ => .control
  | .smax _ _ _ => .control
  | .sminn _ _ _ => .control
  | .smaxn _ _ _ => .control
  | .seq _ _ _ => .control
  | .sne _ _ _ => .control
  | .slt _ _ _ => .control
  | .sle _ _ _ => .control
  | .sltn _ _ _ => .control
  | .slen _ _ _ => .control
  | .smov _ _ => .control
  | .sdivn _ _ _ => .control
  | .sremn _ _ _ => .control
  | .sclz _ _ => .control
  | .spopc _ _ => .control
  | .ssel _ _ _ => .control
  | .rdsr _ _ => .control
  | .wrsr _ _ => .control
  | .time _ => .control
  | .rdlane _ _ _ => .control
  | .wrlane _ _ _ => .control
  | .pand _ _ _ _ _ => .control
  | .por _ _ _ _ _ => .control
  | .pxor _ _ _ _ _ => .control
  | .pset _ _ => .control
  | .pget _ _ _ => .control
  | .pmask _ _ _ => .control
  | .mfsr _ _ => .system
  | .mtsr _ _ => .system
  | .tlbinvAll _ => .system
  | .tlbinvCtx _ => .system
  | .tlbinvPage _ => .system
  | .cchopWb _ _ => .system
  | .cchopWbinv _ _ => .system
  | .cchopInv _ _ => .system
  | .cchopUnkeep _ _ => .system
  | .survey _ _ => .system
  | .halt _ => .system
  | .cxsave _ _ => .system
  | .cxrest _ _ => .system
  | .sret => .system
  | .lnkctlPause _ _ => .system
  | .lnkctlResume _ _ => .system
  | .lnkctlSpare _ _ => .system
  | .lnkctlWidth _ _ => .system
  | .lnkctlClrretry _ _ => .system
  | .errrd _ _ => .system
  | .retainCreate _ _ => .system
  | .retainDestroy _ _ => .system
  | .retainQuery _ _ => .system
  | .mcctlMetard _ _ => .system
  | .mcctlMetawr _ _ => .system
  | .mcctlRetire _ _ => .system
  | .wayctlQuar _ => .system
  | .wayctlRelease _ => .system
  | .wayctlDiscard _ => .system
  | .trap _ => .control
  | .rett => .control
  | .addi _ _ _ => .lane
  | .andi _ _ _ => .lane
  | .ori _ _ _ => .lane
  | .xori _ _ _ => .lane
  | .shli _ _ _ => .lane
  | .shri _ _ _ => .lane
  | .sari _ _ _ => .lane
  | .muli _ _ _ => .lane
  | .setpi _ _ _ _ => .lane
  | .movi _ _ => .laneImm
  | .tlu _ _ _ _ => .laneFill
  | .lidx _ _ _ => .lane
  | .saddi _ _ _ => .control
  | .sandi _ _ _ => .control
  | .sori _ _ _ => .control
  | .sxori _ _ _ => .control
  | .sshli _ _ _ => .control
  | .sshri _ _ _ => .control
  | .ssari _ _ _ => .control
  | .smuli _ _ _ => .control
  | .seqi _ _ _ => .control
  | .slti _ _ _ => .control
  | .sltni _ _ _ => .control
  | .bra _ => .control
  | .call _ => .control
  | .brp _ _ _ => .control
  | .bsz _ _ => .control
  | .bsnz _ _ => .control
  | .li _ _ => .control
  | .ext _ => .control
  | .wait _ _ _ _ _ => .control
  | .brx _ _ => .observe
  | .callx _ _ => .observe
  | .barSync _ _ => .synch
  | .barArrive _ _ => .synch
  | .barWait _ => .observe
  | .tbarSync _ _ => .synch
  | .tbarArrive _ _ => .synch
  | .tbarWait _ => .observe
  | .setmode _ _ _ _ _ _ => .control
  | .ld _ _ _ _ => .load
  | .st _ _ _ _ => .store
  | .lds _ _ _ _ => .loadLast
  | .sts _ _ _ _ => .store
  | .ldt _ _ _ _ => .load
  | .stt _ _ _ _ => .store
  | .sld _ _ _ _ => .sload
  | .sst _ _ _ _ => .sstore
  | .atomAdd _ _ _ => .atomic
  | .atomMinI32 _ _ _ => .atomic
  | .atomMaxI32 _ _ _ => .atomic
  | .atomMinN32 _ _ _ => .atomic
  | .atomMaxN32 _ _ _ => .atomic
  | .atomAnd _ _ _ => .atomic
  | .atomOr _ _ _ => .atomic
  | .atomXor _ _ _ => .atomic
  | .atom2Exch _ _ _ => .atomic
  | .atom2Cas _ _ _ => .atomic
  | .atom2FaddF32 _ _ _ => .atomic
  | .atom2FminF32 _ _ _ => .atomic
  | .atom2FmaxF32 _ _ _ => .atomic
  | .atom2AddI64 _ _ _ => .atomic
  | .atom2ExchB64 _ _ _ => .atomic
  | .atom2CasB64 _ _ _ => .atomic
  | .satom _ _ _ _ => .satomic
  | .atoms _ _ _ _ => .atomicS
  | .fence _ _ _ => .control
  | .pref _ _ _ => .pref
  | .qpush _ _ => .synch
  | .qpushSpan _ _ => .synch
  | .qpushTry _ _ _ => .synch
  | .qpushSpanTry _ _ _ => .synch
  | .qpop _ _ => .observe
  | .qpopSpan _ _ => .observe
  | .qpopTry _ _ _ => .observe
  | .qpopSpanTry _ _ _ => .observe
  | .semAdd _ _ => .synch
  | .semWait _ _ _ => .observe
  | .semRead _ _ => .observe
  | .launch _ _ => .synch
  | .cpyGs _ _ _ => .copy
  | .cpySg _ _ _ => .copyLast
  | .cpyGg _ _ _ => .copy
  | .cpySp _ _ _ => .copyLast
  | .cpyGs2 _ _ _ => .copy
  | .cpySg2 _ _ _ => .copyLast
  | .cpyPin _ _ _ => .copy
  | .bload _ _ _ _ => .bankCopy
  | .xformToplanes _ _ _ => .copy
  | .xformFromplanes _ _ _ => .copy
  | .xformFill _ _ _ => .copy
  | .xformZero _ _ _ => .copy
  | .xformChecksum _ _ _ => .copy
  | .tmac _ _ _ _ => .tileLast
  | .tdrain _ _ _ _ => .tile
  | .taccZero _ _ => .tile
  | .taccRead _ _ _ => .tile
  | .taccWrite _ _ _ => .tile
  | .taccAdd _ _ _ => .tile
  | .taccScale _ _ _ => .tile
  | .bankCompute => .bank
  | .bankStorage => .bank
  | .bankAttach => .bank
  | .bankDetach => .bank
  | .bankQuery _ _ => .bank
  | .dotv _ _ _ _ => .tile
  | .arrLogic _ _ _ => .array
  | .arrAddsub _ _ _ => .array
  | .arrMul _ _ _ => .array
  | .arrCmp _ _ _ => .array
  | .arrSel _ _ _ => .array
  | .arrShift _ _ _ => .array
  | .arrPopc _ _ => .array
  | .arrBcast _ => .array
  | .arrxArm _ _ _ => .array
  | .arrxDisarm _ _ => .array
  | .arrxLoad _ _ _ => .array
  | .arrxStore _ _ _ => .array
  | .arrxFill _ _ => .array
  | .arrxQuery _ _ => .array
  | .stkRowcopy _ _ _ => .copy
  | .stkRowzero _ _ => .copy
  | .stkProbe _ _ => .copy
  | .lnkTurn _ _ => .control
  | .lnkStatus _ _ => .control
  | .systemEventDelivery => .devStep
  | .quantumExpiry _ => .devStep
  | .blockedInstructionComplete _ _ => .devStep
  | .loadComplete _ _ => .devStep
  | .storeComplete _ _ => .devStep
  | .atomicComplete _ _ => .devStep
  | .engineOperationComplete _ _ => .devStep
  | .lastPush _ _ => .devStep
  | .squadRetire _ => .devStep
  | .notPresentReplay _ _ => .devStep
  | .workQueueEntryTake _ => .devStep
  | .dependencePoll => .devStep
  | .crewPlacement _ _ _ => .devStep
  | .timedBudgetExceeded _ => .devStep
  | .preemptDraining _ => .devStep
  | .preemptSaving _ => .devStep
  | .preemptSaved _ => .devStep
  | .preemptRestoring _ _ => .devStep
  | .preemptResumed _ => .devStep
  | .partitionStart _ => .devStep
  | .partitionStartComplete _ => .devStep
  | .partitionResize _ => .devStep
  | .resizeRelease _ => .devStep
  | .resizeDone _ => .devStep
  | .partitionStop _ => .devStep
  | .endContext _ _ => .devStep
  | .endContextComplete _ => .devStep
  | .partctlInvalidCmd _ => .devStep
  | .reservationWrite _ _ => .devStep
  | .linkTurnStart _ => .devStep
  | .turnDeadTimeEnd _ => .devStep
  | .flitReplay _ _ _ => .devStep
  | .retryWindowExpiry => .devStep
  | .spanPortDown _ => .devStep
  | .spanPortTrained _ => .devStep
  | .peerAccessTimeout _ => .devStep
  | .peerRequest _ => .devStep
  | .hostHdmWrite _ _ _ => .devStep
  | .hostHdmRead _ _ => .devStep
  | .doorbell => .devStep
  | .qcfgWrite _ _ => .devStep
  | .qwriteWrite _ _ => .devStep
  | .bar0Write _ _ _ => .devStep
  | .sysstatWrite _ => .devStep
  | .errpopWrite _ => .devStep
  | .mcwinEnable _ => .devStep
  | .mcwinDisable _ => .devStep
  | .mcwinExpansionDone _ => .devStep
  | .surveyctlWrite _ => .devStep
  | .surveyCompareLatch => .devStep
  | .surveyWriteOutDone => .devStep
  | .lnklanesWrite _ => .devStep
  | .keepbaseWrite _ => .devStep
  | .systemRegisterWrite _ _ => .devStep
  | .planeScrub _ => .devStep
  | .llcScrub _ _ => .devStep
  | .hbmScrub _ _ => .devStep
  | .bankRetentionEntry _ => .devStep
  | .bankRetentionExit _ => .devStep
  | .wayGroupRetentionEntry _ _ => .devStep
  | .wayGroupRetentionExit _ _ => .devStep
  | .overcurrentWarning => .devStep
  | .overcurrentClear => .devStep
  | .thermalTrip => .devStep
  | .powerOnReset => .devStep
  | .cxlConventionalReset => .devStep
  | .meridianLock => .devStep
  | .firmwareVerify _ _ => .devStep
  | .functionReady _ => .devStep
  | .illegalInstructionFault => .devStep

/-- The registers an instruction names, and whether its fields are legal. The source of a shuffle or `rdlane` counts as read in the
enabled lanes, as every source does, and in its source lanes besides (R225). -/
structure Uses where
  vr : List Nat     -- vector registers read in the enabled lanes
  vw : List Nat     -- vector registers written
  sr : List Nat     -- scalar registers read
  sw : List Nat     -- scalar registers written
  ok : Bool         -- conditions on fields that are known at decode (R150, step 4)
  deriving DecidableEq, Repr

/-- Scalar register numbers below 64 (R144) and the conditions hold. -/
def Uses.legal (u : Uses) : Bool := u.ok && (u.sr ++ u.sw).all (· < 64)

/-- No register and no condition. -/
def Uses.none : Uses := .mk [] [] [] [] true

/-- An even register number: the start of a pair (R54). -/
def even (r : BitVec 7) : Bool := r.toNat % 2 == 0

/-- A pair of scalar registers starts at an even register no higher than 62 (R247, R323). -/
def pair (r : BitVec 7) : Bool := r.toNat % 2 == 0 && r.toNat ≤ 62

/-- n registers from r. -/
def regRun (r n : Nat) : List Nat := (List.range n).map (r + ·)

/-- How many FP32 registers a packed format takes (R212). -/
def packCount (code : Nat) : Nat :=
  if code = 5 then 8 else if code = 3 ∨ code = 4 then 4 else 2

/-- The vector registers of a global address (R82). -/
def addrV (a b : BitVec 7) : List Nat := if b.toNat < 64 then [a.toNat] else [a.toNat, a.toNat + 1]

/-- The scalar register of a global address (R82). -/
def addrS (b : BitVec 7) : List Nat := if b.toNat < 64 then [b.toNat] else []

/-- The pair form of a global address needs an even A and B[5:0] = 0 (R82). -/
def addrOk (a b : BitVec 7) : Bool := b.toNat < 64 || (even a && b.toNat == 64)

/-- How many 32-bit registers a width takes (R222). -/
def widthRegs (w : BitVec 3) : Nat := if w.toNat = 5 then 2 else if w.toNat = 6 then 4 else 1

/-- The data registers of a load or store (R156, R222). -/
def dataRegs (w : BitVec 3) (d : BitVec 7) : List Nat := regRun d.toNat (widthRegs w)

/-- A pair starts at an even register and a quad at a multiple of 4 (R222). -/
def dataOk (w : BitVec 3) (d : BitVec 7) : Bool := d.toNat % widthRegs w == 0

/-- The SUB values of stores (R155). -/
def storeWidth (w : BitVec 3) : Bool := w == 1 || w == 3 || w == 4 || w == 5 || w == 6

/-- The operand registers of `atoms`, by operation set and SUB (R156). -/
def atomReads (x2 : Bool) (f : BitVec 3) (d : BitVec 7) : List Nat :=
  if x2 && (f == 1 || f == 5 || f == 6) then [d.toNat, d.toNat + 1]
  else if x2 && f == 7 then regRun d.toNat 4 else [d.toNat]

/-- The registers that receive the old value (R229). -/
def atomWrites (x2 : Bool) (f : BitVec 3) (d : BitVec 7) : List Nat :=
  if x2 && (f == 5 || f == 6 || f == 7) then [d.toNat, d.toNat + 1] else [d.toNat]

/-- Alignment of the operand registers (R156). -/
def atomOk (x2 : Bool) (f : BitVec 3) (d : BitVec 7) : Bool :=
  if x2 && (f == 1 || f == 5 || f == 6) then even d
  else if x2 && f == 7 then d.toNat % 4 == 0 else true

/-- The system registers of R318. -/
def sysReadable (n : Nat) : Bool :=
  n ≤ 0x08 || n == 0x10 || n == 0x11 || (0x18 ≤ n && n ≤ 0x1C) || (0x20 ≤ n && n ≤ 0x22) || n == 0x28 || n == 0x29
    || n == 0x30 || n == 0x31 || n == 0x38 || n == 0x39 || (0x40 ≤ n && n ≤ 0x43)

/-- The system registers that hold an RW, W1C or WO field (R318, R319, R320, R330, R331, R357, R379, R392 to R394, R402). -/
def sysWritable (n : Nat) : Bool :=
  n == 0x00 || n == 0x01 || (5 ≤ n && n ≤ 0x08) || n == 0x10 || n == 0x11 || n == 0x18 || n == 0x1A || n == 0x1B
    || n == 0x20 || n == 0x22 || n == 0x28 || n == 0x31 || n == 0x38 || n == 0x39 || (0x40 ≤ n && n ≤ 0x43)

/-! The registers and field conditions of each instruction. x2 says that an `ext` selects the atom2 set (R155). -/

def usesMov16 (d : BitVec 5) (a : BitVec 5) : Uses := .mk [a.toNat] [d.toNat] [] [] true
def usesAdd16 (d : BitVec 5) (a : BitVec 5) : Uses := .mk [d.toNat, a.toNat] [d.toNat] [] [] true
def usesSub16 (d : BitVec 5) (a : BitVec 5) : Uses := .mk [d.toNat, a.toNat] [d.toNat] [] [] true
def usesMul16 (d : BitVec 5) (a : BitVec 5) : Uses := .mk [d.toNat, a.toNat] [d.toNat] [] [] true
def usesAnd16 (d : BitVec 5) (a : BitVec 5) : Uses := .mk [d.toNat, a.toNat] [d.toNat] [] [] true
def usesOr16 (d : BitVec 5) (a : BitVec 5) : Uses := .mk [d.toNat, a.toNat] [d.toNat] [] [] true
def usesXor16 (d : BitVec 5) (a : BitVec 5) : Uses := .mk [d.toNat, a.toNat] [d.toNat] [] [] true
def usesShl16 (d : BitVec 5) (a : BitVec 5) : Uses := .mk [d.toNat, a.toNat] [d.toNat] [] [] true
def usesShr16 (d : BitVec 5) (a : BitVec 5) : Uses := .mk [d.toNat, a.toNat] [d.toNat] [] [] true
def usesSar16 (d : BitVec 5) (a : BitVec 5) : Uses := .mk [d.toNat, a.toNat] [d.toNat] [] [] true
def usesFadd16 (d : BitVec 5) (a : BitVec 5) : Uses := .mk [d.toNat, a.toNat] [d.toNat] [] [] true
def usesFsub16 (d : BitVec 5) (a : BitVec 5) : Uses := .mk [d.toNat, a.toNat] [d.toNat] [] [] true
def usesFmul16 (d : BitVec 5) (a : BitVec 5) : Uses := .mk [d.toNat, a.toNat] [d.toNat] [] [] true
def usesFmin16 (d : BitVec 5) (a : BitVec 5) : Uses := .mk [d.toNat, a.toNat] [d.toNat] [] [] true
def usesFmax16 (d : BitVec 5) (a : BitVec 5) : Uses := .mk [d.toNat, a.toNat] [d.toNat] [] [] true
def usesFneg16 (d : BitVec 5) (a : BitVec 5) : Uses := .mk [a.toNat] [d.toNat] [] [] true
def usesRet : Uses := .mk [126] [] [] [] true
def usesAdd (d : BitVec 7) (a : BitVec 7) (b : BitVec 7) : Uses := .mk [a.toNat, b.toNat] [d.toNat] [] [] true
def usesAddS (d : BitVec 7) (a : BitVec 7) (b : BitVec 7) : Uses := .mk [a.toNat] [d.toNat] [b.toNat] [] true
def usesSub (d : BitVec 7) (a : BitVec 7) (b : BitVec 7) : Uses := .mk [a.toNat, b.toNat] [d.toNat] [] [] true
def usesSubS (d : BitVec 7) (a : BitVec 7) (b : BitVec 7) : Uses := .mk [a.toNat] [d.toNat] [b.toNat] [] true
def usesMul (d : BitVec 7) (a : BitVec 7) (b : BitVec 7) : Uses := .mk [a.toNat, b.toNat] [d.toNat] [] [] true
def usesMulS (d : BitVec 7) (a : BitVec 7) (b : BitVec 7) : Uses := .mk [a.toNat] [d.toNat] [b.toNat] [] true
def usesMulhiI32 (d : BitVec 7) (a : BitVec 7) (b : BitVec 7) : Uses := .mk [a.toNat, b.toNat] [d.toNat] [] [] true
def usesMulhiI32S (d : BitVec 7) (a : BitVec 7) (b : BitVec 7) : Uses := .mk [a.toNat] [d.toNat] [b.toNat] [] true
def usesMulhiN32 (d : BitVec 7) (a : BitVec 7) (b : BitVec 7) : Uses := .mk [a.toNat, b.toNat] [d.toNat] [] [] true
def usesMulhiN32S (d : BitVec 7) (a : BitVec 7) (b : BitVec 7) : Uses := .mk [a.toNat] [d.toNat] [b.toNat] [] true
def usesAnd (d : BitVec 7) (a : BitVec 7) (b : BitVec 7) : Uses := .mk [a.toNat, b.toNat] [d.toNat] [] [] true
def usesAndS (d : BitVec 7) (a : BitVec 7) (b : BitVec 7) : Uses := .mk [a.toNat] [d.toNat] [b.toNat] [] true
def usesOr (d : BitVec 7) (a : BitVec 7) (b : BitVec 7) : Uses := .mk [a.toNat, b.toNat] [d.toNat] [] [] true
def usesOrS (d : BitVec 7) (a : BitVec 7) (b : BitVec 7) : Uses := .mk [a.toNat] [d.toNat] [b.toNat] [] true
def usesXor (d : BitVec 7) (a : BitVec 7) (b : BitVec 7) : Uses := .mk [a.toNat, b.toNat] [d.toNat] [] [] true
def usesXorS (d : BitVec 7) (a : BitVec 7) (b : BitVec 7) : Uses := .mk [a.toNat] [d.toNat] [b.toNat] [] true
def usesShl (d : BitVec 7) (a : BitVec 7) (b : BitVec 7) : Uses := .mk [a.toNat, b.toNat] [d.toNat] [] [] true
def usesShlS (d : BitVec 7) (a : BitVec 7) (b : BitVec 7) : Uses := .mk [a.toNat] [d.toNat] [b.toNat] [] true
def usesShr (d : BitVec 7) (a : BitVec 7) (b : BitVec 7) : Uses := .mk [a.toNat, b.toNat] [d.toNat] [] [] true
def usesShrS (d : BitVec 7) (a : BitVec 7) (b : BitVec 7) : Uses := .mk [a.toNat] [d.toNat] [b.toNat] [] true
def usesSar (d : BitVec 7) (a : BitVec 7) (b : BitVec 7) : Uses := .mk [a.toNat, b.toNat] [d.toNat] [] [] true
def usesSarS (d : BitVec 7) (a : BitVec 7) (b : BitVec 7) : Uses := .mk [a.toNat] [d.toNat] [b.toNat] [] true
def usesMinI32 (d : BitVec 7) (a : BitVec 7) (b : BitVec 7) : Uses := .mk [a.toNat, b.toNat] [d.toNat] [] [] true
def usesMinI32S (d : BitVec 7) (a : BitVec 7) (b : BitVec 7) : Uses := .mk [a.toNat] [d.toNat] [b.toNat] [] true
def usesMaxI32 (d : BitVec 7) (a : BitVec 7) (b : BitVec 7) : Uses := .mk [a.toNat, b.toNat] [d.toNat] [] [] true
def usesMaxI32S (d : BitVec 7) (a : BitVec 7) (b : BitVec 7) : Uses := .mk [a.toNat] [d.toNat] [b.toNat] [] true
def usesMinN32 (d : BitVec 7) (a : BitVec 7) (b : BitVec 7) : Uses := .mk [a.toNat, b.toNat] [d.toNat] [] [] true
def usesMinN32S (d : BitVec 7) (a : BitVec 7) (b : BitVec 7) : Uses := .mk [a.toNat] [d.toNat] [b.toNat] [] true
def usesMaxN32 (d : BitVec 7) (a : BitVec 7) (b : BitVec 7) : Uses := .mk [a.toNat, b.toNat] [d.toNat] [] [] true
def usesMaxN32S (d : BitVec 7) (a : BitVec 7) (b : BitVec 7) : Uses := .mk [a.toNat] [d.toNat] [b.toNat] [] true
def usesAddsatI32 (d : BitVec 7) (a : BitVec 7) (b : BitVec 7) : Uses := .mk [a.toNat, b.toNat] [d.toNat] [] [] true
def usesAddsatI32S (d : BitVec 7) (a : BitVec 7) (b : BitVec 7) : Uses := .mk [a.toNat] [d.toNat] [b.toNat] [] true
def usesSubsatI32 (d : BitVec 7) (a : BitVec 7) (b : BitVec 7) : Uses := .mk [a.toNat, b.toNat] [d.toNat] [] [] true
def usesSubsatI32S (d : BitVec 7) (a : BitVec 7) (b : BitVec 7) : Uses := .mk [a.toNat] [d.toNat] [b.toNat] [] true
def usesMad (d : BitVec 7) (a : BitVec 7) (b : BitVec 7) : Uses := .mk [a.toNat, b.toNat, d.toNat] [d.toNat] [] [] true
def usesMadS (d : BitVec 7) (a : BitVec 7) (b : BitVec 7) : Uses := .mk [a.toNat, d.toNat] [d.toNat] [b.toNat] [] true
def usesPrmt (d : BitVec 7) (a : BitVec 7) (b : BitVec 7) : Uses := .mk [a.toNat, b.toNat] [d.toNat] [] [] true
def usesPrmtS (d : BitVec 7) (a : BitVec 7) (b : BitVec 7) : Uses := .mk [a.toNat] [d.toNat] [b.toNat] [] true
def usesBfe (d : BitVec 7) (a : BitVec 7) (b : BitVec 7) : Uses := .mk [a.toNat, b.toNat] [d.toNat] [] [] true
def usesBfeS (d : BitVec 7) (a : BitVec 7) (b : BitVec 7) : Uses := .mk [a.toNat] [d.toNat] [b.toNat] [] true
def usesBfi (d : BitVec 7) (a : BitVec 7) (b : BitVec 7) : Uses := .mk [a.toNat, b.toNat] [d.toNat] [] [] true
def usesBfiS (d : BitVec 7) (a : BitVec 7) (b : BitVec 7) : Uses := .mk [a.toNat] [d.toNat] [b.toNat] [] true
def usesSetp (c : BitVec 4) (a : BitVec 7) (b : BitVec 7) : Uses := .mk [a.toNat, b.toNat] [] [] [] (c.toNat ≤ 9)
def usesSetpS (c : BitVec 4) (a : BitVec 7) (b : BitVec 7) : Uses := .mk [a.toNat] [] [b.toNat] [] (c.toNat ≤ 9)
def usesSelp (d : BitVec 7) (a : BitVec 7) : Uses := .mk [a.toNat, d.toNat] [d.toNat] [] [] true
def usesPopc (d : BitVec 7) (a : BitVec 7) : Uses := .mk [a.toNat] [d.toNat] [] [] true
def usesClz (d : BitVec 7) (a : BitVec 7) : Uses := .mk [a.toNat] [d.toNat] [] [] true
def usesBrev (d : BitVec 7) (a : BitVec 7) : Uses := .mk [a.toNat] [d.toNat] [] [] true
def usesAbs (d : BitVec 7) (a : BitVec 7) : Uses := .mk [a.toNat] [d.toNat] [] [] true
def usesNeg (d : BitVec 7) (a : BitVec 7) : Uses := .mk [a.toNat] [d.toNat] [] [] true
def usesNot (d : BitVec 7) (a : BitVec 7) : Uses := .mk [a.toNat] [d.toNat] [] [] true
def usesMov (d : BitVec 7) (a : BitVec 7) : Uses := .mk [a.toNat] [d.toNat] [] [] true
def usesMovs (d : BitVec 7) (a : BitVec 7) : Uses := .mk [] [d.toNat] [a.toNat] [] true
def usesSext (d : BitVec 7) (a : BitVec 7) (w : BitVec 7) : Uses := .mk [a.toNat] [d.toNat] [] [] (1 ≤ w.toNat && w.toNat ≤ 32)
def usesMovx (d : BitVec 7) (a : BitVec 7) : Uses := .mk [a.toNat] [] [d.toNat] [] true
def usesMovxr (d : BitVec 7) (a : BitVec 7) : Uses := .mk [] [d.toNat] [a.toNat] [] true
def usesFadd (d : BitVec 7) (a : BitVec 7) (b : BitVec 7) : Uses := .mk [a.toNat, b.toNat] [d.toNat] [] [] true
def usesFaddS (d : BitVec 7) (a : BitVec 7) (b : BitVec 7) : Uses := .mk [a.toNat] [d.toNat] [b.toNat] [] true
def usesFsub (d : BitVec 7) (a : BitVec 7) (b : BitVec 7) : Uses := .mk [a.toNat, b.toNat] [d.toNat] [] [] true
def usesFsubS (d : BitVec 7) (a : BitVec 7) (b : BitVec 7) : Uses := .mk [a.toNat] [d.toNat] [b.toNat] [] true
def usesFmul (d : BitVec 7) (a : BitVec 7) (b : BitVec 7) : Uses := .mk [a.toNat, b.toNat] [d.toNat] [] [] true
def usesFmulS (d : BitVec 7) (a : BitVec 7) (b : BitVec 7) : Uses := .mk [a.toNat] [d.toNat] [b.toNat] [] true
def usesFfma (d : BitVec 7) (a : BitVec 7) (b : BitVec 7) : Uses := .mk [a.toNat, b.toNat, d.toNat] [d.toNat] [] [] true
def usesFfmaS (d : BitVec 7) (a : BitVec 7) (b : BitVec 7) : Uses := .mk [a.toNat, d.toNat] [d.toNat] [b.toNat] [] true
def usesFnma (d : BitVec 7) (a : BitVec 7) (b : BitVec 7) : Uses := .mk [a.toNat, b.toNat, d.toNat] [d.toNat] [] [] true
def usesFnmaS (d : BitVec 7) (a : BitVec 7) (b : BitVec 7) : Uses := .mk [a.toNat, d.toNat] [d.toNat] [b.toNat] [] true
def usesFmin (d : BitVec 7) (a : BitVec 7) (b : BitVec 7) : Uses := .mk [a.toNat, b.toNat] [d.toNat] [] [] true
def usesFminS (d : BitVec 7) (a : BitVec 7) (b : BitVec 7) : Uses := .mk [a.toNat] [d.toNat] [b.toNat] [] true
def usesFmax (d : BitVec 7) (a : BitVec 7) (b : BitVec 7) : Uses := .mk [a.toNat, b.toNat] [d.toNat] [] [] true
def usesFmaxS (d : BitVec 7) (a : BitVec 7) (b : BitVec 7) : Uses := .mk [a.toNat] [d.toNat] [b.toNat] [] true
def usesFsetp (c : BitVec 4) (a : BitVec 7) (b : BitVec 7) : Uses := .mk [a.toNat, b.toNat] [] [] [] (c.toNat ≤ 11)
def usesFsetpS (c : BitVec 4) (a : BitVec 7) (b : BitVec 7) : Uses := .mk [a.toNat] [] [b.toNat] [] (c.toNat ≤ 11)
def usesFdiv (d : BitVec 7) (a : BitVec 7) (b : BitVec 7) : Uses := .mk [a.toNat, b.toNat] [d.toNat] [] [] true
def usesFdivS (d : BitVec 7) (a : BitVec 7) (b : BitVec 7) : Uses := .mk [a.toNat] [d.toNat] [b.toNat] [] true
def usesFabs (d : BitVec 7) (a : BitVec 7) : Uses := .mk [a.toNat] [d.toNat] [] [] true
def usesFneg (d : BitVec 7) (a : BitVec 7) : Uses := .mk [a.toNat] [d.toNat] [] [] true
def usesFrcp (d : BitVec 7) (a : BitVec 7) : Uses := .mk [a.toNat] [d.toNat] [] [] true
def usesFrsq (d : BitVec 7) (a : BitVec 7) : Uses := .mk [a.toNat] [d.toNat] [] [] true
def usesFsqrt (d : BitVec 7) (a : BitVec 7) : Uses := .mk [a.toNat] [d.toNat] [] [] true
def usesFex2 (d : BitVec 7) (a : BitVec 7) : Uses := .mk [a.toNat] [d.toNat] [] [] true
def usesFlg2 (d : BitVec 7) (a : BitVec 7) : Uses := .mk [a.toNat] [d.toNat] [] [] true
def usesFsin (d : BitVec 7) (a : BitVec 7) : Uses := .mk [a.toNat] [d.toNat] [] [] true
def usesFcos (d : BitVec 7) (a : BitVec 7) : Uses := .mk [a.toNat] [d.toNat] [] [] true
def usesFtanh (d : BitVec 7) (a : BitVec 7) : Uses := .mk [a.toNat] [d.toNat] [] [] true
def usesFrnd (d : BitVec 7) (a : BitVec 7) (m : BitVec 3) : Uses := .mk [a.toNat] [d.toNat] [] [] (m.toNat ≤ 4)
def usesFclass (d : BitVec 7) (a : BitVec 7) : Uses := .mk [a.toNat] [d.toNat] [] [] true
def usesHadd2 (d : BitVec 7) (a : BitVec 7) (b : BitVec 7) : Uses := .mk [a.toNat, b.toNat] [d.toNat] [] [] true
def usesHadd2S (d : BitVec 7) (a : BitVec 7) (b : BitVec 7) : Uses := .mk [a.toNat] [d.toNat] [b.toNat] [] true
def usesHmul2 (d : BitVec 7) (a : BitVec 7) (b : BitVec 7) : Uses := .mk [a.toNat, b.toNat] [d.toNat] [] [] true
def usesHmul2S (d : BitVec 7) (a : BitVec 7) (b : BitVec 7) : Uses := .mk [a.toNat] [d.toNat] [b.toNat] [] true
def usesHfma2 (d : BitVec 7) (a : BitVec 7) (b : BitVec 7) : Uses := .mk [a.toNat, b.toNat, d.toNat] [d.toNat] [] [] true
def usesHfma2S (d : BitVec 7) (a : BitVec 7) (b : BitVec 7) : Uses := .mk [a.toNat, d.toNat] [d.toNat] [b.toNat] [] true
def usesBadd2 (d : BitVec 7) (a : BitVec 7) (b : BitVec 7) : Uses := .mk [a.toNat, b.toNat] [d.toNat] [] [] true
def usesBadd2S (d : BitVec 7) (a : BitVec 7) (b : BitVec 7) : Uses := .mk [a.toNat] [d.toNat] [b.toNat] [] true
def usesBmul2 (d : BitVec 7) (a : BitVec 7) (b : BitVec 7) : Uses := .mk [a.toNat, b.toNat] [d.toNat] [] [] true
def usesBmul2S (d : BitVec 7) (a : BitVec 7) (b : BitVec 7) : Uses := .mk [a.toNat] [d.toNat] [b.toNat] [] true
def usesBfma2 (d : BitVec 7) (a : BitVec 7) (b : BitVec 7) : Uses := .mk [a.toNat, b.toNat, d.toNat] [d.toNat] [] [] true
def usesBfma2S (d : BitVec 7) (a : BitVec 7) (b : BitVec 7) : Uses := .mk [a.toNat, d.toNat] [d.toNat] [b.toNat] [] true
def usesDot2 (d : BitVec 7) (a : BitVec 7) (b : BitVec 7) : Uses := .mk [a.toNat, a.toNat + 1, b.toNat, d.toNat, d.toNat + 1] [d.toNat, d.toNat + 1] [] [] (even a && even d)
def usesDot2S (d : BitVec 7) (a : BitVec 7) (b : BitVec 7) : Uses := .mk [a.toNat, a.toNat + 1, d.toNat, d.toNat + 1] [d.toNat, d.toNat + 1] [b.toNat] [] (even a && even d)
def usesIdot4 (d : BitVec 7) (a : BitVec 7) (b : BitVec 7) : Uses := .mk [a.toNat, b.toNat, d.toNat] [d.toNat] [] [] true
def usesIdot4S (d : BitVec 7) (a : BitVec 7) (b : BitVec 7) : Uses := .mk [a.toNat, d.toNat] [d.toNat] [b.toNat] [] true
def usesCvtfi (d : BitVec 7) (a : BitVec 7) (sc : BitVec 7) : Uses := .mk [a.toNat] [d.toNat] [] [] (sc.toNat % 4 ≤ 2 && sc.toNat / 4 % 8 ≤ 5)
def usesCvtif (d : BitVec 7) (a : BitVec 7) (sc : BitVec 7) : Uses := .mk [a.toNat] [d.toNat] [] [] (sc.toNat % 8 ≤ 5 && sc.toNat / 8 % 4 ≤ 2 && sc.toNat / 64 == 0)
def usesCvtff (d : BitVec 7) (a : BitVec 7) (sc : BitVec 7) : Uses := .mk [a.toNat] [d.toNat] [] [] (sc.toNat % 8 ≤ 5 && sc.toNat / 8 % 8 ≤ 5)
def usesCvtpk (d : BitVec 7) (a : BitVec 7) (sc : BitVec 7) : Uses := .mk (regRun a.toNat (packCount (sc.toNat % 8))) [d.toNat] [] [] (1 ≤ sc.toNat % 8 && sc.toNat % 8 ≤ 5 && sc.toNat / 16 == 0 && a.toNat % packCount (sc.toNat % 8) == 0)
def usesCvtup (d : BitVec 7) (a : BitVec 7) (sc : BitVec 7) : Uses := .mk [a.toNat] (regRun d.toNat (packCount (sc.toNat % 8))) [] [] (1 ≤ sc.toNat % 8 && sc.toNat % 8 ≤ 5 && sc.toNat / 8 == 0 && d.toNat % packCount (sc.toNat % 8) == 0)
def usesMxscale (d : BitVec 7) (a : BitVec 7) : Uses := .mk [a.toNat] [d.toNat] [] [] true
def usesMxq (d : BitVec 7) (a : BitVec 7) : Uses := .mk [a.toNat] [d.toNat] [] [] true
def usesShflIdx (d : BitVec 7) (a : BitVec 7) (b : BitVec 7) : Uses := .mk [a.toNat, b.toNat] [d.toNat] [] [] true
def usesShflXor (d : BitVec 7) (a : BitVec 7) (b : BitVec 7) : Uses := .mk [a.toNat] [d.toNat] [b.toNat] [] true
def usesShflUp (d : BitVec 7) (a : BitVec 7) (b : BitVec 7) : Uses := .mk [a.toNat] [d.toNat] [b.toNat] [] true
def usesShflDn (d : BitVec 7) (a : BitVec 7) (b : BitVec 7) : Uses := .mk [a.toNat] [d.toNat] [b.toNat] [] true
def usesRedsq (d : BitVec 7) (a : BitVec 7) (o : BitVec 7) : Uses := .mk [a.toNat] [d.toNat] [] [] (o.toNat ≤ 10)
def usesScan (d : BitVec 7) (a : BitVec 7) (o : BitVec 7) : Uses := .mk [a.toNat] [d.toNat] [] [] (o.toNat ≤ 10)
def usesVoteBallot (d : BitVec 7) : Uses := .mk [] [] [] [d.toNat] true
def usesVoteBallotHi (d : BitVec 7) : Uses := .mk [] [] [] [d.toNat] true
def usesMatchAny (d : BitVec 7) (a : BitVec 7) : Uses := .mk [a.toNat] [d.toNat] [] [] true
def usesMatchFirst (d : BitVec 7) (a : BitVec 7) : Uses := .mk [a.toNat] [d.toNat] [] [] true
def usesSadd (d : BitVec 7) (a : BitVec 7) (b : BitVec 7) : Uses := .mk [] [] [a.toNat, b.toNat] [d.toNat] true
def usesSsub (d : BitVec 7) (a : BitVec 7) (b : BitVec 7) : Uses := .mk [] [] [a.toNat, b.toNat] [d.toNat] true
def usesSmul (d : BitVec 7) (a : BitVec 7) (b : BitVec 7) : Uses := .mk [] [] [a.toNat, b.toNat] [d.toNat] true
def usesSmulhi (d : BitVec 7) (a : BitVec 7) (b : BitVec 7) : Uses := .mk [] [] [a.toNat, b.toNat] [d.toNat] true
def usesSand (d : BitVec 7) (a : BitVec 7) (b : BitVec 7) : Uses := .mk [] [] [a.toNat, b.toNat] [d.toNat] true
def usesSor (d : BitVec 7) (a : BitVec 7) (b : BitVec 7) : Uses := .mk [] [] [a.toNat, b.toNat] [d.toNat] true
def usesSxor (d : BitVec 7) (a : BitVec 7) (b : BitVec 7) : Uses := .mk [] [] [a.toNat, b.toNat] [d.toNat] true
def usesSshl (d : BitVec 7) (a : BitVec 7) (b : BitVec 7) : Uses := .mk [] [] [a.toNat, b.toNat] [d.toNat] true
def usesSshr (d : BitVec 7) (a : BitVec 7) (b : BitVec 7) : Uses := .mk [] [] [a.toNat, b.toNat] [d.toNat] true
def usesSsar (d : BitVec 7) (a : BitVec 7) (b : BitVec 7) : Uses := .mk [] [] [a.toNat, b.toNat] [d.toNat] true
def usesSmin (d : BitVec 7) (a : BitVec 7) (b : BitVec 7) : Uses := .mk [] [] [a.toNat, b.toNat] [d.toNat] true
def usesSmax (d : BitVec 7) (a : BitVec 7) (b : BitVec 7) : Uses := .mk [] [] [a.toNat, b.toNat] [d.toNat] true
def usesSminn (d : BitVec 7) (a : BitVec 7) (b : BitVec 7) : Uses := .mk [] [] [a.toNat, b.toNat] [d.toNat] true
def usesSmaxn (d : BitVec 7) (a : BitVec 7) (b : BitVec 7) : Uses := .mk [] [] [a.toNat, b.toNat] [d.toNat] true
def usesSeq (d : BitVec 7) (a : BitVec 7) (b : BitVec 7) : Uses := .mk [] [] [a.toNat, b.toNat] [d.toNat] true
def usesSne (d : BitVec 7) (a : BitVec 7) (b : BitVec 7) : Uses := .mk [] [] [a.toNat, b.toNat] [d.toNat] true
def usesSlt (d : BitVec 7) (a : BitVec 7) (b : BitVec 7) : Uses := .mk [] [] [a.toNat, b.toNat] [d.toNat] true
def usesSle (d : BitVec 7) (a : BitVec 7) (b : BitVec 7) : Uses := .mk [] [] [a.toNat, b.toNat] [d.toNat] true
def usesSltn (d : BitVec 7) (a : BitVec 7) (b : BitVec 7) : Uses := .mk [] [] [a.toNat, b.toNat] [d.toNat] true
def usesSlen (d : BitVec 7) (a : BitVec 7) (b : BitVec 7) : Uses := .mk [] [] [a.toNat, b.toNat] [d.toNat] true
def usesSmov (d : BitVec 7) (a : BitVec 7) : Uses := .mk [] [] [a.toNat] [d.toNat] true
def usesSdivn (d : BitVec 7) (a : BitVec 7) (b : BitVec 7) : Uses := .mk [] [] [a.toNat, b.toNat] [d.toNat] true
def usesSremn (d : BitVec 7) (a : BitVec 7) (b : BitVec 7) : Uses := .mk [] [] [a.toNat, b.toNat] [d.toNat] true
def usesSclz (d : BitVec 7) (a : BitVec 7) : Uses := .mk [] [] [a.toNat] [d.toNat] true
def usesSpopc (d : BitVec 7) (a : BitVec 7) : Uses := .mk [] [] [a.toNat] [d.toNat] true
def usesSsel (d : BitVec 7) (a : BitVec 7) (b : BitVec 7) : Uses := .mk [] [] [a.toNat, b.toNat, d.toNat] [d.toNat] true
def usesRdsr (d : BitVec 7) (n : BitVec 7) : Uses := .mk [] [] [] [d.toNat] (n.toNat ≤ 0x1D)
def usesWrsr (n : BitVec 7) (a : BitVec 7) : Uses := .mk [] [] [a.toNat] [] (n.toNat == 0x0D || n.toNat == 0x0E)
def usesTime (d : BitVec 7) : Uses := .mk [] [] [] [d.toNat] true
def usesRdlane (d : BitVec 7) (a : BitVec 7) (b : BitVec 7) : Uses := .mk [a.toNat] [] [b.toNat] [d.toNat] true
def usesWrlane (d : BitVec 7) (a : BitVec 7) (b : BitVec 7) : Uses := .mk [] [d.toNat] [a.toNat, b.toNat] [] true
def usesPset (a : BitVec 7) : Uses := .mk [a.toNat] [] [] [] true
def usesPget (d : BitVec 7) : Uses := .mk [] [d.toNat] [] [] true
def usesPmask (a : BitVec 7) : Uses := .mk [] [] [a.toNat] [] true
def usesMfsr (d : BitVec 7) (n : BitVec 7) : Uses := .mk [] [] [] [d.toNat] (sysReadable n.toNat)
def usesMtsr (n : BitVec 7) (a : BitVec 7) : Uses := .mk [] [] [a.toNat] [] (sysWritable n.toNat)
def usesTlbinvAll (a : BitVec 7) : Uses := .mk [] [] [a.toNat] [] true
def usesTlbinvCtx (a : BitVec 7) : Uses := .mk [] [] [a.toNat] [] true
def usesTlbinvPage (a : BitVec 7) : Uses := .mk [] [] [a.toNat] [] true
def usesCchopWb (d : BitVec 7) (a : BitVec 7) : Uses := .mk [] [] [a.toNat, a.toNat + 1] [d.toNat] (pair a)
def usesCchopWbinv (d : BitVec 7) (a : BitVec 7) : Uses := .mk [] [] [a.toNat, a.toNat + 1] [d.toNat] (pair a)
def usesCchopInv (d : BitVec 7) (a : BitVec 7) : Uses := .mk [] [] [a.toNat, a.toNat + 1] [d.toNat] (pair a)
def usesCchopUnkeep (d : BitVec 7) (a : BitVec 7) : Uses := .mk [] [] [a.toNat, a.toNat + 1] [d.toNat] (pair a)
def usesSurvey (d : BitVec 7) (a : BitVec 7) : Uses := .mk [] [] [a.toNat] [d.toNat] true
def usesHalt (a : BitVec 7) : Uses := .mk [] [] [a.toNat] [] true
def usesCxsave (d : BitVec 7) (a : BitVec 7) : Uses := .mk [] [] [a.toNat, a.toNat + 1] [d.toNat] (pair a)
def usesCxrest (d : BitVec 7) (a : BitVec 7) : Uses := .mk [] [] [a.toNat, a.toNat + 1] [d.toNat] (pair a)
def usesLnkctlPause (d : BitVec 7) (a : BitVec 7) : Uses := .mk [] [] [a.toNat] [d.toNat] true
def usesLnkctlResume (d : BitVec 7) (a : BitVec 7) : Uses := .mk [] [] [a.toNat] [d.toNat] true
def usesLnkctlSpare (d : BitVec 7) (a : BitVec 7) : Uses := .mk [] [] [a.toNat] [d.toNat] true
def usesLnkctlWidth (d : BitVec 7) (a : BitVec 7) : Uses := .mk [] [] [a.toNat] [d.toNat] true
def usesLnkctlClrretry (d : BitVec 7) (a : BitVec 7) : Uses := .mk [] [] [a.toNat] [d.toNat] true
def usesErrrd (d : BitVec 7) (a : BitVec 7) : Uses := .mk [] [] [a.toNat] [d.toNat] true
def usesRetainCreate (d : BitVec 7) (a : BitVec 7) : Uses := .mk [] [] [a.toNat] [d.toNat] true
def usesRetainDestroy (d : BitVec 7) (a : BitVec 7) : Uses := .mk [] [] [a.toNat] [d.toNat] true
def usesRetainQuery (d : BitVec 7) (a : BitVec 7) : Uses := .mk [] [] [a.toNat] [d.toNat] true
def usesMcctlMetard (d : BitVec 7) (a : BitVec 7) : Uses := .mk [] [] [a.toNat] [d.toNat] true
def usesMcctlMetawr (d : BitVec 7) (a : BitVec 7) : Uses := .mk [] [] [a.toNat] [d.toNat] true
def usesMcctlRetire (d : BitVec 7) (a : BitVec 7) : Uses := .mk [] [] [a.toNat] [d.toNat] true
def usesWayctlQuar (d : BitVec 7) : Uses := .mk [] [] [] [d.toNat] true
def usesWayctlRelease (d : BitVec 7) : Uses := .mk [] [] [] [d.toNat] true
def usesWayctlDiscard (d : BitVec 7) : Uses := .mk [] [] [] [d.toNat] true
def usesTrap (a : BitVec 7) : Uses := .mk [] [] [a.toNat] [] true
def usesAddi (d : BitVec 7) (a : BitVec 7) : Uses := .mk [a.toNat] [d.toNat] [] [] true
def usesAndi (d : BitVec 7) (a : BitVec 7) : Uses := .mk [a.toNat] [d.toNat] [] [] true
def usesOri (d : BitVec 7) (a : BitVec 7) : Uses := .mk [a.toNat] [d.toNat] [] [] true
def usesXori (d : BitVec 7) (a : BitVec 7) : Uses := .mk [a.toNat] [d.toNat] [] [] true
def usesShli (d : BitVec 7) (a : BitVec 7) (imm : BitVec 10) : Uses := .mk [a.toNat] [d.toNat] [] [] (imm.toNat ≤ 31)
def usesShri (d : BitVec 7) (a : BitVec 7) (imm : BitVec 10) : Uses := .mk [a.toNat] [d.toNat] [] [] (imm.toNat ≤ 31)
def usesSari (d : BitVec 7) (a : BitVec 7) (imm : BitVec 10) : Uses := .mk [a.toNat] [d.toNat] [] [] (imm.toNat ≤ 31)
def usesMuli (d : BitVec 7) (a : BitVec 7) : Uses := .mk [a.toNat] [d.toNat] [] [] true
def usesSetpi (c : BitVec 4) (a : BitVec 7) : Uses := .mk [a.toNat] [] [] [] (c.toNat ≤ 9)
def usesMovi (d : BitVec 7) : Uses := .mk [] [d.toNat] [] [] true
def usesTlu (d : BitVec 7) (a : BitVec 7) (t : BitVec 7) (n : BitVec 3) : Uses := .mk (a.toNat :: regRun t.toNat (n.toNat + 1)) [d.toNat] [] [] true
def usesLidx (d : BitVec 7) (a : BitVec 7) : Uses := .mk [a.toNat] [d.toNat] [] [] true
def usesSaddi (d : BitVec 7) (a : BitVec 7) : Uses := .mk [] [] [a.toNat] [d.toNat] true
def usesSandi (d : BitVec 7) (a : BitVec 7) : Uses := .mk [] [] [a.toNat] [d.toNat] true
def usesSori (d : BitVec 7) (a : BitVec 7) : Uses := .mk [] [] [a.toNat] [d.toNat] true
def usesSxori (d : BitVec 7) (a : BitVec 7) : Uses := .mk [] [] [a.toNat] [d.toNat] true
def usesSshli (d : BitVec 7) (a : BitVec 7) (imm : BitVec 10) : Uses := .mk [] [] [a.toNat] [d.toNat] (imm.toNat ≤ 63)
def usesSshri (d : BitVec 7) (a : BitVec 7) (imm : BitVec 10) : Uses := .mk [] [] [a.toNat] [d.toNat] (imm.toNat ≤ 63)
def usesSsari (d : BitVec 7) (a : BitVec 7) (imm : BitVec 10) : Uses := .mk [] [] [a.toNat] [d.toNat] (imm.toNat ≤ 63)
def usesSmuli (d : BitVec 7) (a : BitVec 7) : Uses := .mk [] [] [a.toNat] [d.toNat] true
def usesSeqi (d : BitVec 7) (a : BitVec 7) : Uses := .mk [] [] [a.toNat] [d.toNat] true
def usesSlti (d : BitVec 7) (a : BitVec 7) : Uses := .mk [] [] [a.toNat] [d.toNat] true
def usesSltni (d : BitVec 7) (a : BitVec 7) : Uses := .mk [] [] [a.toNat] [d.toNat] true
def usesCall : Uses := .mk [] [126] [] [] true
def usesBsz (r : BitVec 6) : Uses := .mk [] [] [r.toNat] [] true
def usesBsnz (r : BitVec 6) : Uses := .mk [] [] [r.toNat] [] true
def usesLi (r : BitVec 6) : Uses := .mk [] [] [] [r.toNat] true
def usesBrx (x : BitVec 7) (t : BitVec 6) : Uses := .mk [x.toNat] [] [t.toNat] [] true
def usesCallx (x : BitVec 7) (t : BitVec 6) : Uses := .mk [x.toNat] [126] [t.toNat] [] true
def usesBarSync (n : BitVec 6) : Uses := .mk [] [] [] [] (n.toNat ≤ 32)
def usesBarArrive (n : BitVec 6) : Uses := .mk [] [] [] [] (n.toNat ≤ 32)
def usesSetmode (r : BitVec 2) (z : BitVec 1) (t : BitVec 5) (w : BitVec 1) (fm : BitVec 1) (en : BitVec 5) : Uses := .mk [] [] [] [] ((w == 1 || r == 0) && (fm == 1 || z == 0) && t &&& ~~~en == 0)
def usesLd (w : BitVec 3) (d : BitVec 7) (a : BitVec 7) (b : BitVec 7) : Uses := .mk (addrV a b) (dataRegs w d) (addrS b) [] (addrOk a b && w.toNat ≤ 6 && dataOk w d)
def usesSt (w : BitVec 3) (d : BitVec 7) (a : BitVec 7) (b : BitVec 7) : Uses := .mk (addrV a b ++ dataRegs w d) [] (addrS b) [] (addrOk a b && storeWidth w && dataOk w d)
def usesLds (w : BitVec 3) (d : BitVec 7) (a : BitVec 7) (b : BitVec 7) : Uses := .mk [a.toNat] (dataRegs w d) [b.toNat] [] (w.toNat ≤ 6 && dataOk w d)
def usesSts (w : BitVec 3) (d : BitVec 7) (a : BitVec 7) (b : BitVec 7) : Uses := .mk (a.toNat :: dataRegs w d) [] [b.toNat] [] (storeWidth w && dataOk w d)
def usesLdt (w : BitVec 3) (d : BitVec 7) (a : BitVec 7) (b : BitVec 7) : Uses := .mk [a.toNat] (dataRegs w d) [b.toNat] [] (w.toNat ≤ 6 && dataOk w d)
def usesStt (w : BitVec 3) (d : BitVec 7) (a : BitVec 7) (b : BitVec 7) : Uses := .mk (a.toNat :: dataRegs w d) [] [b.toNat] [] (storeWidth w && dataOk w d)
def usesSld (w : BitVec 3) (d : BitVec 7) (a : BitVec 7) (b : BitVec 7) : Uses := .mk [] [] [a.toNat, b.toNat] [d.toNat] (w.toNat ≤ 5)
def usesSst (w : BitVec 3) (d : BitVec 7) (a : BitVec 7) (b : BitVec 7) : Uses := .mk [] [] [a.toNat, b.toNat, d.toNat] [] (storeWidth w && w.toNat ≤ 5)
def usesAtomAdd (d : BitVec 7) (a : BitVec 7) (b : BitVec 7) : Uses := .mk (addrV a b ++ [d.toNat]) [d.toNat] (addrS b) [] (addrOk a b)
def usesAtomMinI32 (d : BitVec 7) (a : BitVec 7) (b : BitVec 7) : Uses := .mk (addrV a b ++ [d.toNat]) [d.toNat] (addrS b) [] (addrOk a b)
def usesAtomMaxI32 (d : BitVec 7) (a : BitVec 7) (b : BitVec 7) : Uses := .mk (addrV a b ++ [d.toNat]) [d.toNat] (addrS b) [] (addrOk a b)
def usesAtomMinN32 (d : BitVec 7) (a : BitVec 7) (b : BitVec 7) : Uses := .mk (addrV a b ++ [d.toNat]) [d.toNat] (addrS b) [] (addrOk a b)
def usesAtomMaxN32 (d : BitVec 7) (a : BitVec 7) (b : BitVec 7) : Uses := .mk (addrV a b ++ [d.toNat]) [d.toNat] (addrS b) [] (addrOk a b)
def usesAtomAnd (d : BitVec 7) (a : BitVec 7) (b : BitVec 7) : Uses := .mk (addrV a b ++ [d.toNat]) [d.toNat] (addrS b) [] (addrOk a b)
def usesAtomOr (d : BitVec 7) (a : BitVec 7) (b : BitVec 7) : Uses := .mk (addrV a b ++ [d.toNat]) [d.toNat] (addrS b) [] (addrOk a b)
def usesAtomXor (d : BitVec 7) (a : BitVec 7) (b : BitVec 7) : Uses := .mk (addrV a b ++ [d.toNat]) [d.toNat] (addrS b) [] (addrOk a b)
def usesAtom2Exch (d : BitVec 7) (a : BitVec 7) (b : BitVec 7) : Uses := .mk (addrV a b ++ [d.toNat]) [d.toNat] (addrS b) [] (addrOk a b)
def usesAtom2Cas (d : BitVec 7) (a : BitVec 7) (b : BitVec 7) : Uses := .mk (addrV a b ++ [d.toNat, d.toNat + 1]) [d.toNat] (addrS b) [] (addrOk a b && even d)
def usesAtom2FaddF32 (d : BitVec 7) (a : BitVec 7) (b : BitVec 7) : Uses := .mk (addrV a b ++ [d.toNat]) [d.toNat] (addrS b) [] (addrOk a b)
def usesAtom2FminF32 (d : BitVec 7) (a : BitVec 7) (b : BitVec 7) : Uses := .mk (addrV a b ++ [d.toNat]) [d.toNat] (addrS b) [] (addrOk a b)
def usesAtom2FmaxF32 (d : BitVec 7) (a : BitVec 7) (b : BitVec 7) : Uses := .mk (addrV a b ++ [d.toNat]) [d.toNat] (addrS b) [] (addrOk a b)
def usesAtom2AddI64 (d : BitVec 7) (a : BitVec 7) (b : BitVec 7) : Uses := .mk (addrV a b ++ [d.toNat, d.toNat + 1]) [d.toNat, d.toNat + 1] (addrS b) [] (addrOk a b && even d)
def usesAtom2ExchB64 (d : BitVec 7) (a : BitVec 7) (b : BitVec 7) : Uses := .mk (addrV a b ++ [d.toNat, d.toNat + 1]) [d.toNat, d.toNat + 1] (addrS b) [] (addrOk a b && even d)
def usesAtom2CasB64 (d : BitVec 7) (a : BitVec 7) (b : BitVec 7) : Uses := .mk (addrV a b ++ regRun d.toNat 4) [d.toNat, d.toNat + 1] (addrS b) [] (addrOk a b && d.toNat % 4 == 0)
def usesSatom (x2 : Bool) (fm : BitVec 3) (d : BitVec 7) (a : BitVec 7) (b : BitVec 7) : Uses := if x2 && fm == 7 then .mk [] [] [a.toNat, b.toNat, d.toNat, d.toNat + 1] [d.toNat] (pair d) else .mk [] [] [a.toNat, b.toNat, d.toNat] [d.toNat] true
def usesAtoms (x2 : Bool) (fm : BitVec 3) (d : BitVec 7) (a : BitVec 7) (b : BitVec 7) : Uses := .mk (a.toNat :: atomReads x2 fm d) (atomWrites x2 fm d) [b.toNat] [] (atomOk x2 fm d)
def usesFence (sc : BitVec 3) (o : BitVec 3) (y : BitVec 1) : Uses := .mk [] [] [] [] (sc.toNat ≤ 5 && ((o.toNat == 0 && y == 1) || (1 ≤ o.toNat && o.toNat ≤ 4)))
def usesPref (a : BitVec 7) (b : BitVec 7) : Uses := .mk (addrV a b) [] (addrS b) [] (addrOk a b)
def usesQpush (d : BitVec 7) : Uses := .mk [] [] [d.toNat] [] true
def usesQpushSpan (d : BitVec 7) (a : BitVec 7) : Uses := .mk [] [] [a.toNat, d.toNat] [] true
def usesQpushTry (d : BitVec 7) (b : BitVec 7) : Uses := .mk [] [] [d.toNat] [b.toNat] true
def usesQpushSpanTry (d : BitVec 7) (a : BitVec 7) (b : BitVec 7) : Uses := .mk [] [] [a.toNat, d.toNat] [b.toNat] true
def usesQpop (d : BitVec 7) : Uses := .mk [] [] [] [d.toNat] true
def usesQpopSpan (d : BitVec 7) (a : BitVec 7) : Uses := .mk [] [] [a.toNat] [d.toNat, d.toNat + 1] (pair d)
def usesQpopTry (d : BitVec 7) (b : BitVec 7) : Uses := .mk [] [] [] [d.toNat, b.toNat] true
def usesQpopSpanTry (d : BitVec 7) (a : BitVec 7) (b : BitVec 7) : Uses := .mk [] [] [a.toNat] [d.toNat, d.toNat + 1, b.toNat] (pair d)
def usesSemAdd (d : BitVec 7) (a : BitVec 7) : Uses := .mk [] [] [a.toNat, d.toNat] [] true
def usesSemWait (d : BitVec 7) (a : BitVec 7) (b : BitVec 7) : Uses := .mk [] [] [a.toNat, d.toNat] [b.toNat] true
def usesSemRead (a : BitVec 7) (b : BitVec 7) : Uses := .mk [] [] [a.toNat] [b.toNat] true
def usesLaunch (d : BitVec 7) (a : BitVec 7) : Uses := .mk [] [] [a.toNat] [d.toNat] true
def usesCpyGs (d : BitVec 7) (a : BitVec 7) (b : BitVec 7) : Uses := .mk [] [] [a.toNat, a.toNat + 1, b.toNat] [d.toNat] (pair a)
def usesCpySg (d : BitVec 7) (a : BitVec 7) (b : BitVec 7) : Uses := .mk [] [] [a.toNat, a.toNat + 1, b.toNat] [d.toNat] (pair a)
def usesCpyGg (d : BitVec 7) (a : BitVec 7) (b : BitVec 7) : Uses := .mk [] [] [a.toNat, a.toNat + 1, b.toNat] [d.toNat] (pair a)
def usesCpySp (d : BitVec 7) (a : BitVec 7) (b : BitVec 7) : Uses := .mk [] [] [a.toNat, a.toNat + 1, b.toNat] [d.toNat] (pair a)
def usesCpyGs2 (d : BitVec 7) (a : BitVec 7) (b : BitVec 7) : Uses := .mk [] [] [a.toNat, a.toNat + 1, b.toNat] [d.toNat] (pair a)
def usesCpySg2 (d : BitVec 7) (a : BitVec 7) (b : BitVec 7) : Uses := .mk [] [] [a.toNat, a.toNat + 1, b.toNat] [d.toNat] (pair a)
def usesCpyPin (d : BitVec 7) (a : BitVec 7) (b : BitVec 7) : Uses := .mk [] [] [a.toNat, a.toNat + 1, b.toNat] [d.toNat] (pair a)
def usesBload (fm : BitVec 3) (d : BitVec 7) (a : BitVec 7) (b : BitVec 7) : Uses := .mk [] [] [a.toNat, b.toNat] [d.toNat] (fm.toNat ≤ 2)
def usesXformToplanes (d : BitVec 7) (a : BitVec 7) (b : BitVec 7) : Uses := .mk [] [] [a.toNat, b.toNat] [d.toNat] true
def usesXformFromplanes (d : BitVec 7) (a : BitVec 7) (b : BitVec 7) : Uses := .mk [] [] [a.toNat, b.toNat] [d.toNat] true
def usesXformFill (d : BitVec 7) (a : BitVec 7) (b : BitVec 7) : Uses := .mk [] [] [a.toNat, b.toNat] [d.toNat] true
def usesXformZero (d : BitVec 7) (a : BitVec 7) (b : BitVec 7) : Uses := .mk [] [] [a.toNat, b.toNat] [d.toNat] true
def usesXformChecksum (d : BitVec 7) (a : BitVec 7) (b : BitVec 7) : Uses := .mk [] [] [a.toNat, b.toNat] [d.toNat] true
def usesTmac (p : BitVec 3) (d : BitVec 7) (a : BitVec 7) (b : BitVec 7) : Uses := .mk [] [] [d.toNat, a.toNat, b.toNat] [] (p.toNat ≤ 3)
def usesTdrain (fm : BitVec 3) (d : BitVec 7) (a : BitVec 7) (b : BitVec 7) : Uses := .mk [] [] [d.toNat, d.toNat + 1, a.toNat, b.toNat] [] (fm.toNat ≤ 6 && pair d)
def usesTaccZero (a : BitVec 7) (b : BitVec 7) : Uses := .mk [] [] [a.toNat, b.toNat] [] true
def usesTaccRead (d : BitVec 7) (a : BitVec 7) (b : BitVec 7) : Uses := .mk [] [d.toNat] [a.toNat, b.toNat] [] true
def usesTaccWrite (d : BitVec 7) (a : BitVec 7) (b : BitVec 7) : Uses := .mk [d.toNat] [] [a.toNat, b.toNat] [] true
def usesTaccAdd (d : BitVec 7) (a : BitVec 7) (b : BitVec 7) : Uses := .mk [] [] [d.toNat, a.toNat, b.toNat] [] true
def usesTaccScale (d : BitVec 7) (a : BitVec 7) (b : BitVec 7) : Uses := .mk [] [] [d.toNat, a.toNat, b.toNat] [] true
def usesBankQuery (d : BitVec 7) (a : BitVec 7) : Uses := .mk [] [] [a.toNat] [d.toNat] true
def usesDotv (fm : BitVec 3) (d : BitVec 7) (a : BitVec 7) (b : BitVec 7) : Uses := .mk [] [] [a.toNat, a.toNat + 1, b.toNat] [d.toNat] (fm.toNat ≤ 3 && pair a)
def usesArrLogic (d : BitVec 7) (a : BitVec 7) (b : BitVec 7) : Uses := .mk [] [] [d.toNat, a.toNat, b.toNat] [] true
def usesArrAddsub (d : BitVec 7) (a : BitVec 7) (b : BitVec 7) : Uses := .mk [] [] [d.toNat, a.toNat, b.toNat] [] true
def usesArrMul (d : BitVec 7) (a : BitVec 7) (b : BitVec 7) : Uses := .mk [] [] [d.toNat, a.toNat, b.toNat] [] true
def usesArrCmp (d : BitVec 7) (a : BitVec 7) (b : BitVec 7) : Uses := .mk [] [] [d.toNat, a.toNat, b.toNat] [] true
def usesArrSel (d : BitVec 7) (a : BitVec 7) (b : BitVec 7) : Uses := .mk [] [] [d.toNat, a.toNat, b.toNat] [] true
def usesArrShift (d : BitVec 7) (a : BitVec 7) (b : BitVec 7) : Uses := .mk [] [] [d.toNat, a.toNat, b.toNat] [] true
def usesArrPopc (d : BitVec 7) (a : BitVec 7) : Uses := .mk [] [] [d.toNat, a.toNat] [] true
def usesArrBcast (d : BitVec 7) : Uses := .mk [] [] [d.toNat] [] true
def usesArrxArm (d : BitVec 7) (a : BitVec 7) (b : BitVec 7) : Uses := .mk [] [] [a.toNat, b.toNat] [d.toNat] true
def usesArrxDisarm (d : BitVec 7) (a : BitVec 7) : Uses := .mk [] [] [a.toNat] [d.toNat] true
def usesArrxLoad (d : BitVec 7) (a : BitVec 7) (b : BitVec 7) : Uses := .mk [] [] [d.toNat, a.toNat, b.toNat] [] true
def usesArrxStore (d : BitVec 7) (a : BitVec 7) (b : BitVec 7) : Uses := .mk [] [] [d.toNat, a.toNat, b.toNat] [] true
def usesArrxFill (d : BitVec 7) (a : BitVec 7) : Uses := .mk [] [] [d.toNat, a.toNat] [] true
def usesArrxQuery (d : BitVec 7) (a : BitVec 7) : Uses := .mk [] [] [a.toNat] [d.toNat] true
def usesStkRowcopy (d : BitVec 7) (a : BitVec 7) (b : BitVec 7) : Uses := .mk [] [] [a.toNat, b.toNat] [d.toNat] true
def usesStkRowzero (d : BitVec 7) (a : BitVec 7) : Uses := .mk [] [] [a.toNat] [d.toNat] true
def usesStkProbe (d : BitVec 7) (a : BitVec 7) : Uses := .mk [] [] [a.toNat] [d.toNat] true
def usesLnkTurn (d : BitVec 7) (a : BitVec 7) : Uses := .mk [] [] [a.toNat] [d.toNat] true
def usesLnkStatus (d : BitVec 7) (a : BitVec 7) : Uses := .mk [] [] [a.toNat] [d.toNat] true

/-- The registers and field conditions of an instruction. -/
def usesOf (x2 : Bool) : Instr → Uses
  | .mov16 d a => usesMov16 d a
  | .add16 d a => usesAdd16 d a
  | .sub16 d a => usesSub16 d a
  | .mul16 d a => usesMul16 d a
  | .and16 d a => usesAnd16 d a
  | .or16 d a => usesOr16 d a
  | .xor16 d a => usesXor16 d a
  | .shl16 d a => usesShl16 d a
  | .shr16 d a => usesShr16 d a
  | .sar16 d a => usesSar16 d a
  | .fadd16 d a => usesFadd16 d a
  | .fsub16 d a => usesFsub16 d a
  | .fmul16 d a => usesFmul16 d a
  | .fmin16 d a => usesFmin16 d a
  | .fmax16 d a => usesFmax16 d a
  | .fneg16 d a => usesFneg16 d a
  | .nop => .none
  | .guard _ _ _ => .none
  | .ord _ _ => .none
  | .yield => .none
  | .exit => .none
  | .ret => usesRet
  | .brk _ => .none
  | .wait0 _ => .none
  | .add d a b => usesAdd d a b
  | .addS d a b => usesAddS d a b
  | .sub d a b => usesSub d a b
  | .subS d a b => usesSubS d a b
  | .mul d a b => usesMul d a b
  | .mulS d a b => usesMulS d a b
  | .mulhiI32 d a b => usesMulhiI32 d a b
  | .mulhiI32S d a b => usesMulhiI32S d a b
  | .mulhiN32 d a b => usesMulhiN32 d a b
  | .mulhiN32S d a b => usesMulhiN32S d a b
  | .and d a b => usesAnd d a b
  | .andS d a b => usesAndS d a b
  | .or d a b => usesOr d a b
  | .orS d a b => usesOrS d a b
  | .xor d a b => usesXor d a b
  | .xorS d a b => usesXorS d a b
  | .shl d a b => usesShl d a b
  | .shlS d a b => usesShlS d a b
  | .shr d a b => usesShr d a b
  | .shrS d a b => usesShrS d a b
  | .sar d a b => usesSar d a b
  | .sarS d a b => usesSarS d a b
  | .minI32 d a b => usesMinI32 d a b
  | .minI32S d a b => usesMinI32S d a b
  | .maxI32 d a b => usesMaxI32 d a b
  | .maxI32S d a b => usesMaxI32S d a b
  | .minN32 d a b => usesMinN32 d a b
  | .minN32S d a b => usesMinN32S d a b
  | .maxN32 d a b => usesMaxN32 d a b
  | .maxN32S d a b => usesMaxN32S d a b
  | .addsatI32 d a b => usesAddsatI32 d a b
  | .addsatI32S d a b => usesAddsatI32S d a b
  | .subsatI32 d a b => usesSubsatI32 d a b
  | .subsatI32S d a b => usesSubsatI32S d a b
  | .mad d a b => usesMad d a b
  | .madS d a b => usesMadS d a b
  | .prmt d a b => usesPrmt d a b
  | .prmtS d a b => usesPrmtS d a b
  | .bfe d a b => usesBfe d a b
  | .bfeS d a b => usesBfeS d a b
  | .bfi d a b => usesBfi d a b
  | .bfiS d a b => usesBfiS d a b
  | .setp _ c a b => usesSetp c a b
  | .setpS _ c a b => usesSetpS c a b
  | .selp d a _ _ => usesSelp d a
  | .popc d a => usesPopc d a
  | .clz d a => usesClz d a
  | .brev d a => usesBrev d a
  | .abs d a => usesAbs d a
  | .neg d a => usesNeg d a
  | .not d a => usesNot d a
  | .mov d a => usesMov d a
  | .movs d a => usesMovs d a
  | .sext d a w => usesSext d a w
  | .movx d a => usesMovx d a
  | .movxr d a => usesMovxr d a
  | .fadd d a b => usesFadd d a b
  | .faddS d a b => usesFaddS d a b
  | .fsub d a b => usesFsub d a b
  | .fsubS d a b => usesFsubS d a b
  | .fmul d a b => usesFmul d a b
  | .fmulS d a b => usesFmulS d a b
  | .ffma d a b => usesFfma d a b
  | .ffmaS d a b => usesFfmaS d a b
  | .fnma d a b => usesFnma d a b
  | .fnmaS d a b => usesFnmaS d a b
  | .fmin d a b => usesFmin d a b
  | .fminS d a b => usesFminS d a b
  | .fmax d a b => usesFmax d a b
  | .fmaxS d a b => usesFmaxS d a b
  | .fsetp _ c a b => usesFsetp c a b
  | .fsetpS _ c a b => usesFsetpS c a b
  | .fdiv d a b => usesFdiv d a b
  | .fdivS d a b => usesFdivS d a b
  | .fabs d a => usesFabs d a
  | .fneg d a => usesFneg d a
  | .frcp d a => usesFrcp d a
  | .frsq d a => usesFrsq d a
  | .fsqrt d a => usesFsqrt d a
  | .fex2 d a => usesFex2 d a
  | .flg2 d a => usesFlg2 d a
  | .fsin d a => usesFsin d a
  | .fcos d a => usesFcos d a
  | .ftanh d a => usesFtanh d a
  | .frnd d a m => usesFrnd d a m
  | .fclass d a => usesFclass d a
  | .hadd2 d a b => usesHadd2 d a b
  | .hadd2S d a b => usesHadd2S d a b
  | .hmul2 d a b => usesHmul2 d a b
  | .hmul2S d a b => usesHmul2S d a b
  | .hfma2 d a b => usesHfma2 d a b
  | .hfma2S d a b => usesHfma2S d a b
  | .badd2 d a b => usesBadd2 d a b
  | .badd2S d a b => usesBadd2S d a b
  | .bmul2 d a b => usesBmul2 d a b
  | .bmul2S d a b => usesBmul2S d a b
  | .bfma2 d a b => usesBfma2 d a b
  | .bfma2S d a b => usesBfma2S d a b
  | .dot2 d a b => usesDot2 d a b
  | .dot2S d a b => usesDot2S d a b
  | .idot4 d a b => usesIdot4 d a b
  | .idot4S d a b => usesIdot4S d a b
  | .cvtfi d a sc => usesCvtfi d a sc
  | .cvtif d a sc => usesCvtif d a sc
  | .cvtff d a sc => usesCvtff d a sc
  | .cvtpk d a sc => usesCvtpk d a sc
  | .cvtup d a sc => usesCvtup d a sc
  | .mxscale d a _ => usesMxscale d a
  | .mxq d a _ => usesMxq d a
  | .shflIdx d a b => usesShflIdx d a b
  | .shflXor d a b => usesShflXor d a b
  | .shflUp d a b => usesShflUp d a b
  | .shflDn d a b => usesShflDn d a b
  | .redsq d a o => usesRedsq d a o
  | .scan d a o => usesScan d a o
  | .voteBallot d _ _ => usesVoteBallot d
  | .voteAll _ _ _ => .none
  | .voteAny _ _ _ => .none
  | .voteUni _ _ _ => .none
  | .voteBallotHi d _ _ => usesVoteBallotHi d
  | .matchAny d a => usesMatchAny d a
  | .matchFirst d a => usesMatchFirst d a
  | .sadd d a b => usesSadd d a b
  | .ssub d a b => usesSsub d a b
  | .smul d a b => usesSmul d a b
  | .smulhi d a b => usesSmulhi d a b
  | .sand d a b => usesSand d a b
  | .sor d a b => usesSor d a b
  | .sxor d a b => usesSxor d a b
  | .sshl d a b => usesSshl d a b
  | .sshr d a b => usesSshr d a b
  | .ssar d a b => usesSsar d a b
  | .smin d a b => usesSmin d a b
  | .smax d a b => usesSmax d a b
  | .sminn d a b => usesSminn d a b
  | .smaxn d a b => usesSmaxn d a b
  | .seq d a b => usesSeq d a b
  | .sne d a b => usesSne d a b
  | .slt d a b => usesSlt d a b
  | .sle d a b => usesSle d a b
  | .sltn d a b => usesSltn d a b
  | .slen d a b => usesSlen d a b
  | .smov d a => usesSmov d a
  | .sdivn d a b => usesSdivn d a b
  | .sremn d a b => usesSremn d a b
  | .sclz d a => usesSclz d a
  | .spopc d a => usesSpopc d a
  | .ssel d a b => usesSsel d a b
  | .rdsr d n => usesRdsr d n
  | .wrsr n a => usesWrsr n a
  | .time d => usesTime d
  | .rdlane d a b => usesRdlane d a b
  | .wrlane d a b => usesWrlane d a b
  | .pand _ _ _ _ _ => .none
  | .por _ _ _ _ _ => .none
  | .pxor _ _ _ _ _ => .none
  | .pset _ a => usesPset a
  | .pget d _ _ => usesPget d
  | .pmask _ a _ => usesPmask a
  | .mfsr d n => usesMfsr d n
  | .mtsr n a => usesMtsr n a
  | .tlbinvAll a => usesTlbinvAll a
  | .tlbinvCtx a => usesTlbinvCtx a
  | .tlbinvPage a => usesTlbinvPage a
  | .cchopWb d a => usesCchopWb d a
  | .cchopWbinv d a => usesCchopWbinv d a
  | .cchopInv d a => usesCchopInv d a
  | .cchopUnkeep d a => usesCchopUnkeep d a
  | .survey d a => usesSurvey d a
  | .halt a => usesHalt a
  | .cxsave d a => usesCxsave d a
  | .cxrest d a => usesCxrest d a
  | .sret => .none
  | .lnkctlPause d a => usesLnkctlPause d a
  | .lnkctlResume d a => usesLnkctlResume d a
  | .lnkctlSpare d a => usesLnkctlSpare d a
  | .lnkctlWidth d a => usesLnkctlWidth d a
  | .lnkctlClrretry d a => usesLnkctlClrretry d a
  | .errrd d a => usesErrrd d a
  | .retainCreate d a => usesRetainCreate d a
  | .retainDestroy d a => usesRetainDestroy d a
  | .retainQuery d a => usesRetainQuery d a
  | .mcctlMetard d a => usesMcctlMetard d a
  | .mcctlMetawr d a => usesMcctlMetawr d a
  | .mcctlRetire d a => usesMcctlRetire d a
  | .wayctlQuar d => usesWayctlQuar d
  | .wayctlRelease d => usesWayctlRelease d
  | .wayctlDiscard d => usesWayctlDiscard d
  | .trap a => usesTrap a
  | .rett => .none
  | .addi d a _ => usesAddi d a
  | .andi d a _ => usesAndi d a
  | .ori d a _ => usesOri d a
  | .xori d a _ => usesXori d a
  | .shli d a imm => usesShli d a imm
  | .shri d a imm => usesShri d a imm
  | .sari d a imm => usesSari d a imm
  | .muli d a _ => usesMuli d a
  | .setpi _ c a _ => usesSetpi c a
  | .movi d _ => usesMovi d
  | .tlu d a t n => usesTlu d a t n
  | .lidx d a _ => usesLidx d a
  | .saddi d a _ => usesSaddi d a
  | .sandi d a _ => usesSandi d a
  | .sori d a _ => usesSori d a
  | .sxori d a _ => usesSxori d a
  | .sshli d a imm => usesSshli d a imm
  | .sshri d a imm => usesSshri d a imm
  | .ssari d a imm => usesSsari d a imm
  | .smuli d a _ => usesSmuli d a
  | .seqi d a _ => usesSeqi d a
  | .slti d a _ => usesSlti d a
  | .sltni d a _ => usesSltni d a
  | .bra _ => .none
  | .call _ => usesCall
  | .brp _ _ _ => .none
  | .bsz r _ => usesBsz r
  | .bsnz r _ => usesBsnz r
  | .li r _ => usesLi r
  | .ext _ => .none
  | .wait _ _ _ _ _ => .none
  | .brx x t => usesBrx x t
  | .callx x t => usesCallx x t
  | .barSync _ n => usesBarSync n
  | .barArrive _ n => usesBarArrive n
  | .barWait _ => .none
  | .tbarSync _ _ => .none
  | .tbarArrive _ _ => .none
  | .tbarWait _ => .none
  | .setmode r z t w fm en => usesSetmode r z t w fm en
  | .ld w d a b => usesLd w d a b
  | .st w d a b => usesSt w d a b
  | .lds w d a b => usesLds w d a b
  | .sts w d a b => usesSts w d a b
  | .ldt w d a b => usesLdt w d a b
  | .stt w d a b => usesStt w d a b
  | .sld w d a b => usesSld w d a b
  | .sst w d a b => usesSst w d a b
  | .atomAdd d a b => usesAtomAdd d a b
  | .atomMinI32 d a b => usesAtomMinI32 d a b
  | .atomMaxI32 d a b => usesAtomMaxI32 d a b
  | .atomMinN32 d a b => usesAtomMinN32 d a b
  | .atomMaxN32 d a b => usesAtomMaxN32 d a b
  | .atomAnd d a b => usesAtomAnd d a b
  | .atomOr d a b => usesAtomOr d a b
  | .atomXor d a b => usesAtomXor d a b
  | .atom2Exch d a b => usesAtom2Exch d a b
  | .atom2Cas d a b => usesAtom2Cas d a b
  | .atom2FaddF32 d a b => usesAtom2FaddF32 d a b
  | .atom2FminF32 d a b => usesAtom2FminF32 d a b
  | .atom2FmaxF32 d a b => usesAtom2FmaxF32 d a b
  | .atom2AddI64 d a b => usesAtom2AddI64 d a b
  | .atom2ExchB64 d a b => usesAtom2ExchB64 d a b
  | .atom2CasB64 d a b => usesAtom2CasB64 d a b
  | .satom fm d a b => usesSatom x2 fm d a b
  | .atoms fm d a b => usesAtoms x2 fm d a b
  | .fence sc o y => usesFence sc o y
  | .pref _ a b => usesPref a b
  | .qpush d _ => usesQpush d
  | .qpushSpan d a => usesQpushSpan d a
  | .qpushTry d _ b => usesQpushTry d b
  | .qpushSpanTry d a b => usesQpushSpanTry d a b
  | .qpop d _ => usesQpop d
  | .qpopSpan d a => usesQpopSpan d a
  | .qpopTry d _ b => usesQpopTry d b
  | .qpopSpanTry d a b => usesQpopSpanTry d a b
  | .semAdd d a => usesSemAdd d a
  | .semWait d a b => usesSemWait d a b
  | .semRead a b => usesSemRead a b
  | .launch d a => usesLaunch d a
  | .cpyGs d a b => usesCpyGs d a b
  | .cpySg d a b => usesCpySg d a b
  | .cpyGg d a b => usesCpyGg d a b
  | .cpySp d a b => usesCpySp d a b
  | .cpyGs2 d a b => usesCpyGs2 d a b
  | .cpySg2 d a b => usesCpySg2 d a b
  | .cpyPin d a b => usesCpyPin d a b
  | .bload fm d a b => usesBload fm d a b
  | .xformToplanes d a b => usesXformToplanes d a b
  | .xformFromplanes d a b => usesXformFromplanes d a b
  | .xformFill d a b => usesXformFill d a b
  | .xformZero d a b => usesXformZero d a b
  | .xformChecksum d a b => usesXformChecksum d a b
  | .tmac p d a b => usesTmac p d a b
  | .tdrain fm d a b => usesTdrain fm d a b
  | .taccZero a b => usesTaccZero a b
  | .taccRead d a b => usesTaccRead d a b
  | .taccWrite d a b => usesTaccWrite d a b
  | .taccAdd d a b => usesTaccAdd d a b
  | .taccScale d a b => usesTaccScale d a b
  | .bankCompute => .none
  | .bankStorage => .none
  | .bankAttach => .none
  | .bankDetach => .none
  | .bankQuery d a => usesBankQuery d a
  | .dotv fm d a b => usesDotv fm d a b
  | .arrLogic d a b => usesArrLogic d a b
  | .arrAddsub d a b => usesArrAddsub d a b
  | .arrMul d a b => usesArrMul d a b
  | .arrCmp d a b => usesArrCmp d a b
  | .arrSel d a b => usesArrSel d a b
  | .arrShift d a b => usesArrShift d a b
  | .arrPopc d a => usesArrPopc d a
  | .arrBcast d => usesArrBcast d
  | .arrxArm d a b => usesArrxArm d a b
  | .arrxDisarm d a => usesArrxDisarm d a
  | .arrxLoad d a b => usesArrxLoad d a b
  | .arrxStore d a b => usesArrxStore d a b
  | .arrxFill d a => usesArrxFill d a
  | .arrxQuery d a => usesArrxQuery d a
  | .stkRowcopy d a b => usesStkRowcopy d a b
  | .stkRowzero d a => usesStkRowzero d a
  | .stkProbe d a => usesStkProbe d a
  | .lnkTurn d a => usesLnkTurn d a
  | .lnkStatus d a => usesLnkStatus d a
  | .systemEventDelivery => .none
  | .quantumExpiry _ => .none
  | .blockedInstructionComplete _ _ => .none
  | .loadComplete _ _ => .none
  | .storeComplete _ _ => .none
  | .atomicComplete _ _ => .none
  | .engineOperationComplete _ _ => .none
  | .lastPush _ _ => .none
  | .squadRetire _ => .none
  | .notPresentReplay _ _ => .none
  | .workQueueEntryTake _ => .none
  | .dependencePoll => .none
  | .crewPlacement _ _ _ => .none
  | .timedBudgetExceeded _ => .none
  | .preemptDraining _ => .none
  | .preemptSaving _ => .none
  | .preemptSaved _ => .none
  | .preemptRestoring _ _ => .none
  | .preemptResumed _ => .none
  | .partitionStart _ => .none
  | .partitionStartComplete _ => .none
  | .partitionResize _ => .none
  | .resizeRelease _ => .none
  | .resizeDone _ => .none
  | .partitionStop _ => .none
  | .endContext _ _ => .none
  | .endContextComplete _ => .none
  | .partctlInvalidCmd _ => .none
  | .reservationWrite _ _ => .none
  | .linkTurnStart _ => .none
  | .turnDeadTimeEnd _ => .none
  | .flitReplay _ _ _ => .none
  | .retryWindowExpiry => .none
  | .spanPortDown _ => .none
  | .spanPortTrained _ => .none
  | .peerAccessTimeout _ => .none
  | .peerRequest _ => .none
  | .hostHdmWrite _ _ _ => .none
  | .hostHdmRead _ _ => .none
  | .doorbell => .none
  | .qcfgWrite _ _ => .none
  | .qwriteWrite _ _ => .none
  | .bar0Write _ _ _ => .none
  | .sysstatWrite _ => .none
  | .errpopWrite _ => .none
  | .mcwinEnable _ => .none
  | .mcwinDisable _ => .none
  | .mcwinExpansionDone _ => .none
  | .surveyctlWrite _ => .none
  | .surveyCompareLatch => .none
  | .surveyWriteOutDone => .none
  | .lnklanesWrite _ => .none
  | .keepbaseWrite _ => .none
  | .systemRegisterWrite _ _ => .none
  | .planeScrub _ => .none
  | .llcScrub _ _ => .none
  | .hbmScrub _ _ => .none
  | .bankRetentionEntry _ => .none
  | .bankRetentionExit _ => .none
  | .wayGroupRetentionEntry _ _ => .none
  | .wayGroupRetentionExit _ _ => .none
  | .overcurrentWarning => .none
  | .overcurrentClear => .none
  | .thermalTrip => .none
  | .powerOnReset => .none
  | .cxlConventionalReset => .none
  | .meridianLock => .none
  | .firmwareVerify _ _ => .none
  | .functionReady _ => .none
  | .illegalInstructionFault => .none

/-- Fields that are legal whatever the state: register numbers of scalar fields below 64 (R144) and the conditions of `usesOf`. -/
def fieldsOk (x2 : Bool) (i : Instr) : Bool :=
  (usesOf x2 i).legal

end Sys2Proof.Machine
end

