-- ==== Sys2Proof/Machine/State.lean ====
section
/-! DEFINITION. The state of the device as plain data: every piece of state that the manual names (INVENTORY.md, State),
the machine's own plan and counters, the fault and refusal reasons, and the state after reset. -/

namespace Sys2Proof.Machine

/-! ### A squad -/

/-- A guard window of one thread (R146). left = 0 is no window. -/
structure Window where
  pred : BitVec 3
  neg  : Bool
  left : Nat
  deriving DecidableEq, Repr

/-- No guard window. -/
abbrev Window.none : Window := ⟨0, false, 0⟩

/-- The register files of a squad (R54). p holds p0 to p7 as lane masks; p0 is all ones. -/
structure Regs where
  v : Vector (Vector Word 32) 128
  s : Vector DWord 64
  p : Vector Mask 8
  deriving DecidableEq, Repr

/-- What a blocked thread waits for (R39), with the registers of its instruction. -/
inductive Blocked where
  | wait (thr : List Nat)              -- `wait`, `wait0`: thresholds of LD, ST, CP, TL, AR; none is 31
  | bar (team : Bool) (n gen : Nat)    -- completion of a barrier generation (R236)
  | qpush (q d : Nat)
  | qpop (q d : Nat)
  | qpushSpan (a d : Nat)
  | qpopSpan (a d : Nat)
  | semWait (a d b : Nat)
  | halt (a : Nat)
  deriving DecidableEq, Repr

/-- Threads that are blocked on one instruction (R39, R42), in one group: what for, the length of the instruction in bytes,
and when they began to wait (R239). -/
structure Wait where
  mask  : Mask
  what  : Blocked
  len   : Nat
  stamp : Nat
  deriving DecidableEq, Repr

/-- Thread state (R39 to R42, R146, R284, R321). -/
structure Threads where
  pc          : Vector DWord 32
  live        : Mask
  aside       : Mask               -- set-aside marks
  waits       : List Wait
  quantum     : Nat
  ran         : Mask               -- the group that issued last (R41)
  win         : Vector Window 32
  savedWin    : Vector Window 32   -- saved by a user trap (R283)
  savedSysWin : Vector Window 32   -- saved by entry to the system handler (R321)
  handlerMark : Mask
  sysMark     : Mask
  held        : Mask               -- the group that stalls at a fence or a system instruction (R233, R323); 0 for none
  deriving DecidableEq, Repr

/-- The trap registers (R282). -/
structure TrapRegs where
  pc    : DWord
  next  : DWord
  lanes : DWord
  cause : DWord
  info  : DWord
  mask  : DWord
  deriving DecidableEq, Repr

/-- The squad-held system registers (R318 to R320, R330, R331, R357, R391). -/
structure SysRegs where
  evena   : BitVec 7
  sysvec  : DWord
  cause   : DWord
  info0   : DWord
  info1   : DWord
  syspc   : DWord
  ctxid   : DWord
  lnksel  : DWord
  mcsel   : DWord
  waysel  : DWord
  partsel : DWord
  deriving DecidableEq, Repr

/-- The address spaces of loads, stores and atomics (R81). -/
inductive Space where
  | global | scratch | peer
  deriving DecidableEq, Repr

/-- One lane's access: its address as formed, the place of its bytes in memory, its size, its operands, and the peer device
that its page names, if any (R400). -/
structure Access where
  lane : Nat
  va   : Nat
  pa   : Nat
  n    : Nat
  x    : Nat := 0     -- store data, or the atomic's operand
  y    : Nat := 0     -- the replacement of a compare-and-swap
  via  : Option Nat := none
  deriving DecidableEq, Repr

/-- Atomic operations (R227, R228). -/
inductive AtomOp where
  | add | minI | maxI | minN | maxN | and | or | xor | exch | cas | fadd | fmin | fmax
  deriving DecidableEq, Repr

/-- Engine operations (R246 to R276). -/
inductive Engine where
  | cpyGS | cpySG | cpyGG | cpySP | cpyGS2 | cpySG2 | cpyPin
  | bload (fmt : Nat)
  | xformToplanes | xformFromplanes | xformZero | xformFill | xformChecksum
  | tmac (pairing : Nat)
  | tdrain (fmt : Nat)
  | taccZero | taccRead | taccWrite | taccAdd | taccScale
  | dotv (fmt : Nat)
  | arrLogic | arrAddsub | arrMul | arrCmp | arrSel | arrPopc | arrShift | arrBcast
  | arrxArm | arrxDisarm | arrxLoad | arrxStore | arrxFill | arrxQuery
  | stkRowcopy | stkRowzero | stkProbe
  deriving DecidableEq, Repr

/-- What an asynchronous operation does when it completes, with its operands as captured at issue (R59, R128). -/
inductive Act where
  | load (sp : Space) (w dst : Nat) (scalar : Bool) (acc : List Access)
  | store (sp : Space) (acc : List Access)
  | atomic (sp : Space) (op : AtomOp) (dst : Nat) (scalar : Bool) (acc : List Access)
  | engine (e : Engine) (dst : Nat) (x y z : DWord) (x2 : DWord) (v : Vector Word 32)
  deriving DecidableEq, Repr

/-- The failure that an operation recorded (R178, R226, R248). -/
structure OpError where
  cause  : Nat
  detail : Nat
  addr   : Nat
  lanes  : Mask
  token  : Nat
  aux    : Nat
  deriving DecidableEq, Repr

/-- An outstanding operation (R61). -/
structure Op where
  id     : Nat
  cls    : OpClass
  act    : Act
  mask   : Mask                   -- enabled lanes
  active : Mask                   -- the running group
  pc     : DWord                  -- address of the first prefix
  mode   : DWord                  -- MODE at issue (R59)
  order  : Nat                    -- order of R112, 0 where there is none
  scope  : Nat                    -- scope of R111
  strong : Bool
  last   : Option (Nat × Word)    -- queue and handle of a .last mark (R87)
  tag    : Nat                    -- tensor tag (R77)
  token  : Nat                    -- scalar register that receives the token or result
  done   : Bool
  err    : Option OpError
  stamp  : Nat                    -- when it began to wait for its push (R88); 0 before
  pos    : Nat                    -- bytes, or banks, already done (R253, R259, R353)
  detail : Nat                    -- DETAIL of its token so far (R249)
  wrote  : List (Nat × Nat)       -- global ranges (key, length) that it writes, invalidated again at retirement (R127)
  page   : Option (Nat × Bool)    -- the page (VA) at which it waits for replay, and whether a tlbinv has covered it (R248, R369)
  slots  : List (List Nat × List Byte)  -- the slots, planes and scales, that a tmac has read from its banks so far (R264)
  deriving DecidableEq, Repr

/-- A not-present page that an instruction waits for (R369): the address and the lanes that met it, and whether a covering tlbinv
has completed. -/
structure Awaited where
  va    : Nat
  lanes : Mask
  seen  : Bool
  deriving DecidableEq, Repr

/-- The not-present pages that an instruction waits for (R369), and the AUX of their records. -/
structure Replay where
  ctx   : Nat
  aux   : Nat
  pages : List Awaited
  deriving DecidableEq, Repr

/-- The prefix sequence in progress (R145 to R149) and what the issue of its instruction settled. -/
structure Cursor where
  first   : DWord                         -- address of the first prefix
  addr    : DWord                         -- address of the instruction
  next    : DWord                         -- address after the instruction
  active  : Mask                          -- running group
  enabled : Mask                          -- lanes enabled by guard windows
  guard   : Option (BitVec 3 × Bool × Nat)
  ord     : Option (Nat × Nat)            -- order, scope
  ext     : Option (BitVec 24)
  deriving DecidableEq, Repr

/-- Where a squad stands. -/
inductive Status where
  | absent             -- no squad
  | ready              -- takes part in issue
  | exiting            -- its last thread executed exit; operations outstanding (R46)
  | stopped            -- stopped by a fault (R368, R321)
  | frozen             -- stopped at a boundary for pre-emption (R353)
  deriving DecidableEq, Repr

/-- Where and as what a squad runs (R24, R25, R314). -/
structure Ident where
  id     : Nat      -- serial number
  core   : Nat      -- 0 to 127, or Config.mcCore
  quad   : Nat
  slot   : Nat
  crew   : Nat      -- serial number of its crew
  grid   : Nat      -- serial number of its grid; 0 for squad 0 of the management core
  squad  : Nat
  role   : Nat
  rsquad : Nat
  allot  : Nat
  ctx    : Nat
  priv   : Bool     -- system privilege
  deriving DecidableEq, Repr

/-- One resident squad. -/
structure Squad where
  ident   : Ident
  status  : Status
  regs    : Regs
  thr     : Threads
  mode    : DWord
  flags   : DWord
  trap    : TrapRegs
  sys     : SysRegs
  ops     : List Op
  since   : Nat                         -- count of issues of the device when it last issued or became ready (R53)
  errs    : List (OpClass × OpError)
  poisonV : List (Nat × Nat × Nat)      -- register, lane, load address (R225)
  poisonS : List (Nat × Nat)
  replay  : Option Replay
  exitPc  : DWord                       -- address of the last exit (R46)
  cur     : Cursor
  deriving DecidableEq, Repr

/-! ### Crews, grids and contexts -/

/-- A barrier (R236, R237): the current generation, the count that its first arrival fixed, and the squads that have
arrived in it. -/
structure Barrier where
  gen   : Nat
  count : Option Nat
  arr   : List Nat
  deriving DecidableEq, Repr

/-- A race-watch sector (R135). -/
structure RaceSector where
  sector : Nat
  squad  : Nat
  rank   : Nat
  gen    : Nat
  strong : Bool
  deriving DecidableEq, Repr

/-- A resident crew. -/
structure Crew where
  id      : Nat
  grid    : Nat
  core    : Nat
  slot    : Nat                   -- crew slot of its core, 0 to 31 (R329)
  linear  : Nat
  cx      : Nat
  cy      : Nat
  cz      : Nat
  rank    : Nat                   -- TEAMRANK
  peer    : Nat                   -- serial number of the team's other crew, 0 for none
  storage : List Nat              -- physical banks, by logical number
  compute : List Nat
  residen : List Nat              -- residency banks it sees (R35)
  attached : Bool
  bars    : Vector Barrier 16
  tbars   : Vector Barrier 4      -- the team's, kept in the crew of TEAMRANK 0
  queues  : Vector (List Word) 16
  gen     : Nat                   -- race-watch count G (R135)
  race    : List RaceSector
  marks   : List (Nat × Nat)      -- accumulator elements marked by an uncorrectable error: row, column (R374)
  squads  : Nat                   -- squads not yet retired
  began   : Nat                   -- when its first instruction issued, in moves of the device (R344, R346); 0 before
  deriving DecidableEq, Repr

/-- A role entry (R339). -/
structure Role where
  entry  : Nat
  squads : Nat
  vregs  : Nat
  deriving DecidableEq, Repr

/-- A launch record's fields as accepted (R338). -/
structure Record where
  va       : Nat
  flags    : Nat
  code     : Nat
  gx       : Nat
  gy       : Nat
  gz       : Nat
  scratch  : Nat
  roles    : List Role
  trap     : Nat
  priv     : Nat
  privBase : Nat
  args     : Nat
  stats    : Nat
  siteMap  : Nat
  banks    : Nat
  resid    : Nat
  residN   : Nat
  queues   : Nat
  dep0     : Nat × Nat
  dep1     : Nat × Nat
  comp     : Nat × Nat
  budget   : Nat
  deadline : Nat
  deriving DecidableEq, Repr

/-- Statistics of one tensor tag (R77). -/
structure TagCount where
  tag   : Nat
  sat   : Nat
  flush : Nat
  nan   : Nat
  deriving DecidableEq, Repr

/-- An accepted grid. -/
structure Grid where
  id      : Nat
  ctx     : Nat
  part    : Nat
  priv    : Bool
  mc      : Bool                 -- placed on the management core (R317)
  r       : Record
  nbv     : Nat
  stats   : List TagCount
  pend0   : Bool                 -- dependence 0 not yet satisfied (R342)
  pend1   : Bool
  toPlace : List (Nat × Nat)     -- runs of linear indices not yet placed: first, count
  left    : Nat                  -- crews not yet retired
  sites   : List (Nat × Nat × Nat)   -- the site map of a pinned grid: first crew, count, site (R37)
  dealt   : List (Nat × Nat)     -- blocks that a Faruf 1 target gave away, with the chiplet that took them (R349)
  started : Bool
  demoted : Bool
  used    : Nat                  -- core-microseconds (R347)
  usedAt  : Nat                  -- meridian up to which USED has been counted, ns
  launched : Nat                 -- serial number at its launch: acceptance, or the moment its last dependence was satisfied (R133, R140)
  t0      : Nat                  -- acceptance, or satisfaction of the last dependence (R346)
  deriving DecidableEq, Repr

/-- An array window of a context (R97 to R100). Elements are 512-bit records; those not listed hold dflt. -/
structure ArrWindow where
  num     : Nat
  armed   : Bool
  group   : Nat
  local_  : Bool
  slices  : List Nat              -- spanned slices, by logical number
  backing : Nat
  keys    : List (Nat × Nat)      -- where the backing range lay at arming: first byte and length (R99)
  part    : Nat
  dflt    : BitVec 512
  elems   : List (Nat × BitVec 512)
  dropped : Nat
  deriving DecidableEq, Repr

/-- Context-held registers and windows (R318, R320, R97). -/
structure Context where
  ptbase : DWord
  nbvset : DWord
  wins   : List ArrWindow
  deriving DecidableEq, Repr

/-- A residency (R34, R333): the physical banks of each of its cores, by logical number. -/
structure Residency where
  ctx   : Nat
  id    : Nat
  n     : Nat
  mask  : BitVec 128
  banks : List (Nat × List Nat)
  deriving DecidableEq, Repr

/-! ### Caches and translation -/

/-- An L1 sector (R93). -/
structure L1Sector where
  core   : Nat
  addr   : Nat             -- first byte of the sector
  data   : BitVec 512
  valid  : BitVec 64
  dirty  : BitVec 64
  fresh  : BitVec 64       -- bytes written since the poison came (R376)
  ctx    : Nat
  va     : Nat
  poison : Bool
  stale  : Bool            -- a tlbinv has covered its page since it was first made dirty (R370)
  pinned : Bool
  told   : Bool            -- a 0x49 record has been queued for it
  deriving DecidableEq, Repr

/-- A line present in the LLC (R96). What the home holds of it stands in the device's memory; here stands what lies below it in
the HBM or at the host: its bytes while a sector is dirty, and always its poison and its metadata code (R374). -/
structure LlcLine where
  addr  : Nat
  slice : Nat
  way   : Nat
  owner : Nat
  mixed : Bool
  kept  : List Nat     -- the grids that keep it (R254)
  dirty : BitVec 8
  back  : BitVec 4096
  backPoison : BitVec 8
  backCode   : Nat
  deriving DecidableEq, Repr

/-- What a way of a slice holds beside its lines (R331). -/
structure WayState where
  slice : Nat
  way   : Nat
  quar  : Bool
  uecnt : Nat
  deriving DecidableEq, Repr

/-- A translation held by a core's or chiplet's TLB (R364). -/
structure TlbEntry where
  core : Nat               -- the core, or the chiplet
  ctx  : Nat
  va   : Nat               -- first byte
  size : Nat
  pa   : Nat               -- first byte of the target
  leaf : DWord             -- the entry's permission and target bits
  deriving DecidableEq, Repr

/-- A walk that failed and may still be outstanding, which requests of its chiplet for its page join (R365). -/
structure Walk where
  chip   : Nat
  ctx    : Nat
  page   : Nat             -- VA / 64 KiB
  cause  : Nat
  detail : Nat
  since  : Nat             -- meridian time at which it began
  length : Nat             -- nanoseconds that it takes
  deriving DecidableEq, Repr

/-- A compression window (R330). -/
structure CompWindow where
  en   : Bool
  base : Nat               -- in 2 MiB units
  len  : Nat               -- in 2 MiB units, minus 1
  busy : Bool
  deriving DecidableEq, Repr

/-! ### Links, partitions and queues -/

/-- A lane group of a link (R394). -/
structure LaneGroup where
  fails    : BitVec 17     -- lanes that do not train, the spare last (R390, R420)
  bad      : BitVec 16
  spared   : Nat
  spareUse : Bool
  gretry   : Nat
  width    : Nat
  q        : Nat
  train    : Option Nat    -- the squad whose `lnkctl.width` trains it
  deriving DecidableEq, Repr

/-- A package link (R385 to R394). -/
structure Link where
  outa    : Nat
  turns   : List Nat             -- queued splits, oldest first
  turning : Option (Nat × Nat)   -- split being turned to, and the meridian time at which its dead time ends
  paused  : Bool
  down    : Bool
  owner   : Option Nat
  tstart  : Nat                  -- start of the last executed turn, full meridian count
  readyAt : Nat                  -- when the last wait of the turn at the head of the queue ended (R386)
  turned  : Bool                 -- some turn has executed, so the spacing of R276 applies
  retry   : Nat
  thresh  : Nat
  winNo   : Nat                  -- number of the 1 ms window of the last replay
  winCnt  : Nat
  winTold : Bool
  lastHit : Nat × Nat            -- group and lane of the last replay (R395)
  lostOwn : Bool                 -- a turn to 16/16 is due because ownership was lost (R387)
  groups  : Vector LaneGroup 32
  deriving DecidableEq, Repr

/-- Where a partition's command stands (R358, R359). -/
inductive PartPhase where
  | none | starting | evacuate | release | ending (ctx : Nat)
  deriving DecidableEq, Repr

/-- A partition (R354, R357). -/
structure Partition where
  chips  : BitVec 32
  target : BitVec 32
  state  : Nat                 -- 0 OFF, 1 RUNNING, 2 RESIZING, 3 ENDING
  rcores : Nat
  rmem   : Nat
  rlnk   : Nat
  err    : Nat
  keep   : DWord
  aim    : BitVec 32           -- TARGET as the running command took it
  cmds   : List DWord          -- PARTCTL values whose commands are still to run, oldest first (R358)
  phase  : PartPhase
  deriving DecidableEq, Repr

/-- A work queue (R336). -/
structure WorkQueue where
  base : DWord
  cfg  : DWord
  w    : Nat
  rd   : Nat
  err  : DWord
  deriving DecidableEq, Repr

/-- A unit in pre-emption (R353). -/
inductive UnitPhase where
  | stopping | draining | saving | saved | restoring
  deriving DecidableEq, Repr

/-- Why a unit is pre-empted (R352). -/
inductive UnitCause where
  | distributor
  | resize (part : Nat)
  | cxsave (squad : Nat) (dst : Nat) (keep : Nat)
  | cxrest (squad : Nat) (dst : Nat)
  | image                          -- saved by `cxsave`: its image waits for a `cxrest`
  deriving DecidableEq, Repr

/-- A unit being pre-empted or saved: its crews and squads while it is out of the cores (R50, R51, R353). -/
structure PreUnit where
  id     : Nat
  phase  : UnitPhase
  cause  : UnitCause
  part   : Nat
  ctx    : Nat
  crews  : List Nat
  slots  : List Nat           -- keep slots taken (R354)
  joined : List Nat           -- squads whose `cxsave` joined the one that runs (R352)
  heldC  : List Crew          -- the crews while they are saved; their banks then are numbers above 8191
  heldS  : List Squad
  deriving DecidableEq, Repr

/-! ### The device -/

/-- Device registers (R318, R377 to R379, R397, R400, R402, R407). -/
structure Device where
  errWr    : BitVec 32
  errLost  : Nat
  errCe    : Nat
  errRd    : BitVec 32
  errEn    : Bool
  errBase  : BitVec 31
  ready0   : DWord
  ready1   : DWord
  evpend   : BitVec 7
  retired  : List (Nat × Nat)      -- retired page, spare number (R330)
  mcwin    : Vector CompWindow 16
  regions  : List (Nat × Nat × Nat × Nat)   -- stack-linear regions: stack, base, size, first row (R403)
  domid    : DWord
  mailbox  : Vector Byte 256
  routes   : Vector DWord 256
  cmp      : DWord
  surveyCtl : DWord
  armedAt  : Option Nat            -- the tick at which the compare latch is due (R407)
  ctlAt    : Nat                   -- when SURVEYCTL was last written (R407)
  outs     : List (Nat × Nat)      -- pending write-outs, oldest first: area and next record
  snap     : List DWord            -- the latched values, six a record
  lastT    : Option Nat            -- tick of the last latch
  surveyWait : List (Nat × Nat)    -- squads in a survey instruction, with its tick
  answers  : List (Nat × DWord)    -- squads whose system instruction has its effect complete, with its result (R323)
  booted   : Bool                  -- the root of trust has ended its check of the firmware (R404)
  attest   : Option (List Byte × List Byte)   -- measurement and public key of the attestation key pair (R405)
  ideKeys  : Option (BitVec 256)   -- the keys of CXL IDE in force on the host link (R405)
  freed    : List (Nat × Nat)      -- banks given up since reset, with the time (R408)
  powered  : Bool
  halved   : Bool                  -- over-current limit in force (R409)
  spanDownAt : List (Nat × Nat)    -- per peer: since when no port of its mask has been trained (R400)
  deriving DecidableEq, Repr

/-- The firmware image in the boot flash (R401, R404), with its public key of 64 bytes and its signature of 29,792. -/
structure Firmware where
  image     : List Byte
  version   : BitVec 32
  key       : List Byte
  signature : List Byte
  entry     : DWord
  deriving DecidableEq, Repr

/-- What the H-die's flash and fuses hold (R404, R405): none in the flash when it cannot be read. -/
structure Board where
  flash      : Option Firmware
  fused      : List Byte         -- the SHAKE-256 digest of the public key
  minVersion : BitVec 32
  secret     : List Byte         -- the device secret
  deriving DecidableEq, Repr

/-- The counters that the survey reports (R407), each by record and position. Those not listed are 0. -/
abbrev SurveyCounters := List ((Nat × Nat) × BitVec 64)

/-- Storage found damaged only when it is next checked (R374, R257). -/
inductive Latent where
  | plane (bank plane : Nat)
  | side (bank : Nat)
  | retention (bank sector : Nat)
  | metadata (line : Nat)          -- of a line, by address / 512 (R105)
  deriving DecidableEq, Repr

/-- An upset of the environment (R374): an uncorrectable or correctable error in a structure. -/
inductive Upset where
  | corrected
  | storage (bank sector : Nat)
  | latent (l : Latent)
  | accumulator (crew row pair : Nat)
  | vreg (squad reg lane : Nat)
  | sreg (squad reg : Nat)
  | l1 (core sector : Nat)
  | tlb (n : Nat)
  | lane (link group lane : Nat)   -- a lane of a link, 16 for the spare, no longer trains (R390, R420)
  deriving DecidableEq, Repr

/-- One move of the plan: the environment's and the schedulers' choices (log 3). -/
inductive Move where
  | squad (id : Nat)        -- a quadrant issues this squad's next instruction
  | event (i : Instr)       -- a device step
  | upset (u : Upset)
  | evictL1 (core addr : Nat)
  | evictLlc (addr : Nat)
  | dropTlb (n : Nat)
  | report (pa : Nat)       -- firmware returns an attestation report in HDM (R405)
  | idle
  deriving DecidableEq, Repr

/-- The whole device. -/
structure State where
  mem      : List Host.Cell          -- what the homes hold; key spaces in Machine/Memory.lean
  poison   : List Nat                -- poisoned sectors, by address / 64
  codes    : List (Nat × Nat)        -- metadata codes of lines other than 0x0, by address / 512
  sq       : Squad                   -- the squad whose step runs
  parked   : List Squad              -- every other resident squad
  crews    : List Crew
  grids    : List Grid
  ctxs     : Vector Context 64
  resids   : List Residency
  l1       : List L1Sector
  llc      : List LlcLine
  ways     : List WayState
  wayRet   : List (Nat × Nat)        -- way groups in retention: slice, group
  bankRet  : List Nat                -- banks in retention
  tlb1     : List TlbEntry           -- L1 TLBs of the cores
  tlb      : List TlbEntry           -- L2 TLBs of the chiplets
  walks    : List Walk
  fused    : List Nat                -- pairs whose L1 is fused, by even core / 2
  latent   : List Latent
  links    : Vector Link 88
  parts    : Vector Partition 8
  queues   : Vector WorkQueue 64
  units    : List PreUnit
  dev      : Device
  board    : Board
  cycle    : List (Nat × BitVec 64)  -- CYCLE of cores that have counted
  survey   : SurveyCounters
  meridian : BitVec 64               -- the source on the H-die (R406)
  skew     : List (Nat × Nat)        -- of each die, its local copy less the source, plus 1: 0 to 2 (R406)
  lastCore : Nat                     -- core of the last step (R137)
  serial   : Nat                     -- next serial number
  tickets  : Nat                     -- counter of the free values
  plan     : List (Nat × Move)       -- moves to come, each with the nanoseconds before it
  olds     : List (Nat × Nat × List Byte) -- bytes replaced while grids ran: serial number, key, bytes (R140)
  hostOut  : List (Nat × Byte × Bool) -- bytes returned to the host or a peer, with their poison
  deriving DecidableEq, Repr

/-- Reasons for which the machine stops. -/
inductive Fault where
  /-- Raised by `step` alone, when power has been removed (R409) and the plan holds no further move: nothing happens
  until the next power-on. Safe: the device does nothing either. -/
  | noPower
  deriving DecidableEq, Repr

/-- Reasons for which the model gives no meaning. -/
inductive Refusal where
  /-- Answered by an arm of `exec` alone, for an instruction that has no meaning yet. Safe: no state is claimed. -/
  | notModelled (mnemonic : String)
  deriving DecidableEq, Repr

/-- What an instruction or step answers. -/
abbrev Res := Host.Outcome State Fault Refusal

/-! ### Reset -/

/-- Registers at squad entry (R30): zeros, and p0 true. -/
def Regs.reset : Regs :=
  { v := Vector.replicate 128 (Vector.replicate 32 0), s := Vector.replicate 64 0,
    p := (Vector.replicate 8 0).set 0 0xFFFFFFFF }

/-- Threads at squad entry (R30). -/
def Threads.reset (pc : DWord) : Threads :=
  { pc := Vector.replicate 32 pc, live := 0xFFFFFFFF, aside := 0, waits := [], quantum := 0, ran := 0,
    win := Vector.replicate 32 Window.none, savedWin := Vector.replicate 32 Window.none,
    savedSysWin := Vector.replicate 32 Window.none, handlerMark := 0, sysMark := 0, held := 0 }

/-- Trap registers at squad entry (R30). -/
def TrapRegs.reset : TrapRegs := ⟨0, 0, 0, 0, 0, 0⟩

/-- System registers at squad entry (R319, R320). -/
def SysRegs.reset : SysRegs := ⟨0, 0, 0, 0, 0, 0, 0, 0, 0, 0, 0⟩

/-- No prefix sequence. -/
def Cursor.none : Cursor := ⟨0, 0, 0, 0, 0, .none, .none, .none⟩

/-- A squad at entry (R30), before its index registers are set. -/
def Squad.entry (ident : Ident) (pc : DWord) : Squad :=
  { ident := ident, status := .ready, regs := Regs.reset, thr := Threads.reset pc, mode := 0, flags := 0,
    trap := TrapRegs.reset, sys := SysRegs.reset, ops := [], since := 0, errs := [], poisonV := [], poisonS := [], replay := .none,
    exitPc := 0, cur := Cursor.none }

/-- No squad. -/
def Squad.absent : Squad :=
  { Squad.entry ⟨0, Config.mcCore, 0, 0, 0, 0, 0, 0, 0, 0, 0, false⟩ 0 with status := .absent }

/-- A barrier that nothing has reached. -/
def Barrier.reset : Barrier := ⟨0, none, []⟩

/-- A context after reset (R320). -/
def Context.reset : Context := ⟨0, 2, []⟩

/-- A lane group after reset (R394). -/
def LaneGroup.reset : LaneGroup := ⟨0, 0, 0, false, 0, 0, 0, none⟩

/-- A link after reset (R392, R393). -/
def Link.reset : Link :=
  { outa := 16, turns := [], turning := .none, paused := false, down := false, owner := .none, tstart := 0, readyAt := 0, turned := false,
    retry := 0, thresh := 0x100, winNo := 0, winCnt := 0, winTold := false, lastHit := (0, 0), lostOwn := false,
    groups := Vector.replicate 32 LaneGroup.reset }

/-- A partition after reset (R357). -/
def Partition.reset : Partition := ⟨0, 0, 0, 0, 0, 0, 0, 0, 0, [], .none⟩

/-- A work queue after reset (R336). -/
def WorkQueue.reset : WorkQueue := ⟨0, 0, 0, 0, 0⟩

/-- Device registers after reset (R330, R378, R379, R402, R407). -/
def Device.reset : Device :=
  { errWr := 0, errLost := 0, errCe := 0, errRd := 0, errEn := false, errBase := 0, ready0 := 0,
    ready1 := 0x00000A0000000000, evpend := 0, retired := [], mcwin := Vector.replicate 16 ⟨false, 0, 0, false⟩,
    regions := [], domid := 0, mailbox := Vector.replicate 256 0, routes := Vector.replicate 256 0, cmp := 0, surveyCtl := 0,
    armedAt := .none, ctlAt := 0, outs := [], snap := [], lastT := .none, surveyWait := [], answers := [], booted := false,
    attest := .none, ideKeys := .none, freed := [], powered := true, halved := false, spanDownAt := [] }

/-- The flash and the fuses before anything is supplied from outside: an empty flash (log 83). -/
def Board.reset : Board := { flash := .none, fused := [], minVersion := 0, secret := [] }

/-- The device at step 1 of R401: the meridian source starts at 0, no ready bit is set, no squad runs and no memory is
listed. Squad 0 of the management core starts at step 3 (log 2). -/
def State.reset : State :=
  { mem := [], poison := [], codes := [], sq := Squad.absent, parked := [], crews := [], grids := [],
    ctxs := Vector.replicate 64 Context.reset, resids := [], l1 := [], llc := [], ways := [], wayRet := [], bankRet := [],
    tlb1 := [], tlb := [], walks := [], fused := [], latent := [], links := Vector.replicate 88 Link.reset,
    parts := Vector.replicate 8 Partition.reset, queues := Vector.replicate 64 WorkQueue.reset, units := [],
    dev := Device.reset, board := Board.reset, cycle := [], survey := [], meridian := 0, skew := [], lastCore := Config.mcCore, serial := 1, tickets := 0,
    plan := [], olds := [], hostOut := [] }

end Sys2Proof.Machine
end

