-- ==== Sys2Proof/Machine/Memory.lean ====
section
/-! DEFINITION. Memory as one canonical list of cells (R17, R81, R84, R91): addresses strictly rising, and no cell equal to what
an unlisted address reads as. The spaces that the device tells apart stand side by side in one space of keys. -/

namespace Sys2Proof.Machine

/-! ### Key spaces -/

/-- Physical addresses have 52 bits (R81). -/
abbrev paSpace : Nat := 0x10000000000000

/-- Key of a host address (TGT 1, R361). -/
def hostKey (pa : Nat) : Nat := paSpace + pa

/-- Key of an address of peer device p (TGT 2, R361). -/
def peerKey (p pa : Nat) : Nat := 2 * paSpace + p * paSpace + pa

/-- First key of the scratchpad and compute banks. -/
abbrev bankBase : Nat := 0x4000000000000000

/-- Key of a byte of a physical bank: bytes 0 to 65535 are its contents, the next 2048 its scale side store (R84).
Banks are numbered 32 × core + bank; the four of the management core follow those of core 127. -/
def bankKey (bank off : Nat) : Nat := bankBase + bank * 131072 + off

/-- First key of the accumulator rows. -/
abbrev rowBase : Nat := 0x8000000000000000

/-- Key of an element of a crew's accumulator row (R91): 512 bytes a row. Every crew has its own, however many crews see one residency's
banks on a core (DESIGN CHOICE, log 98). -/
def rowKey (crew row col : Nat) : Nat := rowBase + crew * 0x200000 + row * 512 + col * 4

/-- What an unlisted address reads as: 0x7F in a scale side store (R84), 0 elsewhere (R84, R91, R401; log 6). -/
def unlisted (a : Nat) : Byte :=
  if bankBase ≤ a ∧ a < rowBase ∧ 65536 ≤ (a - bankBase) % 131072 then 0x7F else 0

/-! ### Cells -/

/-- The canonical form of a memory. -/
abbrev Memory.wf (m : List Host.Cell) : Prop :=
  m.Pairwise (fun c d => c.1 < d.1) ∧ ∀ c ∈ m, c.2 ≠ unlisted c.1

/-- One byte. -/
def memGet (m : List Host.Cell) (a : Nat) : Byte :=
  match m.find? (fun c => c.1 == a) with
  | some c => c.2
  | none => unlisted a

/-- The cells that bytes bs at a need. -/
def cellsAt : Nat → List Byte → List Host.Cell
  | _, [] => []
  | a, b :: bs => if b = unlisted a then cellsAt (a + 1) bs else (a, b) :: cellsAt (a + 1) bs

/-- Bytes bs written at a, all at once. -/
def memPut (m : List Host.Cell) (a : Nat) (bs : List Byte) : List Host.Cell :=
  m.filter (fun c => c.1 < a) ++ cellsAt a bs ++ m.filter (fun c => a + bs.length ≤ c.1)

/-- n bytes from a. -/
def memRead (m : List Host.Cell) (a n : Nat) : List Byte :=
  let w := m.filter (fun c => a ≤ c.1 && c.1 < a + n)
  (List.range n).map fun i => memGet w (a + i)

/-- The little-endian value of bytes (R17). -/
def leNat : List Byte → Nat
  | [] => 0
  | b :: bs => b.toNat + 256 * leNat bs

/-- The n little-endian bytes of a value (R17). -/
def leBytes : Nat → Nat → List Byte
  | 0, _ => []
  | n + 1, x => BitVec.ofNat 8 x :: leBytes n (x / 256)

/-- The value of n bytes at a. -/
def memNat (m : List Host.Cell) (a n : Nat) : Nat := leNat (memRead m a n)

/-- Write the n low bytes of x at a. -/
def memPutNat (m : List Host.Cell) (a n x : Nat) : List Host.Cell := memPut m a (leBytes n x)

/-- n bytes at a become what unlisted bytes read as. -/
def memClear (m : List Host.Cell) (a n : Nat) : List Host.Cell :=
  m.filter (fun c => c.1 < a || a + n ≤ c.1)

/-! ### Sets of numbers as rising lists -/

/-- Insert without repeats. -/
def setAdd : List Nat → Nat → List Nat
  | [], a => [a]
  | x :: xs, a => if a < x then a :: x :: xs else if a = x then x :: xs else x :: setAdd xs a

/-- Remove. -/
def setDel (l : List Nat) (a : Nat) : List Nat := l.filter (· != a)

/-- Add every number of a list. -/
def setAddAll (l : List Nat) (as : List Nat) : List Nat := as.foldl setAdd l

/-- The value of a key in an association list, with a default. -/
def assocGet {α : Type} (l : List (Nat × α)) (k : Nat) (d : α) : α :=
  match l.find? (fun c => c.1 == k) with
  | some c => c.2
  | none => d

/-- Set a key in an association list. -/
def assocSet {α : Type} (l : List (Nat × α)) (k : Nat) (v : α) : List (Nat × α) :=
  (k, v) :: l.filter (fun c => c.1 != k)

/-- A list with the first element that a test accepts replaced. -/
def putFirst {α : Type} (p : α → Bool) (x : α) : List α → List α
  | [] => []
  | a :: l => if p a then x :: l else a :: putFirst p x l

/-- Entry i of a vector. -/
def vget {α : Type} {n : Nat} [NeZero n] (v : Vector α n) (i : Nat) : α := v[i % n]'(Nat.mod_lt _ (Nat.pos_of_neZero n))

/-- A vector with entry i replaced. -/
def vset {α : Type} {n : Nat} [NeZero n] (v : Vector α n) (i : Nat) (x : α) : Vector α n :=
  v.set (i % n) x (Nat.mod_lt _ (Nat.pos_of_neZero n))

/-- A context's registers and windows. -/
def State.ctx (s : State) (c : Nat) : Context := vget s.ctxs c

/-- Change a context. -/
def State.setCtx (s : State) (c : Nat) (x : Context) : State := { s with ctxs := vset s.ctxs c x }

/-- A partition. -/
def State.part (s : State) (p : Nat) : Partition := vget s.parts p

/-- Change a partition. -/
def State.setPart (s : State) (p : Nat) (x : Partition) : State := { s with parts := vset s.parts p x }

/-- A work queue. -/
def State.queue (s : State) (q : Nat) : WorkQueue := vget s.queues q

/-- Change a work queue. -/
def State.setQueue (s : State) (q : Nat) (x : WorkQueue) : State := { s with queues := vset s.queues q x }

/-- A link. -/
def State.link (s : State) (n : Nat) : Link := vget s.links n

/-- Change a link. -/
def State.setLink (s : State) (n : Nat) (x : Link) : State := { s with links := vset s.links n x }

/-- A free value of the manual's, and the counter behind it. -/
def State.ticket (s : State) : State := { s with tickets := s.tickets + 1 }

/-! ### Banks -/

/-- n bytes of a crew's scratchpad at offset o, which lies in its storage banks (R83). -/
def bankRead (s : State) (banks : List Nat) (o n : Nat) : List Byte :=
  memRead s.mem (bankKey (banks.getD (o / 65536) 0) (o % 65536)) n

/-- The pieces of a scratchpad range, bank by bank: key and length. -/
def bankPieces (banks : List Nat) : Nat → Nat → Nat → List (Nat × Nat)
  | 0, _, _ => []
  | fuel + 1, o, n =>
    if n = 0 then []
    else
      let k := Nat.min n (65536 - o % 65536)
      (bankKey (banks.getD (o / 65536) 0) (o % 65536), k) :: bankPieces banks fuel (o + k) (n - k)

/-- The bytes of a scratchpad range that may cross banks (at most 32 banks, R83). -/
def spadRead (s : State) (banks : List Nat) (o n : Nat) : List Byte :=
  (bankPieces banks 34 o n).flatMap fun p => memRead s.mem p.1 p.2

/-- Write bytes over pieces in order. -/
def putPieces (m : List Host.Cell) : List (Nat × Nat) → List Byte → List Host.Cell
  | [], _ => m
  | (a, n) :: ps, bs => putPieces (memPut m a (bs.take n)) ps (bs.drop n)

/-- The sectors that a range of keys touches. -/
def sectorsOf (a n : Nat) : List Nat :=
  if n = 0 then [] else (List.range ((a + n - 1) / 64 - a / 64 + 1)).map (a / 64 + ·)

/-- The sectors that a range of keys covers whole (R376). -/
def wholeSectors (a n : Nat) : List Nat :=
  (sectorsOf a n).filter fun t => a ≤ t * 64 && t * 64 + 64 ≤ a + n

/-- Does a range of keys hold a poisoned sector? -/
def anyPoison (s : State) (a n : Nat) : Bool :=
  !s.poison.isEmpty && (sectorsOf a n).any (s.poison.contains ·)

/-- Write bytes in a store that has no home (banks): poison of whole sectors clears (R376). -/
def rawWrite (s : State) (a : Nat) (bs : List Byte) : State :=
  { s with mem := memPut s.mem a bs,
           poison := if s.poison.isEmpty then [] else s.poison.filter fun t => !(wholeSectors a bs.length).contains t }

/-- Write a scratchpad range. -/
def spadWrite (s : State) (banks : List Nat) (o : Nat) (bs : List Byte) : State :=
  ((bankPieces banks 34 o bs.length).foldl
    (fun (st : State × List Byte) p => (rawWrite st.1 p.1 (st.2.take p.2), st.2.drop p.2)) (s, bs)).1

/-- Does a scratchpad range hold a poisoned sector? -/
def spadPoison (s : State) (banks : List Nat) (o n : Nat) : Bool :=
  !s.poison.isEmpty && (bankPieces banks 34 o n).any fun p => anyPoison s p.1 p.2

/-- An accumulator row as 128 values (R91). -/
def rowRead (s : State) (crew row : Nat) : List Nat :=
  let bs := memRead s.mem (rowKey crew row 0) 512
  (List.range 128).map fun c => leNat ((bs.drop (4 * c)).take 4)

/-- Write elements of an accumulator row from column c on. -/
def rowWrite (s : State) (crew row c : Nat) (xs : List Nat) : State :=
  { s with mem := memPut s.mem (rowKey crew row c) (xs.flatMap (leBytes 4)) }

end Sys2Proof.Machine
end

