-- ==== Sys2Proof/Machine/Home.lean ====
section
/-! DEFINITION. The homes: LLC lines with owner tags (R96, R376), compression windows (R101 to R106), and the error ring
(R372, R378 to R380), which is written at the homes. -/

namespace Sys2Proof.Machine

/-! ### Numbers as fields -/

/-- Bit k of a number. -/
def bit (x k : Nat) : Bool := x / 2 ^ k % 2 == 1

/-- A number with bit k set to b. -/
def setBit (x k : Nat) (b : Bool) : Nat :=
  if bit x k == b then x else if b then x + 2 ^ k else x - 2 ^ k

/-- One when true. -/
def b2n (b : Bool) : Nat := if b then 1 else 0

/-- Cap a count. -/
def satTo (top x : Nat) : Nat := if top < x then top else x

/-- The lanes of a mask, ascending (R21). -/
def laneList (m : Mask) : List Nat := (List.range 32).filter fun l => m.getLsbD l

/-- The mask of a list of lanes. -/
def maskOf (ls : List Nat) : Mask := ls.foldl (fun m l => m ||| BitVec.twoPow 32 l) 0

/-- Add to a survey counter (R407). -/
def State.countSurvey (s : State) (record k n : Nat) : State :=
  let old := ((s.survey.find? fun c => c.1 == (record, k)).map (·.2)).getD 0
  { s with survey := ((record, k), old + BitVec.ofNat 64 n) :: s.survey.filter fun c => c.1 != (record, k) }

/-! ### Slices and ways -/

/-- The home slice of a line (R96; log 5). -/
def sliceOf (a : Nat) : Nat := Config.homeSlice (a / 512) % 32

/-- Is a way group of a slice in array mode (R98)? -/
def inArray (s : State) (slice group : Nat) : Bool :=
  s.ctxs.any fun c => c.wins.any fun w => w.armed && w.group == group && w.slices.contains slice

/-- Is a way quarantined (R331)? -/
def quarantined (s : State) (slice way : Nat) : Bool :=
  s.ways.any fun w => w.slice == slice && w.way == way && w.quar

/-- The ways of a slice that may take a line (R331, R98). -/
def usableWays (s : State) (slice : Nat) : List Nat :=
  (List.range 16).filter fun w => !quarantined s slice w && !inArray s slice (w / 4)

/-- Lines are cached unless a peer device is their home (R400). -/
def cacheable (a : Nat) : Bool := a < 2 * paSpace

/-- The line of an address, if the LLC holds it. -/
def llcFind (s : State) (a : Nat) : Option LlcLine := s.llc.find? fun l => l.addr == a / 512 * 512

/-- Replace a line's record. -/
def llcSet (s : State) (l : LlcLine) : State :=
  { s with llc := l :: s.llc.filter fun k => k.addr != l.addr }

/-- Drop a line's record. -/
def llcDrop (s : State) (a : Nat) : State := { s with llc := s.llc.filter fun k => k.addr != a }

/-- The poisoned sectors of a line, as a mask. -/
def linePoison (s : State) (line : Nat) : BitVec 8 :=
  if s.poison.isEmpty then 0
  else BitVec.ofNat 8 ((List.range 8).foldl (fun m j => if s.poison.contains (line / 64 + j) then setBit m j true else m) 0)

/-- The sectors of a line that a mask names. -/
def maskSectors (line : Nat) (m : BitVec 8) : List Nat := ((List.range 8).filter fun j => m.getLsbD j).map (line / 64 + ·)

/-- A line's code as it is held, inside a window or not. -/
def heldCode (s : State) (line : Nat) : Nat := assocGet s.codes (line / 512) 0

/-- Set a line's code. Code 0x0 is not listed. -/
def setCode (s : State) (line code : Nat) : State :=
  { s with codes := if code = 0 then s.codes.filter (fun c => c.1 != line / 512) else assocSet s.codes (line / 512) code }

/-- The metadata of a line changes, at the home and below it (R103, R105, R330). -/
def setMeta (s : State) (line code : Nat) : State :=
  let t := setCode s line code
  match llcFind t line with
  | none => t
  | some l => llcSet t { l with backCode := code }

/-- A line's dirty sectors, their poison and its code go to memory (R326 wb, R376). -/
def llcClean (s : State) (a : Nat) : State :=
  match llcFind s a with
  | none => s
  | some l =>
    if l.dirty == 0 then s
    else
      let below := (l.backPoison &&& ~~~l.dirty) ||| (linePoison s l.addr &&& l.dirty)
      llcSet (s.countSurvey (128 + l.slice) 2 1) { l with dirty := 0, mixed := false, backCode := heldCode s l.addr, backPoison := below }

/-- A line's record goes: what lies below it shows again (R374). -/
def llcShow (s : State) (l : LlcLine) : State :=
  let t := if linePoison s l.addr == l.backPoison then s
    else { s with poison := setAddAll (s.poison.filter fun t => t / 8 != l.addr / 512) (maskSectors l.addr l.backPoison) }
  let t := if heldCode s l.addr == l.backCode then t else setCode t l.addr l.backCode
  llcDrop t l.addr

/-- A line is written back and given up (R96). -/
def llcEvict (s : State) (a : Nat) : State :=
  let t := llcClean s a
  match llcFind t a with
  | none => t
  | some l => llcShow t l

/-- A line's dirty data is discarded with the line (R326 inv): what lies below shows again. -/
def llcDiscard (s : State) (a : Nat) : State :=
  match llcFind s a with
  | none => s
  | some l => llcShow (if l.dirty == 0 then s else { s with mem := memPut s.mem l.addr (leBytes 512 l.back.toNat) }) l

/-- Sets of a slice: 48 MiB of lines in 16 ways (R7, R96). -/
abbrev llcSets : Nat := 6144

/-- The set of its slice that a line belongs to (log 7). -/
def lineSetOf (a : Nat) : Nat := Config.lineSet (a / 512) % llcSets

/-- The lines that share a line's slice and set. -/
def setLines (s : State) (a : Nat) : List LlcLine :=
  s.llc.filter fun l => l.slice == sliceOf a && lineSetOf l.addr == lineSetOf a

/-- The line that gives way in a full set: kept lines only where every usable way of the set holds one (R254). -/
def llcVictim (s : State) (ls : List LlcLine) : Option LlcLine :=
  let loose := ls.filter fun l => l.kept.isEmpty
  let from_ := if loose.isEmpty then ls else loose
  from_[Config.freeWay s.tickets % from_.length]?

/-- Room for a line in its set, among the usable ways ws of its slice: a full set gives up a line, also while the links to the memory
behind it are closed (DESIGN CHOICE, log 110). Fewer lines in the whole LLC than ways fill no set. -/
def llcRoom (s : State) (a : Nat) (ws : List Nat) : State :=
  if s.llc.length < ws.length then s
  else
    let ls := (setLines s a).filter fun l => ws.contains l.way
    if ls.length < ws.length then s
    else match llcVictim s ls with
      | none => s
      | some l => llcEvict s.ticket l.addr

/-- A fill by a context (R96, R376): the line takes a way of its set that is usable and free; which one is free (log 7). -/
def llcFill (s : State) (ctx a : Nat) : State :=
  if !cacheable a then s
  else if (llcFind s a).isSome then s.countSurvey (128 + sliceOf a) 0 1
  else
    let s := s.countSurvey (128 + sliceOf a) 1 1
    let ws := usableWays s (sliceOf a)
    if ws.isEmpty then s
    else
      let s := llcRoom s a ws
      let open_ := ws.filter fun w => !(setLines s a).any fun l => l.way == w
      let way := open_.getD (Config.freeWay s.tickets % open_.length) 0
      let line := a / 512 * 512
      llcSet s.ticket ⟨line, sliceOf a, way, ctx, false, [], 0, 0, linePoison s line, heldCode s line⟩

/-- The sectors of a line that a range touches, as a mask. -/
def touched (line a n : Nat) : BitVec 8 :=
  BitVec.ofNat 8 ((List.range 8).foldl
    (fun m j => if line + 64 * j < a + n && a < line + 64 * j + 64 then setBit m j true else m) 0)

/-- A write by a context marks its line (R376): dirty sectors, the writer's tag, MIXED where another context had it. -/
def llcWrite (s : State) (ctx line a n : Nat) : State :=
  let fresh := (llcFind s line).isNone
  let s := llcFill s ctx line
  match llcFind s line with
  | none => s
  | some l =>
    let l := if l.dirty == 0 then { l with back := BitVec.ofNat 4096 (memNat s.mem line 512) } else l
    llcSet s { l with owner := ctx, mixed := l.mixed || (!fresh && l.owner != ctx), dirty := l.dirty ||| touched line a n }

/-- The lines that a range of keys touches. -/
def linesOf (a n : Nat) : List Nat :=
  if n = 0 then [] else (List.range ((a + n - 1) / 512 - a / 512 + 1)).map fun i => (a / 512 + i) * 512

/-- Keep the bytes that a write to a home replaces, while grids run whose fetches may still find them (R140; log 35). -/
def noteOld (s : State) (a : Nat) (old : List Byte) : State :=
  if s.grids.isEmpty then s else { s with olds := s.olds ++ [(s.serial, a, old)] }

/-- Write bytes at their home as they are to be stored; whole sectors lose their poison (R376). -/
def homePut (s : State) (ctx a : Nat) (bs : List Byte) : State :=
  rawWrite ((linesOf a bs.length).foldl (fun st line => llcWrite st ctx line a bs.length) s) a bs

/-! ### Records -/

/-- The meridian time of a core's die: its local copy, within 1 ns of the source (R137, R406). -/
def State.nowAt (s : State) (core : Nat) : DWord :=
  match assocGet s.skew (core / 4) 1 with
  | 0 => s.meridian - 1
  | 1 => s.meridian
  | _ => s.meridian + 1

/-- The meridian time of the die that acts. -/
def State.now (s : State) : DWord := s.nowAt s.lastCore

/-- Raise event k on the management core (R319). -/
def raiseEvent (s : State) (k : Nat) : State :=
  { s with dev := { s.dev with evpend := s.dev.evpend ||| (1 <<< k : BitVec 7) } }

/-- One corrected error (R373, R379). -/
def countCorrected (s : State) : State :=
  { s with dev := { s.dev with errCe := satTo 0xFFFF (s.dev.errCe + 1) } }

/-- Does a range of keys meet the place where an armed window's backing range lay at arming (R98, R99; log 16)? -/
def atArmed (s : State) (key n : Nat) : Bool :=
  s.ctxs.any fun c => c.wins.any fun w => w.armed && w.keys.any fun k => key < k.1 + k.2 && k.1 < key + n

/-- Write a record whole at the place that WR names; then WR advances (R378). No closed link holds it back (DESIGN CHOICE, log 110). -/
def storeRecord (s : State) (words : List Byte) : State :=
  let u := homePut s 0 (s.dev.errBase.toNat * 2097152 + 32 * (s.dev.errWr.toNat % 65536)) words
  { u with dev := { u.dev with errWr := u.dev.errWr + 1 } }

/-- Queue a record (R372, R378 to R380): it is stored, or lost where the ring is off, full, or lies where an armed window's backing
did at arming (log 16); then the event. -/
def pushRecord (s : State) (isFault : Bool) (w8 w10 w18 : Nat) : State :=
  raiseEvent
    (if s.dev.errEn && (s.dev.errWr - s.dev.errRd).toNat != 65536
        && !atArmed s (s.dev.errBase.toNat * 2097152 + 32 * (s.dev.errWr.toNat % 65536)) 32 then
      storeRecord s (leBytes 8 s.now.toNat ++ leBytes 8 w8 ++ leBytes 8 w10 ++ leBytes 8 w18)
    else { s with dev := { s.dev with errLost := satTo 0xFFFF (s.dev.errLost + 1) } })
    (if isFault then 0 else 1)

/-- Word 0x08 of a record (R372). -/
def recWord8 (code ctx : Nat) (ctxv phys : Bool) (detail aux unit : Nat) : Nat :=
  code + ctx % 64 * 256 + b2n ctxv * 16384 + b2n phys * 32768 + detail * 65536 + aux % 256 * 16777216 + unit % 4294967296 * 4294967296

/-- Word 0x10 of a record (R372): the address, the core, and the mark of the management core. -/
def recWord10 (addr core : Nat) : Nat :=
  addr % 36028797018963968 + (if core = Config.mcCore then 4611686018427387904 else core % 128 * 36028797018963968)

/-- An error record (R377): kind, context where known, structure, unit, physical address and INFO. PHYS stands where the record
has an address: those of the L1, the LLC data and the HBM (R372, R374). -/
def errorRecord (s : State) (kind : Nat) (ctx : Option Nat) (structure_ aux unit addr info core : Nat) : State :=
  let phys := structure_ == 5 || structure_ == 7 || structure_ == 10
  pushRecord s false (recWord8 kind (ctx.getD 0) ctx.isSome phys structure_ aux unit) (recWord10 addr core)
    (info % 18446744073709551616)

/-! ### Compression windows -/

/-- Is a physical address inside a window in force (R101, R330)? -/
def inWindow (s : State) (a : Nat) : Bool :=
  a < paSpace && s.dev.mcwin.any fun w => w.en && w.base * 2097152 ≤ a && a < (w.base + w.len + 1) * 2097152

/-- The metadata code of a line; 0 outside windows (R101, R103). -/
def codeOf (s : State) (line : Nat) : Nat := if inWindow s line then heldCode s line else 0

/-- Expand a compressed form (R102): the mask, then the non-zero words in ascending order. -/
def expandForm (raw : List Byte) : List Byte :=
  let mask := leNat (raw.take 8)
  ((List.range 64).foldl
    (fun (st : List (List Byte) × List Byte) i =>
      if bit mask i then (st.2.take 8 :: st.1, st.2.drop 8) else (List.replicate 8 0 :: st.1, st.2))
    ([], raw.drop 8)).1.reverse.flatten

/-- The 64 words of a line's bytes. -/
def lineWords (bs : List Byte) : List Nat := (List.range 64).map fun i => leNat ((bs.drop (8 * i)).take 8)

/-- The compressed form of a line and its code (R102, R103): code 0x8 with no data, 0x1 to 0x7 with that many sectors, or
code 0x0 with the raw line. -/
def compressLine (bs : List Byte) : Nat × List Byte :=
  let ws := lineWords bs
  let nz := (List.range 64).filter fun i => ws.getD i 0 != 0
  let z := nz.length
  if z = 0 then (8, [])
  else if 56 ≤ z then (0, bs)
  else
    let n := (8 + 8 * z + 63) / 64
    let mask := nz.foldl (fun m i => setBit m i true) 0
    let form := leBytes 8 mask ++ nz.flatMap fun i => leBytes 8 (ws.getD i 0)
    (n, form ++ List.replicate (64 * n - form.length) 0)

/-- A line's 512 bytes as a reader sees them (R103): expanded where its code says so; a form with more words than fit reads 0 beyond
the line. -/
def lineBytes (s : State) (line : Nat) : List Byte :=
  let c := codeOf s line
  if c = 8 then List.replicate 512 0
  else if 1 ≤ c ∧ c ≤ 7 then expandForm (memRead s.mem line 512 ++ List.replicate 8 0)
  else memRead s.mem line 512

/-- The physical address that a key of memory stands for. -/
def physOf (key : Nat) : Nat := key % paSpace

/-- The stack of an address (R108, R403): that of its stack-linear region; for the interleaved remainder it is free (log 5). -/
def stackOf (s : State) (a : Nat) : Nat :=
  match s.dev.regions.find? fun r => r.2.1 ≤ a && a < r.2.1 + r.2.2.1 with
  | some r => r.1
  | none => Config.granuleStack (a / 2048) % 12

/-- MIXED and DIRTY of the line that an address lies in, as a record gives them (R372, R376). -/
def lineAux (s : State) (a : Nat) : Nat :=
  match llcFind s a with
  | none => 0
  | some l => b2n l.mixed + 2 * b2n (l.dirty != 0)

/-- The record of a metadata failure (R103, R105, R371, R372). -/
def metaRecord (s : State) (line code : Nat) : State :=
  errorRecord s 0x83 ((llcFind s line).map (·.owner)) 10 (lineAux s line) (stackOf s line) (physOf line) code 0

/-- The sectors that a reader of sector t takes from storage (R103): itself in a raw line, the stored sectors in a compressed
one, none in a line of zeros. -/
def storedSectors (s : State) (t : Nat) : List Nat :=
  let c := codeOf s (t / 8 * 512)
  if c = 0 then [t] else if c < 8 then (List.range c).map (t / 8 * 8 + ·) else []

/-- Does a sector read as poisoned (R103, R376)? -/
def sectorBad (s : State) (t : Nat) : Bool :=
  9 ≤ codeOf s (t / 8 * 512) || (storedSectors s t).any s.poison.contains

/-- Does any byte of a range of keys read as poisoned? -/
def anyBad (s : State) (a n : Nat) : Bool := (sectorsOf a n).any (sectorBad s)

/-- Does the fetch of a line's metadata fail: it is damaged, and the LLC does not hold the line (R105)? -/
def metaFails (s : State) (line : Nat) : Bool :=
  s.latent.contains (.metadata (line / 512)) && inWindow s line && (llcFind s line).isNone

/-- The metadata of a line is lost: its code is 0xF (R105). -/
def loseMeta (s : State) (line : Nat) : State :=
  setMeta { s with latent := s.latent.filter (· != .metadata (line / 512)) } line 15

/-- The metadata of a line is fetched for a read: a fetch that fails leaves code 0xF and a record (R105). -/
def fetchMeta (s : State) (line : Nat) : State :=
  if metaFails s line then metaRecord (loseMeta s line) line 15 else s

/-- A code that the device never writes is recorded once, and becomes 0xF (R103). -/
def noteCode (s : State) (line : Nat) : State :=
  let c := codeOf s line
  if 9 ≤ c ∧ c ≤ 14 then metaRecord (setMeta s line 15) line c else s

/-- A read reaches a line: its metadata is at hand and its code is one that the device writes. -/
def reachLine (s : State) (line : Nat) : State := noteCode (fetchMeta s line) line

/-- Read n bytes at their home for a context: the bytes, and whether any of them is poisoned (R103, R376). -/
def homeRead (s : State) (ctx a n : Nat) : State × List Byte × Bool :=
  let lines := linesOf a n
  let s := lines.foldl (fun st line => llcFill (fetchMeta st line) ctx line) s
  if lines.all fun line => codeOf s line == 0 then (s, memRead s.mem a n, anyPoison s a n)
  else (lines.foldl noteCode s, ((lines.flatMap (lineBytes s)).drop (a - lines.headD 0)).take n, anyBad s a n)

/-- A refused write: the line stays as it is, its code becomes 0xF, and the record names the code found (R105). -/
def refuseWrite (s : State) (line code : Nat) : State × Bool := (metaRecord (setMeta s line 15) line code, true)

/-- A write of part of a line (R104, R105): in place when the line is raw; expanded and merged when it is compressed, unless a
sector read in the merge is poisoned; refused, with the one record of its refusal, when its code is 0x9 to 0xF or its metadata cannot
be fetched. True when refused. -/
def homeWritePart (s : State) (ctx line a : Nat) (bs : List Byte) : State × Bool :=
  let s := if metaFails s line then loseMeta s line else s
  let c := codeOf s line
  if 9 ≤ c then refuseWrite s line c
  else if c = 0 then (homePut (noteOld s a (memRead s.mem a bs.length)) ctx a bs, false)
  else if sectorBad s (line / 64) then refuseWrite s line c
  else
    let old := lineBytes s line
    let new := old.take (a - line) ++ bs ++ old.drop (a - line + bs.length)
    (setCode (homePut (noteOld s line old) ctx line new) line 0, false)

/-- Write bytes at their homes, line by line; true when some line refused (R105). -/
def homeWrite (s : State) (ctx a : Nat) (bs : List Byte) : State × Bool :=
  if s.latent.isEmpty && (linesOf a bs.length).all fun line => codeOf s line == 0 then
    (homePut (noteOld s a (memRead s.mem a bs.length)) ctx a bs, false)
  else
    (linesOf a bs.length).foldl (fun (st : State × Bool) line =>
      let lo := Nat.max a line
      let hi := Nat.min (a + bs.length) (line + 512)
      let r := homeWritePart st.1 ctx line lo ((bs.drop (lo - a)).take (hi - lo))
      (r.1, st.2 || r.2)) (s, false)

/-- A whole line written by the distiller or a copy (R104): compressed in a window, with a new code whatever the old. -/
def homeWriteLine (s : State) (ctx line : Nat) (bs : List Byte) : State :=
  let s := noteOld { s with latent := s.latent.filter (· != .metadata (line / 512)) } line (lineBytes s line)
  if inWindow s line then
    let f := compressLine bs
    let s := llcWrite (if f.1 = 0 then s else s.countSurvey (160 + stackOf s line) 3 1) ctx line line 512
    setCode (rawWrite { s with poison := s.poison.filter fun t => t / 8 != line / 512 } line f.2) line f.1
  else homePut s ctx line bs

/-- Merge the bytes that a mask selects into a sector at its home (R93): poison stays unless the mask is full (R376). -/
def homeMerge (s : State) (ctx a : Nat) (data : BitVec 512) (mask : BitVec 64) : State × Bool :=
  let old := ((lineBytes s (a / 512 * 512)).drop (a % 512)).take 64
  let new := (List.range 64).map fun i => if mask.getLsbD i then BitVec.ofNat 8 (data.toNat / 2 ^ (8 * i)) else old.getD i 0
  let was := s.poison.contains (a / 64)
  let r := homeWritePart s ctx (a / 512 * 512) a new
  if was && mask != BitVec.allOnes 64 then ({ r.1 with poison := setAdd r.1.poison (a / 64) }, r.2) else r

end Sys2Proof.Machine
end

