-- ==== Sys2Proof/Machine/Route.lean ====
section
/-! DEFINITION. The package's dies, links and routes (R381, R382), and whether the links that an access needs are open (R334, R390). -/

namespace Sys2Proof.Machine

/-! ### Dies and links (R381) -/

/-- The dies that links join: chiplets, E-dies and the H-die, which is also the management core's. -/
inductive Die where
  | chip (n : Nat)
  | edge (n : Nat)
  | host
  deriving DecidableEq, Repr

/-- Links below this number are the mesh's; those above are owned by no partition (R383). -/
abbrev meshLinks : Nat := 52

/-- Chiplet (x, y). -/
def chipAt (x y : Nat) : Nat := 8 * y + x

/-- The end chiplets of a mesh link, end A first. -/
def meshEnds (n : Nat) : Nat × Nat :=
  if n < 28 then (chipAt (n % 7) (n / 7), chipAt (n % 7 + 1) (n / 7))
  else (chipAt ((n - 28) % 8) ((n - 28) / 8), chipAt ((n - 28) % 8) ((n - 28) / 8 + 1))

/-- The ends of each of the 88 links, end A first. -/
def linkEnds (n : Nat) : Die × Die :=
  if n < meshLinks then (.chip (meshEnds n).1, .chip (meshEnds n).2)
  else if n < 68 then (.chip (chipAt ((n - 52) / 2) 0), .edge ((n - 52) / 2 / 4))
  else if n < 84 then (.chip (chipAt ((n - 68) / 2) 3), .edge (2 + (n - 68) / 2 / 4))
  else (.chip (chipAt 0 (n - 84)), .host)

/-- The E-die that holds a stack (R381; log 76). -/
def stackEdge (k : Nat) : Nat := k / 3 % 4

/-! ### Routes (R382) -/

/-- The chiplet of a core; 32 is the management core's die. -/
def chipletOf (core : Nat) : Nat := core / 4

/-- The peer device of a key. -/
def peerOfKey (k : Nat) : Option Nat := if 2 * paSpace ≤ k ∧ k < 258 * paSpace then some ((k - 2 * paSpace) / paSpace) else none

/-- The horizontal links of row y between two columns. -/
def rowLinks (y a b : Nat) : List Nat := (List.range (Nat.max a b - Nat.min a b)).map fun i => 7 * y + Nat.min a b + i

/-- The vertical links of column x between two rows. -/
def colLinks (x a b : Nat) : List Nat := (List.range (Nat.max a b - Nat.min a b)).map fun i => 28 + 8 * (Nat.min a b + i) + x

/-- The links of the route between two chiplets: along the row, then along the column. -/
def chipRoute (a b : Nat) : List Nat := rowLinks (a / 8) (a % 8) (b % 8) ++ colLinks (b % 8) (a / 8) (b / 8)

/-- The row that an E-die's links meet. -/
def edgeRow (e : Nat) : Nat := if e < 2 then 0 else 3

/-- The column nearest to a chiplet's that an E-die serves. -/
def edgeColumn (a e : Nat) : Nat := Nat.max (e % 2 * 4) (Nat.min (a % 8) (e % 2 * 4 + 3))

/-- The mesh links of the route from a chiplet to an E-die: along the column to its row, then to the nearest column it serves. -/
def edgeRoute (a e : Nat) : List Nat := colLinks (a % 8) (a / 8) (edgeRow e) ++ rowLinks (edgeRow e) (a % 8) (edgeColumn a e)

/-- The edge link over which a chiplet's traffic for a physical address reaches an E-die: the link of bit 10. -/
def edgeLink (a e pa : Nat) : Nat := (if e < 2 then 52 else 68) + 2 * edgeColumn a e + pa / 1024 % 2

/-- The mesh links of the route from a chiplet to the H-die: along the row to column 0. -/
def hostRoute (a : Nat) : List Nat := rowLinks (a / 8) (a % 8) 0

/-- The host link of a chiplet's row. -/
def hostLink (a : Nat) : Nat := 84 + a / 8

/-- The links between a core's die and a chiplet; the management core stands on the H-die. -/
def coreRoute (core chip : Nat) : List Nat :=
  if core = Config.mcCore then hostRoute chip ++ [hostLink chip] else chipRoute (chipletOf core) chip

/-- The links between a line's home and the memory behind it: host memory, or the stack that holds the address. -/
def memoryRoute (s : State) (chip key : Nat) : List Nat :=
  if paSpace ≤ key then hostRoute chip ++ [hostLink chip]
  else
    let e := stackEdge (stackOf s key)
    edgeRoute chip e ++ [edgeLink chip e key]

/-- The links that an access of a core needs to reach a line: to its home, and on to memory where the LLC does not hold it. An access
of a peer's page goes to the H-die, and from there, where the page names this device, to the line's home (R400). -/
def accessRoute (s : State) (core key : Nat) (via : Option Nat) : List Nat :=
  let out := if core = Config.mcCore then [] else hostRoute (chipletOf core) ++ [hostLink (chipletOf core)]
  if (peerOfKey key).isSome then out
  else (if via.isSome then out ++ coreRoute Config.mcCore (sliceOf key) else coreRoute core (sliceOf key))
    ++ (if (llcFind s key).isSome then [] else memoryRoute s (sliceOf key) key)

/-! ### Open links (R334, R390) -/

/-- Do accesses that need a link wait: is it paused or down? -/
def linkClosed (l : Link) : Bool := l.paused || l.down

/-- Is some link closed? -/
def anyClosed (s : State) : Bool := s.links.any linkClosed

/-- Is every link that an access of a core to bytes of one line needs open? -/
def linksOpen (s : State) (core key : Nat) (via : Option Nat) : Bool :=
  !anyClosed s || (accessRoute s core key via).all fun n => !linkClosed (s.link n)

/-- Is every link open that an access of a core to a range of keys needs? -/
def rangeOpen (s : State) (core key n : Nat) (via : Option Nat) : Bool :=
  !anyClosed s || (linesOf key n).all fun line => linksOpen s core line via

/-- Is the way between a line's home and the memory behind it open? -/
def memoryOpen (s : State) (line : Nat) : Bool :=
  !anyClosed s || (memoryRoute s (sliceOf line) line).all fun n => !linkClosed (s.link n)

end Sys2Proof.Machine
end

