-- ==== Sys2Proof/Machine/Translate.lean ====
section
/-! DEFINITION. Translation (R360 to R367): page walks at the homes, contiguity groups, TLB entries and
permissions, the ways to peers (R400), and the accesses that the device makes itself. -/

namespace Sys2Proof.Machine

/-- What an access needs of its leaf (R363). -/
structure Need where
  r : Bool
  w : Bool
  x : Bool
  deriving DecidableEq, Repr

/-- A read. -/
abbrev needR : Need := ⟨true, false, false⟩
/-- A write. -/
abbrev needW : Need := ⟨false, true, false⟩
/-- A read and a write. -/
abbrev needRW : Need := ⟨true, true, false⟩
/-- An instruction fetch. -/
abbrev needX : Need := ⟨false, false, true⟩
/-- A valid leaf only. -/
abbrev needLeaf : Need := ⟨false, false, false⟩

/-- A failed translation: cause and detail (R362, R368), and whether it joined a walk that was outstanding (R365). Cause 0 is no
fault: the walk waits for a link that is paused or down (R334, R390). -/
structure TrFault where
  cause  : Nat
  detail : Nat
  joined : Bool := false
  deriving DecidableEq, Repr

/-- A walk that waits. -/
abbrev TrFault.waiting : TrFault := ⟨0, 0, false⟩

/-- A leaf as a walk found it: first VA, size, first PA, and the entry itself. -/
structure Leaf where
  va    : Nat
  size  : Nat
  pa    : Nat
  entry : Nat
  deriving DecidableEq, Repr

/-- Bits 51:16 of an entry, as an address (R361). -/
def entryPa (e : Nat) : Nat := e / 65536 % 68719476736 * 65536

/-- TGT (R361). -/
def entryTgt (e : Nat) : Nat := e / 256 % 4

/-- PEER (R361). -/
def entryPeer (e : Nat) : Nat := e / 4503599627370496 % 256

/-- Does a range overlap a stack-linear region (R403)? -/
def inStackRegion (s : State) (pa n : Nat) : Bool :=
  s.dev.regions.any fun r => pa < r.2.1 + r.2.2.1 && r.2.1 < pa + n

/-- Does a range lie inside one stack-linear region? -/
def withinStackRegion (s : State) (pa n : Nat) : Bool :=
  s.dev.regions.any fun r => r.2.1 ≤ pa && pa + n ≤ r.2.1 + r.2.2.1

/-- A valid entry that is malformed at its level (R362). -/
def malformed (s : State) (level e : Nat) : Bool :=
  let leaf := bit e 1
  let tgt := entryTgt e
  let stack := bit e 6
  bit e 7 || e / 1024 % 64 != 0 || e / 1152921504606846976 % 16 != 0 || tgt == 3
    || (leaf && level == 0) || (!leaf && level == 2)
    || (!leaf && (e / 4 % 32 != 0 || tgt != 0 || entryPeer e != 0))
    || (leaf && level == 1 && (e / 65536 % 8192 != 0 || bit e 5))
    || (leaf && bit e 3 && !bit e 2)
    || (entryPeer e != 0 && tgt != 2)
    || (leaf && stack && (level == 1 || tgt != 0 || bit e 5))
    || (leaf && tgt == 0 && level == 2 && stack != withinStackRegion s (entryPa e) 65536)
    || (leaf && tgt == 0 && level == 1 && inStackRegion s (entryPa e) 536870912)

/-- Is the contiguity group of entries at table a, starting at index g, well formed (R366)? -/
def groupWellFormed (es : List Nat) : Bool :=
  let e0 := es.headD 0
  let same (e : Nat) : Nat := e / 4 % 8 + 8 * (e / 256 % 4) + 32 * entryPeer e
  es.length == 32 && entryPa e0 % 2097152 == 0
    && (List.range 32).all fun j =>
      let e := es.getD j 0
      bit e 0 && bit e 1 && bit e 5 && !bit e 6 && same e == same e0 && entryPa e == entryPa e0 + 65536 * j

/-- A leaf of level 2 with CONTIG set (R366): the whole group when it is well formed; else the entry itself or another
CONTIG entry of the group, and which one is free (log 10). Poisoned entries of the group that decide the leaf are 0x4A (R368). -/
def contigLeaf (s : State) (table va e : Nat) : State × (Leaf ⊕ TrFault) :=
  let idx := va / 65536 % 8192
  let g := idx / 32 * 32
  let r := homeRead s 0 (table + 8 * g) 256
  let es := (List.range 32).map fun j => leNat ((r.2.1.drop (8 * j)).take 8)
  let s := r.1
  let base := va / 65536 * 65536
  if r.2.2 then (s, .inr ⟨0x4A, 3, false⟩)
  else if groupWellFormed es then (s, .inl ⟨va / 2097152 * 2097152, 2097152, entryPa (es.headD 0), e⟩)
  else
    let others := (List.range 32).filter fun j =>
      let f := es.getD j 0
      g + j != idx && bit f 0 && bit f 1 && bit f 5 && !malformed s 2 f
    let k := Config.contigPick s.tickets % (others.length + 1)
    if k = 0 then (s.ticket, .inl ⟨base, 65536, entryPa e, e⟩)
    else
      let j := others.getD (k - 1) 0
      let f := es.getD j 0
      (s.ticket, .inl ⟨base, 65536, (entryPa f + 65536 * idx + paSpace - 65536 * (g + j)) % paSpace, f⟩)

/-- Why a walk ends at an entry, if it does (R362): poisoned, not present, or malformed. -/
def entryFault (s : State) (level e : Nat) (poison : Bool) : Option TrFault :=
  if poison then some ⟨0x4A, 3, false⟩
  else if !bit e 0 then some ⟨0x44, level, false⟩
  else if malformed s level e then some ⟨0x45, 5, false⟩
  else none

/-- Read a table entry at its home, with owner tag 0 (R362): the entry, or why the walk ends there or waits. -/
def readEntry (s : State) (core level a : Nat) : State × (Nat ⊕ TrFault) :=
  if linksOpen s core a none then
    let r := homeRead s 0 a 8
    (r.1, match entryFault r.1 level (leNat r.2.1) r.2.2 with
      | some f => .inr f
      | none => .inl (leNat r.2.1))
  else (s, .inr .waiting)

/-- A walk at a table of level 2: 64 KiB pages. -/
def walkLast (s : State) (core table va : Nat) : State × (Leaf ⊕ TrFault) :=
  match readEntry s core 2 (table + 8 * (va / 65536 % 8192)) with
  | (t, .inr f) => (t, .inr f)
  | (t, .inl e) =>
    if bit e 5 then contigLeaf t table va e else (t, .inl ⟨va / 65536 * 65536, 65536, entryPa e, e⟩)

/-- A walk at a table of level 1: 512 MiB leaves, or tables of level 2. -/
def walkMiddle (s : State) (core table va : Nat) : State × (Leaf ⊕ TrFault) :=
  match readEntry s core 1 (table + 8 * (va / 536870912 % 8192)) with
  | (t, .inr f) => (t, .inr f)
  | (t, .inl e) =>
    if bit e 1 then (t, .inl ⟨va / 536870912 * 536870912, 536870912, entryPa e, e⟩) else walkLast t core (entryPa e) va

/-- A page walk for a core (R360 to R362). -/
def walk (s : State) (core ctx va : Nat) : State × (Leaf ⊕ TrFault) :=
  let pt := (s.ctx ctx).ptbase.toNat
  if !bit pt 0 then (s, .inr ⟨0x45, 6, false⟩)
  else match readEntry s core 0 (entryPa pt + 8 * (va / 4398046511104 % 8192)) with
    | (t, .inr f) => (t, .inr f)
    | (t, .inl e) => walkMiddle t core (entryPa e) va

/-- The span ports that reach a peer (R400): none when its route is not VALID or its mask empty. -/
def peerPorts (s : State) (peer : Nat) : Nat :=
  let e := (vget s.dev.routes peer).toNat
  if bit e 63 then e % 16777216 else 0

/-- Is some port of a peer's mask trained (R400, R402)? -/
def peerReachable (s : State) (p : Nat) : Bool := peerPorts s p &&& s.dev.ready1.toNat % 16777216 != 0

/-- Has no port of a peer's mask been trained for 1 ms (R400)? -/
def peerTimedOut (s : State) (p : Nat) : Bool :=
  !peerReachable s p && assocGet s.dev.spanDownAt p 0 + 1000000 ≤ s.meridian.toNat

/-- What an access that leaves its core finds on its way: the way is open; it must wait; or it waited for 1 ms in vain (R400). -/
inductive Way where
  | clear | wait | lost
  deriving DecidableEq, Repr

/-- The way to a peer device, if the page names one (R400). -/
def peerWay (s : State) (via : Option Nat) : Way :=
  match via with
  | none => .clear
  | some p => if peerReachable s p then .clear else if peerTimedOut s p then .lost else .wait

/-- The way of an access that leaves a core: its links, then the peer that its page names. -/
def openWay (s : State) (core key : Nat) (via : Option Nat) : Way :=
  if linksOpen s core key via then peerWay s via else .wait

/-- The way of a range of keys that an engine or the device reaches for a core. -/
def rangeWay (s : State) (core key n : Nat) (via : Option Nat) : Way :=
  if rangeOpen s core key n via then peerWay s via else .wait

/-- The memory that a key names: a page of a peer whose number is this device's own reaches this device's memory (R400). -/
def canon (s : State) (k : Nat) : Nat :=
  if peerOfKey k == some (s.dev.domid.toNat % 256) then k % paSpace else k

/-- Since when each peer of the route table has had no trained port (R400), as the routes and ports stand now. -/
def noteSpan (s : State) : State :=
  let down := (List.range 256).filter fun p => peerPorts s p != 0 && !peerReachable s p
  { s with dev := { s.dev with spanDownAt := down.map fun p => (p, assocGet s.dev.spanDownAt p s.meridian.toNat) } }

/-- Where a leaf sends a VA: a key, which names the peer of a TGT 2 page even where it is this device, or a fault (R361, R363,
R400). What needs only a leaf makes no access, so no route is asked of it (R275). -/
def leafTarget (s : State) (l : Leaf) (va : Nat) (need : Need) : Nat ⊕ TrFault :=
  let e := l.entry
  if (need.r && !bit e 2) || (need.w && !bit e 3) || (need.x && !bit e 4) then .inr ⟨0x45, 0, false⟩
  else
    let pa := (l.pa + (va - l.va)) % paSpace
    match entryTgt e with
    | 0 => .inl pa
    | 1 => .inl (hostKey pa)
    | _ =>
      if peerPorts s (entryPeer e) = 0 && (need.r || need.w || need.x) then .inr ⟨0x45, 0, false⟩
      else .inl (peerKey (entryPeer e) pa)

/-- A TLB's entry for an address of a context. -/
def tlbFind (l : List TlbEntry) (core ctx va : Nat) : Option TlbEntry :=
  l.find? fun t => t.core == core && t.ctx == ctx && t.va ≤ va && va < t.va + t.size

/-- A TLB of n entries takes one more; a full one gives up an entry, which is free (R364; log 7). -/
def tlbPut (s : State) (l : List TlbEntry) (n : Nat) (t : TlbEntry) : List TlbEntry :=
  if l.length < n || (l.filter fun u => u.core == t.core).length < n then t :: l
  else
    let own := l.filter fun u => u.core == t.core
    t :: (own.eraseIdx (Config.tlbVictim s.tickets % own.length) ++ l.filter fun u => u.core != t.core)

/-- Entries of a core's L1 TLB (R364). -/
abbrev l1TlbSize : Nat := 256

/-- Entries of a chiplet's L2 TLB (R364). -/
abbrev l2TlbSize : Nat := 8192

/-- A leaf is held by the L1 TLB of a core. -/
def holdL1 (s : State) (core : Nat) (t : TlbEntry) : State :=
  { s.ticket with tlb1 := tlbPut s s.tlb1 l1TlbSize { t with core := core } }

/-- A leaf is held by the L2 TLB of a core's chiplet. -/
def holdL2 (s : State) (core : Nat) (t : TlbEntry) : State :=
  { s.ticket with tlb := tlbPut s s.tlb l2TlbSize { t with core := chipletOf core } }

/-- The outstanding walk of a chiplet that a miss on a page joins (R365). -/
def joinedWalk (s : State) (chip ctx va : Nat) : Option Walk :=
  s.walks.find? fun w => w.chip == chip && w.ctx == ctx && w.page == va / 65536
    && (w.since == s.meridian.toNat || s.meridian.toNat < w.since + w.length)

/-- A walk that failed is outstanding for a time that is free (log 75). -/
def noteWalk (s : State) (chip ctx va : Nat) (f : TrFault) : State :=
  { s.ticket with walks := ⟨chip, ctx, va / 65536, f.cause, f.detail, s.meridian.toNat, Config.walkNs s.tickets⟩
                            :: s.walks.filter fun w => !(w.chip == chip && w.ctx == ctx && w.page == va / 65536) }

/-- A miss in the L2 TLB (R365): the request joins a walk of its page, or walks. A walk that waits has not failed. -/
def missWalk (s : State) (core ctx va : Nat) : State × (Leaf ⊕ TrFault) :=
  match joinedWalk s (chipletOf core) ctx va with
  | some w => (s, .inr ⟨w.cause, w.detail, true⟩)
  | none => match walk s core ctx va with
    | (t, .inr f) => (if f.cause = 0 then t else noteWalk t (chipletOf core) ctx va f, .inr f)
    | (t, .inl l) => (t, .inl l)

/-- A leaf as a held entry gives it. -/
def TlbEntry.toLeaf (t : TlbEntry) : Leaf := ⟨t.va, t.size, t.pa, t.leaf.toNat⟩

/-- A leaf as an entry to hold. -/
def Leaf.toEntry (l : Leaf) (ctx : Nat) : TlbEntry := ⟨0, ctx, l.va, l.size, l.pa, BitVec.ofNat 64 l.entry⟩

/-- Translate one address of a context for a core (R363 to R367): through an entry of its L1 TLB, or of its chiplet's L2 TLB, or
by a walk; what serves it is held nearer. Only leaves are held. -/
def translate (s : State) (core ctx va : Nat) (need : Need) : State × (Nat ⊕ TrFault) :=
  match tlbFind s.tlb1 core ctx va with
  | some t => (s, leafTarget s t.toLeaf va need)
  | none => match tlbFind s.tlb (chipletOf core) ctx va with
    | some t => (holdL1 s core t, leafTarget s t.toLeaf va need)
    | none => match missWalk s core ctx va with
      | (t, .inr f) => (t, .inr f)
      | (t, .inl l) =>
        let e := l.toEntry ctx
        (holdL1 (holdL2 t core e) core e, leafTarget t l va need)

/-- The address of an access of a squad (R82, R315): physical at system privilege, translated otherwise. -/
def resolve (s : State) (priv : Bool) (core ctx va : Nat) (need : Need) : State × (Nat ⊕ TrFault) :=
  if priv then
    if paSpace ≤ va then (s, .inr ⟨0x45, 4, false⟩) else (s, .inl va)
  else if 36028797018963968 ≤ va then (s, .inr ⟨0x45, 4, false⟩)
  else translate s core ctx va need

/-- The pages (64 KiB pieces) of a VA range: VA and length of each piece. -/
def pagePieces : Nat → Nat → Nat → List (Nat × Nat)
  | 0, _, _ => []
  | fuel + 1, va, n =>
    if n = 0 then []
    else
      let k := Nat.min n (65536 - va % 65536)
      (va, k) :: pagePieces fuel (va + k) (n - k)

/-- A whole range resolved page by page (R248): keys and lengths, or the first fault with its address. -/
def resolveRange (s : State) (priv : Bool) (core ctx va n : Nat) (need : Need) :
    State × (List (Nat × Nat) ⊕ (TrFault × Nat)) :=
  (pagePieces (n / 65536 + 2) va n).foldl
    (fun (st : State × (List (Nat × Nat) ⊕ (TrFault × Nat))) p =>
      match st.2 with
      | .inr f => (st.1, .inr f)
      | .inl ps =>
        match resolve st.1 priv core ctx p.1 need with
        | (t, .inl k) => (t, .inl (ps ++ [(k, p.2)]))
        | (t, .inr f) => (t, .inr (f, p.1)))
    (s, .inl [])

/-- Does a VA range of a context meet the backing range of one of its armed windows (R98)? -/
def ownBacking (s : State) (ctx va n : Nat) : Bool :=
  (s.ctx ctx).wins.any fun w => w.armed && va < w.backing + 12582912 * w.slices.length && w.backing < va + n

/-- Does an armed window's filter stand on a VA range of a context that lies at a key: in its own context at its backing range, or
in any context where that range lay at arming (R98, R99; log 16)? -/
def inBacking (s : State) (ctx va key n : Nat) : Bool := ownBacking s ctx va n || atArmed s key n

/-! ### The device's own accesses (R363) -/

/-- Does one of some pieces, before the first that fails, lie where the device must wait? -/
def piecesWait (s : State) (priv : Bool) (ctx : Nat) (need : Need) : List (Nat × Nat) → Bool
  | [] => false
  | p :: ps => match (resolve s priv Config.mcCore ctx p.1 need).2 with
    | .inr f => f.cause == 0
    | .inl k => rangeWay s Config.mcCore (canon s k) p.2 (peerOfKey k) == .wait || piecesWait s priv ctx need ps

/-- Must an access of the device's own to a range still wait, for a link that is paused or down (R334, R390) or for a peer that no port
reaches (R400)? -/
def deviceWaits (s : State) (priv : Bool) (ctx va n : Nat) (need : Need) : Bool :=
  (!s.dev.spanDownAt.isEmpty || anyClosed s) && piecesWait s priv ctx need (pagePieces (n / 65536 + 2) va n)

/-- The device reads n bytes on behalf of a grid (R363): the bytes, or why it cannot. A not-present entry is 0x45, and data of a
peer that is out of reach is poisoned (R400). -/
def deviceRead (s : State) (priv : Bool) (ctx va n : Nat) : State × (List Byte ⊕ Nat) :=
  match resolveRange s priv Config.mcCore ctx va n needR with
  | (_, .inr (f, _)) => (s, .inr (if f.cause = 0x4A then 0x4A else 0x45))
  | (s, .inl ps) =>
    let r := ps.foldl (fun (st : State × List Byte × Bool) p =>
      if peerWay st.1 (peerOfKey p.1) == .clear then
        let h := homeRead st.1 ctx (canon st.1 p.1) p.2
        (h.1, st.2.1 ++ h.2.1, st.2.2 || h.2.2)
      else (st.1, st.2.1, true)) (s, [], false)
    (r.1, if r.2.2 then .inr 0x4A else .inl r.2.1)

/-- Does a piece of a range that the device writes lie in the backing range of an armed window? -/
def anyArmed (s : State) (priv : Bool) (ctx va : Nat) (ps : List (Nat × Nat)) : Bool :=
  (ps.foldl (fun (st : Nat × Bool) p =>
    (st.1 + p.2, st.2 || (if priv then atArmed s (canon s p.1) p.2 else inBacking s ctx st.1 (canon s p.1) p.2))) (va, false)).2

/-- The device writes bytes on behalf of a grid (R363): none, or why it cannot; 0x4D where a home refuses them (R105) or a peer
is out of reach (R400). The backing range of an armed window keeps what it held at arming (R100): such a write is refused as 0x45
(DESIGN CHOICE, log 16). -/
def deviceWrite (s : State) (priv : Bool) (ctx va : Nat) (bs : List Byte) : State × Option Nat :=
  match resolveRange s priv Config.mcCore ctx va bs.length needW with
  | (_, .inr (f, _)) => (s, some (if f.cause = 0x4A then 0x4A else 0x45))
  | (s, .inl ps) =>
    if anyArmed s priv ctx va ps then (s, some 0x45)
    else
      let r := ps.foldl (fun (st : State × List Byte × Bool) p =>
        if peerWay st.1 (peerOfKey p.1) == .clear then
          let h := homeWrite st.1 ctx (canon st.1 p.1) (st.2.1.take p.2)
          (h.1, st.2.1.drop p.2, st.2.2 || h.2)
        else (st.1, st.2.1.drop p.2, true)) (s, bs, false)
      (r.1, if r.2.2 then some 0x4D else none)

/-- What a `tlbinv` selector covers (R325): everything, a context, or a context's 64 KiB page. -/
inductive TlbSel where
  | all
  | ctx (c : Nat)
  | page (c va : Nat)
  deriving DecidableEq, Repr

/-- The largest page (R360). -/
abbrev largestPage : Nat := 536870912

/-- May an access of a context at an address have used a translation that a selector removes (R325)? An entry that covers the page
may be a leaf of 512 MiB. -/
def TlbSel.mayUse (sel : TlbSel) (ctx va : Nat) : Bool :=
  match sel with
  | .all => true
  | .ctx c => c == ctx
  | .page c p => c == ctx && va / largestPage == p / largestPage

/-- Does a selector cover a range of a context? -/
def TlbSel.covers (sel : TlbSel) (ctx va size : Nat) : Bool :=
  match sel with
  | .all => true
  | .ctx c => c == ctx
  | .page c p => c == ctx && p < va + size && va < p + 65536

end Sys2Proof.Machine
end

