-- ==== Sys2Proof/Machine/Ops.lean ====
section
/-! DEFINITION. The named operations that instructions share: register access (R54), running groups (R39 to R42), fault
records and delivery (R356, R368, R372), entry to and return from the system handler (R321, R322) and user traps
(R283, R188), and the issue of one instruction with its checks in the order of R150. -/

namespace Sys2Proof.Machine

/-! ### Registers -/

/-- All lanes. -/
abbrev allLanes : Mask := 0xFFFFFFFF

/-- v[n][lane]. -/
def Regs.lane (r : Regs) (n l : Nat) : Word := vget (vget r.v n) l

/-- s[n]; s0 reads 0 (R54). -/
def Regs.sreg (r : Regs) (n : Nat) : DWord := if n % 64 = 0 then 0 else vget r.s n

/-- p[n] as a lane mask; p0 reads true (R54). -/
def Regs.pred (r : Regs) (n : Nat) : Mask := if n % 8 = 0 then allLanes else vget r.p n

/-- Write v[n] in the lanes of a mask. -/
def Regs.setV (r : Regs) (n : Nat) (m : Mask) (f : Nat → Word) : Regs :=
  { r with v := vset r.v n (Vector.ofFn fun l : Fin 32 => if m.getLsbD l then f l else vget (vget r.v n) l) }

/-- Write s[n]; a write to s0 is discarded (R54). -/
def Regs.setS (r : Regs) (n : Nat) (x : DWord) : Regs :=
  if n % 64 = 0 then r else { r with s := vset r.s n x }

/-- Write p[n] in the lanes of a mask; a write to p0 is discarded (R54). -/
def Regs.setP (r : Regs) (n : Nat) (m x : Mask) : Regs :=
  if n % 8 = 0 then r else { r with p := vset r.p n ((vget r.p n &&& ~~~m) ||| (x &&& m)) }

/-- v[n][lane] of the squad whose step runs. -/
def State.v (s : State) (n l : Nat) : Word := s.sq.regs.lane n l

/-- s[n] of the squad whose step runs. -/
def State.x (s : State) (n : Nat) : DWord := s.sq.regs.sreg n

/-- p[n] of the squad whose step runs, with a negation in bit 3 of the field (R144, R186). -/
def State.p4 (s : State) (f : BitVec 4) : Mask :=
  let m := s.sq.regs.pred (f.toNat % 8)
  if f.getLsbD 3 then ~~~m else m

/-- Change the squad whose step runs. -/
def State.onSq (s : State) (f : Squad → Squad) : State := { s with sq := f s.sq }

/-- Write v[n] in the lanes of a mask; their poison marks clear (R225). -/
def State.setV (s : State) (n : Nat) (m : Mask) (f : Nat → Word) : State :=
  s.onSq fun q => { q with regs := q.regs.setV n m f,
                           poisonV := q.poisonV.filter fun t => !(t.1 == n && m.getLsbD t.2.1) }

/-- Write v[n] in the enabled lanes of the instruction. -/
def State.putV (s : State) (n : Nat) (f : Nat → Word) : State := s.setV n s.sq.cur.enabled f

/-- Write s[n]; its poison mark clears (R225). -/
def State.setX (s : State) (n : Nat) (x : DWord) : State :=
  s.onSq fun q => { q with regs := q.regs.setS n x, poisonS := q.poisonS.filter fun t => t.1 != n }

/-- Write p[n] in the lanes of a mask. -/
def State.setP (s : State) (n : Nat) (m x : Mask) : State := s.onSq fun q => { q with regs := q.regs.setP n m x }

/-- The 64-bit lane value of a pair of vector registers (R54). -/
def State.pair (s : State) (n l : Nat) : DWord := s.v (n + 1) l ++ s.v n l

/-- Set the pcs of the lanes of a mask. -/
def State.setPc (s : State) (m : Mask) (f : Nat → DWord) : State :=
  s.onSq fun q => { q with thr := { q.thr with
    pc := Vector.ofFn fun l : Fin 32 => if m.getLsbD l then f l else vget q.thr.pc l } }

/-! ### Squads -/

/-- Is a squad resident? -/
def Squad.present (q : Squad) : Bool := q.status != .absent

/-- Every resident squad. -/
def State.squads (s : State) : List Squad := (if s.sq.present then [s.sq] else []) ++ s.parked

/-- A resident squad by serial number. -/
def State.squad? (s : State) (id : Nat) : Option Squad := s.squads.find? fun q => q.ident.id == id

/-- Make a squad the one whose step runs; the one before it is parked. -/
def State.checkout (s : State) (id : Nat) : Option State :=
  if s.sq.present && s.sq.ident.id == id then some s
  else match s.parked.find? fun q => q.ident.id == id with
    | some q => some { s with sq := q, parked := s.squads.filter fun r => r.ident.id != id }
    | none => none

/-- Change every resident squad. -/
def State.mapSquads (s : State) (f : Squad → Squad) : State :=
  { s with sq := if s.sq.present then f s.sq else s.sq, parked := s.parked.map f }

/-- A crew by serial number. -/
def State.crew? (s : State) (id : Nat) : Option Crew := s.crews.find? fun c => c.id == id

/-- Replace a crew. -/
def State.setCrew (s : State) (c : Crew) : State := { s with crews := putFirst (fun d => d.id == c.id) c s.crews }

/-- A grid by serial number. -/
def State.grid? (s : State) (id : Nat) : Option Grid := s.grids.find? fun g => g.id == id

/-- Replace a grid. -/
def State.setGrid (s : State) (g : Grid) : State := { s with grids := putFirst (fun h => h.id == g.id) g s.grids }

/-- The crew of the squad whose step runs. -/
def State.myCrew (s : State) : Option Crew := s.crew? s.sq.ident.crew

/-- The grid of the squad whose step runs. -/
def State.myGrid (s : State) : Option Grid := s.grid? s.sq.ident.grid

/-- The partition of the squad whose step runs. -/
def State.myPart (s : State) : Nat := (s.myGrid.map (·.part)).getD 0

/-- The next serial number. -/
def State.fresh (s : State) : Nat × State := (s.serial, { s with serial := s.serial + 1 })

/-- Squad 0 of the management core (R317, R424). -/
def Squad.isMc0 (q : Squad) : Bool := q.ident.core == Config.mcCore && q.ident.grid == 0

/-- Numeric-behaviour version in force (R76); the management core's own crew runs under version 2. -/
def State.nbv (s : State) : Nat := (s.myGrid.map (·.nbv)).getD 2

/-! ### Running groups (R39 to R42) -/

/-- The blocked threads. -/
def Threads.blocked (t : Threads) : Mask := t.waits.foldl (fun m w => m ||| w.mask) 0

/-- The threads that running groups are chosen among (R39, R284, R321): ready, and marked while a handler runs. -/
def Threads.eligible (t : Threads) : Mask :=
  let ready := t.live &&& ~~~t.blocked
  if t.sysMark != 0 then ready &&& t.sysMark else if t.handlerMark != 0 then ready &&& t.handlerMark else ready

/-- The lowest pc of the lanes of a mask. -/
def Threads.lowest (t : Threads) (m : Mask) : Option DWord :=
  (laneList m).foldl (fun best l =>
    match best with
    | none => some (vget t.pc l)
    | some b => if (vget t.pc l).toNat < b.toNat then some (vget t.pc l) else some b) none

/-- The lanes of a mask that stand at a pc. -/
def Threads.standAt (t : Threads) (m : Mask) (pc : DWord) : Mask :=
  maskOf ((laneList m).filter fun l => vget t.pc l == pc)

/-- The running group at a boundary (R39, R40): its mask and pc, and the threads with their set-aside marks as the choice
leaves them; none when no thread is ready. A group that stalls at a fence is no boundary: it stays the running group (R233). -/
def Threads.select (t : Threads) : Option (Mask × DWord × Threads) :=
  let e := t.eligible
  if e == 0 then none
  else if t.held != 0 && t.held &&& ~~~e == 0 then (t.lowest t.held).map fun pc => (t.held, pc, t)
  else
    let aside := if e &&& ~~~t.aside == 0 then t.aside &&& ~~~e else t.aside
    match t.lowest (e &&& ~~~aside) with
    | none => none
    | some pc =>
      let g := t.standAt e pc
      some (g, pc, { t with aside := aside &&& ~~~g })

/-- The running group is set aside and the quantum count starts again (R41). -/
def Threads.setAside (t : Threads) (g : Mask) : Threads := { t with aside := t.aside ||| (g &&& t.live), quantum := 0 }

/-! ### Faults -/

/-- A not-present page that an instruction meets (R369): the level, the lanes that meet it, the address of the lowest of them, and
whether its walk was another request's (R365). -/
structure Absent where
  detail : Nat
  lanes  : Mask
  addr   : Nat
  joined : Bool
  deriving DecidableEq, Repr

/-- A fault of the instruction that runs: its cause and detail (R368), the faulting lanes and the data address. -/
structure FaultInfo where
  cause  : Nat
  detail : Nat := 0
  lanes  : Mask := 0
  addr   : Nat := 0
  aux    : Nat := 0
  token  : Nat := 0      -- unit field when aux bit 4 is set
  joined : Bool := false
  more   : List Absent := []   -- further not-present pages of the instruction
  deriving DecidableEq, Repr

/-- What an instruction's own part answers: complete; complete with a forced switch (R41); a precise fault; not yet able to
issue (an interlock or a wait that is not blocking); or blocked (R39). -/
inductive Eff where
  | done (s : State)
  | switch (s : State)
  | fault (f : FaultInfo)
  | after (f : FaultInfo) (s : State)    -- complete, and then the fault of R285
  | consume (c : OpClass) (f : FaultInfo)  -- a precise fault that takes a class's error with it (R178)
  | faultIn (f : FaultInfo) (s : State)  -- a precise fault whose checks left marks outside the squad (walks, home reads)
  | halted (s : State)                   -- the squad stopped at the instruction without a record of its own (R370)
  | stall
  | hold                                 -- a stall during which no other group of the squad issues (R233, R323)
  | block (w : Blocked) (s : State)      -- blocked, with what reaching the instruction did (an arrival)

/-- Word 0x18 of a fault record (R372). -/
def recWord18 (q : Squad) (pc : DWord) (halfwords : Nat) : Nat :=
  pc.toNat % 36028797018963968 + q.ident.slot % 16 * 36028797018963968 + q.ident.quad % 4 * 576460752303423488
    + halfwords % 8 * 2305843009213693952

/-- Queue the fault record of the squad whose step runs (R356, R372). For 0x41 with detail 2 or 3, AUX holds the user cause,
so its bit 4 does not turn LANES into a token. -/
def faultRecord (s : State) (f : FaultInfo) : State :=
  let q := s.sq
  let unit := if bit f.aux 4 && f.cause != 0x41 then f.token else f.lanes.toNat
  pushRecord s true (recWord8 f.cause q.ident.ctx true false f.detail f.aux unit) (recWord10 f.addr q.ident.core)
    (recWord18 q q.cur.first ((q.cur.next - q.cur.first).toNat / 2))

/-- Set a ready bit (R402); every change raises event 6. -/
def setReady0 (s : State) (k : Nat) (b : Bool) : State :=
  let x := BitVec.ofNat 64 (setBit s.dev.ready0.toNat k b)
  if x == s.dev.ready0 then s else raiseEvent { s with dev := { s.dev with ready0 := x } } 6

/-- Set a bit of READY1 that a function owns (R402). -/
def setReady1 (s : State) (k : Nat) (b : Bool) : State :=
  let x := BitVec.ofNat 64 (setBit s.dev.ready1.toNat k b)
  if x == s.dev.ready1 then s else raiseEvent { s with dev := { s.dev with ready1 := x } } 6

/-- The management core stops with squad 0: its other squads stop with it and READY0.MC clears (R321, R402). -/
def stopMc (s : State) : State :=
  setReady0 (s.mapSquads fun q => if q.ident.core == Config.mcCore then { q with status := .stopped } else q) 50 false

/-- Stop the squad whose step runs. -/
def stopSquad (s : State) : State :=
  let t := s.onSq fun q => { q with status := .stopped }
  if s.sq.isMc0 then stopMc t else t

/-- Entry to the system handler (R321) with a return address, cause and the two information words; a double fault when one
is in progress or there is no handler. -/
def enterSystem (s : State) (group : Mask) (ret : DWord) (cause : Nat) (info0 info1 : Nat) : State :=
  let q := s.sq
  if q.thr.sysMark != 0 || q.sys.sysvec.toNat / 2 == 0 then
    stopSquad (errorRecord s 0x86 (some q.ident.ctx) 0 0 (q.ident.core % 128) 0
      (if q.thr.sysMark != 0 then q.sys.cause.toNat else cause) q.ident.core)
  else
    s.onSq fun q =>
      let t := q.thr
      { q with
        sys := { q.sys with syspc := ret, cause := BitVec.ofNat 64 cause, info0 := BitVec.ofNat 64 info0,
                            info1 := BitVec.ofNat 64 info1 }
        thr := { t with
          waits := (t.waits.map fun w => { w with mask := w.mask &&& ~~~group }).filter fun w => w.mask != 0
          savedSysWin := Vector.ofFn fun l : Fin 32 => if group.getLsbD l then vget t.win l else vget t.savedSysWin l
          win := Vector.ofFn fun l : Fin 32 => if group.getLsbD l then Window.none else vget t.win l
          sysMark := t.sysMark ||| group
          held := 0
          pc := Vector.ofFn fun l : Fin 32 =>
            if group.getLsbD l then BitVec.ofNat 64 (q.sys.sysvec.toNat / 2 * 2) else vget t.pc l } }

/-- One fault record per failed walk (R369): a page whose walk was another request's has none (R365). -/
def absentRecords (s : State) (f : FaultInfo) : State :=
  (({ f with more := [] } : FaultInfo) :: f.more.map fun a => { f with detail := a.detail, lanes := a.lanes, addr := a.addr, joined := a.joined, more := [] }).foldl
    (fun t g => if g.joined then t else faultRecord t g) s

/-- The squad waits for the not-present pages of a fault (R369). -/
def awaitPages (s : State) (f : FaultInfo) : State :=
  s.onSq fun q => { q with replay := some ⟨q.ident.ctx, f.aux, ⟨f.addr, f.lanes, false⟩ :: f.more.map fun a => ⟨a.addr, a.lanes, false⟩⟩ }

/-- Taking a system fault (R321, R356, R368, R369): the one operation by which every fault leaves an instruction. A system
squad enters its handler; a user squad waits for replay (0x44) or stops, and a fault record is queued. -/
def takeFault (s : State) (f : FaultInfo) : State :=
  if s.sq.ident.priv then
    enterSystem s s.sq.cur.active s.sq.cur.first f.cause f.addr (f.lanes.toNat + f.detail * 4294967296)
  else if f.cause = 0x44 then awaitPages (absentRecords s f) f
  else stopSquad (faultRecord s f)

/-! ### User traps -/

/-- The address of the trap entry (R280); none where the grid has none, or for the management core's own crew (R424). -/
def trapEntry (s : State) : Option DWord :=
  match s.myGrid with
  | none => none
  | some g => if g.r.trap = 0xFFFFFFFF then none else some (BitVec.ofNat 64 (g.r.code + 2 * g.r.trap))

/-- Is the squad in user or system handler state (R284, R321)? -/
def inHandler (q : Squad) : Bool := q.thr.handlerMark != 0 || q.thr.sysMark != 0

/-- Delivery of a user trap at the end of the instruction (R282, R283, R285). -/
def deliverTrap (s : State) (cause : Nat) (lanes : Mask) (info : DWord) : Eff :=
  let c := s.sq.cur
  if inHandler s.sq then .after { cause := 0x41, detail := 3, lanes := lanes, aux := cause } s
  else match trapEntry s with
    | none => .after { cause := 0x41, detail := 2, lanes := lanes, aux := cause } s
    | some entry =>
      .done (s.onSq fun q =>
        let t := q.thr
        { q with
          trap := ⟨c.first, c.next, lanes.zeroExtend 64, BitVec.ofNat 64 cause, info, c.active.zeroExtend 64⟩
          thr := { t with
            savedWin := Vector.ofFn fun l : Fin 32 => if c.active.getLsbD l then vget t.win l else vget t.savedWin l
            win := Vector.ofFn fun l : Fin 32 => if c.active.getLsbD l then Window.none else vget t.win l
            handlerMark := t.handlerMark ||| c.active
            pc := Vector.ofFn fun l : Fin 32 => if c.active.getLsbD l then entry else vget t.pc l } })

/-- Return from a user trap handler (R188). -/
def returnTrap (s : State) : Eff :=
  let g := s.sq.cur.active
  if g &&& ~~~s.sq.thr.handlerMark != 0 then .fault { cause := 0x41, lanes := g }
  else .done (s.onSq fun q =>
    let t := q.thr
    { q with thr := { t with
      pc := Vector.ofFn fun l : Fin 32 => if g.getLsbD l then q.trap.next else vget t.pc l
      win := Vector.ofFn fun l : Fin 32 => if g.getLsbD l then vget t.savedWin l else vget t.win l
      handlerMark := t.handlerMark &&& ~~~g } })

/-- Return from the system handler (R322). -/
def returnSystem (s : State) : Eff :=
  let g := s.sq.cur.active
  if g &&& ~~~s.sq.thr.sysMark != 0 then .fault { cause := 0x41, lanes := g }
  else .done (s.onSq fun q =>
    let t := q.thr
    { q with thr := { t with
      pc := Vector.ofFn fun l : Fin 32 => if g.getLsbD l then q.sys.syspc else vget t.pc l
      win := Vector.ofFn fun l : Fin 32 => if g.getLsbD l then vget t.savedSysWin l else vget t.win l
      sysMark := t.sysMark &&& ~~~g } })

/-! ### Outstanding operations as the issue checks see them -/

/-- The accesses of a load, store or atomic. -/
def Op.accesses (o : Op) : List Access :=
  match o.act with
  | .load _ _ _ _ acc => acc
  | .store _ acc => acc
  | .atomic _ _ _ _ acc => acc
  | .engine _ _ _ _ _ _ _ => []

/-- Does an operation read memory as a load does? -/
def Op.reads (o : Op) : Bool :=
  match o.act with
  | .load _ _ _ _ _ => true
  | .atomic _ _ _ _ _ => true
  | _ => false

/-- Does an operation write memory as a store does? -/
def Op.writes (o : Op) : Bool :=
  match o.act with
  | .store _ _ => true
  | .atomic _ _ _ _ _ => true
  | _ => false

/-- Has an operation release order (R112)? -/
def Op.releases (o : Op) : Bool := o.writes && (o.order == 2 || o.order == 3 || o.order == 4)

/-- Has an operation acquire order (R112)? -/
def Op.acquires (o : Op) : Bool := o.reads && (o.order == 1 || o.order == 3 || o.order == 4)

/-- Vector registers that an operation is still to write (R191). -/
def Op.pendingV (o : Op) : List Nat :=
  if o.done then []
  else match o.act with
    | .load _ w dst false _ => regRun dst (widthRegs (BitVec.ofNat 3 w))
    | .atomic _ _ dst false acc => regRun dst (if (acc.headD ⟨0, 0, 0, 4, 0, 0, none⟩).n = 8 then 2 else 1)
    | .engine .taccRead dst _ _ _ _ _ => [dst]
    | _ => []

/-- Scalar registers that an operation is still to write and that readers wait for (R169). -/
def Op.pendingS (o : Op) : List Nat :=
  if o.done then []
  else match o.act with
    | .load _ _ dst true _ => [dst]
    | .atomic _ _ dst true _ => [dst]
    | .engine (.dotv _) dst _ _ _ _ _ => [dst]
    | .engine .arrxArm dst _ _ _ _ _ => [dst]
    | .engine .arrxDisarm dst _ _ _ _ _ => [dst]
    | .engine .arrxQuery dst _ _ _ _ _ => [dst]
    | _ => []

/-- Scalar registers that receive a token or result at completion: a later writer waits (R249). -/
def Op.pendingToken (o : Op) : List Nat := if o.done || o.token = 0 then [] else [o.token]

/-- Do the registers of an instruction wait for an outstanding operation (R169, R191, R249)? -/
def interlocked (q : Squad) (u : Uses) : Bool :=
  q.ops.any fun o =>
    o.pendingV.any (fun r => u.vr.contains r || u.vw.contains r)
      || o.pendingS.any (fun r => u.sr.contains r || u.sw.contains r)
      || o.pendingToken.any u.sw.contains

/-- Do two lane masks share a thread? -/
def sharesThread (a b : Mask) : Bool := a &&& b != 0

/-- Is an operation an access of threads that their fence of an order waits for (R123): loads for acquire, every access else? -/
def Op.fenced (o : Op) (g : Mask) (order : Nat) : Bool :=
  !o.done && sharesThread g o.mask && (o.reads || (o.writes && order != 1))

/-- Outstanding operations of a class (R61). -/
def Squad.count (q : Squad) (c : OpClass) : Nat := (q.ops.filter fun o => o.cls == c).length

/-- Has a group of the squad a load or atomic of acquire order that is not complete (R116)? -/
def acquiring (q : Squad) (g : Mask) : Bool :=
  q.ops.any fun o =>
    !o.done && o.cls == .ld && (o.order == 1 || o.order == 3 || o.order == 4) && sharesThread o.mask g

/-- Has a group of the squad a load or store that is not complete? -/
def accessing (q : Squad) (g : Mask) : Bool :=
  q.ops.any fun o => !o.done && (o.cls == .ld || o.cls == .st) && sharesThread o.mask g

/-! ### The issue checks (R150) -/

/-- Vector registers of an allotment (R25). -/
def inAllotment (allot r : Nat) : Bool := r + 5 ≤ allot || (124 ≤ r && r < 128)

/-- Does the ext of the sequence select the atom2 set (R155)? -/
def extSet (c : Cursor) : Bool := (c.ext.getD 0).getLsbD 0

/-- Is a prefix of the sequence, or a guard window that covers it, one that the instruction does not accept (R145, R146)? -/
def prefixMisplaced (q : Squad) (t : Traits) : Bool :=
  let c := q.cur
  (c.guard.isSome && !t.guard) || (c.ord.isSome && t.ord == .none) || (c.ext.isSome && t.ext == .none)
    || (laneList c.active).any fun l => (vget q.thr.win l).left != 0 && (!t.guard || c.guard.isSome)

/-- Is an order legal for a kind of access (R112)? -/
def orderOk (u : OrdUse) (o : Nat) : Bool :=
  match u with
  | .none => true
  | .load => o == 0 || o == 1 || o == 4
  | .store => o == 0 || o == 2 || o == 4
  | .rmw => o ≤ 4

/-- Is the payload of an ext as its instruction defines it (R87, R148)? -/
def extOk (u : ExtUse) (x : BitVec 24) : Bool :=
  match u with
  | .none => true
  | .tag => x.toNat / 64 == 0
  | .fill => x.toNat / 256 == 0
  | .imm => x.toNat / 4194304 == 0
  | .last => x.getLsbD 23 && x.toNat / 2048 % 4096 == 0 && x.toNat / 16 % 128 < 64
  | .atomSet => x.toNat / 2 == 0

/-- Steps 2 and 3 of R150, and the check of R316 after them. -/
def checkForm (s : State) (t : Traits) : Option FaultInfo :=
  let q := s.sq
  if t.priv && !q.ident.priv then some { cause := 0x42, lanes := q.cur.active }
  else if prefixMisplaced q t then some { cause := 0x41, detail := 1, lanes := q.cur.active }
  else if t.mcStop && q.ident.core == Config.mcCore then some { cause := 0x4C, lanes := q.cur.active }
  else none

/-- The guard windows in force for the instruction (R146): its own guard gives every thread of the group a new one. -/
def windowsFor (q : Squad) : Vector Window 32 :=
  match q.cur.guard with
  | none => q.thr.win
  | some (p, neg, n) =>
    Vector.ofFn fun l : Fin 32 => if q.cur.active.getLsbD l then ⟨p, neg, n⟩ else vget q.thr.win l

/-- The enabled lanes (R146). -/
def enabledLanes (q : Squad) (win : Vector Window 32) : Mask :=
  maskOf ((laneList q.cur.active).filter fun l =>
    let w := vget win l
    w.left == 0 || (q.regs.pred w.pred.toNat).getLsbD l != w.neg)

/-- Step 4 of R150. A lane that is not enabled faults in nothing (R146). -/
def checkOperands (s : State) (t : Traits) (u : Uses) : Option FaultInfo :=
  let q := s.sq
  let c := q.cur
  let ordBad := match c.ord with
    | none => false
    | some (o, sc) => 5 < sc || !orderOk t.ord o
  let extBad := match c.ext with
    | none => false
    | some x => !extOk t.ext x
  if u.legal && !ordBad && !extBad && (u.vr ++ u.vw).all (inAllotment q.ident.allot) then none
  else some { cause := 0x41, lanes := enabledLanes q (windowsFor q) }

/-- The poison marks on some vector registers in the lanes of a mask (R225): lane and load address. -/
def poisonedV (q : Squad) (rs : List Nat) (m : Mask) : List (Nat × Nat) :=
  (q.poisonV.filter fun t => rs.contains t.1 && m.getLsbD t.2.1).map fun t => (t.2.1, t.2.2)

/-- The load address of a mark in the lowest of some lanes. -/
def markAddr (vs : List (Nat × Nat)) (lanes : Mask) : Option Nat :=
  (vs.find? fun t => t.1 == (laneList lanes).headD 0).map (·.2)

/-- The fault of the lanes that read a mark, if any (R225): LANES are all of them, and ADDR is the load address of the lowest (R372). -/
def markFault (vs : List (Nat × Nat)) : Option FaultInfo :=
  let lanes := maskOf (vs.map (·.1))
  (markAddr vs lanes).map fun a => { cause := 0x4A, lanes := lanes, addr := a, aux := 1 }

/-- A marked register that the instruction reads (R225). A marked scalar register is a fault of every enabled lane. -/
def checkPoison (s : State) (u : Uses) : Option FaultInfo :=
  let q := s.sq
  if q.poisonV.isEmpty && q.poisonS.isEmpty then none
  else
    let vs := poisonedV q u.vr q.cur.enabled
    match q.poisonS.find? fun t => u.sr.contains t.1 with
    | some t => some { cause := 0x4A, lanes := q.cur.enabled, addr := (markAddr vs q.cur.enabled).getD t.2, aux := 1 }
    | none => markFault vs

/-- The state in which the instruction's own part runs: windows installed and counted, lanes enabled, and every thread of the
group at the next address (R168), which a branch replaces. -/
def prepare (s : State) : State :=
  let q := s.sq
  let win := windowsFor q
  let en := enabledLanes q win
  { s with sq := { q with
      cur := { q.cur with enabled := en }
      thr := { q.thr with
        win := Vector.ofFn fun l : Fin 32 =>
          let w := vget win l
          if q.cur.active.getLsbD l then { w with left := w.left - 1 } else w
        pc := Vector.ofFn fun l : Fin 32 => if q.cur.active.getLsbD l then q.cur.next else vget q.thr.pc l } } }

/-- No prefix sequence in progress; the addresses and the group stay for what follows the instruction. -/
def endSequence (s : State) : State :=
  s.onSq fun q => { q with cur := { q.cur with guard := none, ord := none, ext := none } }

/-- A crew starts when the first instruction of any of its squads issues (R346). -/
def noteBegin (s : State) : State :=
  match s.myCrew with
  | none => s
  | some c => if c.began = 0 then s.setCrew { c with began := s.tickets + 1 } else s

/-- The start time of a grid is written at the first instruction of any of its squads (R338, 0xB8). -/
def noteStart (s : State) : State :=
  let s := noteBegin s
  match s.myGrid with
  | none => s
  | some g =>
    if g.started then s
    else (deviceWrite (s.setGrid { g with started := true }) g.priv g.ctx (g.r.va + 0xB8) (leBytes 8 s.now.toNat)).1

/-- The instruction has issued: the quantum count rises (R41) and the survey counts it (R407). -/
def issued (s : State) : State :=
  let t := s.onSq fun q => { q with thr := { q.thr with quantum := q.thr.quantum + 1, ran := q.cur.active, held := 0 } }
  if t.sq.ident.core < 128 then t.countSurvey t.sq.ident.core 0 1 else t

/-- The running group blocks on an instruction (R39): it stays at its pc, and the block is a forced switch (R41). -/
def blockGroup (s : State) (w : Blocked) : State :=
  let (k, s) := s.fresh
  s.onSq fun q => { q with thr := { q.thr with waits := q.thr.waits ++ [⟨q.cur.active, w, (q.cur.next - q.cur.addr).toNat, k⟩], quantum := 0 } }

/-- u with the threads as they stood before the instruction, in s. -/
def restoreThreads (s u : State) : State := u.onSq fun q => { q with thr := s.sq.thr }

/-- The state in which an instruction takes a fault: that of its checks, with the threads as they stood before it, in s. A walk that
failed on the way stays outstanding only where the fault is its own, which queues its record (R365, R369). -/
def faultPoint (s : State) (f : FaultInfo) (u : State) : State :=
  let t := restoreThreads s u
  if f.cause = 0x44 then t else { t with walks := s.walks }

/-- The running group stalls, and stays the running group (R233, R323). -/
def holdGroup (s : State) : State := s.onSq fun q => { q with thr := { q.thr with held := q.cur.active } }

/-- What the fault of a check answers: a walk that waits for a link is a stall (R334, R390). -/
def FaultInfo.orStall (f : FaultInfo) (s : State) : Eff := if f.cause = 0 then .stall else .faultIn f s

/-- Settle what an instruction's own part answered. s is the state before it. -/
def settle (s : State) : Eff → State
  | .done u => endSequence (issued u)
  | .switch u => endSequence ((issued u).onSq fun q => { q with thr := { q.thr with quantum := 0 } })
  | .fault f => endSequence (takeFault s f)
  | .after f u => endSequence (takeFault (issued u) f)
  | .consume c f => endSequence (takeFault (s.onSq fun q => { q with errs := q.errs.filter fun e => e.1 != c }) f)
  | .faultIn f u => endSequence (takeFault (faultPoint s f u) f)
  | .halted u => endSequence u
  | .stall => endSequence s
  | .hold => endSequence (holdGroup s)
  | .block w u => endSequence (blockGroup (issued (restoreThreads s u)) w)

/-- Must the first instruction of a grid wait, since the launch record that takes its start time lies behind a closed link (R334, R390)
or at a peer that no port reaches (R400)? -/
def startWaits (s : State) : Bool :=
  match s.myGrid with
  | none => false
  | some g => !g.started && deviceWaits s g.priv g.ctx (g.r.va + 0xB8) 8 needW

/-- Must the instruction wait before it issues: for room in its counter (R61), for its registers (R169, R191, R249), for earlier
accesses of its squad (R116, R123, R132), or for the start of its grid? -/
def mustWait (s : State) (t : Traits) (u : Uses) : Bool :=
  let q := s.sq
  let full := match t.cls with
    | none => false
    | some c => c.max ≤ q.count c
  full || interlocked q u || (t.sync && accessing q q.cur.active) || ((t.sync || t.obs) && acquiring q q.cur.active) || startWaits s

/-- Settle what the own part of an instruction answered: s is the state before it, n the same with the start of its grid
noted. -/
def settleOwn (s n : State) : Eff → State
  | .stall => settle s .stall
  | .hold => settle s .hold
  | e => settle n e

/-- Issue one instruction of the running group (R150): the checks in their order, the interlocks (R169, R191), then the
instruction's own part. -/
def issue (t : Traits) (u : Uses) (s : State) (body : State → Eff) : Res :=
  match checkForm s t with
  | some f => .next (settle s (.fault f))
  | none =>
    match checkOperands s t u with
    | some f => .next (settle s (.fault f))
    | none =>
      if mustWait s t u then .next (settle s .stall)
      else
        let n := noteStart s
        let p := prepare n
        match checkPoison p u with
        | some f => .next (settle n (.fault f))
        | none => .next (settleOwn s n (body p))

/-- An assigned opcode with a reserved bit that is not 0, or a selector that raises 0x41 (R150, step 4). -/
def issueReserved (t : Traits) (s : State) : State :=
  match checkForm s t with
  | some f => settle s (.fault f)
  | none => settle s (.fault { cause := 0x41, lanes := enabledLanes s.sq (windowsFor s.sq) })

end Sys2Proof.Machine
end

