-- ==== Sys2Proof/Machine/Cache.lean ====
section
/-! DEFINITION. The L1 data caches (R93 to R95): sectors with written-byte masks, their fill, write-back and invalidation, and
what releases and acquires do to them (R125), with the deferred write-back check of R370. -/

namespace Sys2Proof.Machine

/-- The core whose L1 half holds an address: its own, or the half that bit 9 selects when the pair is fused (R95). -/
def l1Core (s : State) (core a : Nat) : Nat :=
  if s.fused.contains (core / 2) then core / 2 * 2 + a / 512 % 2 else core

/-- The cores whose L1 a core reaches: both halves when fused (R95). -/
def l1Cores (s : State) (core : Nat) : List Nat :=
  if s.fused.contains (core / 2) then [core / 2 * 2, core / 2 * 2 + 1] else [core]

/-- The sector of a core's L1 that holds an address. -/
def l1Find (s : State) (core a : Nat) : Option L1Sector :=
  s.l1.find? fun x => x.core == l1Core s core a && x.addr == a / 64 * 64

/-- Replace or add a sector. -/
def l1Set (s : State) (x : L1Sector) : State :=
  { s with l1 := x :: s.l1.filter fun y => !(y.core == x.core && y.addr == x.addr) }

/-- Drop a sector. -/
def l1Drop (s : State) (x : L1Sector) : State :=
  { s with l1 := s.l1.filter fun y => !(y.core == x.core && y.addr == x.addr) }

/-- The mask of n bytes at offset o of a sector. -/
def byteMask (o n : Nat) : BitVec 64 := ((BitVec.allOnes 64) >>> (64 - n)) <<< o

/-- Byte i of a sector's data. -/
def sectorByte (d : BitVec 512) (i : Nat) : Byte := BitVec.ofNat 8 (d.toNat / 2 ^ (8 * i))

/-- A sector's data from its 64 bytes. -/
def sectorOf (bs : List Byte) : BitVec 512 := BitVec.ofNat 512 (leNat bs)

/-- Put bytes at an offset of a sector's data. -/
def sectorPut (d : BitVec 512) (o : Nat) (bs : List Byte) : BitVec 512 :=
  let old := leBytes 64 d.toNat
  sectorOf (old.take o ++ bs ++ old.drop (o + bs.length))

/-- Is a sector's page to be walked again before its write-back (R370)? System squads' sectors are not translated. -/
def L1Sector.doubted (x : L1Sector) : Bool := x.stale && x.ctx != 0

/-- Does a dirty sector's page still grant W (R370)? -/
def stillWritable (s : State) (x : L1Sector) : State × Bool :=
  if !x.doubted then (s, true)
  else match walk s x.core x.ctx x.va with
    | (s, .inr _) => (s, false)
    | (s, .inl l) => (s, bit l.entry 3)

/-- Has a sector a write-back to make? A pinned one is tried again only once a `tlbinv` has covered it (R370). -/
def L1Sector.pending (x : L1Sector) : Bool := x.dirty != 0 && (!x.pinned || x.stale)

/-- Must the write-back of a sector wait for a link that is paused or down (R334, R390): on its own way, or on that of the walk of its
page? -/
def wbWaits (s : State) (x : L1Sector) : Bool :=
  x.pending && anyClosed s && (!linksOpen s x.core x.addr none || (x.doubted && match (walk s x.core x.ctx x.va).2 with
    | .inr f => f.cause == 0
    | .inl _ => false))

/-- Write back one sector's dirty bytes (R93): the sector stays, clean; or is pinned when its page lost W (R370); or stays dirty while
its write-back must wait. A poisoned sector is written back as poisoned (R326, R376), and only a write of all its bytes at once ends
that. -/
def writeBack (s : State) (x : L1Sector) : State :=
  if !x.pending || wbWaits s x then s
  else match stillWritable s x with
    | (s, false) => l1Set s { x with pinned := true, stale := false }
    | (s, true) =>
      let r := homeMerge s x.ctx x.addr x.data x.dirty
      let t := if x.poison then { r.1 with poison := setAdd r.1.poison (x.addr / 64) } else r.1
      l1Set t { x with dirty := 0, fresh := 0, stale := false, pinned := false, told := false }

/-- Write back and invalidate one sector, unless it is pinned. -/
def evictSector (s : State) (x : L1Sector) : State :=
  let t := writeBack s x
  match t.l1.find? fun y => y.core == x.core && y.addr == x.addr with
  | some y => if y.dirty == 0 then l1Drop t y else t
  | none => t

/-! ### Sets and ways (R93) -/

/-- Ways of a set of a core's L1: 1536 KiB in 256 sets (R93), or the management core's 512 KiB (R316). -/
def l1Ways (core : Nat) : Nat := if core = Config.mcCore then 4 else 12

/-- The set of its L1 that a line belongs to (log 7). -/
def l1SetOf (a : Nat) : Nat := Config.l1Set (a / 512) % 256

/-- The lines that the set of an address holds in a core's L1, by first byte. -/
def l1SetLines (s : State) (core a : Nat) : List Nat :=
  ((s.l1.filter fun x => x.core == l1Core s core a && l1SetOf x.addr == l1SetOf a).map fun x => x.addr / 512 * 512).eraseDups

/-- The sectors that a core's L1 half holds of a line. -/
def lineSectors (s : State) (c line : Nat) : List L1Sector := s.l1.filter fun x => x.core == c && x.addr / 512 * 512 == line

/-- A line leaves a core's L1, written back: false where a sector of it must stay (R370). -/
def evictL1Line (s : State) (c line : Nat) : State × Bool :=
  let t := (lineSectors s c line).foldl evictSector s
  (t, (lineSectors t c line).isEmpty)

/-- Room for a line among lines that may leave: true when one has left. Which one leaves is free (log 7). -/
def makeRoom (c : Nat) : Nat → State → List Nat → State × Bool
  | 0, s, _ => (s, false)
  | fuel + 1, s, lines =>
    match lines[Config.l1Victim s.tickets % lines.length]? with
    | none => (s, false)
    | some line => match evictL1Line s.ticket c line with
      | (t, true) => (t, true)
      | (t, false) => makeRoom c fuel t (lines.filter (· != line))

/-- Room for the line of an address in a core's L1 (R93): false where every way of its set is pinned, and the access then bypasses
the L1 (R370). A line whose write-back must wait for a link stays, as a pinned one does (log 77). Fewer sectors in the L1 than ways fill no set. -/
def l1Room (s : State) (core a : Nat) : State × Bool :=
  let c := l1Core s core a
  if (s.l1.filter fun x => x.core == c).length < l1Ways c || (lineSectors s c (a / 512 * 512)) != [] then (s, true)
  else
    let lines := l1SetLines s core a
    if lines.length < l1Ways c then (s, true)
    else makeRoom c (l1Ways c) s (lines.filter fun line => (lineSectors s c line).all fun x => !x.pinned)

/-! ### Loads and stores (R93) -/

/-- The bytes of a sector that are not valid come from its home, around the written ones (R93). -/
def fillAround (s : State) (ctx : Nat) (x : L1Sector) : State :=
  if x.valid == BitVec.allOnes 64 then s
  else
    let r := homeRead s ctx x.addr 64
    let d := sectorOf ((List.range 64).map fun i => if x.valid.getLsbD i then sectorByte x.data i else r.2.1.getD i 0)
    l1Set r.1 { x with data := d, valid := BitVec.allOnes 64, poison := x.poison || r.2.2
                       fresh := if r.2.2 then x.dirty else x.fresh }

/-- A sector enters a core's L1 from its home. -/
def fillNew (s : State) (core ctx a : Nat) : State :=
  let r := homeRead s ctx (a / 64 * 64) 64
  let s := if core < 128 then r.1.countSurvey core 4 1 else r.1
  l1Set s ⟨l1Core s core a, a / 64 * 64, sectorOf r.2.1, BitVec.allOnes 64, 0, 0, ctx, 0, r.2.2, false, false, false⟩

/-- Fill a sector (R93); nothing happens where its set takes no line (R370). -/
def l1Fill (s : State) (core ctx a : Nat) : State :=
  match l1Find s core a with
  | some x => fillAround s ctx x
  | none => match l1Room s core a with
    | (t, true) => fillNew t core ctx a
    | (t, false) => t

/-- Does a core's L1 hold n bytes of one sector? -/
def l1Has (s : State) (core a n : Nat) : Bool :=
  match l1Find s core a with
  | some x => x.valid &&& byteMask (a % 64) n == byteMask (a % 64) n
  | none => false

/-- A weak load of n bytes of one sector through the L1: the bytes and their poison (R93); at the home where the L1 takes no line
for it (R370). -/
def l1Load (s : State) (core ctx a n : Nat) : State × List Byte × Bool :=
  let t := if l1Has s core a n then s else l1Fill s core ctx a
  match l1Find t core a with
  | some x => (t, (List.range n).map fun i => sectorByte x.data (a % 64 + i), x.poison)
  | none => homeRead t ctx a n

/-- A sector with bytes of a store in it (R93, R376): poison ends when every byte has been written since it came. -/
def L1Sector.written (x : L1Sector) (ctx va a : Nat) (bs : List Byte) : L1Sector :=
  let m := byteMask (a % 64) bs.length
  let fresh := if x.poison then x.fresh ||| m else 0
  { x with data := sectorPut x.data (a % 64) bs, valid := x.valid ||| m, dirty := x.dirty ||| m, fresh := fresh, ctx := ctx
           va := va / 64 * 64, poison := x.poison && fresh != BitVec.allOnes 64
           stale := if x.dirty == 0 then false else x.stale }

/-- An empty sector. -/
def emptySector (s : State) (core ctx va a : Nat) : L1Sector :=
  ⟨l1Core s core a, a / 64 * 64, 0, 0, 0, 0, ctx, va / 64 * 64, false, false, false, false⟩

/-- A weak store of bytes of one sector into the L1, without a fill (R93); to the home where the L1 takes no line for it (R370). -/
def l1Store (s : State) (core ctx va a : Nat) (bs : List Byte) : State :=
  match l1Find s core a with
  | some x => l1Set s (x.written ctx va a bs)
  | none => match l1Room s core a with
    | (t, true) => l1Set t ((emptySector t core ctx va a).written ctx va a bs)
    | (t, false) => (homeWrite t ctx a bs).1

/-- Bytes that a home refused leave the L1 (R226). -/
def l1Forget (s : State) (core a n : Nat) : State :=
  match l1Find s core a with
  | none => s
  | some x =>
    let keep := ~~~byteMask (a % 64) n
    let y := { x with valid := x.valid &&& keep, dirty := x.dirty &&& keep }
    if y.valid == 0 then l1Drop s x else l1Set s y

/-! ### Ranges, releases and acquires -/

/-- The sectors of a core's L1, both halves when fused. -/
def sectorsAt (s : State) (core : Nat) : List L1Sector := s.l1.filter fun x => (l1Cores s core).contains x.core

/-- Does a sector meet a range of keys? -/
def L1Sector.meets (x : L1Sector) (a n : Nat) : Bool := x.addr < a + n && a < x.addr + 64

/-- Write back every dirty sector of a core's L1 (R125). -/
def flushL1 (s : State) (core : Nat) : State := (sectorsAt s core).foldl writeBack s

/-- Invalidate every valid byte of a core's L1 that is not dirty (R125). -/
def invalidateClean (s : State) (core : Nat) : State :=
  let cs := l1Cores s core
  { s with l1 := (s.l1.map fun x => if cs.contains x.core then { x with valid := x.dirty } else x).filter fun x =>
      !(cs.contains x.core && x.valid == 0) }

/-- Write back, then invalidate, a core's sectors of a range of keys (R94, R127). -/
def evictRange (s : State) (core a n : Nat) : State :=
  ((sectorsAt s core).filter fun x => x.meets a n).foldl evictSector s

/-- Write back a core's sectors of a range of keys (R127). -/
def writeBackRange (s : State) (core a n : Nat) : State :=
  ((sectorsAt s core).filter fun x => x.meets a n).foldl writeBack s

/-- Invalidate a core's copies of a range of keys without writing them back (R127): bytes not yet written back stay. -/
def dropRange (s : State) (core a n : Nat) : State :=
  let cs := l1Cores s core
  let hit (x : L1Sector) : Bool := cs.contains x.core && x.meets a n
  { s with l1 := (s.l1.map fun x => if hit x then { x with valid := x.dirty } else x).filter fun x => !(hit x && x.valid == 0) }

/-- Is a scope performed in the L1 (R94): squad and crew, and team when the L1 is fused? -/
def inL1Scope (s : State) (core scope : Nat) : Bool :=
  scope ≤ 1 || (scope == 2 && s.fused.contains (core / 2))

/-- Has a core's L1 a write-back that must wait for a link? -/
def unflushed (s : State) (core : Nat) : Bool := (sectorsAt s core).any (wbWaits s)

/-- Must what a release of a scope precedes wait, since a write-back of the release action cannot be made yet (R125, R126, R334)? -/
def releaseWaits (s : State) (core scope : Nat) : Bool := !inL1Scope s core scope && unflushed s core

/-- The release action of a scope (R125). -/
def releaseAction (s : State) (core scope : Nat) : State :=
  if inL1Scope s core scope then s else flushL1 s core

/-- The acquire action of a scope (R125). -/
def acquireAction (s : State) (core scope : Nat) : State :=
  if inL1Scope s core scope then s else invalidateClean s core

/-- The pinned sectors that a squad's release or wait on ST finds, one record each (R226, R370); true when the squad's own
context wrote one of them and it therefore stops. -/
def deferredFaults (s : State) : State × Bool :=
  let q := s.sq
  let found := (sectorsAt s q.ident.core).filter fun x => x.pinned && !x.told
  let mine := found.any fun x => x.ctx == q.ident.ctx
  (found.foldl (fun st x =>
    let w8 := recWord8 0x49 x.ctx true true 0 2 0
    let t := pushRecord st true w8 (recWord10 (physOf x.addr) q.ident.core) (recWord18 q q.cur.first ((q.cur.next - q.cur.first).toNat / 2))
    l1Set t { x with told := true }) s, mine)

/-- The check of R226 and R370 before an instruction completes: pending write-backs are tried, and a squad of the writing
context stops at this instruction. -/
def withDeferred (s : State) (k : State → Eff) : Eff :=
  let t := (sectorsAt s s.sq.ident.core).foldl (fun st x => if x.stale then writeBack st x else st) s
  let r := deferredFaults t
  if r.2 then .halted (stopSquad (r.1.setPc s.sq.cur.active fun _ => s.sq.cur.first)) else k r.1

end Sys2Proof.Machine
end

