-- ==== Sys2Proof/Machine/Bar.lean ====
section
/-! DEFINITION. The register space of BAR0, which system squads reach as control space (R335, R336, R396, R397, R400). -/

namespace Sys2Proof.Machine

/-- Combine a written value with an old one: the bits of mask come from the new. -/
def mergeBits (old new mask : Nat) : Nat := (old &&& (18446744073709551615 - mask)) ||| (new &&& mask)

/-- A QCFG write (R336): with EN set only EN changes; setting EN succeeds only for a legal ring and a user context. -/
def writeQcfg (s : State) (q : Nat) (v : DWord) : State :=
  let w := s.queue q
  if w.cfg.getLsbD 31 then
    if v.getLsbD 31 then s else s.setQueue q { w with cfg := w.cfg &&& ~~~0x80000000 }
  else
    let f : DWord := v &&& 0x01073F1F
    let log2n := f.toNat % 32
    if v.getLsbD 31 && 1 ≤ log2n && log2n ≤ 16 && (q == 0 || f.toNat / 256 % 64 != 0) then
      s.setQueue q { w with cfg := f ||| 0x80000000, rd := w.w, err := 0 }
    else s.setQueue q { w with cfg := f }

/-- A QWRITE write (R336). -/
def writeQwrite (s : State) (q : Nat) (v : DWord) : State :=
  s.setQueue q { s.queue q with w := v.toNat % 4294967296 }

/-- A QBASE write (R336): ignored while EN is 1. -/
def writeQbase (s : State) (q : Nat) (v : DWord) : State :=
  let w := s.queue q
  if w.cfg.getLsbD 31 then s else s.setQueue q { w with base := v &&& ~~~0x3F }

/-- The 8 bytes at an 8-aligned offset of BAR0 (R397). -/
def barWord (s : State) (off : Nat) : Nat :=
  if off = 0 then 0x4810 + Config.revision * 65536
  else if off = 8 then s.dev.ready0.toNat
  else if off = 0x10 then s.dev.ready1.toNat
  else if off = 0x18 then s.dev.domid.toNat
  else if 0x200 ≤ off ∧ off < 0x300 then leNat ((List.range 8).map fun i => vget s.dev.mailbox (off - 0x200 + i))
  else if 0x100000 ≤ off ∧ off < 0x140000 then
    let q := s.queue ((off - 0x100000) / 4096)
    match off % 4096 with
    | 0x00 => q.base.toNat
    | 0x08 => q.cfg.toNat
    | 0x10 => q.w
    | 0x18 => q.rd
    | 0x20 => q.err.toNat
    | _ => 0
  else if 0x200000 ≤ off ∧ off < 0x200800 then (vget s.dev.routes ((off - 0x200000) / 8)).toNat
  else 0

/-- n bytes of BAR0, 4 or 8 and aligned (R396); all ones for any other read. -/
def barRead (s : State) (off n : Nat) : List Byte :=
  if (n = 4 ∨ n = 8) ∧ off % n = 0 then ((leBytes 8 (barWord s (off / 8 * 8))).drop (off % 8)).take n
  else List.replicate n 0xFF

/-- A DOORBELL write raises event 4 (R397). -/
def ringDoorbell (s : State) : State := raiseEvent s 4

/-- Put the n low bytes of a value into the mailbox. -/
def putMailbox (m : Vector Byte 256) (o n x : Nat) : Vector Byte 256 :=
  (List.range n).foldl (fun (v : Vector Byte 256) k => vset v (o + k) (BitVec.ofNat 8 (x / 256 ^ k))) m

/-- A write of 8 bytes at an 8-aligned offset, of which mask selects the bits written (R397). -/
def barWriteWord (s : State) (host : Bool) (off v mask : Nat) : State :=
  let new := mergeBits (barWord s off) v mask
  if off = 0x18 then
    if host then s else { s with dev := { s.dev with domid := BitVec.ofNat 64 (new % 256) } }
  else if off = 0x100 then ringDoorbell s
  else if 0x200 ≤ off ∧ off < 0x300 then
    { s with dev := { s.dev with mailbox := putMailbox s.dev.mailbox (off - 0x200) 8 new } }
  else if 0x100000 ≤ off ∧ off < 0x140000 then
    let q := (off - 0x100000) / 4096
    if host && q == 0 then s
    else match off % 4096 with
      | 0x00 => writeQbase s q (BitVec.ofNat 64 new)
      | 0x08 => writeQcfg s q (BitVec.ofNat 64 new)
      | 0x10 => writeQwrite s q (BitVec.ofNat 64 new)
      | _ => s
  else if 0x200000 ≤ off ∧ off < 0x200800 then
    noteSpan { s with dev := { s.dev with routes := vset s.dev.routes ((off - 0x200000) / 8) (BitVec.ofNat 64 new &&& 0x8000000000FFFFFF) } }
  else s

/-- A write of n bytes of BAR0; ignored unless n is 4 or 8 and the offset aligned (R396). -/
def barWrite (s : State) (host : Bool) (off n v : Nat) : State :=
  if (n = 4 ∨ n = 8) ∧ off % n = 0 then
    let sh := 256 ^ (off % 8)
    barWriteWord s host (off / 8 * 8) (v % 256 ^ n * sh) ((256 ^ n - 1) * sh)
  else s

/-- Is a physical address in the control space of system squads (R397)? -/
def inControl (a : Nat) : Bool := Config.controlBase ≤ a && a < Config.controlBase + 67108864

end Sys2Proof.Machine
end

