-- ==== Sys2Proof/Machine/Access.lean ====
section
/-! DEFINITION. Accesses of one piece of memory by a squad: where they are performed (R93, R94, R226), with the filter of armed
array windows (R99) and the control space of system squads (R397). -/

namespace Sys2Proof.Machine

/-- Would a demand access miss in the core's L1 (R99)? -/
def missesL1 (s : State) (core key n : Nat) : Bool := !l1Has s core key n

/-- Does a store find its sector present in the L1 (R99)? -/
def absentL1 (s : State) (core key : Nat) : Bool := (l1Find s core key).isNone

/-- The filter of armed windows for a demand access of the squad (R99). A weak access of a peer's page is as a strong one: no L1 holds
it (R400; log 77). -/
def filtered (s : State) (va key n : Nat) (isStore strong : Bool) (via : Option Nat) : Bool :=
  let q := s.sq
  inBacking s q.ident.ctx va key n
    && (strong || via.isSome || (if isStore then absentL1 s q.ident.core key else missesL1 s q.ident.core key n))

/-- Is an access of the squad at a key the control space of system squads (R397)? -/
def toControl (s : State) (key : Nat) : Bool := s.sq.ident.priv && inControl key

/-- Is an access performed at the home (R94): one that is strong at die scope or wider, one of a peer's page, whose ordering is that of
the system scope (R400; log 77), and one of host memory, which no L1 holds (R396)? -/
def goesHome (home : Bool) (key : Nat) (via : Option Nat) : Bool := home || via.isSome || (paSpace ≤ key && key < 2 * paSpace)

/-- Does an access leave its core: to a home, or through a miss in the L1? -/
def leavesCore (s : State) (isStore home : Bool) (key n : Nat) (via : Option Nat) : Bool :=
  !toControl s key && (goesHome home key via || (if isStore then inWindow s key else missesL1 s s.sq.ident.core key n))

/-- Does the write-back of a sector that an access of the squad meets wait for a link? -/
def meetsWaiting (s : State) (key n : Nat) : Bool :=
  anyClosed s && (sectorsAt s s.sq.ident.core).any fun x => x.meets key n && wbWaits s x

/-- The way of an access of the squad: its links, what its L1 must write back before it, and the peer that its page names (R334, R390,
R400). -/
def accessWay (s : State) (isStore home : Bool) (key n : Nat) (via : Option Nat) : Way :=
  if !leavesCore s isStore home key n via then .clear
  else if meetsWaiting s key n then .wait
  else openWay s s.sq.ident.core key via

/-- Read n bytes of one sector at a key: at the home when `home`, otherwise through the L1. A peer that is out of reach gives
poisoned data (R400). -/
def readPiece (s : State) (home : Bool) (key n : Nat) (via : Option Nat) : State × List Byte × Bool :=
  let q := s.sq
  if toControl s key then (s, barRead s (key - Config.controlBase) n, false)
  else if accessWay s false home key n via == .lost then (s.ticket, leBytes n (Config.freeWord s.tickets).toNat, true)
  else if goesHome home key via then homeRead (evictRange s q.ident.core key n) q.ident.ctx key n
  else l1Load s q.ident.core q.ident.ctx key n

/-- A weak store to a compression window (R226): written through from the L1, which drops the bytes that the home refuses. -/
def writeThrough (s : State) (key : Nat) (bs : List Byte) : State × Bool :=
  let q := s.sq
  let r := homeWrite s q.ident.ctx key bs
  (if r.2 then l1Forget r.1 q.ident.core key bs.length
   else match l1Find r.1 q.ident.core key with
    | some x => l1Set r.1 { x with data := sectorPut x.data (key % 64) bs, valid := x.valid ||| byteMask (key % 64) bs.length }
    | none => r.1, r.2)

/-- Write bytes of one sector at a key: at the home when `home`, otherwise in the L1. True when the home refused it (R105), or a
peer is out of reach (R400). -/
def writePiece (s : State) (home : Bool) (va key : Nat) (bs : List Byte) (via : Option Nat) : State × Bool :=
  let q := s.sq
  if toControl s key then (barWrite s false (key - Config.controlBase) bs.length (leNat bs), false)
  else if accessWay s true home key bs.length via == .lost then (s, true)
  else if goesHome home key via then homeWrite (evictRange s q.ident.core key bs.length) q.ident.ctx key bs
  else if inWindow s key then writeThrough s key bs
  else (l1Store s q.ident.core q.ident.ctx va key bs, false)

/-- The fault of a failed translation of the squad's access. -/
def trFault (f : TrFault) (lanes : Mask) (addr aux : Nat) : FaultInfo :=
  { cause := f.cause, detail := f.detail, lanes := lanes, addr := addr, aux := aux, joined := f.joined }

/-- Has the squad an access outstanding that touches bytes at a key (R117)? -/
def touching (q : Squad) (key n : Nat) : Bool :=
  q.ops.any fun o => !o.done && o.accesses.any fun a => a.pa < key + n && key < a.pa + a.n

/-- What a read at issue finds. -/
inductive Seen where
  | bytes (bs : List Byte) (poison : Bool)
  | fault (f : FaultInfo)
  | wait

/-- A weak read of the squad at an address, at issue (R172): it waits for the squad's own accesses to the same bytes (R117), and
for a way that is not open. -/
def readWeak (s : State) (va n : Nat) (lanes : Mask) : State × Seen :=
  let q := s.sq
  match resolve s q.ident.priv q.ident.core q.ident.ctx va needR with
  | (s, .inr f) => (s, if f.cause = 0 then .wait else .fault (trFault f lanes va 1))
  | (s, .inl k) =>
    let key := canon s k
    if filtered s va key n false false (peerOfKey k) then (s, .fault { cause := 0x46, lanes := lanes, addr := va, aux := 1 })
    else if touching q key n || accessWay s false false key n (peerOfKey k) == .wait then (s, .wait)
    else
      let r := readPiece s false key n (peerOfKey k)
      (r.1, .bytes r.2.1 r.2.2)

end Sys2Proof.Machine
end

