-- ==== Sys2Proof/Machine/Float.lean ====
section
/-! DEFINITION. Number formats and exact arithmetic (R60, R63 to R71): values are taken apart exactly, computed exactly over
integers, and rounded once. -/

namespace Sys2Proof.Machine

/-! ### Formats (R63) -/

/-- What the highest exponent encodes. -/
inductive Top where
  | ieee       -- infinity and NaNs
  | nanOnly    -- normal, but for the all-ones fraction, which is NaN (E4M3)
  | normal     -- normal (E2M1)
  deriving DecidableEq, Repr

/-- A floating-point format: exponent and fraction widths, bias, and its highest exponent. -/
structure Fmt where
  eb   : Nat
  mb   : Nat
  bias : Nat
  top  : Top
  deriving DecidableEq, Repr

abbrev fp32 : Fmt := ⟨8, 23, 127, .ieee⟩
abbrev fp16 : Fmt := ⟨5, 10, 15, .ieee⟩
abbrev bf16 : Fmt := ⟨8, 7, 127, .ieee⟩
abbrev e5m2 : Fmt := ⟨5, 2, 15, .ieee⟩
abbrev e4m3 : Fmt := ⟨4, 3, 7, .nanOnly⟩
abbrev e2m1 : Fmt := ⟨2, 1, 1, .normal⟩

/-- The float codes of the conversion selectors (R208). -/
def fmtOf (code : Nat) : Fmt :=
  match code with
  | 0 => fp32
  | 1 => fp16
  | 2 => bf16
  | 3 => e5m2
  | 4 => e4m3
  | _ => e2m1

/-- Width in bits. -/
def Fmt.width (f : Fmt) : Nat := 1 + f.eb + f.mb

/-- The canonical NaN, with sign 0 (R63, R64); 0 for E2M1, which has none. -/
def Fmt.nan (f : Fmt) : Nat :=
  match f.top with
  | .ieee => (2 ^ f.eb - 1) * 2 ^ f.mb + 2 ^ (f.mb - 1)
  | .nanOnly => 2 ^ (f.eb + f.mb) - 1
  | .normal => 0

/-- The code of the largest finite value. -/
def Fmt.largest (f : Fmt) : Nat :=
  match f.top with
  | .ieee => (2 ^ f.eb - 1) * 2 ^ f.mb - 1
  | .nanOnly => 2 ^ (f.eb + f.mb) - 2
  | .normal => 2 ^ (f.eb + f.mb) - 1

/-- The code of infinity, where there is one. -/
def Fmt.inf (f : Fmt) : Nat := (2 ^ f.eb - 1) * 2 ^ f.mb

/-- A code with its sign. -/
def Fmt.signed (f : Fmt) (neg : Bool) (code : Nat) : Nat := if neg then code + 2 ^ (f.eb + f.mb) else code

/-- Does the format have subnormals that FTZ acts on (R65)? -/
def Fmt.flushes (f : Fmt) : Bool := f == fp32 || f == fp16 || f == bf16

/-- A value: a NaN, an infinity, or ± m × 2^e. -/
inductive Num where
  | nan (signalling : Bool)
  | inf (neg : Bool)
  | fin (neg : Bool) (m : Nat) (e : Int)
  deriving DecidableEq, Repr

/-- The value of a code (R63). -/
def Fmt.decode (f : Fmt) (x : Nat) : Num :=
  let x := x % 2 ^ f.width
  let neg := x / 2 ^ (f.eb + f.mb) == 1
  let ex := x / 2 ^ f.mb % 2 ^ f.eb
  let fr := x % 2 ^ f.mb
  let top := ex == 2 ^ f.eb - 1
  let isNan := match f.top with
    | .ieee => top && fr != 0
    | .nanOnly => top && fr == 2 ^ f.mb - 1
    | .normal => false
  if isNan then .nan (f.top == .ieee && fr < 2 ^ (f.mb - 1))
  else if f.top == .ieee && top then .inf neg
  else if ex = 0 then .fin neg fr (1 - f.bias - f.mb)
  else .fin neg (fr + 2 ^ f.mb) ((ex : Int) - f.bias - f.mb)

/-- Is a code subnormal? -/
def Fmt.subnormal (f : Fmt) (x : Nat) : Bool := x / 2 ^ f.mb % 2 ^ f.eb == 0 && x % 2 ^ f.mb != 0

/-- An operand under FTZ (R65). -/
def Fmt.operand (f : Fmt) (ftz : Bool) (x : Nat) : Num :=
  match f.decode x with
  | .fin neg m e => if ftz && f.flushes && f.subnormal x then .fin neg 0 e else .fin neg m e
  | n => n

/-! ### Rounding (R57, R60, R70) -/

/-- Exceptions as bits: 1 invalid, 2 divide-by-zero, 4 overflow, 8 underflow, 16 inexact (R58). -/
abbrev Fx := Nat

/-- A result: its code, the exceptions it raises, and what it counts in the statistics of R77. -/
structure FRes where
  bits  : Nat
  fx    : Fx := 0
  sat   : Bool := false
  flush : Bool := false
  nan   : Bool := false
  deriving DecidableEq, Repr

/-- Does rounding go away from zero? mode: 0 nearest-even, 1 toward zero, 2 toward −∞, 3 toward +∞; low and half describe
the discarded part: whether it is not 0, and how it compares with one half. -/
def roundsUp (mode : Nat) (neg odd low : Bool) (half : Ordering) : Bool :=
  match mode with
  | 0 => match half with
    | .gt => true
    | .eq => odd
    | .lt => false
  | 1 => false
  | 2 => low && neg
  | _ => low && !neg

/-- m × 2^e rounded to a multiple of 2^q, with a sticky remainder below m: the multiple, and whether it is inexact. -/
def roundAt (mode : Nat) (neg : Bool) (m : Nat) (e q : Int) (sticky : Bool) : Nat × Bool :=
  if q ≤ e then (m * 2 ^ (e - q).toNat, sticky)
  else
    let k := (q - e).toNat
    let n := m / 2 ^ k
    let r := m % 2 ^ k
    let h := 2 ^ (k - 1)
    let half := if r < h then .lt else if r = h then (if sticky then .gt else .eq) else .gt
    let low := r != 0 || sticky
    ((if roundsUp mode neg (n % 2 == 1) low half then n + 1 else n), low)

/-- What rounding to a format gives before the format's range is applied. -/
structure Rounded where
  n    : Nat      -- the multiple
  q    : Int      -- of 2^q
  inx  : Bool
  tiny : Bool     -- below the smallest normal value after rounding with unbounded exponent (R60)
  beyond : Bool   -- beyond the largest finite value (R70)
  deriving DecidableEq, Repr

/-- Round an exact value to the precision of a format, with an unbounded exponent above (R70). -/
def Fmt.round (f : Fmt) (mode : Nat) (neg : Bool) (m : Nat) (e : Int) (sticky : Bool) : Rounded :=
  let len : Int := if m = 0 then 0 else (Nat.log2 m : Int) + 1
  let free := e + len - (f.mb + 1)
  let low : Int := 1 - (f.bias : Int) - f.mb
  let q := if m = 0 || free < low then low else free
  let r := roundAt mode neg m e q sticky
  let u := roundAt mode neg m e free sticky
  let minNormal : Int := 1 - (f.bias : Int)
  let tiny := m = 0 || (if u.1 = 0 then true else free + (Nat.log2 u.1 : Int) < minNormal)
  let topExp : Int := (match f.top with
    | .ieee => (2 ^ f.eb - 2 : Nat)
    | _ => (2 ^ f.eb - 1 : Nat)) - (f.bias : Int)
  let topFrac := match f.top with
    | .nanOnly => 2 ^ (f.mb + 1) - 2
    | _ => 2 ^ (f.mb + 1) - 1
  let beyond :=
    if r.1 = 0 then false
    else
      let ex := q + (Nat.log2 r.1 : Int)
      ex > topExp || (ex = topExp && topExp - f.mb ≤ q && r.1 * 2 ^ (q - (topExp - f.mb)).toNat > topFrac)
  ⟨r.1, q, r.2, tiny, beyond⟩

/-- The code of a rounded value in range. -/
def Fmt.encode (f : Fmt) (n : Nat) (q : Int) : Nat :=
  if n < 2 ^ f.mb then n
  else
    let up := Nat.log2 n - f.mb
    let ex := q + up + f.bias + f.mb
    ex.toNat * 2 ^ f.mb + (n / 2 ^ up - 2 ^ f.mb)

/-- A finite exact value ± m × 2^e (plus a sticky remainder) in a format (R60, R65, R70): sat selects saturation. -/
def Fmt.finite (f : Fmt) (mode : Nat) (ftz sat neg : Bool) (m : Nat) (e : Int) (sticky : Bool) : FRes :=
  if m = 0 && !sticky then { bits := f.signed neg 0 }
  else
    let r := f.round mode neg m e sticky
    if r.beyond then
      let bits :=
        if sat || f.top == .normal then f.signed neg f.largest
        else match f.top with
          | .nanOnly => f.nan
          | _ =>
            if mode = 1 || (mode = 2 && !neg) || (mode = 3 && neg) then f.signed neg f.largest else f.signed neg f.inf
      { bits := bits, fx := 4 + 16, sat := true }
    else
      let code := f.encode r.n r.q
      if ftz && f.flushes && f.subnormal code then { bits := f.signed neg 0, fx := 8 + 16, flush := true }
      else
        { bits := f.signed neg code, fx := (if r.tiny && r.inx then 8 else 0) + (if r.inx then 16 else 0), flush := code == 0 }

/-- A NaN result (R64). -/
def Fmt.nanRes (f : Fmt) (invalid : Bool) : FRes := { bits := f.nan, fx := if invalid then 1 else 0, nan := true }

/-! ### Arithmetic (R192, R201) -/

/-- A term of an exact sum. -/
structure Term where
  neg : Bool
  m   : Nat
  e   : Int
  deriving DecidableEq, Repr

/-- The exact sum of terms, as a numerator over 2^-e. -/
def sumTerms (ts : List Term) : Int × Int :=
  let e := ts.foldl (fun lo t => if t.m = 0 then lo else if t.e < lo then t.e else lo) 4096
  (ts.foldl (fun (acc : Int) t =>
    if t.m = 0 then acc
    else
      let x : Int := (t.m * 2 ^ (t.e - e).toNat : Nat)
      if t.neg then acc - x else acc + x) 0, e)

/-- A sum rounded once; an exact zero sum is +0, or −0 toward −∞, unless every term has the same sign (R201). -/
def Fmt.sum (f : Fmt) (mode : Nat) (ftz : Bool) (ts : List Term) : FRes :=
  let (x, e) := sumTerms ts
  if x = 0 then
    let neg := if ts.all (·.neg) then true else if ts.all (!·.neg) then false else mode == 2
    { bits := f.signed neg 0 }
  else f.finite mode ftz false (decide (x < 0)) x.natAbs e false

/-- Is a value a signalling NaN? -/
def Num.isSnan : Num → Bool
  | .nan s => s
  | _ => false

/-- Is a value a NaN? -/
def Num.isNan : Num → Bool
  | .nan _ => true
  | _ => false

/-- The sign of a value that is not a NaN. -/
def Num.neg : Num → Bool
  | .nan _ => false
  | .inf n => n
  | .fin n _ _ => n

/-- The opposite value. -/
def Num.negate : Num → Num
  | .nan s => .nan s
  | .inf n => .inf (!n)
  | .fin n m e => .fin (!n) m e

/-- Is a value zero? -/
def Num.isZero : Num → Bool
  | .fin _ 0 _ => true
  | _ => false

/-- Is a value infinite? -/
def Num.isInf : Num → Bool
  | .inf _ => true
  | _ => false

/-- A product of two values that are not NaN; none for 0 × ∞. -/
def Num.mul (a b : Num) : Option Num :=
  match a, b with
  | .fin na ma ea, .fin nb mb eb => some (.fin (na != nb) (ma * mb) (ea + eb))
  | a, b => if a.isZero || b.isZero then none else some (.inf (a.neg != b.neg))

/-- A sum of products and values, exactly, rounded once (R192, R201, R206). Each product is a pair; plain is added. A quiet NaN gives
a NaN and raises nothing, also beside infinities of opposite signs (DESIGN CHOICE, log 102). -/
def Fmt.dot (f : Fmt) (mode : Nat) (ftz : Bool) (plain : Num) (prods : List (Num × Num)) : FRes :=
  let all := plain :: prods.flatMap fun p => [p.1, p.2]
  let snan := all.any Num.isSnan
  let bad := prods.any fun p => (p.1.isZero && p.2.isInf) || (p.1.isInf && p.2.isZero)
  if snan || bad then f.nanRes true
  else if all.any Num.isNan then f.nanRes false
  else
    let vs := plain :: prods.filterMap fun p => p.1.mul p.2
    let infs := vs.filter Num.isInf
    if !infs.isEmpty then
      if infs.all (·.neg) then { bits := f.signed true f.inf }
      else if infs.all (!·.neg) then { bits := f.signed false f.inf }
      else f.nanRes true
    else f.sum mode ftz (vs.filterMap fun v => match v with
      | .fin n m e => some ⟨n, m, e⟩
      | _ => none)

/-- a + b. -/
def Fmt.add (f : Fmt) (mode : Nat) (ftz : Bool) (a b : Num) : FRes :=
  match a, b with
  | .fin na ma ea, .fin nb mb eb => f.sum mode ftz [⟨na, ma, ea⟩, ⟨nb, mb, eb⟩]
  | a, b =>
    if a.isSnan || b.isSnan then f.nanRes true
    else if a.isNan || b.isNan then f.nanRes false
    else if a.isInf && b.isInf && a.neg != b.neg then f.nanRes true
    else { bits := f.signed (if a.isInf then a.neg else b.neg) f.inf }

/-- a × b. -/
def Fmt.mul (f : Fmt) (mode : Nat) (ftz : Bool) (a b : Num) : FRes :=
  if a.isSnan || b.isSnan then f.nanRes true
  else if a.isNan || b.isNan then f.nanRes false
  else match a.mul b with
    | none => f.nanRes true
    | some (.fin n m e) => f.finite mode ftz false n m e false
    | some v => { bits := f.signed v.neg f.inf }

/-- a × b + c with one rounding (R201). -/
def Fmt.fma (f : Fmt) (mode : Nat) (ftz : Bool) (a b c : Num) : FRes := f.dot mode ftz c [(a, b)]

/-- a / b to nearest-even (R66, R201). -/
def Fmt.div (f : Fmt) (ftz : Bool) (a b : Num) : FRes :=
  if a.isSnan || b.isSnan then f.nanRes true
  else if a.isNan || b.isNan then f.nanRes false
  else
    let neg := a.neg != b.neg
    match a, b with
    | .inf _, .inf _ => f.nanRes true
    | .inf _, _ => { bits := f.signed neg f.inf }
    | _, .inf _ => { bits := f.signed neg 0 }
    | .fin _ ma ea, .fin _ mb eb =>
      if mb = 0 then (if ma = 0 then f.nanRes true else { bits := f.signed neg f.inf, fx := 2 })
      else if ma = 0 then { bits := f.signed neg 0 }
      else
        let n := ma * 18446744073709551616
        f.finite 0 ftz false neg (n / mb) (ea - eb - 64) (n % mb != 0)
    | _, _ => f.nanRes false

/-- The integer square root, bit by bit from bit k down. -/
def isqrtFrom : Nat → Nat → Nat → Nat
  | 0, _, r => r
  | k + 1, n, r =>
    let t := r + 2 ^ k
    isqrtFrom k n (if t * t ≤ n then t else r)

/-- The integer square root. -/
def isqrt (n : Nat) : Nat := isqrtFrom (Nat.log2 n / 2 + 1) n 0

/-- √a to nearest-even (R203). -/
def Fmt.sqrt (f : Fmt) (ftz : Bool) (a : Num) : FRes :=
  match a with
  | .nan s => f.nanRes s
  | .inf n => if n then f.nanRes true else { bits := f.inf }
  | .fin n m e =>
    if m = 0 then { bits := f.signed n 0 }
    else if n then f.nanRes true
    else
      let odd := e % 2
      let x := m * 2 ^ (64 + odd.toNat)
      let r := isqrt x
      f.finite 0 ftz false false r ((e - odd - 64) / 2) (r * r != x)

/-- 1/√a to nearest-even (R203). -/
def Fmt.rsqrt (f : Fmt) (ftz : Bool) (a : Num) : FRes :=
  match a with
  | .nan s => f.nanRes s
  | .inf n => if n then f.nanRes true else { bits := 0 }
  | .fin n m e =>
    if m = 0 then { bits := f.signed n f.inf, fx := 2 }
    else if n then f.nanRes true
    else
      let odd := e % 2
      let y := m * 2 ^ odd.toNat
      let r := isqrt (2 ^ 160 / y)
      f.finite 0 ftz false false r (-80 - (e - odd) / 2) (r * r * y != 2 ^ 160)

/-- Compare two values that are not NaN; the zeros are equal. -/
def Num.compare (a b : Num) : Ordering :=
  match a, b with
  | .inf na, .inf nb => if na == nb then .eq else if na then .lt else .gt
  | .inf na, _ => if na then .lt else .gt
  | _, .inf nb => if nb then .gt else .lt
  | .fin na ma ea, .fin nb mb eb =>
    let (x, _) := sumTerms [⟨na, ma, ea⟩, ⟨!nb, mb, eb⟩]
    if x < 0 then .lt else if x = 0 then .eq else .gt
  | _, _ => .eq

/-- A value that is not rounded, as a code of its own format: after FTZ, with canonical NaNs. -/
def Fmt.recode (f : Fmt) (ftz : Bool) (x : Nat) : Nat :=
  match f.operand ftz x with
  | .nan _ => f.nan
  | .fin n 0 _ => f.signed n 0
  | _ => x % 2 ^ f.width

/-- minimumNumber and maximumNumber, −0 below +0 (R64). -/
def Fmt.minMax (f : Fmt) (ftz isMax : Bool) (x y : Nat) : FRes :=
  let a := f.operand ftz x
  let b := f.operand ftz y
  let fx : Fx := if a.isSnan || b.isSnan then 1 else 0
  let cx := f.recode ftz x
  let cy := f.recode ftz y
  if a.isNan && b.isNan then { bits := f.nan, fx := fx, nan := true }
  else if a.isNan then { bits := cy, fx := fx }
  else if b.isNan then { bits := cx, fx := fx }
  else
    let less := match a.compare b with
      | .lt => true
      | .gt => false
      | .eq => a.neg && !b.neg
    { bits := if less != isMax then cx else cy, fx := fx }

/-- Narrow or widen between formats (R70, R211): sat selects saturation; version 1 always saturates to E4M3 (R76). -/
def convert (src dst : Fmt) (mode : Nat) (ftz sat : Bool) (x : Nat) : FRes :=
  match src.operand ftz x with
  | .nan s =>
    if dst.top == .normal then { bits := 0, fx := 1, nan := true }
    else { bits := dst.nan, fx := if s then 1 else 0, nan := true }
  | .inf n =>
    match dst.top with
    | .ieee => if sat then { bits := dst.signed n dst.largest, sat := true } else { bits := dst.signed n dst.inf }
    | .nanOnly => if sat then { bits := dst.signed n dst.largest, sat := true } else { bits := dst.nan, fx := 1, nan := true }
    | .normal => { bits := dst.signed n dst.largest, sat := true }
  | .fin n m e => dst.finite mode ftz sat n m e false

/-! ### Integers -/

/-- A value rounded to an integer (R204, R209): the integer, and whether it is inexact. mode as MODE. -/
def toInteger (mode : Nat) (neg : Bool) (m : Nat) (e : Int) : Int × Bool :=
  let r := roundAt mode neg m e 0 false
  (if neg then -(r.1 : Int) else r.1, r.2)

/-- Cap an integer (R20). -/
def satInt (x lo hi : Int) : Int := if x < lo then lo else if hi < x then hi else x

/-- An exact integer × 2^e in a format, to nearest-even, subnormals kept (R73, R230). -/
def Fmt.ofInt (f : Fmt) (x : Int) (e : Int) : Nat := (f.finite 0 false false (decide (x < 0)) x.natAbs e false).bits

/-- FP32 addition to nearest-even, subnormals kept, without flags (R73, R230). -/
def addRne (a b : Nat) : Nat := (fp32.add 0 false (fp32.decode a) (fp32.decode b)).bits

end Sys2Proof.Machine
end

