-- ==== Sys2Proof/WellFormed.lean ====
section
/-! DEFINITION. Well-formed instructions: those whose fields pass every check of R150, step 4, that needs no state. The
registers' allotment (R25) depends on the squad and is checked at issue. -/

namespace Sys2Proof

/-- An instruction of the table whose fields are legal (R143 to R156). `satom` and `atoms` are legal here under either
operation set that their `ext` could select. -/
def Instr.wellFormed (i : Instr) : Bool :=
  !(Machine.traitsOf i).device && (Machine.fieldsOk false i || Machine.fieldsOk true i)

end Sys2Proof
end

