-- ==== Sys2Proof/Decode.lean ====
section
/-! DEFINITION. Decoding and encoding (R138, R141 to R144, R151 to R155). The decoder is total: every word is an
instruction, an assigned opcode with a reserved bit or a selector that raises 0x41 (`reserved`), or an unassigned encoding
that raises 0x40 (`illegal`). Bit numbers are those of the opcode table: bit 0 is the least significant bit of the
first halfword. -/

namespace Sys2Proof

/-- What the decoder reads from a word. -/
inductive Decoded where
  | ok (i : Instr)          -- an instruction of the opcode table
  | reserved (i : Instr)    -- an assigned opcode whose reserved bits are not 0, or whose selector raises 0x41 (R150, step 4)
  | illegal                 -- an unassigned minor, opcode, SUB or selector (R150, step 1)
  deriving DecidableEq, Repr

/-- The field of n bits of w whose lowest bit is lo. -/
def fld (w lo n : Nat) : BitVec n := BitVec.ofNat n (w / 2 ^ lo)

/-- The same field as a number. -/
def bits (w lo n : Nat) : Nat := w / 2 ^ lo % 2 ^ n

/-- The 16-bit forms: lane forms with bit 1 = 0 (R141), miscellaneous forms with bit 1 = 1 (R142). -/
def decode16 (w : Nat) : Decoded :=
  match bits w 1 5 with
  | 0 => .ok (.mov16 (fld w 6 5) (fld w 11 5))
  | 2 => .ok (.add16 (fld w 6 5) (fld w 11 5))
  | 4 => .ok (.sub16 (fld w 6 5) (fld w 11 5))
  | 6 => .ok (.mul16 (fld w 6 5) (fld w 11 5))
  | 8 => .ok (.and16 (fld w 6 5) (fld w 11 5))
  | 10 => .ok (.or16 (fld w 6 5) (fld w 11 5))
  | 12 => .ok (.xor16 (fld w 6 5) (fld w 11 5))
  | 14 => .ok (.shl16 (fld w 6 5) (fld w 11 5))
  | 16 => .ok (.shr16 (fld w 6 5) (fld w 11 5))
  | 18 => .ok (.sar16 (fld w 6 5) (fld w 11 5))
  | 20 => .ok (.fadd16 (fld w 6 5) (fld w 11 5))
  | 22 => .ok (.fsub16 (fld w 6 5) (fld w 11 5))
  | 24 => .ok (.fmul16 (fld w 6 5) (fld w 11 5))
  | 26 => .ok (.fmin16 (fld w 6 5) (fld w 11 5))
  | 28 => .ok (.fmax16 (fld w 6 5) (fld w 11 5))
  | 30 => .ok (.fneg16 (fld w 6 5) (fld w 11 5))
  | 1 => if bits w 6 10 = 0 then .ok (.nop) else .reserved (.nop)
  | 3 => if bits w 12 4 = 0 then .ok (.guard (fld w 6 3) (fld w 9 1) (fld w 10 2)) else .reserved (.guard (fld w 6 3) (fld w 9 1) (fld w 10 2))
  | 5 => if bits w 12 4 = 0 then .ok (.ord (fld w 6 3) (fld w 9 3)) else .reserved (.ord (fld w 6 3) (fld w 9 3))
  | 7 => if bits w 6 10 = 0 then .ok (.yield) else .reserved (.yield)
  | 9 => if bits w 6 10 = 0 then .ok (.exit) else .reserved (.exit)
  | 11 => if bits w 6 10 = 0 then .ok (.ret) else .reserved (.ret)
  | 13 => .ok (.brk (fld w 6 10))
  | 15 => if bits w 11 5 = 0 then .ok (.wait0 (fld w 6 5)) else .reserved (.wait0 (fld w 6 5))
  | _ => .illegal

/-- Class R (R151, R152): the opcode is bits 10:3. -/
def decodeR (w : Nat) : Decoded :=
  match bits w 3 8 with
  | 0 => .ok (.add (fld w 11 7) (fld w 18 7) (fld w 25 7))
  | 1 => .ok (.addS (fld w 11 7) (fld w 18 7) (fld w 25 7))
  | 2 => .ok (.sub (fld w 11 7) (fld w 18 7) (fld w 25 7))
  | 3 => .ok (.subS (fld w 11 7) (fld w 18 7) (fld w 25 7))
  | 4 => .ok (.mul (fld w 11 7) (fld w 18 7) (fld w 25 7))
  | 5 => .ok (.mulS (fld w 11 7) (fld w 18 7) (fld w 25 7))
  | 6 => .ok (.mulhiI32 (fld w 11 7) (fld w 18 7) (fld w 25 7))
  | 7 => .ok (.mulhiI32S (fld w 11 7) (fld w 18 7) (fld w 25 7))
  | 8 => .ok (.mulhiN32 (fld w 11 7) (fld w 18 7) (fld w 25 7))
  | 9 => .ok (.mulhiN32S (fld w 11 7) (fld w 18 7) (fld w 25 7))
  | 10 => .ok (.and (fld w 11 7) (fld w 18 7) (fld w 25 7))
  | 11 => .ok (.andS (fld w 11 7) (fld w 18 7) (fld w 25 7))
  | 12 => .ok (.or (fld w 11 7) (fld w 18 7) (fld w 25 7))
  | 13 => .ok (.orS (fld w 11 7) (fld w 18 7) (fld w 25 7))
  | 14 => .ok (.xor (fld w 11 7) (fld w 18 7) (fld w 25 7))
  | 15 => .ok (.xorS (fld w 11 7) (fld w 18 7) (fld w 25 7))
  | 16 => .ok (.shl (fld w 11 7) (fld w 18 7) (fld w 25 7))
  | 17 => .ok (.shlS (fld w 11 7) (fld w 18 7) (fld w 25 7))
  | 18 => .ok (.shr (fld w 11 7) (fld w 18 7) (fld w 25 7))
  | 19 => .ok (.shrS (fld w 11 7) (fld w 18 7) (fld w 25 7))
  | 20 => .ok (.sar (fld w 11 7) (fld w 18 7) (fld w 25 7))
  | 21 => .ok (.sarS (fld w 11 7) (fld w 18 7) (fld w 25 7))
  | 22 => .ok (.minI32 (fld w 11 7) (fld w 18 7) (fld w 25 7))
  | 23 => .ok (.minI32S (fld w 11 7) (fld w 18 7) (fld w 25 7))
  | 24 => .ok (.maxI32 (fld w 11 7) (fld w 18 7) (fld w 25 7))
  | 25 => .ok (.maxI32S (fld w 11 7) (fld w 18 7) (fld w 25 7))
  | 26 => .ok (.minN32 (fld w 11 7) (fld w 18 7) (fld w 25 7))
  | 27 => .ok (.minN32S (fld w 11 7) (fld w 18 7) (fld w 25 7))
  | 28 => .ok (.maxN32 (fld w 11 7) (fld w 18 7) (fld w 25 7))
  | 29 => .ok (.maxN32S (fld w 11 7) (fld w 18 7) (fld w 25 7))
  | 30 => .ok (.addsatI32 (fld w 11 7) (fld w 18 7) (fld w 25 7))
  | 31 => .ok (.addsatI32S (fld w 11 7) (fld w 18 7) (fld w 25 7))
  | 32 => .ok (.subsatI32 (fld w 11 7) (fld w 18 7) (fld w 25 7))
  | 33 => .ok (.subsatI32S (fld w 11 7) (fld w 18 7) (fld w 25 7))
  | 34 => .ok (.mad (fld w 11 7) (fld w 18 7) (fld w 25 7))
  | 35 => .ok (.madS (fld w 11 7) (fld w 18 7) (fld w 25 7))
  | 36 => .ok (.prmt (fld w 11 7) (fld w 18 7) (fld w 25 7))
  | 37 => .ok (.prmtS (fld w 11 7) (fld w 18 7) (fld w 25 7))
  | 38 => .ok (.bfe (fld w 11 7) (fld w 18 7) (fld w 25 7))
  | 39 => .ok (.bfeS (fld w 11 7) (fld w 18 7) (fld w 25 7))
  | 40 => .ok (.bfi (fld w 11 7) (fld w 18 7) (fld w 25 7))
  | 41 => .ok (.bfiS (fld w 11 7) (fld w 18 7) (fld w 25 7))
  | 42 => .ok (.setp (fld w 11 3) (fld w 14 4) (fld w 18 7) (fld w 25 7))
  | 43 => .ok (.setpS (fld w 11 3) (fld w 14 4) (fld w 18 7) (fld w 25 7))
  | 44 => if bits w 29 3 = 0 then .ok (.selp (fld w 11 7) (fld w 18 7) (fld w 25 3) (fld w 28 1)) else .reserved (.selp (fld w 11 7) (fld w 18 7) (fld w 25 3) (fld w 28 1))
  | 45 => if bits w 25 7 = 0 then .ok (.popc (fld w 11 7) (fld w 18 7)) else .reserved (.popc (fld w 11 7) (fld w 18 7))
  | 46 => if bits w 25 7 = 0 then .ok (.clz (fld w 11 7) (fld w 18 7)) else .reserved (.clz (fld w 11 7) (fld w 18 7))
  | 47 => if bits w 25 7 = 0 then .ok (.brev (fld w 11 7) (fld w 18 7)) else .reserved (.brev (fld w 11 7) (fld w 18 7))
  | 48 => if bits w 25 7 = 0 then .ok (.abs (fld w 11 7) (fld w 18 7)) else .reserved (.abs (fld w 11 7) (fld w 18 7))
  | 49 => if bits w 25 7 = 0 then .ok (.neg (fld w 11 7) (fld w 18 7)) else .reserved (.neg (fld w 11 7) (fld w 18 7))
  | 50 => if bits w 25 7 = 0 then .ok (.not (fld w 11 7) (fld w 18 7)) else .reserved (.not (fld w 11 7) (fld w 18 7))
  | 51 => if bits w 25 7 = 0 then .ok (.mov (fld w 11 7) (fld w 18 7)) else .reserved (.mov (fld w 11 7) (fld w 18 7))
  | 52 => if bits w 25 7 = 0 then .ok (.movs (fld w 11 7) (fld w 18 7)) else .reserved (.movs (fld w 11 7) (fld w 18 7))
  | 53 => .ok (.sext (fld w 11 7) (fld w 18 7) (fld w 25 7))
  | 54 => if bits w 25 7 = 0 then .ok (.movx (fld w 11 7) (fld w 18 7)) else .reserved (.movx (fld w 11 7) (fld w 18 7))
  | 55 => if bits w 25 7 = 0 then .ok (.movxr (fld w 11 7) (fld w 18 7)) else .reserved (.movxr (fld w 11 7) (fld w 18 7))
  | 64 => .ok (.fadd (fld w 11 7) (fld w 18 7) (fld w 25 7))
  | 65 => .ok (.faddS (fld w 11 7) (fld w 18 7) (fld w 25 7))
  | 66 => .ok (.fsub (fld w 11 7) (fld w 18 7) (fld w 25 7))
  | 67 => .ok (.fsubS (fld w 11 7) (fld w 18 7) (fld w 25 7))
  | 68 => .ok (.fmul (fld w 11 7) (fld w 18 7) (fld w 25 7))
  | 69 => .ok (.fmulS (fld w 11 7) (fld w 18 7) (fld w 25 7))
  | 70 => .ok (.ffma (fld w 11 7) (fld w 18 7) (fld w 25 7))
  | 71 => .ok (.ffmaS (fld w 11 7) (fld w 18 7) (fld w 25 7))
  | 72 => .ok (.fnma (fld w 11 7) (fld w 18 7) (fld w 25 7))
  | 73 => .ok (.fnmaS (fld w 11 7) (fld w 18 7) (fld w 25 7))
  | 74 => .ok (.fmin (fld w 11 7) (fld w 18 7) (fld w 25 7))
  | 75 => .ok (.fminS (fld w 11 7) (fld w 18 7) (fld w 25 7))
  | 76 => .ok (.fmax (fld w 11 7) (fld w 18 7) (fld w 25 7))
  | 77 => .ok (.fmaxS (fld w 11 7) (fld w 18 7) (fld w 25 7))
  | 78 => .ok (.fsetp (fld w 11 3) (fld w 14 4) (fld w 18 7) (fld w 25 7))
  | 79 => .ok (.fsetpS (fld w 11 3) (fld w 14 4) (fld w 18 7) (fld w 25 7))
  | 80 => .ok (.fdiv (fld w 11 7) (fld w 18 7) (fld w 25 7))
  | 81 => .ok (.fdivS (fld w 11 7) (fld w 18 7) (fld w 25 7))
  | 82 => if bits w 25 7 = 0 then .ok (.fabs (fld w 11 7) (fld w 18 7)) else .reserved (.fabs (fld w 11 7) (fld w 18 7))
  | 83 => if bits w 25 7 = 0 then .ok (.fneg (fld w 11 7) (fld w 18 7)) else .reserved (.fneg (fld w 11 7) (fld w 18 7))
  | 84 => if bits w 25 7 = 0 then .ok (.frcp (fld w 11 7) (fld w 18 7)) else .reserved (.frcp (fld w 11 7) (fld w 18 7))
  | 85 => if bits w 25 7 = 0 then .ok (.frsq (fld w 11 7) (fld w 18 7)) else .reserved (.frsq (fld w 11 7) (fld w 18 7))
  | 86 => if bits w 25 7 = 0 then .ok (.fsqrt (fld w 11 7) (fld w 18 7)) else .reserved (.fsqrt (fld w 11 7) (fld w 18 7))
  | 87 => if bits w 25 7 = 0 then .ok (.fex2 (fld w 11 7) (fld w 18 7)) else .reserved (.fex2 (fld w 11 7) (fld w 18 7))
  | 88 => if bits w 25 7 = 0 then .ok (.flg2 (fld w 11 7) (fld w 18 7)) else .reserved (.flg2 (fld w 11 7) (fld w 18 7))
  | 89 => if bits w 25 7 = 0 then .ok (.fsin (fld w 11 7) (fld w 18 7)) else .reserved (.fsin (fld w 11 7) (fld w 18 7))
  | 90 => if bits w 25 7 = 0 then .ok (.fcos (fld w 11 7) (fld w 18 7)) else .reserved (.fcos (fld w 11 7) (fld w 18 7))
  | 91 => if bits w 25 7 = 0 then .ok (.ftanh (fld w 11 7) (fld w 18 7)) else .reserved (.ftanh (fld w 11 7) (fld w 18 7))
  | 92 => if bits w 28 4 = 0 then .ok (.frnd (fld w 11 7) (fld w 18 7) (fld w 25 3)) else .reserved (.frnd (fld w 11 7) (fld w 18 7) (fld w 25 3))
  | 93 => if bits w 25 7 = 0 then .ok (.fclass (fld w 11 7) (fld w 18 7)) else .reserved (.fclass (fld w 11 7) (fld w 18 7))
  | 96 => .ok (.hadd2 (fld w 11 7) (fld w 18 7) (fld w 25 7))
  | 97 => .ok (.hadd2S (fld w 11 7) (fld w 18 7) (fld w 25 7))
  | 98 => .ok (.hmul2 (fld w 11 7) (fld w 18 7) (fld w 25 7))
  | 99 => .ok (.hmul2S (fld w 11 7) (fld w 18 7) (fld w 25 7))
  | 100 => .ok (.hfma2 (fld w 11 7) (fld w 18 7) (fld w 25 7))
  | 101 => .ok (.hfma2S (fld w 11 7) (fld w 18 7) (fld w 25 7))
  | 102 => .ok (.badd2 (fld w 11 7) (fld w 18 7) (fld w 25 7))
  | 103 => .ok (.badd2S (fld w 11 7) (fld w 18 7) (fld w 25 7))
  | 104 => .ok (.bmul2 (fld w 11 7) (fld w 18 7) (fld w 25 7))
  | 105 => .ok (.bmul2S (fld w 11 7) (fld w 18 7) (fld w 25 7))
  | 106 => .ok (.bfma2 (fld w 11 7) (fld w 18 7) (fld w 25 7))
  | 107 => .ok (.bfma2S (fld w 11 7) (fld w 18 7) (fld w 25 7))
  | 108 => .ok (.dot2 (fld w 11 7) (fld w 18 7) (fld w 25 7))
  | 109 => .ok (.dot2S (fld w 11 7) (fld w 18 7) (fld w 25 7))
  | 110 => .ok (.idot4 (fld w 11 7) (fld w 18 7) (fld w 25 7))
  | 111 => .ok (.idot4S (fld w 11 7) (fld w 18 7) (fld w 25 7))
  | 112 => .ok (.cvtfi (fld w 11 7) (fld w 18 7) (fld w 25 7))
  | 113 => .ok (.cvtif (fld w 11 7) (fld w 18 7) (fld w 25 7))
  | 114 => .ok (.cvtff (fld w 11 7) (fld w 18 7) (fld w 25 7))
  | 115 => .ok (.cvtpk (fld w 11 7) (fld w 18 7) (fld w 25 7))
  | 116 => .ok (.cvtup (fld w 11 7) (fld w 18 7) (fld w 25 7))
  | 117 => if bits w 26 6 = 0 then .ok (.mxscale (fld w 11 7) (fld w 18 7) (fld w 25 1)) else .reserved (.mxscale (fld w 11 7) (fld w 18 7) (fld w 25 1))
  | 118 => if bits w 26 6 = 0 then .ok (.mxq (fld w 11 7) (fld w 18 7) (fld w 25 1)) else .reserved (.mxq (fld w 11 7) (fld w 18 7) (fld w 25 1))
  | 120 => .ok (.shflIdx (fld w 11 7) (fld w 18 7) (fld w 25 7))
  | 121 => .ok (.shflXor (fld w 11 7) (fld w 18 7) (fld w 25 7))
  | 122 => .ok (.shflUp (fld w 11 7) (fld w 18 7) (fld w 25 7))
  | 123 => .ok (.shflDn (fld w 11 7) (fld w 18 7) (fld w 25 7))
  | 124 => .ok (.redsq (fld w 11 7) (fld w 18 7) (fld w 25 7))
  | 125 => .ok (.scan (fld w 11 7) (fld w 18 7) (fld w 25 7))
  | 126 => match bits w 25 7 with
    | 0 => if bits w 22 3 = 0 then .ok (.voteBallot (fld w 11 7) (fld w 18 3) (fld w 21 1)) else .reserved (.voteBallot (fld w 11 7) (fld w 18 3) (fld w 21 1))
    | 1 => if bits w 14 4 = 0 ∧ bits w 22 3 = 0 then .ok (.voteAll (fld w 11 3) (fld w 18 3) (fld w 21 1)) else .reserved (.voteAll (fld w 11 3) (fld w 18 3) (fld w 21 1))
    | 2 => if bits w 14 4 = 0 ∧ bits w 22 3 = 0 then .ok (.voteAny (fld w 11 3) (fld w 18 3) (fld w 21 1)) else .reserved (.voteAny (fld w 11 3) (fld w 18 3) (fld w 21 1))
    | 3 => if bits w 14 4 = 0 ∧ bits w 22 3 = 0 then .ok (.voteUni (fld w 11 3) (fld w 18 3) (fld w 21 1)) else .reserved (.voteUni (fld w 11 3) (fld w 18 3) (fld w 21 1))
    | 4 => if bits w 22 3 = 0 then .ok (.voteBallotHi (fld w 11 7) (fld w 18 3) (fld w 21 1)) else .reserved (.voteBallotHi (fld w 11 7) (fld w 18 3) (fld w 21 1))
    | _ => .reserved (.voteBallot (fld w 11 7) (fld w 18 3) (fld w 21 1))
  | 127 => match bits w 25 7 with
    | 0 => .ok (.matchAny (fld w 11 7) (fld w 18 7))
    | 1 => .ok (.matchFirst (fld w 11 7) (fld w 18 7))
    | _ => .reserved (.matchAny (fld w 11 7) (fld w 18 7))
  | 128 => .ok (.sadd (fld w 11 7) (fld w 18 7) (fld w 25 7))
  | 129 => .ok (.ssub (fld w 11 7) (fld w 18 7) (fld w 25 7))
  | 130 => .ok (.smul (fld w 11 7) (fld w 18 7) (fld w 25 7))
  | 131 => .ok (.smulhi (fld w 11 7) (fld w 18 7) (fld w 25 7))
  | 132 => .ok (.sand (fld w 11 7) (fld w 18 7) (fld w 25 7))
  | 133 => .ok (.sor (fld w 11 7) (fld w 18 7) (fld w 25 7))
  | 134 => .ok (.sxor (fld w 11 7) (fld w 18 7) (fld w 25 7))
  | 135 => .ok (.sshl (fld w 11 7) (fld w 18 7) (fld w 25 7))
  | 136 => .ok (.sshr (fld w 11 7) (fld w 18 7) (fld w 25 7))
  | 137 => .ok (.ssar (fld w 11 7) (fld w 18 7) (fld w 25 7))
  | 138 => .ok (.smin (fld w 11 7) (fld w 18 7) (fld w 25 7))
  | 139 => .ok (.smax (fld w 11 7) (fld w 18 7) (fld w 25 7))
  | 140 => .ok (.sminn (fld w 11 7) (fld w 18 7) (fld w 25 7))
  | 141 => .ok (.smaxn (fld w 11 7) (fld w 18 7) (fld w 25 7))
  | 142 => .ok (.seq (fld w 11 7) (fld w 18 7) (fld w 25 7))
  | 143 => .ok (.sne (fld w 11 7) (fld w 18 7) (fld w 25 7))
  | 144 => .ok (.slt (fld w 11 7) (fld w 18 7) (fld w 25 7))
  | 145 => .ok (.sle (fld w 11 7) (fld w 18 7) (fld w 25 7))
  | 146 => .ok (.sltn (fld w 11 7) (fld w 18 7) (fld w 25 7))
  | 147 => .ok (.slen (fld w 11 7) (fld w 18 7) (fld w 25 7))
  | 148 => if bits w 25 7 = 0 then .ok (.smov (fld w 11 7) (fld w 18 7)) else .reserved (.smov (fld w 11 7) (fld w 18 7))
  | 149 => .ok (.sdivn (fld w 11 7) (fld w 18 7) (fld w 25 7))
  | 150 => .ok (.sremn (fld w 11 7) (fld w 18 7) (fld w 25 7))
  | 151 => if bits w 25 7 = 0 then .ok (.sclz (fld w 11 7) (fld w 18 7)) else .reserved (.sclz (fld w 11 7) (fld w 18 7))
  | 152 => if bits w 25 7 = 0 then .ok (.spopc (fld w 11 7) (fld w 18 7)) else .reserved (.spopc (fld w 11 7) (fld w 18 7))
  | 153 => .ok (.ssel (fld w 11 7) (fld w 18 7) (fld w 25 7))
  | 154 => if bits w 25 7 = 0 then .ok (.rdsr (fld w 11 7) (fld w 18 7)) else .reserved (.rdsr (fld w 11 7) (fld w 18 7))
  | 155 => if bits w 25 7 = 0 then .ok (.wrsr (fld w 11 7) (fld w 18 7)) else .reserved (.wrsr (fld w 11 7) (fld w 18 7))
  | 156 => if bits w 18 14 = 0 then .ok (.time (fld w 11 7)) else .reserved (.time (fld w 11 7))
  | 157 => .ok (.rdlane (fld w 11 7) (fld w 18 7) (fld w 25 7))
  | 158 => .ok (.wrlane (fld w 11 7) (fld w 18 7) (fld w 25 7))
  | 160 => if bits w 14 4 = 0 ∧ bits w 22 3 = 0 ∧ bits w 29 3 = 0 then .ok (.pand (fld w 11 3) (fld w 18 3) (fld w 21 1) (fld w 25 3) (fld w 28 1)) else .reserved (.pand (fld w 11 3) (fld w 18 3) (fld w 21 1) (fld w 25 3) (fld w 28 1))
  | 161 => if bits w 14 4 = 0 ∧ bits w 22 3 = 0 ∧ bits w 29 3 = 0 then .ok (.por (fld w 11 3) (fld w 18 3) (fld w 21 1) (fld w 25 3) (fld w 28 1)) else .reserved (.por (fld w 11 3) (fld w 18 3) (fld w 21 1) (fld w 25 3) (fld w 28 1))
  | 162 => if bits w 14 4 = 0 ∧ bits w 22 3 = 0 ∧ bits w 29 3 = 0 then .ok (.pxor (fld w 11 3) (fld w 18 3) (fld w 21 1) (fld w 25 3) (fld w 28 1)) else .reserved (.pxor (fld w 11 3) (fld w 18 3) (fld w 21 1) (fld w 25 3) (fld w 28 1))
  | 163 => if bits w 14 4 = 0 ∧ bits w 25 7 = 0 then .ok (.pset (fld w 11 3) (fld w 18 7)) else .reserved (.pset (fld w 11 3) (fld w 18 7))
  | 164 => if bits w 22 10 = 0 then .ok (.pget (fld w 11 7) (fld w 18 3) (fld w 21 1)) else .reserved (.pget (fld w 11 7) (fld w 18 3) (fld w 21 1))
  | 165 => if bits w 14 4 = 0 ∧ bits w 26 6 = 0 then .ok (.pmask (fld w 11 3) (fld w 18 7) (fld w 25 1)) else .reserved (.pmask (fld w 11 3) (fld w 18 7) (fld w 25 1))
  | 192 => if bits w 25 7 = 0 then .ok (.mfsr (fld w 11 7) (fld w 18 7)) else .reserved (.mfsr (fld w 11 7) (fld w 18 7))
  | 193 => if bits w 25 7 = 0 then .ok (.mtsr (fld w 11 7) (fld w 18 7)) else .reserved (.mtsr (fld w 11 7) (fld w 18 7))
  | 194 => match bits w 25 7 with
    | 0 => if bits w 11 7 = 0 then .ok (.tlbinvAll (fld w 18 7)) else .reserved (.tlbinvAll (fld w 18 7))
    | 1 => if bits w 11 7 = 0 then .ok (.tlbinvCtx (fld w 18 7)) else .reserved (.tlbinvCtx (fld w 18 7))
    | 2 => if bits w 11 7 = 0 then .ok (.tlbinvPage (fld w 18 7)) else .reserved (.tlbinvPage (fld w 18 7))
    | _ => .illegal
  | 195 => match bits w 25 7 with
    | 0 => .ok (.cchopWb (fld w 11 7) (fld w 18 7))
    | 1 => .ok (.cchopWbinv (fld w 11 7) (fld w 18 7))
    | 2 => .ok (.cchopInv (fld w 11 7) (fld w 18 7))
    | 3 => .ok (.cchopUnkeep (fld w 11 7) (fld w 18 7))
    | _ => .illegal
  | 196 => if bits w 25 7 = 0 then .ok (.survey (fld w 11 7) (fld w 18 7)) else .reserved (.survey (fld w 11 7) (fld w 18 7))
  | 197 => if bits w 11 7 = 0 ∧ bits w 25 7 = 0 then .ok (.halt (fld w 18 7)) else .reserved (.halt (fld w 18 7))
  | 198 => if bits w 25 7 = 0 then .ok (.cxsave (fld w 11 7) (fld w 18 7)) else .reserved (.cxsave (fld w 11 7) (fld w 18 7))
  | 199 => if bits w 25 7 = 0 then .ok (.cxrest (fld w 11 7) (fld w 18 7)) else .reserved (.cxrest (fld w 11 7) (fld w 18 7))
  | 200 => if bits w 11 21 = 0 then .ok (.sret) else .reserved (.sret)
  | 201 => match bits w 25 7 with
    | 0 => .ok (.lnkctlPause (fld w 11 7) (fld w 18 7))
    | 1 => .ok (.lnkctlResume (fld w 11 7) (fld w 18 7))
    | 2 => .ok (.lnkctlSpare (fld w 11 7) (fld w 18 7))
    | 3 => .ok (.lnkctlWidth (fld w 11 7) (fld w 18 7))
    | 4 => .ok (.lnkctlClrretry (fld w 11 7) (fld w 18 7))
    | _ => .illegal
  | 202 => if bits w 25 7 = 0 then .ok (.errrd (fld w 11 7) (fld w 18 7)) else .reserved (.errrd (fld w 11 7) (fld w 18 7))
  | 203 => match bits w 25 7 with
    | 0 => .ok (.retainCreate (fld w 11 7) (fld w 18 7))
    | 1 => .ok (.retainDestroy (fld w 11 7) (fld w 18 7))
    | 2 => .ok (.retainQuery (fld w 11 7) (fld w 18 7))
    | _ => .illegal
  | 204 => match bits w 25 7 with
    | 0 => .ok (.mcctlMetard (fld w 11 7) (fld w 18 7))
    | 1 => .ok (.mcctlMetawr (fld w 11 7) (fld w 18 7))
    | 2 => .ok (.mcctlRetire (fld w 11 7) (fld w 18 7))
    | _ => .illegal
  | 205 => match bits w 25 7 with
    | 0 => if bits w 18 7 = 0 then .ok (.wayctlQuar (fld w 11 7)) else .reserved (.wayctlQuar (fld w 11 7))
    | 1 => if bits w 18 7 = 0 then .ok (.wayctlRelease (fld w 11 7)) else .reserved (.wayctlRelease (fld w 11 7))
    | 2 => if bits w 18 7 = 0 then .ok (.wayctlDiscard (fld w 11 7)) else .reserved (.wayctlDiscard (fld w 11 7))
    | _ => .illegal
  | 208 => if bits w 11 7 = 0 ∧ bits w 25 7 = 0 then .ok (.trap (fld w 18 7)) else .reserved (.trap (fld w 18 7))
  | 209 => if bits w 11 21 = 0 then .ok (.rett) else .reserved (.rett)
  | _ => .illegal

/-- Class I (R153): the opcode is bits 7:3. -/
def decodeI (w : Nat) : Decoded :=
  match bits w 3 5 with
  | 0 => .ok (.addi (fld w 8 7) (fld w 15 7) (fld w 22 10))
  | 1 => .ok (.andi (fld w 8 7) (fld w 15 7) (fld w 22 10))
  | 2 => .ok (.ori (fld w 8 7) (fld w 15 7) (fld w 22 10))
  | 3 => .ok (.xori (fld w 8 7) (fld w 15 7) (fld w 22 10))
  | 4 => .ok (.shli (fld w 8 7) (fld w 15 7) (fld w 22 10))
  | 5 => .ok (.shri (fld w 8 7) (fld w 15 7) (fld w 22 10))
  | 6 => .ok (.sari (fld w 8 7) (fld w 15 7) (fld w 22 10))
  | 7 => .ok (.muli (fld w 8 7) (fld w 15 7) (fld w 22 10))
  | 8 => .ok (.setpi (fld w 8 3) (fld w 11 4) (fld w 15 7) (fld w 22 10))
  | 9 => if bits w 15 7 = 0 then .ok (.movi (fld w 8 7) (fld w 22 10)) else .reserved (.movi (fld w 8 7) (fld w 22 10))
  | 10 => .ok (.tlu (fld w 8 7) (fld w 15 7) (fld w 22 7) (fld w 29 3))
  | 11 => .ok (.lidx (fld w 8 7) (fld w 15 7) (fld w 22 10))
  | 12 => .ok (.saddi (fld w 8 7) (fld w 15 7) (fld w 22 10))
  | 13 => .ok (.sandi (fld w 8 7) (fld w 15 7) (fld w 22 10))
  | 14 => .ok (.sori (fld w 8 7) (fld w 15 7) (fld w 22 10))
  | 15 => .ok (.sxori (fld w 8 7) (fld w 15 7) (fld w 22 10))
  | 16 => .ok (.sshli (fld w 8 7) (fld w 15 7) (fld w 22 10))
  | 17 => .ok (.sshri (fld w 8 7) (fld w 15 7) (fld w 22 10))
  | 18 => .ok (.ssari (fld w 8 7) (fld w 15 7) (fld w 22 10))
  | 19 => .ok (.smuli (fld w 8 7) (fld w 15 7) (fld w 22 10))
  | 20 => .ok (.seqi (fld w 8 7) (fld w 15 7) (fld w 22 10))
  | 21 => .ok (.slti (fld w 8 7) (fld w 15 7) (fld w 22 10))
  | 22 => .ok (.sltni (fld w 8 7) (fld w 15 7) (fld w 22 10))
  | _ => .illegal

/-- Class L (R154): the opcode is bits 7:3; bar and tbar have an op field of their own, whose value 3 is unassigned. -/
noncomputable def decodeL (w : Nat) : Decoded :=
  match bits w 3 5 with
  | 0 => .ok (.bra (fld w 8 24))
  | 1 => .ok (.call (fld w 8 24))
  | 2 => .ok (.brp (fld w 8 3) (fld w 11 1) (fld w 12 20))
  | 3 => .ok (.bsz (fld w 8 6) (fld w 14 18))
  | 4 => .ok (.bsnz (fld w 8 6) (fld w 14 18))
  | 5 => .ok (.li (fld w 8 6) (fld w 14 18))
  | 6 => .ok (.ext (fld w 8 24))
  | 7 => .ok (.wait (fld w 8 5) (fld w 13 5) (fld w 18 5) (fld w 23 5) (fld w 28 4))
  | 8 => if bits w 21 11 = 0 then .ok (.brx (fld w 8 7) (fld w 15 6)) else .reserved (.brx (fld w 8 7) (fld w 15 6))
  | 9 => if bits w 21 11 = 0 then .ok (.callx (fld w 8 7) (fld w 15 6)) else .reserved (.callx (fld w 8 7) (fld w 15 6))
  | 10 => match bits w 12 2 with
    | 0 => if bits w 20 12 = 0 then .ok (.barSync (fld w 8 4) (fld w 14 6)) else .reserved (.barSync (fld w 8 4) (fld w 14 6))
    | 1 => if bits w 20 12 = 0 then .ok (.barArrive (fld w 8 4) (fld w 14 6)) else .reserved (.barArrive (fld w 8 4) (fld w 14 6))
    | 2 => if bits w 14 18 = 0 then .ok (.barWait (fld w 8 4)) else .reserved (.barWait (fld w 8 4))
    | _ => .illegal
  | 11 => match bits w 10 2 with
    | 0 => if bits w 18 14 = 0 then .ok (.tbarSync (fld w 8 2) (fld w 12 6)) else .reserved (.tbarSync (fld w 8 2) (fld w 12 6))
    | 1 => if bits w 18 14 = 0 then .ok (.tbarArrive (fld w 8 2) (fld w 12 6)) else .reserved (.tbarArrive (fld w 8 2) (fld w 12 6))
    | 2 => if bits w 12 20 = 0 then .ok (.tbarWait (fld w 8 2)) else .reserved (.tbarWait (fld w 8 2))
    | _ => .illegal
  | 12 => if bits w 23 9 = 0 then .ok (.setmode (fld w 8 2) (fld w 10 1) (fld w 11 5) (fld w 16 1) (fld w 17 1) (fld w 18 5)) else .reserved (.setmode (fld w 8 2) (fld w 10 1) (fld w 11 5) (fld w 16 1) (fld w 17 1) (fld w 18 5))
  | _ => .illegal

/-- Class M (R155): the opcode is bits 7:3 and SUB is bits 10:8; every SUB not assigned is illegal. -/
noncomputable def decodeM (w : Nat) : Decoded :=
  match bits w 3 5 with
  | 0 => match bits w 8 3 with
    | 7 => .illegal
    | _ => .ok (.ld (fld w 8 3) (fld w 11 7) (fld w 18 7) (fld w 25 7))
  | 1 => match bits w 8 3 with
    | 0 => .illegal
    | 2 => .illegal
    | 7 => .illegal
    | _ => .ok (.st (fld w 8 3) (fld w 11 7) (fld w 18 7) (fld w 25 7))
  | 2 => match bits w 8 3 with
    | 7 => .illegal
    | _ => .ok (.lds (fld w 8 3) (fld w 11 7) (fld w 18 7) (fld w 25 7))
  | 3 => match bits w 8 3 with
    | 0 => .illegal
    | 2 => .illegal
    | 7 => .illegal
    | _ => .ok (.sts (fld w 8 3) (fld w 11 7) (fld w 18 7) (fld w 25 7))
  | 4 => match bits w 8 3 with
    | 7 => .illegal
    | _ => .ok (.ldt (fld w 8 3) (fld w 11 7) (fld w 18 7) (fld w 25 7))
  | 5 => match bits w 8 3 with
    | 0 => .illegal
    | 2 => .illegal
    | 7 => .illegal
    | _ => .ok (.stt (fld w 8 3) (fld w 11 7) (fld w 18 7) (fld w 25 7))
  | 6 => match bits w 8 3 with
    | 6 => .illegal
    | 7 => .illegal
    | _ => .ok (.sld (fld w 8 3) (fld w 11 7) (fld w 18 7) (fld w 25 7))
  | 7 => match bits w 8 3 with
    | 0 => .illegal
    | 2 => .illegal
    | 6 => .illegal
    | 7 => .illegal
    | _ => .ok (.sst (fld w 8 3) (fld w 11 7) (fld w 18 7) (fld w 25 7))
  | 8 => match bits w 8 3 with
    | 0 => .ok (.atomAdd (fld w 11 7) (fld w 18 7) (fld w 25 7))
    | 1 => .ok (.atomMinI32 (fld w 11 7) (fld w 18 7) (fld w 25 7))
    | 2 => .ok (.atomMaxI32 (fld w 11 7) (fld w 18 7) (fld w 25 7))
    | 3 => .ok (.atomMinN32 (fld w 11 7) (fld w 18 7) (fld w 25 7))
    | 4 => .ok (.atomMaxN32 (fld w 11 7) (fld w 18 7) (fld w 25 7))
    | 5 => .ok (.atomAnd (fld w 11 7) (fld w 18 7) (fld w 25 7))
    | 6 => .ok (.atomOr (fld w 11 7) (fld w 18 7) (fld w 25 7))
    | 7 => .ok (.atomXor (fld w 11 7) (fld w 18 7) (fld w 25 7))
    | _ => .illegal
  | 9 => match bits w 8 3 with
    | 0 => .ok (.atom2Exch (fld w 11 7) (fld w 18 7) (fld w 25 7))
    | 1 => .ok (.atom2Cas (fld w 11 7) (fld w 18 7) (fld w 25 7))
    | 2 => .ok (.atom2FaddF32 (fld w 11 7) (fld w 18 7) (fld w 25 7))
    | 3 => .ok (.atom2FminF32 (fld w 11 7) (fld w 18 7) (fld w 25 7))
    | 4 => .ok (.atom2FmaxF32 (fld w 11 7) (fld w 18 7) (fld w 25 7))
    | 5 => .ok (.atom2AddI64 (fld w 11 7) (fld w 18 7) (fld w 25 7))
    | 6 => .ok (.atom2ExchB64 (fld w 11 7) (fld w 18 7) (fld w 25 7))
    | 7 => .ok (.atom2CasB64 (fld w 11 7) (fld w 18 7) (fld w 25 7))
    | _ => .illegal
  | 10 => .ok (.satom (fld w 8 3) (fld w 11 7) (fld w 18 7) (fld w 25 7))
  | 11 => .ok (.atoms (fld w 8 3) (fld w 11 7) (fld w 18 7) (fld w 25 7))
  | 12 => if bits w 15 17 = 0 then .ok (.fence (fld w 8 3) (fld w 11 3) (fld w 14 1)) else .reserved (.fence (fld w 8 3) (fld w 11 3) (fld w 14 1))
  | 13 => match bits w 8 3 with
    | 2 => .illegal
    | 3 => .illegal
    | 4 => .illegal
    | 5 => .illegal
    | 6 => .illegal
    | 7 => .illegal
    | _ => if bits w 11 7 = 0 then .ok (.pref (fld w 8 1) (fld w 18 7) (fld w 25 7)) else .reserved (.pref (fld w 8 1) (fld w 18 7) (fld w 25 7))
  | 14 => match bits w 8 3 with
    | 0 => if bits w 22 10 = 0 then .ok (.qpush (fld w 11 7) (fld w 18 4)) else .reserved (.qpush (fld w 11 7) (fld w 18 4))
    | 1 => if bits w 25 7 = 0 then .ok (.qpushSpan (fld w 11 7) (fld w 18 7)) else .reserved (.qpushSpan (fld w 11 7) (fld w 18 7))
    | 2 => if bits w 22 3 = 0 then .ok (.qpushTry (fld w 11 7) (fld w 18 4) (fld w 25 7)) else .reserved (.qpushTry (fld w 11 7) (fld w 18 4) (fld w 25 7))
    | 3 => .ok (.qpushSpanTry (fld w 11 7) (fld w 18 7) (fld w 25 7))
    | _ => .illegal
  | 15 => match bits w 8 3 with
    | 0 => if bits w 22 10 = 0 then .ok (.qpop (fld w 11 7) (fld w 18 4)) else .reserved (.qpop (fld w 11 7) (fld w 18 4))
    | 1 => if bits w 25 7 = 0 then .ok (.qpopSpan (fld w 11 7) (fld w 18 7)) else .reserved (.qpopSpan (fld w 11 7) (fld w 18 7))
    | 2 => if bits w 22 3 = 0 then .ok (.qpopTry (fld w 11 7) (fld w 18 4) (fld w 25 7)) else .reserved (.qpopTry (fld w 11 7) (fld w 18 4) (fld w 25 7))
    | 3 => .ok (.qpopSpanTry (fld w 11 7) (fld w 18 7) (fld w 25 7))
    | _ => .illegal
  | 16 => match bits w 8 3 with
    | 0 => if bits w 25 7 = 0 then .ok (.semAdd (fld w 11 7) (fld w 18 7)) else .reserved (.semAdd (fld w 11 7) (fld w 18 7))
    | 1 => .ok (.semWait (fld w 11 7) (fld w 18 7) (fld w 25 7))
    | 2 => if bits w 11 7 = 0 then .ok (.semRead (fld w 18 7) (fld w 25 7)) else .reserved (.semRead (fld w 18 7) (fld w 25 7))
    | _ => .illegal
  | 17 => match bits w 8 3 with
    | 0 => if bits w 25 7 = 0 then .ok (.launch (fld w 11 7) (fld w 18 7)) else .reserved (.launch (fld w 11 7) (fld w 18 7))
    | _ => .illegal
  | 18 => match bits w 8 3 with
    | 0 => .ok (.cpyGs (fld w 11 7) (fld w 18 7) (fld w 25 7))
    | 1 => .ok (.cpySg (fld w 11 7) (fld w 18 7) (fld w 25 7))
    | 2 => .ok (.cpyGg (fld w 11 7) (fld w 18 7) (fld w 25 7))
    | 3 => .ok (.cpySp (fld w 11 7) (fld w 18 7) (fld w 25 7))
    | 4 => .ok (.cpyGs2 (fld w 11 7) (fld w 18 7) (fld w 25 7))
    | 5 => .ok (.cpySg2 (fld w 11 7) (fld w 18 7) (fld w 25 7))
    | 6 => .ok (.cpyPin (fld w 11 7) (fld w 18 7) (fld w 25 7))
    | _ => .illegal
  | 19 => match bits w 8 3 with
    | 3 => .illegal
    | 4 => .illegal
    | 5 => .illegal
    | 6 => .illegal
    | 7 => .illegal
    | _ => .ok (.bload (fld w 8 3) (fld w 11 7) (fld w 18 7) (fld w 25 7))
  | 20 => match bits w 8 3 with
    | 0 => .ok (.xformToplanes (fld w 11 7) (fld w 18 7) (fld w 25 7))
    | 1 => .ok (.xformFromplanes (fld w 11 7) (fld w 18 7) (fld w 25 7))
    | 2 => .ok (.xformFill (fld w 11 7) (fld w 18 7) (fld w 25 7))
    | 3 => .ok (.xformZero (fld w 11 7) (fld w 18 7) (fld w 25 7))
    | 4 => .ok (.xformChecksum (fld w 11 7) (fld w 18 7) (fld w 25 7))
    | _ => .illegal
  | 21 => match bits w 8 3 with
    | 4 => .illegal
    | 5 => .illegal
    | 6 => .illegal
    | 7 => .illegal
    | _ => .ok (.tmac (fld w 8 3) (fld w 11 7) (fld w 18 7) (fld w 25 7))
  | 22 => match bits w 8 3 with
    | 7 => .illegal
    | _ => .ok (.tdrain (fld w 8 3) (fld w 11 7) (fld w 18 7) (fld w 25 7))
  | 23 => match bits w 8 3 with
    | 0 => if bits w 11 7 = 0 then .ok (.taccZero (fld w 18 7) (fld w 25 7)) else .reserved (.taccZero (fld w 18 7) (fld w 25 7))
    | 1 => .ok (.taccRead (fld w 11 7) (fld w 18 7) (fld w 25 7))
    | 2 => .ok (.taccWrite (fld w 11 7) (fld w 18 7) (fld w 25 7))
    | 3 => .ok (.taccAdd (fld w 11 7) (fld w 18 7) (fld w 25 7))
    | 4 => .ok (.taccScale (fld w 11 7) (fld w 18 7) (fld w 25 7))
    | _ => .illegal
  | 24 => match bits w 8 3 with
    | 0 => if bits w 11 21 = 0 then .ok (.bankCompute) else .reserved (.bankCompute)
    | 1 => if bits w 11 21 = 0 then .ok (.bankStorage) else .reserved (.bankStorage)
    | 2 => if bits w 11 21 = 0 then .ok (.bankAttach) else .reserved (.bankAttach)
    | 3 => if bits w 11 21 = 0 then .ok (.bankDetach) else .reserved (.bankDetach)
    | 4 => if bits w 25 7 = 0 then .ok (.bankQuery (fld w 11 7) (fld w 18 7)) else .reserved (.bankQuery (fld w 11 7) (fld w 18 7))
    | _ => .illegal
  | 25 => match bits w 8 3 with
    | 4 => .illegal
    | 5 => .illegal
    | 6 => .illegal
    | 7 => .illegal
    | _ => .ok (.dotv (fld w 8 3) (fld w 11 7) (fld w 18 7) (fld w 25 7))
  | 26 => match bits w 8 3 with
    | 0 => .ok (.arrLogic (fld w 11 7) (fld w 18 7) (fld w 25 7))
    | 1 => .ok (.arrAddsub (fld w 11 7) (fld w 18 7) (fld w 25 7))
    | 2 => .ok (.arrMul (fld w 11 7) (fld w 18 7) (fld w 25 7))
    | 3 => .ok (.arrCmp (fld w 11 7) (fld w 18 7) (fld w 25 7))
    | 4 => .ok (.arrSel (fld w 11 7) (fld w 18 7) (fld w 25 7))
    | 5 => .ok (.arrShift (fld w 11 7) (fld w 18 7) (fld w 25 7))
    | 6 => if bits w 25 7 = 0 then .ok (.arrPopc (fld w 11 7) (fld w 18 7)) else .reserved (.arrPopc (fld w 11 7) (fld w 18 7))
    | 7 => if bits w 18 14 = 0 then .ok (.arrBcast (fld w 11 7)) else .reserved (.arrBcast (fld w 11 7))
    | _ => .illegal
  | 27 => match bits w 8 3 with
    | 0 => .ok (.arrxArm (fld w 11 7) (fld w 18 7) (fld w 25 7))
    | 1 => if bits w 25 7 = 0 then .ok (.arrxDisarm (fld w 11 7) (fld w 18 7)) else .reserved (.arrxDisarm (fld w 11 7) (fld w 18 7))
    | 2 => .ok (.arrxLoad (fld w 11 7) (fld w 18 7) (fld w 25 7))
    | 3 => .ok (.arrxStore (fld w 11 7) (fld w 18 7) (fld w 25 7))
    | 4 => if bits w 25 7 = 0 then .ok (.arrxFill (fld w 11 7) (fld w 18 7)) else .reserved (.arrxFill (fld w 11 7) (fld w 18 7))
    | 5 => if bits w 25 7 = 0 then .ok (.arrxQuery (fld w 11 7) (fld w 18 7)) else .reserved (.arrxQuery (fld w 11 7) (fld w 18 7))
    | _ => .illegal
  | 28 => match bits w 8 3 with
    | 0 => .ok (.stkRowcopy (fld w 11 7) (fld w 18 7) (fld w 25 7))
    | 1 => if bits w 25 7 = 0 then .ok (.stkRowzero (fld w 11 7) (fld w 18 7)) else .reserved (.stkRowzero (fld w 11 7) (fld w 18 7))
    | 2 => if bits w 25 7 = 0 then .ok (.stkProbe (fld w 11 7) (fld w 18 7)) else .reserved (.stkProbe (fld w 11 7) (fld w 18 7))
    | _ => .illegal
  | 29 => match bits w 8 3 with
    | 0 => if bits w 25 7 = 0 then .ok (.lnkTurn (fld w 11 7) (fld w 18 7)) else .reserved (.lnkTurn (fld w 11 7) (fld w 18 7))
    | 1 => if bits w 25 7 = 0 then .ok (.lnkStatus (fld w 11 7) (fld w 18 7)) else .reserved (.lnkStatus (fld w 11 7) (fld w 18 7))
    | _ => .illegal
  | _ => .illegal

/-- A 32-bit word: bits 2:1 select the class (R143). -/
noncomputable def decode32 (w : Nat) : Decoded :=
  match bits w 1 2 with
  | 0 => decodeR w
  | 1 => decodeI w
  | 2 => decodeL w
  | _ => decodeM w

/-- Bit 0 of the first halfword gives the length (R138): the halfwords an instruction has. -/
def lengthOf (h : Nat) : Nat := if h % 2 = 0 then 1 else 2

/-- The instruction that starts with halfword h0, whose second halfword (if it has one) is h1 (R138). -/
noncomputable def decode (h0 h1 : Nat) : Decoded :=
  if h0 % 2 = 0 then decode16 (h0 % 65536) else decode32 (h0 % 65536 + 65536 * (h1 % 65536))

/-- Decoding from bytes in memory order, least significant first (R17, R138): what is read and how many bytes it took, or
none where the bytes end inside the instruction. -/
noncomputable def decodeBytes : List Byte → Option (Decoded × Nat)
  | b0 :: b1 :: rest =>
    let h0 := b0.toNat + 256 * b1.toNat
    if h0 % 2 = 0 then some (decode h0 0, 2)
    else match rest with
      | b2 :: b3 :: _ => some (decode h0 (b2.toNat + 256 * b3.toNat), 4)
      | _ => none
  | _ => none

/-- The well-formed instruction a decoded word stands for. -/
def Decoded.instr? : Decoded → Option Instr
  | .ok i => some i
  | .reserved _ => none
  | .illegal => none

/-- The instruction the decoder reads from a word numbered as the opcode table numbers it. -/
noncomputable def decodeTableWord (nbits w : Nat) : Option Instr :=
  if nbits = 0 then none
  else if w % 2 = 0 then (decode16 (w % 65536)).instr?
  else (decode32 (w % 4294967296)).instr?

/-- A field in its place in the word. -/
def put (x : BitVec n) (lo : Nat) : Nat := x.toNat * 2 ^ lo

/-- A word with the three register fields D, A and B of classes R and M (R143). -/
def word3 (base : Nat) (d a b : BitVec 7) : Nat :=
  base + put d 11 + put a 18 + put b 25

set_option maxHeartbeats 2000000 in
/-- The words of an instruction (R141 to R155): its length in bits and its value; none for a device step. -/
def encode : Instr → Option (Nat × Nat)
  | .mov16 d a => some (16, 0x0 + put d 6 + put a 11)
  | .add16 d a => some (16, 0x4 + put d 6 + put a 11)
  | .sub16 d a => some (16, 0x8 + put d 6 + put a 11)
  | .mul16 d a => some (16, 0xc + put d 6 + put a 11)
  | .and16 d a => some (16, 0x10 + put d 6 + put a 11)
  | .or16 d a => some (16, 0x14 + put d 6 + put a 11)
  | .xor16 d a => some (16, 0x18 + put d 6 + put a 11)
  | .shl16 d a => some (16, 0x1c + put d 6 + put a 11)
  | .shr16 d a => some (16, 0x20 + put d 6 + put a 11)
  | .sar16 d a => some (16, 0x24 + put d 6 + put a 11)
  | .fadd16 d a => some (16, 0x28 + put d 6 + put a 11)
  | .fsub16 d a => some (16, 0x2c + put d 6 + put a 11)
  | .fmul16 d a => some (16, 0x30 + put d 6 + put a 11)
  | .fmin16 d a => some (16, 0x34 + put d 6 + put a 11)
  | .fmax16 d a => some (16, 0x38 + put d 6 + put a 11)
  | .fneg16 d a => some (16, 0x3c + put d 6 + put a 11)
  | .nop => some (16, 0x2)
  | .guard p n c => some (16, 0x6 + put p 6 + put n 9 + put c 10)
  | .ord sc o => some (16, 0xa + put sc 6 + put o 9)
  | .yield => some (16, 0xe)
  | .exit => some (16, 0x12)
  | .ret => some (16, 0x16)
  | .brk c => some (16, 0x1a + put c 6)
  | .wait0 m => some (16, 0x1e + put m 6)
  | .add d a b => some (32, word3 0x1 d a b)
  | .addS d a b => some (32, word3 0x9 d a b)
  | .sub d a b => some (32, word3 0x11 d a b)
  | .subS d a b => some (32, word3 0x19 d a b)
  | .mul d a b => some (32, word3 0x21 d a b)
  | .mulS d a b => some (32, word3 0x29 d a b)
  | .mulhiI32 d a b => some (32, word3 0x31 d a b)
  | .mulhiI32S d a b => some (32, word3 0x39 d a b)
  | .mulhiN32 d a b => some (32, word3 0x41 d a b)
  | .mulhiN32S d a b => some (32, word3 0x49 d a b)
  | .and d a b => some (32, word3 0x51 d a b)
  | .andS d a b => some (32, word3 0x59 d a b)
  | .or d a b => some (32, word3 0x61 d a b)
  | .orS d a b => some (32, word3 0x69 d a b)
  | .xor d a b => some (32, word3 0x71 d a b)
  | .xorS d a b => some (32, word3 0x79 d a b)
  | .shl d a b => some (32, word3 0x81 d a b)
  | .shlS d a b => some (32, word3 0x89 d a b)
  | .shr d a b => some (32, word3 0x91 d a b)
  | .shrS d a b => some (32, word3 0x99 d a b)
  | .sar d a b => some (32, word3 0xa1 d a b)
  | .sarS d a b => some (32, word3 0xa9 d a b)
  | .minI32 d a b => some (32, word3 0xb1 d a b)
  | .minI32S d a b => some (32, word3 0xb9 d a b)
  | .maxI32 d a b => some (32, word3 0xc1 d a b)
  | .maxI32S d a b => some (32, word3 0xc9 d a b)
  | .minN32 d a b => some (32, word3 0xd1 d a b)
  | .minN32S d a b => some (32, word3 0xd9 d a b)
  | .maxN32 d a b => some (32, word3 0xe1 d a b)
  | .maxN32S d a b => some (32, word3 0xe9 d a b)
  | .addsatI32 d a b => some (32, word3 0xf1 d a b)
  | .addsatI32S d a b => some (32, word3 0xf9 d a b)
  | .subsatI32 d a b => some (32, word3 0x101 d a b)
  | .subsatI32S d a b => some (32, word3 0x109 d a b)
  | .mad d a b => some (32, word3 0x111 d a b)
  | .madS d a b => some (32, word3 0x119 d a b)
  | .prmt d a b => some (32, word3 0x121 d a b)
  | .prmtS d a b => some (32, word3 0x129 d a b)
  | .bfe d a b => some (32, word3 0x131 d a b)
  | .bfeS d a b => some (32, word3 0x139 d a b)
  | .bfi d a b => some (32, word3 0x141 d a b)
  | .bfiS d a b => some (32, word3 0x149 d a b)
  | .setp p c a b => some (32, 0x151 + put p 11 + put c 14 + put a 18 + put b 25)
  | .setpS p c a b => some (32, 0x159 + put p 11 + put c 14 + put a 18 + put b 25)
  | .selp d a p n => some (32, 0x161 + put d 11 + put a 18 + put p 25 + put n 28)
  | .popc d a => some (32, 0x169 + put d 11 + put a 18)
  | .clz d a => some (32, 0x171 + put d 11 + put a 18)
  | .brev d a => some (32, 0x179 + put d 11 + put a 18)
  | .abs d a => some (32, 0x181 + put d 11 + put a 18)
  | .neg d a => some (32, 0x189 + put d 11 + put a 18)
  | .not d a => some (32, 0x191 + put d 11 + put a 18)
  | .mov d a => some (32, 0x199 + put d 11 + put a 18)
  | .movs d a => some (32, 0x1a1 + put d 11 + put a 18)
  | .sext d a w => some (32, word3 0x1a9 d a w)
  | .movx d a => some (32, 0x1b1 + put d 11 + put a 18)
  | .movxr d a => some (32, 0x1b9 + put d 11 + put a 18)
  | .fadd d a b => some (32, word3 0x201 d a b)
  | .faddS d a b => some (32, word3 0x209 d a b)
  | .fsub d a b => some (32, word3 0x211 d a b)
  | .fsubS d a b => some (32, word3 0x219 d a b)
  | .fmul d a b => some (32, word3 0x221 d a b)
  | .fmulS d a b => some (32, word3 0x229 d a b)
  | .ffma d a b => some (32, word3 0x231 d a b)
  | .ffmaS d a b => some (32, word3 0x239 d a b)
  | .fnma d a b => some (32, word3 0x241 d a b)
  | .fnmaS d a b => some (32, word3 0x249 d a b)
  | .fmin d a b => some (32, word3 0x251 d a b)
  | .fminS d a b => some (32, word3 0x259 d a b)
  | .fmax d a b => some (32, word3 0x261 d a b)
  | .fmaxS d a b => some (32, word3 0x269 d a b)
  | .fsetp p c a b => some (32, 0x271 + put p 11 + put c 14 + put a 18 + put b 25)
  | .fsetpS p c a b => some (32, 0x279 + put p 11 + put c 14 + put a 18 + put b 25)
  | .fdiv d a b => some (32, word3 0x281 d a b)
  | .fdivS d a b => some (32, word3 0x289 d a b)
  | .fabs d a => some (32, 0x291 + put d 11 + put a 18)
  | .fneg d a => some (32, 0x299 + put d 11 + put a 18)
  | .frcp d a => some (32, 0x2a1 + put d 11 + put a 18)
  | .frsq d a => some (32, 0x2a9 + put d 11 + put a 18)
  | .fsqrt d a => some (32, 0x2b1 + put d 11 + put a 18)
  | .fex2 d a => some (32, 0x2b9 + put d 11 + put a 18)
  | .flg2 d a => some (32, 0x2c1 + put d 11 + put a 18)
  | .fsin d a => some (32, 0x2c9 + put d 11 + put a 18)
  | .fcos d a => some (32, 0x2d1 + put d 11 + put a 18)
  | .ftanh d a => some (32, 0x2d9 + put d 11 + put a 18)
  | .frnd d a m => some (32, 0x2e1 + put d 11 + put a 18 + put m 25)
  | .fclass d a => some (32, 0x2e9 + put d 11 + put a 18)
  | .hadd2 d a b => some (32, word3 0x301 d a b)
  | .hadd2S d a b => some (32, word3 0x309 d a b)
  | .hmul2 d a b => some (32, word3 0x311 d a b)
  | .hmul2S d a b => some (32, word3 0x319 d a b)
  | .hfma2 d a b => some (32, word3 0x321 d a b)
  | .hfma2S d a b => some (32, word3 0x329 d a b)
  | .badd2 d a b => some (32, word3 0x331 d a b)
  | .badd2S d a b => some (32, word3 0x339 d a b)
  | .bmul2 d a b => some (32, word3 0x341 d a b)
  | .bmul2S d a b => some (32, word3 0x349 d a b)
  | .bfma2 d a b => some (32, word3 0x351 d a b)
  | .bfma2S d a b => some (32, word3 0x359 d a b)
  | .dot2 d a b => some (32, word3 0x361 d a b)
  | .dot2S d a b => some (32, word3 0x369 d a b)
  | .idot4 d a b => some (32, word3 0x371 d a b)
  | .idot4S d a b => some (32, word3 0x379 d a b)
  | .cvtfi d a sc => some (32, word3 0x381 d a sc)
  | .cvtif d a sc => some (32, word3 0x389 d a sc)
  | .cvtff d a sc => some (32, word3 0x391 d a sc)
  | .cvtpk d a sc => some (32, word3 0x399 d a sc)
  | .cvtup d a sc => some (32, word3 0x3a1 d a sc)
  | .mxscale d a fm => some (32, 0x3a9 + put d 11 + put a 18 + put fm 25)
  | .mxq d a fm => some (32, 0x3b1 + put d 11 + put a 18 + put fm 25)
  | .shflIdx d a b => some (32, word3 0x3c1 d a b)
  | .shflXor d a b => some (32, word3 0x3c9 d a b)
  | .shflUp d a b => some (32, word3 0x3d1 d a b)
  | .shflDn d a b => some (32, word3 0x3d9 d a b)
  | .redsq d a o => some (32, word3 0x3e1 d a o)
  | .scan d a o => some (32, word3 0x3e9 d a o)
  | .voteBallot d a n => some (32, 0x3f1 + put d 11 + put a 18 + put n 21)
  | .voteAll d a n => some (32, 0x20003f1 + put d 11 + put a 18 + put n 21)
  | .voteAny d a n => some (32, 0x40003f1 + put d 11 + put a 18 + put n 21)
  | .voteUni d a n => some (32, 0x60003f1 + put d 11 + put a 18 + put n 21)
  | .voteBallotHi d a n => some (32, 0x80003f1 + put d 11 + put a 18 + put n 21)
  | .matchAny d a => some (32, 0x3f9 + put d 11 + put a 18)
  | .matchFirst d a => some (32, 0x20003f9 + put d 11 + put a 18)
  | .sadd d a b => some (32, word3 0x401 d a b)
  | .ssub d a b => some (32, word3 0x409 d a b)
  | .smul d a b => some (32, word3 0x411 d a b)
  | .smulhi d a b => some (32, word3 0x419 d a b)
  | .sand d a b => some (32, word3 0x421 d a b)
  | .sor d a b => some (32, word3 0x429 d a b)
  | .sxor d a b => some (32, word3 0x431 d a b)
  | .sshl d a b => some (32, word3 0x439 d a b)
  | .sshr d a b => some (32, word3 0x441 d a b)
  | .ssar d a b => some (32, word3 0x449 d a b)
  | .smin d a b => some (32, word3 0x451 d a b)
  | .smax d a b => some (32, word3 0x459 d a b)
  | .sminn d a b => some (32, word3 0x461 d a b)
  | .smaxn d a b => some (32, word3 0x469 d a b)
  | .seq d a b => some (32, word3 0x471 d a b)
  | .sne d a b => some (32, word3 0x479 d a b)
  | .slt d a b => some (32, word3 0x481 d a b)
  | .sle d a b => some (32, word3 0x489 d a b)
  | .sltn d a b => some (32, word3 0x491 d a b)
  | .slen d a b => some (32, word3 0x499 d a b)
  | .smov d a => some (32, 0x4a1 + put d 11 + put a 18)
  | .sdivn d a b => some (32, word3 0x4a9 d a b)
  | .sremn d a b => some (32, word3 0x4b1 d a b)
  | .sclz d a => some (32, 0x4b9 + put d 11 + put a 18)
  | .spopc d a => some (32, 0x4c1 + put d 11 + put a 18)
  | .ssel d a b => some (32, word3 0x4c9 d a b)
  | .rdsr d n => some (32, 0x4d1 + put d 11 + put n 18)
  | .wrsr n a => some (32, 0x4d9 + put n 11 + put a 18)
  | .time d => some (32, 0x4e1 + put d 11)
  | .rdlane d a b => some (32, word3 0x4e9 d a b)
  | .wrlane d a b => some (32, word3 0x4f1 d a b)
  | .pand d a x b y => some (32, 0x501 + put d 11 + put a 18 + put x 21 + put b 25 + put y 28)
  | .por d a x b y => some (32, 0x509 + put d 11 + put a 18 + put x 21 + put b 25 + put y 28)
  | .pxor d a x b y => some (32, 0x511 + put d 11 + put a 18 + put x 21 + put b 25 + put y 28)
  | .pset d a => some (32, 0x519 + put d 11 + put a 18)
  | .pget d a n => some (32, 0x521 + put d 11 + put a 18 + put n 21)
  | .pmask d a h => some (32, 0x529 + put d 11 + put a 18 + put h 25)
  | .mfsr d n => some (32, 0x601 + put d 11 + put n 18)
  | .mtsr n a => some (32, 0x609 + put n 11 + put a 18)
  | .tlbinvAll a => some (32, 0x611 + put a 18)
  | .tlbinvCtx a => some (32, 0x2000611 + put a 18)
  | .tlbinvPage a => some (32, 0x4000611 + put a 18)
  | .cchopWb d a => some (32, 0x619 + put d 11 + put a 18)
  | .cchopWbinv d a => some (32, 0x2000619 + put d 11 + put a 18)
  | .cchopInv d a => some (32, 0x4000619 + put d 11 + put a 18)
  | .cchopUnkeep d a => some (32, 0x6000619 + put d 11 + put a 18)
  | .survey d a => some (32, 0x621 + put d 11 + put a 18)
  | .halt a => some (32, 0x629 + put a 18)
  | .cxsave d a => some (32, 0x631 + put d 11 + put a 18)
  | .cxrest d a => some (32, 0x639 + put d 11 + put a 18)
  | .sret => some (32, 0x641)
  | .lnkctlPause d a => some (32, 0x649 + put d 11 + put a 18)
  | .lnkctlResume d a => some (32, 0x2000649 + put d 11 + put a 18)
  | .lnkctlSpare d a => some (32, 0x4000649 + put d 11 + put a 18)
  | .lnkctlWidth d a => some (32, 0x6000649 + put d 11 + put a 18)
  | .lnkctlClrretry d a => some (32, 0x8000649 + put d 11 + put a 18)
  | .errrd d a => some (32, 0x651 + put d 11 + put a 18)
  | .retainCreate d a => some (32, 0x659 + put d 11 + put a 18)
  | .retainDestroy d a => some (32, 0x2000659 + put d 11 + put a 18)
  | .retainQuery d a => some (32, 0x4000659 + put d 11 + put a 18)
  | .mcctlMetard d a => some (32, 0x661 + put d 11 + put a 18)
  | .mcctlMetawr d a => some (32, 0x2000661 + put d 11 + put a 18)
  | .mcctlRetire d a => some (32, 0x4000661 + put d 11 + put a 18)
  | .wayctlQuar d => some (32, 0x669 + put d 11)
  | .wayctlRelease d => some (32, 0x2000669 + put d 11)
  | .wayctlDiscard d => some (32, 0x4000669 + put d 11)
  | .trap a => some (32, 0x681 + put a 18)
  | .rett => some (32, 0x689)
  | .addi d a imm => some (32, 0x3 + put d 8 + put a 15 + put imm 22)
  | .andi d a imm => some (32, 0xb + put d 8 + put a 15 + put imm 22)
  | .ori d a imm => some (32, 0x13 + put d 8 + put a 15 + put imm 22)
  | .xori d a imm => some (32, 0x1b + put d 8 + put a 15 + put imm 22)
  | .shli d a imm => some (32, 0x23 + put d 8 + put a 15 + put imm 22)
  | .shri d a imm => some (32, 0x2b + put d 8 + put a 15 + put imm 22)
  | .sari d a imm => some (32, 0x33 + put d 8 + put a 15 + put imm 22)
  | .muli d a imm => some (32, 0x3b + put d 8 + put a 15 + put imm 22)
  | .setpi p c a imm => some (32, 0x43 + put p 8 + put c 11 + put a 15 + put imm 22)
  | .movi d imm => some (32, 0x4b + put d 8 + put imm 22)
  | .tlu d a t n => some (32, 0x53 + put d 8 + put a 15 + put t 22 + put n 29)
  | .lidx d a imm => some (32, 0x5b + put d 8 + put a 15 + put imm 22)
  | .saddi d a imm => some (32, 0x63 + put d 8 + put a 15 + put imm 22)
  | .sandi d a imm => some (32, 0x6b + put d 8 + put a 15 + put imm 22)
  | .sori d a imm => some (32, 0x73 + put d 8 + put a 15 + put imm 22)
  | .sxori d a imm => some (32, 0x7b + put d 8 + put a 15 + put imm 22)
  | .sshli d a imm => some (32, 0x83 + put d 8 + put a 15 + put imm 22)
  | .sshri d a imm => some (32, 0x8b + put d 8 + put a 15 + put imm 22)
  | .ssari d a imm => some (32, 0x93 + put d 8 + put a 15 + put imm 22)
  | .smuli d a imm => some (32, 0x9b + put d 8 + put a 15 + put imm 22)
  | .seqi d a imm => some (32, 0xa3 + put d 8 + put a 15 + put imm 22)
  | .slti d a imm => some (32, 0xab + put d 8 + put a 15 + put imm 22)
  | .sltni d a imm => some (32, 0xb3 + put d 8 + put a 15 + put imm 22)
  | .bra x => some (32, 0x5 + put x 8)
  | .call x => some (32, 0xd + put x 8)
  | .brp p n x => some (32, 0x15 + put p 8 + put n 11 + put x 12)
  | .bsz r x => some (32, 0x1d + put r 8 + put x 14)
  | .bsnz r x => some (32, 0x25 + put r 8 + put x 14)
  | .li r imm => some (32, 0x2d + put r 8 + put imm 14)
  | .ext x => some (32, 0x35 + put x 8)
  | .wait l sc c t a => some (32, 0x3d + put l 8 + put sc 13 + put c 18 + put t 23 + put a 28)
  | .brx x t => some (32, 0x45 + put x 8 + put t 15)
  | .callx x t => some (32, 0x4d + put x 8 + put t 15)
  | .barSync b n => some (32, 0x55 + put b 8 + put n 14)
  | .barArrive b n => some (32, 0x1055 + put b 8 + put n 14)
  | .barWait b => some (32, 0x2055 + put b 8)
  | .tbarSync b n => some (32, 0x5d + put b 8 + put n 12)
  | .tbarArrive b n => some (32, 0x45d + put b 8 + put n 12)
  | .tbarWait b => some (32, 0x85d + put b 8)
  | .setmode r z t w fm en => some (32, 0x65 + put r 8 + put z 10 + put t 11 + put w 16 + put fm 17 + put en 18)
  | .ld w d a b => some (32, 0x7 + put w 8 + put d 11 + put a 18 + put b 25)
  | .st w d a b => some (32, 0xf + put w 8 + put d 11 + put a 18 + put b 25)
  | .lds w d a b => some (32, 0x17 + put w 8 + put d 11 + put a 18 + put b 25)
  | .sts w d a b => some (32, 0x1f + put w 8 + put d 11 + put a 18 + put b 25)
  | .ldt w d a b => some (32, 0x27 + put w 8 + put d 11 + put a 18 + put b 25)
  | .stt w d a b => some (32, 0x2f + put w 8 + put d 11 + put a 18 + put b 25)
  | .sld w d a b => some (32, 0x37 + put w 8 + put d 11 + put a 18 + put b 25)
  | .sst w d a b => some (32, 0x3f + put w 8 + put d 11 + put a 18 + put b 25)
  | .atomAdd d a b => some (32, word3 0x47 d a b)
  | .atomMinI32 d a b => some (32, word3 0x147 d a b)
  | .atomMaxI32 d a b => some (32, word3 0x247 d a b)
  | .atomMinN32 d a b => some (32, word3 0x347 d a b)
  | .atomMaxN32 d a b => some (32, word3 0x447 d a b)
  | .atomAnd d a b => some (32, word3 0x547 d a b)
  | .atomOr d a b => some (32, word3 0x647 d a b)
  | .atomXor d a b => some (32, word3 0x747 d a b)
  | .atom2Exch d a b => some (32, word3 0x4f d a b)
  | .atom2Cas d a b => some (32, word3 0x14f d a b)
  | .atom2FaddF32 d a b => some (32, word3 0x24f d a b)
  | .atom2FminF32 d a b => some (32, word3 0x34f d a b)
  | .atom2FmaxF32 d a b => some (32, word3 0x44f d a b)
  | .atom2AddI64 d a b => some (32, word3 0x54f d a b)
  | .atom2ExchB64 d a b => some (32, word3 0x64f d a b)
  | .atom2CasB64 d a b => some (32, word3 0x74f d a b)
  | .satom fm d a b => some (32, 0x57 + put fm 8 + put d 11 + put a 18 + put b 25)
  | .atoms fm d a b => some (32, 0x5f + put fm 8 + put d 11 + put a 18 + put b 25)
  | .fence sc o y => some (32, 0x67 + put sc 8 + put o 11 + put y 14)
  | .pref l a b => some (32, 0x6f + put l 8 + put a 18 + put b 25)
  | .qpush d q => some (32, 0x77 + put d 11 + put q 18)
  | .qpushSpan d a => some (32, 0x177 + put d 11 + put a 18)
  | .qpushTry d q b => some (32, 0x277 + put d 11 + put q 18 + put b 25)
  | .qpushSpanTry d a b => some (32, word3 0x377 d a b)
  | .qpop d q => some (32, 0x7f + put d 11 + put q 18)
  | .qpopSpan d a => some (32, 0x17f + put d 11 + put a 18)
  | .qpopTry d q b => some (32, 0x27f + put d 11 + put q 18 + put b 25)
  | .qpopSpanTry d a b => some (32, word3 0x37f d a b)
  | .semAdd d a => some (32, 0x87 + put d 11 + put a 18)
  | .semWait d a b => some (32, word3 0x187 d a b)
  | .semRead a b => some (32, 0x287 + put a 18 + put b 25)
  | .launch d a => some (32, 0x8f + put d 11 + put a 18)
  | .cpyGs d a b => some (32, word3 0x97 d a b)
  | .cpySg d a b => some (32, word3 0x197 d a b)
  | .cpyGg d a b => some (32, word3 0x297 d a b)
  | .cpySp d a b => some (32, word3 0x397 d a b)
  | .cpyGs2 d a b => some (32, word3 0x497 d a b)
  | .cpySg2 d a b => some (32, word3 0x597 d a b)
  | .cpyPin d a b => some (32, word3 0x697 d a b)
  | .bload fm d a b => some (32, 0x9f + put fm 8 + put d 11 + put a 18 + put b 25)
  | .xformToplanes d a b => some (32, word3 0xa7 d a b)
  | .xformFromplanes d a b => some (32, word3 0x1a7 d a b)
  | .xformFill d a b => some (32, word3 0x2a7 d a b)
  | .xformZero d a b => some (32, word3 0x3a7 d a b)
  | .xformChecksum d a b => some (32, word3 0x4a7 d a b)
  | .tmac p d a b => some (32, 0xaf + put p 8 + put d 11 + put a 18 + put b 25)
  | .tdrain fm d a b => some (32, 0xb7 + put fm 8 + put d 11 + put a 18 + put b 25)
  | .taccZero a b => some (32, 0xbf + put a 18 + put b 25)
  | .taccRead d a b => some (32, word3 0x1bf d a b)
  | .taccWrite d a b => some (32, word3 0x2bf d a b)
  | .taccAdd d a b => some (32, word3 0x3bf d a b)
  | .taccScale d a b => some (32, word3 0x4bf d a b)
  | .bankCompute => some (32, 0xc7)
  | .bankStorage => some (32, 0x1c7)
  | .bankAttach => some (32, 0x2c7)
  | .bankDetach => some (32, 0x3c7)
  | .bankQuery d a => some (32, 0x4c7 + put d 11 + put a 18)
  | .dotv fm d a b => some (32, 0xcf + put fm 8 + put d 11 + put a 18 + put b 25)
  | .arrLogic d a b => some (32, word3 0xd7 d a b)
  | .arrAddsub d a b => some (32, word3 0x1d7 d a b)
  | .arrMul d a b => some (32, word3 0x2d7 d a b)
  | .arrCmp d a b => some (32, word3 0x3d7 d a b)
  | .arrSel d a b => some (32, word3 0x4d7 d a b)
  | .arrShift d a b => some (32, word3 0x5d7 d a b)
  | .arrPopc d a => some (32, 0x6d7 + put d 11 + put a 18)
  | .arrBcast d => some (32, 0x7d7 + put d 11)
  | .arrxArm d a b => some (32, word3 0xdf d a b)
  | .arrxDisarm d a => some (32, 0x1df + put d 11 + put a 18)
  | .arrxLoad d a b => some (32, word3 0x2df d a b)
  | .arrxStore d a b => some (32, word3 0x3df d a b)
  | .arrxFill d a => some (32, 0x4df + put d 11 + put a 18)
  | .arrxQuery d a => some (32, 0x5df + put d 11 + put a 18)
  | .stkRowcopy d a b => some (32, word3 0xe7 d a b)
  | .stkRowzero d a => some (32, 0x1e7 + put d 11 + put a 18)
  | .stkProbe d a => some (32, 0x2e7 + put d 11 + put a 18)
  | .lnkTurn d a => some (32, 0xef + put d 11 + put a 18)
  | .lnkStatus d a => some (32, 0x1ef + put d 11 + put a 18)
  | .systemEventDelivery => none
  | .quantumExpiry _ => none
  | .blockedInstructionComplete _ _ => none
  | .loadComplete _ _ => none
  | .storeComplete _ _ => none
  | .atomicComplete _ _ => none
  | .engineOperationComplete _ _ => none
  | .lastPush _ _ => none
  | .squadRetire _ => none
  | .notPresentReplay _ _ => none
  | .workQueueEntryTake _ => none
  | .dependencePoll => none
  | .crewPlacement _ _ _ => none
  | .timedBudgetExceeded _ => none
  | .preemptDraining _ => none
  | .preemptSaving _ => none
  | .preemptSaved _ => none
  | .preemptRestoring _ _ => none
  | .preemptResumed _ => none
  | .partitionStart _ => none
  | .partitionStartComplete _ => none
  | .partitionResize _ => none
  | .resizeRelease _ => none
  | .resizeDone _ => none
  | .partitionStop _ => none
  | .endContext _ _ => none
  | .endContextComplete _ => none
  | .partctlInvalidCmd _ => none
  | .reservationWrite _ _ => none
  | .linkTurnStart _ => none
  | .turnDeadTimeEnd _ => none
  | .flitReplay _ _ _ => none
  | .retryWindowExpiry => none
  | .spanPortDown _ => none
  | .spanPortTrained _ => none
  | .peerAccessTimeout _ => none
  | .peerRequest _ => none
  | .hostHdmWrite _ _ _ => none
  | .hostHdmRead _ _ => none
  | .doorbell => none
  | .qcfgWrite _ _ => none
  | .qwriteWrite _ _ => none
  | .bar0Write _ _ _ => none
  | .sysstatWrite _ => none
  | .errpopWrite _ => none
  | .mcwinEnable _ => none
  | .mcwinDisable _ => none
  | .mcwinExpansionDone _ => none
  | .surveyctlWrite _ => none
  | .surveyCompareLatch => none
  | .surveyWriteOutDone => none
  | .lnklanesWrite _ => none
  | .keepbaseWrite _ => none
  | .systemRegisterWrite _ _ => none
  | .planeScrub _ => none
  | .llcScrub _ _ => none
  | .hbmScrub _ _ => none
  | .bankRetentionEntry _ => none
  | .bankRetentionExit _ => none
  | .wayGroupRetentionEntry _ _ => none
  | .wayGroupRetentionExit _ _ => none
  | .overcurrentWarning => none
  | .overcurrentClear => none
  | .thermalTrip => none
  | .powerOnReset => none
  | .cxlConventionalReset => none
  | .meridianLock => none
  | .firmwareVerify _ _ => none
  | .functionReady _ => none
  | .illegalInstructionFault => none

/-- The bytes of a word of n bytes, lowest address first (R17). -/
def wordBytes : Nat → Nat → List Byte
  | 0, _ => []
  | n + 1, w => BitVec.ofNat 8 w :: wordBytes n (w / 256)

/-- The bytes of an instruction as they stand in memory. -/
def encodeBytes (i : Instr) : Option (List Byte) :=
  (encode i).map fun e => wordBytes (e.1 / 8) e.2

end Sys2Proof
end

