-- ==== Sys2Proof/Machine/Fetch.lean ====
section
/-! DEFINITION. Fetching: the running group is chosen (R39, R40), its prefix sequence is read as one (R138, R145, R149), and the
checks of R150 that concern the sequence are made in their order. -/

namespace Sys2Proof.Machine

/-- What the fetch of a sequence finds. -/
inductive Fetched where
  | idle                                       -- no thread is ready
  | wait (s : State)                           -- a link is closed, or the code's peer out of reach (R334, R400)
  | fault (f : FaultInfo) (s : State)          -- the sequence faults
  | illegal (s : State)                        -- step 1 of R150
  | reserved (ps : List Instr) (i : Instr) (s : State)   -- step 4 of R150: reserved bits
  | run (ps : List Instr) (i : Instr) (s : State)

/-- Is an instruction a prefix, and which place has it (R145)? -/
def prefixRank : Instr → Option Nat
  | .guard _ _ _ => some 0
  | .ord _ _ => some 1
  | .ext _ => some 2
  | _ => none

/-- Do prefixes stand in the order guard, ord, ext, each at most once (R145)? -/
def prefixesOrdered : List Instr → Bool
  | [] => true
  | [_] => true
  | a :: b :: rest => (prefixRank a).getD 3 < (prefixRank b).getD 3 && prefixesOrdered (b :: rest)

/-- What a fetch of code finds. -/
inductive Code (α : Type) where
  | got (x : α)
  | fault (f : FaultInfo)
  | wait                      -- a link is paused or down (R334, R390), or no port reaches the code's peer now (R400)

/-- The byte at a key that a grid's launch found there, where a store has replaced it since (R140): the launch is the acceptance, or
the satisfaction of the last dependence, which the stores before it happen-before (R133). -/
def launchByte (s : State) (grid key : Nat) : Option Byte :=
  (s.grid? grid).bind fun g =>
    (s.olds.find? fun e => g.launched < e.1 && e.2.1 ≤ key && key < e.2.1 + e.2.2.length).map fun e => e.2.2.getD (key - e.2.1) 0

/-- The halfword that the squad's fetch gets of one that its home holds now as x: of one that a store has replaced since the grid's
launch, the old or the new, and which is free (R140; log 35). -/
def oldOrNew (s : State) (key x : Nat) : State × Nat :=
  let g := s.sq.ident.grid
  match launchByte s g key, launchByte s g (key + 1) with
  | none, none => (s, x)
  | b0, b1 =>
    (s.ticket, if Config.fetchOld s.tickets then (b0.getD (BitVec.ofNat 8 x)).toNat + 256 * (b1.getD (BitVec.ofNat 8 (x / 256))).toNat else x)

/-- One halfword at a code address (R363, R368): at privilege it is physical. An odd address is misaligned (log 14). -/
def fetchHalf (s : State) (pc : DWord) : State × Code Nat :=
  let q := s.sq
  let bad (c d : Nat) : FaultInfo := { cause := c, detail := d, lanes := q.cur.active, addr := pc.toNat, aux := 4 }
  if pc.toNat % 2 = 1 then (s, .fault (bad 0x43 0))
  else match resolve s q.ident.priv q.ident.core q.ident.ctx pc.toNat needX with
    | (t, .inr f) => (t, if f.cause = 0 then .wait else .fault { bad f.cause (if f.cause = 0x44 then f.detail + 4 else f.detail) with joined := f.joined })
    | (t, .inl k) =>
      let key := canon t k
      match openWay t q.ident.core key (peerOfKey k) with
      | .wait => (t, .wait)
      | .lost => (t, .fault (bad 0x4A 1))
      | .clear =>
        if toControl t key then (t, .got (leNat (barRead t (key - Config.controlBase) 2)))
        else
          let r := homeRead t q.ident.ctx key 2
          if r.2.2 then (r.1, .fault (bad 0x4A 1))
          else
            let h := oldOrNew r.1 key (leNat r.2.1)
            (h.1, .got h.2)

/-- One element of a sequence: what it decodes to, and the address after it. -/
def fetchOne (s : State) (pc : DWord) : State × Code (Nat × Nat × DWord) :=
  match fetchHalf s pc with
  | (s, .fault f) => (s, .fault f)
  | (s, .wait) => (s, .wait)
  | (s, .got h0) =>
    if lengthOf h0 = 1 then (s, .got (h0, 0, pc + 2))
    else match fetchHalf s (pc + 2) with
      | (s, .fault f) => (s, .fault f)
      | (s, .wait) => (s, .wait)
      | (s, .got h1) => (s, .got (h0, h1, pc + 4))

/-- Set the addresses of the sequence. -/
def setCursor (s : State) (addr next : DWord) : State :=
  s.onSq fun q => { q with cur := { q.cur with addr := addr, next := next } }

/-- Prefixes of a sequence that are read before they are misplaced in any case: more than an address space of 63 bits holds, so only a
run of prefixes through the whole of an address space ends there (log 78). -/
abbrev longestSequence : Nat := 4611686018427387904

/-- Read a sequence: its prefixes and the instruction behind them, whose own checks come first (R150). -/
noncomputable def fetchSeq : Nat → State → DWord → List Instr → Bool → Fetched
  | fuel, s, pc, ps, resv =>
    match fetchOne s pc with
    | (s, .fault f) => .fault f (setCursor s pc pc)
    | (s, .wait) => .wait s
    | (s, .got (h0, h1, next)) =>
      let t := setCursor s pc next
      let d := decode h0 h1
      match d with
      | .illegal => .illegal t
      | .reserved i =>
        match prefixRank i, fuel with
        | some _, 0 => .fault { cause := 0x41, detail := 1, lanes := s.sq.cur.active } t
        | some _, fuel + 1 => fetchSeq fuel t next (ps ++ [i]) true
        | none, _ =>
          if (traitsOf i).priv && !s.sq.ident.priv then .fault { cause := 0x42, lanes := s.sq.cur.active } t
          else if prefixesOrdered ps then .reserved ps i t
          else .fault { cause := 0x41, detail := 1, lanes := s.sq.cur.active } t
      | .ok i =>
        match prefixRank i, fuel with
        | some _, 0 => .fault { cause := 0x41, detail := 1, lanes := s.sq.cur.active } t
        | some _, fuel + 1 => fetchSeq fuel t next (ps ++ [i]) resv
        | none, _ =>
          if (traitsOf i).priv && !s.sq.ident.priv then .fault { cause := 0x42, lanes := s.sq.cur.active } t
          else if !prefixesOrdered ps then .fault { cause := 0x41, detail := 1, lanes := s.sq.cur.active } t
          else if resv then .reserved ps i t
          else .run ps i t

/-- Fetch the next sequence of the squad whose step runs. -/
noncomputable def fetch (s : State) : Fetched :=
  match s.sq.thr.select with
  | none => .idle
  | some (g, pc, thr) =>
    let t := s.onSq fun q => { q with thr := thr, cur := ⟨pc, pc, pc, g, g, none, none, none⟩ }
    fetchSeq longestSequence t pc [] false

/-- Record a guard of the sequence (R146). -/
def setGuard (p : BitVec 3) (neg : Bool) (n : Nat) (s : State) : State :=
  s.onSq fun q => { q with cur := { q.cur with guard := some (p, neg, n) } }

/-- Record an ord of the sequence (R113). -/
def setOrd (order scope : Nat) (s : State) : State :=
  s.onSq fun q => { q with cur := { q.cur with ord := some (order, scope) } }

/-- Record an ext of the sequence (R148). -/
def setExt (x : BitVec 24) (s : State) : State :=
  s.onSq fun q => { q with cur := { q.cur with ext := some x } }

end Sys2Proof.Machine
end

