-- ==== Sys2Proof/Machine/Control.lean ====
section
/-! DEFINITION. Control instructions (R168 to R189): branches and calls, ending and yielding, waits on the counters, MODE and
special registers, traps raised by programs, and the prefixes. -/

namespace Sys2Proof.Machine

/-! ### Branches -/

/-- The addresses that a squad may use end here (R82, R171, R315). A system squad's branch to a target with bits 54:52 not 0 is taken
for an access beyond them, and faults at the branch (DESIGN CHOICE, log 101). -/
def addressTop (s : State) : Nat := if s.sq.ident.priv then paSpace else 36028797018963968

/-- target = address + 2 × offset (R170). -/
def branchTarget (s : State) {n : Nat} (off : BitVec n) : DWord := s.sq.cur.addr + 2 * off.signExtend 64

/-- Threads of a mask go to a target; the others of the group fall through (R170). A taken target out of range is 0x45 at the
branch (R171). -/
def branchTo (s : State) (taken : Mask) (target : DWord) : Eff :=
  if taken != 0 && addressTop s ≤ target.toNat then
    .fault { cause := 0x45, detail := 4, lanes := taken, addr := target.toNat }
  else .done (s.setPc taken fun _ => target)

/-- v126 of each thread of the group receives the return address (R170). -/
def link (s : State) : State := s.setV 126 s.sq.cur.active fun _ => (s.sq.cur.next).truncate 32

def execBra (x : BitVec 24) (s : State) : Res := issue .control .none s fun t => branchTo t t.sq.cur.active (branchTarget t x)

def execCall (x : BitVec 24) (s : State) : Res := issue .control usesCall s fun t =>
  branchTo (link t) t.sq.cur.active (branchTarget t x)

def execBrp (p : BitVec 3) (n : BitVec 1) (x : BitVec 20) (s : State) : Res := issue .control .none s fun t =>
  let m := t.sq.regs.pred p.toNat
  branchTo t (t.sq.cur.active &&& (if n == 1 then ~~~m else m)) (branchTarget t x)

def execBsz (r : BitVec 6) (x : BitVec 18) (s : State) : Res := issue .control (usesBsz r) s fun t =>
  branchTo t (if t.x r.toNat == 0 then t.sq.cur.active else 0) (branchTarget t x)

def execBsnz (r : BitVec 6) (x : BitVec 18) (s : State) : Res := issue .control (usesBsnz r) s fun t =>
  branchTo t (if t.x r.toNat != 0 then t.sq.cur.active else 0) (branchTarget t x)

/-- The code base that branch tables count from (R172; log 15). -/
def codeBase (s : State) : DWord := match s.myGrid with
  | some g => BitVec.ofNat 64 g.r.code
  | none => Config.mcCodeBase

/-- Do two addresses lie in one 64 KiB page? -/
def samePage (a b : Nat) : Bool := a / 65536 == b / 65536

/-- A lane's not-present page joins those that an instruction met before (R369). -/
def addAbsent (as : List Absent) (f : FaultInfo) : List Absent :=
  if as.any fun a => samePage a.addr f.addr then
    as.map fun a => if samePage a.addr f.addr then { a with lanes := a.lanes ||| f.lanes } else a
  else as ++ [⟨f.detail, f.lanes, f.addr, f.joined⟩]

/-- A lane's fault joins one of the same cause: the lanes join; not-present pages stay apart, page by page (R369). -/
def joinFault (b f : FaultInfo) : FaultInfo :=
  if f.cause = 0x44 && !samePage b.addr f.addr then { b with more := addAbsent b.more f } else { b with lanes := b.lanes ||| f.lanes }

/-- The fault with the lowest cause number; its lanes are those that fault so, its address that of the lowest (R82). -/
def lowestFault (fs : List FaultInfo) : Option FaultInfo :=
  fs.foldl (fun best f => match best with
    | none => some f
    | some b =>
      if f.cause < b.cause then some f
      else if f.cause = b.cause then some (joinFault b f)
      else some b) none

/-- What one thread's word of a branch table gives (R172). -/
inductive TableWord where
  | target (d : DWord)
  | fault (f : FaultInfo)
  | wait

/-- One thread's word of a branch table (R172): its target, which lies in the address space and is even (R138, R171), or its
fault. -/
def tableTarget (s : State) (t n : Nat) (i : Nat) (l : Nat) : State × TableWord :=
  let lanes := maskOf [l]
  if n ≤ i then (s, .fault { cause := 0x47, lanes := lanes, addr := t, aux := 1 })
  else
    let a := t + 4 + 4 * i
    match readWeak s a 4 lanes with
    | (s, .fault f) => (s, .fault f)
    | (s, .wait) => (s, .wait)
    | (s, .bytes bs poison) =>
      if poison then (s, .fault { cause := 0x4A, detail := 4, lanes := lanes, addr := a, aux := 1 })
      else
        let target := codeBase s + 2 * (BitVec.ofNat 32 (leNat bs)).signExtend 64
        if target.getLsbD 0 then (s, .fault { cause := 0x43, lanes := lanes, addr := target.toNat })
        else if addressTop s ≤ target.toNat then (s, .fault { cause := 0x45, detail := 4, lanes := lanes, addr := target.toNat })
        else (s, .target target)

/-- What the words of a branch table give: the targets by lane, the faults, and whether some read must wait. -/
structure TableRead where
  targets : List (Nat × DWord)
  faults  : List FaultInfo
  waits   : Bool

/-- Every thread's word of a branch table of n words at a. -/
def tableTargets (s : State) (x a n : Nat) (g : Mask) : State × TableRead :=
  (laneList g).foldl (fun (st : State × TableRead) l =>
    match tableTarget st.1 a n (s.v x l).toNat l with
    | (u, .target d) => (u, { st.2 with targets := (l, d) :: st.2.targets })
    | (u, .fault f) => (u, { st.2 with faults := st.2.faults ++ [f] })
    | (u, .wait) => (u, { st.2 with waits := true })) (s, ⟨[], [], false⟩)

/-- A branch through a table (R172): every check before any thread moves. -/
def branchTable (s : State) (x t : Nat) (call : Bool) : Eff :=
  let g := s.sq.cur.active
  let a := (s.x t).toNat
  if addressTop s ≤ a then .fault { cause := 0x45, detail := 4, lanes := g, addr := a, aux := 1 }
  else if a % 4 != 0 then .fault { cause := 0x43, lanes := g, addr := a, aux := 1 }
  else match readWeak s a 4 g with
    | (s1, .fault f) => .faultIn f s1
    | (_, .wait) => .stall
    | (s1, .bytes bs poison) =>
      if poison then .faultIn { cause := 0x4A, detail := 4, lanes := g, addr := a, aux := 1 } s1
      else
        let r := tableTargets s1 x a (leNat bs) g
        if r.2.waits then .stall
        else match lowestFault r.2.faults with
        | some f => .faultIn f r.1
        | none =>
          let u := r.1.setPc g fun l => assocGet r.2.targets l 0
          .done (if call then link u else u)

def execBrx (x : BitVec 7) (t : BitVec 6) (s : State) : Res := issue .observe (usesBrx x t) s fun u =>
  branchTable u x.toNat t.toNat false

def execCallx (x : BitVec 7) (t : BitVec 6) (s : State) : Res := issue .observe (usesCallx x t) s fun u =>
  branchTable u x.toNat t.toNat true

/-- Each thread's own return address (R173). -/
def returnTarget (s : State) (l : Nat) : DWord :=
  BitVec.ofNat 64 (s.sq.cur.addr.toNat / 4294967296 * 4294967296 + (s.v 126 l).toNat)

def execRet (s : State) : Res := issue .control usesRet s fun t =>
  let g := t.sq.cur.active
  let odd := maskOf ((laneList g).filter fun l => (returnTarget t l).getLsbD 0)
  if odd != 0 then .fault { cause := 0x43, lanes := odd, addr := (((laneList odd).map fun l => (returnTarget t l).toNat).headD 0) }
  else .done (t.setPc g (returnTarget t))

/-! ### Ending, yielding and doing nothing (R174) -/

def execNop (s : State) : Res := issue .control .none s .done

def execYield (s : State) : Res := issue .control .none s fun t =>
  .switch (t.onSq fun q => { q with thr := q.thr.setAside q.cur.active })

/-- The running group retires (R45); a squad without threads left waits for its operations (R46), and keeps the marks of its
last threads for the fault that an operation may still raise at their `exit`. -/
def retireGroup (s : State) : State :=
  s.onSq fun q =>
    let g := q.cur.active
    let t := q.thr
    let live := t.live &&& ~~~g
    let gone := if live == 0 then 0 else g
    { q with
      thr := { t with live := live, aside := t.aside &&& ~~~g, handlerMark := t.handlerMark &&& ~~~gone,
                      sysMark := t.sysMark &&& ~~~gone }
      status := if live == 0 then .exiting else q.status
      exitPc := if live == 0 then q.cur.first else q.exitPc }

def execExit (s : State) : Res := issue .control .none s fun t => .switch (retireGroup t)

/-! ### Prefixes (R175): each is recorded with its sequence and acts with the instruction -/

def execGuard (p : BitVec 3) (n : BitVec 1) (c : BitVec 2) (s : State) : Res := .next (setGuard p (n == 1) (c.toNat + 1) s)

def execOrd (sc : BitVec 3) (o : BitVec 3) (s : State) : Res := .next (setOrd o.toNat sc.toNat s)

def execExt (x : BitVec 24) (s : State) : Res := .next (setExt x s)

/-! ### Waiting on the counters (R176 to R178) -/

/-- The thresholds of a wait: 31 for a class that is not waited on. -/
def waitsOn (thr : List Nat) (c : OpClass) : Option Nat :=
  let n := thr.getD c.index 31
  if n = 31 then none else some n

/-- The first waited class with an error (R178). -/
def firstError (q : Squad) (waited : OpClass → Bool) : Option (OpClass × OpError) :=
  (OpClass.all.filter waited).findSome? fun c => q.errs.find? fun e => e.1 == c

/-- The fault that a recorded error raises at the instruction that consumes it (R178, R372). -/
def OpError.raise (e : OpError) : FaultInfo :=
  { cause := e.cause, detail := e.detail, lanes := e.lanes, addr := e.addr, aux := e.aux % 16 + 16, token := e.token }

/-- Examine the errors of the waited classes in order (R178). -/
def checkErrors (s : State) (waited : OpClass → Bool) : Eff :=
  match firstError s.sq waited with
  | some (c, e) => .consume c e.raise
  | none => .done s

/-- `wait` and `wait0` (R176 to R178, R226). A wait on ST that finds a pinned sector stops at it first and leaves the classes'
errors (DESIGN CHOICE, log 89). -/
def waitBody (thr : List Nat) (s : State) : Eff :=
  let waited (c : OpClass) : Bool := (waitsOn thr c).isSome
  if OpClass.all.any fun c => match waitsOn thr c with
    | some n => n < s.sq.count c
    | none => false
  then .block (.wait thr) s
  else if waited .st then withDeferred s fun t => checkErrors t waited
  else checkErrors s waited

def execWait (l : BitVec 5) (sc : BitVec 5) (c : BitVec 5) (t : BitVec 5) (a : BitVec 4) (s : State) : Res :=
  issue .control .none s (waitBody [l.toNat, sc.toNat, c.toNat, t.toNat, if a.toNat = 15 then 31 else a.toNat])

def execWait0 (m : BitVec 5) (s : State) : Res :=
  issue .control .none s (waitBody ((List.range 5).map fun k => if m.getLsbD k then 0 else 31))

/-! ### MODE, special registers and time (R179 to R181) -/

/-- The bits of MODE that exist (R57). -/
abbrev modeBits : DWord := 0x1F07

/-- The bits of FLAGS that exist (R58). -/
abbrev flagBits : DWord := 0x1F

def execSetmode (r : BitVec 2) (z : BitVec 1) (t : BitVec 5) (w : BitVec 1) (fm : BitVec 1) (en : BitVec 5) (s : State) : Res :=
  issue .control (usesSetmode r z t w fm en) s fun u =>
    .done (u.onSq fun q =>
      let m := q.mode
      let m := if w == 1 then (m &&& ~~~(3 : DWord)) ||| r.zeroExtend 64 else m
      let m := if fm == 1 then (m &&& ~~~(4 : DWord)) ||| (z.zeroExtend 64 <<< 2) else m
      let e : DWord := en.zeroExtend 64 <<< 8
      { q with mode := (m &&& ~~~e) ||| ((t.zeroExtend 64 <<< 8) &&& e) })

/-- CNTS (R62). -/
def countsWord (q : Squad) : DWord :=
  BitVec.ofNat 64 (q.count .ld + q.count .st * 32 + q.count .cp * 1024 + q.count .tl * 32768 + q.count .ar * 1048576
    + (OpClass.all.foldl (fun m c => if q.errs.any fun e => e.1 == c then setBit m (24 + c.index) true else m) 0))

/-- The special registers (R56, R180). -/
def specialReg (s : State) (n : Nat) : DWord :=
  let q := s.sq
  let crew (f : Crew → Nat) : DWord := BitVec.ofNat 64 ((s.myCrew.map f).getD 0)
  let rec_ (f : Record → Nat) (d : Nat) : DWord := BitVec.ofNat 64 ((s.myGrid.map fun g => f g.r).getD d)
  match n with
  | 0x00 => BitVec.ofNat 64 ((laneList q.cur.active).headD 0)
  | 0x01 => BitVec.ofNat 64 q.ident.squad
  | 0x02 => BitVec.ofNat 64 q.ident.role
  | 0x03 => BitVec.ofNat 64 q.ident.rsquad
  | 0x04 => crew (·.cx)
  | 0x05 => crew (·.cy)
  | 0x06 => crew (·.cz)
  | 0x07 => rec_ (·.gx) 1
  | 0x08 => rec_ (·.gy) 1
  | 0x09 => rec_ (·.gz) 1
  | 0x0A => crew (·.rank)
  | 0x0B => 32
  | 0x0C => BitVec.ofNat 64 s.nbv
  | 0x0D => q.mode
  | 0x0E => q.flags
  | 0x0F => assocGet s.cycle q.ident.core 0
  | 0x10 => countsWord q
  | 0x11 => q.cur.active.zeroExtend 64
  | 0x12 => q.trap.pc
  | 0x13 => q.trap.next
  | 0x14 => q.trap.lanes
  | 0x15 => q.trap.cause
  | 0x16 => q.trap.info
  | 0x17 => q.trap.mask
  | 0x18 => rec_ (·.args) 0
  | 0x19 => rec_ (·.stats) 0
  | 0x1A => rec_ (·.va) 0
  | _ => 0

def execRdsr (d : BitVec 7) (n : BitVec 7) (s : State) : Res := issue .control (usesRdsr d n) s fun t =>
  .done (t.setX d.toNat (specialReg t n.toNat))

def execWrsr (n : BitVec 7) (a : BitVec 7) (s : State) : Res := issue .control (usesWrsr n a) s fun t =>
  .done (t.onSq fun q =>
    if n.toNat = 0x0D then { q with mode := t.x a.toNat &&& modeBits } else { q with flags := t.x a.toNat &&& flagBits })

def execTime (d : BitVec 7) (s : State) : Res := issue .control (usesTime d) s fun t => .done (t.setX d.toNat t.now)

/-! ### Traps raised by programs (R187, R188) -/

def execTrap (a : BitVec 7) (s : State) : Res := issue .control (usesTrap a) s fun t =>
  deliverTrap t 0x01 t.sq.cur.active (t.x a.toNat)

def execBrk (c : BitVec 10) (s : State) : Res := issue .control .none s fun t =>
  deliverTrap t 0x02 t.sq.cur.active (c.zeroExtend 64)

def execRett (s : State) : Res := issue .control .none s returnTrap

end Sys2Proof.Machine
end

