-- ==== Sys2Proof/Machine/Scalar.lean ====
section
/-! DEFINITION. Scalar operations (R183 to R185) and moves between the scalar and vector files (R182). -/

namespace Sys2Proof.Machine

/-- 1 or 0. -/
def flag64 (b : Bool) : DWord := if b then 1 else 0

/-- Leading zeros of a value of n bits (R183, R193). -/
def leadingZeros (n x : Nat) : Nat := if x = 0 then n else n - 1 - Nat.log2 x

/-- Number of 1 bits among the n lowest. -/
def popCount (n x : Nat) : Nat := (List.range n).countP fun k => x.testBit k

/-- A shift left; 0 from the width on (R183, R193). -/
def shiftLeft {n : Nat} (a : BitVec n) (k : Nat) : BitVec n := if k < n then a <<< k else 0

/-- A logical shift right; 0 from the width on. -/
def shiftRight {n : Nat} (a : BitVec n) (k : Nat) : BitVec n := if k < n then a >>> k else 0

/-- An arithmetic shift right; the sign from the width on. -/
def shiftArith {n : Nat} (a : BitVec n) (k : Nat) : BitVec n := a.sshiftRight (Nat.min k (n - 1))

/-- Bits 127:64 of the signed product (R183). -/
def mulHigh64 (a b : DWord) : DWord := BitVec.ofInt 64 (a.toInt * b.toInt / 18446744073709551616)

/-- Write a scalar result (R183). -/
def scalar3 (t : State) (d a b : BitVec 7) (f : DWord → DWord → DWord) : Eff :=
  .done (t.setX d.toNat (f (t.x a.toNat) (t.x b.toNat)))

/-- The same with a sign-extended immediate (R184). -/
def scalarI (t : State) (d a : BitVec 7) (imm : BitVec 10) (f : DWord → DWord → DWord) : Eff :=
  .done (t.setX d.toNat (f (t.x a.toNat) (imm.signExtend 64)))

def execSadd (d : BitVec 7) (a : BitVec 7) (b : BitVec 7) (s : State) : Res := issue .control (usesSadd d a b) s fun t =>
  scalar3 t d a b fun x y => x + y

def execSsub (d : BitVec 7) (a : BitVec 7) (b : BitVec 7) (s : State) : Res := issue .control (usesSsub d a b) s fun t =>
  scalar3 t d a b fun x y => x - y

def execSmul (d : BitVec 7) (a : BitVec 7) (b : BitVec 7) (s : State) : Res := issue .control (usesSmul d a b) s fun t =>
  scalar3 t d a b fun x y => x * y

def execSmulhi (d : BitVec 7) (a : BitVec 7) (b : BitVec 7) (s : State) : Res := issue .control (usesSmulhi d a b) s fun t =>
  scalar3 t d a b fun x y => mulHigh64 x y

def execSand (d : BitVec 7) (a : BitVec 7) (b : BitVec 7) (s : State) : Res := issue .control (usesSand d a b) s fun t =>
  scalar3 t d a b fun x y => x &&& y

def execSor (d : BitVec 7) (a : BitVec 7) (b : BitVec 7) (s : State) : Res := issue .control (usesSor d a b) s fun t =>
  scalar3 t d a b fun x y => x ||| y

def execSxor (d : BitVec 7) (a : BitVec 7) (b : BitVec 7) (s : State) : Res := issue .control (usesSxor d a b) s fun t =>
  scalar3 t d a b fun x y => x ^^^ y

def execSshl (d : BitVec 7) (a : BitVec 7) (b : BitVec 7) (s : State) : Res := issue .control (usesSshl d a b) s fun t =>
  scalar3 t d a b fun x y => shiftLeft x y.toNat

def execSshr (d : BitVec 7) (a : BitVec 7) (b : BitVec 7) (s : State) : Res := issue .control (usesSshr d a b) s fun t =>
  scalar3 t d a b fun x y => shiftRight x y.toNat

def execSsar (d : BitVec 7) (a : BitVec 7) (b : BitVec 7) (s : State) : Res := issue .control (usesSsar d a b) s fun t =>
  scalar3 t d a b fun x y => shiftArith x y.toNat

def execSmin (d : BitVec 7) (a : BitVec 7) (b : BitVec 7) (s : State) : Res := issue .control (usesSmin d a b) s fun t =>
  scalar3 t d a b fun x y => if x.slt y then x else y

def execSmax (d : BitVec 7) (a : BitVec 7) (b : BitVec 7) (s : State) : Res := issue .control (usesSmax d a b) s fun t =>
  scalar3 t d a b fun x y => if x.slt y then y else x

def execSminn (d : BitVec 7) (a : BitVec 7) (b : BitVec 7) (s : State) : Res := issue .control (usesSminn d a b) s fun t =>
  scalar3 t d a b fun x y => if x.ult y then x else y

def execSmaxn (d : BitVec 7) (a : BitVec 7) (b : BitVec 7) (s : State) : Res := issue .control (usesSmaxn d a b) s fun t =>
  scalar3 t d a b fun x y => if x.ult y then y else x

def execSeq (d : BitVec 7) (a : BitVec 7) (b : BitVec 7) (s : State) : Res := issue .control (usesSeq d a b) s fun t =>
  scalar3 t d a b fun x y => flag64 (x == y)

def execSne (d : BitVec 7) (a : BitVec 7) (b : BitVec 7) (s : State) : Res := issue .control (usesSne d a b) s fun t =>
  scalar3 t d a b fun x y => flag64 (x != y)

def execSlt (d : BitVec 7) (a : BitVec 7) (b : BitVec 7) (s : State) : Res := issue .control (usesSlt d a b) s fun t =>
  scalar3 t d a b fun x y => flag64 (x.slt y)

def execSle (d : BitVec 7) (a : BitVec 7) (b : BitVec 7) (s : State) : Res := issue .control (usesSle d a b) s fun t =>
  scalar3 t d a b fun x y => flag64 (x.sle y)

def execSltn (d : BitVec 7) (a : BitVec 7) (b : BitVec 7) (s : State) : Res := issue .control (usesSltn d a b) s fun t =>
  scalar3 t d a b fun x y => flag64 (x.ult y)

def execSlen (d : BitVec 7) (a : BitVec 7) (b : BitVec 7) (s : State) : Res := issue .control (usesSlen d a b) s fun t =>
  scalar3 t d a b fun x y => flag64 (x.ule y)

def execSdivn (d : BitVec 7) (a : BitVec 7) (b : BitVec 7) (s : State) : Res := issue .control (usesSdivn d a b) s fun t =>
  scalar3 t d a b fun x y => if y == 0 then BitVec.allOnes 64 else x / y

def execSremn (d : BitVec 7) (a : BitVec 7) (b : BitVec 7) (s : State) : Res := issue .control (usesSremn d a b) s fun t =>
  scalar3 t d a b fun x y => if y == 0 then x else x % y

def execSsel (d : BitVec 7) (a : BitVec 7) (b : BitVec 7) (s : State) : Res := issue .control (usesSsel d a b) s fun t =>
  .done (t.setX d.toNat (if t.x d.toNat != 0 then t.x a.toNat else t.x b.toNat))

def execSmov (d : BitVec 7) (a : BitVec 7) (s : State) : Res := issue .control (usesSmov d a) s fun t =>
  .done (t.setX d.toNat (t.x a.toNat))

def execSclz (d : BitVec 7) (a : BitVec 7) (s : State) : Res := issue .control (usesSclz d a) s fun t =>
  .done (t.setX d.toNat (BitVec.ofNat 64 (leadingZeros 64 (t.x a.toNat).toNat)))

def execSpopc (d : BitVec 7) (a : BitVec 7) (s : State) : Res := issue .control (usesSpopc d a) s fun t =>
  .done (t.setX d.toNat (BitVec.ofNat 64 (popCount 64 (t.x a.toNat).toNat)))

def execSaddi (d : BitVec 7) (a : BitVec 7) (imm : BitVec 10) (s : State) : Res := issue .control (usesSaddi d a) s fun t =>
  scalarI t d a imm fun x y => x + y

def execSandi (d : BitVec 7) (a : BitVec 7) (imm : BitVec 10) (s : State) : Res := issue .control (usesSandi d a) s fun t =>
  scalarI t d a imm fun x y => x &&& y

def execSori (d : BitVec 7) (a : BitVec 7) (imm : BitVec 10) (s : State) : Res := issue .control (usesSori d a) s fun t =>
  scalarI t d a imm fun x y => x ||| y

def execSxori (d : BitVec 7) (a : BitVec 7) (imm : BitVec 10) (s : State) : Res := issue .control (usesSxori d a) s fun t =>
  scalarI t d a imm fun x y => x ^^^ y

def execSmuli (d : BitVec 7) (a : BitVec 7) (imm : BitVec 10) (s : State) : Res := issue .control (usesSmuli d a) s fun t =>
  scalarI t d a imm fun x y => x * y

def execSeqi (d : BitVec 7) (a : BitVec 7) (imm : BitVec 10) (s : State) : Res := issue .control (usesSeqi d a) s fun t =>
  scalarI t d a imm fun x y => flag64 (x == y)

def execSlti (d : BitVec 7) (a : BitVec 7) (imm : BitVec 10) (s : State) : Res := issue .control (usesSlti d a) s fun t =>
  scalarI t d a imm fun x y => flag64 (x.slt y)

def execSltni (d : BitVec 7) (a : BitVec 7) (imm : BitVec 10) (s : State) : Res := issue .control (usesSltni d a) s fun t =>
  scalarI t d a imm fun x y => flag64 (x.ult y)

def execSshli (d : BitVec 7) (a : BitVec 7) (imm : BitVec 10) (s : State) : Res := issue .control (usesSshli d a imm) s fun t =>
  .done (t.setX d.toNat (shiftLeft (t.x a.toNat) imm.toNat))

def execSshri (d : BitVec 7) (a : BitVec 7) (imm : BitVec 10) (s : State) : Res := issue .control (usesSshri d a imm) s fun t =>
  .done (t.setX d.toNat (shiftRight (t.x a.toNat) imm.toNat))

def execSsari (d : BitVec 7) (a : BitVec 7) (imm : BitVec 10) (s : State) : Res := issue .control (usesSsari d a imm) s fun t =>
  .done (t.setX d.toNat (shiftArith (t.x a.toNat) imm.toNat))

def execLi (r : BitVec 6) (imm : BitVec 18) (s : State) : Res := issue .control (usesLi r) s fun t =>
  .done (t.setX r.toNat (imm.signExtend 64))

/-! ### Moves between the files (R182) -/

def execMovs (d : BitVec 7) (a : BitVec 7) (s : State) : Res := issue .lane (usesMovs d a) s fun t =>
  .done (t.putV d.toNat fun _ => (t.x a.toNat).truncate 32)

def execRdlane (d : BitVec 7) (a : BitVec 7) (b : BitVec 7) (s : State) : Res := issue .control (usesRdlane d a b) s fun t =>
  let k := (t.x b.toNat).toNat
  if 32 ≤ k then .fault { cause := 0x41, lanes := t.sq.cur.active }
  else match markFault (poisonedV t.sq [a.toNat] (maskOf [k])) with
    | some f => .fault f
    | none => .done (t.setX d.toNat ((t.v a.toNat k).zeroExtend 64))

def execWrlane (d : BitVec 7) (a : BitVec 7) (b : BitVec 7) (s : State) : Res := issue .control (usesWrlane d a b) s fun t =>
  let k := (t.x b.toNat).toNat
  if 32 ≤ k then .fault { cause := 0x41, lanes := t.sq.cur.active }
  else .done (t.setV d.toNat (maskOf [k]) fun _ => (t.x a.toNat).truncate 32)

end Sys2Proof.Machine
end

