-- ==== Sys2Proof/Machine/Predicate.lean ====
section
/-! DEFINITION. Predicate operations (R186). -/

namespace Sys2Proof.Machine

/-- A predicate source with its negation (R144, R186). -/
def predSource (t : State) (p : BitVec 3) (neg : BitVec 1) : Mask :=
  let m := t.sq.regs.pred p.toNat
  if neg == 1 then ~~~m else m

/-- Write a predicate in the active lanes (R186). -/
def putP (t : State) (d : BitVec 3) (x : Mask) : Eff := .done (t.setP d.toNat t.sq.cur.active x)

/-- The lanes in which a register is not 0. -/
def nonZeroLanes (t : State) (r : Nat) : Mask := maskOf ((List.range 32).filter fun l => t.v r l != 0)

def execPand (d : BitVec 3) (a : BitVec 3) (x : BitVec 1) (b : BitVec 3) (y : BitVec 1) (s : State) : Res := issue .control .none s fun t =>
  putP t d (predSource t a x &&& predSource t b y)

def execPor (d : BitVec 3) (a : BitVec 3) (x : BitVec 1) (b : BitVec 3) (y : BitVec 1) (s : State) : Res := issue .control .none s fun t =>
  putP t d (predSource t a x ||| predSource t b y)

def execPxor (d : BitVec 3) (a : BitVec 3) (x : BitVec 1) (b : BitVec 3) (y : BitVec 1) (s : State) : Res := issue .control .none s fun t =>
  putP t d (predSource t a x ^^^ predSource t b y)

def execPset (d : BitVec 3) (a : BitVec 7) (s : State) : Res := issue .control (usesPset a) s fun t =>
  putP t d (nonZeroLanes t a.toNat)

def execPget (d : BitVec 7) (a : BitVec 3) (n : BitVec 1) (s : State) : Res := issue .control (usesPget d) s fun t =>
  let m := predSource t a n
  .done (t.setV d.toNat t.sq.cur.active fun l => if m.getLsbD l then 1 else 0)

def execPmask (d : BitVec 3) (a : BitVec 7) (h : BitVec 1) (s : State) : Res := issue .control (usesPmask a) s fun t =>
  if h == 1 then .done t else putP t d ((t.x a.toNat).truncate 32)

end Sys2Proof.Machine
end

