-- ==== Sys2Proof/Machine/Special.lean ====
section
/-! DEFINITION. The special functions fex2, flg2, fsin, fcos and ftanh (R66, R203): an enclosure of the exact result in fixed
point, computed over integers and widened until both its ends round to the same FP32 value. The exact result is never a tie, so
some width settles it; after 13 doublings the model stops, with the free value Config.special (log 17). -/

namespace Sys2Proof.Machine

/-- Σ over k of x^(2k+1) / (2k+1) × s^k for x = p / q in fixed point with n fraction bits: the atanh (s = 1) and atan
(s = −1) series; each round divides the power by (q / p)². -/
def oddSeries (alternate : Bool) (p2 q2 : Nat) : Nat → Nat → Nat → Bool → Int → Int
  | 0, _, _, _, acc => acc
  | fuel + 1, pow, d, minus, acc =>
    let t : Int := (pow / d : Nat)
    oddSeries alternate p2 q2 fuel (pow * p2 / q2) (d + 2) (alternate && !minus) (if minus then acc - t else acc + t)

/-- ln 2 with n fraction bits: 2 atanh(1/3). -/
def ln2Fixed (n : Nat) : Nat := (2 * oddSeries false 1 9 (n / 3 + 2) (2 ^ n / 3) 1 false 0).toNat

/-- π with n fraction bits, by Machin's formula 16 atan(1/5) − 4 atan(1/239). -/
def piFixed (n : Nat) : Nat :=
  (16 * oddSeries true 1 25 (n / 4 + 2) (2 ^ n / 5) 1 false 0 - 4 * oddSeries true 1 57121 (n / 15 + 2) (2 ^ n / 239) 1 false 0).toNat

/-- Σ x^k / k! from a term on, in fixed point with n fraction bits, every second power (step 2) or every power (step 1);
alternate gives the signs of sine and cosine. -/
def expSeries (alternate : Bool) (step n x : Nat) : Nat → Nat → Nat → Bool → Int → Int
  | 0, _, _, _, acc => acc
  | fuel + 1, term, k, minus, acc =>
    let next := if step = 1 then term * x / 2 ^ n / (k + 1) else term * x / 2 ^ n * x / 2 ^ n / ((k + 1) * (k + 2))
    expSeries alternate step n x fuel next (k + step) (alternate && !minus) (if minus then acc - (term : Int) else acc + term)

/-- e^x with n fraction bits, for 0 ≤ x < 1. -/
def expFixed (n x : Nat) : Nat := (expSeries false 1 n x (n / 3 + 8) (2 ^ n) 0 false 0).toNat

/-- sin x with n fraction bits, for 0 ≤ x < 1. -/
def sinFixed (n x : Nat) : Nat := (expSeries true 2 n x (n / 6 + 8) x 1 false 0).toNat

/-- cos x with n fraction bits, for 0 ≤ x < 1. -/
def cosFixed (n x : Nat) : Nat := (expSeries true 2 n x (n / 6 + 8) (2 ^ n) 0 false 0).toNat

/-- ln y with n fraction bits, for y = p / q between 1/2 and 2: 2 atanh((y − 1) / (y + 1)). -/
def lnFixed (n p q : Nat) : Int :=
  let up := p ≥ q
  let a := if up then p - q else q - p
  let b := p + q
  let r := 2 * oddSeries false (a * a) (b * b) (n / 3 + 4) (2 ^ n * a / b) 1 false 0
  if up then r else -r

/-- Guard bits of an enclosure: more than the truncations of any of its series add up to. -/
abbrev guardBits : Nat := 32

/-- Both ends of an enclosure (v ± 2^g) × 2^(i − n) round to the same FP32 value: the result, if so. -/
def settleEnds (ftz neg : Bool) (i : Int) (n g v : Nat) : Option FRes :=
  let lo := fp32.finite 0 ftz false neg (v - 2 ^ g) (i - n) true
  let hi := fp32.finite 0 ftz false neg (v + 2 ^ g) (i - n) true
  if v ≤ 2 ^ g then none else if lo == hi then some lo else none

/-- Widen until an enclosure settles: f gives sign and value for a number of fraction bits, with the guard bits among them; the
value is scaled by 2^i. -/
def widen (ftz : Bool) (i : Int) (f : Nat → Bool × Nat) : List Nat → Option FRes
  | [] => none
  | n :: ns =>
    let (neg, v) := f n
    match settleEnds ftz neg i n guardBits v with
    | some r => some r
    | none => widen ftz i f ns

/-- Numbers of fraction bits to try, above a first part that keeps the value precise. -/
def widths (first : Nat) : List Nat := (List.range 13).map fun k => first + 96 * 2 ^ k

/-- The settled result, or the free value of function k. -/
def orFree (k x : Nat) (r : Option FRes) : FRes :=
  r.getD { bits := (Config.special k (BitVec.ofNat 32 x)).toNat, fx := 16 }

/-- ⌊m × 2^(e + n)⌋: a value in fixed point. -/
def toFixed (n m : Nat) (e : Int) : Nat :=
  let s := e + n
  if 0 ≤ s then m * 2 ^ s.toNat else m / 2 ^ (-s).toNat

/-- Fraction bits that keep a small argument m × 2^e precise. -/
def widthsFor (m : Nat) (e : Int) : List Nat :=
  widths (-(e + (Nat.log2 m : Int))).toNat

/-- 2^a (R203). -/
def specialEx2 (ftz : Bool) (x : Nat) : FRes :=
  match fp32.operand ftz x with
  | .nan s => fp32.nanRes s
  | .inf n => { bits := if n then 0 else fp32.inf }
  | .fin neg m e =>
    if m = 0 then { bits := 0x3F800000 }
    else
      let k := e + (Nat.log2 m : Int)
      if 8 ≤ k then fp32.finite 0 ftz false false 1 (if neg then -4096 else 4096) true
      else
        -- a = i + f with 0 ≤ f < 1; f is a multiple of 2^e
        let den := (-e).toNat
        let a : Int := (if 0 ≤ e then (m * 2 ^ e.toNat : Nat) else (m : Nat))
        let a := if neg then -a else a
        let q : Int := (2 ^ den : Nat)
        let i := a / q
        let f := (a % q).toNat
        if f = 0 then fp32.finite 0 ftz false false 1 i false
        else orFree 0 x (widen ftz i (fun n => (false, expFixed n (f * ln2Fixed n / 2 ^ den))) (widths 0))

/-- log2 a (R203). -/
def specialLg2 (ftz : Bool) (x : Nat) : FRes :=
  match fp32.operand ftz x with
  | .nan s => fp32.nanRes s
  | .inf n => if n then fp32.nanRes true else { bits := fp32.inf }
  | .fin neg m e =>
    if m = 0 then { bits := fp32.signed true fp32.inf, fx := 2 }
    else if neg then fp32.nanRes true
    else
      let l := Nat.log2 m
      let k := e + (l : Int)
      if m = 2 ^ l then fp32.finite 0 ftz false (decide (k < 0)) k.natAbs 0 false
      else
        -- y = m / 2^l in (1, 2), or halved when above 3/2 so that small results stay precise
        let big := 3 * 2 ^ l < 2 * m
        let k := if big then k + 1 else k
        let q := if big then 2 ^ (l + 1) else 2 ^ l
        orFree 1 x (widen ftz 0 (fun n =>
          let w : Int := k * (2 ^ n : Nat) + lnFixed n m q * (2 ^ n : Nat) / (ln2Fixed n : Int)
          (decide (w < 0), w.natAbs)) (widths 32))

/-- |a| reduced by multiples of π/4: the octant number modulo 8, and the remainder with n fraction bits. -/
def reduceAngle (n m : Nat) (e : Int) : Nat × Nat :=
  let big := if 0 ≤ e then e.toNat + 32 else 32
  let p := piFixed (n + big)
  let a := toFixed (n + big + 2) m e      -- in units of 2^-(n + big + 2), so that p counts quarters of π
  (a / p % 8, a % p / 2 ^ (big + 2))

/-- sin and cos of a reduced angle, with n fraction bits: by octant. -/
def octantSin (n o r : Nat) : Bool × Nat :=
  let quarter := piFixed n / 4
  let c := quarter - r
  match o with
  | 0 => (false, sinFixed n r)
  | 1 => (false, cosFixed n c)
  | 2 => (false, cosFixed n r)
  | 3 => (false, sinFixed n c)
  | 4 => (true, sinFixed n r)
  | 5 => (true, cosFixed n c)
  | 6 => (true, cosFixed n r)
  | _ => (true, sinFixed n c)

/-- sin a, or cos a when quarter turns are 2 octants on (R203). -/
def specialSinCos (ftz isCos : Bool) (x : Nat) : FRes :=
  match fp32.operand ftz x with
  | .nan s => fp32.nanRes s
  | .inf _ => fp32.nanRes true
  | .fin neg m e =>
    if m = 0 then { bits := if isCos then 0x3F800000 else fp32.signed neg 0 }
    else orFree (if isCos then 3 else 2) x (widen ftz 0 (fun n =>
      let (o, r) := reduceAngle n m e
      let (s, v) := octantSin n ((if isCos then o + 2 else o) % 8) r
      (s != (neg && !isCos), v)) (widthsFor m e))

/-- tanh a (R203). -/
def specialTanh (ftz : Bool) (x : Nat) : FRes :=
  match fp32.operand ftz x with
  | .nan s => fp32.nanRes s
  | .inf n => { bits := fp32.signed n 0x3F800000 }
  | .fin neg m e =>
    if m = 0 then { bits := fp32.signed neg 0 }
    else if 4 ≤ e + (Nat.log2 m : Int) then { bits := fp32.signed neg 0x3F800000, fx := 16 }
    else orFree 4 x (widen ftz 0 (fun n =>
      -- tanh a = (E − 1) / (E + 1) with E = e^(2a); e^(2a) is e^(2a / 32) squared five times
      let y := toFixed n (2 * m) e / 32
      let sq (v : Nat) : Nat := v * v / 2 ^ n
      let E := sq (sq (sq (sq (sq (expFixed n y)))))
      (neg, (E - 2 ^ n) * 2 ^ n / (E + 2 ^ n))) ((widthsFor m e).map (· + 64)))

end Sys2Proof.Machine
end

