-- ==== Sys2Proof/Machine/Flags.lean ====
section
/-! DEFINITION. What floating-point lane instructions do beside their results (R57 to R60, R77, R78, R192, R281, R282): the
sticky flags, the statistics of a tensor tag, and the trap of an enabled exception. -/

namespace Sys2Proof.Machine

/-- A counter that stops at its largest value (R78). -/
def stat64 (x : Nat) : Nat := satTo 0xFFFFFFFFFFFFFFFF x

/-- Add to the statistics of a tag of the grid that runs (R77, R78). -/
def addStats (s : State) (tag sat flush nan : Nat) : State :=
  match s.myGrid with
  | none => s
  | some g =>
    if sat = 0 && flush = 0 && nan = 0 then s
    else
      let c := (g.stats.find? fun c => c.tag == tag).getD ⟨tag, 0, 0, 0⟩
      s.setGrid { g with stats := ⟨tag, stat64 (c.sat + sat), stat64 (c.flush + flush), stat64 (c.nan + nan)⟩
                                    :: g.stats.filter fun c => c.tag != tag }

/-- The tensor tag of a conversion (R208): bits 5:0 of its ext, 0 without one. -/
def tagOf (s : State) : Nat := (s.sq.cur.ext.getD 0).toNat % 64

/-- The rounding mode of MODE (R57). -/
def roundMode (s : State) : Nat := s.sq.mode.toNat % 4

/-- The FTZ bit of MODE (R57). -/
def ftzOn (s : State) : Bool := s.sq.mode.getLsbD 2

/-- What a floating-point instruction gives in one lane: the words of its destination registers, the exceptions, and how many
elements count as saturated, flushed and NaN. -/
structure LaneRes where
  words : List Word
  fx    : Fx
  sat   : Nat := 0
  flush : Nat := 0
  nan   : Nat := 0
  deriving DecidableEq, Repr

/-- One FP result as a lane's. -/
def FRes.lane (r : FRes) : LaneRes := { words := [BitVec.ofNat 32 r.bits], fx := r.fx }

/-- Elements of one lane, w bits each, packed into one register (R205, R212). -/
def packed (w : Nat) (rs : List FRes) : LaneRes :=
  { words := [BitVec.ofNat 32 (rs.foldr (fun r x => r.bits + 2 ^ w * x) 0)]
    fx := rs.foldl (fun x r => x ||| r.fx) 0
    sat := (rs.filter (·.sat)).length
    flush := (rs.filter (·.flush)).length
    nan := (rs.filter (·.nan)).length }

/-- Elements of one lane, a register each (R206, R213). -/
def spread (rs : List FRes) : LaneRes :=
  { words := rs.map fun r => BitVec.ofNat 32 r.bits, fx := rs.foldl (fun x r => x ||| r.fx) 0 }

/-- The enabled exceptions among those raised (R57). -/
def enabledFx (s : State) (fx : Fx) : Fx := fx &&& (s.sq.mode.toNat / 256 % 32)

/-- The lowest exception of a set (R281). -/
def lowestFx (fx : Fx) : Nat := ((List.range 5).find? fun k => bit fx k).getD 0

/-- The end of a floating-point instruction whose results are written (R58, R192, R281 to R284): FLAGS gains what enabled lanes
raised, and an enabled exception traps. -/
def finishFp (s : State) (dreg dcnt : Nat) (pred : Bool) (fmt : Nat) (raised : List (Nat × Fx)) : Eff :=
  let fx := raised.foldl (fun x r => x ||| r.2) 0
  let t := s.onSq fun q => { q with flags := q.flags ||| BitVec.ofNat 64 (fx % 32) }
  let on := enabledFx s fx
  if on = 0 || inHandler s.sq then .done t
  else
    let lanes := maskOf ((raised.filter fun r => enabledFx s r.2 != 0).map (·.1))
    deliverTrap t (0x10 + lowestFx on) lanes
      (BitVec.ofNat 64 (dreg + dcnt * 128 + b2n pred * 1024 + fmt * 4096 + on * 65536))

/-- The results of the enabled lanes. -/
def laneResults (s : State) (f : Nat → LaneRes) : List (Nat × LaneRes) :=
  (laneList s.sq.cur.enabled).map fun l => (l, f l)

/-- The result of one lane in a list. -/
def resultOf (rs : List (Nat × LaneRes)) (l : Nat) : LaneRes := ((rs.find? fun r => r.1 == l).map (·.2)).getD ⟨[], 0, 0, 0, 0⟩

/-- Write a lane instruction's results to n registers from v[d]. -/
def putResults (s : State) (d n : Nat) (rs : List (Nat × LaneRes)) : State :=
  (List.range n).foldl (fun t k => t.putV (d + k) fun l => (resultOf rs l).words.getD k 0) s

/-- A floating-point instruction with n destination registers of a format (R192). -/
def fpLanes (s : State) (d n fmt : Nat) (f : Nat → LaneRes) : Eff :=
  let rs := laneResults s f
  finishFp (putResults s d n rs) d (n - 1) false fmt (rs.map fun r => (r.1, r.2.fx))

/-- A conversion with a tensor tag: its elements are counted before a trap is delivered (R208, R286). -/
def fpTagged (s : State) (d fmt : Nat) (f : Nat → LaneRes) : Eff :=
  let rs := laneResults s f
  let sum (g : LaneRes → Nat) : Nat := rs.foldl (fun x r => x + g r.2) 0
  finishFp (addStats (putResults s d 1 rs) (tagOf s) (sum (·.sat)) (sum (·.flush)) (sum (·.nan))) d 0 false fmt
    (rs.map fun r => (r.1, r.2.fx))

/-- An FP32 instruction with one result a lane. -/
def fp1 (s : State) (d : Nat) (f : Nat → FRes) : Eff := fpLanes s d 1 0 fun l => (f l).lane

/-- An FP32 operand of a lane under MODE's FTZ (R65). -/
def f32 (s : State) (x : Word) : Num := fp32.operand (ftzOn s) x.toNat

end Sys2Proof.Machine
end

