-- ==== Sys2Proof/Machine/Integer.lean ====
section
/-! DEFINITION. Integer lane operations (R193 to R200), with the 16-bit forms that are the same operations (R141). -/

namespace Sys2Proof.Machine

/-- A vector operand, lane by lane (R190). -/
def vecB (t : State) (b : Nat) : Nat → Word := fun l => t.v b l

/-- A scalar operand, the same in every lane (R151, R190). -/
def scaB (t : State) (b : Nat) : Nat → Word :=
  let x : Word := (t.x b).truncate 32
  fun _ => x

/-- The sign-extended immediate of class I (R153). -/
def immB {n : Nat} (imm : BitVec n) : Nat → Word :=
  let x : Word := imm.signExtend 32
  fun _ => x

/-- A lane operation on a and b. -/
def lane2 (t : State) (d a : Nat) (b : Nat → Word) (f : Word → Word → Word) : Eff :=
  .done (t.putV d fun l => f (t.v a l) (b l))

/-- A lane operation on a, b and the old d. -/
def lane3 (t : State) (d a : Nat) (b : Nat → Word) (f : Word → Word → Word → Word) : Eff :=
  .done (t.putV d fun l => f (t.v a l) (b l) (t.v d l))

/-- A lane operation on a. -/
def lane1 (t : State) (d a : Nat) (f : Word → Word) : Eff := .done (t.putV d fun l => f (t.v a l))

/-- Bits 63:32 of a signed product (R193). -/
def mulHigh32 (a b : Word) : Word := BitVec.ofInt 32 (a.toInt * b.toInt / 4294967296)

/-- Bits 63:32 of an unsigned product (R193). -/
def mulHighN32 (a b : Word) : Word := BitVec.ofNat 32 (a.toNat * b.toNat / 4294967296)

/-- Saturation to 32 signed bits (R20, R193). -/
def sat32 (x : Int) : Word := BitVec.ofInt 32 (satInt x (-2147483648) 2147483647)

/-- Signed and unsigned minimum and maximum (R193). -/
def minI (a b : Word) : Word := if a.slt b then a else b
def maxI (a b : Word) : Word := if a.slt b then b else a
def minN (a b : Word) : Word := if a.ult b then a else b
def maxN (a b : Word) : Word := if a.ult b then b else a

/-- Byte k of a register. -/
def byteOf (a : Word) (k : Nat) : Nat := a.toNat / 2 ^ (8 * k) % 256

/-- A register from four bytes. -/
def ofBytes (f : Nat → Nat) : Word := BitVec.ofNat 32 (f 0 + 256 * f 1 + 65536 * f 2 + 16777216 * f 3)

/-- The byte permute (R194). -/
def permute (a b : Word) : Word := ofBytes fun i =>
  let n := b.toNat / 2 ^ (4 * i) % 16
  let x := byteOf a (n % 4)
  if bit n 2 then 0 else if bit n 3 then (if 128 ≤ x then 255 else 0) else x

/-- The bit-field extract (R195). -/
def extract (a b : Word) : Word :=
  let pos := b.toNat % 256
  let e := Nat.min (b.toNat / 256 % 256) 32
  let signed := b.getLsbD 16
  let x : Int := if signed then a.toInt else a.toNat
  let f := (x / (2 ^ pos : Nat)) % (2 ^ e : Nat)
  BitVec.ofInt 32 (if signed && 0 < e && (2 ^ (e - 1) : Nat) ≤ f then f - (2 ^ e : Nat) else f)

/-- The bit-field insert (R195). -/
def insertField (a b : Word) : Word :=
  let pos := b.toNat % 256
  let e := Nat.min (b.toNat / 256 % 256) 16
  let m : Word := BitVec.ofNat 32 ((2 ^ e - 1) * 2 ^ pos)
  (a &&& ~~~m) ||| (BitVec.ofNat 32 (b.toNat / 65536 % 2 ^ e * 2 ^ pos) &&& m)

/-- The conditions of setp (R196). -/
def intCond (c : Nat) (a b : Word) : Bool :=
  match c with
  | 0 => a == b
  | 1 => a != b
  | 2 => a.slt b
  | 3 => a.sle b
  | 4 => b.slt a
  | 5 => b.sle a
  | 6 => a.ult b
  | 7 => a.ule b
  | 8 => b.ult a
  | _ => b.ule a

/-- Write a predicate in the enabled lanes. -/
def putPred (t : State) (p : Nat) (f : Nat → Bool) : State :=
  t.setP p t.sq.cur.enabled (maskOf ((List.range 32).filter f))

/-- A comparison into a predicate (R196). -/
def compareInt (t : State) (p c a : Nat) (b : Nat → Word) : Eff := .done (putPred t p fun l => intCond c (t.v a l) (b l))

/-- Bit i moved to bit 31 − i (R197). -/
def reverseBits (a : Word) : Word := a.reverse

/-- The low w bits, sign-extended (R197). -/
def signExtendLow (a : Word) (w : Nat) : Word := (a <<< (32 - w)).sshiftRight (32 - w)

/-- Bytes of a, each looked up in the table of n registers from v[t] of a lane (R200). -/
def lookUp (s : State) (a : Word) (t n fill l : Nat) : Word := ofBytes fun i =>
  let j := byteOf a i
  if j < 4 * n then byteOf (s.v (t + j / 4) l) (j % 4) else fill

/-- The checks of a vector register that a scalar register names (R191, R198): 0x41 outside the allotment, and the wait for an
outstanding operation. -/
def namedRegister (t : State) (n : Nat) (k : Eff) : Eff :=
  if 128 ≤ n || !inAllotment t.sq.ident.allot n then .fault { cause := 0x41, lanes := t.sq.cur.enabled }
  else if interlocked t.sq { vr := [n], vw := [n], sr := [], sw := [], ok := true } then .stall
  else k

/-! ### The 16-bit forms (R141) -/

def execAdd16 (d : BitVec 5) (a : BitVec 5) (s : State) : Res := issue .lane (usesAdd16 d a) s fun t =>
  lane2 t d.toNat d.toNat (vecB t a.toNat) fun x y => x + y

def execSub16 (d : BitVec 5) (a : BitVec 5) (s : State) : Res := issue .lane (usesSub16 d a) s fun t =>
  lane2 t d.toNat d.toNat (vecB t a.toNat) fun x y => x - y

def execMul16 (d : BitVec 5) (a : BitVec 5) (s : State) : Res := issue .lane (usesMul16 d a) s fun t =>
  lane2 t d.toNat d.toNat (vecB t a.toNat) fun x y => x * y

def execAnd16 (d : BitVec 5) (a : BitVec 5) (s : State) : Res := issue .lane (usesAnd16 d a) s fun t =>
  lane2 t d.toNat d.toNat (vecB t a.toNat) fun x y => x &&& y

def execOr16 (d : BitVec 5) (a : BitVec 5) (s : State) : Res := issue .lane (usesOr16 d a) s fun t =>
  lane2 t d.toNat d.toNat (vecB t a.toNat) fun x y => x ||| y

def execXor16 (d : BitVec 5) (a : BitVec 5) (s : State) : Res := issue .lane (usesXor16 d a) s fun t =>
  lane2 t d.toNat d.toNat (vecB t a.toNat) fun x y => x ^^^ y

def execShl16 (d : BitVec 5) (a : BitVec 5) (s : State) : Res := issue .lane (usesShl16 d a) s fun t =>
  lane2 t d.toNat d.toNat (vecB t a.toNat) fun x y => shiftLeft x y.toNat

def execShr16 (d : BitVec 5) (a : BitVec 5) (s : State) : Res := issue .lane (usesShr16 d a) s fun t =>
  lane2 t d.toNat d.toNat (vecB t a.toNat) fun x y => shiftRight x y.toNat

def execSar16 (d : BitVec 5) (a : BitVec 5) (s : State) : Res := issue .lane (usesSar16 d a) s fun t =>
  lane2 t d.toNat d.toNat (vecB t a.toNat) fun x y => shiftArith x y.toNat

def execMov16 (d : BitVec 5) (a : BitVec 5) (s : State) : Res := issue .lane (usesMov16 d a) s fun t =>
  lane1 t d.toNat a.toNat fun x => x

/-! ### Paired operations (R193 to R196) -/

def execAdd (d : BitVec 7) (a : BitVec 7) (b : BitVec 7) (s : State) : Res := issue .lane (usesAdd d a b) s fun t =>
  lane2 t d.toNat a.toNat (vecB t b.toNat) fun x y => x + y

def execAddS (d : BitVec 7) (a : BitVec 7) (b : BitVec 7) (s : State) : Res := issue .lane (usesAddS d a b) s fun t =>
  lane2 t d.toNat a.toNat (scaB t b.toNat) fun x y => x + y

def execSub (d : BitVec 7) (a : BitVec 7) (b : BitVec 7) (s : State) : Res := issue .lane (usesSub d a b) s fun t =>
  lane2 t d.toNat a.toNat (vecB t b.toNat) fun x y => x - y

def execSubS (d : BitVec 7) (a : BitVec 7) (b : BitVec 7) (s : State) : Res := issue .lane (usesSubS d a b) s fun t =>
  lane2 t d.toNat a.toNat (scaB t b.toNat) fun x y => x - y

def execMul (d : BitVec 7) (a : BitVec 7) (b : BitVec 7) (s : State) : Res := issue .lane (usesMul d a b) s fun t =>
  lane2 t d.toNat a.toNat (vecB t b.toNat) fun x y => x * y

def execMulS (d : BitVec 7) (a : BitVec 7) (b : BitVec 7) (s : State) : Res := issue .lane (usesMulS d a b) s fun t =>
  lane2 t d.toNat a.toNat (scaB t b.toNat) fun x y => x * y

def execMulhiI32 (d : BitVec 7) (a : BitVec 7) (b : BitVec 7) (s : State) : Res := issue .lane (usesMulhiI32 d a b) s fun t =>
  lane2 t d.toNat a.toNat (vecB t b.toNat) fun x y => mulHigh32 x y

def execMulhiI32S (d : BitVec 7) (a : BitVec 7) (b : BitVec 7) (s : State) : Res := issue .lane (usesMulhiI32S d a b) s fun t =>
  lane2 t d.toNat a.toNat (scaB t b.toNat) fun x y => mulHigh32 x y

def execMulhiN32 (d : BitVec 7) (a : BitVec 7) (b : BitVec 7) (s : State) : Res := issue .lane (usesMulhiN32 d a b) s fun t =>
  lane2 t d.toNat a.toNat (vecB t b.toNat) fun x y => mulHighN32 x y

def execMulhiN32S (d : BitVec 7) (a : BitVec 7) (b : BitVec 7) (s : State) : Res := issue .lane (usesMulhiN32S d a b) s fun t =>
  lane2 t d.toNat a.toNat (scaB t b.toNat) fun x y => mulHighN32 x y

def execAnd (d : BitVec 7) (a : BitVec 7) (b : BitVec 7) (s : State) : Res := issue .lane (usesAnd d a b) s fun t =>
  lane2 t d.toNat a.toNat (vecB t b.toNat) fun x y => x &&& y

def execAndS (d : BitVec 7) (a : BitVec 7) (b : BitVec 7) (s : State) : Res := issue .lane (usesAndS d a b) s fun t =>
  lane2 t d.toNat a.toNat (scaB t b.toNat) fun x y => x &&& y

def execOr (d : BitVec 7) (a : BitVec 7) (b : BitVec 7) (s : State) : Res := issue .lane (usesOr d a b) s fun t =>
  lane2 t d.toNat a.toNat (vecB t b.toNat) fun x y => x ||| y

def execOrS (d : BitVec 7) (a : BitVec 7) (b : BitVec 7) (s : State) : Res := issue .lane (usesOrS d a b) s fun t =>
  lane2 t d.toNat a.toNat (scaB t b.toNat) fun x y => x ||| y

def execXor (d : BitVec 7) (a : BitVec 7) (b : BitVec 7) (s : State) : Res := issue .lane (usesXor d a b) s fun t =>
  lane2 t d.toNat a.toNat (vecB t b.toNat) fun x y => x ^^^ y

def execXorS (d : BitVec 7) (a : BitVec 7) (b : BitVec 7) (s : State) : Res := issue .lane (usesXorS d a b) s fun t =>
  lane2 t d.toNat a.toNat (scaB t b.toNat) fun x y => x ^^^ y

def execShl (d : BitVec 7) (a : BitVec 7) (b : BitVec 7) (s : State) : Res := issue .lane (usesShl d a b) s fun t =>
  lane2 t d.toNat a.toNat (vecB t b.toNat) fun x y => shiftLeft x y.toNat

def execShlS (d : BitVec 7) (a : BitVec 7) (b : BitVec 7) (s : State) : Res := issue .lane (usesShlS d a b) s fun t =>
  lane2 t d.toNat a.toNat (scaB t b.toNat) fun x y => shiftLeft x y.toNat

def execShr (d : BitVec 7) (a : BitVec 7) (b : BitVec 7) (s : State) : Res := issue .lane (usesShr d a b) s fun t =>
  lane2 t d.toNat a.toNat (vecB t b.toNat) fun x y => shiftRight x y.toNat

def execShrS (d : BitVec 7) (a : BitVec 7) (b : BitVec 7) (s : State) : Res := issue .lane (usesShrS d a b) s fun t =>
  lane2 t d.toNat a.toNat (scaB t b.toNat) fun x y => shiftRight x y.toNat

def execSar (d : BitVec 7) (a : BitVec 7) (b : BitVec 7) (s : State) : Res := issue .lane (usesSar d a b) s fun t =>
  lane2 t d.toNat a.toNat (vecB t b.toNat) fun x y => shiftArith x y.toNat

def execSarS (d : BitVec 7) (a : BitVec 7) (b : BitVec 7) (s : State) : Res := issue .lane (usesSarS d a b) s fun t =>
  lane2 t d.toNat a.toNat (scaB t b.toNat) fun x y => shiftArith x y.toNat

def execMinI32 (d : BitVec 7) (a : BitVec 7) (b : BitVec 7) (s : State) : Res := issue .lane (usesMinI32 d a b) s fun t =>
  lane2 t d.toNat a.toNat (vecB t b.toNat) fun x y => minI x y

def execMinI32S (d : BitVec 7) (a : BitVec 7) (b : BitVec 7) (s : State) : Res := issue .lane (usesMinI32S d a b) s fun t =>
  lane2 t d.toNat a.toNat (scaB t b.toNat) fun x y => minI x y

def execMaxI32 (d : BitVec 7) (a : BitVec 7) (b : BitVec 7) (s : State) : Res := issue .lane (usesMaxI32 d a b) s fun t =>
  lane2 t d.toNat a.toNat (vecB t b.toNat) fun x y => maxI x y

def execMaxI32S (d : BitVec 7) (a : BitVec 7) (b : BitVec 7) (s : State) : Res := issue .lane (usesMaxI32S d a b) s fun t =>
  lane2 t d.toNat a.toNat (scaB t b.toNat) fun x y => maxI x y

def execMinN32 (d : BitVec 7) (a : BitVec 7) (b : BitVec 7) (s : State) : Res := issue .lane (usesMinN32 d a b) s fun t =>
  lane2 t d.toNat a.toNat (vecB t b.toNat) fun x y => minN x y

def execMinN32S (d : BitVec 7) (a : BitVec 7) (b : BitVec 7) (s : State) : Res := issue .lane (usesMinN32S d a b) s fun t =>
  lane2 t d.toNat a.toNat (scaB t b.toNat) fun x y => minN x y

def execMaxN32 (d : BitVec 7) (a : BitVec 7) (b : BitVec 7) (s : State) : Res := issue .lane (usesMaxN32 d a b) s fun t =>
  lane2 t d.toNat a.toNat (vecB t b.toNat) fun x y => maxN x y

def execMaxN32S (d : BitVec 7) (a : BitVec 7) (b : BitVec 7) (s : State) : Res := issue .lane (usesMaxN32S d a b) s fun t =>
  lane2 t d.toNat a.toNat (scaB t b.toNat) fun x y => maxN x y

def execAddsatI32 (d : BitVec 7) (a : BitVec 7) (b : BitVec 7) (s : State) : Res := issue .lane (usesAddsatI32 d a b) s fun t =>
  lane2 t d.toNat a.toNat (vecB t b.toNat) fun x y => sat32 (x.toInt + y.toInt)

def execAddsatI32S (d : BitVec 7) (a : BitVec 7) (b : BitVec 7) (s : State) : Res := issue .lane (usesAddsatI32S d a b) s fun t =>
  lane2 t d.toNat a.toNat (scaB t b.toNat) fun x y => sat32 (x.toInt + y.toInt)

def execSubsatI32 (d : BitVec 7) (a : BitVec 7) (b : BitVec 7) (s : State) : Res := issue .lane (usesSubsatI32 d a b) s fun t =>
  lane2 t d.toNat a.toNat (vecB t b.toNat) fun x y => sat32 (x.toInt - y.toInt)

def execSubsatI32S (d : BitVec 7) (a : BitVec 7) (b : BitVec 7) (s : State) : Res := issue .lane (usesSubsatI32S d a b) s fun t =>
  lane2 t d.toNat a.toNat (scaB t b.toNat) fun x y => sat32 (x.toInt - y.toInt)

def execPrmt (d : BitVec 7) (a : BitVec 7) (b : BitVec 7) (s : State) : Res := issue .lane (usesPrmt d a b) s fun t =>
  lane2 t d.toNat a.toNat (vecB t b.toNat) fun x y => permute x y

def execPrmtS (d : BitVec 7) (a : BitVec 7) (b : BitVec 7) (s : State) : Res := issue .lane (usesPrmtS d a b) s fun t =>
  lane2 t d.toNat a.toNat (scaB t b.toNat) fun x y => permute x y

def execBfe (d : BitVec 7) (a : BitVec 7) (b : BitVec 7) (s : State) : Res := issue .lane (usesBfe d a b) s fun t =>
  lane2 t d.toNat a.toNat (vecB t b.toNat) fun x y => extract x y

def execBfeS (d : BitVec 7) (a : BitVec 7) (b : BitVec 7) (s : State) : Res := issue .lane (usesBfeS d a b) s fun t =>
  lane2 t d.toNat a.toNat (scaB t b.toNat) fun x y => extract x y

def execBfi (d : BitVec 7) (a : BitVec 7) (b : BitVec 7) (s : State) : Res := issue .lane (usesBfi d a b) s fun t =>
  lane2 t d.toNat a.toNat (vecB t b.toNat) fun x y => insertField x y

def execBfiS (d : BitVec 7) (a : BitVec 7) (b : BitVec 7) (s : State) : Res := issue .lane (usesBfiS d a b) s fun t =>
  lane2 t d.toNat a.toNat (scaB t b.toNat) fun x y => insertField x y

def execMad (d : BitVec 7) (a : BitVec 7) (b : BitVec 7) (s : State) : Res := issue .lane (usesMad d a b) s fun t =>
  lane3 t d.toNat a.toNat (vecB t b.toNat) fun x y z => x * y + z

def execMadS (d : BitVec 7) (a : BitVec 7) (b : BitVec 7) (s : State) : Res := issue .lane (usesMadS d a b) s fun t =>
  lane3 t d.toNat a.toNat (scaB t b.toNat) fun x y z => x * y + z

def execSetp (p : BitVec 3) (c : BitVec 4) (a : BitVec 7) (b : BitVec 7) (s : State) : Res := issue .lane (usesSetp c a b) s fun t =>
  compareInt t p.toNat c.toNat a.toNat (vecB t b.toNat)

def execSetpS (p : BitVec 3) (c : BitVec 4) (a : BitVec 7) (b : BitVec 7) (s : State) : Res := issue .lane (usesSetpS c a b) s fun t =>
  compareInt t p.toNat c.toNat a.toNat (scaB t b.toNat)

/-- Σ sext8(a byte i) × sext8(b byte i) (R207). -/
def byteDot (a b : Word) : Int :=
  (List.range 4).foldl (fun x i =>
    x + (BitVec.ofNat 8 (byteOf a i)).toInt * (BitVec.ofNat 8 (byteOf b i)).toInt) 0

def execIdot4 (d : BitVec 7) (a : BitVec 7) (b : BitVec 7) (s : State) : Res := issue .lane (usesIdot4 d a b) s fun t =>
  lane3 t d.toNat a.toNat (vecB t b.toNat) fun x y z => z + BitVec.ofInt 32 (byteDot x y)

def execIdot4S (d : BitVec 7) (a : BitVec 7) (b : BitVec 7) (s : State) : Res := issue .lane (usesIdot4S d a b) s fun t =>
  lane3 t d.toNat a.toNat (scaB t b.toNat) fun x y z => z + BitVec.ofInt 32 (byteDot x y)

/-! ### Single operations (R197, R198) -/

def execSelp (d : BitVec 7) (a : BitVec 7) (p : BitVec 3) (n : BitVec 1) (s : State) : Res := issue .lane (usesSelp d a) s fun t =>
  let m := predSource t p n
  .done (t.putV d.toNat fun l => if m.getLsbD l then t.v a.toNat l else t.v d.toNat l)

def execPopc (d : BitVec 7) (a : BitVec 7) (s : State) : Res := issue .lane (usesPopc d a) s fun t =>
  lane1 t d.toNat a.toNat fun x => BitVec.ofNat 32 (popCount 32 x.toNat)

def execClz (d : BitVec 7) (a : BitVec 7) (s : State) : Res := issue .lane (usesClz d a) s fun t =>
  lane1 t d.toNat a.toNat fun x => BitVec.ofNat 32 (leadingZeros 32 x.toNat)

def execBrev (d : BitVec 7) (a : BitVec 7) (s : State) : Res := issue .lane (usesBrev d a) s fun t =>
  lane1 t d.toNat a.toNat fun x => reverseBits x

def execAbs (d : BitVec 7) (a : BitVec 7) (s : State) : Res := issue .lane (usesAbs d a) s fun t =>
  lane1 t d.toNat a.toNat fun x => if x.slt 0 then -x else x

def execNeg (d : BitVec 7) (a : BitVec 7) (s : State) : Res := issue .lane (usesNeg d a) s fun t =>
  lane1 t d.toNat a.toNat fun x => -x

def execNot (d : BitVec 7) (a : BitVec 7) (s : State) : Res := issue .lane (usesNot d a) s fun t =>
  lane1 t d.toNat a.toNat fun x => ~~~x

def execMov (d : BitVec 7) (a : BitVec 7) (s : State) : Res := issue .lane (usesMov d a) s fun t =>
  lane1 t d.toNat a.toNat fun x => x

def execSext (d : BitVec 7) (a : BitVec 7) (w : BitVec 7) (s : State) : Res := issue .lane (usesSext d a w) s fun t =>
  lane1 t d.toNat a.toNat fun x => signExtendLow x w.toNat

def execMovx (d : BitVec 7) (a : BitVec 7) (s : State) : Res := issue .lane (usesMovx d a) s fun t =>
  let n := (t.x d.toNat).toNat
  namedRegister t n (lane1 t n a.toNat fun x => x)

def execMovxr (d : BitVec 7) (a : BitVec 7) (s : State) : Res := issue .lane (usesMovxr d a) s fun t =>
  let n := (t.x a.toNat).toNat
  namedRegister t n (match markFault (poisonedV t.sq [n] t.sq.cur.enabled) with
    | some f => .fault f
    | none => lane1 t d.toNat n fun x => x)

/-! ### Class I (R199, R200) -/

def execAddi (d : BitVec 7) (a : BitVec 7) (imm : BitVec 10) (s : State) : Res := issue .lane (usesAddi d a) s fun t =>
  lane2 t d.toNat a.toNat (immB imm) fun x y => x + y

def execAndi (d : BitVec 7) (a : BitVec 7) (imm : BitVec 10) (s : State) : Res := issue .lane (usesAndi d a) s fun t =>
  lane2 t d.toNat a.toNat (immB imm) fun x y => x &&& y

def execOri (d : BitVec 7) (a : BitVec 7) (imm : BitVec 10) (s : State) : Res := issue .lane (usesOri d a) s fun t =>
  lane2 t d.toNat a.toNat (immB imm) fun x y => x ||| y

def execXori (d : BitVec 7) (a : BitVec 7) (imm : BitVec 10) (s : State) : Res := issue .lane (usesXori d a) s fun t =>
  lane2 t d.toNat a.toNat (immB imm) fun x y => x ^^^ y

def execMuli (d : BitVec 7) (a : BitVec 7) (imm : BitVec 10) (s : State) : Res := issue .lane (usesMuli d a) s fun t =>
  lane2 t d.toNat a.toNat (immB imm) fun x y => x * y

def execShli (d : BitVec 7) (a : BitVec 7) (imm : BitVec 10) (s : State) : Res := issue .lane (usesShli d a imm) s fun t =>
  lane1 t d.toNat a.toNat fun x => shiftLeft x imm.toNat

def execShri (d : BitVec 7) (a : BitVec 7) (imm : BitVec 10) (s : State) : Res := issue .lane (usesShri d a imm) s fun t =>
  lane1 t d.toNat a.toNat fun x => shiftRight x imm.toNat

def execSari (d : BitVec 7) (a : BitVec 7) (imm : BitVec 10) (s : State) : Res := issue .lane (usesSari d a imm) s fun t =>
  lane1 t d.toNat a.toNat fun x => shiftArith x imm.toNat

def execSetpi (p : BitVec 3) (c : BitVec 4) (a : BitVec 7) (imm : BitVec 10) (s : State) : Res := issue .lane (usesSetpi c a) s fun t =>
  compareInt t p.toNat c.toNat a.toNat (immB imm)

def execMovi (d : BitVec 7) (imm : BitVec 10) (s : State) : Res := issue .laneImm (usesMovi d) s fun t =>
  let x : Word := match t.sq.cur.ext with
    | none => imm.signExtend 32
    | some e => BitVec.ofNat 32 (e.toNat % 4194304 * 1024 + imm.toNat)
  .done (t.putV d.toNat fun _ => x)

def execLidx (d : BitVec 7) (a : BitVec 7) (imm : BitVec 10) (s : State) : Res := issue .lane (usesLidx d a) s fun t =>
  .done (t.putV d.toNat fun l => t.v a.toNat l + imm.signExtend 32 * BitVec.ofNat 32 l)

def execTlu (d : BitVec 7) (a : BitVec 7) (t' : BitVec 7) (n : BitVec 3) (s : State) : Res := issue .laneFill (usesTlu d a t' n) s fun t =>
  let fill := (t.sq.cur.ext.getD 0).toNat % 256
  .done (t.putV d.toNat fun l => lookUp t (t.v a.toNat l) t'.toNat (n.toNat + 1) fill l)

end Sys2Proof.Machine
end

