-- ==== Sys2Proof/Machine/FloatLane.lean ====
section
/-! DEFINITION. FP32, packed and dot operations (R201 to R206). -/

namespace Sys2Proof.Machine

/-- a + b in FP32. -/
def fadd2 (t : State) (x y : Word) : FRes := fp32.add (roundMode t) (ftzOn t) (f32 t x) (f32 t y)

/-- a − b in FP32. -/
def fsub2 (t : State) (x y : Word) : FRes := fp32.add (roundMode t) (ftzOn t) (f32 t x) (f32 t y).negate

/-- a × b in FP32. -/
def fmul2 (t : State) (x y : Word) : FRes := fp32.mul (roundMode t) (ftzOn t) (f32 t x) (f32 t y)

/-- a × b + d in FP32, one rounding. -/
def ffma3 (t : State) (x y z : Word) : FRes := fp32.fma (roundMode t) (ftzOn t) (f32 t x) (f32 t y) (f32 t z)

/-- d − a × b in FP32, one rounding. -/
def fnma3 (t : State) (x y z : Word) : FRes := fp32.fma (roundMode t) (ftzOn t) (f32 t x).negate (f32 t y) (f32 t z)

/-- The smaller or larger number (R64). -/
def fmin2 (t : State) (isMax : Bool) (x y : Word) : FRes := fp32.minMax (ftzOn t) isMax x.toNat y.toNat

/-- a / b (R66, R201). -/
def fdiv2 (t : State) (x y : Word) : FRes := fp32.div (ftzOn t) (f32 t x) (f32 t y)

/-- An FP32 operation on a and b (R201). -/
def fpLane2 (t : State) (d a : Nat) (b : Nat → Word) (f : Word → Word → FRes) : Eff := fp1 t d fun l => f (t.v a l) (b l)

/-- An FP32 operation on a, b and the old d (R201). -/
def fpLane3 (t : State) (d a : Nat) (b : Nat → Word) (f : Word → Word → Word → FRes) : Eff :=
  fp1 t d fun l => f (t.v a l) (b l) (t.v d l)

/-- An FP32 operation on a. -/
def fpLane1 (t : State) (d a : Nat) (f : Word → FRes) : Eff := fp1 t d fun l => f (t.v a l)

/-- A comparison of fsetp, and whether it raises invalid (R202). -/
def floatCond (c : Nat) (a b : Num) : Bool × Bool :=
  let nan := a.isNan || b.isNan
  let snan := a.isSnan || b.isSnan
  let o := a.compare b
  let rel (k : Nat) : Bool := !nan && match k with
    | 2 => o == .lt
    | 3 => o != .gt
    | 4 => o == .gt
    | _ => o != .lt
  match c with
  | 0 => (!nan && o == .eq, snan)
  | 1 => (nan || o != .eq, snan)
  | 6 => (nan, snan)
  | 7 => (!nan, snan)
  | 8 => (rel 2, nan)
  | 9 => (rel 3, nan)
  | 10 => (rel 4, nan)
  | 11 => (rel 5, nan)
  | k => (rel k, snan)

/-- An FP32 comparison into a predicate (R202). -/
def compareFloat (t : State) (p c a : Nat) (b : Nat → Word) : Eff :=
  let rs := (laneList t.sq.cur.enabled).map fun l => (l, floatCond c (f32 t (t.v a l)) (f32 t (b l)))
  let hit := maskOf ((rs.filter fun r => r.2.1).map (·.1))
  finishFp (t.setP p t.sq.cur.enabled hit) p 0 true 0 (rs.map fun r => (r.1, if r.2.2 then 1 else 0))

/-- |a| or −a after FTZ; a NaN gives the canonical NaN (R204). -/
def signOp (t : State) (negate : Bool) (x : Word) : Word :=
  let r := fp32.recode (ftzOn t) x.toNat
  if (f32 t x).isNan then BitVec.ofNat 32 r
  else if negate then BitVec.ofNat 32 r ^^^ 0x80000000 else BitVec.ofNat 32 r &&& 0x7FFFFFFF

/-- a rounded to an integral value (R204). -/
def roundIntegral (t : State) (m : Nat) (x : Word) : FRes :=
  let mode := if m = 4 then roundMode t else m
  match f32 t x with
  | .nan s => fp32.nanRes s
  | .inf n => { bits := fp32.signed n fp32.inf }
  | .fin n m e => { bits := (fp32.finite 0 false false n (toInteger mode n m e).1.natAbs 0 false).bits }

/-- The class of a after FTZ (R204). -/
def classOf (t : State) (x : Word) : Word :=
  match f32 t x with
  | .nan true => 1
  | .nan false => 2
  | .inf true => 4
  | .inf false => 0x200
  | .fin n 0 _ => if n then 0x20 else 0x40
  | .fin n _ _ => if fp32.subnormal x.toNat then (if n then 0x10 else 0x80) else (if n then 8 else 0x100)

/-! ### The 16-bit forms (R141) -/

def execFadd16 (d : BitVec 5) (a : BitVec 5) (s : State) : Res := issue .lane (usesFadd16 d a) s fun t =>
  fpLane2 t d.toNat d.toNat (vecB t a.toNat) fun x y => fadd2 t x y

def execFsub16 (d : BitVec 5) (a : BitVec 5) (s : State) : Res := issue .lane (usesFsub16 d a) s fun t =>
  fpLane2 t d.toNat d.toNat (vecB t a.toNat) fun x y => fsub2 t x y

def execFmul16 (d : BitVec 5) (a : BitVec 5) (s : State) : Res := issue .lane (usesFmul16 d a) s fun t =>
  fpLane2 t d.toNat d.toNat (vecB t a.toNat) fun x y => fmul2 t x y

def execFmin16 (d : BitVec 5) (a : BitVec 5) (s : State) : Res := issue .lane (usesFmin16 d a) s fun t =>
  fpLane2 t d.toNat d.toNat (vecB t a.toNat) fun x y => fmin2 t false x y

def execFmax16 (d : BitVec 5) (a : BitVec 5) (s : State) : Res := issue .lane (usesFmax16 d a) s fun t =>
  fpLane2 t d.toNat d.toNat (vecB t a.toNat) fun x y => fmin2 t true x y

def execFneg16 (d : BitVec 5) (a : BitVec 5) (s : State) : Res := issue .lane (usesFneg16 d a) s fun t =>
  lane1 t d.toNat a.toNat (signOp t true)

/-! ### FP32 (R201 to R204) -/

def execFadd (d : BitVec 7) (a : BitVec 7) (b : BitVec 7) (s : State) : Res := issue .lane (usesFadd d a b) s fun t =>
  fpLane2 t d.toNat a.toNat (vecB t b.toNat) fun x y => fadd2 t x y

def execFaddS (d : BitVec 7) (a : BitVec 7) (b : BitVec 7) (s : State) : Res := issue .lane (usesFaddS d a b) s fun t =>
  fpLane2 t d.toNat a.toNat (scaB t b.toNat) fun x y => fadd2 t x y

def execFsub (d : BitVec 7) (a : BitVec 7) (b : BitVec 7) (s : State) : Res := issue .lane (usesFsub d a b) s fun t =>
  fpLane2 t d.toNat a.toNat (vecB t b.toNat) fun x y => fsub2 t x y

def execFsubS (d : BitVec 7) (a : BitVec 7) (b : BitVec 7) (s : State) : Res := issue .lane (usesFsubS d a b) s fun t =>
  fpLane2 t d.toNat a.toNat (scaB t b.toNat) fun x y => fsub2 t x y

def execFmul (d : BitVec 7) (a : BitVec 7) (b : BitVec 7) (s : State) : Res := issue .lane (usesFmul d a b) s fun t =>
  fpLane2 t d.toNat a.toNat (vecB t b.toNat) fun x y => fmul2 t x y

def execFmulS (d : BitVec 7) (a : BitVec 7) (b : BitVec 7) (s : State) : Res := issue .lane (usesFmulS d a b) s fun t =>
  fpLane2 t d.toNat a.toNat (scaB t b.toNat) fun x y => fmul2 t x y

def execFmin (d : BitVec 7) (a : BitVec 7) (b : BitVec 7) (s : State) : Res := issue .lane (usesFmin d a b) s fun t =>
  fpLane2 t d.toNat a.toNat (vecB t b.toNat) fun x y => fmin2 t false x y

def execFminS (d : BitVec 7) (a : BitVec 7) (b : BitVec 7) (s : State) : Res := issue .lane (usesFminS d a b) s fun t =>
  fpLane2 t d.toNat a.toNat (scaB t b.toNat) fun x y => fmin2 t false x y

def execFmax (d : BitVec 7) (a : BitVec 7) (b : BitVec 7) (s : State) : Res := issue .lane (usesFmax d a b) s fun t =>
  fpLane2 t d.toNat a.toNat (vecB t b.toNat) fun x y => fmin2 t true x y

def execFmaxS (d : BitVec 7) (a : BitVec 7) (b : BitVec 7) (s : State) : Res := issue .lane (usesFmaxS d a b) s fun t =>
  fpLane2 t d.toNat a.toNat (scaB t b.toNat) fun x y => fmin2 t true x y

def execFdiv (d : BitVec 7) (a : BitVec 7) (b : BitVec 7) (s : State) : Res := issue .lane (usesFdiv d a b) s fun t =>
  fpLane2 t d.toNat a.toNat (vecB t b.toNat) fun x y => fdiv2 t x y

def execFdivS (d : BitVec 7) (a : BitVec 7) (b : BitVec 7) (s : State) : Res := issue .lane (usesFdivS d a b) s fun t =>
  fpLane2 t d.toNat a.toNat (scaB t b.toNat) fun x y => fdiv2 t x y

def execFfma (d : BitVec 7) (a : BitVec 7) (b : BitVec 7) (s : State) : Res := issue .lane (usesFfma d a b) s fun t =>
  fpLane3 t d.toNat a.toNat (vecB t b.toNat) (ffma3 t)

def execFfmaS (d : BitVec 7) (a : BitVec 7) (b : BitVec 7) (s : State) : Res := issue .lane (usesFfmaS d a b) s fun t =>
  fpLane3 t d.toNat a.toNat (scaB t b.toNat) (ffma3 t)

def execFnma (d : BitVec 7) (a : BitVec 7) (b : BitVec 7) (s : State) : Res := issue .lane (usesFnma d a b) s fun t =>
  fpLane3 t d.toNat a.toNat (vecB t b.toNat) (fnma3 t)

def execFnmaS (d : BitVec 7) (a : BitVec 7) (b : BitVec 7) (s : State) : Res := issue .lane (usesFnmaS d a b) s fun t =>
  fpLane3 t d.toNat a.toNat (scaB t b.toNat) (fnma3 t)

def execFsetp (p : BitVec 3) (c : BitVec 4) (a : BitVec 7) (b : BitVec 7) (s : State) : Res := issue .lane (usesFsetp c a b) s fun t =>
  compareFloat t p.toNat c.toNat a.toNat (vecB t b.toNat)

def execFsetpS (p : BitVec 3) (c : BitVec 4) (a : BitVec 7) (b : BitVec 7) (s : State) : Res := issue .lane (usesFsetpS c a b) s fun t =>
  compareFloat t p.toNat c.toNat a.toNat (scaB t b.toNat)

def execFabs (d : BitVec 7) (a : BitVec 7) (s : State) : Res := issue .lane (usesFabs d a) s fun t =>
  lane1 t d.toNat a.toNat (signOp t false)

def execFneg (d : BitVec 7) (a : BitVec 7) (s : State) : Res := issue .lane (usesFneg d a) s fun t =>
  lane1 t d.toNat a.toNat (signOp t true)

def execFrcp (d : BitVec 7) (a : BitVec 7) (s : State) : Res := issue .lane (usesFrcp d a) s fun t =>
  fpLane1 t d.toNat a.toNat fun x => fdiv2 t 0x3F800000 x

def execFrsq (d : BitVec 7) (a : BitVec 7) (s : State) : Res := issue .lane (usesFrsq d a) s fun t =>
  fpLane1 t d.toNat a.toNat fun x => fp32.rsqrt (ftzOn t) (f32 t x)

def execFsqrt (d : BitVec 7) (a : BitVec 7) (s : State) : Res := issue .lane (usesFsqrt d a) s fun t =>
  fpLane1 t d.toNat a.toNat fun x => fp32.sqrt (ftzOn t) (f32 t x)

def execFex2 (d : BitVec 7) (a : BitVec 7) (s : State) : Res := issue .lane (usesFex2 d a) s fun t =>
  fpLane1 t d.toNat a.toNat fun x => specialEx2 (ftzOn t) x.toNat

def execFlg2 (d : BitVec 7) (a : BitVec 7) (s : State) : Res := issue .lane (usesFlg2 d a) s fun t =>
  fpLane1 t d.toNat a.toNat fun x => specialLg2 (ftzOn t) x.toNat

def execFsin (d : BitVec 7) (a : BitVec 7) (s : State) : Res := issue .lane (usesFsin d a) s fun t =>
  fpLane1 t d.toNat a.toNat fun x => specialSinCos (ftzOn t) false x.toNat

def execFcos (d : BitVec 7) (a : BitVec 7) (s : State) : Res := issue .lane (usesFcos d a) s fun t =>
  fpLane1 t d.toNat a.toNat fun x => specialSinCos (ftzOn t) true x.toNat

def execFtanh (d : BitVec 7) (a : BitVec 7) (s : State) : Res := issue .lane (usesFtanh d a) s fun t =>
  fpLane1 t d.toNat a.toNat fun x => specialTanh (ftzOn t) x.toNat

def execFrnd (d : BitVec 7) (a : BitVec 7) (m : BitVec 3) (s : State) : Res := issue .lane (usesFrnd d a m) s fun t =>
  fpLane1 t d.toNat a.toNat (roundIntegral t m.toNat)

def execFclass (d : BitVec 7) (a : BitVec 7) (s : State) : Res := issue .lane (usesFclass d a) s fun t =>
  lane1 t d.toNat a.toNat (classOf t)

/-! ### Packed operations (R205) -/

/-- Element i of a packed register. -/
def half (x : Word) (i : Nat) : Nat := x.toNat / 65536 ^ i % 65536

/-- A packed element under MODE's FTZ. -/
def halfNum (f : Fmt) (t : State) (x : Word) (i : Nat) : Num := f.operand (ftzOn t) (half x i)

/-- A packed operation: both elements, independently (R205). -/
def packedLanes (t : State) (d fmt : Nat) (f : Nat → Nat → FRes) : Eff :=
  fpLanes t d 1 fmt fun l => packed 16 [f l 0, f l 1]

/-- Packed a + b. -/
def packedAdd (f : Fmt) (t : State) (d fmt a : Nat) (b : Nat → Word) : Eff := packedLanes t d fmt fun l i =>
  f.add (roundMode t) (ftzOn t) (halfNum f t (t.v a l) i) (halfNum f t (b l) i)

/-- Packed a × b. -/
def packedMul (f : Fmt) (t : State) (d fmt a : Nat) (b : Nat → Word) : Eff := packedLanes t d fmt fun l i =>
  f.mul (roundMode t) (ftzOn t) (halfNum f t (t.v a l) i) (halfNum f t (b l) i)

/-- Packed a × b + d. -/
def packedFma (f : Fmt) (t : State) (d fmt a : Nat) (b : Nat → Word) : Eff := packedLanes t d fmt fun l i =>
  f.fma (roundMode t) (ftzOn t) (halfNum f t (t.v a l) i) (halfNum f t (b l) i) (halfNum f t (t.v d l) i)

/-- The BF16 dot products of a pair (R206). -/
def dotPair (t : State) (d a : Nat) (b : Nat → Word) : Eff := fpLanes t d 2 0 fun l =>
  let e (x : Word) (i : Nat) : Num := halfNum bf16 t x i
  let one (k : Nat) : FRes := fp32.dot (roundMode t) (ftzOn t) (f32 t (t.v (d + k) l))
    [(e (t.v (a + k) l) 0, e (b l) 0), (e (t.v (a + k) l) 1, e (b l) 1)]
  spread [one 0, one 1]

def execHadd2 (d : BitVec 7) (a : BitVec 7) (b : BitVec 7) (s : State) : Res := issue .lane (usesHadd2 d a b) s fun t =>
  packedAdd fp16 t d.toNat 1 a.toNat (vecB t b.toNat)

def execHadd2S (d : BitVec 7) (a : BitVec 7) (b : BitVec 7) (s : State) : Res := issue .lane (usesHadd2S d a b) s fun t =>
  packedAdd fp16 t d.toNat 1 a.toNat (scaB t b.toNat)

def execHmul2 (d : BitVec 7) (a : BitVec 7) (b : BitVec 7) (s : State) : Res := issue .lane (usesHmul2 d a b) s fun t =>
  packedMul fp16 t d.toNat 1 a.toNat (vecB t b.toNat)

def execHmul2S (d : BitVec 7) (a : BitVec 7) (b : BitVec 7) (s : State) : Res := issue .lane (usesHmul2S d a b) s fun t =>
  packedMul fp16 t d.toNat 1 a.toNat (scaB t b.toNat)

def execHfma2 (d : BitVec 7) (a : BitVec 7) (b : BitVec 7) (s : State) : Res := issue .lane (usesHfma2 d a b) s fun t =>
  packedFma fp16 t d.toNat 1 a.toNat (vecB t b.toNat)

def execHfma2S (d : BitVec 7) (a : BitVec 7) (b : BitVec 7) (s : State) : Res := issue .lane (usesHfma2S d a b) s fun t =>
  packedFma fp16 t d.toNat 1 a.toNat (scaB t b.toNat)

def execBadd2 (d : BitVec 7) (a : BitVec 7) (b : BitVec 7) (s : State) : Res := issue .lane (usesBadd2 d a b) s fun t =>
  packedAdd bf16 t d.toNat 2 a.toNat (vecB t b.toNat)

def execBadd2S (d : BitVec 7) (a : BitVec 7) (b : BitVec 7) (s : State) : Res := issue .lane (usesBadd2S d a b) s fun t =>
  packedAdd bf16 t d.toNat 2 a.toNat (scaB t b.toNat)

def execBmul2 (d : BitVec 7) (a : BitVec 7) (b : BitVec 7) (s : State) : Res := issue .lane (usesBmul2 d a b) s fun t =>
  packedMul bf16 t d.toNat 2 a.toNat (vecB t b.toNat)

def execBmul2S (d : BitVec 7) (a : BitVec 7) (b : BitVec 7) (s : State) : Res := issue .lane (usesBmul2S d a b) s fun t =>
  packedMul bf16 t d.toNat 2 a.toNat (scaB t b.toNat)

def execBfma2 (d : BitVec 7) (a : BitVec 7) (b : BitVec 7) (s : State) : Res := issue .lane (usesBfma2 d a b) s fun t =>
  packedFma bf16 t d.toNat 2 a.toNat (vecB t b.toNat)

def execBfma2S (d : BitVec 7) (a : BitVec 7) (b : BitVec 7) (s : State) : Res := issue .lane (usesBfma2S d a b) s fun t =>
  packedFma bf16 t d.toNat 2 a.toNat (scaB t b.toNat)

def execDot2 (d : BitVec 7) (a : BitVec 7) (b : BitVec 7) (s : State) : Res := issue .lane (usesDot2 d a b) s fun t =>
  dotPair t d.toNat a.toNat (vecB t b.toNat)

def execDot2S (d : BitVec 7) (a : BitVec 7) (b : BitVec 7) (s : State) : Res := issue .lane (usesDot2S d a b) s fun t =>
  dotPair t d.toNat a.toNat (scaB t b.toNat)

end Sys2Proof.Machine
end

