-- ==== Sys2Proof/Machine/Convert.lean ====
section
/-! DEFINITION. Conversions (R208 to R213) and the MX helpers (R214, R215). -/

namespace Sys2Proof.Machine

/-- The range of an integer code (R208): i32, n32, i16, n16, i8, n8. -/
def intRange (code : Nat) : Int × Int :=
  match code with
  | 0 => (-2147483648, 2147483647)
  | 1 => (0, 4294967295)
  | 2 => (-32768, 32767)
  | 3 => (0, 65535)
  | 4 => (-128, 127)
  | _ => (0, 255)

/-- The value of an integer code in the low bits of a register (R210). -/
def intValue (code : Nat) (x : Word) : Int :=
  match code with
  | 0 => x.toInt
  | 1 => x.toNat
  | 2 => (x.truncate 16).toInt
  | 3 => (x.truncate 16).toNat
  | 4 => (x.truncate 8).toInt
  | _ => (x.truncate 8).toNat

/-- The rounding of cvtfi (R209), as MODE numbers it. -/
def intRounding (t : State) (r : Nat) : Nat :=
  match r with
  | 0 => 1
  | 1 => 0
  | 2 => roundMode t
  | _ => 2

/-- Float to integer (R209, R77). -/
def floatToInt (t : State) (sc : Nat) (x : Word) : LaneRes :=
  let (lo, hi) := intRange (sc / 4 % 8)
  let bound (neg : Bool) : Word := BitVec.ofInt 32 (if neg then lo else hi)
  match (fmtOf (sc % 4)).operand (ftzOn t) x.toNat with
  | .nan _ => { words := [0], fx := 1, nan := 1 }
  | .inf n => { words := [bound n], fx := 1, sat := 1 }
  | .fin n m e =>
    let (v, inexact) := toInteger (intRounding t (sc / 32)) n m e
    if v < lo || hi < v then { words := [bound n], fx := 1, sat := 1 }
    else { words := [BitVec.ofInt 32 v], fx := if inexact then 16 else 0, flush := b2n (m != 0 && v == 0) }

/-- Integer to float (R210). -/
def intToFloat (t : State) (sc : Nat) (x : Word) : FRes :=
  let v := intValue (sc % 8) x
  (fmtOf (sc / 8 % 4)).finite (roundMode t) (ftzOn t) (bit sc 5) (decide (v < 0)) v.natAbs 0 false

/-- Does a narrowing saturate: `.sat`, and always to E4M3 under version 1 (R70, R76)? -/
def saturates (t : State) (dst : Nat) (sat : Bool) : Bool := sat || (dst == 4 && t.nbv == 1)

/-- Is a destination narrower than a source, in its exponent or its fraction (R70)? -/
def narrows (src dst : Fmt) : Bool := dst.eb < src.eb || dst.mb < src.mb

/-- Between float formats (R211): only a narrowing saturates (R70). -/
def floatToFloat (t : State) (src dst : Nat) (sat : Bool) (x : Nat) : FRes :=
  convert (fmtOf src) (fmtOf dst) (roundMode t) (ftzOn t) (narrows (fmtOf src) (fmtOf dst) && saturates t dst sat) x

/-- One element as a lane's result, counted. -/
def FRes.counted (r : FRes) : LaneRes := packed 32 [r]

def execCvtfi (d : BitVec 7) (a : BitVec 7) (sc : BitVec 7) (s : State) : Res := issue .laneTag (usesCvtfi d a sc) s fun t =>
  fpTagged t d.toNat (8 + sc.toNat / 4 % 8) fun l => floatToInt t sc.toNat (t.v a.toNat l)

def execCvtif (d : BitVec 7) (a : BitVec 7) (sc : BitVec 7) (s : State) : Res := issue .laneTag (usesCvtif d a sc) s fun t =>
  fpTagged t d.toNat (sc.toNat / 8 % 4) fun l => (intToFloat t sc.toNat (t.v a.toNat l)).counted

def execCvtff (d : BitVec 7) (a : BitVec 7) (sc : BitVec 7) (s : State) : Res := issue .laneTag (usesCvtff d a sc) s fun t =>
  let k := sc.toNat
  fpTagged t d.toNat (k / 8 % 8) fun l => (floatToFloat t (k % 8) (k / 8 % 8) (bit k 6) (t.v a.toNat l).toNat).counted

def execCvtpk (d : BitVec 7) (a : BitVec 7) (sc : BitVec 7) (s : State) : Res := issue .laneTag (usesCvtpk d a sc) s fun t =>
  let k := sc.toNat % 8
  let n := packCount k
  fpTagged t d.toNat k fun l => packed (32 / n) ((List.range n).map fun i =>
    floatToFloat t 0 k (bit sc.toNat 3) (t.v (a.toNat + i) l).toNat)

def execCvtup (d : BitVec 7) (a : BitVec 7) (sc : BitVec 7) (s : State) : Res := issue .lane (usesCvtup d a sc) s fun t =>
  let k := sc.toNat % 8
  let n := packCount k
  fpLanes t d.toNat n 0 fun l => spread ((List.range n).map fun i =>
    convert (fmtOf k) fp32 0 (ftzOn t) false ((t.v a.toNat l).toNat / 2 ^ (32 / n * i) % 2 ^ (32 / n)))

/-! ### MX helpers (R214, R215) -/

/-- The elements of a block after FTZ; lanes not enabled enter as 0 (R214). -/
def blockElements (t : State) (a : Nat) : List Num :=
  (List.range 32).map fun l => if t.sq.cur.enabled.getLsbD l then f32 t (t.v a l) else .fin false 0 0

/-- ⌊log2 |x|⌋ of a finite value that is not 0. -/
def floorLog2 (m : Nat) (e : Int) : Int := e + (Nat.log2 m : Int)

/-- The scale of a block of values (R214). -/
def mxScale (emax : Int) (xs : List Num) : Nat :=
  if xs.any fun x => x.isNan || x.isInf then 0xFF
  else
    let tops := xs.filterMap fun x => match x with
      | .fin _ m e => if m = 0 then none else some (floorLog2 m e)
      | _ => none
    match tops with
    | [] => 0x7F
    | k :: ks => (satInt (ks.foldl (fun x y => if x < y then y else x) k - emax + 127) 0 254).toNat

/-- The largest exponent of an element format (R214). -/
def mxEmax (fm : BitVec 1) : Int := if fm == 1 then 2 else 0

/-- One MXINT8 element under scale X (R215, R262): its code, and what it counts. -/
def mxInt8 (X : Nat) (x : Num) : Nat × Nat × Nat × Nat :=
  match x with
  | .fin n m e =>
    if X = 0xFF then (0, 0, 0, 1)
    else
      let (v, _) := toInteger 0 n m (e + 133 - X)
      let c := satInt v (-128) 127
      ((BitVec.ofInt 8 c).toNat, b2n (c != v), b2n (m != 0 && c == 0), 0)
  | _ => (0, 0, 0, 1)

/-- One MXFP4 element under scale X (R215): its code, and what it counts. -/
def mxFp4 (X : Nat) (x : Num) : Nat × Nat × Nat × Nat :=
  match x with
  | .fin n m e =>
    if X = 0xFF then (0, 0, 0, 1)
    else
      let r := e2m1.finite 0 false true n m (e + 127 - X) false
      (r.bits, b2n r.sat, b2n r.flush, 0)
  | _ => (0, 0, 0, 1)

/-- A quantised element as a lane's result (R215): it raises nothing. -/
def mxLane (fm : BitVec 1) (X : Nat) (x : Num) : LaneRes :=
  let (c, sat, flush, nan) := if fm == 1 then mxFp4 X x else mxInt8 X x
  { words := [BitVec.ofNat 32 (c + X * 256)], fx := 0, sat := sat, flush := flush, nan := nan }

def execMxscale (d : BitVec 7) (a : BitVec 7) (fm : BitVec 1) (s : State) : Res := issue .lane (usesMxscale d a) s fun t =>
  let X := BitVec.ofNat 32 (mxScale (mxEmax fm) (blockElements t a.toNat))
  .done (t.putV d.toNat fun _ => X)

def execMxq (d : BitVec 7) (a : BitVec 7) (fm : BitVec 1) (s : State) : Res := issue .laneTag (usesMxq d a) s fun t =>
  let X := mxScale (mxEmax fm) (blockElements t a.toNat)
  fpTagged t d.toNat 0 fun l => mxLane fm X (f32 t (t.v a.toNat l))

end Sys2Proof.Machine
end

