-- ==== Sys2Proof/Machine/CrossLane.lean ====
section
/-! DEFINITION. Cross-lane operations (R216 to R219). -/

namespace Sys2Proof.Machine

/-- A shuffle (R216): every read before every write. A marked source lane is read whether or not it is enabled (R225). -/
def shuffle (t : State) (d a : Nat) (src : Nat → Nat) : Eff :=
  let from_ := maskOf ((laneList t.sq.cur.enabled).map src)
  match markFault (poisonedV t.sq [a] from_) with
  | some f => .fault f
  | none => .done (t.putV d fun l => t.v a (src l))

/-- A shuffle by a scalar distance: 0x41 when it reaches WIDTH (R216). -/
def shuffleBy (t : State) (d a b : Nat) (src : Nat → Nat → Nat) : Eff :=
  let k := (t.x b).toNat
  if 32 ≤ k then .fault { cause := 0x41, lanes := t.sq.cur.enabled }
  else shuffle t d a (src k)

/-- A value with the exceptions raised on the way to it. -/
structure Contrib where
  x  : Word
  fx : Fx
  deriving DecidableEq, Repr

/-- One step of a combining operation (R217). -/
def combine (t : State) (o : Nat) (p q : Contrib) : Contrib :=
  let int (w : Word) : Contrib := ⟨w, p.fx ||| q.fx⟩
  let flt (r : FRes) : Contrib := ⟨BitVec.ofNat 32 r.bits, p.fx ||| q.fx ||| r.fx⟩
  match o with
  | 0 => int (p.x + q.x)
  | 1 => int (p.x &&& q.x)
  | 2 => int (p.x ||| q.x)
  | 3 => int (p.x ^^^ q.x)
  | 4 => int (minI p.x q.x)
  | 5 => int (maxI p.x q.x)
  | 6 => int (minN p.x q.x)
  | 7 => int (maxN p.x q.x)
  | 8 => flt (fadd2 t p.x q.x)
  | 9 => flt (fmin2 t false p.x q.x)
  | _ => flt (fmin2 t true p.x q.x)

/-- The identity of a combining operation (R217). -/
def identityOf (o : Nat) : Word :=
  match o with
  | 1 => 0xFFFFFFFF
  | 4 => 0x7FFFFFFF
  | 5 => 0x80000000
  | 6 => 0xFFFFFFFF
  | 8 => 0x80000000
  | 9 => 0x7FC00000
  | 10 => 0x7FC00000
  | _ => 0

/-- The 32 values that enter (R217). -/
def entering (t : State) (a o : Nat) : List Contrib :=
  (List.range 32).map fun l => ⟨if t.sq.cur.enabled.getLsbD l then t.v a l else identityOf o, 0⟩

/-- Entry l of the values. -/
def partAt (xs : List Contrib) (l : Nat) : Contrib := xs.getD l ⟨0, 0⟩

/-- The butterfly (R75): every lane ends with the same result. -/
def butterfly (op : Contrib → Contrib → Contrib) (xs : List Contrib) : List Contrib :=
  [16, 8, 4, 2, 1].foldl (fun xs d => (List.range 32).map fun l =>
    let k := if l / d % 2 = 0 then l else l - d
    op (partAt xs k) (partAt xs (k + d))) xs

/-- The inclusive prefixes (R75). -/
def prefixes (op : Contrib → Contrib → Contrib) (xs : List Contrib) : List Contrib :=
  [1, 2, 4, 8, 16].foldl (fun xs d => (List.range 32).map fun l =>
    if d ≤ l then op (partAt xs (l - d)) (partAt xs l) else partAt xs l) xs

/-- The sequential sum of version 1 (R76). -/
def inOrder (op : Contrib → Contrib → Contrib) (xs : List Contrib) : List Contrib :=
  let r := (xs.drop 1).foldl op (partAt xs 0)
  List.replicate 32 r

/-- The results of redsq or scan to the enabled lanes: an exception raised at any step is raised by every enabled lane (R217). -/
def putCombined (t : State) (d : Nat) (rs : List Contrib) : Eff :=
  let fx := rs.foldl (fun x p => x ||| p.fx) 0
  fpLanes t d 1 0 fun l => ⟨[(partAt rs l).x], fx, 0, 0, 0⟩

/-- The lanes whose predicate is true among the enabled ones (R218). -/
def voters (t : State) (a : BitVec 3) (n : BitVec 1) : Mask := predSource t a n &&& t.sq.cur.enabled

/-- A vote written to a predicate in the enabled lanes (R218). -/
def putVote (t : State) (d : Nat) (b : Bool) : Eff := .done (t.setP d t.sq.cur.enabled (if b then allLanes else 0))

/-- The enabled lanes whose a equals lane l's (R219). -/
def matching (t : State) (a l : Nat) : List Nat := (laneList t.sq.cur.enabled).filter fun m => t.v a m == t.v a l

def execShflIdx (d : BitVec 7) (a : BitVec 7) (b : BitVec 7) (s : State) : Res := issue .lane (usesShflIdx d a b) s fun t =>
  shuffle t d.toNat a.toNat fun l => (t.v b.toNat l).toNat % 32

def execShflXor (d : BitVec 7) (a : BitVec 7) (b : BitVec 7) (s : State) : Res := issue .lane (usesShflXor d a b) s fun t =>
  shuffleBy t d.toNat a.toNat b.toNat fun k l => l ^^^ k

def execShflUp (d : BitVec 7) (a : BitVec 7) (b : BitVec 7) (s : State) : Res := issue .lane (usesShflUp d a b) s fun t =>
  shuffleBy t d.toNat a.toNat b.toNat fun k l => if l < k then l else l - k

def execShflDn (d : BitVec 7) (a : BitVec 7) (b : BitVec 7) (s : State) : Res := issue .lane (usesShflDn d a b) s fun t =>
  shuffleBy t d.toNat a.toNat b.toNat fun k l => if 32 ≤ l + k then l else l + k

def execRedsq (d : BitVec 7) (a : BitVec 7) (o : BitVec 7) (s : State) : Res := issue .lane (usesRedsq d a o) s fun t =>
  let op := combine t o.toNat
  let xs := entering t a.toNat o.toNat
  putCombined t d.toNat (if o.toNat = 8 && t.nbv == 1 then inOrder op xs else butterfly op xs)

def execScan (d : BitVec 7) (a : BitVec 7) (o : BitVec 7) (s : State) : Res := issue .lane (usesScan d a o) s fun t =>
  putCombined t d.toNat (prefixes (combine t o.toNat) (entering t a.toNat o.toNat))

def execVoteBallot (d : BitVec 7) (a : BitVec 3) (n : BitVec 1) (s : State) : Res := issue .lane (usesVoteBallot d) s fun t =>
  .done (t.setX d.toNat ((voters t a n).zeroExtend 64))

def execVoteBallotHi (d : BitVec 7) (_ : BitVec 3) (_ : BitVec 1) (s : State) : Res := issue .lane (usesVoteBallotHi d) s fun t =>
  .done (t.setX d.toNat 0)

def execVoteAll (d : BitVec 3) (a : BitVec 3) (n : BitVec 1) (s : State) : Res := issue .lane .none s fun t =>
  putVote t d.toNat (voters t a n == t.sq.cur.enabled)

def execVoteAny (d : BitVec 3) (a : BitVec 3) (n : BitVec 1) (s : State) : Res := issue .lane .none s fun t =>
  putVote t d.toNat (voters t a n != 0)

def execVoteUni (d : BitVec 3) (a : BitVec 3) (n : BitVec 1) (s : State) : Res := issue .lane .none s fun t =>
  putVote t d.toNat (voters t a n == 0 || voters t a n == t.sq.cur.enabled)

def execMatchAny (d : BitVec 7) (a : BitVec 7) (s : State) : Res := issue .lane (usesMatchAny d a) s fun t =>
  .done (t.putV d.toNat fun l => maskOf (matching t a.toNat l))

def execMatchFirst (d : BitVec 7) (a : BitVec 7) (s : State) : Res := issue .lane (usesMatchFirst d a) s fun t =>
  .done (t.putV d.toNat fun l => BitVec.ofNat 32 ((matching t a.toNat l).headD 0))

end Sys2Proof.Machine
end

