-- ==== Sys2Proof/Machine/Address.lean ====
section
/-! DEFINITION. The accesses of memory instructions at issue: addresses and their checks (R82, R83, R221), race watch (R135,
R136), `.last` marks (R87, R88), and the operation that the instruction leaves outstanding (R61, R224). -/

namespace Sys2Proof.Machine

/-! ### Widths (R155, R222) -/

/-- Bytes of an access by its width field. -/
def accessBytes (w : Nat) : Nat :=
  if w < 2 then 1 else if w < 4 then 2 else if w = 4 then 4 else if w = 5 then 8 else 16

/-- 32-bit registers of a width. -/
def accessRegs (w : Nat) : Nat := if w = 5 then 2 else if w = 6 then 4 else 1

/-- The registers from v[d] of a lane as one little-endian value. -/
def laneData (s : State) (d k l : Nat) : Nat :=
  (List.range k).foldr (fun i x => (s.v (d + i) l).toNat + 4294967296 * x) 0

/-! ### Race watch -/

/-- Is race watch set by the grid's launch (R135, R338)? -/
def raceWatched (s : State) : Bool := (s.myGrid.map fun g => bit g.r.flags 4).getD false

/-- The conflicting sector of an access to bytes o to o + n − 1 of a crew's scratchpad, and its record (R136). -/
def raceConflict (s : State) (c : Crew) (o n : Nat) (strong : Bool) : Option RaceSector :=
  if !raceWatched s then none
  else
    let rank := (s.myCrew.map (·.rank)).getD 0
    (sectorsOf o n).findSome? fun sec => c.race.find? fun r =>
      r.sector == sec && !(r.squad == s.sq.ident.squad && r.rank == rank) && r.gen == c.gen && !(strong && r.strong)

/-- The fault of a conflict: its record names the sector offset and the other squad (R136; log 18). -/
def raceFault (r : RaceSector) (lanes : Mask) (aux : Nat) : FaultInfo :=
  { cause := 0x48, lanes := lanes, addr := r.sector * 64 + (r.squad + 256 * r.rank) * 4294967296, aux := aux }

/-- Record the writes of the squad to bytes of a crew's scratchpad (R136). -/
def raceWrite (s : State) (crew o n : Nat) (strong : Bool) : State :=
  if !raceWatched s then s
  else match s.crew? crew with
    | none => s
    | some c =>
      let rank := (s.myCrew.map (·.rank)).getD 0
      let secs := sectorsOf o n
      s.setCrew { c with race := secs.map (fun sec => ⟨sec, s.sq.ident.squad, rank, c.gen, strong⟩)
                                  ++ c.race.filter fun r => !secs.contains r.sector }

/-! ### Addresses -/

/-- The global address of a lane (R82). -/
def globalVa (s : State) (a b l : Nat) : Nat :=
  if b < 64 then (s.x b + (s.v a l).signExtend 64).toNat else (s.pair a l).toNat

/-- The scratchpad offset of a lane (R83). -/
def scratchOffset (s : State) (a b l : Nat) : Nat := (s.x b + (s.v a l).signExtend 64).toNat

/-- What a lane's access asks for. -/
structure Want where
  n      : Nat          -- bytes
  need   : Need
  aux    : Nat          -- bits of a fault record (R372)
  store  : Bool := false
  strong : Bool := false
  atomic : Bool := false
  deriving DecidableEq, Repr

/-- Check one global access (R82, R99, R363): the key of its first byte, or the fault. An atomic meets the filter of an armed
window when it completes (R232). -/
def reachGlobal (s : State) (w : Want) (va : Nat) (lanes : Mask) : State × (Nat ⊕ FaultInfo) :=
  let q := s.sq
  if addressTop s ≤ va then (s, .inr { cause := 0x45, detail := 4, lanes := lanes, addr := va, aux := w.aux })
  else if va % w.n != 0 then (s, .inr { cause := 0x43, lanes := lanes, addr := va, aux := w.aux })
  else match resolve s q.ident.priv q.ident.core q.ident.ctx va w.need with
    | (t, .inr f) => (t, .inr (trFault f lanes va w.aux))
    | (t, .inl k) =>
      if !w.atomic && filtered t va (canon t k) w.n w.store w.strong (peerOfKey k) then
        (t, .inr { cause := 0x46, lanes := lanes, addr := va, aux := w.aux })
      else (t, .inl k)

/-- Bytes of a crew's scratchpad (R83). -/
def Crew.spadBytes (c : Crew) : Nat := c.storage.length * 65536

/-- The key of a scratchpad byte. -/
def Crew.spadKey (c : Crew) (o : Nat) : Nat := bankKey (c.storage.getD (o / 65536) 0) (o % 65536)

/-- Check one scratchpad access of a crew, if there is one (R83, R136). Without a peer, as in a team of one, `ldt` and `stt` raise
0x45 (R27), with the detail of the scratchpad bound (DESIGN CHOICE, log 87). -/
def reachScratch (s : State) (c : Option Crew) (w : Want) (o : Nat) (lanes : Mask) : State × (Nat ⊕ FaultInfo) :=
  match c with
  | none => (s, .inr { cause := 0x45, detail := 4, lanes := lanes, addr := o, aux := w.aux })
  | some c =>
    if c.spadBytes ≤ o then (s, .inr { cause := 0x45, detail := 4, lanes := lanes, addr := o, aux := w.aux })
    else if o % w.n != 0 then (s, .inr { cause := 0x43, lanes := lanes, addr := o, aux := w.aux })
    else match raceConflict s c o w.n w.strong with
      | some r => (s, .inr (raceFault r lanes w.aux))
      | none => (s, .inl (c.spadKey o))

/-- The peer crew of a team of two (R83). -/
def State.peerCrew (s : State) : Option Crew :=
  match s.myCrew with
  | none => none
  | some c => if c.peer = 0 then none else s.crew? c.peer

/-- The crew whose scratchpad a space names. -/
def crewOf (s : State) (sp : Space) : Option Crew :=
  match sp with
  | .peer => s.peerCrew
  | _ => s.myCrew

/-- Check the access of one lane in a space. -/
def reach (s : State) (sp : Space) (w : Want) (va : Nat) (lanes : Mask) : State × (Nat ⊕ FaultInfo) :=
  match sp with
  | .global => reachGlobal s w va lanes
  | .scratch => reachScratch s (crewOf s .scratch) w va lanes
  | .peer => reachScratch s (crewOf s .peer) w va lanes

/-- The accesses of an instruction, lane by lane (R223): each lane's address, and its data. -/
def gather (s : State) (sp : Space) (w : Want) (ls : List Nat) (va : Nat → Nat) (x y : Nat → Nat) :
    State × List Access × List FaultInfo :=
  ls.foldl (fun (st : State × List Access × List FaultInfo) l =>
    match reach st.1 sp w (va l) (maskOf [l]) with
    | (t, .inl k) => (t, st.2.1 ++ [⟨l, va l, canon t k, w.n, x l, y l, peerOfKey k⟩], st.2.2)
    | (t, .inr f) => (t, st.2.1, st.2.2 ++ [f])) (s, [], [])

/-- Go on when every lane's access passed its checks; else the fault with the lowest cause (R82, R221), or the stall of a walk that
waits. -/
def orFault (r : State × List Access × List FaultInfo) (k : State → List Access → Eff) : Eff :=
  match lowestFault r.2.2 with
  | some f => f.orStall r.1
  | none => k r.1 r.2.1

/-- Record the writes of scratchpad accesses for race watch. -/
def raceWrites (s : State) (sp : Space) (va : List (Nat × Nat)) (strong : Bool) : State :=
  if sp == .global then s
  else match crewOf s sp with
    | none => s
    | some c => va.foldl (fun t a => raceWrite t c.id a.1 a.2 strong) s

/-! ### `.last` marks -/

/-- The mark of the sequence's ext (R87): queue and handle register. -/
def lastMark (c : Cursor) : Option (Nat × Nat) := c.ext.map fun e => (e.toNat % 16, e.toNat / 16 % 128)

/-- Crew queues of the crew of the squad that runs (R338, R424). -/
def queueCount (s : State) : Nat := (s.myGrid.map (·.r.queues)).getD 16

/-- Is a handle one that R88 accepts, for a crew with n storage sectors (R86, R88)? -/
def handleOk (h : Word) (sectors : Nat) : Bool :=
  let off := h.toNat % 32768
  let len := h.toNat / 32768 % 32768
  h.toNat / 1073741824 == 0 && len != 0 && off + len ≤ sectors

/-- The check of a mark at issue (R88), then the rest with its queue and handle. The handle register is read like any scalar
source (R169, R225). -/
def withLast (s : State) (k : Option (Nat × Word) → Eff) : Eff :=
  match lastMark s.sq.cur with
  | none => k none
  | some (queue, reg) =>
    let h : Word := (s.x reg).truncate 32
    let sectors := (s.myCrew.map fun c => c.storage.length * 1024).getD 0
    if interlocked s.sq { vr := [], vw := [], sr := [reg], sw := [], ok := true } then .stall
    else match s.sq.poisonS.find? fun t => t.1 == reg with
      | some t => .fault { cause := 0x4A, lanes := s.sq.cur.enabled, addr := t.2, aux := 1 }
      | none =>
        if !handleOk h sectors then .fault { cause := 0x41, lanes := s.sq.cur.enabled }
        else if queueCount s ≤ queue then .fault { cause := 0x4B, lanes := s.sq.cur.enabled }
        else k (some (queue, h))

/-! ### Outstanding operations -/

/-- The order and scope of the sequence's ord, or the given ones (R113, R114). -/
def orderOf (s : State) (dflt : Nat × Nat) : Nat × Nat := s.sq.cur.ord.getD dflt

/-- Is the sequence's access strong (R114)? -/
def ordered (s : State) : Bool := s.sq.cur.ord.isSome

/-- An operation of the squad becomes outstanding (R61, R224). -/
def pushOp (s : State) (cls : OpClass) (act : Act) (mask : Mask) (order : Nat × Nat) (strong : Bool)
    (last : Option (Nat × Word)) (tag token : Nat) (wrote : List (Nat × Nat)) : State :=
  let (k, s) := s.fresh
  s.onSq fun q => { q with ops := q.ops ++ [{
    id := k, cls := cls, act := act, mask := mask, active := q.cur.active, pc := q.cur.first, mode := q.mode, order := order.1,
    scope := order.2, strong := strong, last := last, tag := tag, token := token, done := false, err := none, stamp := 0,
    pos := 0, detail := 0, wrote := wrote, page := none, slots := [] }] }

/-- A vector load (R222, R223). -/
def issueLoad (s : State) (sp : Space) (w d : Nat) (va : Nat → Nat) (last : Option (Nat × Word)) : Eff :=
  let n := accessBytes w
  orFault (gather s sp ⟨n, needR, 1, false, ordered s, false⟩ (laneList s.sq.cur.enabled) va (fun _ => 0) (fun _ => 0))
    fun t acc => .done (pushOp t .ld (.load sp w d false acc) t.sq.cur.enabled (orderOf t (0, 0)) (ordered t) last 0 0 [])

/-- A vector store (R222, R223). -/
def issueStore (s : State) (sp : Space) (w d : Nat) (va : Nat → Nat) : Eff :=
  let n := accessBytes w
  let ls := laneList s.sq.cur.enabled
  orFault (gather s sp ⟨n, needW, 2, true, ordered s, false⟩ ls va
      (fun l => laneData s d (accessRegs w) l % 256 ^ n) (fun _ => 0))
    fun t acc => .done (pushOp (raceWrites t sp (acc.map fun a => (a.va, a.n)) (ordered t)) .st (.store sp acc)
      t.sq.cur.enabled (orderOf t (0, 0)) (ordered t) none 0 0 [])

/-- The lane that stands for a scalar access of the group (R116). -/
def leader (s : State) : List Nat := (laneList s.sq.cur.active).take 1

/-- The faults of a scalar access name the whole group. -/
def groupFaults (r : State × List Access × List FaultInfo) : State × List Access × List FaultInfo :=
  (r.1, r.2.1, r.2.2.map fun f => { f with lanes := r.1.sq.cur.active })

/-- A scalar load (R222). -/
def issueScalarLoad (s : State) (w d va : Nat) : Eff :=
  orFault (groupFaults (gather s .global ⟨accessBytes w, needR, 1, false, ordered s, false⟩ (leader s) (fun _ => va)
      (fun _ => 0) (fun _ => 0)))
    fun t acc => .done (pushOp t .ld (.load .global w d true acc) t.sq.cur.active (orderOf t (0, 0)) (ordered t) none 0 0 [])

/-- A scalar store (R222). -/
def issueScalarStore (s : State) (w d va : Nat) : Eff :=
  let n := accessBytes w
  orFault (groupFaults (gather s .global ⟨n, needW, 2, true, ordered s, false⟩ (leader s) (fun _ => va)
      (fun _ => (s.x d).toNat % 256 ^ n) (fun _ => 0)))
    fun t acc => .done (pushOp t .st (.store .global acc) t.sq.cur.active (orderOf t (0, 0)) (ordered t) none 0 0 [])

/-! ### Atomics -/

/-- The operation of a SUB in the atom set (R228). -/
def atomSet (f : Nat) : AtomOp :=
  match f with
  | 0 => .add | 1 => .minI | 2 => .maxI | 3 => .minN | 4 => .maxN | 5 => .and | 6 => .or | _ => .xor

/-- The operation of a SUB in the atom2 set, and the bytes of its location (R228). -/
def atom2Set (f : Nat) : AtomOp × Nat :=
  match f with
  | 0 => (.exch, 4) | 1 => (.cas, 4) | 2 => (.fadd, 4) | 3 => (.fmin, 4) | 4 => (.fmax, 4) | 5 => (.add, 8)
  | 6 => (.exch, 8) | _ => (.cas, 8)

/-- The operation and size that a SUB names. -/
def atomOf (x2 : Bool) (f : Nat) : AtomOp × Nat := if x2 then atom2Set f else (atomSet f, 4)

/-- A vector atomic (R156, R228, R229): operand v[D], or the pair; a compare-and-swap has its replacement above it. -/
def issueAtomic (s : State) (sp : Space) (op : AtomOp) (n d : Nat) (va : Nat → Nat) : Eff :=
  let k := n / 4
  orFault (gather s sp ⟨n, needRW, 3, true, true, true⟩ (laneList s.sq.cur.enabled) va (fun l => laneData s d k l)
      (fun l => laneData s (d + k) k l))
    fun t acc => .done (pushOp (raceWrites t sp (acc.map fun a => (a.va, a.n)) true) .ld (.atomic sp op d false acc)
      t.sq.cur.enabled (orderOf t (0, 4)) true none 0 0 [])

/-- The operands of a scalar atomic (R231). -/
def satomOperands (s : State) (op : AtomOp) (n d : Nat) : Nat × Nat :=
  let x := (s.x d).toNat
  if op == .cas then (if n = 8 then (x, (s.x (d + 1)).toNat) else (x % 4294967296, x / 4294967296))
  else (x % 256 ^ n, 0)

/-- A scalar atomic (R231). -/
def issueScalarAtomic (s : State) (op : AtomOp) (n d va : Nat) : Eff :=
  let (x, y) := satomOperands s op n d
  orFault (groupFaults (gather s .global ⟨n, needRW, 3, true, true, true⟩ (leader s) (fun _ => va) (fun _ => x) (fun _ => y)))
    fun t acc => .done (pushOp t .ld (.atomic .global op d true acc) t.sq.cur.active (orderOf t (0, 4)) true none 0 0 [])

end Sys2Proof.Machine
end

