-- ==== Sys2Proof/Machine/MemInstr.lean ====
section
/-! DEFINITION. Loads, stores and atomics (R222 to R232), and `pref` (R234). -/

namespace Sys2Proof.Machine

def execLd (w : BitVec 3) (d : BitVec 7) (a : BitVec 7) (b : BitVec 7) (s : State) : Res := issue .load (usesLd w d a b) s fun t =>
  issueLoad t .global w.toNat d.toNat (globalVa t a.toNat b.toNat) none

def execSt (w : BitVec 3) (d : BitVec 7) (a : BitVec 7) (b : BitVec 7) (s : State) : Res := issue .store (usesSt w d a b) s fun t =>
  issueStore t .global w.toNat d.toNat (globalVa t a.toNat b.toNat)

def execLds (w : BitVec 3) (d : BitVec 7) (a : BitVec 7) (b : BitVec 7) (s : State) : Res := issue .loadLast (usesLds w d a b) s fun t =>
  withLast t fun last => issueLoad t .scratch w.toNat d.toNat (scratchOffset t a.toNat b.toNat) last

def execSts (w : BitVec 3) (d : BitVec 7) (a : BitVec 7) (b : BitVec 7) (s : State) : Res := issue .store (usesSts w d a b) s fun t =>
  issueStore t .scratch w.toNat d.toNat (scratchOffset t a.toNat b.toNat)

def execLdt (w : BitVec 3) (d : BitVec 7) (a : BitVec 7) (b : BitVec 7) (s : State) : Res := issue .load (usesLdt w d a b) s fun t =>
  issueLoad t .peer w.toNat d.toNat (scratchOffset t a.toNat b.toNat) none

def execStt (w : BitVec 3) (d : BitVec 7) (a : BitVec 7) (b : BitVec 7) (s : State) : Res := issue .store (usesStt w d a b) s fun t =>
  issueStore t .peer w.toNat d.toNat (scratchOffset t a.toNat b.toNat)

def execSld (w : BitVec 3) (d : BitVec 7) (a : BitVec 7) (b : BitVec 7) (s : State) : Res := issue .sload (usesSld w d a b) s fun t =>
  issueScalarLoad t w.toNat d.toNat ((t.x b.toNat + t.x a.toNat).toNat)

def execSst (w : BitVec 3) (d : BitVec 7) (a : BitVec 7) (b : BitVec 7) (s : State) : Res := issue .sstore (usesSst w d a b) s fun t =>
  issueScalarStore t w.toNat d.toNat ((t.x b.toNat + t.x a.toNat).toNat)

/-! ### Atomics (R228 to R231) -/

def execAtomAdd (d : BitVec 7) (a : BitVec 7) (b : BitVec 7) (s : State) : Res := issue .atomic (usesAtomAdd d a b) s fun t =>
  issueAtomic t .global .add 4 d.toNat (globalVa t a.toNat b.toNat)

def execAtomMinI32 (d : BitVec 7) (a : BitVec 7) (b : BitVec 7) (s : State) : Res := issue .atomic (usesAtomMinI32 d a b) s fun t =>
  issueAtomic t .global .minI 4 d.toNat (globalVa t a.toNat b.toNat)

def execAtomMaxI32 (d : BitVec 7) (a : BitVec 7) (b : BitVec 7) (s : State) : Res := issue .atomic (usesAtomMaxI32 d a b) s fun t =>
  issueAtomic t .global .maxI 4 d.toNat (globalVa t a.toNat b.toNat)

def execAtomMinN32 (d : BitVec 7) (a : BitVec 7) (b : BitVec 7) (s : State) : Res := issue .atomic (usesAtomMinN32 d a b) s fun t =>
  issueAtomic t .global .minN 4 d.toNat (globalVa t a.toNat b.toNat)

def execAtomMaxN32 (d : BitVec 7) (a : BitVec 7) (b : BitVec 7) (s : State) : Res := issue .atomic (usesAtomMaxN32 d a b) s fun t =>
  issueAtomic t .global .maxN 4 d.toNat (globalVa t a.toNat b.toNat)

def execAtomAnd (d : BitVec 7) (a : BitVec 7) (b : BitVec 7) (s : State) : Res := issue .atomic (usesAtomAnd d a b) s fun t =>
  issueAtomic t .global .and 4 d.toNat (globalVa t a.toNat b.toNat)

def execAtomOr (d : BitVec 7) (a : BitVec 7) (b : BitVec 7) (s : State) : Res := issue .atomic (usesAtomOr d a b) s fun t =>
  issueAtomic t .global .or 4 d.toNat (globalVa t a.toNat b.toNat)

def execAtomXor (d : BitVec 7) (a : BitVec 7) (b : BitVec 7) (s : State) : Res := issue .atomic (usesAtomXor d a b) s fun t =>
  issueAtomic t .global .xor 4 d.toNat (globalVa t a.toNat b.toNat)

def execAtom2Exch (d : BitVec 7) (a : BitVec 7) (b : BitVec 7) (s : State) : Res := issue .atomic (usesAtom2Exch d a b) s fun t =>
  issueAtomic t .global .exch 4 d.toNat (globalVa t a.toNat b.toNat)

def execAtom2Cas (d : BitVec 7) (a : BitVec 7) (b : BitVec 7) (s : State) : Res := issue .atomic (usesAtom2Cas d a b) s fun t =>
  issueAtomic t .global .cas 4 d.toNat (globalVa t a.toNat b.toNat)

def execAtom2FaddF32 (d : BitVec 7) (a : BitVec 7) (b : BitVec 7) (s : State) : Res := issue .atomic (usesAtom2FaddF32 d a b) s fun t =>
  issueAtomic t .global .fadd 4 d.toNat (globalVa t a.toNat b.toNat)

def execAtom2FminF32 (d : BitVec 7) (a : BitVec 7) (b : BitVec 7) (s : State) : Res := issue .atomic (usesAtom2FminF32 d a b) s fun t =>
  issueAtomic t .global .fmin 4 d.toNat (globalVa t a.toNat b.toNat)

def execAtom2FmaxF32 (d : BitVec 7) (a : BitVec 7) (b : BitVec 7) (s : State) : Res := issue .atomic (usesAtom2FmaxF32 d a b) s fun t =>
  issueAtomic t .global .fmax 4 d.toNat (globalVa t a.toNat b.toNat)

def execAtom2AddI64 (d : BitVec 7) (a : BitVec 7) (b : BitVec 7) (s : State) : Res := issue .atomic (usesAtom2AddI64 d a b) s fun t =>
  issueAtomic t .global .add 8 d.toNat (globalVa t a.toNat b.toNat)

def execAtom2ExchB64 (d : BitVec 7) (a : BitVec 7) (b : BitVec 7) (s : State) : Res := issue .atomic (usesAtom2ExchB64 d a b) s fun t =>
  issueAtomic t .global .exch 8 d.toNat (globalVa t a.toNat b.toNat)

def execAtom2CasB64 (d : BitVec 7) (a : BitVec 7) (b : BitVec 7) (s : State) : Res := issue .atomic (usesAtom2CasB64 d a b) s fun t =>
  issueAtomic t .global .cas 8 d.toNat (globalVa t a.toNat b.toNat)

def execAtoms (fm : BitVec 3) (d : BitVec 7) (a : BitVec 7) (b : BitVec 7) (s : State) : Res := issue .atomicS (usesAtoms (extSet s.sq.cur) fm d a b) s fun t =>
  let o := atomOf (extSet t.sq.cur) fm.toNat
  issueAtomic t .scratch o.1 o.2 d.toNat (scratchOffset t a.toNat b.toNat)

/-- `satom` reaches global memory alone (R228), although R81 and R246 name it beside the scratchpad (DEDUCED, log 90). -/
def execSatom (fm : BitVec 3) (d : BitVec 7) (a : BitVec 7) (b : BitVec 7) (s : State) : Res := issue .satomic (usesSatom (extSet s.sq.cur) fm d a b) s fun t =>
  let o := atomOf (extSet t.sq.cur) fm.toNat
  issueScalarAtomic t o.1 o.2 d.toNat ((t.x b.toNat + t.x a.toNat).toNat)

/-! ### Prefetch (R234) -/

/-- A prefetch dropped by armed windows: the count of each whose filter it met rises (R99). -/
def countDropped (s : State) (ctx va key : Nat) : State :=
  let hit (own : Bool) (w : ArrWindow) : Bool :=
    w.armed && ((own && w.backing ≤ va && va < w.backing + 12582912 * w.slices.length) || w.keys.any fun k => k.1 ≤ key && key < k.1 + k.2)
  { s with ctxs := Vector.ofFn fun c : Fin 64 =>
      let x := s.ctx c
      { x with wins := x.wins.map fun w => if hit (decide (c.val = ctx)) w then { w with dropped := satTo 0xFFFFFFFF (w.dropped + 1) } else w } }

/-- One lane's prefetch: dropped when it cannot translate, falls in an armed range, or finds no way open (log 79). -/
def prefetch (s : State) (llc : Bool) (va : Nat) : State :=
  let q := s.sq
  match resolve s q.ident.priv q.ident.core q.ident.ctx va needLeaf with
  | (_, .inr _) => s
  | (t, .inl k) =>
    let key := canon t k
    if inBacking t q.ident.ctx va key 1 then countDropped t q.ident.ctx va key
    else if toControl t key || openWay t q.ident.core key (peerOfKey k) != .clear then t
    else if llc || goesHome false key (peerOfKey k) then llcFill (reachLine t (key / 512 * 512)) q.ident.ctx key
    else l1Fill t q.ident.core q.ident.ctx key

def execPref (l : BitVec 1) (a : BitVec 7) (b : BitVec 7) (s : State) : Res := issue .pref (usesPref a b) s fun t =>
  let ls := laneList t.sq.cur.enabled
  let va := globalVa t a.toNat b.toNat
  let bad := ls.filter fun n => addressTop t ≤ va n
  if bad.isEmpty then .done (ls.foldl (fun u n => prefetch u (l == 1) (va n)) t)
  else .fault { cause := 0x45, detail := 4, lanes := maskOf bad, addr := va (bad.headD 0), aux := 1 }

end Sys2Proof.Machine
end

