-- ==== Sys2Proof/Machine/Complete.lean ====
section
/-! DEFINITION. How outstanding loads, stores and atomics complete and retire (R61, R62, R87 to R89, R117, R121, R224 to R232):
which may complete next, what they do to memory and registers, and the pushes of their marks. -/

namespace Sys2Proof.Machine

/-! ### Order of completion -/

/-- Is a global access of this strength and scope performed at the home (R94)? -/
def atHome (s : State) (strong : Bool) (scope : Nat) : Bool := strong && !inL1Scope s s.sq.ident.core scope

/-- Do two accesses touch a common byte? -/
def Access.meets (a b : Access) : Bool := a.pa < b.pa + b.n && b.pa < a.pa + a.n

/-- Must an operation wait for an older one of its squad: one that touches the same bytes (R117, R121 coherence), whichever threads
make them; and, where a thread makes both, a store behind a load (R121, load before store), a release behind every access, an
access behind an acquire (R116), and one sequentially consistent access behind another (R124)? -/
def Op.waitsFor (o p : Op) : Bool :=
  !p.done && (p.reads || p.writes)
    && ((sharesThread o.mask p.mask && ((o.writes && p.reads) || o.releases || p.acquires || (o.order == 4 && p.order == 4)))
      || o.accesses.any fun a => p.accesses.any a.meets)

/-- The operations of a squad older than one of them. -/
def olderOps (q : Squad) (id : Nat) : List Op := q.ops.takeWhile fun p => p.id != id

/-- The way of an operation's access: through its links, and to its peer (R334, R390, R400). A bank is always at hand. -/
def Op.way (s : State) (o : Op) (a : Access) : Way :=
  match o.act with
  | .load .global _ _ _ _ => accessWay s false (atHome s o.strong o.scope) a.pa a.n a.via
  | .store .global _ => accessWay s true (atHome s o.strong o.scope) a.pa a.n a.via
  | .atomic .global _ _ _ _ => accessWay s false (atHome s true o.scope) a.pa a.n a.via
  | _ => .clear

/-- The scope of an access in a space: a scratchpad is reached by its team at the widest (R115). -/
def scopeIn (sp : Space) (scope : Nat) : Nat := if sp == .global then scope else Nat.min scope 2

/-- Must the update of a release wait for a write-back that its release started and that finds no way (R126)? -/
def Op.releaseHeld (s : State) (o : Op) : Bool :=
  o.releases && match o.act with
    | .store sp _ => releaseWaits s s.sq.ident.core (scopeIn sp o.scope)
    | .atomic sp _ _ _ _ => releaseWaits s s.sq.ident.core (scopeIn sp o.scope)
    | _ => false

/-- May an operation complete now? -/
def mayComplete (s : State) (o : Op) : Bool :=
  !o.done && (olderOps s.sq o.id).all (fun p => !o.waitsFor p) && !o.releaseHeld s
    && o.accesses.all fun a => o.way s a != .wait

/-- Replace an operation of the squad that is checked out. -/
def setOp (s : State) (o : Op) : State := s.onSq fun q => { q with ops := q.ops.map fun p => if p.id == o.id then o else p }

/-- An operation is complete, with the error that it met, if any. -/
def finishOp (s : State) (o : Op) (err : Option OpError) : State := setOp s { o with done := true, err := err }

/-! ### Loads (R223 to R225) -/

/-- Bytes of an access in its space: at the home or through the L1 for global memory, in the bank otherwise. -/
def readAccess (s : State) (sp : Space) (home : Bool) (a : Access) : State × List Byte × Bool :=
  match sp with
  | .global => readPiece s home a.pa a.n a.via
  | _ => (s, memRead s.mem a.pa a.n, anyPoison s a.pa a.n)

/-- Write bytes of an access in its space; true when the home refused them (R226). -/
def writeAccess (s : State) (sp : Space) (home : Bool) (a : Access) (bs : List Byte) : State × Bool :=
  match sp with
  | .global => writePiece s home a.va a.pa bs a.via
  | _ => (rawWrite s a.pa bs, false)

/-- The first 32-bit word of a loaded value (R222). -/
def loadedWord (w x : Nat) : Word :=
  match w with
  | 0 => (BitVec.ofNat 8 x).signExtend 32
  | 2 => (BitVec.ofNat 16 x).signExtend 32
  | _ => BitVec.ofNat 32 x

/-- A scalar loaded value (R222). -/
def loadedScalar (w x : Nat) : DWord :=
  match w with
  | 0 => (BitVec.ofNat 8 x).signExtend 64
  | 2 => (BitVec.ofNat 16 x).signExtend 64
  | _ => BitVec.ofNat 64 x

/-- Mark a vector register in a lane (R225). -/
def markV (s : State) (r l a : Nat) : State := s.onSq fun q => { q with poisonV := (r, l, a) :: q.poisonV }

/-- Mark a scalar register (R225). -/
def markS (s : State) (r a : Nat) : State := s.onSq fun q => { q with poisonS := (r, a) :: q.poisonS }

/-- Write k registers from v[d] of one lane, with their marks. -/
def landLane (s : State) (d k l x : Nat) (first : Word) (poison : Bool) (va : Nat) : State :=
  (List.range k).foldl (fun t i =>
    let u := t.setV (d + i) (maskOf [l]) fun _ => if i = 0 then first else BitVec.ofNat 32 (x / 4294967296 ^ i)
    if poison then markV u (d + i) l va else u) s

/-- One lane's load lands in its registers. -/
def landLoad (s : State) (sp : Space) (home : Bool) (w d : Nat) (scalar : Bool) (a : Access) : State :=
  let r := readAccess s sp home a
  let x := leNat r.2.1
  if scalar then
    let t := r.1.setX d (loadedScalar w x)
    if r.2.2 && d % 64 != 0 then markS t d a.va else t
  else landLane r.1 d (accessRegs w) a.lane x (loadedWord w x) r.2.2 a.va

/-- What acquire order does after a load or atomic is satisfied (R115, R125). -/
def acquireAfter (s : State) (o : Op) (sp : Space) : State :=
  if o.acquires then acquireAction s s.sq.ident.core (scopeIn sp o.scope) else s

/-- What release order does before a store or atomic is performed (R115, R125, R126). -/
def releaseBefore (s : State) (o : Op) (sp : Space) : State :=
  if o.releases then releaseAction s s.sq.ident.core (scopeIn sp o.scope) else s

/-- An access whose bank left its crew's scratchpad after issue (R255). -/
def goneBank (s : State) (sp : Space) (a : Access) : Bool :=
  sp != .global && match crewOf s sp with
    | none => true
    | some c => c.spadBytes ≤ a.va || c.spadKey a.va != a.pa

/-- Go on with an operation unless a bank that it reaches is gone: that is 0x4C (R255). -/
def unlessGone (s : State) (o : Op) (sp : Space) (acc : List Access) (aux : Nat) (k : State) : State :=
  match acc.filter (goneBank s sp) with
  | [] => k
  | a :: as => finishOp s o (some ⟨0x4C, 0, a.va, maskOf ((a :: as).map (·.lane)), 0, aux⟩)

/-- A load completes (R224). -/
def completeLoad (s : State) (o : Op) (sp : Space) (w d : Nat) (scalar : Bool) (acc : List Access) : State :=
  let home := atHome s o.strong o.scope
  unlessGone s o sp acc 1 <| finishOp (acquireAfter (acc.foldl (fun t a => landLoad t sp home w d scalar a) s) o sp) o none

/-! ### Stores (R223, R224, R226) -/

/-- A store completes: its lanes in ascending order, so the highest lane's value remains (R117). -/
def completeStore (s : State) (o : Op) (sp : Space) (acc : List Access) : State :=
  let home := atHome s o.strong o.scope
  unlessGone s o sp acc 2 <|
  let r := acc.foldl (fun (st : State × List Access) a =>
    let w := writeAccess st.1 sp home a (leBytes a.n a.x)
    (w.1, if w.2 then st.2 ++ [a] else st.2)) (releaseBefore s o sp, [])
  finishOp r.1 o (match r.2 with
    | [] => none
    | a :: _ => some ⟨0x4D, 0, a.va, if acc.length == 1 && o.mask != maskOf [a.lane] then o.mask
                                      else maskOf (r.2.map (·.lane)), 0, 2⟩)

/-! ### Atomics (R228 to R232) -/

/-- The new value of a location of n bytes (R229). -/
def atomApply (op : AtomOp) (n m x y : Nat) : Nat :=
  let signed (v : Nat) : Int := if v < 256 ^ n / 2 then v else (v : Int) - (256 ^ n : Nat)
  match op with
  | .add => (m + x) % 256 ^ n
  | .minI => if signed x < signed m then x else m
  | .maxI => if signed m < signed x then x else m
  | .minN => Nat.min m x
  | .maxN => Nat.max m x
  | .and => m &&& x
  | .or => m ||| x
  | .xor => m ^^^ x
  | .exch => x
  | .cas => if m = x then y else m
  | .fadd => addRne m x
  | .fmin => (fp32.minMax false false m x).bits
  | .fmax => (fp32.minMax false true m x).bits

/-- The lanes of one location in ascending order: the old value of each, and the value that remains (R229). -/
def atomFold (op : AtomOp) (n m : Nat) (ls : List Access) : List (Nat × Nat) × Nat :=
  ls.foldl (fun (st : List (Nat × Nat) × Nat) a => (st.1 ++ [(a.lane, st.2)], atomApply op n st.2 a.x a.y)) ([], m)

/-- fadd.f32 combines its lanes first (R230). -/
def atomFadd (m : Nat) (ls : List Access) : List (Nat × Nat) × Nat :=
  let r := ls.foldl (fun (st : List (Nat × Nat) × Nat) a =>
    (st.1 ++ [(a.lane, if st.1.isEmpty then m else addRne m st.2)], addRne st.2 a.x)) ([], 0x80000000)
  (r.1, addRne m r.2)

/-- The distinct locations of an atomic, in the order of their first lanes. -/
def locations : List Access → List Nat
  | [] => []
  | a :: rest => a.pa :: (locations rest).filter (· != a.pa)

/-- The update of one location (R229, R232): the old values of its lanes, or its failure. -/
def atomLocation (s : State) (sp : Space) (home : Bool) (op : AtomOp) (ls : List Access) :
    State × (List (Nat × Nat) ⊕ OpError) :=
  match ls with
  | [] => (s, .inl [])
  | a :: _ =>
    let fail (cause detail : Nat) : OpError := ⟨cause, detail, a.va, maskOf (ls.map (·.lane)), 0, 3⟩
    if sp == .global && inBacking s s.sq.ident.ctx a.va a.pa a.n then (s, .inr (fail 0x46 0))
    else if sp == .global && accessWay s false home a.pa a.n a.via == .lost then (s, .inr (fail 0x4D 0))
    else
      let r := readAccess s sp home a
      if r.2.2 then (r.1, .inr (fail 0x4A 2))
      else
        let m := leNat r.2.1
        let f := if op == .fadd then atomFadd m ls else atomFold op a.n m ls
        let w := writeAccess r.1 sp home a (leBytes a.n f.2)
        if w.2 then (w.1, .inr (fail 0x4D 0)) else (w.1, .inl f.1)

/-- The registers that receive the old value (R229, R231). -/
def landOld (s : State) (d n : Nat) (scalar : Bool) (olds : List (Nat × Nat)) : State :=
  olds.foldl (fun t p =>
    if scalar then t.setX d (BitVec.ofNat 64 p.2) else landLane t d (n / 4) p.1 p.2 (BitVec.ofNat 32 p.2) false 0) s

/-- The error with the lowest cause; errors of one cause join their lanes (R232). -/
def worseError (e : Option OpError) (f : OpError) : Option OpError :=
  match e with
  | none => some f
  | some g =>
    if f.cause < g.cause then some f else if f.cause = g.cause then some { g with lanes := g.lanes ||| f.lanes } else some g

/-- An atomic completes (R232). -/
def completeAtomic (s : State) (o : Op) (sp : Space) (op : AtomOp) (d : Nat) (scalar : Bool) (acc : List Access) : State :=
  let home := atHome s true o.scope
  unlessGone s o sp acc 3 <|
  let r := (locations acc).foldl (fun (st : State × Option OpError) k =>
    let ls := acc.filter fun a => a.pa == k
    match atomLocation st.1 sp home op ls with
    | (t, .inl olds) => (landOld t d ((ls.headD ⟨0, 0, 0, 4, 0, 0, none⟩).n) scalar olds, st.2)
    | (t, .inr e) => (t, worseError st.2 (if scalar then { e with lanes := o.mask } else e))) (releaseBefore s o sp, none)
  finishOp (acquireAfter r.1 o sp) o r.2

/-! ### Retirement (R61, R87 to R89, R127) -/

/-- Threads and held marks that wait to push to a crew queue, by the moments at which they began (R239). -/
def pushWaiters (s : State) (crew queue : Nat) : List Nat :=
  s.squads.flatMap fun q =>
    if q.ident.crew != crew || q.status == .stopped then []
    else
      (q.thr.waits.filterMap fun w => match w.what with
        | .qpush k _ => if k = queue then some w.stamp else none
        | _ => none)
      ++ q.ops.filterMap fun o => match o.last with
        | some (k, _) => if k = queue && o.stamp != 0 then some o.stamp else none
        | none => none

/-- Threads that wait to pop a crew queue. Threads that a handler holds back keep their places (DESIGN CHOICE, log 106). -/
def popWaiters (s : State) (crew queue : Nat) : List Nat :=
  s.squads.flatMap fun q =>
    if q.ident.crew != crew || q.status == .stopped then []
    else q.thr.waits.filterMap fun w => match w.what with
      | .qpop k _ => if k = queue then some w.stamp else none
      | _ => none

/-- The entries of a queue of the squad's crew. -/
def queueEntries (s : State) (queue : Nat) : List Word :=
  match s.myCrew with
  | none => []
  | some c => vget c.queues queue

/-- Replace the entries of a queue of the squad's crew. -/
def setEntries (s : State) (queue : Nat) (es : List Word) : State :=
  match s.myCrew with
  | none => s
  | some c => s.setCrew { c with queues := vset c.queues queue es }

/-- May one that began to wait at a moment push now: a free slot, and nobody before it (R239)? -/
def mayPush (s : State) (queue stamp : Nat) : Bool :=
  (queueEntries s queue).length < 64 && (pushWaiters s s.sq.ident.crew queue).all fun k => stamp ≤ k

/-- May one that began to wait at a moment pop now? -/
def mayPop (s : State) (queue stamp : Nat) : Bool :=
  !(queueEntries s queue).isEmpty && (popWaiters s s.sq.ident.crew queue).all fun k => stamp ≤ k

/-- The oldest outstanding operation of a class. -/
def oldestOp (q : Squad) (c : OpClass) : Option Op := q.ops.find? fun o => o.cls == c

/-- An operation retires: its counter falls (R61), its error becomes the class's unless one waits already (R178), and the L1
copies of what it wrote are invalidated again (R127). -/
def retireOp (s : State) (o : Op) : State :=
  let t := s.onSq fun q => { q with
    ops := q.ops.filter fun p => p.id != o.id
    errs := match o.err with
      | none => q.errs
      | some e => if q.errs.any fun x => x.1 == o.cls then q.errs else q.errs ++ [(o.cls, e)] }
  o.wrote.foldl (fun u r => dropRange u s.sq.ident.core r.1 r.2) t

/-- Are the accesses that the threads of an operation made before it performed, so that its push may release them (R132)? -/
def earlierDone (q : Squad) (o : Op) : Bool :=
  (olderOps q o.id).all fun p => p.done || !(p.reads || p.writes) || !sharesThread p.mask o.mask

/-- Retire the oldest operation of a class if it is complete and its push, if any, can be made (R88, R89): none otherwise. A
push that cannot be made begins to wait. -/
def retireOldest (s : State) (c : OpClass) : State × Bool :=
  match oldestOp s.sq c with
  | none => (s, false)
  | some o =>
    if !o.done then (s, false)
    else match (if o.err.isSome then none else o.last) with
      | none => (retireOp s o, true)
      | some (queue, h) =>
        let stamp := if o.stamp = 0 then s.serial else o.stamp
        if !earlierDone s.sq o then (s, false)
        else if mayPush s queue stamp then (retireOp (setEntries s queue (queueEntries s queue ++ [h])) o, true)
        else if o.stamp = 0 then (setOp s.fresh.2 { o with stamp := stamp }, false)
        else (s, false)

/-- Retire operations of a class while the oldest can retire. -/
def retireClass : Nat → State → OpClass → State
  | 0, s, _ => s
  | n + 1, s, c => match retireOldest s c with
    | (t, true) => retireClass n t c
    | (t, false) => t

/-- What a fence of an order and scope does to the L1 (R125). -/
def fenceAction (s : State) (order scope : Nat) : State :=
  let core := s.sq.ident.core
  let t := if order == 2 || order == 3 || order == 4 then releaseAction s core scope else s
  if order == 1 || order == 3 || order == 4 then acquireAction t core scope else t

/-- Retire every operation of the squad that can retire (R61). -/
def retireOps (s : State) : State := OpClass.all.foldl (fun u c => retireClass u.sq.ops.length u c) s

/-- An operation of the squad by number. -/
def findOp (s : State) (id : Nat) : Option Op := s.sq.ops.find? fun o => o.id == id

/-- Check a squad out and act on one of its operations; nothing happens when there is no such squad or operation. -/
def onOp (s : State) (sq id : Nat) (k : State → Op → State) : State :=
  match s.checkout sq with
  | none => s
  | some t => match findOp t id with
    | none => s
    | some o => k t o

end Sys2Proof.Machine
end

