-- ==== Sys2Proof/Machine/Banks.lean ====
section
/-! DEFINITION. Compute banks (R84, R255 to R258): their numbering, planes, slots and scale areas, the elements of tile images,
and the check of plane checksums (R257, R374). -/

namespace Sys2Proof.Machine

/-! ### Numbering (R255) -/

/-- The physical bank of a logical compute bank of a crew. -/
def Crew.computeBank (c : Crew) (i : Nat) : Option Nat :=
  if i < c.residen.length then c.residen[i]? else c.compute[i - c.residen.length]?

/-- Compute banks that a crew sees, residency banks among them. -/
def Crew.banksSeen (c : Crew) : Nat := c.residen.length + c.compute.length

/-- Accumulator rows of a crew (R91). -/
def Crew.rows (c : Crew) : Nat := 96 * c.banksSeen

/-- Is a logical compute bank a residency bank that is not mapped now? -/
def Crew.detached (c : Crew) (i : Nat) : Bool := i < c.residen.length && !c.attached

/-- The physical bank that logical compute bank i names now; none when it is unmapped or gone. -/
def Crew.mapped (c : Crew) (i : Nat) : Option Nat := if c.detached i then none else c.computeBank i

/-- The context that a bank's contents belong to. -/
def bankContext (s : State) (bank : Nat) : Option Nat :=
  match s.resids.find? fun r => r.banks.any fun b => b.2.contains bank with
  | some r => some r.ctx
  | none => match s.crews.find? fun c => c.storage.contains bank || c.compute.contains bank with
    | some c => (s.grid? c.grid).map (·.ctx)
    | none => none

/-! ### Planes -/

/-- Key of the first byte of a plane. -/
def planeKey (bank i : Nat) : Nat := bankKey bank (1024 * i)

/-- A plane as a number: bit (k, n) is bit 128k + n (R257). -/
def planeBits (s : State) (bank i : Nat) : Nat := memNat s.mem (planeKey bank i) 1024

/-- Is a plane poisoned? -/
def planeBad (s : State) (bank i : Nat) : Bool := anyPoison s (planeKey bank i) 1024

/-- Poison a plane. -/
def poisonPlane (s : State) (bank i : Nat) : State := { s with poison := setAddAll s.poison (sectorsOf (planeKey bank i) 1024) }

/-- The poison mask of a bank (R256). -/
def poisonMask (s : State) (bank : Nat) : Nat :=
  if s.poison.isEmpty then 0
  else (List.range 64).foldl (fun m i => if planeBad s bank i then setBit m i true else m) 0

/-- The record of a checksum mismatch (R257, R377): of the scrub of a residency's bank, or of any other check. -/
def planeRecord (s : State) (bank : Nat) (scrub : Bool) : State :=
  let core := bank / 32
  let unit := core % 128 + bank % 32 * 4096
  match (if scrub then s.resids.find? fun r => r.banks.any fun b => b.2.contains bank else none) with
  | some r => errorRecord s 0x8A (some r.ctx) 2 0 unit 0 (r.id + r.ctx * 65536) core
  | none => errorRecord s 0x82 (bankContext s bank) 2 0 unit 0 (poisonMask s bank) core

/-- Verify planes of a bank (R257): each that fails is poisoned and recorded; damage in the side store poisons every plane. -/
def verifyPlanes (s : State) (bank : Nat) (planes : List Nat) (scrub : Bool) : State :=
  let bad := planes.filter fun i => s.latent.contains (.plane bank i)
  let side := s.latent.contains (.side bank)
  let all := if side then List.range 64 else bad
  if all.isEmpty then s
  else
    let t := all.foldl (fun u i => poisonPlane u bank i) s
    planeRecord { t with latent := t.latent.filter fun l => !(all.any fun i => l == .plane bank i) && l != .side bank } bank scrub

/-! ### Slots (R257) -/

/-- Planes of a slot: mxi8, mxf4, ci. -/
def slotPlanes (fmt : Nat) : Nat := if fmt = 1 then 5 else 8

/-- Slots of a bank. -/
def slotCount (fmt : Nat) : Nat := if fmt = 1 then 12 else 8

/-- Bytes of an image (R258). -/
def imageBytes (fmt : Nat) : Nat := if fmt = 0 then 8448 else if fmt = 1 then 4352 else 8192

/-- Bytes of an image before its scales. -/
def elementBytes (fmt : Nat) : Nat := if fmt = 1 then 4096 else 8192

/-- The planes of a slot, lowest first. -/
def planesOf (fmt slot : Nat) : List Nat := (List.range (slotPlanes fmt)).map (slotPlanes fmt * slot + ·)

/-- Key of a slot's scale area; ci slots have none. -/
def scaleKey (bank fmt slot : Nat) : Nat :=
  if fmt = 1 && 8 ≤ slot then bankKey bank (61440 + 256 * (slot - 8)) else bankKey bank (65536 + 256 * slot)

/-- Does a slot's scale area lie in plane 60? -/
def scaleInPlane (fmt slot : Nat) : Bool := fmt == 1 && 8 ≤ slot

/-- Is a slot, with its scale area, poisoned (R264)? -/
def slotBad (s : State) (bank fmt slot : Nat) : Bool :=
  !s.poison.isEmpty && ((planesOf fmt slot).any (planeBad s bank) || (scaleInPlane fmt slot && planeBad s bank 60))

/-- A two's complement number of n bits. -/
def signedBits (n x : Nat) : Int := if bit x (n - 1) then (x : Int) - (2 ^ n : Nat) else x

/-- The integer of element (k, n) in planes, lowest first (R257). -/
def planesInt (ps : List Nat) (k n : Nat) : Int :=
  signedBits ps.length (ps.foldr (fun p x => (if bit p (128 * k + n) then 1 else 0) + 2 * x) 0)

/-- The planes of a slot as numbers, of which the top `top` are read (R262). -/
def slotPlanesBits (s : State) (bank fmt slot top : Nat) : List Nat :=
  ((planesOf fmt slot).drop (slotPlanes fmt - top)).map (planeBits s bank)

/-- Bit q of an integer in two's complement. -/
def intBit (x : Int) (q : Nat) : Bool := x / (2 ^ q : Nat) % 2 == 1

/-- The bytes of plane q of the integers f k n. -/
def planeBytes (f : Nat → Nat → Int) (q : Nat) : List Byte :=
  (List.range 1024).map fun b =>
    BitVec.ofNat 8 ((List.range 8).foldr (fun i x => (if intBit (f (b / 16) (b % 16 * 8 + i)) q then 1 else 0) + 2 * x) 0)

/-- Write a slot's planes from integers. A plane that is rewritten whole loses its poison and any damage (R257). -/
def writeSlot (s : State) (bank fmt slot : Nat) (f : Nat → Nat → Int) : State :=
  let ps := planesOf fmt slot
  let t := (List.range (slotPlanes fmt)).foldl (fun u q => rawWrite u (planeKey bank (ps.getD q 0)) (planeBytes f q)) s
  { t with latent := t.latent.filter fun l => !(ps.any fun i => l == .plane bank i) }

/-- Twice the value of an E2M1 code (R72, R259). -/
def twiceE2m1 (c : Nat) : Int :=
  let m : Int := ([0, 1, 2, 3, 4, 6, 8, 12] : List Int).getD (c % 8) 0
  if 8 ≤ c % 16 then -m else m

/-- The integer of element (k, n) of an image (R258, R259). -/
def imageInt (fmt : Nat) (img : Array Byte) (k n : Nat) : Int :=
  if fmt = 1 then
    let b := (img.getD (32 * n + k / 2) 0).toNat
    twiceE2m1 (if k % 2 = 0 then b % 16 else b / 16)
  else (img.getD (64 * n + k) 0).toInt

/-- The E2M1 code of RNE(i / 2), which saturates at ± 6 (R260). -/
def halfE2m1 (i : Int) : Nat := (e2m1.finite 0 false true (decide (i < 0)) i.natAbs (-1) false).bits

/-- The bytes of an image's elements from integers (R260). -/
def imageOf (fmt : Nat) (f : Nat → Nat → Int) : List Byte :=
  if fmt = 1 then (List.range 4096).map fun b =>
    let n := b / 32
    let k := b % 32 * 2
    BitVec.ofNat 8 (halfE2m1 (f k n) + 16 * halfE2m1 (f (k + 1) n))
  else (List.range 8192).map fun b => BitVec.ofInt 8 (f (b % 64) (b / 64))

end Sys2Proof.Machine
end

