-- ==== Sys2Proof/Machine/Engine.lean ====
section
/-! DEFINITION. What the engine instructions share (R247 to R250): the checks at issue, the ranges that an operation reads and
writes, tokens, and how an operation that the engine runs ends. -/

namespace Sys2Proof.Machine

/-! ### Checks at issue (R248) -/

/-- Raise a fault when a check fails; else go on. R150 gives no order among the faults of its step 5: each command makes its checks in
the order in which its meaning lists them (DESIGN CHOICE, log 91). -/
def failIf (bad : Bool) (f : FaultInfo) (k : Eff) : Eff := if bad then .fault f else k

/-- A fault of the whole running group. -/
def groupFault (s : State) (cause : Nat) : FaultInfo := { cause := cause, lanes := s.sq.cur.active }

/-- A fault at an address that an engine was to read, or write. -/
def rangeFault (s : State) (cause detail addr : Nat) (write : Bool) : FaultInfo :=
  { cause := cause, detail := detail, lanes := s.sq.cur.active, addr := addr, aux := if write then 10 else 9 }

/-- An address that is not aligned raises 0x43. -/
def aligned (s : State) (a n : Nat) (write : Bool) (k : Eff) : Eff := failIf (a % n != 0) (rangeFault s 0x43 0 a write) k

/-- A global range (R248): bits 63:55 of its first and last byte. -/
def globalRange (s : State) (a n : Nat) (write : Bool) (k : Eff) : Eff :=
  failIf (n != 0 && addressTop s ≤ a + n - 1) (rangeFault s 0x45 4 a write) k

/-- A range of a crew's scratchpad, if there is such a crew (R83, R248): its bound, race watch as a weak access, and, for a
write, its mark. -/
def scratchRange (s : State) (c : Option Crew) (o n : Nat) (write : Bool) (k : State → Eff) : Eff :=
  match c with
  | none => .fault (rangeFault s 0x45 4 o write)
  | some c =>
    if n = 0 then k s
    else if c.spadBytes < o + n then .fault (rangeFault s 0x45 4 o write)
    else match raceConflict s c o n false with
      | some r => .fault (raceFault r s.sq.cur.active (if write then 10 else 9))
      | none => k (if write then raceWrite s c.id o n false else s)

/-- The crew of the squad that runs. -/
def withCrew (s : State) (k : Crew → Eff) : Eff :=
  match s.myCrew with
  | none => .fault (groupFault s 0x41)
  | some c => k c

/-- Logical compute banks first to first + n − 1 of a crew (R259): 0x4C where the residency's banks are unmapped. -/
def bankRange (s : State) (c : Crew) (first n : Nat) (k : Eff) : Eff :=
  failIf ((List.range n).any fun i => c.detached (first + i)) (groupFault s 0x4C) k

/-! ### The issuing core's L1 (R127) -/

/-- Write back, or for a range that is to be written evict, a VA range in the issuing core's L1, page by page (R127). -/
def settleRange (s : State) (va n : Nat) (write : Bool) : State :=
  let q := s.sq.ident
  (pagePieces (n / 65536 + 2) va n).foldl (fun t p =>
    match resolve t q.priv q.core q.ctx p.1 needLeaf with
    | (u, .inl k) => if write then evictRange u q.core (canon u k) p.2 else writeBackRange u q.core (canon u k) p.2
    | (_, .inr _) => t) s

/-- Must an engine operation wait to issue, since a page of its ranges cannot be walked now, or a sector of them that the L1 is to give up
cannot be written back (R127, R334, R390)? -/
def rangesWait (s : State) (rs : List (Nat × Nat)) : Bool :=
  anyClosed s && rs.any fun r => (pagePieces (r.2 / 65536 + 2) r.1 r.2).any fun p =>
    match (resolve s s.sq.ident.priv s.sq.ident.core s.sq.ident.ctx p.1 needLeaf).2 with
    | .inr f => f.cause == 0
    | .inl k => meetsWaiting s (canon s k) p.2

/-- The survey counts tile operations and the bytes of copies of a physical core (R407). -/
def countEngine (s : State) (cls : OpClass) (len : Nat) : State :=
  let core := s.sq.ident.core
  if 128 ≤ core then s
  else match cls with
    | .tl => s.countSurvey core 2 1
    | .cp => s.countSurvey core 3 len
    | _ => s

/-- An engine operation is outstanding (R127, R249): the L1 gave up the ranges it reads and writes, and its token holds the
bytes it covers. -/
def engineOut (s : State) (cls : OpClass) (act : Act) (tag token len : Nat) (last : Option (Nat × Word))
    (reads writes : List (Nat × Nat)) : State :=
  let t := reads.foldl (fun u r => settleRange u r.1 r.2 false) s
  let t := writes.foldl (fun u r => settleRange u r.1 r.2 true) t
  let t := if token = 0 then t else t.setX token (BitVec.ofNat 64 len)
  let t := countEngine t cls len
  pushOp t cls act t.sq.cur.active (0, 0) false last tag token []

/-- An engine operation becomes outstanding, once the L1 can give up its ranges. -/
def startEngine (s : State) (cls : OpClass) (act : Act) (tag token len : Nat) (last : Option (Nat × Word))
    (reads writes : List (Nat × Nat)) : Eff :=
  if rangesWait s (reads ++ writes) then .stall else .done (engineOut s cls act tag token len last reads writes)

/-! ### Ranges as the engine reaches them (R248) -/

/-- What an engine finds where a range lies. -/
inductive Reached where
  | keys (ks : List (Nat × Nat × Nat))    -- VA, key and bytes of each piece
  | bad (e : OpError)
  | absent (page detail : Nat) (joined : Bool)   -- a page that is not present (R365, R369)
  | later                                 -- a link that is paused or down, or a peer that no port reaches now (R390, R400)

/-- The error of an operation at an address. -/
def Op.fails (o : Op) (cause detail addr : Nat) (write : Bool) : OpError :=
  ⟨cause, detail, addr, o.mask, o.token, if write then 10 else 9⟩

/-- Reach one piece within a page. -/
def reachPiece (s : State) (o : Op) (va n : Nat) (need : Need) : State × Reached :=
  let q := s.sq.ident
  match resolve s q.priv q.core q.ctx va need with
  | (t, .inr f) => (t, if f.cause = 0 then .later
      else if f.cause = 0x44 then .absent va f.detail f.joined else .bad (o.fails f.cause f.detail va need.w))
  | (t, .inl k) =>
    let key := canon t k
    if inBacking t q.ctx va key n then (t, .bad (o.fails 0x46 0 va need.w))
    else match rangeWay t q.core key n (peerOfKey k) with
      | .clear => (t, .keys [(va, key, n)])
      | .wait => (t, .later)
      | .lost => (t, .bad (o.fails (if need.w then 0x4D else 0x4A) (if need.w then 0 else 2) va need.w))

/-- Reach ranges, piece by piece, up to the first that cannot be reached. -/
def reachRanges (s : State) (o : Op) (need : Need) (rs : List (Nat × Nat)) : State × Reached :=
  (rs.flatMap fun r => pagePieces (r.2 / 65536 + 2) r.1 r.2).foldl
    (fun (st : State × Reached) p => match st.2 with
      | .keys ks => match reachPiece st.1 o p.1 p.2 need with
        | (t, .keys k) => (t, .keys (ks ++ k))
        | r => r
      | r => (st.1, r)) (s, .keys [])

/-- The first byte of a range of keys that reads as poisoned (R103, R376). -/
def firstBad (s : State) (key n : Nat) : Option Nat :=
  ((sectorsOf key n).find? (sectorBad s)).map fun t => Nat.max key (t * 64)

/-- Read one piece at its homes: the bytes, and the VA of the first that is poisoned. In the control space, which takes accesses of
4 and 8 bytes, an engine's whole sectors read as all ones (R253, R396, R397). -/
def readKey (s : State) (va key n : Nat) : State × List Byte × Option Nat :=
  if toControl s key then (s, List.replicate n 0xFF, none)
  else
    let r := homeRead ((linesOf key n).foldl fetchMeta s) s.sq.ident.ctx key n
    (r.1, r.2.1, if r.2.2 then (firstBad r.1 key n).map fun a => va + (a - key) else none)

/-- Read pieces: the bytes, and the VA of the first that is poisoned. -/
def readKeys (s : State) (ks : List (Nat × Nat × Nat)) : State × List Byte × Option Nat :=
  ks.foldl (fun (st : State × List Byte × Option Nat) p =>
    let r := readKey st.1 p.1 p.2.1 p.2.2
    (r.1, st.2.1 ++ r.2.1, st.2.2.orElse fun _ => r.2.2)) (s, [], none)

/-- Write one piece, line by line: the VA of the first line that refused. The distiller and copies write a whole line as such, and
everything else writes in part (R104, R253). The control space ignores an engine's writes (R396). -/
def writeKey (s : State) (whole : Bool) (va key : Nat) (bs : List Byte) : State × Option Nat :=
  let ctx := s.sq.ident.ctx
  if toControl s key then (s, none)
  else (linesOf key bs.length).foldl (fun (st : State × Option Nat) line =>
    let lo := Nat.max key line
    let hi := Nat.min (key + bs.length) (line + 512)
    let part := (bs.drop (lo - key)).take (hi - lo)
    if whole && hi - lo = 512 then (homeWriteLine st.1 ctx line part, st.2)
    else
      let r := homeWritePart st.1 ctx line lo part
      (r.1, st.2.orElse fun _ => if r.2 then some (va + (lo - key)) else none)) (s, none)

/-- An operation's record of what it wrote, which its retirement invalidates in the L1 (R127). -/
def noteWritten (s : State) (id : Nat) (ks : List (Nat × Nat × Nat)) : State :=
  s.onSq fun q => { q with ops := q.ops.map fun p => if p.id == id then { p with wrote := p.wrote ++ ks.map fun k => (k.2.1, k.2.2) } else p }

/-- Write bytes over pieces: the VA of the first line that refused. -/
def writeKeys (s : State) (whole : Bool) (o : Op) (ks : List (Nat × Nat × Nat)) (bs : List Byte) : State × Option Nat :=
  let r := ks.foldl (fun (st : State × Option Nat × List Byte) p =>
    let w := writeKey st.1 whole p.1 p.2.1 (st.2.2.take p.2.2)
    (w.1, st.2.1.orElse fun _ => w.2, st.2.2.drop p.2.2)) (noteWritten s o.id ks, none, bs)
  (r.1, r.2.1)

/-! ### How a run of an operation ends -/

/-- What the engine did with an operation: it ended, with a status and perhaps a word for its register; it ended with an error;
it moved a part; it waits for a page (R369); or nothing could happen yet. -/
inductive Ran where
  | ended (s : State) (status detail : Nat)
  | word (s : State) (w : DWord)
  | failed (s : State) (e : OpError)
  | part (s : State) (pos detail : Nat)
  | waits (s : State) (page detail : Nat) (joined write : Bool)
  | later (s : State)

/-- Go on with the pieces of ranges, or end, wait or fail as they are found. -/
def withRanges (s : State) (o : Op) (need : Need) (rs : List (Nat × Nat)) (k : State → List (Nat × Nat × Nat) → Ran) : Ran :=
  match reachRanges s o need rs with
  | (t, .keys ks) => k t ks
  | (t, .bad e) => .failed t e
  | (t, .absent page detail joined) => .waits t page detail joined need.w
  | (t, .later) => .later t

/-- Read ranges of global memory; poisoned data is 0x4A (R253). -/
def withBytes (s : State) (o : Op) (rs : List (Nat × Nat)) (k : State → List Byte → Ran) : Ran :=
  withRanges s o needR rs fun t ks =>
    match readKeys t ks with
    | (u, _, some a) => .failed u (o.fails 0x4A 2 a false)
    | (u, bs, none) => k u bs

/-- The completion value of a token (R131, R249), with the time of the die of the core whose engine makes it (R406). -/
def tokenWord (s : State) (status detail : Nat) : DWord :=
  BitVec.ofNat 64 ((s.nowAt s.sq.ident.core).toNat % 4294967296 + status * 4294967296 + detail % 256 * 1099511627776 + 9223372036854775808)

/-- Is an operation a `stk.probe`, whose register takes a probe word and no token (R275)? -/
def Op.probes (o : Op) : Bool :=
  match o.act with
  | .engine .stkProbe _ _ _ _ _ _ => true
  | _ => false

/-- Write an operation's token. -/
def putToken (s : State) (o : Op) (status detail : Nat) : State :=
  if o.token = 0 || o.probes then s else s.setX o.token (tokenWord s status detail)

/-- An operation ends; its error, if any, is what its class will raise (R249, R250). -/
def endEngine (s : State) (o : Op) (err : Option OpError) : State :=
  match findOp s o.id with
  | none => s
  | some p => finishOp s p err

/-- The fault record of a page that an operation waits for (R248, R369, R372); a walk of another request's has none (R365). -/
def absentRecord (s : State) (o : Op) (page detail : Nat) (joined write : Bool) : State :=
  let q := s.sq
  if joined then s
  else pushRecord s true (recWord8 0x44 q.ident.ctx true false detail (if write then 10 else 9) o.mask.toNat)
    (recWord10 page q.ident.core) (recWord18 q o.pc (if o.last.isSome then 4 else 2))

/-- Settle what the engine did. -/
def settleEngine (o : Op) : Ran → State
  | .ended s status detail => endEngine (putToken s o status detail) o none
  | .word s w => endEngine (if o.token = 0 then s else s.setX o.token w) o none
  | .failed s e => endEngine (putToken s o e.cause 0) o (some e)
  | .part s pos detail => match findOp s o.id with
    | none => s
    | some p => setOp s { p with pos := pos, detail := detail }
  | .waits s page detail joined write => match findOp s o.id with
    | none => s
    | some p => setOp (absentRecord s o page detail joined write) { p with page := some (page, false) }
  | .later s => s

/-- May an engine operation run now: it waits for no page, its threads' older acquires are satisfied (R116), and older tile and array operations of its class are done (R92, R100)? -/
def mayRun (q : Squad) (o : Op) : Bool :=
  !o.done && o.page.isNone && (olderOps q o.id).all fun p =>
    p.done || (!(p.acquires && sharesThread p.mask o.mask) && !(p.cls == o.cls && (o.cls == .tl || o.cls == .ar)))

/-- The crew of the squad that is checked out, as an operation finds it; 0x4C when it is gone (R255). -/
def runCrew (s : State) (o : Op) (k : Crew → Ran) : Ran :=
  match s.myCrew with
  | none => .failed s (o.fails 0x4C 0 0 false)
  | some c => k c

/-- A field of a descriptor: n bits from bit i. -/
def field (x : DWord) (i n : Nat) : Nat := x.toNat / 2 ^ i % 2 ^ n

end Sys2Proof.Machine
end

