-- ==== Sys2Proof/Machine/Copy.lean ====
section
/-! DEFINITION. Copies (R251 to R254). -/

namespace Sys2Proof.Machine

/-! ### Shapes (R252) -/

/-- The global side of a copy: rows of bytes at a pitch. A plain copy is one row. -/
structure CopyShape where
  row   : Nat
  rows  : Nat
  pitch : Nat
  deriving DecidableEq, Repr

/-- Bytes that a copy covers. -/
def CopyShape.total (c : CopyShape) : Nat := c.row * c.rows

/-- The shape in s[B] of a 2-D copy. -/
def shapeOf (z : DWord) : CopyShape := ⟨field z 0 24, field z 24 16 + 1, field z 40 24 * 64⟩

/-- Rows that follow each other without a gap are one row. -/
def CopyShape.joined (c : CopyShape) : CopyShape := if c.pitch = c.row then ⟨c.total, 1, c.total⟩ else c

/-- The offset of byte p of a copy on its global side. -/
def CopyShape.at_ (c : CopyShape) (p : Nat) : Nat := if c.row = 0 then p else c.pitch * (p / c.row) + p % c.row

/-- The runs of a part of a copy on its global side: VA and bytes. -/
def CopyShape.runs (c : CopyShape) (base : Nat) : Nat → Nat → Nat → List (Nat × Nat)
  | 0, _, _ => []
  | fuel + 1, p, n =>
    if n = 0 || c.row = 0 then []
    else
      let k := Nat.min n (c.row - p % c.row)
      (base + c.at_ p, k) :: c.runs base fuel (p + k) (n - k)

/-- Do two ranges of one space overlap (R251)? -/
def overlap (x y n : Nat) : Bool := x < y + n && y < x + n

/-! ### Issue -/

/-- A copy with one row (R251). rg, wg: is the source, or the destination, global memory? peer: is it the peer's scratchpad? -/
def issueCopy (s : State) (e : Engine) (d a b : Nat) (rg wg peer : Bool) (last : Option (Nat × Word)) : Eff :=
  let x := (s.x a).toNat
  let y := (s.x (a + 1)).toNat
  let n := (s.x b).toNat
  failIf (4294967296 ≤ n || (rg && wg && n != 0 && overlap x y n)) (groupFault s 0x41) <|
  aligned s x 64 false <| aligned s y 64 true <| aligned s n 64 false <|
  let go (t : State) : Eff :=
    startEngine t .cp (.engine e d (t.x a) (t.x (a + 1)) (t.x b) 0 (Vector.replicate 32 0)) 0 d n last
      (if rg then [(x, n)] else []) (if wg then [(y, n)] else [])
  let dest (t : State) : Eff :=
    if wg then globalRange t y n true (go t) else scratchRange t (crewOf t (if peer then .peer else .scratch)) y n true go
  if rg then globalRange s x n false (dest s) else scratchRange s s.myCrew x n false dest

/-- A 2-D copy (R252). toGlobal: is the destination the global side? -/
def issueCopy2 (s : State) (e : Engine) (d a b : Nat) (toGlobal : Bool) (last : Option (Nat × Word)) : Eff :=
  let x := (s.x a).toNat
  let y := (s.x (a + 1)).toNat
  let c := shapeOf (s.x b)
  let g := if toGlobal then y else x
  let o := if toGlobal then x else y
  failIf (c.row = 0 || c.pitch < c.row || 0xFFFFFFC0 < c.total) (groupFault s 0x41) <|
  aligned s x 64 false <| aligned s y 64 true <| aligned s c.row 64 false <|
  globalRange s g (c.pitch * (c.rows - 1) + c.row) toGlobal <|
  scratchRange s s.myCrew o c.total (!toGlobal) fun t =>
    let runs := c.joined.runs g (c.rows + 1) 0 c.total
    startEngine t .cp (.engine e d (t.x a) (t.x (a + 1)) (t.x b) 0 (Vector.replicate 32 0)) 0 d c.total last
      (if toGlobal then [] else runs) (if toGlobal then runs else [])

def execCpyGs (d : BitVec 7) (a : BitVec 7) (b : BitVec 7) (s : State) : Res := issue .copy (usesCpyGs d a b) s fun t =>
  issueCopy t .cpyGS d.toNat a.toNat b.toNat true false false none

def execCpySg (d : BitVec 7) (a : BitVec 7) (b : BitVec 7) (s : State) : Res := issue .copyLast (usesCpySg d a b) s fun t =>
  withLast t (issueCopy t .cpySG d.toNat a.toNat b.toNat false true false)

def execCpyGg (d : BitVec 7) (a : BitVec 7) (b : BitVec 7) (s : State) : Res := issue .copy (usesCpyGg d a b) s fun t =>
  issueCopy t .cpyGG d.toNat a.toNat b.toNat true true false none

def execCpySp (d : BitVec 7) (a : BitVec 7) (b : BitVec 7) (s : State) : Res := issue .copyLast (usesCpySp d a b) s fun t =>
  withLast t (issueCopy t .cpySP d.toNat a.toNat b.toNat false false true)

def execCpyGs2 (d : BitVec 7) (a : BitVec 7) (b : BitVec 7) (s : State) : Res := issue .copy (usesCpyGs2 d a b) s fun t =>
  issueCopy2 t .cpyGS2 d.toNat a.toNat b.toNat false none

def execCpySg2 (d : BitVec 7) (a : BitVec 7) (b : BitVec 7) (s : State) : Res := issue .copyLast (usesCpySg2 d a b) s fun t =>
  withLast t (issueCopy2 t .cpySG2 d.toNat a.toNat b.toNat true)

def execCpyPin (d : BitVec 7) (a : BitVec 7) (b : BitVec 7) (s : State) : Res := issue .copy (usesCpyPin d a b) s fun t =>
  let x := (t.x a.toNat).toNat
  let n := (t.x b.toNat).toNat
  failIf (4294967296 ≤ n || t.x (a.toNat + 1) != 0) (groupFault t 0x41) <|
  aligned t x 64 false <| aligned t n 64 false <|
  globalRange t x n false <|
  startEngine t .cp (.engine .cpyPin d.toNat (t.x a.toNat) 0 (t.x b.toNat) 0 (Vector.replicate 32 0)) 0 d.toNat n none [(x, n)] []

/-! ### Running (R253) -/

/-- The bytes of a copy, in 64 KiB chunks (R51, R353). -/
abbrev chunkBytes : Nat := 65536

/-- The bytes that the chunk at p takes of a copy. Inside a row that goes to global memory it ends at a line of the destination, so
that one chunk writes every whole line; it never ends before the row that it enters. -/
def chunkLen (c : CopyShape) (dest : Option Nat) (p : Nat) : Nat :=
  let k := Nat.min chunkBytes (c.total - p)
  match dest with
  | none => k
  | some g => if (p + k) % c.row = 0 then k else k - Nat.min ((g + c.at_ (p + k)) % 512) ((p + k) % c.row)

/-- Read a scratchpad range of a crew for a copy. -/
def withScratch (s : State) (o : Op) (c : Crew) (off n : Nat) (k : List Byte → Ran) : Ran :=
  if n != 0 && c.spadBytes < off + n then .failed s (o.fails 0x4C 0 off false)
  else if spadPoison s c.storage off n then .failed s (o.fails 0x4A 2 off false)
  else k (spadRead s c.storage off n)

/-- The chunk is written: go on, end, or report the line that refused it (R105). -/
def chunkDone (s : State) (o : Op) (refused : Option Nat) (p total : Nat) : Ran :=
  match refused with
  | some a => .failed s (o.fails 0x4D 0 a true)
  | none => if total ≤ p then .ended s 0 o.detail else .part s p o.detail

/-- Move the next chunk of a copy. g: its global side and the runs' base; each side reads or writes. -/
def runCopy (s : State) (o : Op) (c : CopyShape) (src dst : Nat) (rg wg peer : Bool) : Ran :=
  let p := o.pos
  let n := chunkLen c (if wg then some dst else none) p
  let fuel := n / 64 + 2
  runCrew s o fun crew =>
    let put (t : State) (bs : List Byte) : Ran :=
      if wg then withRanges t o needW (c.runs dst fuel p n) fun u ks =>
        let w := writeKeys u true o ks bs
        chunkDone w.1 o w.2 (p + n) c.total
      else match (if peer then t.peerCrew else some crew) with
        | none => .failed t (o.fails 0x4C 0 (dst + p) true)
        | some k =>
          if n != 0 && k.spadBytes < dst + p + n then .failed t (o.fails 0x4C 0 (dst + p) true)
          else chunkDone (spadWrite t k.storage (dst + p) bs) o none (p + n) c.total
    -- every page of the chunk's destination is reached before its source is read
    let read (t : State) : Ran :=
      if rg then withBytes t o (c.runs src fuel p n) put
      else withScratch t o crew (src + p) n (put t)
    if wg then withRanges s o needW (c.runs dst fuel p n) fun t _ => read t else read s

/-- The plain shape of a length. -/
def plainShape (n : Nat) : CopyShape := ⟨n, 1, n⟩

/-! ### Pinning (R254) -/

/-- Kept lines of a line's set of its slice. -/
def keptInSet (s : State) (line : Nat) : Nat := ((setLines s line).filter fun l => !l.kept.isEmpty).length

/-- Fetch a line and mark it kept for a grid; true when it could not be marked. Its data is not looked at, so poison in it is no error
(DESIGN CHOICE, log 105). -/
def pinLine (s : State) (ctx grid line : Nat) : State × Bool :=
  let t := llcFill s ctx line
  match llcFind t line with
  | none => (t, true)
  | some l =>
    if l.kept.contains grid then (t, false)
    else if !l.kept.isEmpty || keptInSet t line < 2 then (llcSet t { l with kept := setAdd l.kept grid }, false)
    else (t, true)

/-- Pin the next 64 KiB of a range. -/
def runPin (s : State) (o : Op) (x n : Nat) : Ran :=
  let k := Nat.min chunkBytes (n - o.pos)
  withRanges s o needR [(x + o.pos, k)] fun t ks =>
    let r := (ks.flatMap fun p => linesOf p.2.1 p.2.2).foldl (fun (st : State × Bool) line =>
      let w := pinLine st.1 t.sq.ident.ctx t.sq.ident.grid line
      (w.1, st.2 || w.2)) (t, false)
    let detail := if r.2 then 1 else o.detail
    if n ≤ o.pos + k then .ended r.1 0 detail else .part r.1 (o.pos + k) detail

end Sys2Proof.Machine
end

