-- ==== Sys2Proof/Machine/BankInstr.lean ====
section
/-! DEFINITION. Bank loads, transforms and bank modes (R255, R256, R259, R260). -/

namespace Sys2Proof.Machine

/-! ### Bank loads (R259) -/

/-- First logical bank, count, slot and WPLANES of a bank descriptor. -/
def bankFirst (z : DWord) : Nat := field z 0 5
/-- Number of banks of a bank descriptor. -/
def bankCount (z : DWord) : Nat := field z 5 5 + 1
/-- Slot of a bank descriptor. -/
def bankSlot (z : DWord) : Nat := field z 10 4
/-- WPLANES of a bank descriptor. -/
def bankPlanes (z : DWord) : Nat := field z 14 4

/-- Is a bank descriptor outside what a format and crew allow (R259)? -/
def bankDescBad (c : Crew) (fmt : Nat) (z : DWord) : Bool :=
  z.toNat / 262144 != 0 || slotCount fmt ≤ bankSlot z || c.banksSeen < bankFirst z + bankCount z

def execBload (fm : BitVec 3) (d : BitVec 7) (a : BitVec 7) (b : BitVec 7) (s : State) : Res := issue .bankCopy (usesBload fm d a b) s fun t =>
  let x := (t.x a.toNat).toNat
  let z := t.x b.toNat
  let n := bankCount z * imageBytes fm.toNat
  withCrew t fun c =>
  failIf (bankDescBad c fm.toNat z || bankPlanes z != 0) (groupFault t 0x41) <|
  aligned t x 64 false <| globalRange t x n false <| bankRange t c (bankFirst z) (bankCount z) <|
  startEngine t .cp (.engine (.bload fm.toNat) d.toNat (t.x a.toNat) 0 z 0 (Vector.replicate 32 0)) 0 d.toNat n none [(x, n)] []

/-- Write the scale bytes of a slot (R259, R260). Those of MXFP4 slots 8 to 11 are a quarter of plane 60 each: a write clears the
poison of its own 256 bytes, so that four of them clear the plane's (DESIGN CHOICE, log 92). -/
def writeScales (s : State) (bank fmt slot : Nat) (bs : List Byte) : State := rawWrite s (scaleKey bank fmt slot) bs

/-- Load an image into a slot of a bank (R259, steps 2 to 5). -/
def loadSlot (s : State) (bank fmt slot : Nat) (img : List Byte) : State :=
  let bytes := img.toArray
  let t := writeSlot s bank fmt slot (imageInt fmt bytes)
  let t := if fmt = 2 then t else writeScales t bank fmt slot (img.drop (elementBytes fmt))
  verifyPlanes t bank ((List.range 64).filter fun i => !(planesOf fmt slot).contains i) false

/-- Load the next bank of a `bload`. -/
def runBload (s : State) (o : Op) (fmt : Nat) (x : Nat) (z : DWord) : Ran :=
  runCrew s o fun c =>
    let i := o.pos
    let va := x + i * imageBytes fmt
    match c.mapped (bankFirst z + i) with
    | none => .failed s (o.fails 0x4C 0 va false)
    | some bank => withBytes s o [(va, imageBytes fmt)] fun t img =>
      let u := loadSlot t bank fmt (bankSlot z) img
      if bankCount z ≤ i + 1 then .ended u 0 0 else .part u (i + 1) 0

/-! ### Transforms (R260) -/

/-- BANK of a transform descriptor. -/
def xfBank (x : DWord) : Nat := field x 0 5
/-- SPACE of a transform descriptor: is it a compute bank? -/
def xfCompute (x : DWord) : Bool := x.getLsbD 5
/-- SLOT of a transform descriptor. -/
def xfSlot (x : DWord) : Nat := field x 6 4
/-- FMT of a transform descriptor. -/
def xfFmt (x : DWord) : Nat := field x 10 2
/-- SCALES of a transform descriptor. -/
def xfScales (x : DWord) : Bool := x.getLsbD 12

/-- Issue a transform. slots: does it name a slot? compute: the space it needs, if it needs one. -/
def issueXform (s : State) (e : Engine) (d a b : Nat) (slots scales : Bool) (compute : Option Bool) (len : DWord → Nat) : Eff :=
  let x := s.x a
  let named := slots || (scales && xfScales x)
  withCrew s fun c =>
  failIf (x.toNat / 8192 != 0 || xfFmt x == 3 || (xfScales x && (!scales || !xfCompute x || xfFmt x == 2))
      || (named && slotCount (xfFmt x) ≤ xfSlot x) || (!named && (xfSlot x != 0 || xfFmt x != 0)) || (e != .xformFill && s.x b != 0))
    (groupFault s 0x41) <|
  failIf (xfCompute x && s.sq.ident.core == Config.mcCore) (groupFault s 0x4C) <|
  failIf ((if xfCompute x then c.banksSeen else c.storage.length) ≤ xfBank x) (groupFault s 0x41) <|
  failIf (compute.any (· != xfCompute x) || (xfCompute x && c.detached (xfBank x))) (groupFault s 0x4C) <|
  let go (t : State) : Eff :=
    startEngine t .cp (.engine e d x 0 (t.x b) 0 (Vector.replicate 32 0)) 0 d (len x) none [] []
  if xfCompute x then go s else scratchRange s (some c) (65536 * xfBank x) 65536 true go

/-- Bytes of planes that a slot's transform covers. -/
def slotBytes (x : DWord) : Nat := 1024 * slotPlanes (xfFmt x)

def execXformToplanes (d : BitVec 7) (a : BitVec 7) (b : BitVec 7) (s : State) : Res := issue .copy (usesXformToplanes d a b) s fun t =>
  issueXform t .xformToplanes d.toNat a.toNat b.toNat true false (some false) slotBytes

def execXformFromplanes (d : BitVec 7) (a : BitVec 7) (b : BitVec 7) (s : State) : Res := issue .copy (usesXformFromplanes d a b) s fun t =>
  issueXform t .xformFromplanes d.toNat a.toNat b.toNat true false (some false) slotBytes

def execXformFill (d : BitVec 7) (a : BitVec 7) (b : BitVec 7) (s : State) : Res := issue .copy (usesXformFill d a b) s fun t =>
  issueXform t .xformFill d.toNat a.toNat b.toNat false true none fun x => if xfScales x then 256 else 65536

def execXformZero (d : BitVec 7) (a : BitVec 7) (b : BitVec 7) (s : State) : Res := issue .copy (usesXformZero d a b) s fun t =>
  issueXform t .xformZero d.toNat a.toNat b.toNat false false none fun _ => 65536

def execXformChecksum (d : BitVec 7) (a : BitVec 7) (b : BitVec 7) (s : State) : Res := issue .copy (usesXformChecksum d a b) s fun t =>
  issueXform t .xformChecksum d.toNat a.toNat b.toNat false false (some true) fun _ => 65536

/-- The bank of a transform, when it runs; 0x4C when it is gone (R255). -/
def xfTarget (s : State) (o : Op) (x : DWord) (k : Nat → Ran) : Ran :=
  runCrew s o fun c =>
    match (if xfCompute x then c.mapped (xfBank x) else c.storage[xfBank x]?) with
    | none => .failed s (o.fails 0x4C 0 0 true)
    | some bank => k bank

/-- Image elements at a slot's bytes become its planes. Sectors of the slot that were poisoned leave their planes so (R376). -/
def toPlanes (s : State) (bank fmt slot : Nat) : State :=
  let first := 1024 * (slotPlanes fmt * slot)
  let bad := anyPoison s (bankKey bank first) (elementBytes fmt)
  let t := writeSlot s bank fmt slot (imageInt fmt (memRead s.mem (bankKey bank first) (elementBytes fmt)).toArray)
  if bad then (planesOf fmt slot).foldl (fun u i => poisonPlane u bank i) t else t

/-- The inverse of toPlanes. -/
def fromPlanes (s : State) (bank fmt slot : Nat) : State :=
  let first := 1024 * (slotPlanes fmt * slot)
  let bad := anyPoison s (bankKey bank first) (1024 * slotPlanes fmt)
  let ps := slotPlanesBits s bank fmt slot (slotPlanes fmt)
  let img := imageOf fmt (planesInt ps)
  let t := rawWrite s (bankKey bank first) (img ++ List.replicate (1024 * slotPlanes fmt - img.length) 0)
  if bad then (planesOf fmt slot).foldl (fun u i => poisonPlane u bank i) t else t

/-- Fill a bank with a word; its planes are then whole and sound. -/
def fillBank (s : State) (bank : Nat) (w : Word) : State :=
  let t := rawWrite s (bankKey bank 0) ((List.replicate 16384 (leBytes 4 w.toNat)).flatten)
  { t with latent := t.latent.filter fun l => match l with
    | .plane b _ => b != bank
    | _ => true }

/-- Run a transform (R260). -/
def runXform (s : State) (o : Op) (e : Engine) (x z : DWord) : Ran :=
  xfTarget s o x fun bank =>
    match e with
    | .xformToplanes => .ended (toPlanes s bank (xfFmt x) (xfSlot x)) 0 0
    | .xformFromplanes => .ended (fromPlanes s bank (xfFmt x) (xfSlot x)) 0 0
    | .xformFill =>
      if xfScales x then .ended (writeScales s bank (xfFmt x) (xfSlot x) (List.replicate 256 (z.truncate 8))) 0 0
      else .ended (fillBank s bank (z.truncate 32)) 0 0
    | .xformZero => .ended (fillBank s bank 0) 0 0
    | _ =>
      let t := verifyPlanes s bank (List.range 64) false
      .ended t 0 ((List.range 64).filter fun i => planeBad t bank i).length

/-! ### Bank modes (R255, R256) -/

/-- Does an outstanding operation touch banks or accumulator rows? -/
def Op.touchesBanks (o : Op) : Bool :=
  !o.done && match o.act with
    | .load sp _ _ _ _ => sp != .global
    | .store sp _ => sp != .global
    | .atomic sp _ _ _ _ => sp != .global
    | .engine _ _ _ _ _ _ _ => o.cls != .ar

/-- Change the crew once every operation of its squads that touches its banks is done (R255). -/
def changeBanks (s : State) (k : Crew → Eff) : Eff :=
  withCrew s fun c =>
    if s.squads.any fun q => q.ident.crew == c.id && q.ops.any Op.touchesBanks then .stall else k c

/-- Sectors of storage bank i lose their race-watch state. -/
def Crew.forgetRace (c : Crew) (i : Nat) : List RaceSector := c.race.filter fun r => r.sector / 1024 != i

/-- Storage bank S − 1 becomes compute bank b + C: a plane is poisoned when any of its sectors was, and the checksums of the 64 planes
are computed afresh, so that no mismatch of theirs is left from before; the scale side store is as it was (R85). -/
def toCompute (s : State) (c : Crew) : State :=
  let i := c.storage.length - 1
  let bank := c.storage.getD i 0
  let n := c.banksSeen
  let t := { s with mem := memClear s.mem (rowKey c.id (96 * n) 0) (96 * 512) }
  let t := (List.range 64).foldl (fun u p => if planeBad u bank p then poisonPlane u bank p else u) t
  let t := { t with latent := t.latent.filter fun l => match l with
    | .plane b _ => b != bank
    | _ => true }
  t.setCrew { c with storage := c.storage.take i, compute := c.compute ++ [bank], race := c.forgetRace i }

/-- Compute bank b + C − 1 becomes storage bank S; its 96 highest rows are dropped. -/
def toStorage (s : State) (c : Crew) : State :=
  let i := c.compute.length - 1
  let bank := c.compute.getD i 0
  let n := 96 * (c.banksSeen - 1)
  let t := { s with mem := memClear s.mem (rowKey c.id n 0) (96 * 512) }
  t.setCrew { c with storage := c.storage ++ [bank], compute := c.compute.take i, marks := c.marks.filter fun m => m.1 < n }

def execBankCompute (s : State) : Res := issue .bank .none s fun t =>
  withCrew t fun c => failIf c.storage.isEmpty (groupFault t 0x4C) <| changeBanks t fun c => .done (toCompute t c)

def execBankStorage (s : State) : Res := issue .bank .none s fun t =>
  withCrew t fun c => failIf c.compute.isEmpty (groupFault t 0x4C) <| changeBanks t fun c => .done (toStorage t c)

def execBankAttach (s : State) : Res := issue .bank .none s fun t =>
  withCrew t fun c => failIf c.residen.isEmpty (groupFault t 0x4C) <|
  changeBanks t fun c => .done (t.setCrew { c with attached := true })

def execBankDetach (s : State) : Res := issue .bank .none s fun t =>
  withCrew t fun c => failIf c.residen.isEmpty (groupFault t 0x4C) <|
  changeBanks t fun c => .done (t.setCrew { c with attached := false })

/-- The query word of a crew (R256). -/
def queryWord (c : Crew) : Nat :=
  c.storage.length + c.compute.length * 64 + c.residen.length * 4096 + b2n c.attached * 262144

def execBankQuery (d : BitVec 7) (a : BitVec 7) (s : State) : Res := issue .bank (usesBankQuery d a) s fun t =>
  let x := t.x a.toNat
  withCrew t fun c =>
  if x.getLsbD 8 then
    match c.computeBank (field x 0 5) with
    | none => .fault (groupFault t 0x41)
    | some bank =>
      failIf (x &&& ~~~0x11F != 0) (groupFault t 0x41) <| .done (t.setX d.toNat (BitVec.ofNat 64 (poisonMask t bank)))
  else failIf (x != 0) (groupFault t 0x41) <| .done (t.setX d.toNat (BitVec.ofNat 64 (queryWord c)))

end Sys2Proof.Machine
end

