-- ==== Sys2Proof/Machine/Tile.lean ====
section
/-! DEFINITION. Tile operations (R72 to R76, R261 to R269): `tmac`, `tdrain`, `tacc` and `dotv`. -/

namespace Sys2Proof.Machine

/-! ### Descriptors (R261) -/

/-- ROW of an accumulator descriptor. -/
def accRow (x : DWord) : Nat := field x 0 12
/-- OVW of an accumulator descriptor. -/
def accOvw (x : DWord) : Bool := x.getLsbD 12
/-- TAG of an accumulator descriptor. -/
def accTag (x : DWord) : Nat := field x 13 6
/-- INT of an accumulator descriptor. -/
def accInt (x : DWord) : Bool := x.getLsbD 19

/-- Is an accumulator descriptor, for n rows, outside what the crew has (R91, R261)? -/
def accBad (c : Crew) (x : DWord) (n : Nat) : Bool :=
  x.toNat / 1048576 != 0 || c.rows ≤ accRow x || c.rows < accRow x + n

/-- The rows of the accumulator store that a crew has now hold rows r to r + n − 1; 0x4C otherwise (R255). -/
def withRows (s : State) (o : Op) (r n : Nat) (k : Crew → Ran) : Ran :=
  runCrew s o fun c => if c.rows < r + n then .failed s (o.fails 0x4C 0 0 false) else k c

/-- Count the statistics of an engine's results (R77): how many saturated, flushed and became NaN. -/
def countResults (s : State) (tag : Nat) (rs : List FRes) : State :=
  addStats s tag (rs.filter (·.sat)).length (rs.filter (·.flush)).length (rs.filter (·.nan)).length

/-! ### tmac (R261 to R264) -/

/-- The activation formats of a pairing: 0 mxi8, 1 mxf4, 2 ci. -/
def actFmt (p : Nat) : Nat := if p = 1 then 1 else if p = 3 then 2 else 0

/-- The weight format of a pairing (R261). -/
def weightFmt (p : Nat) : Nat := if p = 0 then 0 else if p = 3 then 2 else 1

/-- OFF of an activation descriptor (R261). -/
def actOff (x : DWord) : Nat := field x 0 21
/-- M of an activation descriptor. -/
def actRows (x : DWord) : Nat := field x 21 6 + 1
/-- The plane count of an activation descriptor, of n natural planes. -/
def actPlanes (x : DWord) (n : Nat) : Nat := if field x 27 4 = 0 then n else field x 27 4

/-- Bytes of the elements of an activation tile of m rows (R262). -/
def actBytes (fmt m : Nat) : Nat := if fmt = 2 then 512 * ((m + 7) / 8) else if fmt = 1 then 32 * m else 64 * m

/-- Bytes of an activation tile with its scales. -/
def tileBytes (fmt m : Nat) : Nat := actBytes fmt m + (if fmt = 2 then 0 else 2 * m)

/-- The weight planes of a bank descriptor (R262). -/
def weightPlanes (p : Nat) (z : DWord) : Nat := if p = 3 then (if bankPlanes z = 0 then 8 else bankPlanes z) else slotPlanes (weightFmt p)

/-- Are the operand values of a `tmac` outside their ranges (R259, R261 to R263)? -/
def tmacBad (c : Crew) (p : Nat) (x y z : DWord) : Bool :=
  let n := slotPlanes (actFmt p)
  let k := actPlanes x n
  x.toNat / 2147483648 != 0 || n < k || (p == 3 && k < 2)
    || bankDescBad c (weightFmt p) z
    || (if p = 3 then bankPlanes z == 1 || 8 < bankPlanes z else bankPlanes z != 0)
    || accBad c y (actRows x * bankCount z)

def execTmac (p : BitVec 3) (d : BitVec 7) (a : BitVec 7) (b : BitVec 7) (s : State) : Res := issue .tileLast (usesTmac p d a b) s fun t =>
  let x := t.x a.toNat
  let y := t.x d.toNat
  let z := t.x b.toNat
  let fmt := actFmt p.toNat
  withLast t fun last =>
  withCrew t fun c =>
  failIf (tmacBad c p.toNat x y z) (groupFault t 0x41) <|
  aligned t (actOff x) (if fmt = 2 then 512 else 64) false <|
  scratchRange t (some c) (actOff x) (tileBytes fmt (actRows x)) false fun u =>
  bankRange u c (bankFirst z) (bankCount z) <|
  startEngine u .tl (.engine (.tmac p.toNat) 0 x y z 0 (Vector.replicate 32 0)) (accTag y) 0 0 last [] []

/-- floor(c / 2^(n − p)) × 2^(n − p) (R262). -/
def lowered (n p : Nat) (c : Int) : Int := c / (2 ^ (n - p) : Nat) * (2 ^ (n - p) : Nat)

/-- The integer of element (m, k) of an activation tile with p planes (R69, R72, R262). -/
def actElem (fmt p : Nat) (tile : Array Byte) (m k : Nat) : Int :=
  match fmt with
  | 0 => lowered 8 p (tile.getD (64 * m + k) 0).toInt
  | 1 =>
    let b := (tile.getD (32 * m + k / 2) 0).toNat
    lowered 5 p (twiceE2m1 (if k % 2 = 0 then b % 16 else b / 16))
  | _ =>
    let e := 64 * (m % 8) + k
    signedBits p ((List.range p).foldl (fun y j =>
      2 * y + (if (tile.getD (512 * (m / 8) + 64 * j + e / 8) 0).getLsbD (e % 8) then 1 else 0)) 0)

/-- The sum of products over n K positions from k on (R72). -/
def sumK (a w : Nat → Int) (k n : Nat) : Int := (List.range n).foldl (fun x i => x + a (k + i) * w (k + i)) 0

/-- One addition to an FP32 accumulator element of a converted block sum h × 2^e (R73); ftz flushes as version 1 does (R76), where
a subnormal element is read as a zero of its own sign (DESIGN CHOICE, log 82). A step that saturates or flushes counts for the element
(R77), even where its final value does neither (DESIGN CHOICE, log 99). -/
def addBlock (ftz : Bool) (e : Int) (nan : Bool) (acc : FRes) (h : Int) : FRes :=
  let b : FRes := if nan then fp32.nanRes false else if h = 0 then { bits := 0 }
    else fp32.finite 0 ftz false (decide (h < 0)) h.natAbs e false
  let r := fp32.add 0 ftz (fp32.operand ftz acc.bits) (fp32.operand ftz b.bits)
  { bits := r.bits, sat := acc.sat || b.sat || r.sat, flush := acc.flush || b.flush || r.flush }

/-- The pairing constant g (R73). -/
def pairConstant (p : Nat) : Int := if p = 0 then -12 else if p = 1 then -2 else -7

/-- An MX update of one FP32 element (R73, R76): xa and xw are the scales of the two K-blocks. -/
def mxUpdate (v1 : Bool) (g : Int) (xa xw : Nat → Nat) (a w : Nat → Int) (acc : Nat) : FRes :=
  let r := (List.range 2).foldl (fun r blk =>
    let nan := xa blk == 255 || xw blk == 255
    let e : Int := (xa blk : Int) + xw blk - 254 + g
    if v1 then
      addBlock true e nan (addBlock true e nan r (sumK a w (32 * blk) 16)) (sumK a w (32 * blk + 16) 16)
    else addBlock false e nan r (sumK a w (32 * blk) 32)) ({ bits := acc } : FRes)
  { r with nan := (fp32.decode r.bits).isNan }

/-- A contour update of one INT32 element (R74). -/
def ciUpdate (a w : Nat → Int) (acc : Nat) : FRes :=
  let t := (BitVec.ofNat 32 acc).toInt + sumK a w 0 64
  let v := satInt t (-2147483648) 2147483647
  { bits := (BitVec.ofInt 32 v).toNat, sat := v != t }

/-- The updated elements of one accumulator row. -/
def tmacRow (s : State) (c : Crew) (p : Nat) (x y z : DWord) (tile : Array Byte) (m i : Nat) (ws : List Nat) (xw : List Byte) : List FRes :=
  let fmt := actFmt p
  let k := actPlanes x (slotPlanes fmt)
  let old := if accOvw y then List.replicate 128 0 else rowRead s c.id (accRow y + m * bankCount z + i)
  let a := ((List.range 64).map (actElem fmt k tile m)).toArray
  let base := actBytes fmt (actRows x) + 2 * m
  (List.range 128).map fun n =>
    let w := ((List.range 64).map fun j => planesInt ws j n).toArray
    let f (j : Nat) : Int := a.getD j 0
    let g (j : Nat) : Int := w.getD j 0
    if p = 3 then ciUpdate f g (old.getD n 0)
    else mxUpdate (s.nbv == 1) (pairConstant p) (fun blk => (tile.getD (base + blk) 0).toNat)
      (fun blk => (xw.getD (2 * n + blk) 0).toNat) f g (old.getD n 0)

/-- A `tmac`'s read of the slot of one bank, which no `bload`, `xform` or `bank` divides (R264): its planes and its scales. -/
def readSlot (s : State) (p : Nat) (z : DWord) (b : Nat) : List Nat × List Byte :=
  (slotPlanesBits s b (weightFmt p) (bankSlot z) (weightPlanes p z), memRead s.mem (scaleKey b (weightFmt p) (bankSlot z)) 256)

/-- Multiply and accumulate (R263): the slots read from every bank, row by row. -/
def multiply (s : State) (c : Crew) (p : Nat) (x y z : DWord) (tile : Array Byte) (slots : List (List Nat × List Byte)) : State × List FRes :=
  slots.zipIdx.foldl (fun (st : State × List FRes) b =>
    (List.range (actRows x)).foldl (fun (u : State × List FRes) m =>
      let rs := tmacRow u.1 c p x y z tile m b.2 b.1.1 b.1.2
      (rowWrite u.1 c.id (accRow y + m * bankCount z + b.2) 0 (rs.map (·.bits)), u.2 ++ rs)) st) (s, [])

/-- Is data of an activation tile uncorrectable, among the sectors that are read (R262)? -/
def tilePoison (s : State) (c : Crew) (fmt : Nat) (x : DWord) : Bool :=
  if fmt = 2 then (List.range ((actRows x + 7) / 8)).any fun i => spadPoison s c.storage (actOff x + 512 * i) (64 * actPlanes x 8)
  else spadPoison s c.storage (actOff x) (tileBytes fmt (actRows x))

/-- Read an activation tile (R262, R264). -/
def withTile (s : State) (o : Op) (c : Crew) (fmt : Nat) (x : DWord) (k : List Byte → Ran) : Ran :=
  let n := tileBytes fmt (actRows x)
  if c.spadBytes < actOff x + n then .failed s (o.fails 0x4C 0 (actOff x) false)
  else if tilePoison s c fmt x then .failed s (o.fails 0x4A 2 (actOff x) false)
  else k (spadRead s c.storage (actOff x) n)

/-- Run a `tmac` (R264). Each run reads one more bank, so that every bank supplies the weights of its own moment (R302); the last
one multiplies. A bank that is gone, or whose slot is poisoned, ends it before any element is written. -/
def runTmac (s : State) (o : Op) (p : Nat) (x y z : DWord) : Ran :=
  withRows s o (accRow y) (actRows x * bankCount z) fun c =>
    match c.mapped (bankFirst z + o.pos) with
    | none => .failed s (o.fails 0x4C 0 0 false)
    | some b =>
      if slotBad s b (weightFmt p) (bankSlot z) then .failed s (o.fails 0x4A 2 0 false)
      else
        let slots := o.slots ++ [readSlot s p z b]
        if o.pos + 1 < bankCount z then .part (setOp s { o with slots := slots }) (o.pos + 1) o.detail
        else withTile s o c (actFmt p) x fun tile =>
          let r := multiply s c p x y z tile.toArray slots
          .ended (countResults r.1 (accTag y) r.2) 0 0

/-! ### tdrain (R265 to R267) -/

/-- Bytes of an output row (R265). -/
def drainRow (fm : Nat) : Nat := match fm with
  | 0 => 512
  | 1 => 256
  | 4 => 64
  | 6 => 512
  | _ => 128

/-- ROWS of a drain shape. -/
def drainRows (z : DWord) : Nat := field z 0 7 + 1
/-- STRIDE of a drain shape. -/
def drainStride (z : DWord) : Nat := field z 16 32
/-- Output rows, or lines for ci8. -/
def drainOuts (fm : Nat) (z : DWord) : Nat := if fm = 6 then drainRows z / 4 else drainRows z
/-- Does a drain write MX blocks? -/
def drainMx (fm : Nat) : Bool := fm == 4 || fm == 5

/-- Are the operand values of a `tdrain` outside their ranges (R265)? -/
def drainBad (c : Crew) (fm : Nat) (y z x2 : DWord) : Bool :=
  accBad c y (drainRows z) || field z 8 8 != 0 || field z 48 16 != 0 || (z.getLsbD 7 && !(1 ≤ fm && fm ≤ 3))
    || drainStride z < drainRow fm || (fm == 6 && drainRows z % 4 != 0) || (!drainMx fm && x2.toNat / 4294967296 != 0)

/-- The ranges that a drain writes: its rows, and the scales of MX rows. -/
def drainRanges (fm : Nat) (x z x2 : DWord) : List (Nat × Nat) :=
  (List.range (drainOuts fm z)).map (fun i => (x.toNat + drainStride z * i, drainRow fm))
    ++ (if drainMx fm then [(x2.toNat, 4 * drainRows z)] else [])

def execTdrain (fm : BitVec 3) (d : BitVec 7) (a : BitVec 7) (b : BitVec 7) (s : State) : Res := issue .tile (usesTdrain fm d a b) s fun t =>
  let x := t.x d.toNat
  let x2 := t.x (d.toNat + 1)
  let y := t.x a.toNat
  let z := t.x b.toNat
  let k := fm.toNat
  let unit := if k = 6 then 512 else 64
  withCrew t fun c =>
  failIf (drainBad c k y z x2) (groupFault t 0x41) <|
  aligned t x.toNat unit true <| aligned t (drainStride z) unit true <|
  failIf (drainMx k && x2.toNat % 4 != 0) (rangeFault t 0x43 0 x2.toNat true) <|
  globalRange t x.toNat (drainStride z * (drainOuts k z - 1) + drainRow k) true <|
  globalRange t x2.toNat (if drainMx k then 4 * drainRows z else 0) true <|
  startEngine t .tl (.engine (.tdrain k) 0 x y z x2 (Vector.replicate 32 0)) (accTag y) 0 0 none [] (drainRanges k x z x2)

/-- An accumulator element as a number: an exact integer (R266), or FP32, whose subnormal values are read as zero under version 1,
with their sign (R76; log 82). -/
def accValue (v1 int : Bool) (x : Nat) : Num :=
  if int then
    let v := (BitVec.ofNat 32 x).toInt
    .fin (decide (v < 0)) v.natAbs 0
  else fp32.operand v1 x

/-- v × u, a NaN where IEEE 754 gives one (R266, R268). -/
def product (v u : Num) : Num :=
  if v.isNan || u.isNan then .nan false else (v.mul u).getD (.nan false)

/-- A number in a float format to nearest-even (R70, R266). -/
def narrow (f : Fmt) (sat : Bool) (v : Num) : FRes :=
  match v with
  | .nan _ => f.nanRes false
  | .inf n => match f.top with
    | .nanOnly => if sat then { bits := f.signed n f.largest, sat := true } else { bits := f.nan, nan := true }
    | _ => if sat then { bits := f.signed n f.largest, sat := true } else { bits := f.signed n f.inf }
  | .fin n m e => f.finite 0 false sat n m e false

/-- A number as an integer of n bits to nearest-even with saturation; a NaN gives 0 (R266, R268). -/
def narrowInt (n : Nat) (v : Num) : FRes :=
  let lo : Int := -(2 ^ (n - 1) : Nat)
  let hi : Int := (2 ^ (n - 1) : Nat) - 1
  let code (x : Int) : Nat := (BitVec.ofInt n x).toNat
  match v with
  | .nan _ => { bits := 0, nan := true }
  | .inf neg => { bits := code (if neg then lo else hi), sat := true }
  | .fin neg m e =>
    let x := (toInteger 0 neg m e).1
    let y := satInt x lo hi
    { bits := code y, sat := x != y, flush := m != 0 && x == 0 }

/-- The float format of a drain. -/
def drainFmt (fm : Nat) : Fmt := match fm with
  | 0 => fp32
  | 1 => bf16
  | 2 => e4m3
  | _ => e5m2

/-- A row in a float format (R266). -/
def drainFloat (s : State) (fm : Nat) (sat : Bool) (u : Num) (row : List Num) : List FRes :=
  row.map fun v => narrow (drainFmt fm) (sat || (fm == 2 && s.nbv == 1)) (product v u)

/-- A block of a row as an MX block: its scale, and its codes with what each counts (R214, R215, R266). -/
def drainBlock (mxf4 : Bool) (xs : List Num) : Nat × List FRes :=
  let X := mxScale (if mxf4 then 2 else 0) xs
  (X, xs.map fun x =>
    let r := if mxf4 then mxFp4 X x else mxInt8 X x
    { bits := r.1, sat := r.2.1 != 0, flush := r.2.2.1 != 0, nan := r.2.2.2 != 0 })

/-- The four blocks of a row. -/
def rowBlocks (row : List Num) : List (List Num) := (List.range 4).map fun b => (row.drop (32 * b)).take 32

/-- Two codes a byte, the even element low (R68). -/
def packNibbles : List Nat → List Byte
  | a :: b :: rest => BitVec.ofNat 8 (a + 16 * b) :: packNibbles rest
  | _ => []

/-- A line of ci8 codes in planes (R69). -/
def ciLine (codes : Array Nat) : List Byte :=
  (List.range 512).map fun i =>
    let plane := 7 - i / 64
    BitVec.ofNat 8 ((List.range 8).foldr (fun b x => (if bit (codes.getD (i % 64 * 8 + b) 0) plane then 1 else 0) + 2 * x) 0)

/-- What a drain writes: each output's address and bytes, and the results that it counts. -/
def drainOutputs (s : State) (fm : Nat) (x y z x2 : DWord) (rows : List (List Nat)) : List (Nat × List Byte) × List FRes :=
  let vals := rows.map fun r => r.map (accValue (s.nbv == 1) (accInt y))
  let u := fp32.decode (x2.toNat % 4294967296)
  let va (i : Nat) : Nat := x.toNat + drainStride z * i
  if fm = 6 then
    let codes := vals.map fun r => r.map fun v => narrowInt 8 (product v u)
    ((List.range (drainOuts fm z)).map fun i => (va i, ciLine (((codes.drop (4 * i)).take 4).flatten.map (·.bits)).toArray),
      codes.flatten)
  else if drainMx fm then
    let blocks := vals.map fun r => (rowBlocks r).map (drainBlock (fm == 4))
    let bytes (bs : List (Nat × List FRes)) : List Byte :=
      let codes := bs.flatMap fun b => b.2.map (·.bits)
      if fm = 4 then packNibbles codes else codes.map (BitVec.ofNat 8)
    (blocks.zipIdx.map (fun b => (va b.2, bytes b.1))
        ++ blocks.zipIdx.map (fun b => (x2.toNat + 4 * b.2, b.1.map fun k => BitVec.ofNat 8 k.1)),
      blocks.flatMap fun bs => bs.flatMap (·.2))
  else
    let outs := vals.map (drainFloat s fm (z.getLsbD 7) u)
    let w := (drainFmt fm).width / 8
    (outs.zipIdx.map fun r => (va r.2, r.1.flatMap fun e => leBytes w e.bits), outs.flatten)

/-- Cut outputs into pieces where memory holds them: VA, key and bytes of each. -/
def placeOutputs (ks : List (Nat × Nat × Nat)) (outs : List (Nat × List Byte)) : List (Nat × Nat × List Byte) :=
  outs.flatMap fun p => ks.filterMap fun k =>
    let lo := Nat.max p.1 k.1
    let hi := Nat.min (p.1 + p.2.length) (k.1 + k.2.2)
    if lo < hi then some (lo, k.2.1 + (lo - k.1), (p.2.drop (lo - p.1)).take (hi - lo)) else none

/-- Byte i of a line as pieces give it. -/
def lineByte (ps : List (Nat × Nat × List Byte)) (a : Nat) : Option (Nat × Byte) :=
  (ps.find? fun p => p.2.1 ≤ a && a < p.2.1 + p.2.2.length).map fun p => (p.1 + (a - p.2.1), p.2.2.getD (a - p.2.1) 0)

/-- The runs of bytes that a line receives: VA, key and bytes. -/
def lineRuns : List (Nat × Option (Nat × Byte)) → List (Nat × Nat × List Byte)
  | [] => []
  | (_, none) :: rest => lineRuns rest
  | (a, some (va, b)) :: rest =>
    match lineRuns rest with
    | (va2, a2, bs) :: more => if a2 = a + 1 then (va, a, b :: bs) :: more else (va, a, [b]) :: (va2, a2, bs) :: more
    | [] => [(va, a, [b])]

/-- The distiller writes its lines, each whole where it covers it (R267): the VA of the first that refused. -/
def writeLines (s : State) (ps : List (Nat × Nat × List Byte)) : State × Option Nat :=
  let lines := (ps.flatMap fun p => linesOf p.2.1 p.2.2.length).eraseDups
  lines.foldl (fun (st : State × Option Nat) line =>
    let here := ps.filter fun p => p.2.1 < line + 512 && line < p.2.1 + p.2.2.length
    (lineRuns ((List.range 512).map fun i => (line + i, lineByte here (line + i)))).foldl
      (fun (u : State × Option Nat) r =>
        let w := writeKey u.1 true r.1 r.2.1 r.2.2
        (w.1, u.2.orElse fun _ => w.2)) st) (s, none)

/-- Rows of a crew become 0, with their marks (R266, R268). -/
def zeroRows (s : State) (c : Crew) (r n : Nat) : State :=
  { s with mem := memClear s.mem (rowKey c.id r 0) (512 * n) }.setCrew { c with marks := c.marks.filter fun m => !(r ≤ m.1 && m.1 < r + n) }

/-- A line that is stored compressed is stored raw from now on, with the same bytes. -/
def storeRaw (s : State) (line : Nat) : State :=
  if codeOf s line = 0 || 9 ≤ codeOf s line then s else setCode (rawWrite s line (lineBytes s line)) line 0

/-- Poison the sectors of the outputs of marked rows, those that receive the scales of an MX row included (R267, R374). A line that holds
such a sector is stored raw, so that the sector has its place in storage (DESIGN CHOICE, log 109). -/
def poisonOutputs (s : State) (fm : Nat) (y z : DWord) (c : Crew) (outs : List (Nat × List Byte)) (ks : List (Nat × Nat × Nat)) : State × Option Nat :=
  let rows := (List.range (drainRows z)).filter fun i => c.marks.any fun m => m.1 == accRow y + i
  let places := (rows.map fun i => if fm = 6 then i / 4 else i) ++ (if drainMx fm then rows.map fun i => drainRows z + i else [])
  let hit := places.filterMap fun i => outs[i]?
  let secs := (placeOutputs ks hit).flatMap fun p => sectorsOf p.2.1 p.2.2.length
  let t := ((secs.map fun x => x / 8 * 512).eraseDups).foldl storeRaw s
  ({ t with poison := setAddAll t.poison secs }, (hit.head?).map (·.1))

/-- Run a `tdrain` (R266, R267). -/
def runDrain (s : State) (o : Op) (fm : Nat) (x y z x2 : DWord) : Ran :=
  withRows s o (accRow y) (drainRows z) fun c =>
    let clear (t : State) : State := if accOvw y then zeroRows t c (accRow y) (drainRows z) else t
    match reachRanges s o needW (drainRanges fm x z x2) with
    | (t, .absent page detail joined) => .waits t page detail joined true
    | (t, .later) => .later t
    | (t, .bad e) => .failed (if e.cause = 0x4D then clear t else t) e
    | (t, .keys ks) =>
      let rows := (List.range (drainRows z)).map fun i => rowRead t c.id (accRow y + i)
      let outs := drainOutputs t fm x y z x2 rows
      let w := writeLines (noteWritten t o.id ks) (placeOutputs ks outs.1)
      let p := poisonOutputs w.1 fm y z c outs.1 ks
      let u := clear p.1
      match w.2, p.2 with
      | some a, _ => .failed u (o.fails 0x4D 0 a true)
      | none, some a => .failed u (o.fails 0x4A 2 a true)
      | none, none => .ended (countResults u (accTag y) outs.2) 0 0

/-! ### tacc (R268) -/

/-- Issue a `tacc` on n rows. -/
def issueTacc (s : State) (e : Engine) (d : Nat) (y x : DWord) (n : Nat) (bad : Crew → Bool) (v : Vector Word 32) : Eff :=
  withCrew s fun c =>
  failIf (accBad c y n || accOvw y || bad c) (groupFault s 0x41) <|
  startEngine s .tl (.engine e d x y (BitVec.ofNat 64 n) 0 v) (accTag y) 0 0 none [] []

/-- Is a row count beyond 3072? -/
def tooMany (x : DWord) (_ : Crew) : Bool := 3072 < x.toNat

/-- Is a column none of 0, 32, 64 and 96? -/
def badColumn (x : DWord) (_ : Crew) : Bool := 96 < x.toNat || x.toNat % 32 != 0

def execTaccZero (a : BitVec 7) (b : BitVec 7) (s : State) : Res := issue .tile (usesTaccZero a b) s fun t =>
  issueTacc t .taccZero 0 (t.x a.toNat) 0 (t.x b.toNat).toNat (tooMany (t.x b.toNat)) (Vector.replicate 32 0)

def execTaccRead (d : BitVec 7) (a : BitVec 7) (b : BitVec 7) (s : State) : Res := issue .tile (usesTaccRead d a b) s fun t =>
  issueTacc t .taccRead d.toNat (t.x a.toNat) (t.x b.toNat) 1 (badColumn (t.x b.toNat)) (Vector.replicate 32 0)

def execTaccWrite (d : BitVec 7) (a : BitVec 7) (b : BitVec 7) (s : State) : Res := issue .tile (usesTaccWrite d a b) s fun t =>
  issueTacc t .taccWrite 0 (t.x a.toNat) (t.x b.toNat) 1 (badColumn (t.x b.toNat)) (vget t.sq.regs.v d.toNat)

def execTaccAdd (d : BitVec 7) (a : BitVec 7) (b : BitVec 7) (s : State) : Res := issue .tile (usesTaccAdd d a b) s fun t =>
  let n := t.x b.toNat
  let x := t.x d.toNat
  issueTacc t .taccAdd 0 (t.x a.toNat) x n.toNat (fun c => tooMany n c || accBad c x n.toNat || accOvw x) (Vector.replicate 32 0)

def execTaccScale (d : BitVec 7) (a : BitVec 7) (b : BitVec 7) (s : State) : Res := issue .tile (usesTaccScale d a b) s fun t =>
  issueTacc t .taccScale 0 (t.x a.toNat) (t.x d.toNat) (t.x b.toNat).toNat (tooMany (t.x b.toNat)) (Vector.replicate 32 0)

/-- Element c of a row is marked (R374). -/
def isMarked (c : Crew) (row col : Nat) : Bool := c.marks.contains (row, col)

/-- The word of an accumulator element as it is read: an FP32 subnormal is read as a zero of its sign under version 1 (R76; log 82). -/
def accWord (v1 int : Bool) (x : Nat) : Nat := if v1 && !int && fp32.subnormal x then x / 2147483648 * 2147483648 else x

/-- A column read into a vector register (R92, R268). -/
def readColumn (s : State) (c : Crew) (o : Op) (int : Bool) (d row c0 : Nat) : State :=
  let xs := rowRead s c.id row
  let t := s.setV d o.active fun l => BitVec.ofNat 32 (accWord (s.nbv == 1) int (xs.getD (c0 + l) 0))
  (laneList o.active).foldl (fun u l => if isMarked c row (c0 + l) then markV u d l 0 else u) t

/-- A vector register written into a column (R268). A written element is sound again. -/
def writeColumn (s : State) (c : Crew) (o : Op) (row c0 : Nat) (v : Vector Word 32) : State :=
  let t := (laneList o.active).foldl (fun u l => rowWrite u c.id row (c0 + l) [(vget v l).toNat]) s
  t.setCrew { c with marks := c.marks.filter fun m => !(m.1 == row && c0 ≤ m.2 && m.2 < c0 + 32 && o.active.getLsbD (m.2 - c0)) }

/-- The sum of two elements (R268); FP32 subnormals are read and written as zeros under version 1 (R76). -/
def accSum (v1 int : Bool) (a b : Nat) : FRes :=
  if int then
    let t := (BitVec.ofNat 32 a).toInt + (BitVec.ofNat 32 b).toInt
    let v := satInt t (-2147483648) 2147483647
    { bits := (BitVec.ofInt 32 v).toNat, sat := v != t }
  else
    let r := fp32.add 0 v1 (fp32.operand v1 a) (fp32.operand v1 b)
    { r with nan := (fp32.decode r.bits).isNan }

/-- An element times u (R268). Version 1 reads a subnormal element as zero (R76); a subnormal product is kept, since R76 flushes
converted halves and the results of additions only (log 82). -/
def accTimes (v1 int : Bool) (u : Num) (a : Nat) : FRes :=
  let p := product (accValue v1 int a) u
  if int then narrowInt 32 p else narrow fp32 false p

/-- Change n rows in order, each element by a function of its row and column. -/
def mapRows (s : State) (c : Crew) (r n : Nat) (f : State → Nat → Nat → Nat → FRes) : State × List FRes :=
  (List.range n).foldl (fun (st : State × List FRes) i =>
    let rs := (rowRead st.1 c.id (r + i)).zipIdx.map fun x => f st.1 i x.2 x.1
    (rowWrite st.1 c.id (r + i) 0 (rs.map (·.bits)), st.2 ++ rs)) (s, [])

/-- Marks of source rows pass to the rows they are added to (R374). -/
def passMarks (c : Crew) (r q n : Nat) : List (Nat × Nat) :=
  (List.range n).foldl (fun ms i => ms ++ ((ms.filter fun m => m.1 == q + i).map fun m => (r + i, m.2)).filter fun m => !ms.contains m) c.marks

/-- Add n source rows to n rows in order (R268), by the INT of the destination's descriptor; INT and TAG of the source's are not looked
at (DESIGN CHOICE, log 104). -/
def addRows (s : State) (c : Crew) (int : Bool) (r q n : Nat) : State × List FRes :=
  let m := mapRows s c r n fun t i col x => accSum (s.nbv == 1) int x ((rowRead t c.id (q + i)).getD col 0)
  (m.1.setCrew { c with marks := passMarks c r q n }, m.2)

/-- Run a `tacc` (R268). The results of `tacc.add` and `tacc.scale` count under TAG, as R268 says, although R77's list of counting
operations does not name them (DEDUCED, log 88). -/
def runTacc (s : State) (o : Op) (e : Engine) (d : Nat) (x y : DWord) (n : Nat) (v : Vector Word 32) : Ran :=
  let row := accRow y
  withRows s o row n fun c =>
    match e with
    | .taccZero => .ended (zeroRows s c row n) 0 0
    | .taccRead => .ended (readColumn s c o (accInt y) d row x.toNat) 0 0
    | .taccWrite => .ended (writeColumn s c o row x.toNat v) 0 0
    | .taccAdd =>
      if c.rows < accRow x + n then .failed s (o.fails 0x4C 0 0 false)
      else
        let r := addRows s c (accInt y) row (accRow x) n
        .ended (countResults r.1 (accTag y) r.2) 0 0
    | _ =>
      let u := fp32.decode (x.toNat % 4294967296)
      let r := mapRows s c row n fun _ _ _ a => accTimes (s.nbv == 1) (accInt y) u a
      .ended (countResults r.1 (accTag y) r.2) 0 0

/-! ### dotv (R75, R269) -/

/-- Bytes of an element of a dot product. -/
def dotBytes (fm : Nat) : Nat := if fm = 0 then 4 else if fm = 1 then 2 else 1

/-- Length, and where x and y lie. -/
def dotLen (z : DWord) : Nat := field z 0 32
/-- Does x lie in scratchpad? -/
def dotXs (z : DWord) : Bool := z.getLsbD 32
/-- Does y lie in scratchpad? -/
def dotYs (z : DWord) : Bool := z.getLsbD 33

/-- The check of one vector. -/
def dotRange (s : State) (scratch : Bool) (a n : Nat) (k : State → Eff) : Eff :=
  if scratch then scratchRange s s.myCrew a n false k else globalRange s a n false (k s)

def execDotv (fm : BitVec 3) (d : BitVec 7) (a : BitVec 7) (b : BitVec 7) (s : State) : Res := issue .tile (usesDotv fm d a b) s fun t =>
  let x := t.x a.toNat
  let y := t.x (a.toNat + 1)
  let z := t.x b.toNat
  let w := dotBytes fm.toNat
  let n := dotLen z * w
  failIf (z.toNat / 17179869184 != 0 || 65535 < dotLen z) (groupFault t 0x41) <|
  aligned t x.toNat w false <| aligned t y.toNat w false <|
  dotRange t (dotXs z) x.toNat n fun u => dotRange u (dotYs z) y.toNat n fun u =>
  startEngine u .tl (.engine (.dotv fm.toNat) d.toNat x y z 0 (Vector.replicate 32 0)) 0 0 0 none
    ((if dotXs z then [] else [(x.toNat, n)]) ++ (if dotYs z then [] else [(y.toNat, n)])) []

/-- Element i of a vector as FP32 bits (R75). -/
def dotElem (fm : Nat) (bs : Array Byte) (i : Nat) : Nat :=
  let b (k : Nat) : Nat := (bs.getD k 0).toNat
  match fm with
  | 0 => b (4 * i) + 256 * b (4 * i + 1) + 65536 * b (4 * i + 2) + 16777216 * b (4 * i + 3)
  | 1 => (b (2 * i) + 256 * b (2 * i + 1)) * 65536
  | _ => (convert e4m3 fp32 0 false false (b i)).bits

/-- Partial j of 32: elements i ≡ j (mod 32) in increasing i, each by one fused multiply-add, from −0 (R75). -/
def dotPartial (mode : Nat) (ftz : Bool) (fm n : Nat) (x y : Array Byte) (j : Nat) : Nat :=
  (List.range ((n + 31 - j) / 32)).foldl (fun acc k =>
    (fp32.fma mode ftz (fp32.operand ftz (dotElem fm x (32 * k + j))) (fp32.operand ftz (dotElem fm y (32 * k + j)))
      (fp32.operand ftz acc)).bits) 0x80000000

/-- Combine values in the order of `redsq` (R75): the butterfly, under version 1 too, since R76 puts only `redsq` itself in
sequence there (DESIGN CHOICE, log 86). -/
def combineTree (mode : Nat) (ftz : Bool) : Nat → List Nat → List Nat
  | 0, xs => xs
  | d + 1, xs =>
    let h := xs.length / 2
    combineTree mode ftz d ((List.range h).map fun l =>
      (fp32.add mode ftz (fp32.operand ftz (xs.getD l 0)) (fp32.operand ftz (xs.getD (l + h) 0))).bits)

/-- A dot product (R75, R269). -/
def dotProduct (mode : Nat) (ftz : Bool) (fm n : Nat) (x y : Array Byte) : DWord :=
  if fm = 3 then BitVec.ofInt 64 ((List.range n).foldl (fun (t : Int) i => t + (x.getD i 0).toInt * (y.getD i 0).toInt) 0)
  else if n = 0 then 0
  else BitVec.ofNat 64 ((combineTree mode ftz 5 ((List.range 32).map (dotPartial mode ftz fm n x y))).headD 0)

/-- Read one vector of a dot product. -/
def dotBytesOf (s : State) (o : Op) (scratch : Bool) (a n : Nat) (k : State → List Byte → Ran) : Ran :=
  if scratch then runCrew s o fun c => withScratch s o c a n (k s) else withBytes s o (if n = 0 then [] else [(a, n)]) k

/-- Run a `dotv`. -/
def runDot (s : State) (o : Op) (fm d : Nat) (x y z : DWord) : Ran :=
  let n := dotLen z * dotBytes fm
  dotBytesOf s o (dotXs z) x.toNat n fun t xs =>
    dotBytesOf t o (dotYs z) y.toNat n fun u ys =>
      .ended (u.setX d (dotProduct (o.mode.toNat % 4) (o.mode.getLsbD 2) fm (dotLen z) xs.toArray ys.toArray)) 0 0

end Sys2Proof.Machine
end

