-- ==== Sys2Proof/Machine/Array.lean ====
section
/-! DEFINITION. Array windows (R97 to R100, R270 to R273): `arrx` and `arr`. -/

namespace Sys2Proof.Machine

/-! ### Descriptors (R272) -/

/-- ROW of an array-vector descriptor. -/
def vecRow (x : DWord) : Nat := field x 0 9
/-- W of an array-vector descriptor. -/
def vecW (x : DWord) : Nat := field x 9 5 + 1
/-- WIN of an array-vector descriptor. -/
def vecWin (x : DWord) : Nat := field x 14 3
/-- SGN of an array-vector descriptor. -/
def vecSgn (x : DWord) : Bool := x.getLsbD 17
/-- FN of an array-vector descriptor. -/
def vecFn (x : DWord) : Nat := field x 18 6
/-- IMM of an array-vector descriptor. -/
def vecImm (x : DWord) : Nat := field x 32 32

/-- Is a descriptor outside its fields' ranges? -/
def vecBad (x : DWord) : Bool := field x 24 8 != 0 || 512 < vecRow x + vecW x

/-- A w-bit value as an integer. -/
def widthInt (w : Nat) (sgn : Bool) (x : Nat) : Int := if sgn then signedBits w (x % 2 ^ w) else (x % 2 ^ w : Nat)

/-- The value of a descriptor's rows in an element (R97). -/
def vecGet (x : DWord) (e : BitVec 512) : Int := widthInt (vecW x) (vecSgn x) (e.toNat / 2 ^ vecRow x)

/-- A source's value: its immediate or its rows. -/
def vecSource (x : DWord) (e : BitVec 512) : Int :=
  if vecFn x = 0x20 then widthInt (vecW x) (vecSgn x) (vecImm x) else vecGet x e

/-- An element with the low bits of an integer in a descriptor's rows. -/
def vecSet (x : DWord) (e : BitVec 512) (v : Int) : BitVec 512 :=
  let mask : BitVec 512 := BitVec.ofNat 512 ((2 ^ vecW x - 1) * 2 ^ vecRow x)
  (e &&& ~~~mask) ||| BitVec.ofNat 512 ((v % (2 ^ vecW x : Nat)).toNat * 2 ^ vecRow x)

/-! ### Windows (R97) -/

/-- A window of the squad's context, if it was ever armed. -/
def findWin (s : State) (num : Nat) : Option ArrWindow := (s.ctx s.sq.ident.ctx).wins.find? fun w => w.num == num

/-- An armed window. -/
def armedWin (s : State) (num : Nat) : Option ArrWindow := (findWin s num).filter (·.armed)

/-- Replace a window of a context. -/
def setWin (s : State) (ctx : Nat) (w : ArrWindow) : State :=
  let c := s.ctx ctx
  s.setCtx ctx { c with wins := w :: c.wins.filter fun v => v.num != w.num }

/-- Elements of a window (R97). -/
def ArrWindow.size (w : ArrWindow) : Nat := 196608 * w.slices.length

/-- Bytes of a window's backing range. -/
def ArrWindow.bytes (w : ArrWindow) : Nat := 12582912 * w.slices.length

/-- Element e of a window. -/
def ArrWindow.elem (w : ArrWindow) (e : Nat) : BitVec 512 := assocGet w.elems e w.dflt

/-- Change every element. -/
def ArrWindow.mapAll (w : ArrWindow) (f : BitVec 512 → BitVec 512) : ArrWindow :=
  { w with dflt := f w.dflt, elems := w.elems.map fun p => (p.1, f p.2) }

/-- Change elements e0 to e0 + n − 1. -/
def ArrWindow.mapRange (w : ArrWindow) (e0 n : Nat) (f : Nat → BitVec 512 → BitVec 512) : ArrWindow :=
  (List.range n).foldl (fun v i => { v with elems := assocSet v.elems (e0 + i) (f i (v.elem (e0 + i))) }) w

/-- The slices that a span takes (R97): the local one, or those of the partition. -/
def spanSlices (s : State) (part : Bool) : List Nat :=
  if part then (List.range 32).filter fun k => (s.part s.myPart).chips.getLsbD k else [chipletOf s.sq.ident.core]

/-! ### Arming (R98, R271) -/

/-- Is a way group of a slice in the hands of a window, or does it hold a quarantined way (R271)? -/
def groupTaken (s : State) (slice g : Nat) : Bool :=
  inArray s slice g || (List.range 4).any fun i => quarantined s slice (4 * g + i)

/-- Way groups of a slice in array mode. -/
def arrayGroups (s : State) (slice : Nat) : Nat := ((List.range 4).filter fun g => inArray s slice g).length

/-- The first refusal that holds, in the order of R271. -/
def armRefusal (s : State) (num g : Nat) (slices : List Nat) : Option Nat :=
  if (armedWin s num).isSome then some 3
  else if slices.any fun k => groupTaken s k g then some 2
  else if slices.any fun k => 3 ≤ arrayGroups s k then some 1
  else none

/-- Every line of a range leaves every L1 and the LLC, written back first (R98 step 2). -/
def purgeRange (s : State) (key n : Nat) : State :=
  let t := (s.l1.filter fun x => x.meets key n).foldl evictSector s
  (t.llc.filter fun l => key ≤ l.addr && l.addr < key + n).foldl (fun u l => llcEvict u l.addr) t

/-- Way group g of slices is written back and invalidated (R98 step 3). -/
def purgeGroup (s : State) (slices : List Nat) (g : Nat) : State :=
  (s.llc.filter fun l => slices.contains l.slice && l.way / 4 == g).foldl (fun u l => llcEvict u l.addr) s

/-- The bytes of a piece of a backing range as its home holds them, and whether any is poisoned. -/
def peek (s : State) (key n : Nat) : List Byte × Bool :=
  ((linesOf key n).flatMap fun line => lineBytes s line, (firstBad s key n).isSome)

/-- The records of a page, from element e on: those that are not 0. -/
def pageElems (e : Nat) (bs : List Byte) : List (Nat × BitVec 512) :=
  (List.range 1024).filterMap fun i =>
    let x := leNat ((bs.drop (64 * i)).take 64)
    if x = 0 then none else some (e + i, BitVec.ofNat 512 x)

/-- Load a window from its pages (R98 step 4): its elements, or the VA of a page with poisoned data. Codes that the device never
writes are recorded (R103). -/
def loadWindow (s : State) (va : Nat) (ks : List (Nat × Nat × Nat)) : State × (List (Nat × BitVec 512) ⊕ Nat) :=
  ks.foldl (fun (st : State × (List (Nat × BitVec 512) ⊕ Nat)) p =>
    match st.2 with
    | .inr _ => st
    | .inl es =>
      let t := (linesOf p.2.1 p.2.2).foldl reachLine st.1
      let r := peek t p.2.1 p.2.2
      (t, if r.2 then .inr p.1 else .inl (es ++ pageElems ((p.1 - va) / 64) r.1))) (s, .inl [])

/-- Window number, way group and span of an `arrx.arm`. -/
def armNum (x : DWord) : Nat := field x 0 3
/-- Way group of an `arrx.arm`. -/
def armGroup (x : DWord) : Nat := field x 3 2
/-- Does an `arrx.arm` span the partition? -/
def armPart (x : DWord) : Bool := x.getLsbD 5

/-- The result register holds a word. -/
def putResult (s : State) (d w : Nat) : State := s.setX d (BitVec.ofNat 64 w)

/-- An arm or disarm ends with an error: its status stands in the result register (R271). -/
def failResult (d : Nat) : Ran → Ran
  | .failed s e => .failed (putResult s d e.cause) e
  | r => r

/-- Must an arm wait before its step 1: for accesses to the backing range that began before the filter stands, so that no write is
lost (R99), or for a sector of it whose write-back is barred (R370) or waits for a link (R334, R390)? (log 16) -/
def armBusy (s : State) (ks : List (Nat × Nat × Nat)) : Bool :=
  ks.any fun p => (s.squads.any fun q => touching q p.2.1 p.2.2)
    || s.l1.any fun x => x.meets p.2.1 p.2.2 && (x.pinned || wbWaits s x)

/-- Arm a window (R98): all pages of the backing range first, then steps 1 to 5. -/
def runArm (s : State) (o : Op) (d : Nat) (x : DWord) (va : Nat) : Ran :=
  let num := armNum x
  let g := armGroup x
  let slices := spanSlices s (armPart x)
  match armRefusal s num g slices with
  | some k => .ended (putResult s d k) 0 0
  | none => failResult d <| withRanges s o needRW [(va, 12582912 * slices.length)] fun t ks =>
    if armBusy t ks then .later t
    else
      let t := ks.foldl (fun u p => purgeRange u p.2.1 p.2.2) t
      let t := purgeGroup t slices g
      if armBusy t ks then .later t
      else match loadWindow t va ks with
      | (t, .inr a) => .failed t (o.fails 0x4A 2 a false)
      | (t, .inl es) =>
        .ended (putResult (setWin t t.sq.ident.ctx
          { num := num, armed := true, group := g, local_ := !armPart x, slices := slices, backing := va,
            keys := ks.map fun p => (p.2.1, p.2.2), part := t.myPart, dflt := 0, elems := es, dropped := 0 }) d 0) 0 0

/-! ### Disarming (R100, R271) -/

/-- The bytes of a page of a window from element e on. -/
def pageBytes (w : ArrWindow) (e : Nat) : List Byte := (List.range 1024).flatMap fun i => leBytes 64 (w.elem (e + i)).toNat

/-- The pages of a window's backing. -/
def ArrWindow.pages (w : ArrWindow) : List (Nat × Nat) := pagePieces (w.bytes / 65536 + 2) w.backing w.bytes

/-- Write a window back page by page, in part (R104): every page that can be written is, and the first error is kept. A backing
line that refuses a write, or a peer that is out of reach, is reported as 0x4A (log 30). -/
def storeWindow (s : State) (o : Op) (w : ArrWindow) : State × Option OpError :=
  w.pages.foldl (fun (st : State × Option OpError) p =>
    match resolve st.1 st.1.sq.ident.priv st.1.sq.ident.core st.1.sq.ident.ctx p.1 needRW with
    | (_, .inr f) => (st.1, st.2.orElse fun _ => some (o.fails (if f.cause = 0x44 then 0x45 else f.cause) f.detail p.1 true))
    | (t, .inl k) =>
      if rangeWay t t.sq.ident.core (canon t k) p.2 (peerOfKey k) == .lost then (t, st.2.orElse fun _ => some (o.fails 0x4A 2 p.1 true))
      else
        let r := writeKey (noteWritten t o.id [(p.1, canon t k, p.2)]) false p.1 (canon t k) (pageBytes w ((p.1 - w.backing) / 64))
        (r.1, st.2.orElse fun _ => if r.2.isSome then some (o.fails 0x4A 2 p.1 true) else none)) (s, none)

/-- The first page of a window's backing that is not present, and whether its walk was another request's. -/
def absentPage (s : State) (w : ArrWindow) : Option (Nat × Nat × Bool) :=
  w.pages.findSome? fun p =>
    match (resolve s s.sq.ident.priv s.sq.ident.core s.sq.ident.ctx p.1 needRW).2 with
    | .inr f => if f.cause = 0x44 then some (p.1, f.detail, f.joined) else none
    | .inl _ => none

/-- Must a write-back of a window wait for the way to some page (R390, R400)? -/
def backingWaits (s : State) (w : ArrWindow) : Bool :=
  w.pages.any fun p =>
    match resolve s s.sq.ident.priv s.sq.ident.core s.sq.ident.ctx p.1 needRW with
    | (_, .inr f) => f.cause == 0
    | (t, .inl k) => rangeWay t t.sq.ident.core (canon t k) p.2 (peerOfKey k) == .wait

/-- Disarm a window (R100): written back, its way groups return to cache with no valid lines, the filter clears. -/
def runDisarm (s : State) (o : Op) (d num : Nat) : Ran :=
  match armedWin s num with
  | none => .ended (putResult s d 4) 0 0
  | some w =>
    match absentPage s w with
    | some (page, detail, joined) => .waits s page detail joined true
    | none =>
      if backingWaits s w then .later s
      else match storeWindow s o w with
      | (t, some e) => .failed (putResult t d e.cause) e
      | (t, none) => .ended (putResult (setWin t t.sq.ident.ctx { w with armed := false, keys := [], elems := [], dflt := 0 }) d 0) 0 0

/-! ### Issue (R270, R272, R273) -/

/-- An array operation of the crew becomes outstanding. -/
def startArray (s : State) (e : Engine) (d : Nat) (x y z : DWord) (reads writes : List (Nat × Nat)) : Eff :=
  startEngine s .ar (.engine e d x y z 0 (Vector.replicate 32 0)) 0 0 0 none reads writes

/-- The window of a descriptor must be armed (R272). -/
def withWin (s : State) (num : Nat) (k : ArrWindow → Eff) : Eff :=
  match armedWin s num with
  | none => .fault (groupFault s 0x46)
  | some w => k w

/-- e0 of a range (R270). -/
def rangeFirst (y : DWord) : Nat := field y 0 32
/-- n of a range. -/
def rangeCount (y : DWord) : Nat := field y 32 32

/-- Bytes of an element in memory (R270). -/
def elemBytes (w : Nat) : Nat := if w ≤ 8 then 1 else if w ≤ 16 then 2 else 4

/-- Issue a load, store or fill of a range. mem: does it move memory, and does it write it? -/
def issueRange (s : State) (e : Engine) (d a b : Nat) (mem : Option Bool) (fns : List Nat) : Eff :=
  let y := s.x d
  let x := s.x a
  let z := (s.x b).toNat
  let n := elemBytes (vecW x) * rangeCount y
  let write := mem.getD false
  failIf (vecBad x || !fns.contains (vecFn x) || rangeCount y == 0) (groupFault s 0x41) <|
  withWin s (vecWin x) fun w =>
  failIf (w.size < rangeFirst y + rangeCount y) (groupFault s 0x41) <|
  if mem.isNone then startArray s e 0 x y 0 [] []
  else
    aligned s z (elemBytes (vecW x)) write <| globalRange s z n write <|
    startArray s e 0 x y (s.x b) (if write then [] else [(z, n)]) (if write then [(z, n)] else [])

def execArrxArm (d : BitVec 7) (a : BitVec 7) (b : BitVec 7) (s : State) : Res := issue .array (usesArrxArm d a b) s fun t =>
  let x := t.x a.toNat
  let z := t.x b.toNat
  failIf (x.toNat / 64 != 0) (groupFault t 0x41) <|
  aligned t z.toNat 65536 false <| globalRange t z.toNat (12582912 * (spanSlices t (armPart x)).length) true <|
  startArray t .arrxArm d.toNat x 0 z [(z.toNat, 12582912 * (spanSlices t (armPart x)).length)] []

def execArrxDisarm (d : BitVec 7) (a : BitVec 7) (s : State) : Res := issue .array (usesArrxDisarm d a) s fun t =>
  let x := t.x a.toNat
  failIf (x.toNat / 8 != 0) (groupFault t 0x41) <|
    startArray t .arrxDisarm d.toNat x 0 0 [] (match armedWin t (field x 0 3) with
      | some w => [(w.backing, w.bytes)]
      | none => [])

def execArrxLoad (d : BitVec 7) (a : BitVec 7) (b : BitVec 7) (s : State) : Res := issue .array (usesArrxLoad d a b) s fun t =>
  issueRange t .arrxLoad d.toNat a.toNat b.toNat (some false) [0]

def execArrxStore (d : BitVec 7) (a : BitVec 7) (b : BitVec 7) (s : State) : Res := issue .array (usesArrxStore d a b) s fun t =>
  issueRange t .arrxStore d.toNat a.toNat b.toNat (some true) [0]

def execArrxFill (d : BitVec 7) (a : BitVec 7) (s : State) : Res := issue .array (usesArrxFill d a) s fun t =>
  issueRange t .arrxFill d.toNat a.toNat 0 none [0, 0x20]

def execArrxQuery (d : BitVec 7) (a : BitVec 7) (s : State) : Res := issue .array (usesArrxQuery d a) s fun t =>
  let x := t.x a.toNat
  failIf (x.toNat / 8 != 0) (groupFault t 0x41) <| startArray t .arrxQuery d.toNat x 0 0 [] []

/-- Issue an `arr`: y is the destination, x and z the sources in use (R273). -/
def issueArr (s : State) (e : Engine) (y x z : DWord) (srcs : List DWord) (fns : List Nat) : Eff :=
  failIf (vecBad y || !fns.contains (vecFn y) || srcs.any fun d =>
      vecBad d || (vecFn d != 0 && vecFn d != 0x20) || (vecFn d == 0 && vecWin d != vecWin y)) (groupFault s 0x41) <|
  withWin s (vecWin y) fun _ => startArray s e 0 x y z [] []

def execArrLogic (d : BitVec 7) (a : BitVec 7) (b : BitVec 7) (s : State) : Res := issue .array (usesArrLogic d a b) s fun t =>
  issueArr t .arrLogic (t.x d.toNat) (t.x a.toNat) (t.x b.toNat) [t.x a.toNat, t.x b.toNat] (List.range 16)

def execArrAddsub (d : BitVec 7) (a : BitVec 7) (b : BitVec 7) (s : State) : Res := issue .array (usesArrAddsub d a b) s fun t =>
  issueArr t .arrAddsub (t.x d.toNat) (t.x a.toNat) (t.x b.toNat) [t.x a.toNat, t.x b.toNat] [0, 1, 2, 3]

def execArrMul (d : BitVec 7) (a : BitVec 7) (b : BitVec 7) (s : State) : Res := issue .array (usesArrMul d a b) s fun t =>
  issueArr t .arrMul (t.x d.toNat) (t.x a.toNat) (t.x b.toNat) [t.x a.toNat, t.x b.toNat] [0, 2]

def execArrCmp (d : BitVec 7) (a : BitVec 7) (b : BitVec 7) (s : State) : Res := issue .array (usesArrCmp d a b) s fun t =>
  issueArr t .arrCmp (t.x d.toNat) (t.x a.toNat) (t.x b.toNat) [t.x a.toNat, t.x b.toNat] [0, 1, 2, 3, 4, 5]

def execArrSel (d : BitVec 7) (a : BitVec 7) (b : BitVec 7) (s : State) : Res := issue .array (usesArrSel d a b) s fun t =>
  issueArr t .arrSel (t.x d.toNat) (t.x a.toNat) (t.x b.toNat) [t.x a.toNat, t.x b.toNat] [0]

def execArrShift (d : BitVec 7) (a : BitVec 7) (b : BitVec 7) (s : State) : Res := issue .array (usesArrShift d a b) s fun t =>
  issueArr t .arrShift (t.x d.toNat) (t.x a.toNat) (t.x b.toNat) [t.x a.toNat, t.x b.toNat] [0, 1]

def execArrPopc (d : BitVec 7) (a : BitVec 7) (s : State) : Res := issue .array (usesArrPopc d a) s fun t =>
  issueArr t .arrPopc (t.x d.toNat) (t.x a.toNat) 0 [t.x a.toNat] [0]

def execArrBcast (d : BitVec 7) (s : State) : Res := issue .array (usesArrBcast d) s fun t =>
  issueArr t .arrBcast (t.x d.toNat) 0 0 [] [0]

/-! ### Operations on every element (R273) -/

/-- A truth table on two W-bit numbers: bit j is T[2 × a_j + b_j]. -/
def truthTable (t w : Nat) (a b : Int) : Int :=
  (List.range w).foldl (fun (x : Int) j =>
    if bit t (2 * b2n (intBit a j) + b2n (intBit b j)) then x + (2 ^ j : Nat) else x) 0

/-- A relation of `arr.cmp`. -/
def arrRelation (fn : Nat) (a b : Int) : Bool :=
  match fn with
  | 0 => a == b
  | 1 => a != b
  | 2 => a < b
  | 3 => a ≤ b
  | 4 => b < a
  | _ => b ≤ a

/-- A shift: a count of 32 or more, or a negative one, gives 0 or the sign fill. -/
def arrShift (right : Bool) (a b : Int) : Int :=
  let big := b < 0 || 32 ≤ b
  if right then (if big then (if a < 0 then -1 else 0) else a / (2 ^ b.toNat : Nat))
  else if big then 0 else a * (2 ^ b.toNat : Nat)

/-- The range of a W-bit number. -/
def widthRange (w : Nat) (sgn : Bool) : Int × Int :=
  if sgn then (-(2 ^ (w - 1) : Nat), (2 ^ (w - 1) : Nat) - 1) else (0, (2 ^ w : Nat) - 1)

/-- The exact result of an operation on one element: y is the destination's descriptor, x and z the sources'. -/
def arrResult (e : Engine) (y x z : DWord) (el : BitVec 512) : Int :=
  let a := vecSource x el
  let b := vecSource z el
  let fn := vecFn y
  let capped (r : Int) : Int :=
    if bit fn 1 then satInt r (widthRange (vecW y) (vecSgn y)).1 (widthRange (vecW y) (vecSgn y)).2 else r
  match e with
  | .arrLogic => truthTable fn (vecW y) a b
  | .arrAddsub => capped (if bit fn 0 then a - b else a + b)
  | .arrMul => capped (a * b)
  | .arrCmp => if arrRelation fn a b then 1 else 0
  | .arrSel => if a != 0 then b else vecGet y el
  | .arrShift => arrShift (bit fn 0) a b
  | .arrPopc => ((List.range (vecW x)).filter fun j => intBit a j).length
  | _ => vecImm y

/-- A window's operations find it armed; else 0x46 (R272). -/
def runWin (s : State) (o : Op) (num : Nat) (k : ArrWindow → Ran) : Ran :=
  match armedWin s num with
  | none => .failed s (o.fails 0x46 0 0 false)
  | some w => k w

/-- Run an `arr` (R273). -/
def runArr (s : State) (o : Op) (e : Engine) (y x z : DWord) : Ran :=
  runWin s o (vecWin y) fun w =>
    .ended (setWin s s.sq.ident.ctx (w.mapAll fun el => vecSet y el (arrResult e y x z el))) 0 0

/-- The elements of a range that lie in the window; 0x46 when it has become smaller since issue. -/
def runRange (s : State) (o : Op) (x y : DWord) (k : ArrWindow → Ran) : Ran :=
  runWin s o (vecWin x) fun w =>
    if w.size < rangeFirst y + rangeCount y then .failed s (o.fails 0x46 0 0 false) else k w

/-- Run an `arrx.load`, `arrx.store` or `arrx.fill` (R270). -/
def runMove (s : State) (o : Op) (e : Engine) (x y : DWord) (va : Nat) : Ran :=
  let z := elemBytes (vecW x)
  let n := rangeCount y
  let ctx := s.sq.ident.ctx
  runRange s o x y fun w =>
    match e with
    | .arrxLoad => withBytes s o [(va, z * n)] fun t bs =>
      let a := bs.toArray
      let word (i : Nat) : Nat := leNat ((List.range z).map fun j => a.getD (z * i + j) 0)
      .ended (setWin t ctx (w.mapRange (rangeFirst y) n fun i el => vecSet x el (word i))) 0 0
    | .arrxStore => withRanges s o needW [(va, z * n)] fun t ks =>
      let bs := (List.range n).flatMap fun i =>
        leBytes z (vecGet x (w.elem (rangeFirst y + i)) % (256 ^ z : Nat)).toNat
      match writeKeys t false o ks bs with
      | (u, some a) => .failed u (o.fails 0x4D 0 a true)
      | (u, none) => .ended u 0 0
    | _ => .ended (setWin s ctx (w.mapRange (rangeFirst y) n fun _ el => vecSet x el (vecImm x))) 0 0

/-- The query word of a window (R271). -/
def runQuery (s : State) (d num : Nat) : Ran :=
  match findWin s num with
  | none => .ended (putResult s d 0) 0 0
  | some w =>
    let low := if w.armed then 1 + w.group * 2 + b2n (!w.local_) * 8 else 0
    .ended (putResult s d (low + w.dropped * 4294967296)) 0 0

end Sys2Proof.Machine
end

