-- ==== Sys2Proof/Machine/Depend.lean ====
section
/-! DEFINITION. The end of a grid as its launch record shows it (R340), and the dependences of accepted grids (R342). -/

namespace Sys2Proof.Machine

/-! ### Status and end (R340) -/

/-- Is a grid timed (R344)? -/
def Grid.timed (g : Grid) : Bool := bit g.r.flags 6

/-- A timed grid past its budget is demoted (R347). -/
def demote (s : State) (g : Nat) : State :=
  match s.grid? g with
  | none => s
  | some x =>
    if x.timed && !x.demoted && x.r.budget < x.used then
      errorRecord (s.setGrid { x with demoted := true }) 0x85 (some x.ctx) 0 0 0 0 x.r.va 0
    else s

/-- The status word (R340): CODE, DEMOTED, LATE, the tag and cause of a write-out that stopped, and USED of a timed grid. -/
def statusWord (s : State) (g : Grid) (code : Nat) (stats : Option (Nat × Nat)) : Nat :=
  code + b2n g.demoted * 256 + b2n (g.r.deadline != 0 && g.r.deadline < s.now.toNat) * 512
    + (match stats with
      | some (tag, cause) => 1024 + tag % 64 * 65536 + cause % 256 * 16777216
      | none => 0)
    + (if g.timed then satTo 0xFFFFFFFF g.used else 0) * 4294967296

/-- A field of a grid's launch record is written by the device (R338). -/
def recordWrite (s : State) (g : Grid) (off n x : Nat) : State :=
  (deviceWrite s g.priv g.ctx (g.r.va + off) (leBytes n x)).1

/-- The keep marks of a grid end (R254). -/
def unkeepGrid (s : State) (id : Nat) : State :=
  { s with llc := s.llc.map fun l => { l with kept := l.kept.filter (· != id) } }

/-- Replaced bytes are kept only while some grid runs whose launch came before they were replaced (R140). -/
def pruneOlds (s : State) : State :=
  { s with olds := s.olds.filter fun o => s.grids.any fun g => decide (g.launched < o.1) }

/-- A grid ends (R49 step 2, R340): its end time and status are written, and it is no longer accepted. -/
def endGrid (s : State) (g : Grid) (code : Nat) (stats : Option (Nat × Nat)) : State :=
  let t := recordWrite (recordWrite s g 0xC0 8 s.now.toNat) g 0xC8 8 (statusWord s g code stats)
  pruneOlds (unkeepGrid { t with grids := t.grids.filter fun h => h.id != g.id } g.id)

/-! ### Dependences (R342) -/

/-- Evaluate one dependence: still pending or not, or the fault of its semaphore. -/
def evalDep (s : State) (g : Grid) (pend : Bool) (d : Nat × Nat) : State × (Bool ⊕ Nat) :=
  if !pend then (s, .inl false)
  else if deviceWaits s g.priv g.ctx d.1 8 needR then (s, .inl true)
  else match deviceRead s g.priv g.ctx d.1 8 with
    | (t, .inl bs) => (t, .inl (decide (leNat bs < d.2)))
    | (t, .inr c) => (t, .inr c)

/-- A grid with its dependences as they stand now; the satisfaction of the last is its launch (R133, R140, R346). -/
def setPending (s : State) (g : Grid) (p0 p1 : Bool) : State :=
  let h := { g with pend0 := p0, pend1 := p1 }
  if p0 || p1 then s.setGrid h
  else
    let (k, t) := s.fresh
    t.setGrid { h with t0 := t.meridian.toNat, launched := k }

/-- Evaluate a grid's dependences. A semaphore that faults ends the grid. -/
def evalGrid (s : State) (g : Grid) : State :=
  match evalDep s g g.pend0 g.r.dep0 with
  | (t, .inr c) => endGrid t g c none
  | (t, .inl p0) => match evalDep t g g.pend1 g.r.dep1 with
    | (u, .inr c) => endGrid u g c none
    | (u, .inl p1) =>
      if p0 == g.pend0 && p1 == g.pend1 then u else setPending u g p0 p1

/-- Evaluate the dependences of every pending grid (R342). -/
def evalDeps (s : State) : State :=
  (s.grids.filter fun g => g.pend0 || g.pend1).foldl (fun t g => match t.grid? g.id with
    | some h => evalGrid t h
    | none => t) s

end Sys2Proof.Machine
end

