-- ==== Sys2Proof/Machine/Stack.lean ====
section
/-! DEFINITION. In-stack row operations (R107 to R109, R275, R410 to R412), and the run of every engine operation. -/

namespace Sys2Proof.Machine

/-- The stack and row of a physical page, when it is stack-capable (R410). -/
def stackPage (s : State) (pa : Nat) : Option (Nat × Nat) :=
  (s.dev.regions.find? fun r => r.2.1 ≤ pa && pa + 65536 ≤ r.2.1 + r.2.2.1).map fun r => (r.1, r.2.2.2 + (pa - r.2.1) / 65536)

/-- Issue an in-stack operation on pages. -/
def issueStk (s : State) (e : Engine) (d a b : Nat) (len : Nat) (reads writes : List (Nat × Nat)) : Eff :=
  let x := (s.x a).toNat
  let z := (s.x b).toNat
  aligned s x 65536 true <| aligned s z 65536 false <|
  globalRange s x 65536 true <| globalRange s z 65536 false <|
  startEngine s .cp (.engine e d (s.x a) 0 (s.x b) 0 (Vector.replicate 32 0)) 0 d len none reads writes

def execStkRowcopy (d : BitVec 7) (a : BitVec 7) (b : BitVec 7) (s : State) : Res := issue .copy (usesStkRowcopy d a b) s fun t =>
  issueStk t .stkRowcopy d.toNat a.toNat b.toNat 65536 [((t.x b.toNat).toNat, 65536)] [((t.x a.toNat).toNat, 65536)]

def execStkRowzero (d : BitVec 7) (a : BitVec 7) (s : State) : Res := issue .copy (usesStkRowzero d a) s fun t =>
  issueStk t .stkRowzero d.toNat a.toNat 0 65536 [] [((t.x a.toNat).toNat, 65536)]

def execStkProbe (d : BitVec 7) (a : BitVec 7) (s : State) : Res := issue .copy (usesStkProbe d a) s fun t =>
  issueStk t .stkProbe d.toNat a.toNat 0 0 [] []

/-- The probe word of a page (R275). -/
def probeWord (s : State) (pa : Nat) : DWord :=
  match stackPage s pa with
  | none => 0
  | some (k, row) => BitVec.ofNat 64 (k + 16 + row * 65536)

/-- Find the page that a VA names, whatever it grants; then. -/
def withPage (s : State) (o : Op) (va : Nat) (need : Need) (k : State → Nat → Ran) : Ran :=
  let q := s.sq.ident
  match resolve s q.priv q.core q.ctx va need with
  | (t, .inl key) => k t key
  | (t, .inr f) =>
    if f.cause = 0 then .later t
    else if f.cause = 0x44 then .waits t va f.detail f.joined need.w else .failed s (o.fails f.cause f.detail va need.w)

/-- Find a page that grants what is needed, outside every armed backing range. -/
def withOpenPage (s : State) (o : Op) (va : Nat) (need : Need) (k : State → Nat → Ran) : Ran :=
  withPage s o va need fun t pa =>
    if inBacking t t.sq.ident.ctx va pa 65536 then .failed t (o.fails 0x46 0 va need.w) else k t pa

/-- Is a sector of HBM poisoned, whatever the LLC holds of it (R374)? -/
def memoryPoison (s : State) (t : Nat) : Bool :=
  match llcFind s (t * 64) with
  | some l => l.backPoison.getLsbD (t % 8)
  | none => s.poison.contains t

/-- The sectors of a line that a row operation on a page reaches, as a mask. -/
def pickedOf (dst : Nat) (pick : Nat → Bool) (line : Nat) : BitVec 8 :=
  BitVec.ofNat 8 ((List.range 8).foldl (fun m k => if pick ((line - dst) / 64 + k) then setBit m k true else m) 0)

/-- Byte i of the page at dst after a row operation. -/
def pickByte (pick : Nat → Bool) (old new : Array Byte) (i : Nat) : Byte := if pick (i / 64) then new.getD i 0 else old.getD i 0

/-- A held line of the page gives up the sectors that a row operation writes in DRAM, dirty or not, and none of them is written back
(R109, R411). What other sectors hold dirty stays; a line without any goes. -/
def rowLine (s : State) (dst : Nat) (pick : Nat → Bool) (new : Array Byte) (l : LlcLine) : State :=
  let m := pickedOf dst pick l.addr
  let back := leBytes 512 l.back.toNat
  let k : LlcLine := { l with
    dirty := l.dirty &&& ~~~m
    back := BitVec.ofNat 4096 (leNat ((List.range 512).map fun i => pickByte (fun k => pick ((l.addr - dst) / 64 + k)) back.toArray (new.extract (l.addr - dst) (l.addr - dst + 512)) i))
    backPoison := (l.backPoison &&& ~~~m) ||| (linePoison s l.addr &&& m) }
  if k.dirty == 0 then llcShow s k else llcSet s k

/-- Write sectors of a page in DRAM: cached copies of them are dropped, dirty or not, and their poison is the new one (R109, R411,
R412). -/
def rowSectors (s : State) (dst : Nat) (pick : Nat → Bool) (bytes : List Byte) (bad : Nat → Bool) : State :=
  let t := { s with l1 := s.l1.filter fun x => !(x.meets dst 65536 && pick ((x.addr - dst) / 64)) }
  let old := (memRead t.mem dst 65536).toArray
  let new := bytes.toArray
  let marks := (List.range 1024).filter fun j => if pick j then bad j else t.poison.contains (dst / 64 + j)
  let u := rawWrite (noteOld t dst old.toList) dst ((List.range 65536).map (pickByte pick old new))
  let v := { u with poison := setAddAll u.poison (marks.map (dst / 64 + ·)) }
  (v.llc.filter fun l => dst ≤ l.addr && l.addr < dst + 65536).foldl (fun w l => rowLine w dst pick new l) v

/-- Sectors of the destination page take the source's bytes and poison; the source's dirty sectors are written back first (R109,
R412). -/
def copyPage (s : State) (dst src : Nat) (pick : Nat → Bool) : State :=
  let t := (s.l1.filter fun x => x.meets src 65536).foldl writeBack s
  let t := (t.llc.filter fun l => src ≤ l.addr && l.addr < src + 65536).foldl (fun u l => llcClean u l.addr) t
  rowSectors t dst pick (memRead t.mem src 65536) fun j => memoryPoison t (src / 64 + j)

/-- Sectors of the page are zeroed; their poison clears (R412). -/
def zeroPage (s : State) (dst : Nat) (pick : Nat → Bool) : State := rowSectors s dst pick (List.replicate 65536 0) fun _ => false

/-- The status of a row copy between capable pages that differ (R109). -/
def copyStatus (a b : Nat × Nat) : Nat := if a.1 != b.1 then 2 else if a.2 / 512 != b.2 / 512 then 1 else 0

/-- The sectors that a row operation reaches now: at first some, which a racing access may find (R109, R415) and which are free; then
the others. -/
def reaches (s : State) (o : Op) (j : Nat) : Bool :=
  if o.pos = 0 then Config.rowReached s.tickets j else !Config.rowReached (o.pos - 1) j

/-- Must a row operation wait for a link (R334, R390): the write-back of a dirty sector of its source, or the way to its page? -/
def rowWaits (s : State) (dst : Nat) (src : Option Nat) : Bool :=
  anyClosed s && (rangeWay s s.sq.ident.core dst 65536 none == .wait || match src with
    | none => false
    | some a => (s.l1.any fun x => x.meets a 65536 && wbWaits s x)
        || s.llc.any fun l => a ≤ l.addr && l.addr < a + 65536 && l.dirty != 0 && !memoryOpen s l.addr)

/-- A row operation on a destination page goes on, in two parts. -/
def runRow (s : State) (o : Op) (va dst : Nat) (src : Option Nat) (status : Nat) (f : State → (Nat → Bool) → State) : Ran :=
  if rowWaits s dst src then .later s
  else
    let t := noteWritten (f s (reaches s o)) o.id [(va, dst, 65536)]
    if o.pos = 0 then .part t.ticket (s.tickets + 1) o.detail
    else .ended (match stackPage t dst with
      | some p => t.countSurvey (160 + p.1) 4 1
      | none => t) status 0

/-- Run an in-stack operation (R275): capability first. A page copied onto itself is written back and given up by the caches like any
other, and holds the same bytes (R109; log 81). -/
def runStk (s : State) (o : Op) (e : Engine) (x z : Nat) : Ran :=
  withPage s o x needLeaf fun t dst =>
    match e with
    | .stkProbe => .word t (probeWord t dst)
    | .stkRowzero =>
      if (stackPage t dst).isNone then .ended t 3 0
      else withOpenPage t o x needW fun u dst => runRow u o x dst none 0 fun w pick => zeroPage w dst pick
    | _ => withPage t o z needLeaf fun t src =>
      match stackPage t dst, stackPage t src with
      | some a, some b =>
        withOpenPage t o x needW fun u dst => withOpenPage u o z needR fun w src =>
          if copyStatus a b = 2 then .ended w 2 0
          else runRow w o x dst (some src) (copyStatus a b) fun v pick => copyPage v dst src pick
      | _, _ => .ended t 3 0

/-! ### Every engine operation -/

/-- Run an engine operation as far as it goes now. -/
def runEngine (s : State) (o : Op) (e : Engine) (d : Nat) (x y z x2 : DWord) (v : Vector Word 32) : Ran :=
  match e with
  | .cpyGS => runCopy s o (plainShape z.toNat) x.toNat y.toNat true false false
  | .cpySG => runCopy s o (plainShape z.toNat) x.toNat y.toNat false true false
  | .cpyGG => runCopy s o (plainShape z.toNat) x.toNat y.toNat true true false
  | .cpySP => runCopy s o (plainShape z.toNat) x.toNat y.toNat false false true
  | .cpyGS2 => runCopy s o (shapeOf z).joined x.toNat y.toNat true false false
  | .cpySG2 => runCopy s o (shapeOf z).joined x.toNat y.toNat false true false
  | .cpyPin => runPin s o x.toNat z.toNat
  | .bload fmt => runBload s o fmt x.toNat z
  | .xformToplanes => runXform s o e x z
  | .xformFromplanes => runXform s o e x z
  | .xformZero => runXform s o e x z
  | .xformFill => runXform s o e x z
  | .xformChecksum => runXform s o e x z
  | .tmac p => runTmac s o p x y z
  | .tdrain fm => runDrain s o fm x y z x2
  | .taccZero => runTacc s o e d x y z.toNat v
  | .taccRead => runTacc s o e d x y z.toNat v
  | .taccWrite => runTacc s o e d x y z.toNat v
  | .taccAdd => runTacc s o e d x y z.toNat v
  | .taccScale => runTacc s o e d x y z.toNat v
  | .dotv fm => runDot s o fm d x y z
  | .arrxArm => runArm s o d x z.toNat
  | .arrxDisarm => runDisarm s o d (field x 0 3)
  | .arrxQuery => runQuery s d (field x 0 3)
  | .arrxLoad => runMove s o e x y z.toNat
  | .arrxStore => runMove s o e x y z.toNat
  | .arrxFill => runMove s o e x y z.toNat
  | .stkRowcopy => runStk s o e x.toNat z.toNat
  | .stkRowzero => runStk s o e x.toNat z.toNat
  | .stkProbe => runStk s o e x.toNat z.toNat
  | _ => runArr s o e y x z

/-- Run an engine operation of the squad, if it may run, and retire what can retire (R61, R249). -/
def completeEngine (s : State) (o : Op) : State :=
  match o.act with
  | .engine e d x y z x2 v => if mayRun s.sq o then retireOps (settleEngine o (runEngine s o e d x y z x2 v)) else s
  | _ => s

end Sys2Proof.Machine
end

