-- ==== Sys2Proof/Machine/Links.lean ====
section
/-! DEFINITION. Package links (R276, R277, R334, R381 to R395) and span ports (R399, R400): ownership, turns, retries, spare lanes
and widths, and the registers that show them. -/

namespace Sys2Proof.Machine

/-! ### Ownership (R383) -/

/-- Every mesh link that some route with an end at a chiplet crosses. -/
def linksUsed (a : Nat) : List Nat :=
  (List.range 32).flatMap (fun b => chipRoute a b ++ chipRoute b a) ++ (List.range 4).flatMap (edgeRoute a) ++ hostRoute a

/-- Does a partition with these chiplets own a mesh link (R383)? -/
def owns (chips : BitVec 32) (n : Nat) : Bool :=
  chips.getLsbD (meshEnds n).1 && chips.getLsbD (meshEnds n).2
    && (List.range 32).all fun a => chips.getLsbD a || !(linksUsed a).contains n

/-- The owner of a link as the partitions stand. -/
def ownerNow (s : State) (n : Nat) : Option Nat :=
  if n < meshLinks then (List.range 8).find? fun p => owns (s.part p).chips n else none

/-! ### Records (R388, R395) -/

/-- Write a link-event record. -/
def linkRecord (s : State) (n kind group lane retry : Nat) : State :=
  raiseEvent (errorRecord s 0x84 none 12 0 n 0 (kind + group * 16 + lane * 512 + retry * 4294967296) 0) 3

/-! ### Turns (R276, R385 to R387) -/

/-- The lane groups that change direction between two splits. -/
def turningGroups (a b : Nat) : List Nat := (List.range (Nat.max a b - Nat.min a b)).map (Nat.min a b + ·)

/-- Is some group in a list working? -/
def anyWorks (l : Link) (gs : List Nat) : Bool := gs.any fun g => (vget l.groups g).width != 3

/-- Is a link down (R390): no working group in some direction? -/
def isDown (l : Link) : Bool :=
  !anyWorks l (List.range l.outa) || !anyWorks l ((List.range (32 - l.outa)).map (l.outa + ·))

/-- Note whether a link is down; a link that goes down is recorded. -/
def noteDown (s : State) (n : Nat) : State :=
  let l := s.link n
  let down := isDown l
  let t := s.setLink n { l with down := down }
  if down && !l.down then linkRecord t n 5 0 0 l.retry else t

/-- A split comes into force. -/
def setSplit (s : State) (n outa : Nat) : State := noteDown (s.setLink n { s.link n with outa := outa, turning := none }) n

/-- A turn starts at a time: its groups go quiet for 36 ns, or, when none of them works, the split changes at once (R386). -/
def startTurn (s : State) (n outa start : Nat) : State :=
  let l := s.link n
  let t := (s.countSurvey (172 + n) 3 1).setLink n { l with tstart := start, turned := true }
  if anyWorks l (turningGroups l.outa outa) then t.setLink n { t.link n with turning := some (outa, start + 36) }
  else setSplit t n outa

/-- A return to 16/16 that lost ownership asks for (R387), once no dead time runs. -/
def settleLost (s : State) (n : Nat) : State :=
  let l := s.link n
  if l.lostOwn && l.turning.isNone then
    let t := s.setLink n { l with lostOwn := false }
    if l.outa = 16 then t else startTurn t n 16 s.now.toNat
  else s

/-- A link loses its owner (R387). -/
def loseLink (s : State) (n : Nat) : State :=
  let l := s.link n
  settleLost (linkRecord (s.setLink n { l with turns := [], lostOwn := true }) n 4 0 0 l.retry) n

/-- Recompute ownership after `CHIPS` of some partition changed (R383, R387). -/
def ownLinks (s : State) : State :=
  (List.range meshLinks).foldl (fun t n =>
    let l := t.link n
    let now := ownerNow t n
    if now == l.owner then t
    else
      let u := t.setLink n { l with owner := now }
      if l.owner.isSome then loseLink u n else u) s

/-- The time at which the last wait of the turn at the head of a link's queue ends (R386): its turn at the head, a pause or a
training, and the spacing of R276. -/
def turnStart (l : Link) : Nat := if l.turned then Nat.max l.readyAt (l.tstart + 2000) else l.readyAt

/-- A wait of the turn at the head of the queue, if it was one, ends now. -/
def Link.ready (l : Link) (wait : Bool) (now : Nat) : Link := if wait then { l with readyAt := now } else l

/-- Does the turn at the head of the queue turn a group? -/
def turnsGroup (l : Link) (g : Nat) : Bool :=
  match l.turns with
  | [] => false
  | outa :: _ => (turningGroups l.outa outa).contains g

/-- May the turn at the head of a link's queue start now (R276, R386)? -/
def mayTurn (s : State) (n : Nat) : Bool :=
  let l := s.link n
  match l.turns with
  | [] => false
  | outa :: _ =>
    !l.paused && l.turning.isNone && turnStart l ≤ s.now.toNat
      && (turningGroups l.outa outa).all fun g => (vget l.groups g).train.isNone

/-- The turn at the head of the queue starts, as of the end of its last wait. -/
def takeTurn (s : State) (n : Nat) : State :=
  let l := s.link n
  match l.turns with
  | [] => s
  | outa :: rest => startTurn (s.setLink n { l with turns := rest, readyAt := s.now.toNat }) n outa (turnStart l)

/-- The dead time of a link ends; a turn behind it has waited for that (R386). -/
def endTurn (s : State) (n : Nat) : State :=
  match (s.link n).turning with
  | some (outa, t) =>
    let l := s.link n
    settleLost (setSplit (s.setLink n { l with readyAt := Nat.max l.readyAt t }) n outa) n
  | none => s

/-- Has the dead time of a link passed? -/
def turnDue (s : State) (n : Nat) : Bool :=
  match (s.link n).turning with
  | some (_, t) => t ≤ s.now.toNat
  | none => false

/-! ### `lnk` (R276, R277) -/

/-- The mesh link of a chiplet in a direction, and whether the chiplet is its end A. -/
def linkAt (chip dir : Nat) : Option (Nat × Bool) :=
  let x := chip % 8
  let y := chip / 8
  match dir with
  | 0 => if y = 0 then none else some (28 + 8 * (y - 1) + x, false)
  | 1 => if x = 7 then none else some (7 * y + x, true)
  | 2 => if y = 3 then none else some (28 + 8 * y + x, true)
  | _ => if x = 0 then none else some (7 * y + x - 1, false)

/-- The link that s[A] names, if the squad's partition owns it. -/
def ownedLink (s : State) (a : DWord) : Option (Nat × Bool) :=
  if s.sq.ident.core == Config.mcCore || a.getLsbD 2 then none
  else match linkAt (chipletOf s.sq.ident.core) (field a 0 2) with
    | none => none
    | some (n, endA) => if (s.link n).owner == some s.myPart then some (n, endA) else none

/-- A split counted from an end (R385). -/
def outFrom (endA : Bool) (out : Nat) : Nat := if endA then out else 32 - out

/-- Queue a turn: the status of R276 and the state. -/
def queueTurn (s : State) (a : DWord) : State × Nat :=
  match ownedLink s a with
  | none => (s, 1)
  | some (n, endA) =>
    let out := field a 8 8
    let l := s.link n
    if out < 4 || 28 < out then (s, 3)
    else if 4 ≤ l.turns.length then (s, 2)
    else
      let m := l.ready l.turns.isEmpty s.now.toNat
      (s.setLink n { m with turns := l.turns ++ [outFrom endA out] }, 0)

/-- The status word of R277. -/
def linkStatus (s : State) (a : DWord) : Nat :=
  match ownedLink s a with
  | none => 1
  | some (n, endA) =>
    let l := s.link n
    outFrom endA l.outa * 256 + l.turns.length * 65536 + b2n l.turning.isSome * 524288 + l.tstart % 4294967296 * 4294967296

def execLnkTurn (d : BitVec 7) (a : BitVec 7) (s : State) : Res := issue .control (usesLnkTurn d a) s fun t =>
  let x := t.x a.toNat
  failIf (field x 3 5 != 0 || x.toNat / 65536 != 0) (groupFault t 0x41) <|
    .done ((queueTurn t x).1.setX d.toNat (BitVec.ofNat 64 (queueTurn t x).2))

def execLnkStatus (d : BitVec 7) (a : BitVec 7) (s : State) : Res := issue .control (usesLnkStatus d a) s fun t =>
  let x := t.x a.toNat
  failIf (x.toNat / 8 != 0) (groupFault t 0x41) <| .done (t.setX d.toNat (BitVec.ofNat 64 (linkStatus t x)))

/-! ### Registers (R391 to R394) -/

/-- The link that LNKSEL names, if there is one. -/
def selLink (q : Squad) : Option Nat := if q.sys.lnksel.toNat % 128 < 88 then some (q.sys.lnksel.toNat % 128) else none

/-- The lane group that LNKSEL names. -/
def selGroup (q : Squad) : Nat := field q.sys.lnksel 8 5

/-- KIND of a link. -/
def linkKind (n : Nat) : Nat := if n < 52 then 0 else if n < 84 then 1 else 2

/-- LNKSTAT of a link. -/
def linkStat (l : Link) (n : Nat) : Nat :=
  l.outa + l.turns.length * 256 + b2n l.turning.isSome * 2048 + b2n l.paused * 4096 + b2n l.down * 8192 + linkKind n * 16384
    + l.owner.getD 0 * 65536 + b2n l.owner.isSome * 524288 + l.tstart % 4294967296 * 4294967296

/-- The group with the highest GRETRY; of several, the lowest (R393, R420). -/
def worstGroup (l : Link) : Nat :=
  (List.range 32).foldl (fun b g => if (vget l.groups b).gretry < (vget l.groups g).gretry then g else b) 0

/-- LNKRETRY of a link. -/
def linkRetry (l : Link) : Nat := l.retry + worstGroup l * 4294967296 + l.thresh * 281474976710656

/-- LNKLANES of a group. -/
def linkLanes (g : LaneGroup) : Nat := g.bad.toNat + g.spared * 65536 + b2n g.spareUse * 1048576 + g.gretry * 16777216

/-- Does group k carry from end A to end B? An idle group has the direction of the split being turned to at once (R386). -/
def outward (l : Link) (k : Nat) : Bool :=
  match l.turning with
  | some (outa, _) => decide (k < if (vget l.groups k).width = 3 then outa else l.outa)
  | none => decide (k < l.outa)

/-- LNKWIDTH of group k of a link. -/
def linkWidth (l : Link) (k : Nat) : Nat :=
  let g := vget l.groups k
  g.width + g.q * 4 + b2n (!outward l k) * 16 + b2n g.train.isSome * 32

/-- Change a lane group. -/
def setGroup (s : State) (n k : Nat) (f : LaneGroup → LaneGroup) : State :=
  let l := s.link n
  s.setLink n { l with groups := vset l.groups k (f (vget l.groups k)) }

/-- A write of LNKLANES clears the BAD bits written 1 (R394). -/
def writeLanes (s : State) (v : DWord) : State :=
  match selLink s.sq with
  | none => s
  | some n => setGroup s n (selGroup s.sq) fun g => { g with bad := g.bad &&& ~~~(v.truncate 16) }

/-! ### Replays (R388) -/

/-- The 1 ms window of the meridian. -/
def windowNow (s : State) : Nat := s.meridian.toNat / 1000000

/-- The replays of a link's window have passed THRESH: one record of kind 0 in a window (R388). -/
def noteThresh (s : State) (n : Nat) : State :=
  let l := s.link n
  if l.thresh < l.winCnt && !l.winTold then
    linkRecord (s.setLink n { l with winTold := true }) n 0 l.lastHit.1 l.lastHit.2 l.retry
  else s

/-- A link's replay window ends when the meridian has left it, and a new one starts. -/
def freshWindow (s : State) (n : Nat) : State :=
  if (s.link n).winNo = windowNow s then s
  else
    let t := noteThresh s n
    t.setLink n { t.link n with winNo := windowNow s, winCnt := 0, winTold := false }

/-- A flit is replayed: RETRY, GRETRY and BAD, and the record of a window that passes the threshold. -/
def replayFlit (s : State) (n g lane : Nat) : State :=
  let s := (freshWindow s n).countSurvey (172 + n) 2 1
  let l := s.link n
  let t := s.setLink n { l with retry := satTo 0xFFFFFFFF (l.retry + 1), winCnt := l.winCnt + 1, lastHit := (g % 32, lane % 16) }
  noteThresh (setGroup t n g fun k =>
    { k with gretry := satTo 0xFF (k.gretry + 1), bad := k.bad ||| (1 <<< (lane % 16) : BitVec 16) }) n

/-- A write of LNKRETRY sets THRESH (R393), which the replays of the window may already pass (R388). -/
def writeThresh (s : State) (v : DWord) : State :=
  match selLink s.sq with
  | none => s
  | some n =>
    let t := freshWindow s n
    noteThresh (t.setLink n { t.link n with thresh := field v 48 16 }) n

/-! ### Spare lanes and widths (R334, R389, R390) -/

/-- Move a lane to its group's spare: the status and the state. -/
def spareLane (s : State) (n g lane : Nat) : State × Nat :=
  let l := s.link n
  if !l.paused then (s, 1)
  else if (vget l.groups g).spareUse then (s, 2)
  else (linkRecord (setGroup s n g fun k => { k with spared := lane, spareUse := true }) n 1 g lane l.retry, 0)

/-- Does a lane of a group train: through the spare where the spare carries it (R420)? -/
def laneTrains (g : LaneGroup) (k : Nat) : Bool := !g.fails.getLsbD (if g.spareUse && g.spared == k then 16 else k)

/-- Lanes of a block at a width: x16, x8, x4. -/
def blockLanes (width : Nat) : Nat := 16 / 2 ^ width

/-- The lowest block of a group whose lanes all train at a width (R390, R420). -/
def trainBlock (g : LaneGroup) (width : Nat) : Option Nat :=
  (List.range (2 ^ width)).find? fun q => (List.range (blockLanes width)).all fun k => laneTrains g (blockLanes width * q + k)

/-- Training of a group ends at a width, on the lowest block that trains, or fails and leaves it idle (R390, R420). -/
def trainGroup (s : State) (n g width : Nat) : State × Nat :=
  let l := s.link n
  let found := trainBlock (vget l.groups g) width
  let t := s.setLink n (l.ready (turnsGroup l g) s.now.toNat)
  let t := setGroup t n g fun k => match found with
    | some q => { k with width := width, q := q, train := none }
    | none => { k with width := 3, q := 0, train := none }
  (noteDown (linkRecord t n (if found.isSome then 2 else 3) g 0 l.retry) n, if found.isSome then 0 else 3)

/-- Clear the retry counters of a link. -/
def clearRetry (s : State) (n : Nat) : State :=
  let l := s.link n
  s.setLink n { l with retry := 0, groups := l.groups.map fun g => { g with gretry := 0 } }

/-! ### Span ports (R400) -/

/-- A span port loses training: its ready bit clears and a record of kind 6 is written. -/
def portDown (s : State) (p : Nat) : State :=
  linkRecord (noteSpan (setReady1 s p false)) 0 6 p 0 0

/-- A span port trains. -/
def portUp (s : State) (p : Nat) : State := noteSpan (setReady1 s p true)

end Sys2Proof.Machine
end

