-- ==== Sys2Proof/Machine/Schedule.lean ====
section
/-! DEFINITION. Who moves next (log 3): the plan's moves, each after the time that the plan gives it; where the plan is empty, a
device step that is due, or the next squad that can issue. -/

namespace Sys2Proof.Machine

/-- Can a squad issue at its next boundary: not stopped, not waiting for replay (R369), and with a ready thread (R39)? -/
def canIssue (q : Squad) : Bool := q.status == .ready && q.replay.isNone && q.thr.eligible != 0

/-- Is a squad inside a system instruction whose effect is not complete (R323): a survey, a save or restore, or a training? -/
def inSystemWait (s : State) (q : Squad) : Bool :=
  let id := q.ident.id
  q.ident.priv && (s.dev.surveyWait.any (fun w => w.1 == id) || s.dev.answers.any (fun w => w.1 == id)
    || s.units.any (fun u => match u.cause with
        | .cxsave sq _ _ => sq == id || u.joined.contains id
        | .cxrest sq _ => sq == id
        | _ => false)
    || s.links.any fun l => l.groups.any fun g => g.train == some id)

/-- Is an event due for delivery to squad 0 of the management core (R321)? -/
def eventDue (s : State) (q : Squad) : Bool :=
  q.isMc0 && q.status == .ready && q.thr.sysMark == 0 && s.dev.evpend &&& q.sys.evena != 0 && !inSystemWait s q

/-- The first squad after the one that ran, in the order of serial numbers, that can issue; then the first of all. -/
def nextSquad (s : State) : Option Nat :=
  let ids := (s.squads.filter fun q => canIssue q || eventDue s q).map (·.ident.id)
  let lowest (l : List Nat) : Option Nat := l.foldl (fun b x => match b with
    | none => some x
    | some y => some (Nat.min x y)) none
  match lowest (ids.filter fun i => s.sq.ident.id < i) with
  | some i => some i
  | none => lowest ids

/-- The core that stands for an E-die, as the management core stands for the H-die: its chiplet number is beyond theirs. -/
def edgeCore (e : Nat) : Nat := 132 + 4 * (e % 4)

/-- A core on the chiplet at end A of a link (R381). -/
def linkCore (n : Nat) : Nat :=
  match (linkEnds n).1 with
  | .chip k => 4 * k
  | .edge e => edgeCore e
  | .host => Config.mcCore

/-- The core of a squad. -/
def squadCore (s : State) (id : Nat) : Nat := ((s.squad? id).map (·.ident.core)).getD Config.mcCore

/-- Time passes before a move of a core (R406; log 4): the meridian counts on, by three more when the move is of another die than
the last, which exceeds the 2 ns that two dies' copies may differ by (R137). -/
def advance (s : State) (dt : Nat) (core : Nat) : State :=
  let extra := if chipletOf core = chipletOf s.lastCore then 0 else 3
  { s.ticket with meridian := s.meridian + BitVec.ofNat 64 (dt + extra), lastCore := core }

/-- A core that issues counts clocks (R181). -/
def countClocks (s : State) (core : Nat) : State :=
  { s with cycle := assocSet s.cycle core (assocGet s.cycle core 0 + BitVec.ofNat 64 (Config.freeClocks s.tickets)) }

/-- The crew of squad 0 of the management core (R424): one storage bank and 16 queues. -/
def mcCrew : Crew :=
  { id := 0, grid := 0, core := Config.mcCore, slot := 0, linear := 0, cx := 0, cy := 0, cz := 0, rank := 0, peer := 0,
    storage := [4096], compute := [], residen := [], attached := false, bars := Vector.replicate 16 Barrier.reset,
    tbars := Vector.replicate 4 Barrier.reset, queues := Vector.replicate 16 [], gen := 0, race := [], marks := [], squads := 1, began := 0 }

/-- Start squad 0 of the management core at an entry address (R401 step 3, R424). -/
def startMc (s : State) (entry : DWord) : State :=
  let q := Squad.entry ⟨0, Config.mcCore, 0, 0, 0, 0, 0, 0, 0, 128, 0, true⟩ entry
  let q := { q with regs := q.regs.setV 127 allLanes fun _ => 0 }
  { s with sq := q, parked := s.squads.filter fun r => !r.isMc0, crews := mcCrew :: s.crews.filter fun c => c.id != 0 }

/-- Does every way of a line's set that is in cache mode hold a kept line (R254)? -/
def setKept (s : State) (l : LlcLine) : Bool :=
  (usableWays s l.slice).all fun w => (setLines s l.addr).any fun k => k.way == w && !k.kept.isEmpty

/-- The LLC replaces a line, written back first (R96): a kept one only where its whole set is kept (R254), and a dirty one only where the
links to its memory are open (R334, R390). -/
def evictLine (s : State) (a : Nat) : State :=
  match llcFind s a with
  | none => s
  | some l => if (l.kept.isEmpty || setKept s l) && (l.dirty == 0 || memoryOpen s l.addr) then llcEvict s l.addr else s

end Sys2Proof.Machine
end

