-- ==== Sys2Proof/Machine/Place.lean ====
section
/-! DEFINITION. Where crews run (R24 to R38, R84, R95, R344 to R350): what a core has free, which cores a crew may use, placing
crews, and the order in which a distributor tries them. -/

namespace Sys2Proof.Machine

/-! ### What a record asks of a core (R29) -/

/-- Squads of a crew (R24). -/
def Record.squads (r : Record) : Nat := r.roles.foldl (fun n e => n + e.squads) 0

/-- Storage banks of a crew (R29). -/
def Record.storage (r : Record) : Nat := (r.scratch + 65535) / 65536

/-- Banks of a crew other than residency banks. -/
def Record.own (r : Record) : Nat := r.storage + r.banks

/-- Crews of a grid. -/
def Record.crews (r : Record) : Nat := r.gx * r.gy * r.gz

/-- Two-crew teams (R26). -/
def Record.teams (r : Record) : Bool := bit r.flags 2

/-- A cohort grid (R32). -/
def Record.cohort (r : Record) : Bool := bit r.flags 1

/-- A pinned grid (R37). -/
def Record.pinned (r : Record) : Bool := bit r.flags 0

/-- The residency that a grid is bound to (R34). -/
def boundTo (s : State) (ctx : Nat) (r : Record) : Option Residency :=
  if r.resid = 0 then none else s.resids.find? fun x => x.ctx == ctx && x.id == r.resid

/-- The banks on its core of the residency that a crew is bound to. -/
def boundBanks (s : State) (c : Crew) : List Nat :=
  (((s.grid? c.grid).bind fun g => boundTo s g.ctx g.r).map fun x => assocGet x.banks c.core []).getD []

/-! ### What a core has free -/

/-- Banks of a core that a crew or residency holds. -/
def heldBanks (s : State) (core : Nat) : List Nat :=
  s.crews.flatMap (fun c => if c.core = core then c.storage ++ c.compute else [])
    ++ s.resids.flatMap fun r => assocGet r.banks core []

/-- The banks of a core: 32, or the four of the management core (R316). -/
def coreBanks (core : Nat) : List Nat := (List.range (if core = Config.mcCore then 4 else 32)).map (32 * core + ·)

/-- Free banks of a core. -/
def freeBanks (s : State) (core : Nat) : List Nat := (coreBanks core).filter fun b => !(heldBanks s core).contains b

/-- Squad slots of a core, by slot and then quadrant: 16 in each of four quadrants, or in the management core's one (R316). -/
def coreSlots (core : Nat) : List (Nat × Nat) :=
  (List.range 16).flatMap fun k => (List.range (if core = Config.mcCore then 1 else 4)).map fun q => (q, k)

/-- Free squad slots of a core: quadrant and slot. -/
def freeSlots (s : State) (core : Nat) : List (Nat × Nat) :=
  let used := (s.squads.filter fun q => q.ident.core == core).map fun q => (q.ident.quad, q.ident.slot)
  (coreSlots core).filter fun p => !used.contains p

/-- The lowest free crew slot of a core (R329). -/
def freeCrewSlot (s : State) (core : Nat) : Option Nat :=
  let used := (s.crews.filter fun c => c.core == core).map (·.slot)
  (List.range 32).find? fun k => !used.contains k

/-- Has a core room for a crew (R29)? Its accumulator rows set no limit of their own (DESIGN CHOICE, log 98). -/
def hasRoom (s : State) (core squads own : Nat) : Bool :=
  own ≤ (freeBanks s core).length && squads ≤ (freeSlots s core).length && (freeCrewSlot s core).isSome

/-! ### Which cores a crew may use (R35, R38, R348, R350, R359) -/

/-- Chiplets of a partition that take crews: while a resize evacuates, the departing ones take none (R359). -/
def openChips (p : Partition) : BitVec 32 :=
  match p.phase with
  | .evacuate => p.chips &&& p.aim
  | _ => p.chips

/-- Where the entry of a logical site stands in a partition's site table of 256 entries (R350). -/
def siteEntry (s : State) (part site : Nat) : Nat := ((s.part part).keep.toNat / 8388608 * 8388608 % paSpace) + 8 * site

/-- The distributor reads the entries of sites at their home (R350): their lines are at hand, and bad metadata is noted (R103). -/
def readTable (s : State) (part : Nat) (sites : List Nat) : State :=
  (((sites.filter (· < 256)).map fun x => siteEntry s part x / 512 * 512).eraseDups).foldl (fun t line => (homeRead t 0 line 512).1) s

/-- Must the read of a partition's site table wait for a link (R334, R390)? -/
def tableWaits (s : State) (part : Nat) : Bool :=
  anyClosed s && (List.range 4).any fun k => !linksOpen s Config.mcCore (siteEntry s part (64 * k)) none

/-- The entry of a logical site in a partition's site table (R350): the core, when the entry is valid and the core lies in the
partition. -/
def siteCore (s : State) (part site : Nat) : Option Nat :=
  let a := siteEntry s part site
  let e := leNat (((lineBytes s (a / 512 * 512)).drop (a % 512)).take 8)
  let core := e % 128
  if site < 256 && !sectorBad s (a / 64) && bit e 63 && e / 128 % 72057594037927936 = 0
      && (s.part part).chips.getLsbD (core / 4) then some core else none

/-- The site of a crew (R37). -/
def siteOf (sites : List (Nat × Nat × Nat)) (linear : Nat) : Option Nat :=
  (sites.find? fun e => e.1 ≤ linear && linear < e.1 + e.2.1).map (·.2.2)

/-- The cores that a crew of a grid may be placed on now; the management core takes none once it has stopped (R321, R402). -/
def allowedCores (s : State) (g : Grid) (linear : Nat) : List Nat :=
  if g.mc then (if s.dev.ready0.getLsbD 50 then [Config.mcCore] else [])
  else
    let chips := openChips (s.part g.part)
    let all := (List.range 128).filter fun c => chips.getLsbD (c / 4)
    let all := if g.r.resid = 0 then all else all.filter fun c => ((boundTo s g.ctx g.r).map fun x => x.mask.getLsbD c).getD false
    if g.r.pinned then
      match (siteOf g.sites linear).bind (siteCore s g.part) with
      | none => []
      | some c => all.filter (· == c)
    else all

/-- May a crew of a grid be placed on a core now? -/
def mayPlace (s : State) (g : Grid) (linear core : Nat) : Bool :=
  (allowedCores s g linear).contains core && hasRoom s core g.r.squads g.r.own

/-! ### Banks and fused L1s -/

/-- A bank as a crew or residency receives it (R84): zero contents, scales of 0x7F, valid checksums. -/
def freshBank (s : State) (bank : Nat) : State :=
  let lo := bankKey bank 0
  { s with mem := memClear s.mem lo 131072
           poison := s.poison.filter fun t => !(lo / 64 ≤ t && t < (lo + 131072) / 64)
           latent := s.latent.filter fun l => match l with
             | .plane b _ => b != bank
             | .side b => b != bank
             | .retention b _ => b != bank
             | .metadata _ => true }

/-- Does a fused team stand on a pair of cores (R95)? -/
def wantsFused (s : State) (pair : Nat) : Bool :=
  s.crews.any fun c => c.core / 2 == pair && c.peer != 0 && ((s.grid? c.grid).map fun g => bit g.r.flags 3).getD false

/-- A pair fuses or separates as its teams ask (R48, R95), once both L1s are written back and invalidated: while a sector cannot be
written back (R334, R370) it stays as it is, and a pair that is to separate tries again before every move (log 77). -/
def refuse (s : State) (pair : Nat) : State :=
  if wantsFused s pair == s.fused.contains pair then s
  else
    let t := (s.l1.filter fun x => x.core / 2 == pair).foldl evictSector s
    if t.l1.any fun x => x.core / 2 == pair then t
    else { t with fused := if s.fused.contains pair then t.fused.filter (· != pair) else pair :: t.fused }

/-- A state in which a pair is fused if a team on it asks for that: no squad of the team issues before (R95). -/
def fusedAsAsked (s : State) (pair : Nat) : Option State :=
  if wantsFused s pair && !s.fused.contains pair then none else some s

/-! ### Placing (R25, R30, R31) -/

/-- Banks are given up: they are idle from now on (R408). -/
def noteIdle (s : State) (banks : List Nat) : State :=
  { s with dev := { s.dev with freed := banks.map (fun b => (b, s.meridian.toNat)) ++ s.dev.freed.filter fun f => !banks.contains f.1 } }

/-- The retention of a bank ends (R408): its planes are verified as a scrub does, and damage of retention poisons sectors (R374). -/
def leaveRetention (s : State) (bank : Nat) : State :=
  if !s.bankRet.contains bank then s
  else
    let hit := s.latent.filterMap fun l => match l with
      | .retention b k => if b = bank then some k else none
      | _ => none
    let t := { s with bankRet := s.bankRet.filter (· != bank), latent := s.latent.filter fun l => match l with
      | .retention b _ => b != bank
      | _ => true }
    let t := hit.foldl (fun u k => errorRecord { u with poison := setAdd u.poison (bankKey bank (64 * k) / 64) } 0x80
      (bankContext u bank) 11 0 (bank / 32 % 128 + bank % 32 * 4096 + k * 131072) 0 (Config.freeWord u.tickets).toNat (bank / 32)) t
    verifyPlanes t bank (List.range 64) true

/-- Which role the squads of a crew belong to, in order: role, entry, squad within the role (R25). -/
def roleList (r : Record) : List (Nat × Role × Nat) :=
  (r.roles.zipIdx).flatMap fun e => (List.range e.1.squads).map fun k => (e.2, e.1, k)

/-- A squad of a crew at entry (R30, R31). -/
def entrySquad (g : Grid) (crew core linear index : Nat) (place : Nat × Nat) (e : Nat × Role × Nat) (id : Nat) : Squad :=
  let ident : Ident :=
    { id := id, core := core, quad := place.1, slot := place.2, crew := crew, grid := g.id, squad := index, role := e.1
      rsquad := e.2.2, allot := e.2.1.vregs, ctx := g.ctx, priv := g.priv }
  let q := Squad.entry ident (BitVec.ofNat 64 (g.r.code + 2 * e.2.1.entry))
  let r := q.regs.setV 127 allLanes fun l => BitVec.ofNat 32 ((index * 32 + l + 1) * g.r.priv)
  let r := ((r.setS 1 (BitVec.ofNat 64 g.r.args)).setS 2 (BitVec.ofNat 64 g.r.va)).setS 3
    (BitVec.ofNat 64 (g.r.privBase + linear * (32 * g.r.squads) * g.r.priv))
  { q with regs := r }

/-- A linear index leaves the runs that are not yet placed. -/
def takeIndex (runs : List (Nat × Nat)) (k : Nat) : List (Nat × Nat) :=
  runs.flatMap fun r =>
    if r.1 ≤ k && k < r.1 + r.2 then [(r.1, k - r.1), (k + 1, r.1 + r.2 - k - 1)].filter fun x => x.2 != 0 else [r]

/-- Is a linear index still to be placed? -/
def Grid.waits (g : Grid) (k : Nat) : Bool := g.toPlace.any fun r => r.1 ≤ k && k < r.1 + r.2

/-- A new crew on a core (R29, R30, R84), whose launch edges invalidate the core's L1 (R133): its serial number, too. -/
def placeCrew (s : State) (g : Grid) (linear core : Nat) : State × Nat :=
  let free := freeBanks s core
  let mine := free.take g.r.own
  let res := ((boundTo s g.ctx g.r).map fun x => (assocGet x.banks core []).take g.r.residN).getD []
  let t := (mine ++ res).foldl leaveRetention s
  let t := invalidateClean (mine.foldl freshBank t) core
  let id := t.serial
  let c : Crew :=
    { id := id, grid := g.id, core := core, slot := (freeCrewSlot s core).getD 0, linear := linear, cx := linear % g.r.gx
      cy := linear / g.r.gx % g.r.gy, cz := linear / (g.r.gx * g.r.gy), rank := if g.r.teams then linear % 2 else 0, peer := 0
      storage := mine.take g.r.storage, compute := mine.drop g.r.storage, residen := res, attached := !res.isEmpty
      bars := Vector.replicate 16 Barrier.reset, tbars := Vector.replicate 4 Barrier.reset, queues := Vector.replicate 16 []
      gen := 0, race := [], marks := [], squads := g.r.squads, began := 0 }
  let slots := freeSlots s core
  let sqs := (roleList g.r).zipIdx.map fun e => entrySquad g id core linear e.2 (slots.getD e.2 (0, 0)) e.1 (id + 1 + e.2)
  let t := { t with serial := id + 1 + g.r.squads, crews := t.crews ++ [c], parked := t.parked ++ sqs }
  (match t.grid? g.id with
    | some h => t.setGrid { h with toPlace := takeIndex h.toPlace linear }
    | none => t, id)

/-- The two crews of a team know each other; their L1s fuse when the grid asks for it. -/
def joinTeam (s : State) (a b : Nat) : State :=
  match s.crew? a, s.crew? b with
  | some x, some y => refuse ((s.setCrew { x with peer := b }).setCrew { y with peer := a }) (x.core / 2)
  | _, _ => s

/-- The crews that are placed together (R32, R50): the whole grid of a cohort, the team, or one crew. -/
def batch (g : Grid) (k : Nat) : List Nat :=
  if g.r.cohort then List.range g.r.crews
  else if g.r.teams then
    let a := k / 2 * 2
    if a + 1 < g.r.crews then [a, a + 1] else [a]
  else [k]

/-- The teams, or single crews, of a list of linear indices. -/
def teamsOf (g : Grid) : List Nat → List (List Nat)
  | [] => []
  | [a] => [[a]]
  | a :: b :: rest =>
    if g.r.teams && a % 2 == 0 && b == a + 1 then [a, b] :: teamsOf g rest else [a] :: teamsOf g (b :: rest)

/-- Place one team or crew on cores, if it may be placed there: paired cores for a team (R348). -/
def placeTeam (s : State) (g : Grid) (ks cores : List Nat) : Option State :=
  match ks, cores with
  | [k], [c] => if mayPlace s g k c then some (placeCrew s g k c).1 else none
  | [a, b], [c, d] =>
    if c / 2 == d / 2 && c != d && mayPlace s g a c && mayPlace s g b d then
      let x := placeCrew s g a c
      let y := placeCrew x.1 g b d
      fusedAsAsked (joinTeam y.1 x.2 y.2) (c / 2)
    else none
  | _, _ => none

/-- Place a batch on cores, team by team, all or nothing. -/
def placeBatch (g : Grid) : State → List (List Nat) → List Nat → Option State
  | s, [], cores => if cores.isEmpty then some s else none
  | s, t :: ts, cores => match placeTeam s g t (cores.take t.length) with
    | none => none
    | some u => placeBatch g u ts (cores.drop t.length)


/-! ### The Faruf 1 distributor (R349) -/

/-- A Faruf 1 grid (R349). -/
def Record.faruf1 (r : Record) : Bool := bit r.flags 5

/-- The chiplet whose target a block is dealt to (R349): round-robin over the partition's chiplets as they stand now, so that a
resize deals again the blocks that no chiplet has taken over; a block taken over stays with the chiplet that took it, even when
that chiplet has left (DESIGN CHOICE, log 84). -/
def homeChip (s : State) (g : Grid) (block : Nat) : Nat :=
  let chips := (List.range 32).filter fun k => (s.part g.part).chips.getLsbD k
  assocGet g.dealt block (chips.getD (block % chips.length) 0)

/-- Blocks of a Faruf 1 grid that no crew of has been placed yet. -/
def undealt (g : Grid) (block : Nat) : Bool :=
  let lo := 8 * block
  (List.range (Nat.min 8 (g.r.crews - lo))).all fun i => g.waits (lo + i)

/-- The block that a chiplet whose target is empty takes from another (R349): R349 does not say from which other target, and the
model takes the last undealt block of the whole grid (DESIGN CHOICE, log 84). -/
def stolen (s : State) (g : Grid) (chip : Nat) : Option Nat :=
  let blocks := List.range ((g.r.crews + 7) / 8)
  let waiting := blocks.filter fun b => (List.range 8).any fun i => g.waits (8 * b + i)
  if waiting.any fun b => homeChip s g b == chip then none
  else (waiting.filter (undealt g)).getLast?

/-- May a Faruf 1 grid start crew k on a chiplet now: the lowest waiting index of the chiplet's target, or of the block that it
takes over? -/
def faruf1Turn (s : State) (g : Grid) (k chip : Nat) : Bool :=
  let blocks := (List.range ((g.r.crews + 7) / 8)).filter fun b => homeChip s g b == chip
  let blocks := match stolen s g chip with
    | some b => [b]
    | none => blocks
  let first := (blocks.flatMap fun b => (List.range 8).map (8 * b + ·)).find? g.waits
  first == some k || (g.r.teams && first == some (k / 2 * 2))

/-- A block that a chiplet takes over is its own from now on (R349). -/
def noteDealt (s : State) (g : Grid) (k chip : Nat) : Grid :=
  if g.r.faruf1 && homeChip s g (k / 8) != chip then { g with dealt := (k / 8, chip) :: g.dealt } else g

/-- One team, or crew, starts on a chiplet, if it may: the grid with its indices taken. -/
def dealTeam (s : State) (g : Grid) (ks : List Nat) (chip : Nat) : Option Grid :=
  if ks.all fun k => faruf1Turn s g k chip then
    let h := noteDealt s g (ks.headD 0) chip
    some { h with toPlace := ks.foldl takeIndex h.toPlace }
  else none

/-- The first of some teams that may start on its chiplet now. -/
def dealFirst (s : State) (g : Grid) : List (List Nat × Nat) → Option (Grid × List (List Nat × Nat))
  | [] => none
  | t :: ts => match dealTeam s g t.1 t.2 with
    | some h => some (h, ts)
    | none => (dealFirst s g ts).map fun r => (r.1, t :: r.2)

/-- Teams that are placed together start on their chiplets one after another, in some order that R349 allows: the grid with the
blocks that were taken over; none when there is no such order. -/
def dealTeams (s : State) : Nat → Grid → List (List Nat × Nat) → Option Grid
  | _, g, [] => some g
  | 0, _, _ => none
  | n + 1, g, ts => match dealFirst s g ts with
    | none => none
    | some (h, rest) => dealTeams s n h rest

/-- The teams of a batch with their chiplets. -/
def teamChips : List (List Nat) → List Nat → List (List Nat × Nat)
  | [], _ => []
  | t :: ts, cores => (t, cores.headD 0 / 4) :: teamChips ts (cores.drop t.length)

/-- The grid as the distributor deals a batch (R349): the same grid, with the blocks that chiplets take over; none where a Faruf 1
grid may not start the batch on those cores. -/
def dealBatch (s : State) (g : Grid) (ts : List (List Nat)) (cores : List Nat) : Option Grid :=
  if g.r.faruf1 then (dealTeams s ts.length g (teamChips ts cores)).map fun h => { g with dealt := h.dealt } else some g

/-! ### Where a batch could be placed -/

/-- The choices of cores for a team or a crew. -/
def coreChoices (s : State) (g : Grid) (t : List Nat) : List (List Nat) :=
  let right (k c : Nat) : Bool := !g.r.faruf1 || homeChip s g (k / 8) == c / 4 || stolen s g (c / 4) == some (k / 8)
  match t with
  | [k] => ((allowedCores s g k).filter (right k)).map fun c => [c]
  | [a, _] => ((allowedCores s g a).filter (right a)).map fun c => [c, if c % 2 = 0 then c + 1 else c - 1]
  | _ => []

/-- Cores on which a batch could be placed now, lowest first: each team on the first choice that holds it. -/
def findCores (g : Grid) : State → List (List Nat) → Option (List Nat)
  | _, [] => some []
  | s, t :: ts =>
    match (coreChoices s g t).findSome? fun cs => (placeTeam s g t cs).map fun u => (cs, u) with
    | none => none
    | some (cs, u) => (findCores g u ts).map (cs ++ ·)

/-! ### A whole grid of the Faruf 1 distributor (R32, R349) -/

/-- A grid that is being dealt: the device with the crews placed so far, the blocks that are left, lowest first, and the cores of those
that are placed. -/
structure Deal where
  dev   : State
  left  : List Nat
  given : List (Nat × List Nat)

/-- The crews of a block. -/
def blockCrews (g : Grid) (b : Nat) : List Nat := (List.range (Nat.min 8 (g.r.crews - 8 * b))).map (8 * b + ·)

/-- Cores of a chiplet on which a team could be placed, lowest first. -/
def chipChoices (s : State) (g : Grid) (chip : Nat) (t : List Nat) : List (List Nat) :=
  match t with
  | [k] => ((allowedCores s g k).filter (· / 4 == chip)).map fun c => [c]
  | [a, _] => ((allowedCores s g a).filter (· / 4 == chip)).map fun c => [c, if c % 2 = 0 then c + 1 else c - 1]
  | _ => []

/-- The teams of a block on a chiplet, all or nothing: the device with them, and their cores. -/
def holdTeams (g : Grid) (chip : Nat) : State → List (List Nat) → Option (State × List Nat)
  | s, [] => some (s, [])
  | s, t :: ts =>
    match (chipChoices s g chip t).findSome? fun cs => (placeTeam s g t cs).map fun u => (cs, u) with
    | none => none
    | some (cs, u) => (holdTeams g chip u ts).map fun r => (r.1, cs ++ r.2)

/-- A chiplet takes a whole block, if it holds it. -/
def Deal.take (d : Deal) (g : Grid) (chip b : Nat) : Option Deal :=
  (holdTeams g chip d.dev (teamsOf g (blockCrews g b))).map fun r => ⟨r.1, d.left.filter (· != b), (b, r.2) :: d.given⟩

/-- A chiplet starts the blocks of its target in order, while it holds them. -/
def Deal.own (g : Grid) (chip : Nat) : Deal → List Nat → Deal
  | d, [] => d
  | d, b :: bs => match d.take g chip b with
    | none => d
    | some e => Deal.own g chip e bs

/-- Chiplets whose targets are empty take the last block that is left, as long as one holds it; `short`, where it is given, is the chiplet
for the grid's last block. -/
def Deal.steal (g : Grid) (home : Nat → Nat) (short : Option Nat) : Nat → Deal → Deal
  | 0, d => d
  | n + 1, d =>
    match d.left.getLast? with
    | none => d
    | some b =>
      let free := (List.range 32).filter fun k => !(d.left.any fun x => home x == k)
      let free := if b + 1 = (g.r.crews + 7) / 8 then (short.map fun k => free.filter (· == k)).getD free else free
      match free.findSome? fun k => d.take g k b with
      | none => d
      | some e => Deal.steal g home short n e

/-- The cores of a grid that is dealt to its end. -/
def Deal.cores (d : Deal) (n : Nat) : Option (List Nat) :=
  if d.left.isEmpty then some ((List.range n).flatMap fun b => assocGet d.given b []) else none

/-- One way to deal a whole grid: every chiplet starts its own blocks, but for the last block of the grid where that is meant for another
chiplet; then the chiplets with empty targets take over what is left (R349). -/
def dealWhole (s : State) (g : Grid) (short : Option Nat) : Option (List Nat) :=
  let n := (g.r.crews + 7) / 8
  let home := homeChip s g
  let mine (k : Nat) : List Nat := (List.range n).filter fun b => home b == k && !(b + 1 == n && short.any (· != k))
  let d := (List.range 32).foldl (fun d k => Deal.own g k d (mine k)) ⟨s, List.range n, []⟩
  (Deal.steal g home short n d).cores n

/-- Cores that hold a whole Faruf 1 cohort: blocks are alike but for the last, whose chiplet is tried one after another. -/
def findWhole (s : State) (g : Grid) : Option (List Nat) :=
  (none :: (List.range 32).map some).findSome? (dealWhole s g)

/-- Where the batch of a crew could be placed now. -/
def findPlace (s : State) (g : Grid) (k : Nat) : Option (List Nat) :=
  let ts := teamsOf g (batch g k)
  (if g.r.cohort && g.r.faruf1 then findWhole s g else findCores g s ts).filter fun cores => (dealBatch s g ts cores).isSome

/-! ### Order of placement (R344, R348) -/

/-- The class of a grid (R344): 3 timed, 2 high, 1 normal, 0 background. A demoted grid has the class of its bits 9:8. -/
def Grid.cls (g : Grid) : Nat := if g.timed && !g.demoted then 3 else g.r.flags / 256 % 4

/-- Does a grid take part in placement? -/
def Grid.placing (g : Grid) : Bool := !g.pend0 && !g.pend1 && !g.toPlace.isEmpty

/-- Does grid h come before grid g in their distributor's order (R344)? -/
def Grid.before (h g : Grid) : Bool := g.cls < h.cls || (h.cls == g.cls && h.id < g.id)

/-- The crews of a grid that stand for all that wait below a limit: of a pinned grid the first of each run and site, of a Faruf 1
grid the first of each block, of others the first. -/
def frontRunners (g : Grid) (limit : Nat) : List Nat :=
  let runs := g.toPlace.filterMap fun r => if r.1 < limit then some (r.1, Nat.min r.2 (limit - r.1)) else none
  if g.r.pinned && !g.r.cohort then
    runs.flatMap fun r => g.sites.filterMap fun e =>
      let lo := Nat.max r.1 e.1
      if lo < Nat.min (r.1 + r.2) (e.1 + e.2.1) then some lo else none
  else if g.r.faruf1 && !g.r.cohort then
    (List.range ((g.r.crews + 7) / 8)).filterMap fun b => ((List.range 8).map (8 * b + ·)).find? fun k => decide (k < limit) && g.waits k
  else (runs.map (·.1)).take 1

/-- Is it the turn of crew k of a grid: none that comes before it could be placed now (R344, R348)? -/
def placeTurn (s : State) (g : Grid) (k : Nat) : Bool :=
  let others := s.grids.filter fun h => h.part == g.part && h.mc == g.mc && h.placing && h.before g
  others.all (fun h => (frontRunners h h.r.crews).all fun j => (findPlace s h j).isNone)
    && (g.r.faruf1 || g.r.cohort || (frontRunners g k).all fun j => j / 2 == k / 2 && g.r.teams || (findPlace s g j).isNone)

/-- Place the batch of crew k of a grid on cores (R348): nothing when it is not its turn, the cores do not hold it, or the site table is
behind a closed link. -/
def tryPlace (s : State) (g : Grid) (k : Nat) (cores : List Nat) : Option State :=
  let ks := batch g k
  if g.r.pinned && tableWaits s g.part then none
  else
  let s := if g.r.pinned then readTable s g.part (ks.filterMap (siteOf g.sites)) else s
  if g.placing && ks.all g.waits && placeTurn s g k then
    match dealBatch s g (teamsOf g ks) cores with
    | none => none
    | some h => placeBatch h (s.setGrid h) (teamsOf h ks) cores
  else none

end Sys2Proof.Machine
end

