-- ==== Sys2Proof/Machine/Sync.lean ====
section
/-! DEFINITION. What synchronising instructions do when they can (R235 to R244): barriers, crew queues, span queues and
semaphores, and the one operation by which a blocked instruction is tried again (R42). -/

namespace Sys2Proof.Machine

/-! ### Barriers (R47, R235 to R237) -/

/-- The crews of a crew's team (R26, R27). -/
def teamOf (s : State) (c : Crew) : List Crew := c :: (if c.peer = 0 then [] else (s.crew? c.peer).toList)

/-- The crew that keeps the team's barriers. -/
def teamLeader (s : State) (c : Crew) : Crew := if c.rank = 0 || c.peer = 0 then c else (s.crew? c.peer).getD c

/-- The crews whose squads a barrier of a crew counts. -/
def barCrews (s : State) (c : Crew) (team : Bool) : List Crew := if team then teamOf s c else [c]

/-- The squads of a barrier that have not retired (R236, R237). -/
def barMembers (s : State) (c : Crew) (team : Bool) : List Nat :=
  let ids := (barCrews s c team).map (·.id)
  (s.squads.filter fun q => ids.contains q.ident.crew).map (·.ident.id)

/-- Squads that a crew was created with (R24). -/
def crewSquads (s : State) (c : Crew) : Nat :=
  match s.grid? c.grid with
  | none => 1
  | some g => g.r.roles.foldl (fun n r => n + r.squads) 0

/-- Squads that a barrier's crews were created with (R237). -/
def barCreated (s : State) (c : Crew) (team : Bool) : Nat := (if team && c.peer != 0 then 2 else 1) * crewSquads s c

/-- A barrier as a crew sees it. -/
def barOf (s : State) (c : Crew) (team : Bool) (n : Nat) : Barrier :=
  if team then vget (teamLeader s c).tbars n else vget c.bars n

/-- Change a barrier. -/
def setBar (s : State) (c : Crew) (team : Bool) (n : Nat) (b : Barrier) : State :=
  if team then
    let l := teamLeader s c
    s.setCrew { l with tbars := vset l.tbars n b }
  else s.setCrew { c with bars := vset c.bars n b }

/-- Have enough squads arrived (R236, R237)? -/
def barFull (s : State) (c : Crew) (team : Bool) (b : Barrier) : Bool :=
  match b.count with
  | none => false
  | some 0 => (barMembers s c team).all b.arr.contains
  | some k => k ≤ b.arr.length

/-- Complete a barrier's generation when it is full (R236): the next opens, and the race-watch counts rise (R135). -/
def barSettle (s : State) (crew : Nat) (team : Bool) (n : Nat) : State :=
  match s.crew? crew with
  | none => s
  | some c =>
    let b := barOf s c team n
    if barFull s c team b then
      let t := setBar s c team n ⟨b.gen + 1, none, []⟩
      (barCrews s c team).foldl (fun u d => match u.crew? d.id with
        | none => u
        | some e => u.setCrew { e with gen := e.gen + 1 }) t
    else s

/-- The squad arrives at a barrier (R236, R237); true and no change when the count is refused. That of a second arrival of one squad in a
generation is checked like any other (DESIGN CHOICE, log 103). -/
def barArrive (s : State) (team : Bool) (n count : Nat) : State × Bool :=
  match s.myCrew with
  | none => (s, true)
  | some c =>
    let b := barOf s c team n
    if barCreated s c team < count || b.count.getD count != count then (s, true)
    else
      let arr := if b.arr.contains s.sq.ident.id then b.arr else b.arr ++ [s.sq.ident.id]
      (barSettle (setBar s c team n { b with count := some count, arr := arr }) c.id team n, false)

/-- The current generation of a barrier of the squad's crew. -/
def barGen (s : State) (team : Bool) (n : Nat) : Nat :=
  match s.myCrew with
  | none => 0
  | some c => (barOf s c team n).gen

/-- Past a barrier: a team barrier acquires at team scope (R132). -/
def pastBar (s : State) (team : Bool) : State := if team then acquireAction s s.sq.ident.core 2 else s

/-- Block until a generation completes, or go on when it has. -/
def awaitBar (s : State) (team : Bool) (n gen : Nat) : Eff :=
  if barGen s team n != gen then .done (pastBar s team) else .block (.bar team n gen) s

/-- Arrive, with release at team scope for a team barrier (R132), and then. The arrival waits for the release's write-backs. -/
def arriveThen (s : State) (team : Bool) (n count : Nat) (k : State → Eff) : Eff :=
  let r := barArrive s team n count
  if r.2 then .fault { cause := 0x41, lanes := s.sq.cur.active }
  else if team && releaseWaits s s.sq.ident.core 2 then .stall
  else k (if team then releaseAction r.1 s.sq.ident.core 2 else r.1)

/-- Arrive and block until the generation completes (R236). -/
def syncBar (s : State) (team : Bool) (n count : Nat) : Eff :=
  arriveThen s team n count fun t => awaitBar t team n (barGen s team n)

/-! ### Crew queues (R238, R239) -/

/-- A queue number below the crew's count (R238). -/
def withQueue (s : State) (q : Nat) (k : Eff) : Eff :=
  if queueCount s ≤ q then .fault { cause := 0x4B, lanes := s.sq.cur.active } else k

/-- Append to a crew queue. -/
def pushEntry (s : State) (q d : Nat) : State := setEntries s q (queueEntries s q ++ [(s.x d).truncate 32])

/-- A popped handle's sectors belong to the popping squad from now on (R136): a sector that nothing wrote has its strong bit weak, and an
entry that is no handle adopts none (DESIGN CHOICE, log 100). -/
def adopt (s : State) (h : Word) : State :=
  match s.myCrew with
  | none => s
  | some c =>
    if raceWatched s && handleOk h (c.storage.length * 1024) then
      let off := h.toNat % 32768
      let secs := (List.range (h.toNat / 32768 % 32768)).map (off + ·)
      let strong (x : Nat) : Bool := ((c.race.find? fun r => r.sector == x).map (·.strong)).getD false
      s.setCrew { c with race := secs.map (fun x => ⟨x, s.sq.ident.squad, c.rank, c.gen, strong x⟩)
                                  ++ c.race.filter fun r => !secs.contains r.sector }
    else s

/-- Remove the oldest entry into s[d]. -/
def popEntry (s : State) (q d : Nat) : State :=
  match queueEntries s q with
  | [] => s
  | e :: rest => adopt ((setEntries s q rest).setX d (e.zeroExtend 64)) e

/-- `qpush` as one that began to wait at a moment. -/
def tryPush (s : State) (stamp q d : Nat) : Eff :=
  if mayPush s q stamp then .done (pushEntry s q d) else .block (.qpush q d) s

/-- `qpop` as one that began to wait at a moment. -/
def tryPop (s : State) (stamp q d : Nat) : Eff :=
  if mayPop s q stamp then .done (popEntry s q d) else .block (.qpop q d) s

/-! ### Span queues (R240 to R242) -/

/-- A span queue's descriptor as read, with the key of its first byte. -/
structure SpanDesc where
  key   : Nat
  va    : Nat
  log2  : Nat
  scope : Nat
  ring  : Nat
  h     : Nat
  t     : Nat
  deriving DecidableEq, Repr

/-- Is a key in HBM of this device or of a peer (R240, R243)? -/
def inHbm (k : Nat) : Bool := (k < paSpace && !inControl k) || (peerOfKey k).isSome

/-- A synchronous access at the home (R241, R242, R244): its checks, and the wait for a peer that no port reaches (R400). -/
def homeAccess (s : State) (va n : Nat) (need : Need) (k : State → Nat → Eff) : Eff :=
  let g := s.sq.cur.active
  let aux := if need.w then 3 else 1
  match reachGlobal s ⟨n, need, aux, need.w, true, true⟩ va g with
  | (t, .inr f) => f.orStall t
  | (t, .inl named) =>
    let key := canon t named
    if inBacking t t.sq.ident.ctx va key n then .faultIn { cause := 0x46, lanes := g, addr := va, aux := aux } t
    else match rangeWay t t.sq.ident.core key n (peerOfKey named) with
      | .clear => k t key
      | .lost => .faultIn { cause := 0x4A, detail := 2, lanes := g, addr := va, aux := aux } t
      | .wait => .stall

/-- Read at the home; poisoned data is 0x4A and nothing changes (R242). -/
def homeFetch (s : State) (va key n aux : Nat) (k : State → List Byte → Eff) : Eff :=
  let r := homeRead s s.sq.ident.ctx key n
  if r.2.2 then .faultIn { cause := 0x4A, detail := 2, lanes := s.sq.cur.active, addr := va, aux := aux } r.1 else k r.1 r.2.1

/-- Write at the home; a refusal is 0x4D (R242). -/
def homeStore (s : State) (va key : Nat) (bs : List Byte) (k : State → Eff) : Eff :=
  let r := homeWrite s s.sq.ident.ctx key bs
  if r.2 then .faultIn { cause := 0x4D, lanes := s.sq.cur.active, addr := va, aux := 2 } r.1 else k r.1

/-- The value of n bytes at offset o. -/
def fieldOf (bs : List Byte) (o n : Nat) : Nat := leNat ((bs.drop o).take n)

/-- A descriptor's fields (R240). -/
def spanDesc (key va : Nat) (bs : List Byte) : SpanDesc :=
  ⟨key, va, fieldOf bs 4 1, fieldOf bs 5 1, fieldOf bs 8 8, fieldOf bs 0x10 8, fieldOf bs 0x18 8⟩

/-- Are a descriptor's fields legal (R240, R242)? -/
def spanDescOk (d : SpanDesc) (bs : List Byte) : Bool :=
  fieldOf bs 0 4 == 0x53510001 && 1 ≤ d.log2 && d.log2 ≤ 16 && 2 ≤ d.scope && d.scope ≤ 5 && fieldOf bs 6 2 == 0
    && d.ring % 64 == 0 && fieldOf bs 0x20 32 == 0

/-- Does the ring of a queue meet the backing range of an armed window (R242): by its addresses, or where its pages lie? -/
def ringArmed (s : State) (d : SpanDesc) : Bool :=
  let q := s.sq.ident
  (pagePieces (2 ^ d.log2 * 16 / 65536 + 2) d.ring (2 ^ d.log2 * 16)).any fun p =>
    match (resolve s q.priv q.core q.ctx p.1 needLeaf).2 with
    | .inl k => inBacking s q.ctx p.1 (canon s k) p.2
    | .inr _ => ownBacking s q.ctx p.1 p.2

/-- Read a descriptor and check it (R242). -/
def withSpan (s : State) (va : Nat) (k : State → SpanDesc → Eff) : Eff :=
  homeAccess s va 64 needRW fun t key =>
    let bad : FaultInfo := { cause := 0x4B, lanes := t.sq.cur.active, addr := va, aux := 3 }
    if !inHbm key then .faultIn bad t
    else homeFetch t va key 64 3 fun u bs =>
      let d := spanDesc key va bs
      if !spanDescOk d bs then .faultIn bad u
      else if ringArmed u d then
        .faultIn { cause := 0x46, lanes := u.sq.cur.active, addr := d.ring, aux := 3 } u
      else k u d

/-- Ring entry i (R240). -/
def spanEntry (d : SpanDesc) (i : Nat) : Nat := d.ring + 16 * (i % 2 ^ d.log2)

/-- The home address that a squad's register names, for the order in which waiters are served. -/
def spanKey (s : State) (q : Squad) (a : Nat) : Option Nat :=
  match (resolve s q.ident.priv q.ident.core q.ident.ctx (q.regs.sreg a).toNat needRW).2 with
  | .inl k => some (canon s k)
  | .inr _ => none

/-- The moments at which threads began to wait on a span queue (R241). -/
def spanWaiters (s : State) (key : Nat) (push : Bool) : List Nat :=
  s.squads.flatMap fun q =>
    if q.status == .stopped then []
    else q.thr.waits.filterMap fun w => match w.what with
      | .qpushSpan a _ => if push && spanKey s q a == some key then some w.stamp else none
      | .qpopSpan a _ => if !push && spanKey s q a == some key then some w.stamp else none
      | _ => none

/-- May a push, or a pop, that began to wait at a moment be made? -/
def maySpan (s : State) (d : SpanDesc) (push : Bool) (stamp : Nat) : Bool :=
  (if push then d.t < d.h + 2 ^ d.log2 else d.h < d.t) && (spanWaiters s d.key push).all fun k => stamp ≤ k

/-- Push an entry with the meridian time (R241), with release at the queue's scope (R132), whose write-backs it waits for. -/
def spanPush (s : State) (d : SpanDesc) (x : DWord) (k : State → Eff) : Eff :=
  let e := spanEntry d d.t
  if releaseWaits s s.sq.ident.core d.scope then .stall
  else homeAccess (releaseAction s s.sq.ident.core d.scope) e 16 needRW fun t key =>
    homeStore t e key (leBytes 8 x.toNat ++ leBytes 8 t.now.toNat) fun u =>
      homeStore u d.va (d.key + 0x18) (leBytes 8 (d.t + 1)) k

/-- Pop an entry into a pair (R241), with acquire at the queue's scope (R132). -/
def spanPop (s : State) (d : SpanDesc) (r : Nat) (k : State → Eff) : Eff :=
  let e := spanEntry d d.h
  homeAccess s e 16 needRW fun t key =>
    homeFetch t e key 16 3 fun u bs =>
      homeStore u d.va (d.key + 0x10) (leBytes 8 (d.h + 1)) fun w =>
        k (acquireAction ((w.setX r (BitVec.ofNat 64 (fieldOf bs 0 8))).setX (r + 1) (BitVec.ofNat 64 (fieldOf bs 8 8)))
          w.sq.ident.core d.scope)

/-- `qpush.span` as one that began to wait at a moment. -/
def trySpanPush (s : State) (stamp a d : Nat) : Eff :=
  withSpan s (s.x a).toNat fun t q =>
    if maySpan t q true stamp then spanPush t q (t.x d) .done else .block (.qpushSpan a d) t

/-- `qpop.span` as one that began to wait at a moment. -/
def trySpanPop (s : State) (stamp a d : Nat) : Eff :=
  withSpan s (s.x a).toNat fun t q =>
    if maySpan t q false stamp then spanPop t q d .done else .block (.qpopSpan a d) t

/-! ### Span semaphores (R243, R244) -/

/-- Read a semaphore and check it: its key, value and scope. -/
def withSem (s : State) (va : Nat) (need : Need) (k : State → Nat → Nat → Nat → Eff) : Eff :=
  let aux := if need.w then 3 else 1
  homeAccess s va 16 need fun t key =>
    let bad : FaultInfo := { cause := 0x4B, lanes := t.sq.cur.active, addr := va, aux := aux }
    if !inHbm key then .faultIn bad t
    else homeFetch t va key 16 aux fun u bs =>
      let w := fieldOf bs 8 8
      if w / 8 != 0 || w < 2 || 5 < w then .faultIn bad u else k u key (fieldOf bs 0 8) w

/-- `sem.add` (R244), with release at the semaphore's scope, whose write-backs it waits for (R132); after it the device evaluates
dependences (R342). -/
def semAdd (s : State) (a d : Nat) : Eff :=
  let va := (s.x a).toNat
  withSem s va needRW fun t key v scope =>
    if releaseWaits t t.sq.ident.core scope then .stall
    else homeStore (releaseAction t t.sq.ident.core scope) va key (leBytes 8 (v + (t.x d).toNat)) fun u => .done (evalDeps u)

/-- `sem.wait` (R244). -/
def semWait (s : State) (a d b : Nat) : Eff :=
  withSem s (s.x a).toNat needRW fun t _ v scope =>
    if (t.x d).toNat ≤ v then .done (acquireAction (t.setX b (BitVec.ofNat 64 v)) t.sq.ident.core scope)
    else .block (.semWait a d b) t

/-- `sem.read` (R244). -/
def semRead (s : State) (a b : Nat) : Eff :=
  withSem s (s.x a).toNat needR fun t _ v _ => .done (t.setX b (BitVec.ofNat 64 v))

/-! ### Blocked instructions (R42) -/

/-- Is an event that `halt` waits for pending (R328)? -/
def halted (s : State) (a : Nat) : Eff :=
  if s.dev.evpend &&& BitVec.ofNat 7 ((s.x a).toNat / 65536) != 0 then .done s else .block (.halt a) s

/-- The blocking part of an instruction, as one that began to wait at a moment. -/
def tryBlocked (s : State) (stamp : Nat) (w : Blocked) : Eff :=
  match w with
  | .wait thr => waitBody thr s
  | .bar team n gen => awaitBar s team n gen
  | .qpush q d => tryPush s stamp q d
  | .qpop q d => tryPop s stamp q d
  | .qpushSpan a d => trySpanPush s stamp a d
  | .qpopSpan a d => trySpanPop s stamp a d
  | .semWait a d b => semWait s a d b
  | .halt a => halted s a

end Sys2Proof.Machine
end

