-- ==== Sys2Proof/Machine/SyncInstr.lean ====
section
/-! DEFINITION. `fence` (R233), barriers (R235), crew and span queues (R238, R241) and semaphores (R244). -/

namespace Sys2Proof.Machine

/-- Has a fence an L1 write-back to make (R125): release, acquire-release or sequentially consistent order? -/
def fenceReleases (order : Nat) : Bool := order == 2 || order == 3 || order == 4

/-- Must the running group wait at its fence (R123, R233): for the async wait, for the accesses that the fence orders, or for a
write-back of its release action that finds no way? -/
def fenceWaits (s : State) (order scope : Nat) (async : Bool) : Bool :=
  (async && !s.sq.ops.isEmpty) || (order != 0 && s.sq.ops.any fun o => o.fenced s.sq.cur.active order)
    || (fenceReleases order && releaseWaits s s.sq.ident.core scope)

/-- A fence of an order and scope (R123, R125, R130, R233): the stall, the errors that the async wait takes, the deferred faults that
a release of die scope or wider delivers (R226), then the actions in the L1. -/
def fenceBody (order scope : Nat) (async : Bool) (s : State) : Eff :=
  let act (t : State) : Eff := .done (fenceAction t order scope)
  let main : Eff := if fenceReleases order && 3 ≤ scope then withDeferred s act else act s
  if fenceWaits s order scope async then .hold
  else if async then
    match firstError s.sq fun _ => true with
    | some (c, e) => .consume c e.raise
    | none => main
  else main

def execFence (sc : BitVec 3) (o : BitVec 3) (y : BitVec 1) (s : State) : Res := issue .control (usesFence sc o y) s fun t =>
  fenceBody o.toNat sc.toNat (y == 1) t

/-! ### Barriers -/

def execBarSync (b : BitVec 4) (n : BitVec 6) (s : State) : Res := issue .synch (usesBarSync n) s fun t =>
  syncBar t false b.toNat n.toNat

def execBarArrive (b : BitVec 4) (n : BitVec 6) (s : State) : Res := issue .synch (usesBarArrive n) s fun t =>
  arriveThen t false b.toNat n.toNat .done

def execBarWait (b : BitVec 4) (s : State) : Res := issue .observe .none s fun t =>
  awaitBar t false b.toNat (barGen t false b.toNat)

def execTbarSync (b : BitVec 2) (n : BitVec 6) (s : State) : Res := issue .synch .none s fun t =>
  syncBar t true b.toNat n.toNat

def execTbarArrive (b : BitVec 2) (n : BitVec 6) (s : State) : Res := issue .synch .none s fun t =>
  arriveThen t true b.toNat n.toNat .done

def execTbarWait (b : BitVec 2) (s : State) : Res := issue .observe .none s fun t =>
  awaitBar t true b.toNat (barGen t true b.toNat)

/-! ### Queues. A fresh arrival began to wait after every other: its moment is the next serial number. -/

def execQpush (d : BitVec 7) (q : BitVec 4) (s : State) : Res := issue .synch (usesQpush d) s fun t =>
  withQueue t q.toNat (tryPush t t.serial q.toNat d.toNat)

def execQpop (d : BitVec 7) (q : BitVec 4) (s : State) : Res := issue .observe (usesQpop d) s fun t =>
  withQueue t q.toNat (tryPop t t.serial q.toNat d.toNat)

def execQpushTry (d : BitVec 7) (q : BitVec 4) (b : BitVec 7) (s : State) : Res := issue .synch (usesQpushTry d b) s fun t =>
  withQueue t q.toNat
    (if mayPush t q.toNat t.serial then .done ((pushEntry t q.toNat d.toNat).setX b.toNat 1) else .done (t.setX b.toNat 0))

def execQpopTry (d : BitVec 7) (q : BitVec 4) (b : BitVec 7) (s : State) : Res := issue .observe (usesQpopTry d b) s fun t =>
  withQueue t q.toNat
    (if mayPop t q.toNat t.serial then .done ((popEntry t q.toNat d.toNat).setX b.toNat 1) else .done (t.setX b.toNat 0))

def execQpushSpan (d : BitVec 7) (a : BitVec 7) (s : State) : Res := issue .synch (usesQpushSpan d a) s fun t =>
  trySpanPush t t.serial a.toNat d.toNat

def execQpopSpan (d : BitVec 7) (a : BitVec 7) (s : State) : Res := issue .observe (usesQpopSpan d a) s fun t =>
  trySpanPop t t.serial a.toNat d.toNat

def execQpushSpanTry (d : BitVec 7) (a : BitVec 7) (b : BitVec 7) (s : State) : Res := issue .synch (usesQpushSpanTry d a b) s fun t =>
  withSpan t (t.x a.toNat).toNat fun u q =>
    if maySpan u q true u.serial then spanPush u q (u.x d.toNat) fun w => .done (w.setX b.toNat 1) else .done (u.setX b.toNat 0)

def execQpopSpanTry (d : BitVec 7) (a : BitVec 7) (b : BitVec 7) (s : State) : Res := issue .observe (usesQpopSpanTry d a b) s fun t =>
  withSpan t (t.x a.toNat).toNat fun u q =>
    if maySpan u q false u.serial then spanPop u q d.toNat fun w => .done (w.setX b.toNat 1) else .done (u.setX b.toNat 0)

/-! ### Semaphores -/

def execSemAdd (d : BitVec 7) (a : BitVec 7) (s : State) : Res := issue .synch (usesSemAdd d a) s fun t =>
  semAdd t a.toNat d.toNat

def execSemWait (d : BitVec 7) (a : BitVec 7) (b : BitVec 7) (s : State) : Res := issue .observe (usesSemWait d a b) s fun t =>
  semWait t a.toNat d.toNat b.toNat

def execSemRead (a : BitVec 7) (b : BitVec 7) (s : State) : Res := issue .observe (usesSemRead a b) s fun t =>
  semRead t a.toNat b.toNat

end Sys2Proof.Machine
end

