-- ==== Sys2Proof/Machine/Retire.lean ====
section
/-! DEFINITION. How squads, crews and grids end (R46 to R49, R79, R287, R343), and the placing and retiring steps of the device. -/

namespace Sys2Proof.Machine

/-! ### Grids (R49) -/

/-- Statistics of one tag as stored (R79). -/
def statBytes (g : Grid) (tag : Nat) : List Byte :=
  let c := (g.stats.find? fun x => x.tag == tag).getD ⟨tag, 0, 0, 0⟩
  leBytes 8 c.sat ++ leBytes 8 c.flush ++ leBytes 8 c.nan ++ leBytes 8 0

/-- The write-out of the statistics (R79, R287): it stops at the first entry that fails, with the cause 0x4D of a refusal, or 0x45, also
where a page-table entry is poisoned (DESIGN CHOICE, log 107). -/
def writeStats (s : State) (g : Grid) : State × Option (Nat × Nat) :=
  if g.r.stats = 0 then (s, none)
  else (List.range 64).foldl (fun (st : State × Option (Nat × Nat)) tag =>
    match st.2 with
    | some _ => st
    | none => match deviceWrite st.1 g.priv g.ctx (g.r.stats + 32 * tag) (statBytes g tag) with
      | (t, none) => (t, none)
      | (t, some c) => (t, some (tag, if c = 0x4D then 0x4D else 0x45))) (s, none)

/-- The completion add (R343): a failure is recorded and changes nothing. -/
def completionAdd (s : State) (g : Grid) : State :=
  if g.r.comp.1 = 0 then s
  else
    let failed (t : State) : State := errorRecord t 0x87 (some g.ctx) 0 0 0 0 g.r.va 0
    match deviceRead s g.priv g.ctx g.r.comp.1 8 with
    | (t, .inr _) => failed t
    | (t, .inl bs) => match deviceWrite t g.priv g.ctx g.r.comp.1 (leBytes 8 (leNat bs + g.r.comp.2)) with
      | (u, some _) => failed u
      | (u, none) => evalDeps u

/-- A grid completes (R49): statistics, end time and status, completion add. -/
def completeGrid (s : State) (g : Grid) : State :=
  let r := writeStats s g
  completionAdd (endGrid r.1 g 0 r.2) g

/-! ### Crews (R48) -/

/-- A crew leaves its core: its banks, rows, barriers and queues are released, and a fused pair may separate (R48). The team's
barriers pass to the crew that is left. -/
def dropCrew (s : State) (c : Crew) : State :=
  let hand (d : Crew) : Crew := if d.id == c.peer && c.peer != 0 && c.rank == 0 then { d with tbars := c.tbars } else d
  refuse (noteIdle { s with crews := (s.crews.filter fun d => d.id != c.id).map hand
                            mem := memClear s.mem (rowKey c.id 0 0) 0x200000 } (c.storage ++ c.compute ++ boundBanks s c)) (c.core / 2)

/-- A crew whose squads have all retired (R48): its writes are released to its grid's consumers (R133). -/
def retireCrew (s : State) (c : Crew) : State :=
  let t := dropCrew (flushL1 s c.core) c
  match t.grid? c.grid with
  | none => t
  | some g =>
    let h := { g with left := g.left - 1 }
    if h.left = 0 then completeGrid (t.setGrid h) h else t.setGrid h

/-! ### Squads (R46, R47) -/

/-- Drop a retired squad's arrivals in generations of count 0 (R47). -/
def dropArrivals (c : Crew) (squad : Nat) : Crew :=
  let drop (b : Barrier) : Barrier := if b.count == some 0 then { b with arr := b.arr.filter (· != squad) } else b
  { c with bars := c.bars.map drop, tbars := c.tbars.map drop }

/-- Settle every barrier of a crew and its team (R47). -/
def settleBars (s : State) (crew : Nat) : State :=
  (List.range 4).foldl (fun t n => barSettle t crew true n) ((List.range 16).foldl (fun t n => barSettle t crew false n) s)

/-- The squad that is checked out retires (R46): its slot is free, and barriers and crews go on without it. -/
def retireSquad (s : State) : State :=
  let q := s.sq
  let t := { s with sq := Squad.absent }
  let t := { t with crews := t.crews.map fun c => dropArrivals c q.ident.id }
  if q.isMc0 then stopMc (settleBars t q.ident.crew)
  else match t.crew? q.ident.crew with
    | none => t
    | some c =>
      let c := { c with squads := c.squads - 1 }
      let t := settleBars (t.setCrew c) c.id
      if c.squads = 0 then retireCrew t ((t.crew? c.id).getD c) else t

/-- The threads that executed the last `exit` stand at it again, to take the fault of an operation (R46). -/
def backToExit (s : State) : State :=
  (s.onSq fun q => { q with status := .ready, thr := { q.thr with live := q.cur.active } }).setPc s.sq.cur.active fun _ => s.sq.exitPc

/-- A squad that is to retire does so, or takes the fault of a failed operation at its `exit` (R46, R178). -/
def endSquad (s : State) : State :=
  if s.sq.status == .exiting && s.sq.ops.isEmpty then
    match firstError s.sq fun _ => true with
    | some (c, e) => settle (backToExit s) (.consume c e.raise)
    | none => retireSquad s
  else s

/-- Does the device wait for its launch record before it can end a grid (R334, R390, R400)? -/
def recordWaits (s : State) (g : Grid) : Bool := deviceWaits s g.priv g.ctx g.r.va 256 needW

/-- Does the device wait for a link or a peer before it can end a grid: for its statistics, its record or its completion semaphore? -/
def gridWaits (s : State) (g : Grid) : Bool :=
  (g.r.stats != 0 && deviceWaits s g.priv g.ctx g.r.stats 2048 needW) || recordWaits s g
    || (g.r.comp.1 != 0 && deviceWaits s g.priv g.ctx g.r.comp.1 8 needRW)

/-- Would the retirement of the squad that is checked out end a crew whose writes wait for a link (R48, R133), or a grid for which the
device must wait? -/
def endWaits (s : State) : Bool :=
  match s.myCrew, s.myGrid with
  | some c, some g => c.squads == 1 && (unflushed s c.core || (g.left == 1 && gridWaits s g))
  | _, _ => false

/-- Is a squad's unit being pre-empted (R353)? -/
def inUnit (s : State) (q : Squad) : Bool := s.units.any fun u => u.crews.contains q.ident.crew && q.ident.crew != 0

end Sys2Proof.Machine
end

