-- ==== Sys2Proof/Machine/Launch.lean ====
section
/-! DEFINITION. Launch records (R338 to R341): their fields, the checks at submission, acceptance and refusal; the work queues
(R335 to R337) and `launch` (R245). -/

namespace Sys2Proof.Machine

/-! ### Fields (R338, R339) -/

/-- Who submits a record: a work queue, or a squad by `launch`. -/
structure Submitter where
  ctx     : Nat
  part    : Nat
  priv    : Bool
  queue   : Bool      -- from a work queue
  timedOk : Bool
  mcSquad : Bool      -- `launch` by a system squad of the management core (R317)
  deriving DecidableEq, Repr

/-- Role entry r of a record (R339). -/
def roleAt (bs : List Byte) (r : Nat) : Role := ⟨fieldOf bs (0x20 + 8 * r) 4, fieldOf bs (0x24 + 8 * r) 1, fieldOf bs (0x25 + 8 * r) 1⟩

/-- A record's fields from its 256 bytes. -/
def recordOf (va : Nat) (bs : List Byte) : Record :=
  let f (o n : Nat) : Nat := fieldOf bs o n
  { va := va, flags := f 4 4, code := f 8 8, gx := f 0x10 4, gy := f 0x14 4, gz := f 0x18 4, scratch := f 0x1C 4
    roles := (List.range 4).map (roleAt bs), trap := f 0x40 4, priv := f 0x44 4, privBase := f 0x48 8, args := f 0x50 8
    stats := f 0x58 8, siteMap := f 0x60 8, banks := f 0x68 2, resid := f 0x6A 2, residN := f 0x6C 1, queues := f 0x6D 1
    dep0 := (f 0x70 8, f 0x78 8), dep1 := (f 0x80 8, f 0x88 8), comp := (f 0x90 8, f 0x98 8), budget := f 0xA0 8
    deadline := f 0xA8 8 }

/-! ### Checks in ascending refusal code (R338, R341) -/

/-- Flags that a record may not have (R338, R317). -/
def flagsBad (w : Submitter) (fl : Nat) : Bool :=
  fl / 1024 != 0 || fl / 256 % 4 == 3 || (bit fl 3 && !bit fl 2) || (bit fl 5 && (bit fl 0 || bit fl 6))
    || (bit fl 7 && (!w.mcSquad || fl % 16 != 0 || bit fl 5 || bit fl 6))

/-- 0x02: flags, zero fields, and fields set for another class or placement. -/
def zeroBad (r : Record) (bs : List Byte) : Bool :=
  fieldOf bs 0x6E 2 != 0 || fieldOf bs 0xD0 48 != 0 || (!r.pinned && r.siteMap != 0)
    || (!bit r.flags 6 && (r.budget != 0 || r.deadline != 0))
    || (bit r.flags 7 && (r.gx != 1 || r.gy != 1 || r.gz != 1 || r.banks != 0 || r.resid != 0 || r.residN != 0))

/-- 0x03: role entries (R24, R339). -/
def rolesBad (r : Record) (bs : List Byte) : Bool :=
  ((List.range 4).any fun k =>
    let e := roleAt bs k
    fieldOf bs (0x26 + 8 * k) 2 != 0
      || (if e.squads = 0 then e.vregs != 0 else 32 < e.squads || e.vregs % 8 != 0 || e.vregs < 8 || 128 < e.vregs))
    || r.squads = 0 || 32 < r.squads

/-- 0x04: grid extents (R28). -/
def extentsBad (r : Record) : Bool :=
  [r.gx, r.gy, r.gz].any (fun x => x = 0 || 65535 < x) || 4294967295 < r.gx * r.gy * r.gz

/-- 0x05: private bytes (R31). -/
def privateBad (r : Record) : Bool := r.priv % 16 != 0 || 1048576 < r.priv

/-- 0x06: alignment and VA range. -/
def addressBad (r : Record) : Bool :=
  r.code % 256 != 0 || (r.priv != 0 && r.privBase % 16 != 0) || r.stats % 32 != 0
    || [r.dep0.1, r.dep1.1, r.comp.1].any (fun a => a % 16 != 0)
    || [r.code, r.privBase, r.args, r.stats, r.siteMap, r.dep0.1, r.dep1.1, r.comp.1].any fun a => 36028797018963968 ≤ a

/-- Scratch bytes of the crews resident on the management core: squad 0's crew counts 64 KiB (R317, R424). -/
def mcScratch (s : State) : Nat :=
  65536 + ((s.crews.filter fun c => c.core == Config.mcCore && c.id != 0).foldl (fun n c =>
    n + ((s.grid? c.grid).map (·.r.scratch)).getD 0) 0)

/-- 0x07: resources out of range, or a crew that fits no empty core (R29), or the management core (R317). -/
def resourcesBad (s : State) (w : Submitter) (r : Record) : Bool :=
  2097152 < r.scratch || 32 < r.banks || 16 < r.queues || 32 < r.own + r.residN
    || (if bit r.flags 7 then
          (freeSlots s Config.mcCore).length < r.squads || 262144 < r.scratch + mcScratch s
            || (freeBanks s Config.mcCore).length < r.storage
        else (s.part w.part).chips == 0)

/-- 0x08: residency (R34). -/
def residencyBad (s : State) (w : Submitter) (r : Record) : Bool :=
  if r.resid = 0 then r.residN != 0
  else r.residN == 0 || (match boundTo s w.ctx r with
    | none => true
    | some x => x.n < r.residN)

/-- The entries of a site map from its bytes after the header (R37). -/
def siteEntries (bs : List Byte) (n : Nat) : List (Nat × Nat × Nat) :=
  (List.range n).map fun i => (fieldOf bs (8 * i) 4, fieldOf bs (8 * i + 4) 2, fieldOf bs (8 * i + 6) 2)

/-- Insert an entry of a site map in the order of its first crew. -/
def insertSite (e : Nat × Nat × Nat) : List (Nat × Nat × Nat) → List (Nat × Nat × Nat)
  | [] => [e]
  | x :: xs => if e.1 ≤ x.1 then e :: x :: xs else x :: insertSite e xs

/-- Do sorted entries name every crew exactly once (R38)? -/
def sitesTile : Nat → Nat → List (Nat × Nat × Nat) → Bool
  | next, total, [] => next == total
  | next, total, e :: es => e.1 == next && e.2.1 != 0 && sitesTile (next + e.2.1) total es

/-- Teams of a pinned grid stand on the paired cores of one chiplet (R38). -/
def pairsOk (s : State) (part : Nat) (total : Nat) (sites : List (Nat × Nat × Nat)) : Bool :=
  (List.range (total / 2)).all fun k =>
    match (siteOf sites (2 * k)).bind (siteCore s part), (siteOf sites (2 * k + 1)).bind (siteCore s part) with
    | some a, some b => a / 2 == b / 2 && a != b
    | _, _ => false

/-- Read and check a site map (R37, R38, R350): its entries, or nothing when it is unreadable or invalid. -/
def readSites (s : State) (w : Submitter) (r : Record) : State × Option (List (Nat × Nat × Nat)) :=
  if r.siteMap % 8 != 0 then (s, none)
  else match deviceRead s w.priv w.ctx r.siteMap 8 with
    | (t, .inr _) => (t, none)
    | (t, .inl h) =>
      let n := leNat h
      if n = 0 || 4096 < n then (t, none)
      else match deviceRead t w.priv w.ctx (r.siteMap + 8) (8 * n) with
        | (u, .inr _) => (u, none)
        | (u, .inl bs) =>
          let es := (siteEntries bs n).foldl (fun l e => insertSite e l) []
          let u := readTable u w.part (es.map (·.2.2))
          let ok := sitesTile 0 r.crews es && es.all (fun e => (siteCore u w.part e.2.2).isSome)
            && (!r.teams || pairsOk u w.part r.crews es)
          (u, if ok then some es else none)

/-- The device as if no crew were resident: residencies keep their banks (R32). -/
def idleDevice (s : State) : State := { s with crews := [], sq := Squad.absent, parked := [], l1 := [], fused := [] }

/-- 0x0A: a cohort that an idle partition could not hold as a whole (R32). -/
def cohortBad (s : State) (g : Grid) : Bool := g.r.cohort && (4096 < g.r.crews || (findPlace (idleDevice s) g 0).isNone)

/-- Crews of a record that fit one empty core (R345). -/
def crewsPerCore (r : Record) : Nat :=
  Nat.min (Nat.min 32 (64 / r.squads)) (if r.own = 0 then 32 else (32 - r.residN) / r.own)

/-- The floor of a timed grid in cores (R345). -/
def floorOf (r : Record) : Nat :=
  let k := crewsPerCore r
  let f := (r.crews + k - 1) / k
  if r.teams then (f + 1) / 2 * 2 else f

/-- Cores that the floors of a partition's timed grids commit (R345). -/
def committed (s : State) (part : Nat) : Nat :=
  (s.grids.filter fun g => g.part == part && g.timed && !g.demoted).foldl (fun n g => n + floorOf g.r) 0

/-- 0x0B: a timed grid that may not be timed. -/
def timedBad (s : State) (w : Submitter) (r : Record) : Bool :=
  bit r.flags 6 && (!w.timedOk || !w.queue || r.budget = 0 || (s.part w.part).rcores < floorOf r + committed s w.part)

/-- Grids of a partition that are accepted and have not started. -/
def unstarted (s : State) (part : Nat) : Nat := (s.grids.filter fun g => g.part == part && !g.started).length

/-- The grid that a record asks for. -/
def gridOf (s : State) (w : Submitter) (r : Record) (sites : List (Nat × Nat × Nat)) : Grid :=
  { id := s.serial, ctx := if bit r.flags 7 then 0 else w.ctx, part := w.part, priv := w.priv, mc := bit r.flags 7, r := r
    nbv := (s.ctx w.ctx).nbvset.toNat % 4, stats := [], pend0 := r.dep0.1 != 0, pend1 := r.dep1.1 != 0
    toPlace := [(0, r.crews)], left := r.crews, sites := sites, dealt := [], started := false, demoted := false, used := 0
    usedAt := s.meridian.toNat, launched := s.serial, t0 := s.meridian.toNat }

/-- The refusal code of a record (R341), 0 for acceptance, with the site map of a pinned grid. -/
def checkRecord (s : State) (w : Submitter) (r : Record) (bs : List Byte) : State × Nat × List (Nat × Nat × Nat) :=
  if fieldOf bs 0 4 != 0x46410002 then (s, 0x01, [])
  else if flagsBad w r.flags || zeroBad r bs then (s, 0x02, [])
  else if rolesBad r bs then (s, 0x03, [])
  else if extentsBad r then (s, 0x04, [])
  else if privateBad r then (s, 0x05, [])
  else if addressBad r then (s, 0x06, [])
  else if resourcesBad s w r then (s, 0x07, [])
  else if residencyBad s w r then (s, 0x08, [])
  else
    let m := if r.pinned then readSites s w r else (s, some [])
    match m.2 with
    | none => (m.1, 0x09, [])
    | some es =>
      let s := m.1
      if cohortBad s (gridOf s w r es) then (s, 0x0A, [])
      else if timedBad s w r then (s, 0x0B, [])
      else if bit r.flags 6 && r.deadline != 0 && r.deadline < s.now.toNat + 64000 then (s, 0x0C, [])
      else if !w.queue && !bit r.flags 7 && (s.part w.part).state = 3 then (s, 0x0D, [])
      else if 4096 ≤ unstarted s w.part then (s, 0x0F, [])
      else (s, 0, es)

/-! ### Submission -/

/-- A grid is accepted (R340, R342): submit time and status are written, and its dependences are evaluated. -/
def accept (s : State) (g : Grid) : State :=
  let t := { s with serial := s.serial + 1, grids := s.grids ++ [g] }
  evalGrid (recordWrite (recordWrite t g 0xB0 8 t.now.toNat) g 0xC8 8 0xFE) g

/-- Submit a record whose bytes were read: the state and the refusal code. A refusal is written into the record, through the queue's own
context, except that of `launch` (R245, R340). -/
def submit (s : State) (w : Submitter) (va : Nat) (bs : List Byte) : State × Nat :=
  let r := recordOf va bs
  let c := checkRecord s w r bs
  let g := gridOf c.1 w r c.2.2
  if c.2.1 = 0 then (accept c.1 g, 0)
  else if w.queue then
    let h := { g with ctx := w.ctx }
    (recordWrite (recordWrite c.1 h 0xB0 8 c.1.now.toNat) h 0xC8 8 c.2.1, c.2.1)
  else (c.1, c.2.1)

/-- Must the submission of the record at a VA wait for a link or a peer (R334, R390, R400): for the record, its site map or the site
table? -/
def submitWaits (s : State) (w : Submitter) (va : Nat) : Bool :=
  (!s.dev.spanDownAt.isEmpty || anyClosed s) && (deviceWaits s w.priv w.ctx va 256 needR || match deviceRead s w.priv w.ctx va 256 with
    | (_, .inr _) => false
    | (t, .inl bs) =>
      let r := recordOf va bs
      r.pinned && (tableWaits t w.part || deviceWaits t w.priv w.ctx r.siteMap 8 needR || match deviceRead t w.priv w.ctx r.siteMap 8 with
        | (_, .inr _) => false
        | (u, .inl h) => leNat h ≤ 4096 && deviceWaits u w.priv w.ctx (r.siteMap + 8) (8 * leNat h) needR))

/-! ### Work queues (R336, R337) -/

/-- A QERR condition (R337). -/
def queueError (s : State) (q code : Nat) : State :=
  let w := s.queue q
  s.setQueue q { w with cfg := w.cfg &&& ~~~0x80000000, err := BitVec.ofNat 64 (code + w.rd * 4294967296) }

/-- The next entry of a queue is taken (R337): its record is accepted or refused, or a QERR condition stops the queue. -/
def takeEntry (s : State) (q : Nat) : State :=
  let w := s.queue q
  let cfg := w.cfg.toNat
  let part := cfg / 65536 % 8
  let st := (s.part part).state
  let ahead := (w.w + 4294967296 - w.rd) % 4294967296
  let priv := q == 0
  let ctx := if priv then 0 else cfg / 256 % 64
  let entry := w.base.toNat + 8 * (w.rd % 2 ^ (cfg % 32))
  if !w.cfg.getLsbD 31 || ahead = 0 || !(st == 1 || st == 2) then s
  else if 2 ^ (cfg % 32) < ahead then queueError s q 0x10
  else if deviceWaits s priv ctx entry 8 needR then s
  else
    match deviceRead s priv ctx entry 8 with
    | (t, .inr c) => queueError t q c
    | (t, .inl e) =>
      let va := leNat e
      if va % 256 != 0 then queueError t q 0x43
      else if submitWaits t ⟨ctx, part, priv, true, bit cfg 24, false⟩ va then s
      else match deviceRead t priv ctx va 256 with
        | (u, .inr c) => queueError u q c
        | (u, .inl bs) =>
          let r := submit u ⟨ctx, part, priv, true, bit cfg 24, false⟩ va bs
          r.1.setQueue q { r.1.queue q with rd := (w.rd + 1) % 4294967296 }

/-! ### `launch` (R245) -/

/-- The squad that runs as a submitter. -/
def launcher (s : State) : Submitter :=
  let q := s.sq.ident
  ⟨q.ctx, s.myPart, q.priv, false, false, q.priv && q.core == Config.mcCore⟩

/-- Submit the record at a VA (R245): a record that cannot be read is refusal 0x0E. -/
def launchAt (s : State) (va : Nat) : State × Nat :=
  let w := launcher s
  let t := flushL1 s s.sq.ident.core
  match deviceRead t w.priv w.ctx va 256 with
  | (u, .inr _) => (u, if (u.part w.part).state = 3 && !w.mcSquad then 0x0D else 0x0E)
  | (u, .inl bs) => submit u w va bs

def execLaunch (d : BitVec 7) (a : BitVec 7) (s : State) : Res := issue .synch (usesLaunch d a) s fun t =>
  let va := (t.x a.toNat).toNat
  let bad (c d : Nat) : FaultInfo := { cause := c, detail := d, lanes := t.sq.cur.active, addr := va, aux := 1 }
  failIf (addressTop t ≤ va) (bad 0x45 4) <| failIf (va % 256 != 0) (bad 0x43 0) <|
    if unflushed t t.sq.ident.core || submitWaits t (launcher t) va then .stall
    else
      let r := launchAt t va
      .done (r.1.setX d.toNat (BitVec.ofNat 64 r.2))

end Sys2Proof.Machine
end

