-- ==== Sys2Proof/Machine/Preempt.lean ====
section
/-! DEFINITION. Pre-emption (R50 to R52, R352 to R354) and the saving and restoring of units by `cxsave` and `cxrest` (R329). -/

namespace Sys2Proof.Machine

/-! ### Units and keep slots (R50, R354) -/

/-- The unit that a crew belongs to (R50): its team, or its whole cohort grid. -/
def unitOf (s : State) (c : Crew) : List Crew :=
  match s.grid? c.grid with
  | none => [c]
  | some g => if g.r.cohort then s.crews.filter fun d => d.grid == g.id else teamOf s c

/-- The unit in pre-emption that holds a crew. -/
def unitWith (s : State) (crew : Nat) : Option PreUnit := s.units.find? fun u => u.crews.contains crew

/-- A unit by number. -/
def unit? (s : State) (id : Nat) : Option PreUnit := s.units.find? fun u => u.id == id

/-- Replace a unit. -/
def setUnit (s : State) (u : PreUnit) : State := { s with units := s.units.map fun v => if v.id == u.id then u else v }

/-- A unit is no more; its keep slots are free. -/
def dropUnit (s : State) (id : Nat) : State := { s with units := s.units.filter fun v => v.id != id }

/-- Free keep slots of a partition (R354). -/
def freeKeep (s : State) (part : Nat) : List Nat :=
  let used := s.units.flatMap fun u => if u.part = part then u.slots else []
  (List.range ((s.part part).keep.toNat % 65536)).filter fun k => !used.contains k

/-- Physical address of keep slot k of a partition (R354). -/
def keepSlot (s : State) (part k : Nat) : Nat := (s.part part).keep.toNat / 8388608 * 8388608 % paSpace + 8388608 * (k + 1)

/-- The squads of crews. -/
def squadsOf (s : State) (crews : List Nat) : List Squad := s.squads.filter fun q => crews.contains q.ident.crew

/-- Change the squads of crews. -/
def mapCrewSquads (s : State) (crews : List Nat) (f : Squad → Squad) : State :=
  s.mapSquads fun q => if crews.contains q.ident.crew then f q else q

/-- A ready squad stops at its boundary. -/
def freeze (q : Squad) : Squad := if q.status == .ready then { q with status := .frozen } else q

/-- A frozen squad goes on. -/
def thaw (q : Squad) : Squad := if q.status == .frozen then { q with status := .ready } else q

/-- Request the pre-emption of a crew's unit (R352, R353): its squads issue nothing more. With `keep`, it takes a keep slot for
each crew, and is not made when they are not free (R344). -/
def requestUnit (s : State) (c : Crew) (cause : UnitCause) (keep : Bool) : Option State :=
  let crews := unitOf s c
  let part := ((s.grid? c.grid).map (·.part)).getD 0
  let slots := if keep then (freeKeep s part).take crews.length else []
  if keep && slots.length < crews.length then none
  else
    let ids := crews.map (·.id)
    let u : PreUnit :=
      { id := s.serial, phase := .stopping, cause := cause, part := part, ctx := ((s.grid? c.grid).map (·.ctx)).getD 0, crews := ids
        slots := slots, joined := [], heldC := [], heldS := [] }
    some (mapCrewSquads { s with serial := s.serial + 1, units := s.units ++ [u] } ids freeze)

/-! ### Draining and saving (R353) -/

/-- Bytes left of a copy; 0 for another operation. -/
def copyLeft (o : Op) : Nat :=
  match o.act with
  | .engine .cpyGS _ _ _ z _ _ => z.toNat - o.pos
  | .engine .cpySG _ _ _ z _ _ => z.toNat - o.pos
  | .engine .cpyGG _ _ _ z _ _ => z.toNat - o.pos
  | .engine .cpySP _ _ _ z _ _ => z.toNat - o.pos
  | .engine .cpyGS2 _ _ _ z _ _ => (shapeOf z).total - o.pos
  | .engine .cpySG2 _ _ _ z _ _ => (shapeOf z).total - o.pos
  | _ => 0

/-- Has a squad drained: every operation has retired, but for copies that stop at a chunk boundary and what waits behind them? -/
def drained (q : Squad) : Bool :=
  q.ops.all fun o => o.cls == .cp && (o.done || chunkBytes < copyLeft o) && (q.ops.any fun p => !p.done)

/-- The cores of crews. -/
def coresWith (s : State) (crews : List Nat) : List Nat := (s.crews.filter fun c => crews.contains c.id).map (·.core)

/-- Every squad of a stopping unit stands at a boundary: DRAINING. -/
def startDraining (s : State) (u : PreUnit) : State :=
  if u.phase == .stopping then setUnit s { u with phase := .draining } else s

/-- Draining has ended: SAVING begins with the write-back of the L1s (R51). -/
def startSaving (s : State) (u : PreUnit) : State :=
  if u.phase == .draining && (squadsOf s u.crews).all drained then
    setUnit ((coresWith s u.crews).foldl flushL1 s) { u with phase := .saving }
  else s

/-- The header of an image, and the unit's number after it (R329; log 12). -/
def imageHeader (s : State) (u : PreUnit) (crews : Nat) : List Byte :=
  let va := ((s.crews.find? fun c => u.crews.contains c.id).bind fun c => (s.grid? c.grid).map (·.r.va)).getD 0
  leBytes 4 0x4B490002 ++ leBytes 4 72 ++ leBytes 1 u.ctx ++ leBytes 1 crews ++ leBytes 6 0 ++ leBytes 8 va
    ++ leBytes 8 s.now.toNat ++ leBytes 32 0 ++ leBytes 8 u.id

/-- Write an image at a physical address: why it could not be, if so (R329). -/
def writeImage (s : State) (u : PreUnit) (a crews : Nat) : State × Option Nat :=
  if a < paSpace && anyPoison s a 72 then (s, some 0x4A)
  else match deviceWrite s true 0 a (imageHeader s u crews) with
    | (t, none) => (t, none)
    | (t, some _) => (t, some 0x45)

/-- Write a unit's images where they are kept: the slot that failed and why. -/
def writeImages (s : State) (u : PreUnit) : State × Option (Nat × Nat) :=
  match u.cause with
  | .cxsave _ _ keep =>
    let r := writeImage s u keep u.crews.length
    (r.1, r.2.map fun c => (0, c))
  | _ => u.slots.foldl (fun (st : State × Option (Nat × Nat)) k => match st.2 with
    | some _ => st
    | none =>
      let r := writeImage st.1 u (keepSlot s u.part k) 1
      (r.1, r.2.map fun c => (k, c))) (s, none)

/-- Bank numbers under which a saved crew's contents stand. -/
def heldBank (crew i : Nat) : Nat := 8192 + 64 * crew + i

/-- The contents, poison and damage of a bank move to another. -/
def moveBank (s : State) (a b : Nat) : State :=
  let lo := bankKey a 0
  let hi := bankKey b 0
  let shift (t : Nat) : Nat := t - lo / 64 + hi / 64
  let here (t : Nat) : Bool := lo / 64 ≤ t && t < lo / 64 + 2048
  let rest := memClear (memClear s.mem lo 131072) hi 131072
  let moved := ((s.mem.filter fun c => lo ≤ c.1 && c.1 < lo + 131072).map fun c => (c.1 - lo + hi, c.2)).filter fun c =>
    c.2 != unlisted c.1
  { s with mem := rest.filter (fun c => c.1 < hi) ++ moved ++ rest.filter fun c => hi + 131072 ≤ c.1
           poison := setAddAll (s.poison.filter fun t => !here t) ((s.poison.filter here).map shift)
           latent := s.latent.map fun l => match l with
             | .plane k i => if k = a then .plane b i else .plane k i
             | .side k => if k = a then .side b else .side k
             | .retention k i => .retention k i
             | .metadata a => .metadata a }

/-- Move the banks of a crew, storage first, to new numbers. -/
def moveBanks (s : State) (c : Crew) (dest : List Nat) : State × Crew :=
  let old := c.storage ++ c.compute
  ((old.zip dest).foldl (fun t p => moveBank t p.1 p.2) s,
   { c with storage := dest.take c.storage.length, compute := dest.drop c.storage.length })

/-- Squads leave the device's quadrants. -/
def removeSquads (s : State) (crews : List Nat) : State :=
  { s with sq := if crews.contains s.sq.ident.crew && s.sq.present then Squad.absent else s.sq
           parked := s.parked.filter fun q => !crews.contains q.ident.crew }

/-- A unit's crews leave their cores for the keep area (R353): cores, banks and squad slots are free. -/
def holdUnit (s : State) (u : PreUnit) (cause : UnitCause) : State :=
  let crews := s.crews.filter fun c => u.crews.contains c.id
  let moved := crews.foldl (fun (st : State × List Crew) c =>
    let r := moveBanks st.1 c ((List.range (c.storage.length + c.compute.length)).map (heldBank c.id))
    (r.1, st.2 ++ [r.2])) (s, [])
  let sqs := squadsOf s u.crews
  let t := removeSquads moved.1 u.crews
  let t := noteIdle { t with crews := t.crews.filter fun c => !u.crews.contains c.id }
    (crews.flatMap fun c => c.storage ++ c.compute ++ boundBanks s c)
  let t := (crews.map fun c => c.core / 2).foldl refuse t
  setUnit t { u with phase := .saved, cause := cause, heldC := moved.2, heldS := sqs }

/-- A squad's system instruction has its effect complete, with a result (R323). -/
def answer (s : State) (squad : Nat) (x : Nat) : State :=
  { s with dev := { s.dev with answers := s.dev.answers ++ [(squad, BitVec.ofNat 64 x)] } }

/-- A `cxsave` has ended for the squad that began it and for those whose own joined it (R352). -/
def answerSave (s : State) (u : PreUnit) (squad x : Nat) : State := (squad :: u.joined).foldl (fun t q => answer t q x) s

/-- A unit runs on (R353). -/
def runOn (s : State) (u : PreUnit) : State := dropUnit (mapCrewSquads s u.crews thaw) u.id

/-- Does a unit stay in SAVING: for a pinned sector of its context (R370), for a write-back or an image that waits for a link (R134, R334,
R390)? -/
def savingWaits (s : State) (u : PreUnit) : Bool :=
  let cores := coresWith s u.crews
  (s.l1.any fun x => x.pinned && x.ctx == u.ctx && cores.contains x.core) || cores.any (unflushed s)
    || match u.cause with
      | .cxsave _ _ keep => deviceWaits s true 0 keep 72 needW
      | _ => u.slots.any fun k => deviceWaits s true 0 (keepSlot s u.part k) 72 needW

/-- The write of the image ends (R353), what the L1s still had to write back before it: SAVED, or, when it failed, RUNNING again with a
record. -/
def endSaving (s : State) (u : PreUnit) : State :=
  if u.phase != .saving || savingWaits s u then s
  else
    let r := writeImages ((coresWith s u.crews).foldl flushL1 s) u
    match u.cause, r.2 with
    | .cxsave sq _ _, none => answerSave (holdUnit r.1 u .image) u sq (72 * 4294967296)
    | .cxsave sq _ _, some (_, c) => answerSave (runOn r.1 u) u sq c
    | _, none => holdUnit r.1 u u.cause
    | _, some (k, _) => runOn (errorRecord r.1 0x88 (some u.ctx) 0 0 0 0 k 0) u

/-! ### Restoring (R353) -/

/-- Squads that a saved crew still has. -/
def heldSquads (u : PreUnit) (crew : Nat) : List Squad := u.heldS.filter fun q => q.ident.crew == crew

/-- Do two banks hold the same bytes, with the same poison? -/
def sameBank (s : State) (a b : Nat) : Bool :=
  let cells (k : Nat) : List (Nat × Byte) :=
    (s.mem.filter fun c => bankKey k 0 ≤ c.1 && c.1 < bankKey k 0 + 131072).map fun c => (c.1 - bankKey k 0, c.2)
  a == b || (cells a == cells b && (List.range 2048).all fun t =>
    s.poison.contains (bankKey a 0 / 64 + t) == s.poison.contains (bankKey b 0 / 64 + t))

/-- The banks of its residency that a crew of a grid sees on a core (R35). -/
def residenOn (s : State) (g : Grid) (c : Crew) (core : Nat) : List Nat :=
  ((boundTo s g.ctx g.r).map fun x => (assocGet x.banks core []).take c.residen.length).getD []

/-- Would a crew find on a core what the residency banks that it left hold now? Its results are to be those of an uninterrupted run
(R51), and the banks stay in place (R36; log 85). -/
def sameResidency (s : State) (g : Grid) (c : Crew) (core : Nat) : Bool :=
  core == c.core || (c.residen.zip (residenOn s g c core)).all fun p => sameBank s p.1 p.2

/-- May a saved crew be resumed on a core now (R29, R35, R38, R51, R350)? -/
def mayResume (s : State) (u : PreUnit) (c : Crew) (core : Nat) : Bool :=
  match s.grid? c.grid with
  | none => false
  | some g => (allowedCores s g c.linear).contains core
      && hasRoom s core (heldSquads u c.id).length (c.storage.length + c.compute.length) && sameResidency s g c core

/-- A saved crew stands on a core again, its squads frozen; the new core's L1 keeps no clean copy (R134, R353). -/
def resumeCrew (s : State) (u : PreUnit) (c : Crew) (core : Nat) : State :=
  let banks := (freeBanks s core).take (c.storage.length + c.compute.length)
  let res := ((s.grid? c.grid).map fun g => residenOn s g c core).getD []
  let t := invalidateClean ((banks ++ res).foldl leaveRetention s) core
  let r := moveBanks t c banks
  let slots := freeSlots s core
  let sqs := (heldSquads u c.id).zipIdx.map fun e =>
    let p := slots.getD e.2 (0, 0)
    { e.1 with ident := { e.1.ident with core := core, quad := p.1, slot := p.2 } }
  { r.1 with crews := r.1.crews ++ [{ r.2 with core := core, slot := (freeCrewSlot s core).getD 0, residen := res }]
             parked := r.1.parked ++ sqs }

/-- The saved crews of a unit as teams. -/
def heldTeams : List Crew → List (List Crew)
  | [] => []
  | [c] => [[c]]
  | c :: d :: rest => if c.peer == d.id && c.peer != 0 then [c, d] :: heldTeams rest else [c] :: heldTeams (d :: rest)

/-- Resume one team or crew on cores. -/
def resumeTeam (s : State) (u : PreUnit) (t : List Crew) (cores : List Nat) : Option State :=
  match t, cores with
  | [c], [k] => if mayResume s u c k then fusedAsAsked (refuse (resumeCrew s u c k) (k / 2)) (k / 2) else none
  | [c, d], [k, l] =>
    if k / 2 == l / 2 && k != l && mayResume s u c k && mayResume s u d l then
      fusedAsAsked (refuse (resumeCrew (resumeCrew s u c k) u d l) (k / 2)) (k / 2)
    else none
  | _, _ => none

/-- Resume a unit's teams on cores, all or nothing. -/
def resumeTeams (u : PreUnit) : State → List (List Crew) → List Nat → Option State
  | s, [], cores => if cores.isEmpty then some s else none
  | s, t :: ts, cores => match resumeTeam s u t (cores.take t.length) with
    | none => none
    | some v => resumeTeams u v ts (cores.drop t.length)

/-- Cores on which a team could be resumed; the crew of TEAMRANK 0 on a named core where there is one. -/
def resumeChoices (named : Option Nat) (t : List Crew) : List (List Nat) :=
  let cores := match named with
    | some k => [k]
    | none => List.range 128
  let other (k : Nat) : Nat := if k % 2 = 0 then k + 1 else k - 1
  match t with
  | [_] => cores.map fun k => [k]
  | [c, _] => cores.map fun k => if c.rank = 0 then [k, other k] else [other k, k]
  | _ => []

/-- Cores on which a unit could be resumed now, lowest first; its first team on the named core where there is one. -/
def findResume (u : PreUnit) : State → Option Nat → List (List Crew) → Option (List Nat)
  | _, _, [] => some []
  | s, named, t :: ts =>
    match (resumeChoices named t).findSome? fun cs => (resumeTeam s u t cs).map fun v => (cs, v) with
    | none => none
    | some (cs, v) => (findResume u v none ts).map (cs ++ ·)

/-- Resume a saved unit on cores (R353): RESTORING, until the recorded copies are complete. -/
def startRestoring (s : State) (u : PreUnit) (cores : List Nat) (cause : UnitCause) : Option State :=
  match resumeTeams u s (heldTeams u.heldC) cores with
  | none => none
  | some t => some (setUnit t { u with phase := .restoring, cause := cause, heldC := [], heldS := [] })

/-- Restoration has ended: RUNNING (R51: every operation has completed and every counter is 0). -/
def endRestoring (s : State) (u : PreUnit) : State :=
  if u.phase == .restoring && (squadsOf s u.crews).all fun q => q.ops.isEmpty then
    match u.cause with
    | .cxrest sq _ => answer (runOn s u) sq 0
    | _ => runOn s u
  else s

/-! ### The distributor's victims (R344) -/

/-- Is a unit of a partition whose departing chiplets have not been released: the resume phase has not begun (R359)? -/
def heldBack (s : State) (u : PreUnit) : Bool := u.cause == .resize u.part && (s.part u.part).phase == .evacuate

/-- May the distributor resume a unit: one that is saved in a keep slot, and not held back by a resize? -/
def mayRestore (s : State) (u : PreUnit) : Bool := u.phase == .saved && u.cause != .image && !heldBack s u

/-- The grid of a unit. -/
def unitGrid (s : State) (u : PreUnit) : Option Grid := (u.heldC.head?).bind fun c => s.grid? c.grid

/-- Is there a saved unit, of a grid that comes before g, that could be resumed now (R344)? -/
def unitBefore (s : State) (g : Grid) : Bool :=
  s.units.any fun u => u.part == g.part && mayRestore s u && ((unitGrid s u).map fun h => h.before g).getD false
    && (findResume u s none (heldTeams u.heldC)).isSome

/-- Is it the turn of a saved unit: no crew and no unit of a grid that comes before its own could start now (R344)? -/
def unitTurn (s : State) (u : PreUnit) : Bool :=
  match unitGrid s u with
  | none => false
  | some g => !unitBefore s g && (s.grids.filter fun h => h.part == g.part && h.mc == g.mc && h.placing && h.before g).all fun h =>
      (frontRunners h h.r.crews).all fun j => (findPlace s h j).isNone

/-- May a grid of a class pre-empt a unit of another (R344)? -/
def preempts (cls victim : Nat) : Bool := (cls = 3 && victim < 3) || (cls = 2 && victim = 0)

/-- Did crew c start later than d? One whose first instruction is still to issue starts after all others (R346). -/
def laterStart (c d : Crew) : Bool :=
  if c.began = d.began then decide (d.id < c.id) else c.began = 0 || (d.began != 0 && d.began < c.began)

/-- Is crew c a better victim than d: of a lower class, or of the same and started later? -/
def betterVictim (c d : Nat × Crew) : Bool := c.1 < d.1 || (c.1 == d.1 && laterStart c.2 d.2)

/-- The unit that the distributor pre-empts for a crew that it cannot place, or resume, on any of some cores (R344). -/
def victim (s : State) (g : Grid) (cores : List Nat) : Option Crew :=
  let found := s.crews.filterMap fun c => match s.grid? c.grid with
    | none => none
    | some h =>
      if h.part == g.part && !h.priv && preempts g.cls h.cls && cores.contains c.core && (unitWith s c.id).isNone then some (h.cls, c)
      else none
  (found.foldl (fun b c => match b with
    | none => some c
    | some d => if betterVictim c d then some c else some d) none).map (·.2)

/-- The distributor pre-empts for a grid that could use some cores, one unit at a time (R344). -/
def preemptOn (s : State) (g : Grid) (cores : List Nat) : State :=
  if s.units.any fun u => u.part == g.part && u.cause == .distributor && u.phase != .saved then s
  else match victim s g cores with
    | none => s
    | some c => (requestUnit s c .distributor true).getD s

/-- The distributor pre-empts for a crew of a timed or high grid that it cannot place (R344). -/
def preemptFor (s : State) (g : Grid) (k : Nat) : State :=
  if g.placing && (batch g k).all g.waits && placeTurn s g k && !unitBefore s g && (findPlace s g k).isNone then
    preemptOn s g (allowedCores s g k)
  else s

/-- The distributor resumes a saved unit on cores, when it is its turn (R344, R353); it pre-empts for the unit of a timed or high grid
that no cores hold. -/
def restoreOn (s : State) (u : PreUnit) (cores : List Nat) : State :=
  if (unitGrid s u).any fun g => g.r.pinned && tableWaits s g.part then s
  else
  let s := match unitGrid s u with
    | some g => if g.r.pinned then readTable s g.part (u.heldC.filterMap fun c => siteOf g.sites c.linear) else s
    | none => s
  if mayRestore s u && unitTurn s u then
    match startRestoring s u cores u.cause with
    | some t => t
    | none => match unitGrid s u, findResume u s none (heldTeams u.heldC) with
      | some g, none => preemptOn s g (u.heldC.flatMap fun c => allowedCores s g c.linear)
      | _, _ => s
  else s

/-! ### `cxsave` and `cxrest` (R329) -/

/-- The crew in a slot of a core. -/
def crewAt (s : State) (core slot : Nat) : Option Crew := s.crews.find? fun c => c.core == core && c.slot == slot && c.id != 0

/-- Start a `cxsave`: its status at once, or the request (which joins one that is under way). -/
def startSave (s : State) (squad : Nat) (w : DWord) (keep dst : Nat) : State × Option Nat :=
  match crewAt s (field w 0 7) (field w 8 5) with
  | none => (s, some 1)
  | some c => match unitWith s c.id with
    | some u => if u.phase == .restoring then (s, none) else match u.cause with
      | .distributor => (setUnit s { u with cause := .cxsave squad dst keep, slots := [] }, none)
      | .resize _ => (setUnit s { u with cause := .cxsave squad dst keep, slots := [] }, none)
      | .cxsave _ _ _ => (setUnit s { u with joined := u.joined ++ [squad] }, none)
      | _ => (s, none)
    | none => ((requestUnit s c (.cxsave squad dst keep) false).getD s, none)

/-- Does a core break R35 or R38 for a saved crew? -/
def coreBreaks (s : State) (c : Crew) (core : Nat) : Bool :=
  match s.grid? c.grid with
  | none => false
  | some g =>
    (g.r.resid != 0 && !((boundTo s g.ctx g.r).map fun x => x.mask.getLsbD core).getD false)
      || (g.r.pinned && (siteOf g.sites c.linear).bind (siteCore s g.part) != some core)

/-- Start a `cxrest`: its status at once, or the restoring of the unit. -/
def startRest (s : State) (squad : Nat) (a : Nat) (w : DWord) (dst : Nat) : State × Option Nat :=
  match deviceRead s true 0 a 72 with
  | (t, .inr c) => (t, some c)
  | (t, .inl bs) =>
    let found := t.units.find? fun u => u.id == fieldOf bs 0x40 8 && u.phase == .saved && u.cause == .image
    if fieldOf bs 0 4 != 0x4B490002 || fieldOf bs 4 4 != 72 then (t, some 2)
    else match found with
      | none => (t, some 2)
      | some u =>
        let named := if w.getLsbD 7 then none else some (field w 0 7)
        let first := u.heldC.find? fun c => c.rank == 0
        let breaks := match named, first with
          | some k, some c => coreBreaks t c k
          | _, _ => false
        if breaks then (t, some 3)
        else match findResume u t named (heldTeams u.heldC) with
          | none => (t, some 1)
          | some cores =>
            let v := { u with heldS := u.heldS.map fun q => if q.status == .stopped then { q with status := .frozen } else q }
            match startRestoring (setUnit t v) v cores (.cxrest squad dst) with
            | none => (t, some 1)
            | some x => (x, none)

end Sys2Proof.Machine
end

