-- ==== Sys2Proof/Machine/Partition.lean ====
section
/-! DEFINITION. Partitions (R354, R357 to R359): reservations, commands, resizing, and ending a context. -/

namespace Sys2Proof.Machine

/-! ### Reservations (R357) -/

/-- RCORES, RMEM and RLNK of a PARTCTL value. -/
def reserveOf (v : DWord) : Nat × Nat × Nat := (field v 16 8, field v 24 7, field v 31 7)

/-- Does a PARTCTL write change a reservation? -/
def reserves (p : Partition) (v : DWord) : Bool := reserveOf v != (p.rcores, p.rmem, p.rlnk)

/-- Chiplets of a set. -/
def chipCount (chips : BitVec 32) : Nat := ((List.range 32).filter fun k => chips.getLsbD k).length

/-- Is a reservation refused (R357)? -/
def reserveBad (s : State) (p : Nat) (v : DWord) : Bool :=
  let (rc, rm, rl) := reserveOf v
  let others := (List.range 8).filter (· != p % 8)
  rc < committed s p || 4 * chipCount (s.part p).chips < rc
    || 64 < others.foldl (fun n k => n + (s.part k).rmem) rm || 64 < others.foldl (fun n k => n + (s.part k).rlnk) rl

/-- A reservation write (R357): the state, and whether it was accepted. -/
def reserve (s : State) (p : Nat) (v : DWord) : State × Bool :=
  if reserveBad s p v then (s.setPart p { s.part p with err := 3 }, false)
  else
    let (rc, rm, rl) := reserveOf v
    (s.setPart p { s.part p with rcores := rc, rmem := rm, rlnk := rl, err := 0 }, true)

/-! ### Commands (R358) -/

/-- A command ends: ERR is set and event 5 raised. -/
def endCommand (s : State) (p err : Nat) : State := raiseEvent (s.setPart p { s.part p with err := err }) 5

/-- Is a chiplet of a set in another partition, or not ready (R358, R402)? -/
def chipsTaken (s : State) (p : Nat) (chips : BitVec 32) : Bool :=
  chips &&& ~~~(s.dev.ready0.truncate 32) != 0 || (List.range 8).any fun k => k != p % 8 && (s.part k).chips &&& chips != 0

/-- start: CHIPS = TARGET, and the wait for the chiplets and their memory. -/
def startPart (s : State) (p : Nat) : State :=
  let x := s.part p
  if x.state != 0 then endCommand s p 1
  else if x.target == 0 then endCommand s p 7
  else if chipsTaken s p x.target then endCommand s p 2
  else ownLinks (s.setPart p { x with chips := x.target, phase := .starting })

/-- Every chiplet and stack is ready (R358, R402): RUNNING. -/
def finishStart (s : State) (p : Nat) : State :=
  let x := s.part p
  let ready := s.dev.ready0
  if x.phase == .starting && x.chips &&& ~~~(ready.truncate 32) == 0 && field ready 32 12 == 0xFFF then
    endCommand (s.setPart p { x with state := 1, phase := .none }) p 0
  else s

/-- stop: OFF, when no grid is accepted and not complete. An OFF partition holds no chiplet. -/
def stopPart (s : State) (p : Nat) : State :=
  let x := s.part p
  if x.state != 1 then endCommand s p 1
  else if s.grids.any fun g => g.part == p % 8 && !g.mc then endCommand s p 6
  else endCommand (ownLinks (s.setPart p { x with state := 0, chips := 0, phase := .none })) p 0

/-- A CMD of 5, 6 or 7 (R358). -/
def invalidCommand (s : State) (p : Nat) : State := endCommand s p 8

/-! ### Resizing (R359) -/

/-- Does an armed window stand in the way of a resize (R358)? -/
def windowBlocks (s : State) (p : Nat) (leaving : BitVec 32) : Bool :=
  s.ctxs.any fun c => c.wins.any fun w =>
    w.armed && ((!w.local_ && w.part == p % 8) || (w.local_ && w.slices.any fun k => leaving.getLsbD k))

/-- Does a residency hold banks on a departing core (R358)? -/
def residencyBlocks (s : State) (leaving : BitVec 32) : Bool :=
  s.resids.any fun r => r.banks.any fun b => leaving.getLsbD (b.1 / 4)

/-- Crews of a partition's grids on departing chiplets. -/
def onLeaving (s : State) (p : Nat) (leaving : BitVec 32) : List Crew :=
  s.crews.filter fun c => c.core < 128 && leaving.getLsbD (c.core / 4) && ((s.grid? c.grid).map fun g => g.part == p % 8).getD false

/-- EVACUATE: each unit with a crew on a departing core is pre-empted (R359). -/
def evacuate (s : State) (p : Nat) : State :=
  let x := s.part p
  (onLeaving s p (x.chips &&& ~~~x.aim)).foldl (fun t c =>
    if (unitWith t c.id).isSome then t else (requestUnit t c (.resize (p % 8)) true).getD t) s

/-- resize: CHECK, OPEN, and the start of EVACUATE. -/
def resizePart (s : State) (p : Nat) : State :=
  let x := s.part p
  let leaving := x.chips &&& ~~~x.target
  if x.state != 1 then endCommand s p 1
  else if x.target == 0 then endCommand s p 7
  else if chipsTaken s p (x.target &&& ~~~x.chips) then endCommand s p 2
  else if 4 * chipCount (x.chips &&& x.target) < x.rcores then endCommand s p 3
  else if windowBlocks s p leaving then endCommand s p 4
  else if residencyBlocks s leaving then endCommand s p 5
  else evacuate (ownLinks (s.setPart p { x with state := 2, chips := x.chips ||| x.target, aim := x.target, phase := .evacuate })) p

/-- RELEASE, once no crew stands on a departing chiplet: they leave CHIPS. Until then, units that found no keep slot are
requested again. -/
def releasePart (s : State) (p : Nat) : State :=
  let x := s.part p
  if x.phase != .evacuate then s
  else if (onLeaving s p (x.chips &&& ~~~x.aim)).isEmpty then ownLinks (s.setPart p { x with chips := x.aim, phase := .release })
  else evacuate s p

/-- Is an evacuated unit still to be resumed by the distributor? -/
def resuming (s : State) (p : Nat) : Bool :=
  s.units.any fun u => u.cause == .resize (p % 8)
    && (u.phase != .saved || (findResume u s none (heldTeams u.heldC)).isSome)

/-- DONE: every evacuated unit that has a core has been resumed. -/
def finishResize (s : State) (p : Nat) : State :=
  let x := s.part p
  if x.phase == .release && !resuming s p then endCommand (s.setPart p { x with state := 1, phase := .none }) p 0 else s

/-! ### Ending a context (R358) -/

/-- Pages of a window are written back for its context; those that it can no longer reach are lost. -/
def storeFor (s : State) (ctx : Nat) (w : ArrWindow) : State :=
  w.pages.foldl (fun t p =>
    match resolve t (ctx == 0) Config.mcCore ctx p.1 needRW with
    | (_, .inr _) => t
    | (u, .inl k) => if peerWay u (peerOfKey k) == .clear then (homeWrite u ctx (canon u k) (pageBytes w ((p.1 - w.backing) / 64))).1 else u) s

/-- Does a window's way group lie in a partition's slices? -/
def windowIn (s : State) (p : Nat) (w : ArrWindow) : Bool := w.armed && w.slices.any fun k => (s.part p).chips.getLsbD k

/-- A context's windows in a partition's slices are disarmed (R100). -/
def disarmFor (s : State) (p ctx : Nat) : State :=
  ((s.ctx ctx).wins.filter (windowIn s p)).foldl (fun t w =>
    setWin (storeFor t ctx w) ctx { w with armed := false, keys := [], elems := [], dflt := 0 }) s

/-- Pinned sectors of a context on a partition's cores are discarded, one record each (R370, R377). -/
def discardPinned (s : State) (p ctx : Nat) : State :=
  (s.l1.filter fun x => x.pinned && x.ctx == ctx && x.core < 128 && (s.part p).chips.getLsbD (x.core / 4)).foldl (fun t x =>
    errorRecord (l1Drop t x) 0x89 (some ctx) 5 2 x.core (physOf x.addr) (physOf x.addr) x.core) s

/-- The grids of a context in a partition. -/
def gridsOf (s : State) (p ctx : Nat) : List Grid := s.grids.filter fun g => g.part == p % 8 && g.ctx == ctx && !g.mc

/-- Everything of a context in a partition ends (R358). -/
def clearContext (s : State) (p ctx : Nat) : State :=
  let gs := gridsOf s p ctx
  let crews := s.crews.filter fun c => gs.any fun g => g.id == c.grid
  let held := s.units.filter fun u => u.part == p % 8 && u.ctx == ctx
  let t := removeSquads s (crews.map (·.id))
  let t := { t with units := t.units.filter fun u => !(held.any fun v => v.id == u.id) }
  let t := crews.foldl dropCrew (discardPinned t p ctx)
  let t := disarmFor t p ctx
  gs.foldl (fun u g => endGrid u g 0x80 none) t

/-- Must the end of a context wait for a link or a peer (R334, R390, R400): for the launch record of a grid, or a page of a window? -/
def endWaitsFor (s : State) (p ctx : Nat) : Bool :=
  (gridsOf s p ctx).any (recordWaits s)
    || ((s.ctx ctx).wins.filter (windowIn s p)).any fun w => deviceWaits s (ctx == 0) ctx w.backing w.bytes needRW

/-- end context: ENDING, with everything of the context ended. -/
def endContext (s : State) (p ctx : Nat) : State :=
  let x := s.part p
  if x.state != 1 then endCommand s p 1
  else clearContext (s.setPart p { x with state := 3, phase := .ending ctx }) p ctx

/-- The ending partition is RUNNING again. -/
def finishEnding (s : State) (p : Nat) : State :=
  let x := s.part p
  match x.phase with
  | .ending _ => endCommand (s.setPart p { x with state := 1, phase := .none }) p 0
  | _ => s

/-- A write of PARTCTL hands its command, if it has one, to the device (R358), which runs commands in their order, each in a step of its
own (DESIGN CHOICE, log 113). -/
def postCommand (s : State) (p : Nat) (v : DWord) : State :=
  if field v 4 3 = 0 then s else s.setPart p { s.part p with cmds := (s.part p).cmds ++ [v] }

/-- The command that a partition is to run next, if it is one of some. -/
def nextCommand (s : State) (p : Nat) (cmds : List Nat) : Option DWord :=
  ((s.part p).cmds.head?).filter fun v => cmds.contains (field v 4 3)

/-- The next command of a partition is taken. -/
def takeCommand (s : State) (p : Nat) : State := s.setPart p { s.part p with cmds := (s.part p).cmds.drop 1 }

/-- A write of PARTCTL (R357, R358): the reservation at once, and a command only when the reservation that comes with it is accepted. -/
def writePartctl (s : State) (p : Nat) (v : DWord) : State :=
  if reserves (s.part p) v then
    match reserve s p v with
    | (t, true) => postCommand t p v
    | (t, false) => if field v 4 3 = 0 then t else endCommand t p 3
  else postCommand s p v

/-- A write of KEEPBASE (R354): only while the partition is OFF. -/
def writeKeep (s : State) (p : Nat) (v : DWord) : State :=
  let x := s.part p
  if x.state = 0 then s.setPart p { x with keep := v &&& 0x000FFFFFFF80FFFF } else s

/-- PARTCTL (R357). -/
def readPartctl (x : Partition) : Nat :=
  x.state + x.rcores * 65536 + x.rmem * 16777216 + x.rlnk * 2147483648 + x.err * 1099511627776

/-- PARTCHIP (R357). -/
def readPartchip (x : Partition) : Nat := x.chips.toNat + x.target.toNat * 4294967296

/-- A write of PARTCHIP sets TARGET (R357). -/
def writePartchip (s : State) (p : Nat) (v : DWord) : State :=
  s.setPart p { s.part p with target := BitVec.ofNat 32 (v.toNat / 4294967296) }

end Sys2Proof.Machine
end

