-- ==== Sys2Proof/Machine/SysRegs.lean ====
section
/-! DEFINITION. The system registers (R318 to R320, R330, R331, R357, R378, R379, R391 to R394, R402, R407): what `mfsr` reads and
what `mtsr` writes, and the survey's latches and write-out. -/

namespace Sys2Proof.Machine

/-! ### Survey (R327, R407) -/

/-- A survey counter as it stands. -/
def surveyCount (s : State) (r k : Nat) : DWord := ((s.survey.find? fun c => c.1 == (r, k)).map (·.2)).getD 0

/-- The counters whose events the manual leaves to timing, or to transfers whose number and size it does not give (log 11): clocks with
an issue, array row operations, bytes and legend misses of the stacks, flits, and the ports' and the host's counters. By record and
position. -/
def openCounters : List (Nat × Nat) :=
  (List.range 128).map (fun r => (r, 1)) ++ (List.range 32).map (fun k => (128 + k, 3))
    ++ (List.range 12).flatMap (fun k => [(160 + k, 0), (160 + k, 1), (160 + k, 2)])
    ++ (List.range 88).flatMap (fun k => [(172 + k, 0), (172 + k, 1), (172 + k, 4)])
    ++ (List.range 25).flatMap fun k => [(260 + k, 0), (260 + k, 1), (260 + k, 2)]

/-- What the open counters have counted since the last latch is free; like the others they are cumulative (R407; log 11). -/
def gainOpen (s : State) : State :=
  { s.ticket with survey :=
      openCounters.map (fun c => (c, surveyCount s c.1 c.2 + Config.surveyGain c.1 c.2 s.tickets))
        ++ s.survey.filter fun c => !openCounters.contains c.1 }

/-- Value k of survey record r (R407): a gauge, or the counter. -/
def surveyValue (s : State) (r k : Nat) : DWord :=
  if r < 128 && k = 5 then BitVec.ofNat 64 (s.squads.filter fun q => q.ident.core == r).length
  else if 128 ≤ r && r < 160 && k = 5 then BitVec.ofNat 64 (s.llc.filter fun l => l.slice == r - 128 && !l.kept.isEmpty).length
  else if 172 ≤ r && r < 260 && k = 5 then BitVec.ofNat 64 (s.link (r - 172)).outa
  else surveyCount s r k

/-- The values of a snapshot, six a record. -/
def snapshot (s : State) : List DWord := (List.range 1710).map fun i => surveyValue s (i / 6) (i % 6)

/-- The bit fields of SURVEYCTL: PERIOD and AREA. -/
def surveyPeriod (s : State) : Nat := Nat.max 2 (field s.dev.surveyCtl 16 16) * 1000
/-- The first byte of the survey area; 0 is none. -/
def surveyArea (s : State) : Nat := field s.dev.surveyCtl 32 32 * 1048576

/-- Kind and index of record r (R407). -/
def surveyHead (r : Nat) : Nat :=
  if r < 128 then r * 256
  else if r < 160 then 1 + (r - 128) * 256
  else if r < 172 then 2 + (r - 160) * 256
  else if r < 260 then 3 + (r - 172) * 256
  else if r < 284 then 4 + (r - 260) * 256
  else 5

/-- Record r of the snapshot as it is written. -/
def surveyRecord (s : State) (r : Nat) : List Byte :=
  leBytes 8 (s.dev.lastT.getD 0) ++ leBytes 8 (surveyHead r) ++ ((s.dev.snap.drop (6 * r)).take 6).flatMap fun x => leBytes 8 x.toNat

/-- Records r to r + n − 1 of the snapshot are written to an area, by physical address. -/
def putRecords (s : State) (area r n : Nat) : State :=
  (deviceWrite s true 0 (area + 64 * r) ((List.range n).flatMap fun i => surveyRecord s (r + i))).1

/-- A write-out that a latch overtakes has written some of its records, and which is free; the rest will show the new snapshot
(R407). -/
def overtake (s : State) (o : Nat × Nat) : State :=
  let n := (Config.freeWord s.tickets).toNat % (286 - o.2)
  let t := putRecords s.ticket o.1 o.2 n
  { t with dev := { t.dev with outs := t.dev.outs ++ [(o.1, o.2 + n)] } }

/-- Every block latches on tick t, unless it did already; event 2 follows at once when there is no area, and a write-out to the area
begins where there is one. -/
def latch (s : State) (t : Nat) : State :=
  if s.dev.lastT == some t then s
  else
    let u := s.dev.outs.foldl overtake { s with dev := { s.dev with outs := [] } }
    let u := gainOpen u
    let u := { u with dev := { u.dev with snap := snapshot u, lastT := some t } }
    if surveyArea u = 0 then raiseEvent u 2 else { u with dev := { u.dev with outs := u.dev.outs ++ [(surveyArea u, 0)] } }

/-- The first of CMP + PERIOD, CMP + 2 PERIOD and so on after a tick: each of them that the tick has passed stands for a latch on
the tick itself (log 74). -/
def nextCompare (s : State) (t : Nat) : Nat :=
  let c := s.dev.cmp.toNat
  let p := surveyPeriod s
  if t < c + p then c + p else c + p * ((t - c) / p + 1)

/-- After a compare latch AUTO adds PERIOD to CMP, and the next latch is due at CMP, no earlier than 2000 ticks after the write that
enabled it; else none is. -/
def rearm (s : State) (t : Nat) : State :=
  let d := s.dev
  if d.surveyCtl.getLsbD 1 then
    let c := nextCompare s t % 18446744073709551616
    { s with dev := { d with cmp := BitVec.ofNat 64 c, armedAt := some (Nat.max c (d.ctlAt + 2000)) } }
  else { s with dev := { d with armedAt := none } }

/-- The tick t: one snapshot, the end of each `survey` that waits for it, and of a compare match on it. -/
def latchTick (s : State) (t : Nat) : State :=
  let u := latch s t
  let done := u.dev.surveyWait.filter fun w => w.2 == t
  let u := { u with dev := { u.dev with surveyWait := u.dev.surveyWait.filter fun w => w.2 != t } }
  let u := done.foldl (fun v w => answer v w.1 t) u
  if u.dev.armedAt == some t then rearm u t else u

/-- The earliest tick that is due. -/
def dueTick (s : State) : Option Nat :=
  ((s.dev.armedAt.toList ++ s.dev.surveyWait.map (·.2)).filter fun t => decide (t ≤ s.meridian.toNat)).foldl (fun b t =>
    match b with
    | none => some t
    | some x => some (Nat.min x t)) none

/-- Latch every tick that is due, earliest first. -/
def latchDue : Nat → State → State
  | 0, s => s
  | n + 1, s => match dueTick s with
    | none => s
    | some t => latchDue n (latchTick s t)

/-- The compare match that is due (R407). -/
def compareLatch (s : State) : State :=
  match s.dev.armedAt with
  | none => s
  | some t => if t ≤ s.meridian.toNat then latchTick s t else s

/-- The oldest write-out ends, and event 2 is raised (R407). It waits for the links that it needs (R334, R390). -/
def writeSurvey (s : State) : State :=
  match s.dev.outs with
  | [] => s
  | (area, r) :: rest =>
    if deviceWaits s true 0 (area + 64 * r) (64 * (285 - r)) needW then s
    else
    let u := putRecords { s with dev := { s.dev with outs := rest } } area r (285 - r)
    raiseEvent u 2

/-- A write of SURVEYCTL (R407). -/
def writeSurveyCtl (s : State) (v : DWord) : State :=
  let now := s.now.toNat
  let t := { s with dev := { s.dev with surveyCtl := v &&& 0xFFFFFFFFFFFF0003, ctlAt := now } }
  { t with dev := { t.dev with armedAt := if v.getLsbD 0 then some (Nat.max t.dev.cmp.toNat (now + 2000)) else none } }

/-! ### Compression windows (R330) -/

/-- First byte and bytes of a window. -/
def CompWindow.base_ (w : CompWindow) : Nat := w.base * 2097152
/-- Bytes of a window. -/
def CompWindow.bytes (w : CompWindow) : Nat := (w.len + 1) * 2097152

/-- The fields of a MCWIN value. -/
def windowOf (v : DWord) : CompWindow := ⟨v.getLsbD 0, field v 1 31, field v 32 31, false⟩

/-- Does a window overlap another enabled one, or contain a stack-capable page (R330)? -/
def windowBad (s : State) (n : Nat) (w : CompWindow) : Bool :=
  ((List.range 16).any fun k => k != n && (vget s.dev.mcwin k).en
    && w.base_ < (vget s.dev.mcwin k).base_ + (vget s.dev.mcwin k).bytes && (vget s.dev.mcwin k).base_ < w.base_ + w.bytes)
    || inStackRegion s w.base_ w.bytes

/-- Replace a window. -/
def setWindow (s : State) (n : Nat) (w : CompWindow) : State := { s with dev := { s.dev with mcwin := vset s.dev.mcwin n w } }

/-- A write of MCWIN with EN 1 (R330). -/
def enableWindow (s : State) (n : Nat) (v : DWord) : State :=
  if (vget s.dev.mcwin n).en || windowBad s n (windowOf v) then s else setWindow s n (windowOf v)

/-- A write of MCWIN with EN 0 (R330): an enabled window begins to expand, with its own BASE and LEN, those of the write being ignored
(DESIGN CHOICE, log 108); of another only the fields change. -/
def disableWindow (s : State) (n : Nat) (v : DWord) : State :=
  let w := vget s.dev.mcwin n
  if w.en then setWindow s n { w with busy := true } else setWindow s n (windowOf v)

/-- A compressed line is rewritten raw with code 0x0 (R330); what read as poisoned stays so (R376). -/
def expandLine (s : State) (line : Nat) : State :=
  let t := llcClean s line
  let rest := t.poison.filter fun x => x / 8 != line / 512
  let u := setCode { t with
    mem := memPut t.mem line (lineBytes t line)
    poison := if sectorBad t (line / 64) then setAddAll rest (maskSectors line 0xFF) else rest } line 0
  match llcFind u line with
  | none => u
  | some l => llcSet u { l with backCode := 0, backPoison := linePoison u line }

/-- Every compressed line of a window is rewritten raw, and its EN clears (R330). -/
def expandWindow (s : State) (n : Nat) : State :=
  let w := vget s.dev.mcwin n
  if !w.busy then s
  else
    let lines := (s.codes.filter fun c =>
      w.base_ ≤ c.1 * 512 && c.1 * 512 < w.base_ + w.bytes && 1 ≤ c.2 && c.2 ≤ 8).map fun c => c.1 * 512
    let t := lines.foldl expandLine s
    setWindow t n { w with en := false, busy := false }

/-- MCWIN (R330). -/
def readWindow (w : CompWindow) : Nat := b2n w.en + w.base * 2 + w.len * 4294967296 + b2n w.busy * 9223372036854775808

/-- A write of MCWIN. -/
def writeWindow (s : State) (n : Nat) (v : DWord) : State := if v.getLsbD 0 then enableWindow s n v else disableWindow s n v

/-! ### Ways (R331) -/

/-- The record of a way. -/
def wayOf (s : State) (slice way : Nat) : WayState :=
  (s.ways.find? fun w => w.slice == slice && w.way == way).getD ⟨slice, way, false, 0⟩

/-- Replace the record of a way. -/
def setWay (s : State) (w : WayState) : State := { s with ways := w :: s.ways.filter fun v => !(v.slice == w.slice && v.way == w.way) }

/-- SLICE and WAY of WAYSEL. -/
def selWay (q : Squad) : Nat × Nat := (q.sys.waysel.toNat % 32, field q.sys.waysel 8 4)

/-- WAYCTL (R331). -/
def readWayctl (s : State) : Nat :=
  let (k, w) := selWay s.sq
  let x := wayOf s k w
  b2n x.quar + b2n (inArray s k (w / 4)) * 2 + w / 4 * 4 + x.uecnt * 65536

/-! ### The handler's and the context's registers (R319, R320) -/

/-- SYSSTAT (R319): EVPEND reads 0 in system crews. -/
def readSysstat (s : State) : Nat :=
  let q := s.sq
  let mc := q.ident.core == Config.mcCore
  b2n (q.thr.sysMark != 0) + b2n mc * 2 + (if mc then s.dev.evpend.toNat else 0) * 65536 + q.sys.evena.toNat * 16777216

/-- A write of SYSSTAT (R319): EVPEND bits written 1 clear, and squad 0 of the management core sets EVENA. -/
def writeSysstat (s : State) (v : DWord) : State :=
  let t := if s.sq.ident.core == Config.mcCore then
      { s with dev := { s.dev with evpend := s.dev.evpend &&& ~~~(BitVec.ofNat 7 (field v 16 7)) } }
    else s
  if s.sq.isMc0 then t.onSq fun q => { q with sys := { q.sys with evena := BitVec.ofNat 7 (field v 24 7) } } else t

/-- A write of NBVSET (R320). -/
def writeNbv (s : State) (c : Nat) (v : DWord) : State :=
  let k := v.toNat % 4
  if k = 1 || k = 2 then s.setCtx c { s.ctx c with nbvset := BitVec.ofNat 64 k } else s

/-- A write of ERRPOP (R378). -/
def writeErrpop (s : State) (v : DWord) : State :=
  let d := s.dev
  let en := v.getLsbD 32
  { s with dev := { d with errEn := en, errRd := if en && !d.errEn then d.errWr else v.truncate 32,
                           errBase := if d.errEn then d.errBase else BitVec.ofNat 31 (field v 33 31) } }

/-- A write of ERRCNT (R379): LOST and CE. -/
def writeErrcnt (s : State) (v : DWord) : State :=
  { s with dev := { s.dev with errLost := field v 32 16, errCe := field v 48 16 } }

/-- A write of READY1 (R402). Where it clears an enabling bit, the retention that the bit allows ends next (R408). -/
def writeReady1 (s : State) (v : DWord) : State :=
  let m : DWord := 0x0000FF0300000000
  { s with dev := { s.dev with ready1 := (s.dev.ready1 &&& ~~~m) ||| (v &&& m) } }

/-! ### `mfsr` and `mtsr` (R318, R324) -/

/-- The registers that a squad holds itself (R318). -/
def squadHeld (n : Nat) : Bool := n ≤ 0x06 || n == 0x18 || n == 0x20 || n == 0x28 || n == 0x40

/-- The context that CTXID selects. -/
def selCtx (q : Squad) : Nat := q.sys.ctxid.toNat % 64

/-- The partition that PARTSEL selects. -/
def selPart (q : Squad) : Nat := q.sys.partsel.toNat % 8

/-- A register of the link that LNKSEL names; 0 where there is none (R391). -/
def readLink (s : State) (f : Link → Nat → Nat) : Nat :=
  match selLink s.sq with
  | none => 0
  | some n => f (s.link n) n

/-- A register whose value is a number. -/
def sysNumber (s : State) (n : Nat) : Nat :=
  let q := s.sq
  match n with
  | 0x00 => readSysstat s
  | 0x10 => s.dev.errWr.toNat + s.dev.errLost * 4294967296 + s.dev.errCe * 281474976710656
  | 0x11 => s.dev.errRd.toNat + b2n s.dev.errEn * 4294967296 + s.dev.errBase.toNat * 8589934592
  | 0x19 => readLink s linkStat
  | 0x1A => readLink s fun l _ => linkRetry l
  | 0x1B => readLink s fun l _ => linkLanes (vget l.groups (selGroup q))
  | 0x1C => readLink s fun l _ => linkWidth l (selGroup q)
  | 0x21 => Config.sparePages - s.dev.retired.length + s.dev.retired.length * 65536
  | 0x22 => readWindow (vget s.dev.mcwin (q.sys.mcsel.toNat % 16))
  | 0x29 => readWayctl s
  | 0x41 => readPartchip (s.part (selPart q))
  | 0x42 => readPartctl (s.part (selPart q))
  | _ => 0

/-- A system register's value (R318). -/
def sysRead (s : State) (n : Nat) : DWord :=
  let q := s.sq
  match n with
  | 0x01 => q.sys.sysvec
  | 0x02 => q.sys.cause
  | 0x03 => q.sys.info0
  | 0x04 => q.sys.info1
  | 0x05 => q.sys.syspc
  | 0x06 => q.sys.ctxid
  | 0x07 => (s.ctx (selCtx q)).ptbase
  | 0x08 => (s.ctx (selCtx q)).nbvset
  | 0x18 => q.sys.lnksel
  | 0x20 => q.sys.mcsel
  | 0x28 => q.sys.waysel
  | 0x30 => s.dev.ready0
  | 0x31 => s.dev.ready1
  | 0x38 => s.dev.cmp
  | 0x39 => s.dev.surveyCtl
  | 0x40 => q.sys.partsel
  | 0x43 => (s.part (selPart q)).keep
  | _ => BitVec.ofNat 64 (sysNumber s n)

/-- Change the squad's system registers. -/
def State.onSys (s : State) (f : SysRegs → SysRegs) : State := s.onSq fun q => { q with sys := f q.sys }

/-- A write of a system register (R318, R324): only its RW and W1C fields change. -/
def sysWrite (s : State) (n : Nat) (v : DWord) : State :=
  let q := s.sq
  match n with
  | 0x00 => writeSysstat s v
  | 0x01 => s.onSys fun r => { r with sysvec := v &&& ~~~1 }
  | 0x05 => s.onSys fun r => { r with syspc := v }
  | 0x06 => s.onSys fun r => { r with ctxid := v &&& 0x3F }
  | 0x07 => s.setCtx (selCtx q) { s.ctx (selCtx q) with ptbase := v &&& 0x000FFFFFFFFF0001 }
  | 0x08 => writeNbv s (selCtx q) v
  | 0x10 => writeErrcnt s v
  | 0x11 => writeErrpop s v
  | 0x18 => s.onSys fun r => { r with lnksel := v &&& 0x1F7F }
  | 0x1A => writeThresh s v
  | 0x1B => writeLanes s v
  | 0x20 => s.onSys fun r => { r with mcsel := v &&& 0xF }
  | 0x22 => writeWindow s (q.sys.mcsel.toNat % 16) v
  | 0x28 => s.onSys fun r => { r with waysel := v &&& 0xF1F }
  | 0x31 => writeReady1 s v
  | 0x38 => { s with dev := { s.dev with cmp := v } }
  | 0x39 => writeSurveyCtl s v
  | 0x40 => s.onSys fun r => { r with partsel := v &&& 7 }
  | 0x41 => writePartchip s (selPart q) v
  | 0x42 => writePartctl s (selPart q) v
  | 0x43 => writeKeep s (selPart q) v
  | _ => s

end Sys2Proof.Machine
end

