-- ==== Sys2Proof/Machine/System.lean ====
section
/-! DEFINITION. The system instructions (R322 to R334). -/

namespace Sys2Proof.Machine

/-! ### The steps of a system instruction (R323) -/

/-- Step 1 of R323: as `fence.sc.sy` with the async bit (R130, R233); then the effect. -/
def afterFence (s : State) (k : State → Eff) : Eff :=
  if !s.sq.ops.isEmpty || releaseWaits s s.sq.ident.core 5 then .hold
  else match firstError s.sq fun _ => true with
    | some (c, e) => .consume c e.raise
    | none => withDeferred s fun t => k (acquireAction (releaseAction t t.sq.ident.core 5) t.sq.ident.core 5)

/-- The instruction has begun an effect that is not complete: the squad stays at it. -/
def stay (s : State) : Eff := .halted ((holdGroup s).setPc s.sq.cur.active fun _ => s.sq.cur.first)

/-- The result of the squad's instruction, once its effect is complete. -/
def myAnswer (s : State) : Option DWord := (s.dev.answers.find? fun w => w.1 == s.sq.ident.id).map (·.2)

/-- The result has been taken. -/
def clearAnswer (s : State) : State :=
  { s with dev := { s.dev with answers := s.dev.answers.filter fun w => w.1 != s.sq.ident.id } }

/-- An instruction whose effect takes time: its result when it is complete, the wait while it runs, and its beginning. -/
def longEffect (s : State) (d : Nat) (running : Bool) (begin_ : State → Eff) : Eff :=
  match myAnswer s with
  | some x => .done ((clearAnswer s).setX d x)
  | none => if running then .hold else afterFence s begin_

/-- Write a number to s[d]. -/
def giveX (s : State) (d n : Nat) : Eff := .done (s.setX d (BitVec.ofNat 64 n))

/-- A physical address of a system instruction (R315). -/
def physical (s : State) (a : Nat) (k : Eff) : Eff :=
  failIf (paSpace ≤ a) { cause := 0x45, detail := 4, lanes := s.sq.cur.active, addr := a, aux := 1 } k

/-- An aligned address of a system instruction. -/
def alignedAt (s : State) (a n : Nat) (k : Eff) : Eff :=
  failIf (a % n != 0) { cause := 0x43, lanes := s.sq.cur.active, addr := a, aux := 1 } k

/-- Operand values that raise 0x41. -/
def illegalIf (s : State) (bad : Bool) (k : Eff) : Eff := failIf bad (groupFault s 0x41) k

/-! ### Registers and the handler (R322, R324) -/

def execMfsr (d : BitVec 7) (n : BitVec 7) (s : State) : Res := issue .system (usesMfsr d n) s fun t =>
  if squadHeld n.toNat then .done (t.setX d.toNat (sysRead t n.toNat))
  else afterFence t fun u => .done (u.setX d.toNat (sysRead u n.toNat))

def execMtsr (n : BitVec 7) (a : BitVec 7) (s : State) : Res := issue .system (usesMtsr n a) s fun t =>
  if squadHeld n.toNat then .done (sysWrite t n.toNat (t.x a.toNat))
  else afterFence t fun u => .done (sysWrite u n.toNat (u.x a.toNat))

def execSret (s : State) : Res := issue .system .none s returnSystem

/-! ### `tlbinv` (R325) -/

/-- Has a user squad an access outstanding whose translation a selector may remove? -/
def translating (s : State) (sel : TlbSel) : Bool :=
  s.squads.any fun q => !q.ident.priv && q.ops.any fun o => !o.done && o.accesses.any fun a =>
    (match o.act with
      | .load .global _ _ _ _ => true
      | .store .global _ => true
      | .atomic .global _ _ _ _ => true
      | _ => false) && sel.mayUse q.ident.ctx a.va

/-- A squad's requests that wait on a covered page may walk again (R369). -/
def wakeReplays (sel : TlbSel) (q : Squad) : Squad :=
  { q with
    replay := q.replay.map fun r => { r with pages := r.pages.map fun p => if sel.covers r.ctx p.va 1 then { p with seen := true } else p }
    ops := q.ops.map fun o => { o with page := o.page.map fun p => (p.1, p.2 || sel.covers q.ident.ctx p.1 1) } }

/-- Translations of a selector are removed, and no walk that began before is outstanding any more (R325); dirty sectors of covered
pages are to be checked at their write-back (R370), and waiting requests may walk again (R369). -/
def removeTranslations (s : State) (sel : TlbSel) : State :=
  let t := s.mapSquads (wakeReplays sel)
  { t with
    tlb1 := s.tlb1.filter fun e => !sel.covers e.ctx e.va e.size
    tlb := s.tlb.filter fun e => !sel.covers e.ctx e.va e.size
    walks := []
    l1 := s.l1.map fun x => if x.dirty != 0 && sel.covers x.ctx x.va 64 then { x with stale := true } else x
    units := s.units.map fun u => { u with heldS := u.heldS.map (wakeReplays sel) } }

/-- `tlbinv` (R325): it waits for the accesses that use what it removes. -/
def invalidate (s : State) (sel : TlbSel) : Eff :=
  afterFence s fun t => if translating t sel then .hold else .done (removeTranslations t sel)

def execTlbinvAll (a : BitVec 7) (s : State) : Res := issue .system (usesTlbinvAll a) s fun t =>
  illegalIf t (t.x a.toNat != 0) <| invalidate t .all

def execTlbinvCtx (a : BitVec 7) (s : State) : Res := issue .system (usesTlbinvCtx a) s fun t =>
  illegalIf t ((t.x a.toNat).toNat / 64 != 0) <| invalidate t (.ctx (t.x a.toNat).toNat)

def execTlbinvPage (a : BitVec 7) (s : State) : Res := issue .system (usesTlbinvPage a) s fun t =>
  let x := (t.x a.toNat).toNat
  illegalIf t (x / 64 % 1024 != 0 || 36028797018963968 ≤ x) <| invalidate t (.page (x % 64) (x / 65536 * 65536))

/-! ### `cchop` (R326) -/

/-- Does a line or sector lie in a range? -/
def inRange (a n x : Nat) : Bool := a ≤ x && x < a + n

/-- The poisoned lines of a range that the caches hold: those with a poisoned sector, and those whose code reads as poisoned (R103). -/
def poisonedLines (s : State) (a n : Nat) : Nat :=
  let c := (s.llc.filter fun l => inRange a n l.addr && (linePoison s l.addr != 0 || decide (9 ≤ codeOf s l.addr))).map (·.addr)
  let l := (s.l1.filter fun x => inRange a n x.addr && x.poison).map fun x => x.addr / 512 * 512
  (setAddAll [] (c ++ l)).length

/-- Lines of a range lose their keep mark (R254). -/
def unkeepRange (s : State) (a n : Nat) : State :=
  { s with llc := s.llc.map fun l => if inRange a n l.addr then { l with kept := [] } else l }

/-- Dirty sectors of a range are written to memory. -/
def cleanRange (s : State) (a n : Nat) : State :=
  let t := (s.l1.filter fun x => inRange a n x.addr).foldl writeBack s
  (t.llc.filter fun l => inRange a n l.addr).foldl (fun u l => llcClean u l.addr) t

/-- Lines of a range are invalidated once they are clean; a sector that could not be written back stays (R370). -/
def purgeClean (s : State) (a n : Nat) : State :=
  let t := { s with l1 := s.l1.filter fun x => !(inRange a n x.addr) || x.dirty != 0 }
  (t.llc.filter fun l => inRange a n l.addr).foldl (fun u l => llcEvict u l.addr) t

/-- Lines of a range are invalidated with their dirty data (R326, R370). -/
def discardRange (s : State) (a n : Nat) : State :=
  let t := { s with l1 := s.l1.filter fun x => !inRange a n x.addr }
  (t.llc.filter fun l => inRange a n l.addr).foldl (fun u l => llcDiscard u l.addr) t

/-- Must a write-back of a range wait for a link (R334, R390)? -/
def cleanWaits (s : State) (a n : Nat) : Bool :=
  anyClosed s && ((s.l1.any fun x => inRange a n x.addr && wbWaits s x)
    || s.llc.any fun l => inRange a n l.addr && l.dirty != 0 && !memoryOpen s l.addr)

/-- `cchop` (R326): the checks, the operation and the count of poisoned lines. wb: does it write back? -/
def chop (s : State) (d a : Nat) (wb : Bool) (f : State → Nat → Nat → State) : Eff :=
  let x := (s.x a).toNat
  let n := (s.x (a + 1)).toNat
  illegalIf s (1099511627776 ≤ n) <| alignedAt s x 512 <| alignedAt s n 512 <| physical s x <| physical s (x + (n - 1)) <|
    afterFence s fun t => if wb && cleanWaits t x n then .hold else giveX (f (unkeepRange t x n) x n) d (poisonedLines t x n)

def execCchopWb (d : BitVec 7) (a : BitVec 7) (s : State) : Res := issue .system (usesCchopWb d a) s fun t =>
  chop t d.toNat a.toNat true cleanRange

def execCchopWbinv (d : BitVec 7) (a : BitVec 7) (s : State) : Res := issue .system (usesCchopWbinv d a) s fun t =>
  chop t d.toNat a.toNat true fun u x n => purgeClean (cleanRange u x n) x n

def execCchopInv (d : BitVec 7) (a : BitVec 7) (s : State) : Res := issue .system (usesCchopInv d a) s fun t =>
  chop t d.toNat a.toNat false discardRange

def execCchopUnkeep (d : BitVec 7) (a : BitVec 7) (s : State) : Res := issue .system (usesCchopUnkeep d a) s fun t =>
  chop t d.toNat a.toNat false fun u _ _ => u

/-! ### `survey` and `halt` (R327, R328) -/

def execSurvey (d : BitVec 7) (a : BitVec 7) (s : State) : Res := issue .system (usesSurvey d a) s fun t =>
  longEffect t d.toNat (t.dev.surveyWait.any fun w => w.1 == t.sq.ident.id) fun u =>
    let tick := Nat.max (u.x a.toNat).toNat (u.now.toNat + 2000)
    stay { u with dev := { u.dev with surveyWait := u.dev.surveyWait ++ [(u.sq.ident.id, tick)] } }

def execHalt (a : BitVec 7) (s : State) : Res := issue .system (usesHalt a) s fun t =>
  let x := (t.x a.toNat).toNat
  illegalIf t (x % 65536 != 0 || 8388608 ≤ x || x = 0 || t.sq.ident.core != Config.mcCore) <|
    afterFence t fun u => halted u a.toNat

/-! ### `cxsave` and `cxrest` (R329) -/

/-- Is a save or restore of the squad under way? -/
def moving (s : State) : Bool :=
  s.units.any fun u => match u.cause with
    | .cxsave sq _ _ => sq == s.sq.ident.id || u.joined.contains s.sq.ident.id
    | .cxrest sq _ => sq == s.sq.ident.id
    | _ => false

/-- A status at once, or the wait for the effect. -/
def statusOrStay (d : Nat) (r : State × Option Nat) : Eff :=
  match r.2 with
  | some c => giveX r.1 d c
  | none => stay r.1

def execCxsave (d : BitVec 7) (a : BitVec 7) (s : State) : Res := issue .system (usesCxsave d a) s fun t =>
  let keep := (t.x (a.toNat + 1)).toNat
  alignedAt t keep 4096 <| physical t keep <| longEffect t d.toNat (moving t) fun u =>
    statusOrStay d.toNat (startSave u u.sq.ident.id (u.x a.toNat) keep d.toNat)

def execCxrest (d : BitVec 7) (a : BitVec 7) (s : State) : Res := issue .system (usesCxrest d a) s fun t =>
  let x := (t.x a.toNat).toNat
  physical t x <| longEffect t d.toNat (moving t) fun u =>
    if deviceWaits u true 0 x 72 needR then .hold else statusOrStay d.toNat (startRest u u.sq.ident.id x (u.x (a.toNat + 1)) d.toNat)

/-! ### `lnkctl` (R334) -/

/-- The link that LNKSEL names; where there is none, `lnkctl` raises 0x41 (R391). -/
def withLink (s : State) (k : Nat → Eff) : Eff :=
  match selLink s.sq with
  | none => .fault (groupFault s 0x41)
  | some n => k n

/-- A `lnkctl` whose s[A] must be 0. -/
def linkPlain (s : State) (a : Nat) (k : State → Nat → Eff) : Eff :=
  withLink s fun n => illegalIf s (s.x a != 0) <| afterFence s fun t => k t n

def execLnkctlPause (d : BitVec 7) (a : BitVec 7) (s : State) : Res := issue .system (usesLnkctlPause d a) s fun t =>
  linkPlain t a.toNat fun u n => giveX (u.setLink n { u.link n with paused := true }) d.toNat 0

def execLnkctlResume (d : BitVec 7) (a : BitVec 7) (s : State) : Res := issue .system (usesLnkctlResume d a) s fun t =>
  linkPlain t a.toNat fun u n => giveX (u.setLink n { (u.link n).ready (u.link n).paused u.now.toNat with paused := false }) d.toNat (b2n !(u.link n).paused)

def execLnkctlSpare (d : BitVec 7) (a : BitVec 7) (s : State) : Res := issue .system (usesLnkctlSpare d a) s fun t =>
  let x := t.x a.toNat
  withLink t fun n => illegalIf t (x.toNat / 512 != 0) <| afterFence t fun u =>
    let r := spareLane u n (field x 0 5) (field x 5 4)
    giveX r.1 d.toNat r.2

def execLnkctlWidth (d : BitVec 7) (a : BitVec 7) (s : State) : Res := issue .system (usesLnkctlWidth d a) s fun t =>
  let x := t.x a.toNat
  let g := field x 0 5
  withLink t fun n => illegalIf t (field x 5 3 != 0 || x.toNat / 1024 != 0 || field x 8 2 = 3) <| afterFence t fun u =>
    match (vget (u.link n).groups g).train with
    | some q =>
      if q == u.sq.ident.id then
        let r := trainGroup u n g (field x 8 2)
        giveX r.1 d.toNat r.2
      else .hold
    | none =>
      if !(u.link n).paused then giveX u d.toNat 1
      else stay (setGroup u n g fun k => { k with train := some u.sq.ident.id })

def execLnkctlClrretry (d : BitVec 7) (a : BitVec 7) (s : State) : Res := issue .system (usesLnkctlClrretry d a) s fun t =>
  linkPlain t a.toNat fun u n => giveX (clearRetry u n) d.toNat 0

/-! ### `errrd` (R332) -/

/-- The word of a line (R332). -/
def lineWord (s : State) (a : Nat) : Nat :=
  sliceOf a * 16384 + codeOf s a * 524288 + match llcFind s a with
    | none => 0
    | some l => l.owner % 64 + 64 + b2n (l.dirty != 0) * 128 + b2n (linePoison s a != 0) * 256 + b2n (!l.kept.isEmpty) * 512 + l.way * 1024

def execErrrd (d : BitVec 7) (a : BitVec 7) (s : State) : Res := issue .system (usesErrrd d a) s fun t =>
  let x := (t.x a.toNat).toNat
  alignedAt t x 512 <| physical t x <| afterFence t fun u => giveX u d.toNat (lineWord u x)

/-! ### `retain` (R333) -/

/-- A residency by context and id. -/
def resid? (s : State) (ctx id : Nat) : Option Residency := s.resids.find? fun r => r.ctx == ctx && r.id == id

/-- Create a residency from its descriptor: the status. -/
def createResid (s : State) (bs : List Byte) : State × Nat :=
  let id := fieldOf bs 0 2
  let ctx := fieldOf bs 2 1
  let n := fieldOf bs 3 1
  let mask : BitVec 128 := BitVec.ofNat 128 (fieldOf bs 8 16)
  let cores := (List.range 128).filter fun c => mask.getLsbD c
  if id = 0 || ctx = 0 || 64 ≤ ctx || n = 0 || 32 < n || fieldOf bs 4 4 != 0 || fieldOf bs 0x18 8 != 0 || mask == 0 then (s, 3)
  else if (resid? s ctx id).isSome then (s, 1)
  else if cores.any fun c => (freeBanks s c).length < n then (s, 2)
  else if 256 ≤ s.resids.length then (s, 4)
  else
    let banks := cores.map fun c => (c, (freeBanks s c).take n)
    let t := (banks.flatMap (·.2)).foldl (fun u b => freshBank (leaveRetention u b) b) s
    (noteIdle { t with resids := t.resids ++ [⟨ctx, id, n, mask, banks⟩] } (banks.flatMap (·.2)), 0)

/-- Destroy a residency: the status. -/
def destroyResid (s : State) (ctx id : Nat) : State × Nat :=
  match resid? s ctx id with
  | none => (s, 1)
  | some r =>
    if s.grids.any fun g => g.ctx == ctx && g.r.resid == id then (s, 2)
    else
      let t := (r.banks.flatMap (·.2)).foldl (fun u b => freshBank (leaveRetention u b) b) s
      (noteIdle { t with resids := t.resids.filter fun x => !(x.ctx == ctx && x.id == id) } (r.banks.flatMap (·.2)), 0)

def execRetainCreate (d : BitVec 7) (a : BitVec 7) (s : State) : Res := issue .system (usesRetainCreate d a) s fun t =>
  let x := (t.x a.toNat).toNat
  alignedAt t x 32 <| physical t x <| afterFence t fun u =>
    if !linksOpen u u.sq.ident.core x none then .hold
    else
    let r := homeRead u u.sq.ident.ctx x 32
    if r.2.2 then .faultIn { cause := 0x4A, detail := 2, lanes := u.sq.cur.active, addr := x, aux := 1 } r.1
    else
      let c := createResid r.1 r.2.1
      giveX c.1 d.toNat c.2

/-- The context and id of s[A]; other bits set raise 0x41. -/
def withResid (s : State) (a : Nat) (k : State → Nat → Nat → Eff) : Eff :=
  let x := s.x a
  illegalIf s (field x 6 10 != 0 || 4294967296 ≤ x.toNat) <| afterFence s fun t => k t (field x 0 6) (field x 16 16)

def execRetainDestroy (d : BitVec 7) (a : BitVec 7) (s : State) : Res := issue .system (usesRetainDestroy d a) s fun t =>
  withResid t a.toNat fun u ctx id =>
    let r := destroyResid u ctx id
    giveX r.1 d.toNat r.2

def execRetainQuery (d : BitVec 7) (a : BitVec 7) (s : State) : Res := issue .system (usesRetainQuery d a) s fun t =>
  withResid t a.toNat fun u ctx id => giveX u d.toNat (match resid? u ctx id with
    | none => 1
    | some r => r.n * 256)

/-! ### `mcctl` (R330) -/

/-- Retire a page (R330): the status. Its addresses keep their contents and poison. -/
def retirePage (s : State) (page : Nat) : State × Nat :=
  let d := s.dev
  if d.retired.any fun p => p.1 == page then (s, 2)
  else if Config.sparePages ≤ d.retired.length then (s, 1)
  else ({ s with dev := { d with retired := d.retired ++ [(page, d.retired.length)] } }, 0)

def execMcctlMetard (d : BitVec 7) (a : BitVec 7) (s : State) : Res := issue .system (usesMcctlMetard d a) s fun t =>
  let x := (t.x a.toNat).toNat
  alignedAt t x 512 <| physical t x <| afterFence t fun u => giveX u d.toNat (codeOf u x + b2n (inWindow u x) * 16)

def execMcctlMetawr (d : BitVec 7) (a : BitVec 7) (s : State) : Res := issue .system (usesMcctlMetawr d a) s fun t =>
  let x := (t.x a.toNat).toNat
  let line := x / 16 * 16
  illegalIf t (!(x % 16 == 0 || x % 16 == 15)) <| alignedAt t line 512 <| physical t x <| afterFence t fun u =>
    if inWindow u line then giveX (setMeta u line (x % 16)) d.toNat 0 else giveX u d.toNat 1

def execMcctlRetire (d : BitVec 7) (a : BitVec 7) (s : State) : Res := issue .system (usesMcctlRetire d a) s fun t =>
  let x := (t.x a.toNat).toNat
  alignedAt t x 65536 <| physical t x <| afterFence t fun u =>
    let r := retirePage u x
    giveX r.1 d.toNat r.2

/-! ### `wayctl` (R331) -/

/-- The lines of a way. -/
def linesIn (s : State) (slice way : Nat) : List LlcLine := s.llc.filter fun l => l.slice == slice && l.way == way

/-- Ways of a slice in cache mode that are not quarantined. -/
def waysLeft (s : State) (slice : Nat) : Nat := (usableWays s slice).length

/-- Quarantine a way: the status. -/
def quarantine (s : State) (k w : Nat) : State × Nat :=
  if inArray s k (w / 4) then (s, 2)
  else if !quarantined s k w && waysLeft s k < 5 then (s, 3)
  else
    let t := (linesIn s k w).foldl (fun u l => llcEvict u l.addr) s
    (setWay t { wayOf t k w with quar := true }, 0)

/-- Release a way from quarantine: the status. Retention of its group ends first (R408). -/
def releaseWay (s : State) (k w : Nat) : State × Nat :=
  if quarantined s k w then
    (setWay { s with wayRet := s.wayRet.filter (· != (k, w / 4)) } { wayOf s k w with quar := false }, 0)
  else (s, 1)

/-- Discard a way's lines: the status. -/
def discardWay (s : State) (k w : Nat) : State × Nat :=
  if inArray s k (w / 4) then (s, 2) else ((linesIn s k w).foldl (fun u l => llcDiscard u l.addr) s, 0)

/-- A `wayctl` on the selected way. -/
def onWay (s : State) (d : Nat) (f : State → Nat → Nat → State × Nat) : Eff :=
  afterFence s fun t =>
    let r := f t (selWay t.sq).1 (selWay t.sq).2
    giveX r.1 d r.2

def execWayctlQuar (d : BitVec 7) (s : State) : Res := issue .system (usesWayctlQuar d) s fun t => onWay t d.toNat quarantine

def execWayctlRelease (d : BitVec 7) (s : State) : Res := issue .system (usesWayctlRelease d) s fun t => onWay t d.toNat releaseWay

def execWayctlDiscard (d : BitVec 7) (s : State) : Res := issue .system (usesWayctlDiscard d) s fun t => onWay t d.toNat discardWay

end Sys2Proof.Machine
end

