-- ==== Sys2Proof/Machine/Events.lean ====
section
/-! DEFINITION. The device's own steps (spec/95): those of squads and operations, of scheduling, of pre-emption and partitions, of
links, the host and peers, and of system software's register writes. A step that is not enabled changes nothing but, perhaps, which squad is checked
out. -/

namespace Sys2Proof.Machine

/-- A step under a condition. -/
def whenever (b : Bool) (s t : State) : Res := .next (if b then t else s)

/-- A squad is checked out for a step. -/
def onSquad (s : State) (sq : Nat) (k : State → State) : Res :=
  match s.checkout sq with
  | none => .next s
  | some t => .next (k t)

/-! ### Squads (R41, R42, R46, R321) -/

/-- The lowest event that is pending and enabled. -/
def lowestEvent (s : State) : Nat :=
  ((List.range 7).find? fun k => (s.dev.evpend &&& s.sq.sys.evena).getLsbD k).getD 0

/-- The threads that an event takes into the handler (R321): the running group, or the blocked threads at the lowest pc. -/
def eventGroup (t : Threads) : Option (Mask × DWord) :=
  match t.select with
  | some (g, pc, _) => some (g, pc)
  | none => (t.lowest (t.live &&& t.blocked)).map fun pc => (t.standAt (t.live &&& t.blocked) pc, pc)

/-- The event is delivered to squad 0 of the management core, which is checked out. -/
def deliverEvent (s : State) : State :=
  if eventDue s s.sq then
    match eventGroup s.sq.thr with
    | none => s
    | some (g, pc) => enterSystem s g pc (0x80 + lowestEvent s) 0 g.toNat
  else s

def execSystemEventDelivery (s : State) : Res :=
  match s.squads.find? fun q => q.isMc0 with
  | none => .next s
  | some q => onSquad s q.ident.id deliverEvent

/-- Quantum expiry (R41): the group that ran is set aside. -/
def expire (s : State) : State :=
  if Config.quantum ≤ s.sq.thr.quantum then s.onSq fun q => { q with thr := q.thr.setAside q.thr.ran } else s

def execQuantumExpiry (sq : Nat) (s : State) : Res := onSquad s sq expire

/-- A group of blocked threads is no longer blocked. -/
def dropWait (s : State) (k : Nat) : State :=
  s.onSq fun q => { q with thr := { q.thr with waits := q.thr.waits.filter fun w => w.stamp != k } }

/-- The squad as its blocked instruction finds it: the blocked threads are the group. -/
def blockedState (s : State) (w : Wait) : State :=
  let pc := (s.sq.thr.lowest w.mask).getD 0
  s.onSq fun q => { q with cur := ⟨pc, pc, pc + BitVec.ofNat 64 w.len, w.mask, w.mask, none, none, none⟩ }

/-- What trying a blocked instruction again does (R42): s is the squad as the instruction finds it. -/
def settleBlocked (s : State) (k : Nat) : Eff → Option State
  | .done u => some (dropWait u k)
  | .switch u => some (dropWait u k)
  | .after f u => some (takeFault (dropWait u k) f)
  | .fault f => some (takeFault (dropWait s k) f)
  | .consume c f => some (takeFault ((dropWait s k).onSq fun q => { q with errs := q.errs.filter fun e => e.1 != c }) f)
  | .faultIn f u => some (takeFault (dropWait (faultPoint s f u) k) f)
  | .halted u => some (dropWait u k)
  | .stall => none
  | .hold => none
  | .block _ _ => none

/-- The scalar registers that a blocked instruction reads when it is tried again. -/
def Blocked.reads : Blocked → List Nat
  | .wait _ => []
  | .bar _ _ _ => []
  | .qpush _ d => [d]
  | .qpop _ _ => []
  | .qpushSpan a d => [a, d]
  | .qpopSpan a _ => [a]
  | .semWait a d _ => [a, d]
  | .halt a => [a]

/-- The scalar registers that it writes. -/
def Blocked.writes : Blocked → List Nat
  | .wait _ => []
  | .bar _ _ _ => []
  | .qpush _ _ => []
  | .qpop _ d => [d]
  | .qpushSpan _ _ => []
  | .qpopSpan _ d => [d, d + 1]
  | .semWait _ _ b => [b]
  | .halt _ => []

/-- A blocked instruction as it is tried again: it waits for the registers of operations that the squad has issued since (R169, R249), and
a register that has been marked since is a fault (R225). -/
def tryAgain (s : State) (w : Wait) : Eff :=
  let u := Uses.mk [] [] w.what.reads w.what.writes true
  if interlocked s.sq u then .stall
  else match checkPoison s u with
    | some f => .fault f
    | none => tryBlocked s w.stamp w.what

/-- May the threads of a wait go on: all of them, or those that hold a mark while a handler runs (R284, R321)? -/
def Threads.mayGoOn (t : Threads) (m : Mask) : Bool :=
  let held := if t.sysMark != 0 then t.sysMark else if t.handlerMark != 0 then t.handlerMark else allLanes
  m &&& ~~~held == 0

/-- A blocked instruction completes when its condition holds (R42). -/
def unblock (s t : State) (k : Nat) : State :=
  match t.sq.thr.waits.find? fun w => w.stamp == k with
  | none => s
  | some w =>
    if t.sq.status != .ready || t.sq.replay.isSome || inSystemWait t t.sq || !t.sq.thr.mayGoOn w.mask then s
    else
      let u := blockedState t w
      let v := u.setPc w.mask fun _ => u.sq.cur.next
      (settleBlocked u k (tryAgain v w)).getD s

def execBlockedInstructionComplete (sq k : Nat) (s : State) : Res := onSquad s sq fun t => unblock s t k

def execSquadRetire (sq : Nat) (s : State) : Res := onSquad s sq fun t =>
  if inUnit t t.sq || endWaits t then s else endSquad t

/-! ### Operations (R87 to R89, R224, R232, R249, R369, R400) -/

/-- An operation of the squad that is checked out completes, if it may; and what can retire then retires. -/
def completeOp (s : State) (o : Op) : State :=
  match o.act with
  | .load sp w d sc acc => if mayComplete s o then retireOps (completeLoad s o sp w d sc acc) else s
  | .store sp acc => if mayComplete s o then retireOps (completeStore s o sp acc) else s
  | .atomic sp op d sc acc => if mayComplete s o then retireOps (completeAtomic s o sp op d sc acc) else s
  | .engine _ _ _ _ _ _ _ => completeEngine s o

def execLoadComplete (sq k : Nat) (s : State) : Res := .next (onOp s sq k fun t o => match o.act with
  | .load _ _ _ _ _ => completeOp t o
  | _ => s)

def execStoreComplete (sq k : Nat) (s : State) : Res := .next (onOp s sq k fun t o => match o.act with
  | .store _ _ => completeOp t o
  | _ => s)

def execAtomicComplete (sq k : Nat) (s : State) : Res := .next (onOp s sq k fun t o => match o.act with
  | .atomic _ _ _ _ _ => completeOp t o
  | _ => s)

def execEngineOperationComplete (sq k : Nat) (s : State) : Res := .next (onOp s sq k fun t o => match o.act with
  | .engine _ _ _ _ _ _ _ => completeOp t o
  | _ => s)

def execLastPush (sq k : Nat) (s : State) : Res := .next (onOp s sq k fun t o => if o.done && o.last.isSome then retireOps t else s)

/-- The record of a page that is found not present again (R369): its DETAIL tells a fetch from other accesses (R368). -/
def againRecord (s : State) (r : Replay) (p : Awaited) (f : TrFault) : State :=
  if f.joined then s
  else faultRecord s { cause := 0x44, detail := if r.aux = 4 then f.detail + 4 else f.detail, lanes := p.lanes, addr := p.va, aux := r.aux }

/-- One page that an instruction waits for: once a `tlbinv` has covered it, it walks again, and either waits on or is waited for no
longer (R369). -/
def walkAgain (r : Replay) (st : State × List Awaited) (p : Awaited) : State × List Awaited :=
  if !p.seen then (st.1, st.2 ++ [p])
  else
    let q := st.1.sq.ident
    match resolve st.1 q.priv q.core q.ctx p.va needLeaf with
    | (t, .inr f) => if f.cause = 0 then (t, st.2 ++ [p]) else if f.cause = 0x44 then (againRecord t r p f, st.2 ++ [{ p with seen := false }]) else (t, st.2)
    | (t, .inl _) => (t, st.2)

/-- The pages that the squad's instruction waits for walk again; the instruction issues again when it waits for none. -/
def replaySquad (s : State) : State :=
  match s.sq.replay with
  | none => s
  | some r =>
    let w := r.pages.foldl (walkAgain r) (s, [])
    w.1.onSq fun q => { q with replay := if w.2.isEmpty then none else some { r with pages := w.2 } }

/-- A request whose page a `tlbinv` has covered walks again (R369): the squad's instruction for k = 0, else operation k. -/
def replayNow (s : State) (k : Nat) : State :=
  if k = 0 then replaySquad s
  else match findOp s k with
    | some o => match o.page with
      | some (_, true) => setOp s { o with page := none }
      | _ => s
    | none => s

def execNotPresentReplay (sq k : Nat) (s : State) : Res := onSquad s sq fun t => replayNow t k

/-- Is a run one that must wait for a way? -/
def Ran.isLater : Ran → Bool
  | .later _ => true
  | _ => false

/-- Is a run one that failed? -/
def Ran.isFailed : Ran → Bool
  | .failed _ _ => true
  | _ => false

/-- Does an engine operation of the squad that is checked out fail for want of a peer: would it have to wait if the peer had been out
of reach only since now? -/
def lostEngine (s : State) (o : Op) (peer : Nat) : Bool :=
  match o.act with
  | .engine e d x y z x2 v =>
    let early := { s with dev := { s.dev with spanDownAt := assocSet s.dev.spanDownAt peer s.meridian.toNat } }
    mayRun s.sq o && (runEngine early o e d x y z x2 v).isLater && (runEngine s o e d x y z x2 v).isFailed
  | _ => false

/-- Does an operation of the squad that is checked out wait for a peer? -/
def forPeer (s : State) (o : Op) (peer : Nat) : Bool :=
  !o.done && ((o.accesses.any fun a => a.via == some peer) || lostEngine s o peer)

/-- The accesses to a peer out of reach for 1 ms end (R400). -/
def timeOutPeer (s : State) (peer : Nat) : State :=
  if peerTimedOut s peer && peerPorts s peer != 0 then
    (s.squads.flatMap fun q => q.ops.map fun o => (q.ident.id, o.id)).foldl
      (fun t p => onOp t p.1 p.2 fun u o => if forPeer u o peer then completeOp u o else u) s
  else s

def execPeerAccessTimeout (peer : Nat) (s : State) : Res := .next (timeOutPeer s peer)

/-! ### Scheduling (R337, R342, R347, R348) -/

def execWorkQueueEntryTake (q : Nat) (s : State) : Res := whenever (q < 64) s (takeEntry s q)

def execDependencePoll (s : State) : Res := .next (evalDeps s)

/-- The distributor's step for crew n of a grid: placed on the cores, or a pre-emption for it (R344, R348). -/
def distribute (s : State) (g n : Nat) (cores : List Nat) : State :=
  match s.grid? g with
  | none => s
  | some x =>
    if unitBefore s x then s
    else match tryPlace s x n cores with
    | some t => t
    | none => preemptFor s x n

def execCrewPlacement (g n : Nat) (cores : List Nat) (s : State) : Res := .next (distribute s g n cores)

def execTimedBudgetExceeded (g : Nat) (s : State) : Res := .next (demote s g)

/-! ### Pre-emption (R353) -/

/-- A step of a unit. -/
def onUnit (s : State) (u : Nat) (k : PreUnit → State) : Res :=
  match unit? s u with
  | none => .next s
  | some x => .next (k x)

def execPreemptDraining (u : Nat) (s : State) : Res := onUnit s u (startDraining s)

def execPreemptSaving (u : Nat) (s : State) : Res := onUnit s u (startSaving s)

def execPreemptSaved (u : Nat) (s : State) : Res := onUnit s u (endSaving s)

def execPreemptRestoring (u : Nat) (cores : List Nat) (s : State) : Res := onUnit s u fun x =>
  restoreOn s x cores

def execPreemptResumed (u : Nat) (s : State) : Res := onUnit s u (endRestoring s)

/-! ### Partitions (R357 to R359) -/

/-- The step of a command of PARTCTL (R358): it runs when a write of PARTCTL has posted it and it is the partition's next. -/
def runCommand (s : State) (p : Nat) (cmds : List Nat) (k : State → DWord → State) : Res :=
  match nextCommand s p cmds with
  | none => .next s
  | some v => whenever (p < 8) s (k (takeCommand s p) v)

def execPartitionStart (p : Nat) (s : State) : Res := runCommand s p [1] fun t _ => startPart t p

def execPartitionStartComplete (p : Nat) (s : State) : Res := whenever (p < 8) s (finishStart s p)

def execPartitionResize (p : Nat) (s : State) : Res := runCommand s p [2] fun t _ => resizePart t p

def execResizeRelease (p : Nat) (s : State) : Res := whenever (p < 8) s (releasePart s p)

def execResizeDone (p : Nat) (s : State) : Res := whenever (p < 8) s (finishResize s p)

def execPartitionStop (p : Nat) (s : State) : Res := runCommand s p [3] fun t _ => stopPart t p

/-- The end of a context that the command names; it waits for what it must write. -/
def execEndContext (p ctx : Nat) (s : State) : Res :=
  if endWaitsFor s p ctx then .next s
  else runCommand s p [4] fun t v => if field v 8 6 = ctx then endContext t p ctx else s

def execEndContextComplete (p : Nat) (s : State) : Res := whenever (p < 8) s (finishEnding s p)

def execPartctlInvalidCmd (p : Nat) (s : State) : Res := runCommand s p [5, 6, 7] fun t _ => invalidCommand t p

/-- A reservation write by the system squad that is checked out. -/
def execReservationWrite (p : Nat) (v : BitVec 64) (s : State) : Res :=
  whenever (s.sq.present && s.sq.ident.priv && p < 8 && reserves (s.part p) v) s (reserve s p v).1

/-! ### Links and ports (R386, R388, R400) -/

def execLinkTurnStart (n : Nat) (s : State) : Res := whenever (n < 88 && mayTurn s n) s (takeTurn s n)

def execTurnDeadTimeEnd (n : Nat) (s : State) : Res := whenever (n < 88 && turnDue s n) s (endTurn s n)

def execFlitReplay (n g lane : Nat) (s : State) : Res := whenever (n < 88 && g < 32 && lane < 16) s (replayFlit s n g lane)

def execRetryWindowExpiry (s : State) : Res := .next ((List.range 88).foldl freshWindow s)

def execSpanPortDown (p : Nat) (s : State) : Res := whenever (p < 24 && s.dev.ready1.getLsbD p) s (portDown s p)

/-- A span port trains, under firmware that has been verified (R401, R404). -/
def execSpanPortTrained (p : Nat) (s : State) : Res :=
  whenever (p < 24 && !s.dev.ready1.getLsbD p && s.dev.ready0.getLsbD 49) s (portUp s p)

/-! ### The host and peers (R376, R396 to R398, R400) -/

/-- A range of memory that the host or a peer reaches. -/
def reachable (pa n : Nat) : Bool := pa + n ≤ paSpace && (pa + n ≤ Config.controlBase || Config.controlBase + 67108864 ≤ pa)

/-- May the host or a peer reach a range now: its links are open (R334, R390), and a write meets no place where an armed window's backing
lay at arming, which keeps what it held (R100; DESIGN CHOICE, log 16)? -/
def outsideOpen (s : State) (pa n : Nat) (write : Bool) : Bool :=
  rangeOpen s Config.mcCore pa n none && !(write && atArmed s pa n)

/-- A write from outside, performed at the home slice; poisoned data is marked on arrival (R376). -/
def outsideWrite (s : State) (pa : Nat) (bytes : List Byte) (bad : Bool) : State :=
  let t := (homeWrite s 0 pa bytes).1
  if bad then { t with poison := setAddAll t.poison (sectorsOf pa bytes.length) } else t

/-- A read from outside, of the home's value, expanded and with its poison (R106, R376, R398). -/
def outsideRead (s : State) (pa n : Nat) : State :=
  let r := homeRead s 0 pa n
  { r.1 with hostOut := r.2.1.zipIdx.map fun b => (pa + b.2, b.1, sectorBad r.1 ((pa + b.2) / 64)) }

/-- A read of BAR0 by the host (R396, R397), which sees the same registers as system squads. -/
def hostBarRead (s : State) (off n : Nat) : State :=
  { s with hostOut := (barRead s off n).zipIdx.map fun b => (Config.controlBase + off + b.2, b.1, false) }

/-- Is the host attached (R402)? -/
def hostReady (s : State) : Bool := s.dev.powered && s.dev.ready0.getLsbD 51

def execHostHdmWrite (pa : Nat) (bytes : List (BitVec 8)) (bad : Bool) (s : State) : Res :=
  whenever (hostReady s && reachable pa bytes.length && outsideOpen s pa bytes.length true) s (outsideWrite s pa bytes bad)

/-- A read by the host: of HDM, or of BAR0, whose registers stand in the control space (R397). -/
def execHostHdmRead (pa n : Nat) (s : State) : Res :=
  if inControl pa then whenever (s.dev.powered && pa - Config.controlBase + n ≤ 67108864) s (hostBarRead s (pa - Config.controlBase) n)
  else whenever (hostReady s && reachable pa n && outsideOpen s pa n false) s (outsideRead s pa n)

def execPeerRequest (rq : OutsideRequest) (s : State) : Res :=
  if s.dev.ready1.toNat % 16777216 = 0 then .next s
  else match rq with
    | .read pa n => whenever (reachable pa n && outsideOpen s pa n false) s (outsideRead s pa n)
    | .write pa bytes bad => whenever (reachable pa bytes.length && outsideOpen s pa bytes.length true) s (outsideWrite s pa bytes bad)

def execDoorbell (s : State) : Res := whenever s.dev.powered s (ringDoorbell s)

def execQcfgWrite (q : Nat) (v : BitVec 64) (s : State) : Res := whenever (s.dev.powered && 1 ≤ q && q < 64) s (writeQcfg s q v)

def execQwriteWrite (q : Nat) (v : BitVec 64) (s : State) : Res := whenever (s.dev.powered && 1 ≤ q && q < 64) s (writeQwrite s q v)

def execBar0Write (off width : Nat) (v : BitVec 64) (s : State) : Res := whenever s.dev.powered s (barWrite s true off width v.toNat)

/-! ### Register writes of system software (R319, R324, R330, R354, R378, R394, R407): by the squad that is checked out -/

/-- A write by a system squad. -/
def bySystem (s t : State) : Res := whenever (s.sq.present && s.sq.ident.priv) s t

def execSysstatWrite (v : BitVec 64) (s : State) : Res := bySystem s (writeSysstat s v)

def execErrpopWrite (v : BitVec 64) (s : State) : Res := bySystem s (writeErrpop s v)

def execMcwinEnable (v : BitVec 64) (s : State) : Res := bySystem s (enableWindow s (s.sq.sys.mcsel.toNat % 16) (v ||| 1))

def execMcwinDisable (v : BitVec 64) (s : State) : Res := bySystem s (disableWindow s (s.sq.sys.mcsel.toNat % 16) (v &&& ~~~1))

def execMcwinExpansionDone (w : Nat) (s : State) : Res := whenever (w < 16) s (expandWindow s w)

def execSurveyctlWrite (v : BitVec 64) (s : State) : Res := bySystem s (writeSurveyCtl s v)

def execSurveyCompareLatch (s : State) : Res := .next (compareLatch s)

def execSurveyWriteOutDone (s : State) : Res := .next (writeSurvey s)

def execLnklanesWrite (v : BitVec 64) (s : State) : Res := bySystem s (writeLanes s v)

def execKeepbaseWrite (v : BitVec 64) (s : State) : Res := bySystem s (writeKeep s (selPart s.sq) v)

def execSystemRegisterWrite (n : BitVec 7) (v : BitVec 64) (s : State) : Res := bySystem s (sysWrite s n.toNat v)

end Sys2Proof.Machine
end

