-- ==== Sys2Proof/Machine/Crypto.lean ====
section
/-! DEFINITION. The functions that bring-up names by their standards (R404, R405): SHAKE-256 and SHA3-256 (FIPS 202), and the
signature scheme SLH-DSA over SHAKE (FIPS 205) in its parameter sets 256s and 256f. The standards are outside the manual (PRESUMED,
log 111). -/

namespace Sys2Proof.Machine

/-! ### Keccak (FIPS 202) -/

/-- Lane (x, y) of a state of 25 lanes. -/
def lane25 (a : Array (BitVec 64)) (x y : Nat) : BitVec 64 := a.getD (x % 5 + 5 * (y % 5)) 0

/-- A state from its lanes. -/
def lanes25 (f : Nat → Nat → BitVec 64) : Array (BitVec 64) := ((List.range 25).map fun i => f (i % 5) (i / 5)).toArray

/-- The rotation of each lane in ρ, lane (x, y) at x + 5y. -/
def rhoOffset : List Nat :=
  [0, 1, 62, 28, 27, 36, 44, 6, 55, 20, 3, 10, 43, 25, 39, 41, 45, 15, 21, 8, 18, 2, 61, 56, 14]

/-- The round constants of ι. -/
def roundConstants : List (BitVec 64) :=
  [0x0000000000000001, 0x0000000000008082, 0x800000000000808A, 0x8000000080008000, 0x000000000000808B, 0x0000000080000001,
   0x8000000080008081, 0x8000000000008009, 0x000000000000008A, 0x0000000000000088, 0x0000000080008009, 0x000000008000000A,
   0x000000008000808B, 0x800000000000008B, 0x8000000000008089, 0x8000000000008003, 0x8000000000008002, 0x8000000000000080,
   0x000000000000800A, 0x800000008000000A, 0x8000000080008081, 0x8000000000008080, 0x0000000080000001, 0x8000000080008008]

/-- One round: θ, then ρ and π, then χ and ι. -/
def keccakRound (a : Array (BitVec 64)) (rc : BitVec 64) : Array (BitVec 64) :=
  let c := ((List.range 5).map fun x => (List.range 5).foldl (fun z y => z ^^^ lane25 a x y) 0).toArray
  let b := lanes25 fun x y => lane25 a x y ^^^ c.getD ((x + 4) % 5) 0 ^^^ (c.getD ((x + 1) % 5) 0).rotateLeft 1
  let p := lanes25 fun x y => (lane25 b (x + 3 * y) x).rotateLeft (rhoOffset.getD ((x + 3 * y) % 5 + 5 * x) 0)
  let q := lanes25 fun x y => lane25 p x y ^^^ (~~~lane25 p (x + 1) y &&& lane25 p (x + 2) y)
  q.modify 0 (· ^^^ rc)

/-- The permutation Keccak-f[1600]. -/
def keccak (a : Array (BitVec 64)) : Array (BitVec 64) := roundConstants.foldl keccakRound a

/-- Bytes a block of the sponge takes at 512 bits of capacity. -/
abbrev sponge : Nat := 136

/-- A number from little-endian bytes. -/
def leValue (bs : List (BitVec 8)) : Nat := bs.foldr (fun b x => b.toNat + 256 * x) 0

/-- A block joins the state. -/
def absorb (a : Array (BitVec 64)) (block : List (BitVec 8)) : Array (BitVec 64) :=
  keccak (lanes25 fun x y => lane25 a x y ^^^ BitVec.ofNat 64 (leValue ((block.drop (8 * (x + 5 * y))).take 8)))

/-- The bytes of a state that leave the sponge. -/
def squeezed (a : Array (BitVec 64)) : List (BitVec 8) :=
  (List.range sponge).map fun i => BitVec.ofNat 8 ((a.getD (i / 8) 0).toNat / 256 ^ (i % 8))

/-- A message padded to whole blocks behind its suffix. -/
def padded (suffix : BitVec 8) (msg : List (BitVec 8)) : List (BitVec 8) :=
  let k := sponge - msg.length % sponge
  msg ++ if k = 1 then [suffix ||| 0x80] else suffix :: (List.replicate (k - 2) 0 ++ [0x80])

/-- The state after some blocks. -/
def absorbAll : Nat → Array (BitVec 64) → List (BitVec 8) → Array (BitVec 64)
  | 0, a, _ => a
  | n + 1, a, bs => absorbAll n (absorb a (bs.take sponge)) (bs.drop sponge)

/-- Output of a number of blocks. -/
def squeezeAll : Nat → Array (BitVec 64) → List (BitVec 8)
  | 0, _ => []
  | n + 1, a => squeezed a ++ squeezeAll n (keccak a)

/-- n bytes of a sponge over a message. -/
def spongeOut (suffix : BitVec 8) (msg : List (BitVec 8)) (n : Nat) : List (BitVec 8) :=
  let p := padded suffix msg
  (squeezeAll ((n + sponge - 1) / sponge) (absorbAll (p.length / sponge) (lanes25 fun _ _ => 0) p)).take n

/-- SHAKE-256 with n bytes of output. -/
def shake256 (msg : List (BitVec 8)) (n : Nat) : List (BitVec 8) := spongeOut 0x1F msg n

/-- SHA3-256. -/
def sha3_256 (msg : List (BitVec 8)) : List (BitVec 8) := spongeOut 0x06 msg 32

/-! ### SLH-DSA (FIPS 205) -/

/-- A parameter set of security category 5: n is 32 and lg w is 4. -/
structure SlhParams where
  h : Nat      -- height of the hypertree
  d : Nat      -- layers
  a : Nat      -- height of a FORS tree
  k : Nat      -- FORS trees
  m : Nat      -- bytes of a message digest
  deriving DecidableEq, Repr

/-- SLH-DSA-SHAKE-256s. -/
def slh256s : SlhParams := ⟨64, 8, 14, 22, 47⟩

/-- SLH-DSA-SHAKE-256f. -/
def slh256f : SlhParams := ⟨68, 17, 9, 35, 49⟩

/-- Height of one XMSS tree. -/
def SlhParams.tall (p : SlhParams) : Nat := p.h / p.d

/-- Bytes of a hash. -/
abbrev slhN : Nat := 32

/-- Chains of a one-time key. -/
abbrev wotsLen : Nat := 67

/-- Bytes of a signature. -/
def SlhParams.bytes (p : SlhParams) : Nat := slhN * (1 + p.k * (1 + p.a) + p.h + p.d * wotsLen)

/-- The n big-endian bytes of a number. -/
def beBytes (n x : Nat) : List (BitVec 8) := ((List.range n).map fun i => BitVec.ofNat 8 (x / 256 ^ i)).reverse

/-- A number from big-endian bytes. -/
def beValue (bs : List (BitVec 8)) : Nat := leValue bs.reverse

/-- The address of a hash: layer, tree, type and three words. -/
structure SlhAdrs where
  layer : Nat
  tree  : Nat
  kind  : Nat
  w1    : Nat
  w2    : Nat
  w3    : Nat
  deriving DecidableEq, Repr

/-- An address as 32 bytes. -/
def SlhAdrs.bytes (x : SlhAdrs) : List (BitVec 8) :=
  beBytes 4 x.layer ++ beBytes 12 x.tree ++ beBytes 4 x.kind ++ beBytes 4 x.w1 ++ beBytes 4 x.w2 ++ beBytes 4 x.w3

/-- F, H and T of a message under a public seed. -/
def slhHash (seed : List (BitVec 8)) (x : SlhAdrs) (msg : List (BitVec 8)) : List (BitVec 8) := shake256 (seed ++ x.bytes ++ msg) slhN

/-- Digits of b bits, most significant first. -/
def digits (bs : List (BitVec 8)) (b n : Nat) : List Nat :=
  (List.range n).map fun i => beValue bs / 2 ^ (8 * bs.length - b * (i + 1)) % 2 ^ b

/-- The digits of a message and of its checksum. -/
def wotsDigits (msg : List (BitVec 8)) : List Nat :=
  let ds := digits msg 4 64
  ds ++ digits (beBytes 2 (ds.foldl (fun c d => c + (15 - d)) 0 * 16)) 4 3

/-- A chain of n hashes from position i on. -/
def wotsChain (seed : List (BitVec 8)) (x : SlhAdrs) : Nat → Nat → List (BitVec 8) → List (BitVec 8)
  | 0, _, v => v
  | n + 1, i, v => wotsChain seed x n (i + 1) (slhHash seed { x with w3 := i } v)

/-- Slice i of slhN bytes. -/
def slhSlice (bs : List (BitVec 8)) (i : Nat) : List (BitVec 8) := (bs.drop (slhN * i)).take slhN

/-- The one-time public key that a signature of a message gives; x names the layer, tree and key pair. -/
def wotsFromSig (seed : List (BitVec 8)) (x : SlhAdrs) (msg sig : List (BitVec 8)) : List (BitVec 8) :=
  slhHash seed { x with kind := 1, w2 := 0, w3 := 0 }
    (((wotsDigits msg).zipIdx).flatMap fun d => wotsChain seed { x with kind := 0, w2 := d.2 } (15 - d.1) d.1 (slhSlice sig d.2))

/-- A node and its neighbours' hashes lead to a root: i is the node's index at height k. -/
def climb (seed : List (BitVec 8)) (x : SlhAdrs) : List (List (BitVec 8)) → Nat → Nat → List (BitVec 8) → List (BitVec 8)
  | [], _, _, node => node
  | b :: bs, k, i, node =>
    climb seed x bs (k + 1) (i / 2)
      (slhHash seed { x with w2 := k + 1, w3 := i / 2 } (if i % 2 = 0 then node ++ b else b ++ node))

/-- The root of an XMSS tree that a signature of a message at a leaf gives. -/
def xmssFromSig (p : SlhParams) (seed : List (BitVec 8)) (layer tree leaf : Nat) (msg sig : List (BitVec 8)) : List (BitVec 8) :=
  climb seed ⟨layer, tree, 2, 0, 0, 0⟩ ((List.range p.tall).map fun j => slhSlice sig (wotsLen + j)) 0 leaf
    (wotsFromSig seed ⟨layer, tree, 0, leaf, 0, 0⟩ msg sig)

/-- The root of the hypertree that the signatures of some layers give. -/
def treeFromSig (p : SlhParams) (seed : List (BitVec 8)) : Nat → Nat → Nat → Nat → List (BitVec 8) → List (BitVec 8) → List (BitVec 8)
  | 0, _, _, _, node, _ => node
  | n + 1, layer, tree, leaf, node, sig =>
    treeFromSig p seed n (layer + 1) (tree / 2 ^ p.tall) (tree % 2 ^ p.tall) (xmssFromSig p seed layer tree leaf node sig)
      (sig.drop (slhN * (wotsLen + p.tall)))

/-- The FORS public key that a signature of a digest gives; x names the tree and key pair. -/
def forsFromSig (p : SlhParams) (seed : List (BitVec 8)) (x : SlhAdrs) (md sig : List (BitVec 8)) : List (BitVec 8) :=
  slhHash seed { x with kind := 4, w2 := 0, w3 := 0 }
    (((digits md p.a p.k).zipIdx).flatMap fun d =>
      let i := d.2 * 2 ^ p.a + d.1
      let part := sig.drop (slhN * (d.2 * (1 + p.a)))
      climb seed { x with kind := 3 } ((List.range p.a).map fun j => slhSlice part (1 + j)) 0 i
        (slhHash seed { x with kind := 3, w2 := 0, w3 := i } (slhSlice part 0)))

/-- What a digest selects: the FORS message, the tree and the leaf. -/
def slhSelect (p : SlhParams) (digest : List (BitVec 8)) : List (BitVec 8) × Nat × Nat :=
  let md := (p.k * p.a + 7) / 8
  let nt := (p.h - p.tall + 7) / 8
  let nl := (p.tall + 7) / 8
  (digest.take md, beValue ((digest.drop md).take nt) % 2 ^ (p.h - p.tall), beValue ((digest.drop (md + nt)).take nl) % 2 ^ p.tall)

/-- A message as it is signed: with an empty context. -/
def slhMessage (msg : List (BitVec 8)) : List (BitVec 8) := 0 :: 0 :: msg

/-- Does a signature of a message hold under a public key of 64 bytes? -/
def slhVerify (p : SlhParams) (key msg sig : List (BitVec 8)) : Bool :=
  sig.length == p.bytes && key.length == 2 * slhN &&
    (let seed := key.take slhN
     let sel := slhSelect p (shake256 (sig.take slhN ++ key ++ slhMessage msg) p.m)
     let fors := forsFromSig p seed ⟨0, sel.2.1, 3, sel.2.2, 0, 0⟩ sel.1 (sig.drop slhN)
     treeFromSig p seed p.d 0 sel.2.1 sel.2.2 fors (sig.drop (slhN * (1 + p.k * (1 + p.a)))) == key.drop slhN)

/-- A secret key with its public seed. -/
structure SlhSecret where
  seed   : List (BitVec 8)
  prf    : List (BitVec 8)
  pub    : List (BitVec 8)
  deriving DecidableEq, Repr

/-- A secret value at an address. -/
def slhPrf (k : SlhSecret) (x : SlhAdrs) : List (BitVec 8) := slhHash k.pub x k.seed

/-- The one-time public key of a key pair. -/
def wotsPublic (k : SlhSecret) (x : SlhAdrs) : List (BitVec 8) :=
  slhHash k.pub { x with kind := 1, w2 := 0, w3 := 0 }
    ((List.range wotsLen).flatMap fun i =>
      wotsChain k.pub { x with kind := 0, w2 := i } 15 0 (slhPrf k { x with kind := 5, w2 := i, w3 := 0 }))

/-- The one-time signature of a message. -/
def wotsSign (k : SlhSecret) (x : SlhAdrs) (msg : List (BitVec 8)) : List (BitVec 8) :=
  ((wotsDigits msg).zipIdx).flatMap fun d =>
    wotsChain k.pub { x with kind := 0, w2 := d.2 } d.1 0 (slhPrf k { x with kind := 5, w2 := d.2, w3 := 0 })

/-- Node i at a height of an XMSS tree. -/
def xmssNode (k : SlhSecret) (layer tree : Nat) : Nat → Nat → List (BitVec 8)
  | 0, i => wotsPublic k ⟨layer, tree, 0, i, 0, 0⟩
  | z + 1, i => slhHash k.pub ⟨layer, tree, 2, 0, z + 1, i⟩ (xmssNode k layer tree z (2 * i) ++ xmssNode k layer tree z (2 * i + 1))

/-- The neighbour of a number. -/
def sibling (i : Nat) : Nat := if i % 2 = 0 then i + 1 else i - 1

/-- The signature of a message at a leaf of an XMSS tree. -/
def xmssSign (p : SlhParams) (k : SlhSecret) (layer tree leaf : Nat) (msg : List (BitVec 8)) : List (BitVec 8) :=
  wotsSign k ⟨layer, tree, 0, leaf, 0, 0⟩ msg
    ++ (List.range p.tall).flatMap fun j => xmssNode k layer tree j (sibling (leaf / 2 ^ j))

/-- The signatures of the layers of the hypertree over a node. -/
def treeSign (p : SlhParams) (k : SlhSecret) : Nat → Nat → Nat → Nat → List (BitVec 8) → List (BitVec 8)
  | 0, _, _, _, _ => []
  | n + 1, layer, tree, leaf, node =>
    let sig := xmssSign p k layer tree leaf node
    sig ++ treeSign p k n (layer + 1) (tree / 2 ^ p.tall) (tree % 2 ^ p.tall) (xmssFromSig p k.pub layer tree leaf node sig)

/-- Node i at a height of the FORS trees; x names the tree and key pair. -/
def forsNode (k : SlhSecret) (x : SlhAdrs) : Nat → Nat → List (BitVec 8)
  | 0, i => slhHash k.pub { x with kind := 3, w2 := 0, w3 := i } (slhPrf k { x with kind := 6, w2 := 0, w3 := i })
  | z + 1, i => slhHash k.pub { x with kind := 3, w2 := z + 1, w3 := i } (forsNode k x z (2 * i) ++ forsNode k x z (2 * i + 1))

/-- The FORS signature of a digest. -/
def forsSign (p : SlhParams) (k : SlhSecret) (x : SlhAdrs) (md : List (BitVec 8)) : List (BitVec 8) :=
  ((digits md p.a p.k).zipIdx).flatMap fun d =>
    slhPrf k { x with kind := 6, w2 := 0, w3 := d.2 * 2 ^ p.a + d.1 }
      ++ (List.range p.a).flatMap fun j => forsNode k x j (d.2 * 2 ^ (p.a - j) + sibling (d.1 / 2 ^ j))

/-- The public key of a secret key. -/
def slhPublic (p : SlhParams) (k : SlhSecret) : List (BitVec 8) := k.pub ++ xmssNode k (p.d - 1) 0 p.tall 0

/-- The signature of a message, with the randomness given. -/
def slhSign (p : SlhParams) (k : SlhSecret) (rand msg : List (BitVec 8)) : List (BitVec 8) :=
  let r := shake256 (k.prf ++ rand ++ slhMessage msg) slhN
  let sel := slhSelect p (shake256 (r ++ slhPublic p k ++ slhMessage msg) p.m)
  let x : SlhAdrs := ⟨0, sel.2.1, 3, sel.2.2, 0, 0⟩
  let fors := forsSign p k x sel.1
  r ++ fors ++ treeSign p k p.d 0 sel.2.1 sel.2.2 (forsFromSig p k.pub x sel.1 fors)

end Sys2Proof.Machine
end

