-- ==== Sys2Proof/Machine/Health.lean ====
section
/-! DEFINITION. Errors and their containment (R374 to R377), scrubs (R375), retention (R408), power (R409), reset and bring-up
(R401 to R404). -/

namespace Sys2Proof.Machine

/-! ### Errors of the environment (R374, R377) -/

/-- A record of an uncorrectable error, with a syndrome that the manual leaves open. -/
def dataRecord (s : State) (ctx : Option Nat) (structure_ aux unit addr core : Nat) : State :=
  (errorRecord s 0x80 ctx structure_ aux unit addr (Config.freeWord s.tickets).toNat core).ticket

/-- UNIT of a bank (R372): core, bank and row. -/
def bankUnit (bank row : Nat) : Nat := bank / 32 % 128 + bank % 32 * 4096 + row * 131072

/-- UNIT of a way (R372): slice, way and set. -/
def wayUnit (l : LlcLine) : Nat := l.slice + l.way * 256 + lineSetOf l.addr * 131072

/-- An uncorrectable error in a way (R331, R377). -/
def countWay (s : State) (l : LlcLine) : State :=
  let w := wayOf s l.slice l.way
  setWay s { w with uecnt := satTo 0xFFFF (w.uecnt + 1) }

/-- A sector becomes poisoned. -/
def poisonSector (s : State) (sec : Nat) : State := { s with poison := setAdd s.poison sec }

/-- An error in LLC data (R374, structure 7): a clean line is fetched again; a dirty one keeps its sector poisoned, which goes to
memory with the line (R376). -/
def llcDataError (s : State) (l : LlcLine) (sec : Nat) : State :=
  if l.dirty == 0 then countCorrected (countWay (llcShow s l) l)
  else
    let t := llcSet (poisonSector s sec) { l with dirty := l.dirty ||| BitVec.twoPow 8 (sec % 8) }
    dataRecord (countWay t l) (some l.owner) 7 (b2n l.mixed + 2) (wayUnit l) (physOf (sec * 64)) 0

/-- An error in an LLC tag (R374, structure 8): the line and its dirty data are lost. -/
def llcTagError (s : State) (l : LlcLine) : State :=
  (errorRecord (countWay (llcDiscard s l.addr) l) 0x81 none 8 (b2n l.mixed + b2n (l.dirty != 0) * 2) (wayUnit l) 0
    (Config.freeWord s.tickets).toNat 0).ticket

/-- What a scrub of an LLC sector finds (R375). -/
def scrubLlc (s : State) (sec : Nat) (f : Finding) : State :=
  match llcFind s (sec * 64) with
  | none => s
  | some l => match f with
    | .clean => s
    | .corrected => countCorrected s
    | .dataError => llcDataError s l sec
    | .tagError => llcTagError s l
    | .metadataError => s

/-- An error in the HBM: a copy that the LLC holds of the line stays good, and the error lies below it (R374). -/
def poisonHbm (s : State) (sec : Nat) : State :=
  match llcFind s (sec * 64) with
  | some l => llcSet s { l with backPoison := l.backPoison ||| BitVec.twoPow 8 (sec % 8) }
  | none => poisonSector s sec

/-- The metadata of a line in the HBM is lost (R105, R374): a copy that the LLC holds keeps its own. -/
def spoilMeta (s : State) (line : Nat) : State :=
  match llcFind s line with
  | some l => llcSet s { l with backCode := 15 }
  | none => setCode s line 15

/-- What a scrub of an HBM sector finds (R375, structure 10). -/
def scrubHbm (s : State) (sec : Nat) (f : Finding) : State :=
  let line := sec / 8 * 512
  match f with
  | .clean => s
  | .corrected => countCorrected (s.countSurvey (160 + stackOf s (sec * 64)) 5 1)
  | .dataError =>
    dataRecord (poisonHbm s sec) ((llcFind s line).map (·.owner)) 10 (lineAux s line) (stackOf s (sec * 64)) (physOf (sec * 64)) 0
  | .tagError => s
  | .metadataError => if inWindow s line then metaRecord (spoilMeta s line) line 15 else s

/-- A translation goes: the numbers count the L1 TLBs' entries, then those of the L2 TLBs (R364). -/
def dropTlb (s : State) (n : Nat) : State :=
  if n < s.tlb1.length then { s with tlb1 := s.tlb1.eraseIdx n } else { s with tlb := s.tlb.eraseIdx (n - s.tlb1.length) }

/-- An upset of the environment (R374). -/
def applyUpset (s : State) (u : Upset) : State :=
  match u with
  | .corrected => countCorrected s
  | .storage bank sec =>
    dataRecord (poisonSector s (bankKey bank (64 * (sec % 1024)) / 64)) (bankContext s bank) 1 0 (bankUnit bank (sec % 1024)) 0 (bank / 32)
  | .latent l => { s with latent := l :: s.latent }
  | .accumulator crew row pair =>
    match s.crew? crew with
    | none => s
    | some c =>
      let p := pair % 64 * 2
      dataRecord (s.setCrew { c with marks := (row, p) :: (row, p + 1) :: c.marks }) ((s.grid? c.grid).map (·.ctx)) 3 0
        (c.core % 128 + row % 32768 * 131072) 0 c.core
  | .vreg squad reg lane => match s.checkout squad with
    | none => s
    | some t => dataRecord (t.onSq fun q => { q with poisonV := (reg, lane, 0) :: q.poisonV }) (some t.sq.ident.ctx) 4 0
        (t.sq.ident.core % 128) 0 t.sq.ident.core
  | .sreg squad reg => match s.checkout squad with
    | none => s
    | some t => if reg % 64 = 0 then s else dataRecord (t.onSq fun q => { q with poisonS := (reg, 0) :: q.poisonS }) (some t.sq.ident.ctx) 4 0
        (t.sq.ident.core % 128) 0 t.sq.ident.core
  | .l1 core addr => match l1Find s core addr with
    | none => s
    | some x =>
      if x.dirty == 0 then countCorrected (l1Drop s x)
      else dataRecord (l1Set s { x with poison := true, fresh := 0 }) (some x.ctx) 5 2 (x.core % 128) (physOf x.addr) x.core
  | .tlb n => countCorrected (dropTlb s n)
  | .lane n g k => setGroup s n g fun x => { x with fails := x.fails ||| BitVec.twoPow 17 k }

/-! ### Scrubs (R257, R375) -/

/-- Is a bank in compute mode? -/
def inCompute (s : State) (bank : Nat) : Bool :=
  (s.crews.any fun c => c.compute.contains bank) || s.resids.any fun r => r.banks.any fun b => b.2.contains bank

def execPlaneScrub (bank : Nat) (s : State) : Res :=
  whenever (inCompute s bank && !s.bankRet.contains bank) s (verifyPlanes s bank (List.range 64) true)

def execLlcScrub (sec : Nat) (finding : Finding) (s : State) : Res := .next (scrubLlc s sec finding)

def execHbmScrub (sec : Nat) (finding : Finding) (s : State) : Res := .next (scrubHbm s sec finding)

/-! ### Retention (R408) -/

/-- Is a bank idle: held by nothing, or by a residency without a bound crew on its core? -/
def bankIdle (s : State) (bank : Nat) : Bool :=
  !(s.crews.any fun c => c.storage.contains bank || c.compute.contains bank)
    && match s.resids.find? fun r => r.banks.any fun b => b.2.contains bank with
      | none => true
      | some r => !(s.crews.any fun c => c.core == bank / 32 && ((s.grid? c.grid).map fun g => g.ctx == r.ctx && g.r.resid == r.id).getD false)

/-- Has a bank been idle for the time that READY1 gives (R402)? -/
def idleLong (s : State) (bank : Nat) : Bool :=
  assocGet s.dev.freed bank 0 + Nat.max 1 (field s.dev.ready1 40 8) * 1000 ≤ s.meridian.toNat

/-- Banks of the 128 cores, and behind them the four of the management core. -/
abbrev bankTotal : Nat := 4100

def execBankRetentionEntry (bank : Nat) (s : State) : Res :=
  whenever (bank < bankTotal && s.dev.ready1.getLsbD 32 && bankIdle s bank && idleLong s bank && !s.bankRet.contains bank) s
    { s with bankRet := bank :: s.bankRet }

/-- Would a crew of a grid that could be placed now receive a bank, or find it in its residency? -/
def gridWants (s : State) (g : Grid) (bank : Nat) : Bool :=
  let core := bank / 32
  g.placing && (frontRunners g g.r.crews).any fun k => match findPlace s g k with
    | none => false
    | some cores =>
      cores.contains core
        && (((freeBanks s core).take (g.r.own * cores.count core)).contains bank
          || (((boundTo s g.ctx g.r).map fun x => (assocGet x.banks core []).contains bank).getD false))

/-- Would a saved unit that could be resumed now receive a bank? -/
def unitWants (s : State) (u : PreUnit) (bank : Nat) : Bool :=
  let core := bank / 32
  match findResume u s none (heldTeams u.heldC) with
  | none => false
  | some cores => cores.contains core && (bankIdle s bank)

/-- Is there a cause for a bank's retention to end (R408): the enabling bit is clear, or a crew needs the bank? -/
def retentionEnds (s : State) (bank : Nat) : Bool :=
  !s.dev.ready1.getLsbD 32 || (s.grids.any fun g => gridWants s g bank) || s.units.any fun u => unitWants s u bank

def execBankRetentionExit (bank : Nat) (s : State) : Res := whenever (retentionEnds s bank) s (leaveRetention s bank)

def execWayGroupRetentionEntry (slice g : Nat) (s : State) : Res :=
  whenever (slice < 32 && g < 4 && s.dev.ready1.getLsbD 33 && (List.range 4).all (fun i => quarantined s slice (4 * g + i))
    && !s.wayRet.contains (slice, g)) s { s with wayRet := (slice, g) :: s.wayRet }

/-- The retention of a way group ends once its enabling bit is clear (R408); `wayctl.release` ends it itself. -/
def execWayGroupRetentionExit (slice g : Nat) (s : State) : Res :=
  whenever (!s.dev.ready1.getLsbD 33) s { s with wayRet := s.wayRet.filter (· != (slice, g)) }

/-! ### Power and reset (R401, R409) -/

def execOvercurrentWarning (s : State) : Res := whenever s.dev.powered s { s with dev := { s.dev with halved := true } }

def execOvercurrentClear (s : State) : Res := .next { s with dev := { s.dev with halved := false } }

/-- Is a key one of host or peer memory, which no reset of this device touches? -/
def outsideKey (a : Nat) : Bool := paSpace ≤ a && a < bankBase

/-- The device at step 1 of R401. What lies outside stays: the memory of the host and the peers, without what the LLC had not written
back to it; the flash and the fuses; what the environment is to do, and the counter of the free values. -/
def restart (s : State) : State :=
  let t := (s.llc.filter fun l => outsideKey l.addr).foldl (fun u l => llcDiscard u l.addr) s
  { State.reset with
    mem := t.mem.filter fun c => outsideKey c.1
    poison := t.poison.filter fun p => outsideKey (p * 64)
    board := s.board, plan := s.plan, tickets := s.tickets }

def execThermalTrip (s : State) : Res :=
  whenever s.dev.powered s { restart s with dev := { Device.reset with powered := false } }

def execPowerOnReset (s : State) : Res := .next (restart s)

def execCxlConventionalReset (s : State) : Res := whenever s.dev.powered s (restart s)

/-! ### Bring-up (R401 to R405) -/

/-- The dies' copies of the meridian, those of the 32 chiplets, the H-die and the four E-dies, lock to the source, each within 1 ns of it (R401, R406); by how much each differs is free. -/
def lockDies (s : State) : State :=
  { s with skew := (List.range 37).map fun d => (d, (Config.freeWord (s.tickets + d)).toNat % 3), tickets := s.tickets + 37 }

def execMeridianLock (s : State) : Res :=
  whenever (s.dev.powered && !s.dev.ready0.getLsbD 48) s (setReady0 (lockDies s) 48 true)

/-- Does the firmware's signature hold (R404): 29,792 bytes of SLH-DSA-SHAKE-256s over the image and its version, under the key whose
digest is fused (log 83)? -/
def signatureHolds (b : Board) (f : Firmware) : Bool :=
  f.signature.length == slh256s.bytes && shake256 f.key 64 == b.fused
    && slhVerify slh256s f.key (f.image ++ leBytes 4 f.version.toNat) f.signature

/-- The boot status (R404): 1 booted, 2 signature invalid, 3 version below the fused minimum, 4 image unreadable. -/
def bootStatus (b : Board) : Nat :=
  match b.flash with
  | none => 4
  | some f => if !signatureHolds b f then 2 else if f.version.toNat < b.minVersion.toNat then 3 else 1

/-- The entry of the firmware in the flash. -/
def bootEntry (b : Board) : DWord := (b.flash.map (·.entry)).getD 0

/-- The boot status word of the mailbox (R404). -/
def writeBoot (s : State) (status : Nat) : State :=
  { s with dev := { s.dev with mailbox := putMailbox s.dev.mailbox 0 8 status, booted := true } }

/-- The root of trust ends its check (R401 steps 2 and 3, R404). -/
def verify (s : State) (status : Nat) (entry : DWord) : State :=
  let t := writeBoot s status
  if status = 1 then setReady0 (startMc (setReady0 t 49 true) entry) 50 true else t

/-- May the check end with a status and an entry: it runs once, behind the meridian's lock, and the flash and the fuses decide? -/
def mayVerify (s : State) (status : Nat) (entry : DWord) : Bool :=
  s.dev.powered && !s.dev.booted && s.dev.ready0.getLsbD 48 && status == bootStatus s.board && (status != 1 || entry == bootEntry s.board)

def execFirmwareVerify (status : BitVec 8) (entry : BitVec 64) (s : State) : Res :=
  whenever (mayVerify s status.toNat entry) s (verify s status.toNat entry)

/-- Bytes of a stack (R7, R18). -/
abbrev stackBytes : Nat := 48000000000

/-- Bytes of local HBM (R7, R18, R108). -/
abbrev hbmBytes : Nat := 576000000000

/-- May a range become the stack-linear region of a stack, from a row on (R403, R410): 512 MiB aligned, of whole pages, inside local
HBM and the stack, apart from the other regions, with a first row that is a multiple of 512? -/
def regionOk (s : State) (base size row : Nat) : Bool :=
  size != 0 && base % 536870912 == 0 && size % 65536 == 0 && row % 512 == 0 && base + size ≤ hbmBytes
    && 65536 * row + size ≤ stackBytes && !inStackRegion s base size

/-- A stack is ready, with its stack-linear region (R402, R403). -/
def stackReady (s : State) (k base size row : Nat) : State :=
  if k < 12 && !s.dev.ready0.getLsbD (32 + k) && regionOk s base size row then
    setReady0 { s with dev := { s.dev with regions := s.dev.regions ++ [(k, base, size, row)] } } (32 + k) true
  else s

/-- The secret key that the root of trust derives from the device secret and a measurement (R405; log 83). -/
def attestSecret (b : Board) (m : List Byte) : SlhSecret :=
  let seed (i : Nat) : List Byte := leBytes 32 (Config.attestSeed b.secret m i).toNat
  ⟨seed 0, seed 1, seed 2⟩

/-- Firmware establishes the keys of CXL IDE, and then sets IDE (R402, R405; log 83). -/
def establishIde (s : State) : State :=
  setReady1 { s with dev := { s.dev with ideKeys := some (Config.ideKey s.tickets) }, tickets := s.tickets + 1 } 24 true

/-- The attestation key pair is derived: the measurement of the image and the public key (R405). -/
def deriveKey (s : State) : State :=
  match s.board.flash with
  | none => s
  | some f =>
    let m := sha3_256 f.image
    setReady1 { s with dev := { s.dev with attest := some (m, slhPublic slh256f (attestSecret s.board m)) } } 25 true

/-- A function completes bring-up (R401 step 4, R402). -/
def functionReady (s : State) (fn : ReadyFunction) : State :=
  match fn with
  | .chip n => if n < 32 then setReady0 s n true else s
  | .stack k base size row => stackReady s k base size row
  | .edge e => if e < 4 then setReady0 s (44 + e) true else s
  | .host => if field s.dev.ready0 32 12 = 0xFFF then setReady0 s 51 true else s
  | .span p => if p < 24 then portUp s p else s
  | .ide => establishIde s
  | .attest => deriveKey s

/-- May a function complete now: after the firmware has started (R401), or, for the attestation key, once it is verified (R405)? -/
def mayBring (s : State) (fn : ReadyFunction) : Bool :=
  match fn with
  | .attest => s.dev.ready0.getLsbD 49
  | _ => s.dev.ready0.getLsbD 50

def execFunctionReady (fn : ReadyFunction) (s : State) : Res := whenever (mayBring s fn) s (functionReady s fn)

/-- The report of an attestation (R405): the nonce, the measurement, the security version, the fused minimum, DEVID, the public key,
and the signature over all of them. -/
structure Report where
  nonce       : List Byte
  measurement : List Byte
  version     : BitVec 32
  minVersion  : BitVec 32
  devid       : Nat
  key         : List Byte
  signature   : List Byte
  deriving DecidableEq, Repr

/-- The fields of a report in their order, without the signature. -/
def Report.fields (r : Report) : List Byte :=
  r.nonce ++ r.measurement ++ leBytes 4 r.version.toNat ++ leBytes 4 r.minVersion.toNat ++ leBytes 8 r.devid ++ r.key

/-- The report that firmware returns for the nonce in mailbox bytes 0x220 to 0x23F (R405), once the key is derived: with the signature
of 49,856 bytes of SLH-DSA-SHAKE-256f over all its fields. -/
def attestReport (s : State) : Option Report :=
  match s.board.flash, s.dev.attest with
  | some f, some (m, key) =>
    let r : Report := ⟨(List.range 32).map fun i => vget s.dev.mailbox (0x20 + i), m, f.version, s.board.minVersion, barWord s 0, key, []⟩
    let sig := slhSign slh256f (attestSecret s.board m) (leBytes 32 (Config.signRandom s.tickets).toNat) r.fields
    some { r with signature := sig }
  | _, _ => none

/-- Firmware returns the report in HDM (R405, step 2), from an address on (log 83). -/
def returnReport (s : State) (pa : Nat) : State :=
  match attestReport s with
  | none => s
  | some r =>
    if s.dev.ready0.getLsbD 50 && reachable pa (r.fields ++ r.signature).length
        && outsideOpen s pa (r.fields ++ r.signature).length true then
      (homeWrite s.ticket 0 pa (r.fields ++ r.signature)).1
    else s

/-! ### Encodings that are not assigned (R150) -/

def execIllegalInstructionFault (s : State) : Res :=
  whenever s.sq.present s (settle s (.fault { cause := 0x40, lanes := s.sq.cur.active }))

end Sys2Proof.Machine
end

