-- ==== Sys2Proof/Machine/Dispatch.lean ====
section
/-! DEFINITION. The dispatch of instructions and device steps to their meanings: one arm per constructor. -/

namespace Sys2Proof.Machine

def exec (i : Instr) (s : State) : Host.Outcome State Fault Refusal :=
  match i with
  | .mov16 d a => Sys2Proof.Machine.execMov16 d a s
  | .add16 d a => Sys2Proof.Machine.execAdd16 d a s
  | .sub16 d a => Sys2Proof.Machine.execSub16 d a s
  | .mul16 d a => Sys2Proof.Machine.execMul16 d a s
  | .and16 d a => Sys2Proof.Machine.execAnd16 d a s
  | .or16 d a => Sys2Proof.Machine.execOr16 d a s
  | .xor16 d a => Sys2Proof.Machine.execXor16 d a s
  | .shl16 d a => Sys2Proof.Machine.execShl16 d a s
  | .shr16 d a => Sys2Proof.Machine.execShr16 d a s
  | .sar16 d a => Sys2Proof.Machine.execSar16 d a s
  | .fadd16 d a => Sys2Proof.Machine.execFadd16 d a s
  | .fsub16 d a => Sys2Proof.Machine.execFsub16 d a s
  | .fmul16 d a => Sys2Proof.Machine.execFmul16 d a s
  | .fmin16 d a => Sys2Proof.Machine.execFmin16 d a s
  | .fmax16 d a => Sys2Proof.Machine.execFmax16 d a s
  | .fneg16 d a => Sys2Proof.Machine.execFneg16 d a s
  | .nop => Sys2Proof.Machine.execNop s
  | .guard p n c => Sys2Proof.Machine.execGuard p n c s
  | .ord sc o => Sys2Proof.Machine.execOrd sc o s
  | .yield => Sys2Proof.Machine.execYield s
  | .exit => Sys2Proof.Machine.execExit s
  | .ret => Sys2Proof.Machine.execRet s
  | .brk c => Sys2Proof.Machine.execBrk c s
  | .wait0 m => Sys2Proof.Machine.execWait0 m s
  | .add d a b => Sys2Proof.Machine.execAdd d a b s
  | .addS d a b => Sys2Proof.Machine.execAddS d a b s
  | .sub d a b => Sys2Proof.Machine.execSub d a b s
  | .subS d a b => Sys2Proof.Machine.execSubS d a b s
  | .mul d a b => Sys2Proof.Machine.execMul d a b s
  | .mulS d a b => Sys2Proof.Machine.execMulS d a b s
  | .mulhiI32 d a b => Sys2Proof.Machine.execMulhiI32 d a b s
  | .mulhiI32S d a b => Sys2Proof.Machine.execMulhiI32S d a b s
  | .mulhiN32 d a b => Sys2Proof.Machine.execMulhiN32 d a b s
  | .mulhiN32S d a b => Sys2Proof.Machine.execMulhiN32S d a b s
  | .and d a b => Sys2Proof.Machine.execAnd d a b s
  | .andS d a b => Sys2Proof.Machine.execAndS d a b s
  | .or d a b => Sys2Proof.Machine.execOr d a b s
  | .orS d a b => Sys2Proof.Machine.execOrS d a b s
  | .xor d a b => Sys2Proof.Machine.execXor d a b s
  | .xorS d a b => Sys2Proof.Machine.execXorS d a b s
  | .shl d a b => Sys2Proof.Machine.execShl d a b s
  | .shlS d a b => Sys2Proof.Machine.execShlS d a b s
  | .shr d a b => Sys2Proof.Machine.execShr d a b s
  | .shrS d a b => Sys2Proof.Machine.execShrS d a b s
  | .sar d a b => Sys2Proof.Machine.execSar d a b s
  | .sarS d a b => Sys2Proof.Machine.execSarS d a b s
  | .minI32 d a b => Sys2Proof.Machine.execMinI32 d a b s
  | .minI32S d a b => Sys2Proof.Machine.execMinI32S d a b s
  | .maxI32 d a b => Sys2Proof.Machine.execMaxI32 d a b s
  | .maxI32S d a b => Sys2Proof.Machine.execMaxI32S d a b s
  | .minN32 d a b => Sys2Proof.Machine.execMinN32 d a b s
  | .minN32S d a b => Sys2Proof.Machine.execMinN32S d a b s
  | .maxN32 d a b => Sys2Proof.Machine.execMaxN32 d a b s
  | .maxN32S d a b => Sys2Proof.Machine.execMaxN32S d a b s
  | .addsatI32 d a b => Sys2Proof.Machine.execAddsatI32 d a b s
  | .addsatI32S d a b => Sys2Proof.Machine.execAddsatI32S d a b s
  | .subsatI32 d a b => Sys2Proof.Machine.execSubsatI32 d a b s
  | .subsatI32S d a b => Sys2Proof.Machine.execSubsatI32S d a b s
  | .mad d a b => Sys2Proof.Machine.execMad d a b s
  | .madS d a b => Sys2Proof.Machine.execMadS d a b s
  | .prmt d a b => Sys2Proof.Machine.execPrmt d a b s
  | .prmtS d a b => Sys2Proof.Machine.execPrmtS d a b s
  | .bfe d a b => Sys2Proof.Machine.execBfe d a b s
  | .bfeS d a b => Sys2Proof.Machine.execBfeS d a b s
  | .bfi d a b => Sys2Proof.Machine.execBfi d a b s
  | .bfiS d a b => Sys2Proof.Machine.execBfiS d a b s
  | .setp p c a b => Sys2Proof.Machine.execSetp p c a b s
  | .setpS p c a b => Sys2Proof.Machine.execSetpS p c a b s
  | .selp d a p n => Sys2Proof.Machine.execSelp d a p n s
  | .popc d a => Sys2Proof.Machine.execPopc d a s
  | .clz d a => Sys2Proof.Machine.execClz d a s
  | .brev d a => Sys2Proof.Machine.execBrev d a s
  | .abs d a => Sys2Proof.Machine.execAbs d a s
  | .neg d a => Sys2Proof.Machine.execNeg d a s
  | .not d a => Sys2Proof.Machine.execNot d a s
  | .mov d a => Sys2Proof.Machine.execMov d a s
  | .movs d a => Sys2Proof.Machine.execMovs d a s
  | .sext d a w => Sys2Proof.Machine.execSext d a w s
  | .movx d a => Sys2Proof.Machine.execMovx d a s
  | .movxr d a => Sys2Proof.Machine.execMovxr d a s
  | .fadd d a b => Sys2Proof.Machine.execFadd d a b s
  | .faddS d a b => Sys2Proof.Machine.execFaddS d a b s
  | .fsub d a b => Sys2Proof.Machine.execFsub d a b s
  | .fsubS d a b => Sys2Proof.Machine.execFsubS d a b s
  | .fmul d a b => Sys2Proof.Machine.execFmul d a b s
  | .fmulS d a b => Sys2Proof.Machine.execFmulS d a b s
  | .ffma d a b => Sys2Proof.Machine.execFfma d a b s
  | .ffmaS d a b => Sys2Proof.Machine.execFfmaS d a b s
  | .fnma d a b => Sys2Proof.Machine.execFnma d a b s
  | .fnmaS d a b => Sys2Proof.Machine.execFnmaS d a b s
  | .fmin d a b => Sys2Proof.Machine.execFmin d a b s
  | .fminS d a b => Sys2Proof.Machine.execFminS d a b s
  | .fmax d a b => Sys2Proof.Machine.execFmax d a b s
  | .fmaxS d a b => Sys2Proof.Machine.execFmaxS d a b s
  | .fsetp p c a b => Sys2Proof.Machine.execFsetp p c a b s
  | .fsetpS p c a b => Sys2Proof.Machine.execFsetpS p c a b s
  | .fdiv d a b => Sys2Proof.Machine.execFdiv d a b s
  | .fdivS d a b => Sys2Proof.Machine.execFdivS d a b s
  | .fabs d a => Sys2Proof.Machine.execFabs d a s
  | .fneg d a => Sys2Proof.Machine.execFneg d a s
  | .frcp d a => Sys2Proof.Machine.execFrcp d a s
  | .frsq d a => Sys2Proof.Machine.execFrsq d a s
  | .fsqrt d a => Sys2Proof.Machine.execFsqrt d a s
  | .fex2 d a => Sys2Proof.Machine.execFex2 d a s
  | .flg2 d a => Sys2Proof.Machine.execFlg2 d a s
  | .fsin d a => Sys2Proof.Machine.execFsin d a s
  | .fcos d a => Sys2Proof.Machine.execFcos d a s
  | .ftanh d a => Sys2Proof.Machine.execFtanh d a s
  | .frnd d a m => Sys2Proof.Machine.execFrnd d a m s
  | .fclass d a => Sys2Proof.Machine.execFclass d a s
  | .hadd2 d a b => Sys2Proof.Machine.execHadd2 d a b s
  | .hadd2S d a b => Sys2Proof.Machine.execHadd2S d a b s
  | .hmul2 d a b => Sys2Proof.Machine.execHmul2 d a b s
  | .hmul2S d a b => Sys2Proof.Machine.execHmul2S d a b s
  | .hfma2 d a b => Sys2Proof.Machine.execHfma2 d a b s
  | .hfma2S d a b => Sys2Proof.Machine.execHfma2S d a b s
  | .badd2 d a b => Sys2Proof.Machine.execBadd2 d a b s
  | .badd2S d a b => Sys2Proof.Machine.execBadd2S d a b s
  | .bmul2 d a b => Sys2Proof.Machine.execBmul2 d a b s
  | .bmul2S d a b => Sys2Proof.Machine.execBmul2S d a b s
  | .bfma2 d a b => Sys2Proof.Machine.execBfma2 d a b s
  | .bfma2S d a b => Sys2Proof.Machine.execBfma2S d a b s
  | .dot2 d a b => Sys2Proof.Machine.execDot2 d a b s
  | .dot2S d a b => Sys2Proof.Machine.execDot2S d a b s
  | .idot4 d a b => Sys2Proof.Machine.execIdot4 d a b s
  | .idot4S d a b => Sys2Proof.Machine.execIdot4S d a b s
  | .cvtfi d a sc => Sys2Proof.Machine.execCvtfi d a sc s
  | .cvtif d a sc => Sys2Proof.Machine.execCvtif d a sc s
  | .cvtff d a sc => Sys2Proof.Machine.execCvtff d a sc s
  | .cvtpk d a sc => Sys2Proof.Machine.execCvtpk d a sc s
  | .cvtup d a sc => Sys2Proof.Machine.execCvtup d a sc s
  | .mxscale d a fm => Sys2Proof.Machine.execMxscale d a fm s
  | .mxq d a fm => Sys2Proof.Machine.execMxq d a fm s
  | .shflIdx d a b => Sys2Proof.Machine.execShflIdx d a b s
  | .shflXor d a b => Sys2Proof.Machine.execShflXor d a b s
  | .shflUp d a b => Sys2Proof.Machine.execShflUp d a b s
  | .shflDn d a b => Sys2Proof.Machine.execShflDn d a b s
  | .redsq d a o => Sys2Proof.Machine.execRedsq d a o s
  | .scan d a o => Sys2Proof.Machine.execScan d a o s
  | .voteBallot d a n => Sys2Proof.Machine.execVoteBallot d a n s
  | .voteAll d a n => Sys2Proof.Machine.execVoteAll d a n s
  | .voteAny d a n => Sys2Proof.Machine.execVoteAny d a n s
  | .voteUni d a n => Sys2Proof.Machine.execVoteUni d a n s
  | .voteBallotHi d a n => Sys2Proof.Machine.execVoteBallotHi d a n s
  | .matchAny d a => Sys2Proof.Machine.execMatchAny d a s
  | .matchFirst d a => Sys2Proof.Machine.execMatchFirst d a s
  | .sadd d a b => Sys2Proof.Machine.execSadd d a b s
  | .ssub d a b => Sys2Proof.Machine.execSsub d a b s
  | .smul d a b => Sys2Proof.Machine.execSmul d a b s
  | .smulhi d a b => Sys2Proof.Machine.execSmulhi d a b s
  | .sand d a b => Sys2Proof.Machine.execSand d a b s
  | .sor d a b => Sys2Proof.Machine.execSor d a b s
  | .sxor d a b => Sys2Proof.Machine.execSxor d a b s
  | .sshl d a b => Sys2Proof.Machine.execSshl d a b s
  | .sshr d a b => Sys2Proof.Machine.execSshr d a b s
  | .ssar d a b => Sys2Proof.Machine.execSsar d a b s
  | .smin d a b => Sys2Proof.Machine.execSmin d a b s
  | .smax d a b => Sys2Proof.Machine.execSmax d a b s
  | .sminn d a b => Sys2Proof.Machine.execSminn d a b s
  | .smaxn d a b => Sys2Proof.Machine.execSmaxn d a b s
  | .seq d a b => Sys2Proof.Machine.execSeq d a b s
  | .sne d a b => Sys2Proof.Machine.execSne d a b s
  | .slt d a b => Sys2Proof.Machine.execSlt d a b s
  | .sle d a b => Sys2Proof.Machine.execSle d a b s
  | .sltn d a b => Sys2Proof.Machine.execSltn d a b s
  | .slen d a b => Sys2Proof.Machine.execSlen d a b s
  | .smov d a => Sys2Proof.Machine.execSmov d a s
  | .sdivn d a b => Sys2Proof.Machine.execSdivn d a b s
  | .sremn d a b => Sys2Proof.Machine.execSremn d a b s
  | .sclz d a => Sys2Proof.Machine.execSclz d a s
  | .spopc d a => Sys2Proof.Machine.execSpopc d a s
  | .ssel d a b => Sys2Proof.Machine.execSsel d a b s
  | .rdsr d n => Sys2Proof.Machine.execRdsr d n s
  | .wrsr n a => Sys2Proof.Machine.execWrsr n a s
  | .time d => Sys2Proof.Machine.execTime d s
  | .rdlane d a b => Sys2Proof.Machine.execRdlane d a b s
  | .wrlane d a b => Sys2Proof.Machine.execWrlane d a b s
  | .pand d a x b y => Sys2Proof.Machine.execPand d a x b y s
  | .por d a x b y => Sys2Proof.Machine.execPor d a x b y s
  | .pxor d a x b y => Sys2Proof.Machine.execPxor d a x b y s
  | .pset d a => Sys2Proof.Machine.execPset d a s
  | .pget d a n => Sys2Proof.Machine.execPget d a n s
  | .pmask d a h => Sys2Proof.Machine.execPmask d a h s
  | .mfsr d n => Sys2Proof.Machine.execMfsr d n s
  | .mtsr n a => Sys2Proof.Machine.execMtsr n a s
  | .tlbinvAll a => Sys2Proof.Machine.execTlbinvAll a s
  | .tlbinvCtx a => Sys2Proof.Machine.execTlbinvCtx a s
  | .tlbinvPage a => Sys2Proof.Machine.execTlbinvPage a s
  | .cchopWb d a => Sys2Proof.Machine.execCchopWb d a s
  | .cchopWbinv d a => Sys2Proof.Machine.execCchopWbinv d a s
  | .cchopInv d a => Sys2Proof.Machine.execCchopInv d a s
  | .cchopUnkeep d a => Sys2Proof.Machine.execCchopUnkeep d a s
  | .survey d a => Sys2Proof.Machine.execSurvey d a s
  | .halt a => Sys2Proof.Machine.execHalt a s
  | .cxsave d a => Sys2Proof.Machine.execCxsave d a s
  | .cxrest d a => Sys2Proof.Machine.execCxrest d a s
  | .sret => Sys2Proof.Machine.execSret s
  | .lnkctlPause d a => Sys2Proof.Machine.execLnkctlPause d a s
  | .lnkctlResume d a => Sys2Proof.Machine.execLnkctlResume d a s
  | .lnkctlSpare d a => Sys2Proof.Machine.execLnkctlSpare d a s
  | .lnkctlWidth d a => Sys2Proof.Machine.execLnkctlWidth d a s
  | .lnkctlClrretry d a => Sys2Proof.Machine.execLnkctlClrretry d a s
  | .errrd d a => Sys2Proof.Machine.execErrrd d a s
  | .retainCreate d a => Sys2Proof.Machine.execRetainCreate d a s
  | .retainDestroy d a => Sys2Proof.Machine.execRetainDestroy d a s
  | .retainQuery d a => Sys2Proof.Machine.execRetainQuery d a s
  | .mcctlMetard d a => Sys2Proof.Machine.execMcctlMetard d a s
  | .mcctlMetawr d a => Sys2Proof.Machine.execMcctlMetawr d a s
  | .mcctlRetire d a => Sys2Proof.Machine.execMcctlRetire d a s
  | .wayctlQuar d => Sys2Proof.Machine.execWayctlQuar d s
  | .wayctlRelease d => Sys2Proof.Machine.execWayctlRelease d s
  | .wayctlDiscard d => Sys2Proof.Machine.execWayctlDiscard d s
  | .trap a => Sys2Proof.Machine.execTrap a s
  | .rett => Sys2Proof.Machine.execRett s
  | .addi d a imm => Sys2Proof.Machine.execAddi d a imm s
  | .andi d a imm => Sys2Proof.Machine.execAndi d a imm s
  | .ori d a imm => Sys2Proof.Machine.execOri d a imm s
  | .xori d a imm => Sys2Proof.Machine.execXori d a imm s
  | .shli d a imm => Sys2Proof.Machine.execShli d a imm s
  | .shri d a imm => Sys2Proof.Machine.execShri d a imm s
  | .sari d a imm => Sys2Proof.Machine.execSari d a imm s
  | .muli d a imm => Sys2Proof.Machine.execMuli d a imm s
  | .setpi p c a imm => Sys2Proof.Machine.execSetpi p c a imm s
  | .movi d imm => Sys2Proof.Machine.execMovi d imm s
  | .tlu d a t n => Sys2Proof.Machine.execTlu d a t n s
  | .lidx d a imm => Sys2Proof.Machine.execLidx d a imm s
  | .saddi d a imm => Sys2Proof.Machine.execSaddi d a imm s
  | .sandi d a imm => Sys2Proof.Machine.execSandi d a imm s
  | .sori d a imm => Sys2Proof.Machine.execSori d a imm s
  | .sxori d a imm => Sys2Proof.Machine.execSxori d a imm s
  | .sshli d a imm => Sys2Proof.Machine.execSshli d a imm s
  | .sshri d a imm => Sys2Proof.Machine.execSshri d a imm s
  | .ssari d a imm => Sys2Proof.Machine.execSsari d a imm s
  | .smuli d a imm => Sys2Proof.Machine.execSmuli d a imm s
  | .seqi d a imm => Sys2Proof.Machine.execSeqi d a imm s
  | .slti d a imm => Sys2Proof.Machine.execSlti d a imm s
  | .sltni d a imm => Sys2Proof.Machine.execSltni d a imm s
  | .bra x => Sys2Proof.Machine.execBra x s
  | .call x => Sys2Proof.Machine.execCall x s
  | .brp p n x => Sys2Proof.Machine.execBrp p n x s
  | .bsz r x => Sys2Proof.Machine.execBsz r x s
  | .bsnz r x => Sys2Proof.Machine.execBsnz r x s
  | .li r imm => Sys2Proof.Machine.execLi r imm s
  | .ext x => Sys2Proof.Machine.execExt x s
  | .wait l sc c t a => Sys2Proof.Machine.execWait l sc c t a s
  | .brx x t => Sys2Proof.Machine.execBrx x t s
  | .callx x t => Sys2Proof.Machine.execCallx x t s
  | .barSync b n => Sys2Proof.Machine.execBarSync b n s
  | .barArrive b n => Sys2Proof.Machine.execBarArrive b n s
  | .barWait b => Sys2Proof.Machine.execBarWait b s
  | .tbarSync b n => Sys2Proof.Machine.execTbarSync b n s
  | .tbarArrive b n => Sys2Proof.Machine.execTbarArrive b n s
  | .tbarWait b => Sys2Proof.Machine.execTbarWait b s
  | .setmode r z t w fm en => Sys2Proof.Machine.execSetmode r z t w fm en s
  | .ld w d a b => Sys2Proof.Machine.execLd w d a b s
  | .st w d a b => Sys2Proof.Machine.execSt w d a b s
  | .lds w d a b => Sys2Proof.Machine.execLds w d a b s
  | .sts w d a b => Sys2Proof.Machine.execSts w d a b s
  | .ldt w d a b => Sys2Proof.Machine.execLdt w d a b s
  | .stt w d a b => Sys2Proof.Machine.execStt w d a b s
  | .sld w d a b => Sys2Proof.Machine.execSld w d a b s
  | .sst w d a b => Sys2Proof.Machine.execSst w d a b s
  | .atomAdd d a b => Sys2Proof.Machine.execAtomAdd d a b s
  | .atomMinI32 d a b => Sys2Proof.Machine.execAtomMinI32 d a b s
  | .atomMaxI32 d a b => Sys2Proof.Machine.execAtomMaxI32 d a b s
  | .atomMinN32 d a b => Sys2Proof.Machine.execAtomMinN32 d a b s
  | .atomMaxN32 d a b => Sys2Proof.Machine.execAtomMaxN32 d a b s
  | .atomAnd d a b => Sys2Proof.Machine.execAtomAnd d a b s
  | .atomOr d a b => Sys2Proof.Machine.execAtomOr d a b s
  | .atomXor d a b => Sys2Proof.Machine.execAtomXor d a b s
  | .atom2Exch d a b => Sys2Proof.Machine.execAtom2Exch d a b s
  | .atom2Cas d a b => Sys2Proof.Machine.execAtom2Cas d a b s
  | .atom2FaddF32 d a b => Sys2Proof.Machine.execAtom2FaddF32 d a b s
  | .atom2FminF32 d a b => Sys2Proof.Machine.execAtom2FminF32 d a b s
  | .atom2FmaxF32 d a b => Sys2Proof.Machine.execAtom2FmaxF32 d a b s
  | .atom2AddI64 d a b => Sys2Proof.Machine.execAtom2AddI64 d a b s
  | .atom2ExchB64 d a b => Sys2Proof.Machine.execAtom2ExchB64 d a b s
  | .atom2CasB64 d a b => Sys2Proof.Machine.execAtom2CasB64 d a b s
  | .satom fm d a b => Sys2Proof.Machine.execSatom fm d a b s
  | .atoms fm d a b => Sys2Proof.Machine.execAtoms fm d a b s
  | .fence sc o y => Sys2Proof.Machine.execFence sc o y s
  | .pref l a b => Sys2Proof.Machine.execPref l a b s
  | .qpush d q => Sys2Proof.Machine.execQpush d q s
  | .qpushSpan d a => Sys2Proof.Machine.execQpushSpan d a s
  | .qpushTry d q b => Sys2Proof.Machine.execQpushTry d q b s
  | .qpushSpanTry d a b => Sys2Proof.Machine.execQpushSpanTry d a b s
  | .qpop d q => Sys2Proof.Machine.execQpop d q s
  | .qpopSpan d a => Sys2Proof.Machine.execQpopSpan d a s
  | .qpopTry d q b => Sys2Proof.Machine.execQpopTry d q b s
  | .qpopSpanTry d a b => Sys2Proof.Machine.execQpopSpanTry d a b s
  | .semAdd d a => Sys2Proof.Machine.execSemAdd d a s
  | .semWait d a b => Sys2Proof.Machine.execSemWait d a b s
  | .semRead a b => Sys2Proof.Machine.execSemRead a b s
  | .launch d a => Sys2Proof.Machine.execLaunch d a s
  | .cpyGs d a b => Sys2Proof.Machine.execCpyGs d a b s
  | .cpySg d a b => Sys2Proof.Machine.execCpySg d a b s
  | .cpyGg d a b => Sys2Proof.Machine.execCpyGg d a b s
  | .cpySp d a b => Sys2Proof.Machine.execCpySp d a b s
  | .cpyGs2 d a b => Sys2Proof.Machine.execCpyGs2 d a b s
  | .cpySg2 d a b => Sys2Proof.Machine.execCpySg2 d a b s
  | .cpyPin d a b => Sys2Proof.Machine.execCpyPin d a b s
  | .bload fm d a b => Sys2Proof.Machine.execBload fm d a b s
  | .xformToplanes d a b => Sys2Proof.Machine.execXformToplanes d a b s
  | .xformFromplanes d a b => Sys2Proof.Machine.execXformFromplanes d a b s
  | .xformFill d a b => Sys2Proof.Machine.execXformFill d a b s
  | .xformZero d a b => Sys2Proof.Machine.execXformZero d a b s
  | .xformChecksum d a b => Sys2Proof.Machine.execXformChecksum d a b s
  | .tmac p d a b => Sys2Proof.Machine.execTmac p d a b s
  | .tdrain fm d a b => Sys2Proof.Machine.execTdrain fm d a b s
  | .taccZero a b => Sys2Proof.Machine.execTaccZero a b s
  | .taccRead d a b => Sys2Proof.Machine.execTaccRead d a b s
  | .taccWrite d a b => Sys2Proof.Machine.execTaccWrite d a b s
  | .taccAdd d a b => Sys2Proof.Machine.execTaccAdd d a b s
  | .taccScale d a b => Sys2Proof.Machine.execTaccScale d a b s
  | .bankCompute => Sys2Proof.Machine.execBankCompute s
  | .bankStorage => Sys2Proof.Machine.execBankStorage s
  | .bankAttach => Sys2Proof.Machine.execBankAttach s
  | .bankDetach => Sys2Proof.Machine.execBankDetach s
  | .bankQuery d a => Sys2Proof.Machine.execBankQuery d a s
  | .dotv fm d a b => Sys2Proof.Machine.execDotv fm d a b s
  | .arrLogic d a b => Sys2Proof.Machine.execArrLogic d a b s
  | .arrAddsub d a b => Sys2Proof.Machine.execArrAddsub d a b s
  | .arrMul d a b => Sys2Proof.Machine.execArrMul d a b s
  | .arrCmp d a b => Sys2Proof.Machine.execArrCmp d a b s
  | .arrSel d a b => Sys2Proof.Machine.execArrSel d a b s
  | .arrShift d a b => Sys2Proof.Machine.execArrShift d a b s
  | .arrPopc d a => Sys2Proof.Machine.execArrPopc d a s
  | .arrBcast d => Sys2Proof.Machine.execArrBcast d s
  | .arrxArm d a b => Sys2Proof.Machine.execArrxArm d a b s
  | .arrxDisarm d a => Sys2Proof.Machine.execArrxDisarm d a s
  | .arrxLoad d a b => Sys2Proof.Machine.execArrxLoad d a b s
  | .arrxStore d a b => Sys2Proof.Machine.execArrxStore d a b s
  | .arrxFill d a => Sys2Proof.Machine.execArrxFill d a s
  | .arrxQuery d a => Sys2Proof.Machine.execArrxQuery d a s
  | .stkRowcopy d a b => Sys2Proof.Machine.execStkRowcopy d a b s
  | .stkRowzero d a => Sys2Proof.Machine.execStkRowzero d a s
  | .stkProbe d a => Sys2Proof.Machine.execStkProbe d a s
  | .lnkTurn d a => Sys2Proof.Machine.execLnkTurn d a s
  | .lnkStatus d a => Sys2Proof.Machine.execLnkStatus d a s
  | .systemEventDelivery => Sys2Proof.Machine.execSystemEventDelivery s
  | .quantumExpiry sq => Sys2Proof.Machine.execQuantumExpiry sq s
  | .blockedInstructionComplete sq k => Sys2Proof.Machine.execBlockedInstructionComplete sq k s
  | .loadComplete sq k => Sys2Proof.Machine.execLoadComplete sq k s
  | .storeComplete sq k => Sys2Proof.Machine.execStoreComplete sq k s
  | .atomicComplete sq k => Sys2Proof.Machine.execAtomicComplete sq k s
  | .engineOperationComplete sq k => Sys2Proof.Machine.execEngineOperationComplete sq k s
  | .lastPush sq k => Sys2Proof.Machine.execLastPush sq k s
  | .squadRetire sq => Sys2Proof.Machine.execSquadRetire sq s
  | .notPresentReplay sq k => Sys2Proof.Machine.execNotPresentReplay sq k s
  | .workQueueEntryTake q => Sys2Proof.Machine.execWorkQueueEntryTake q s
  | .dependencePoll => Sys2Proof.Machine.execDependencePoll s
  | .crewPlacement g n cores => Sys2Proof.Machine.execCrewPlacement g n cores s
  | .timedBudgetExceeded g => Sys2Proof.Machine.execTimedBudgetExceeded g s
  | .preemptDraining u => Sys2Proof.Machine.execPreemptDraining u s
  | .preemptSaving u => Sys2Proof.Machine.execPreemptSaving u s
  | .preemptSaved u => Sys2Proof.Machine.execPreemptSaved u s
  | .preemptRestoring u cores => Sys2Proof.Machine.execPreemptRestoring u cores s
  | .preemptResumed u => Sys2Proof.Machine.execPreemptResumed u s
  | .partitionStart p => Sys2Proof.Machine.execPartitionStart p s
  | .partitionStartComplete p => Sys2Proof.Machine.execPartitionStartComplete p s
  | .partitionResize p => Sys2Proof.Machine.execPartitionResize p s
  | .resizeRelease p => Sys2Proof.Machine.execResizeRelease p s
  | .resizeDone p => Sys2Proof.Machine.execResizeDone p s
  | .partitionStop p => Sys2Proof.Machine.execPartitionStop p s
  | .endContext p ctx => Sys2Proof.Machine.execEndContext p ctx s
  | .endContextComplete p => Sys2Proof.Machine.execEndContextComplete p s
  | .partctlInvalidCmd p => Sys2Proof.Machine.execPartctlInvalidCmd p s
  | .reservationWrite p v => Sys2Proof.Machine.execReservationWrite p v s
  | .linkTurnStart n => Sys2Proof.Machine.execLinkTurnStart n s
  | .turnDeadTimeEnd n => Sys2Proof.Machine.execTurnDeadTimeEnd n s
  | .flitReplay n g lane => Sys2Proof.Machine.execFlitReplay n g lane s
  | .retryWindowExpiry => Sys2Proof.Machine.execRetryWindowExpiry s
  | .spanPortDown p => Sys2Proof.Machine.execSpanPortDown p s
  | .spanPortTrained p => Sys2Proof.Machine.execSpanPortTrained p s
  | .peerAccessTimeout peer => Sys2Proof.Machine.execPeerAccessTimeout peer s
  | .peerRequest rq => Sys2Proof.Machine.execPeerRequest rq s
  | .hostHdmWrite pa bytes bad => Sys2Proof.Machine.execHostHdmWrite pa bytes bad s
  | .hostHdmRead pa n => Sys2Proof.Machine.execHostHdmRead pa n s
  | .doorbell => Sys2Proof.Machine.execDoorbell s
  | .qcfgWrite q v => Sys2Proof.Machine.execQcfgWrite q v s
  | .qwriteWrite q v => Sys2Proof.Machine.execQwriteWrite q v s
  | .bar0Write off width v => Sys2Proof.Machine.execBar0Write off width v s
  | .sysstatWrite v => Sys2Proof.Machine.execSysstatWrite v s
  | .errpopWrite v => Sys2Proof.Machine.execErrpopWrite v s
  | .mcwinEnable v => Sys2Proof.Machine.execMcwinEnable v s
  | .mcwinDisable v => Sys2Proof.Machine.execMcwinDisable v s
  | .mcwinExpansionDone w => Sys2Proof.Machine.execMcwinExpansionDone w s
  | .surveyctlWrite v => Sys2Proof.Machine.execSurveyctlWrite v s
  | .surveyCompareLatch => Sys2Proof.Machine.execSurveyCompareLatch s
  | .surveyWriteOutDone => Sys2Proof.Machine.execSurveyWriteOutDone s
  | .lnklanesWrite v => Sys2Proof.Machine.execLnklanesWrite v s
  | .keepbaseWrite v => Sys2Proof.Machine.execKeepbaseWrite v s
  | .systemRegisterWrite n v => Sys2Proof.Machine.execSystemRegisterWrite n v s
  | .planeScrub bank => Sys2Proof.Machine.execPlaneScrub bank s
  | .llcScrub sec finding => Sys2Proof.Machine.execLlcScrub sec finding s
  | .hbmScrub sec finding => Sys2Proof.Machine.execHbmScrub sec finding s
  | .bankRetentionEntry bank => Sys2Proof.Machine.execBankRetentionEntry bank s
  | .bankRetentionExit bank => Sys2Proof.Machine.execBankRetentionExit bank s
  | .wayGroupRetentionEntry slice g => Sys2Proof.Machine.execWayGroupRetentionEntry slice g s
  | .wayGroupRetentionExit slice g => Sys2Proof.Machine.execWayGroupRetentionExit slice g s
  | .overcurrentWarning => Sys2Proof.Machine.execOvercurrentWarning s
  | .overcurrentClear => Sys2Proof.Machine.execOvercurrentClear s
  | .thermalTrip => Sys2Proof.Machine.execThermalTrip s
  | .powerOnReset => Sys2Proof.Machine.execPowerOnReset s
  | .cxlConventionalReset => Sys2Proof.Machine.execCxlConventionalReset s
  | .meridianLock => Sys2Proof.Machine.execMeridianLock s
  | .firmwareVerify status entry => Sys2Proof.Machine.execFirmwareVerify status entry s
  | .functionReady fn => Sys2Proof.Machine.execFunctionReady fn s
  | .illegalInstructionFault => Sys2Proof.Machine.execIllegalInstructionFault s

end Sys2Proof.Machine
end

