-- ==== Sys2Proof/Machine/Elapse.lean ====
section
/-! DEFINITION. The passing of time before a move (R137, R347, R406, R407; log 4). -/

namespace Sys2Proof.Machine

/-- Cores that hold a crew of a grid. -/
def coresUsed (s : State) (g : Grid) : Nat := (setAddAll [] ((s.crews.filter fun c => c.grid == g.id).map (·.core))).length

/-- USED of a timed grid counts the microseconds that have passed, for each core that holds a crew of it; one that then exceeds its
budget is demoted (R347). -/
def countUsed (s : State) : State :=
  let t := { s with grids := s.grids.map fun g =>
      if g.timed then
        { g with used := g.used + (s.meridian.toNat / 1000 - g.usedAt / 1000) * coresUsed s g, usedAt := s.meridian.toNat }
      else g }
  (s.grids.map (·.id)).foldl demote t

/-- The squad whose threads or operations a device step concerns. -/
def stepOf : Instr → Option Nat
  | .blockedInstructionComplete q _ => some q
  | .quantumExpiry q => some q
  | .loadComplete q _ => some q
  | .storeComplete q _ => some q
  | .atomicComplete q _ => some q
  | .engineOperationComplete q _ => some q
  | .lastPush q _ => some q
  | .notPresentReplay q _ => some q
  | .squadRetire q => some q
  | _ => none

/-- The core that stands for the die of an HBM sector: its stack's E-die. -/
def sectorCore (s : State) (sec : Nat) : Nat := edgeCore (stackEdge (stackOf s (physOf (64 * sec))))

/-- The core that stands for the die where a device step that concerns no squad happens: the scrubbed structure's, or that of a link's
end A; the H-die's, which the management core shares, for the rest (log 114). -/
def stepCore (s : State) : Instr → Nat
  | .planeScrub bank => bank / 32
  | .bankRetentionEntry bank => bank / 32
  | .bankRetentionExit bank => bank / 32
  | .llcScrub sec _ => 4 * sliceOf (64 * sec)
  | .wayGroupRetentionEntry slice _ => 4 * slice
  | .wayGroupRetentionExit slice _ => 4 * slice
  | .hbmScrub sec _ => sectorCore s sec
  | .linkTurnStart n => linkCore n
  | .turnDeadTimeEnd n => linkCore n
  | .flitReplay n _ _ => linkCore n
  | _ => Config.mcCore

/-- The core that stands for the die where an upset happens (R374). -/
def upsetCore (s : State) : Upset → Nat
  | .corrected => Config.mcCore
  | .storage bank _ => bank / 32
  | .latent _ => Config.mcCore
  | .accumulator crew _ _ => ((s.crew? crew).map (·.core)).getD Config.mcCore
  | .vreg squad _ _ => squadCore s squad
  | .sreg squad _ => squadCore s squad
  | .l1 core _ => core
  | .tlb _ => Config.mcCore
  | .lane link _ _ => linkCore link

/-- The core that stands for the die that acts in a move (R137, R406). -/
def actor (s : State) (m : Move) : Nat :=
  match m with
  | .squad id => squadCore s id
  | .event i => ((stepOf i).map (squadCore s)).getD (stepCore s i)
  | .upset u => upsetCore s u
  | .evictL1 core _ => core
  | .evictLlc a => 4 * sliceOf a
  | _ => Config.mcCore

/-- Time passes before a move, on the die that acts; a core that issues counts clocks. A pair of L1s that waits to
separate tries to (R95). Ticks that the survey waits for are latched, unless the move is that latch. -/
def elapse (s : State) (dt : Nat) (m : Move) : State :=
  let t := advance s dt (actor s m)
  let t := match m with
    | .squad _ => countClocks t t.lastCore
    | _ => t
  let t := t.fused.foldl refuse (countUsed t)
  match m with
  | .event .surveyCompareLatch => t
  | _ => latchDue 64 t

end Sys2Proof.Machine
end

