-- ==== Sys2Proof/Machine/Ports.lean ====
section
/-! DEFINITION. The port class to which each instruction issues (R10, R168, R190, R221, R247, R323). -/

namespace Sys2Proof.Machine

/-- Port classes (R10). The two ports F0 and F1 take the same instructions. -/
inductive Port where
  | s | i | f | m | e
  deriving DecidableEq, Repr

/-- The port class of an instruction; none for the device's own steps, which no quadrant issues. -/
def portOf : Instr → Option Port
  | .mov16 _ _ => some .i
  | .add16 _ _ => some .i
  | .sub16 _ _ => some .i
  | .mul16 _ _ => some .i
  | .and16 _ _ => some .i
  | .or16 _ _ => some .i
  | .xor16 _ _ => some .i
  | .shl16 _ _ => some .i
  | .shr16 _ _ => some .i
  | .sar16 _ _ => some .i
  | .fadd16 _ _ => some .f
  | .fsub16 _ _ => some .f
  | .fmul16 _ _ => some .f
  | .fmin16 _ _ => some .f
  | .fmax16 _ _ => some .f
  | .fneg16 _ _ => some .f
  | .nop => some .s
  | .guard _ _ _ => some .s
  | .ord _ _ => some .s
  | .yield => some .s
  | .exit => some .s
  | .ret => some .s
  | .brk _ => some .s
  | .wait0 _ => some .s
  | .add _ _ _ => some .i
  | .addS _ _ _ => some .i
  | .sub _ _ _ => some .i
  | .subS _ _ _ => some .i
  | .mul _ _ _ => some .i
  | .mulS _ _ _ => some .i
  | .mulhiI32 _ _ _ => some .i
  | .mulhiI32S _ _ _ => some .i
  | .mulhiN32 _ _ _ => some .i
  | .mulhiN32S _ _ _ => some .i
  | .and _ _ _ => some .i
  | .andS _ _ _ => some .i
  | .or _ _ _ => some .i
  | .orS _ _ _ => some .i
  | .xor _ _ _ => some .i
  | .xorS _ _ _ => some .i
  | .shl _ _ _ => some .i
  | .shlS _ _ _ => some .i
  | .shr _ _ _ => some .i
  | .shrS _ _ _ => some .i
  | .sar _ _ _ => some .i
  | .sarS _ _ _ => some .i
  | .minI32 _ _ _ => some .i
  | .minI32S _ _ _ => some .i
  | .maxI32 _ _ _ => some .i
  | .maxI32S _ _ _ => some .i
  | .minN32 _ _ _ => some .i
  | .minN32S _ _ _ => some .i
  | .maxN32 _ _ _ => some .i
  | .maxN32S _ _ _ => some .i
  | .addsatI32 _ _ _ => some .i
  | .addsatI32S _ _ _ => some .i
  | .subsatI32 _ _ _ => some .i
  | .subsatI32S _ _ _ => some .i
  | .mad _ _ _ => some .i
  | .madS _ _ _ => some .i
  | .prmt _ _ _ => some .i
  | .prmtS _ _ _ => some .i
  | .bfe _ _ _ => some .i
  | .bfeS _ _ _ => some .i
  | .bfi _ _ _ => some .i
  | .bfiS _ _ _ => some .i
  | .setp _ _ _ _ => some .i
  | .setpS _ _ _ _ => some .i
  | .selp _ _ _ _ => some .i
  | .popc _ _ => some .i
  | .clz _ _ => some .i
  | .brev _ _ => some .i
  | .abs _ _ => some .i
  | .neg _ _ => some .i
  | .not _ _ => some .i
  | .mov _ _ => some .i
  | .movs _ _ => some .i
  | .sext _ _ _ => some .i
  | .movx _ _ => some .i
  | .movxr _ _ => some .i
  | .fadd _ _ _ => some .f
  | .faddS _ _ _ => some .f
  | .fsub _ _ _ => some .f
  | .fsubS _ _ _ => some .f
  | .fmul _ _ _ => some .f
  | .fmulS _ _ _ => some .f
  | .ffma _ _ _ => some .f
  | .ffmaS _ _ _ => some .f
  | .fnma _ _ _ => some .f
  | .fnmaS _ _ _ => some .f
  | .fmin _ _ _ => some .f
  | .fminS _ _ _ => some .f
  | .fmax _ _ _ => some .f
  | .fmaxS _ _ _ => some .f
  | .fsetp _ _ _ _ => some .f
  | .fsetpS _ _ _ _ => some .f
  | .fdiv _ _ _ => some .f
  | .fdivS _ _ _ => some .f
  | .fabs _ _ => some .f
  | .fneg _ _ => some .f
  | .frcp _ _ => some .f
  | .frsq _ _ => some .f
  | .fsqrt _ _ => some .f
  | .fex2 _ _ => some .f
  | .flg2 _ _ => some .f
  | .fsin _ _ => some .f
  | .fcos _ _ => some .f
  | .ftanh _ _ => some .f
  | .frnd _ _ _ => some .f
  | .fclass _ _ => some .f
  | .hadd2 _ _ _ => some .f
  | .hadd2S _ _ _ => some .f
  | .hmul2 _ _ _ => some .f
  | .hmul2S _ _ _ => some .f
  | .hfma2 _ _ _ => some .f
  | .hfma2S _ _ _ => some .f
  | .badd2 _ _ _ => some .f
  | .badd2S _ _ _ => some .f
  | .bmul2 _ _ _ => some .f
  | .bmul2S _ _ _ => some .f
  | .bfma2 _ _ _ => some .f
  | .bfma2S _ _ _ => some .f
  | .dot2 _ _ _ => some .f
  | .dot2S _ _ _ => some .f
  | .idot4 _ _ _ => some .f
  | .idot4S _ _ _ => some .f
  | .cvtfi _ _ _ => some .f
  | .cvtif _ _ _ => some .f
  | .cvtff _ _ _ => some .f
  | .cvtpk _ _ _ => some .f
  | .cvtup _ _ _ => some .f
  | .mxscale _ _ _ => some .f
  | .mxq _ _ _ => some .f
  | .shflIdx _ _ _ => some .i
  | .shflXor _ _ _ => some .i
  | .shflUp _ _ _ => some .i
  | .shflDn _ _ _ => some .i
  | .redsq _ _ _ => some .i
  | .scan _ _ _ => some .i
  | .voteBallot _ _ _ => some .i
  | .voteAll _ _ _ => some .i
  | .voteAny _ _ _ => some .i
  | .voteUni _ _ _ => some .i
  | .voteBallotHi _ _ _ => some .i
  | .matchAny _ _ => some .i
  | .matchFirst _ _ => some .i
  | .sadd _ _ _ => some .s
  | .ssub _ _ _ => some .s
  | .smul _ _ _ => some .s
  | .smulhi _ _ _ => some .s
  | .sand _ _ _ => some .s
  | .sor _ _ _ => some .s
  | .sxor _ _ _ => some .s
  | .sshl _ _ _ => some .s
  | .sshr _ _ _ => some .s
  | .ssar _ _ _ => some .s
  | .smin _ _ _ => some .s
  | .smax _ _ _ => some .s
  | .sminn _ _ _ => some .s
  | .smaxn _ _ _ => some .s
  | .seq _ _ _ => some .s
  | .sne _ _ _ => some .s
  | .slt _ _ _ => some .s
  | .sle _ _ _ => some .s
  | .sltn _ _ _ => some .s
  | .slen _ _ _ => some .s
  | .smov _ _ => some .s
  | .sdivn _ _ _ => some .s
  | .sremn _ _ _ => some .s
  | .sclz _ _ => some .s
  | .spopc _ _ => some .s
  | .ssel _ _ _ => some .s
  | .rdsr _ _ => some .s
  | .wrsr _ _ => some .s
  | .time _ => some .s
  | .rdlane _ _ _ => some .s
  | .wrlane _ _ _ => some .s
  | .pand _ _ _ _ _ => some .s
  | .por _ _ _ _ _ => some .s
  | .pxor _ _ _ _ _ => some .s
  | .pset _ _ => some .s
  | .pget _ _ _ => some .s
  | .pmask _ _ _ => some .s
  | .mfsr _ _ => some .s
  | .mtsr _ _ => some .s
  | .tlbinvAll _ => some .s
  | .tlbinvCtx _ => some .s
  | .tlbinvPage _ => some .s
  | .cchopWb _ _ => some .s
  | .cchopWbinv _ _ => some .s
  | .cchopInv _ _ => some .s
  | .cchopUnkeep _ _ => some .s
  | .survey _ _ => some .s
  | .halt _ => some .s
  | .cxsave _ _ => some .s
  | .cxrest _ _ => some .s
  | .sret => some .s
  | .lnkctlPause _ _ => some .s
  | .lnkctlResume _ _ => some .s
  | .lnkctlSpare _ _ => some .s
  | .lnkctlWidth _ _ => some .s
  | .lnkctlClrretry _ _ => some .s
  | .errrd _ _ => some .s
  | .retainCreate _ _ => some .s
  | .retainDestroy _ _ => some .s
  | .retainQuery _ _ => some .s
  | .mcctlMetard _ _ => some .s
  | .mcctlMetawr _ _ => some .s
  | .mcctlRetire _ _ => some .s
  | .wayctlQuar _ => some .s
  | .wayctlRelease _ => some .s
  | .wayctlDiscard _ => some .s
  | .trap _ => some .s
  | .rett => some .s
  | .addi _ _ _ => some .i
  | .andi _ _ _ => some .i
  | .ori _ _ _ => some .i
  | .xori _ _ _ => some .i
  | .shli _ _ _ => some .i
  | .shri _ _ _ => some .i
  | .sari _ _ _ => some .i
  | .muli _ _ _ => some .i
  | .setpi _ _ _ _ => some .i
  | .movi _ _ => some .i
  | .tlu _ _ _ _ => some .i
  | .lidx _ _ _ => some .i
  | .saddi _ _ _ => some .s
  | .sandi _ _ _ => some .s
  | .sori _ _ _ => some .s
  | .sxori _ _ _ => some .s
  | .sshli _ _ _ => some .s
  | .sshri _ _ _ => some .s
  | .ssari _ _ _ => some .s
  | .smuli _ _ _ => some .s
  | .seqi _ _ _ => some .s
  | .slti _ _ _ => some .s
  | .sltni _ _ _ => some .s
  | .bra _ => some .s
  | .call _ => some .s
  | .brp _ _ _ => some .s
  | .bsz _ _ => some .s
  | .bsnz _ _ => some .s
  | .li _ _ => some .s
  | .ext _ => some .s
  | .wait _ _ _ _ _ => some .s
  | .brx _ _ => some .s
  | .callx _ _ => some .s
  | .barSync _ _ => some .m
  | .barArrive _ _ => some .m
  | .barWait _ => some .m
  | .tbarSync _ _ => some .m
  | .tbarArrive _ _ => some .m
  | .tbarWait _ => some .m
  | .setmode _ _ _ _ _ _ => some .s
  | .ld _ _ _ _ => some .m
  | .st _ _ _ _ => some .m
  | .lds _ _ _ _ => some .m
  | .sts _ _ _ _ => some .m
  | .ldt _ _ _ _ => some .m
  | .stt _ _ _ _ => some .m
  | .sld _ _ _ _ => some .m
  | .sst _ _ _ _ => some .m
  | .atomAdd _ _ _ => some .m
  | .atomMinI32 _ _ _ => some .m
  | .atomMaxI32 _ _ _ => some .m
  | .atomMinN32 _ _ _ => some .m
  | .atomMaxN32 _ _ _ => some .m
  | .atomAnd _ _ _ => some .m
  | .atomOr _ _ _ => some .m
  | .atomXor _ _ _ => some .m
  | .atom2Exch _ _ _ => some .m
  | .atom2Cas _ _ _ => some .m
  | .atom2FaddF32 _ _ _ => some .m
  | .atom2FminF32 _ _ _ => some .m
  | .atom2FmaxF32 _ _ _ => some .m
  | .atom2AddI64 _ _ _ => some .m
  | .atom2ExchB64 _ _ _ => some .m
  | .atom2CasB64 _ _ _ => some .m
  | .satom _ _ _ _ => some .m
  | .atoms _ _ _ _ => some .m
  | .fence _ _ _ => some .m
  | .pref _ _ _ => some .m
  | .qpush _ _ => some .m
  | .qpushSpan _ _ => some .m
  | .qpushTry _ _ _ => some .m
  | .qpushSpanTry _ _ _ => some .m
  | .qpop _ _ => some .m
  | .qpopSpan _ _ => some .m
  | .qpopTry _ _ _ => some .m
  | .qpopSpanTry _ _ _ => some .m
  | .semAdd _ _ => some .m
  | .semWait _ _ _ => some .m
  | .semRead _ _ => some .m
  | .launch _ _ => some .m
  | .cpyGs _ _ _ => some .e
  | .cpySg _ _ _ => some .e
  | .cpyGg _ _ _ => some .e
  | .cpySp _ _ _ => some .e
  | .cpyGs2 _ _ _ => some .e
  | .cpySg2 _ _ _ => some .e
  | .cpyPin _ _ _ => some .e
  | .bload _ _ _ _ => some .e
  | .xformToplanes _ _ _ => some .e
  | .xformFromplanes _ _ _ => some .e
  | .xformFill _ _ _ => some .e
  | .xformZero _ _ _ => some .e
  | .xformChecksum _ _ _ => some .e
  | .tmac _ _ _ _ => some .e
  | .tdrain _ _ _ _ => some .e
  | .taccZero _ _ => some .e
  | .taccRead _ _ _ => some .e
  | .taccWrite _ _ _ => some .e
  | .taccAdd _ _ _ => some .e
  | .taccScale _ _ _ => some .e
  | .bankCompute => some .e
  | .bankStorage => some .e
  | .bankAttach => some .e
  | .bankDetach => some .e
  | .bankQuery _ _ => some .e
  | .dotv _ _ _ _ => some .e
  | .arrLogic _ _ _ => some .e
  | .arrAddsub _ _ _ => some .e
  | .arrMul _ _ _ => some .e
  | .arrCmp _ _ _ => some .e
  | .arrSel _ _ _ => some .e
  | .arrShift _ _ _ => some .e
  | .arrPopc _ _ => some .e
  | .arrBcast _ => some .e
  | .arrxArm _ _ _ => some .e
  | .arrxDisarm _ _ => some .e
  | .arrxLoad _ _ _ => some .e
  | .arrxStore _ _ _ => some .e
  | .arrxFill _ _ => some .e
  | .arrxQuery _ _ => some .e
  | .stkRowcopy _ _ _ => some .e
  | .stkRowzero _ _ => some .e
  | .stkProbe _ _ => some .e
  | .lnkTurn _ _ => some .e
  | .lnkStatus _ _ => some .e
  | .systemEventDelivery => none
  | .quantumExpiry _ => none
  | .blockedInstructionComplete _ _ => none
  | .loadComplete _ _ => none
  | .storeComplete _ _ => none
  | .atomicComplete _ _ => none
  | .engineOperationComplete _ _ => none
  | .lastPush _ _ => none
  | .squadRetire _ => none
  | .notPresentReplay _ _ => none
  | .workQueueEntryTake _ => none
  | .dependencePoll => none
  | .crewPlacement _ _ _ => none
  | .timedBudgetExceeded _ => none
  | .preemptDraining _ => none
  | .preemptSaving _ => none
  | .preemptSaved _ => none
  | .preemptRestoring _ _ => none
  | .preemptResumed _ => none
  | .partitionStart _ => none
  | .partitionStartComplete _ => none
  | .partitionResize _ => none
  | .resizeRelease _ => none
  | .resizeDone _ => none
  | .partitionStop _ => none
  | .endContext _ _ => none
  | .endContextComplete _ => none
  | .partctlInvalidCmd _ => none
  | .reservationWrite _ _ => none
  | .linkTurnStart _ => none
  | .turnDeadTimeEnd _ => none
  | .flitReplay _ _ _ => none
  | .retryWindowExpiry => none
  | .spanPortDown _ => none
  | .spanPortTrained _ => none
  | .peerAccessTimeout _ => none
  | .peerRequest _ => none
  | .hostHdmWrite _ _ _ => none
  | .hostHdmRead _ _ => none
  | .doorbell => none
  | .qcfgWrite _ _ => none
  | .qwriteWrite _ _ => none
  | .bar0Write _ _ _ => none
  | .sysstatWrite _ => none
  | .errpopWrite _ => none
  | .mcwinEnable _ => none
  | .mcwinDisable _ => none
  | .mcwinExpansionDone _ => none
  | .surveyctlWrite _ => none
  | .surveyCompareLatch => none
  | .surveyWriteOutDone => none
  | .lnklanesWrite _ => none
  | .keepbaseWrite _ => none
  | .systemRegisterWrite _ _ => none
  | .planeScrub _ => none
  | .llcScrub _ _ => none
  | .hbmScrub _ _ => none
  | .bankRetentionEntry _ => none
  | .bankRetentionExit _ => none
  | .wayGroupRetentionEntry _ _ => none
  | .wayGroupRetentionExit _ _ => none
  | .overcurrentWarning => none
  | .overcurrentClear => none
  | .thermalTrip => none
  | .powerOnReset => none
  | .cxlConventionalReset => none
  | .meridianLock => none
  | .firmwareVerify _ _ => none
  | .functionReady _ => none
  | .illegalInstructionFault => none

end Sys2Proof.Machine
end

