-- ==== Sys2Proof/Machine/Moves.lean ====
section
/-! DEFINITION. The moves of the device (log 3): a quadrant issues, a device step happens, or the environment acts; and the move
where the plan gives none. -/

namespace Sys2Proof.Machine

/-- The state that an answer carries. -/
def Res.stateOr (r : Res) (s : State) : State :=
  match r with
  | .next t => t
  | .fault _ => s
  | .refused _ => s

/-- The prefixes of a sequence, in order, before its instruction. -/
def runPrefixes (ps : List Instr) (s : State) : State := ps.foldl (fun t p => Res.stateOr (exec p t) t) s

/-- The squad whose step runs issues its next sequence. -/
noncomputable def stepSquad (s : State) : Res :=
  match fetch s with
  | .idle => .next s
  | .wait t => .next (endSequence t)
  | .fault f t => .next (settle t (.fault f))
  | .illegal t => exec .illegalInstructionFault t
  | .reserved ps i t => .next (issueReserved (traitsOf i) (runPrefixes ps t))
  | .run ps i t => exec i (runPrefixes ps t)

/-! ### The order of a quadrant (R53, R351) -/

/-- Do two squads issue from one quadrant? -/
def Squad.besides (q r : Squad) : Bool := q.ident.core == r.ident.core && q.ident.quad == r.ident.quad && q.ident.id != r.ident.id

/-- The other squads of the quadrant of the squad that is checked out. -/
def rivals (s : State) : List Squad := s.squads.filter s.sq.besides

/-- What a squad shows of having issued: everything but the sequence it fetched and the marks that the choice of a group leaves. -/
def Squad.shown (q : Squad) : Squad := { q with cur := Cursor.none, thr := { q.thr with aside := 0, held := 0 } }

/-- The port class to which the squad that is checked out would issue now; none where it is no candidate (R351). -/
noncomputable def candidate (s : State) : Option Port :=
  if !canIssue s.sq || Config.quantum ≤ s.sq.thr.quantum then none
  else if (Res.stateOr (stepSquad s) s).sq.shown == s.sq.shown then none
  else match fetch s with
    | .run _ i _ => portOf i
    | .reserved _ i _ => portOf i
    | _ => some .s

/-- Does a squad come before another of its quadrant: a candidate for longer, or for as long in a lower slot? -/
def Squad.older (q r : Squad) : Bool := q.since < r.since || (q.since == r.since && q.ident.slot < r.ident.slot)

/-- The squad that issues when a quadrant turns to the squad that is checked out: among the candidates of its port class the one that
has been a candidate for longest. -/
noncomputable def turn (s : State) : State :=
  if (rivals s).isEmpty then s
  else match candidate s with
    | none => s
    | some p =>
      let first := (rivals s).foldl (fun b q =>
        if q.older b && ((s.checkout q.ident.id).bind candidate) == some p then q else b) s.sq
      (s.checkout first.ident.id).getD s

/-- A quadrant's move: the squad takes a due event (R321), or its quantum expires (R41), or a squad issues. -/
noncomputable def moveSquad (s : State) (id : Nat) : Res :=
  match s.checkout id with
  | none => .next s
  | some t =>
    if eventDue t t.sq then exec .systemEventDelivery t
    else if !canIssue t.sq then .next t
    else if Config.quantum ≤ t.sq.thr.quantum then exec (.quantumExpiry id) t
    else stepSquad (turn t)

/-- Does some quadrant hold two squads? -/
def crowded (s : State) : Bool := s.squads.any fun q => s.squads.any q.besides

/-- Is a squad a candidate? -/
noncomputable def isCandidate (s : State) (id : Nat) : Bool := ((s.checkout id).bind candidate).isSome

/-- Did the squad q, as it stands after a move from s, issue in it: the move was a quadrant's, the squad the one that ran, and it shows
it? -/
def issuedIn (s t : State) (m : Move) (q : Squad) : Bool :=
  (match m with
    | .squad _ => true
    | _ => false)
    && q.ident.id == t.sq.ident.id && (s.squad? q.ident.id).map Squad.shown != some q.shown

/-- After a move from s to t, a squad that is a candidate and was none before, or has issued, takes a new age; one that stays a candidate
keeps its age, whatever completes for it (R53, R351). -/
noncomputable def renewAges (s t : State) (m : Move) : State :=
  if !crowded t then t
  else t.mapSquads fun q =>
    if isCandidate t q.ident.id && (issuedIn s t m q || !isCandidate s q.ident.id) then { q with since := t.tickets } else q

/-- What one move does. -/
noncomputable def moveOnce (s : State) : Move → Res
  | .squad id => moveSquad s id
  | .event i => if (traitsOf i).device then exec i s else .next s
  | .upset u => .next (applyUpset s u)
  | .evictL1 core a => .next (evictRange s core a 1)
  | .evictLlc a => .next (evictLine s a)
  | .dropTlb n => .next (dropTlb s n)
  | .report pa => .next (returnReport s pa)
  | .idle => .next s

/-- One move, after which the quadrants' candidates have their ages. -/
noncomputable def moveDevice (s : State) (m : Move) : Res :=
  match moveOnce s m with
  | .next t => .next (renewAges s t m)
  | r => r

/-- Device steps of a squad's operations and threads that may be due. -/
noncomputable def squadSteps (q : Squad) : List Instr :=
  let id := q.ident.id
  q.thr.waits.map (fun w => Instr.blockedInstructionComplete id w.stamp)
    ++ q.ops.flatMap (fun o => [Instr.loadComplete id o.id, .storeComplete id o.id, .atomicComplete id o.id,
        .engineOperationComplete id o.id, .lastPush id o.id, .notPresentReplay id o.id])
    ++ [Instr.squadRetire id, .notPresentReplay id 0]

/-- Device steps of grids, units, partitions, queues and links that may be due. -/
noncomputable def deviceSteps (s : State) : List Instr :=
  s.units.flatMap (fun u => [Instr.preemptDraining u.id, .preemptSaving u.id, .preemptSaved u.id, .preemptResumed u.id]
      ++ (match findResume u s none (heldTeams u.heldC) with
        | some cores => [Instr.preemptRestoring u.id cores]
        | none => []))
    ++ (List.range 8).flatMap (fun p => [Instr.partitionStart p, .partitionResize p, .partitionStop p, .partctlInvalidCmd p,
        .partitionStartComplete p, .resizeRelease p, .resizeDone p, .endContextComplete p]
      ++ (s.part p).cmds.map fun v => .endContext p (field v 8 6))
    ++ (List.range 64).map Instr.workQueueEntryTake
    ++ s.grids.flatMap (fun g => (g.toPlace.map (·.1)).flatMap fun k => (findPlace s g k).toList.map (Instr.crewPlacement g.id k))
    ++ s.grids.map (fun g => Instr.timedBudgetExceeded g.id)
    ++ (List.range 52).flatMap (fun n => [Instr.linkTurnStart n, .turnDeadTimeEnd n])
    ++ (List.range 16).map Instr.mcwinExpansionDone
    ++ (List.range 256).map Instr.peerAccessTimeout
    ++ s.bankRet.map Instr.bankRetentionExit ++ s.wayRet.map (fun w => Instr.wayGroupRetentionExit w.1 w.2)
    ++ [Instr.surveyCompareLatch, .surveyWriteOutDone]

/-- Is a state the same device as another, whichever squad is checked out? -/
def sameDevice (s t : State) : Bool :=
  { t with sq := s.sq, parked := s.parked } == s && s.squads.length == t.squads.length && t.squads.all s.squads.contains

/-- Does a device step change something now? -/
noncomputable def effective (s : State) (i : Instr) : Bool := !sameDevice s (Res.stateOr (exec i s) s)

/-- The move where the plan gives none: a device step that has something to do, else the next squad that can issue (log 3). -/
noncomputable def defaultMove (s : State) : Move :=
  match (s.squads.flatMap squadSteps ++ deviceSteps s).find? (effective s) with
  | some i => .event i
  | none => match nextSquad s with
    | some id => .squad id
    | none => .idle

/-- The twelve bytes that a longest sequence can take, with an instruction word first and zeros after it. -/
def wordAndZeros (nbits w : Nat) : List Byte := wordBytes 12 (w % 2 ^ nbits)

/-- A state in which a system squad issues next: where none does, squad 0 of the management core starts at address 0 (R424;
log 2). It is the oldest of its quadrant. -/
def readyToFetch (s : State) : State :=
  let t := if s.sq.present && s.sq.ident.priv && canIssue s.sq && !eventDue s s.sq then s else startMc s 0
  { t with sq := { t.sq with since := 0, thr := { t.sq.thr with quantum := 0 } }
           parked := t.parked.map fun q => { q with since := q.since + 1 } }

/-- The address at which the squad issues next. -/
def fetchPc (s : State) : DWord :=
  match s.sq.thr.select with
  | some (_, pc, _) => pc
  | none => 0

/-- Bytes are stored where an instruction is fetched: their lines are raw and sound. -/
def placeCode (s : State) (a : Nat) (bs : List Byte) : State :=
  { s with mem := memPut s.mem a bs
           codes := s.codes.filter fun c => c.1 < a / 512 || a / 512 + 1 < c.1
           poison := s.poison.filter fun c => c < a / 64 || a / 64 + 1 < c }

end Sys2Proof.Machine
end

