-- ==== Sys2Proof/Machine/Step.lean ====
section
/-! DEFINITION. One step of the device, and the placing of an instruction where the next step fetches it. -/

namespace Sys2Proof.Machine

/-- One step of the device. -/
noncomputable def step (s : State) : Res :=
  match s.plan with
  | (dt, m) :: rest => moveDevice (elapse { s with plan := rest } dt m) m
  | [] =>
    if !s.dev.powered then .fault .noPower
    else
      let m := defaultMove s
      moveDevice (elapse s (Config.freeNs s.tickets) m) m

/-- s with an instruction placed where the next step fetches, and that step planned (log 2). -/
noncomputable def State.withFetchWord (s : State) (nbits w : Nat) : State :=
  let t := readyToFetch s
  let u := placeCode t (fetchPc t).toNat (wordAndZeros nbits w)
  { u with plan := (0, .squad u.sq.ident.id) :: u.plan }

end Sys2Proof.Machine
end

