-- ==== Sys2Proof/Safety.lean ====
section
/-! DEFINITION. The terms in which claims about the machine are stated: when an instruction issues, the state in which its own
part runs, what the end of an instruction adds, and what frames and invariants say. -/

namespace Sys2Proof.Machine

/-! ### An instruction that issues -/

/-- The registers that an instruction reads and writes, under the operation set that its `ext` selects. -/
def usesNow (s : State) (i : Instr) : Uses := usesOf (extSet s.sq.cur) i

/-- The state in which the own part of an instruction runs: the start of its grid noted (R338), windows counted, lanes enabled
(R146), and every thread of the group at the next address (R168). -/
def begun (s : State) : State := prepare (noteStart s)

/-- The end of an instruction: the quantum and the survey count it (R41, R407), and its prefixes are spent. -/
def ended (u : State) : State := endSequence (issued u)

/-- The end of an instruction that forces a switch of the running group (R41): the quantum count starts again. -/
def switched (u : State) : State :=
  endSequence ((issued u).onSq fun q => { q with thr := { q.thr with quantum := 0 } })

/-- The instruction passes steps 2 to 4 of R150, waits for nothing (R61, R169, R191, R249), and reads no poisoned register
(R225). -/
structure Issues (i : Instr) (s : State) : Prop where
  form     : checkForm s (traitsOf i) = none
  operands : checkOperands s (traitsOf i) (usesNow s i) = none
  ready    : mustWait s (traitsOf i) (usesNow s i) = false
  sound    : checkPoison (begun s) (usesNow s i) = none

/-- Whenever i issues it completes, with effect f. -/
def Gives (i : Instr) (f : State → State) : Prop := ∀ s, Issues i s → exec i s = .next (ended (f (begun s)))

/-- Whenever i issues and the state in which its own part runs meets P, it completes, with effect f. -/
def GivesWhen (P : State → Prop) (i : Instr) (f : State → State) : Prop :=
  ∀ s, Issues i s → P (begun s) → exec i s = .next (ended (f (begun s)))

/-- The same, with a forced switch at the end. -/
def Switches (i : Instr) (f : State → State) : Prop := ∀ s, Issues i s → exec i s = .next (switched (f (begun s)))

/-- Whenever i issues and the state in which its own part runs meets P, it raises the system fault f and has no effect of its
own. -/
def FaultsWhen (P : State → Prop) (i : Instr) (f : State → FaultInfo) : Prop :=
  ∀ s, Issues i s → P (begun s) → exec i s = .next (endSequence (takeFault (noteStart s) (f (begun s))))

/-! ### Results of lane and scalar instructions -/

/-- A scalar b operand as every lane reads it (R151, R190). -/
def State.lowWord (s : State) (b : BitVec 7) : Word := (s.x b.toNat).truncate 32

/-- A predicate source p or !p as a lane mask (R144, R186). -/
def State.source (s : State) (p : BitVec 3) (neg : BitVec 1) : Mask :=
  if neg = 1 then ~~~(s.sq.regs.pred p.toNat) else s.sq.regs.pred p.toNat

/-- The mask of the lanes of which a property holds. -/
def lanesWhere (f : Nat → Bool) : Mask := maskOf ((List.range 32).filter f)

/-- What the enabled lanes raise together (R192). -/
def raisedIn (s : State) (fx : Nat → Fx) : Fx := (laneList s.sq.cur.enabled).foldl (fun x l => x ||| fx l) 0

/-- No exception that the enabled lanes raise traps: none of them is enabled in MODE, or a handler runs (R57, R284). -/
def Untrapped (s : State) (fx : Nat → Fx) : Prop := enabledFx s (raisedIn s fx) = 0 ∨ inHandler s.sq = true

/-- FLAGS gains exceptions (R58). -/
def State.gain (s : State) (fx : Fx) : State := s.onSq fun q => { q with flags := q.flags ||| BitVec.ofNat 64 (fx % 32) }

/-- Each enabled lane writes its words to the registers from v[d]. -/
def State.putLanes (s : State) (d n : Nat) (r : Nat → LaneRes) : State :=
  (List.range n).foldl (fun t k => t.putV (d + k) fun l => (r l).words.getD k 0) s

/-- Whenever i issues and nothing it raises traps, its enabled lanes write the n words of r from v[d], and FLAGS gains what they
raised (R192). -/
def LanesGive (i : Instr) (d n : Nat) (r : State → Nat → LaneRes) : Prop :=
  ∀ s, Issues i s → Untrapped (begun s) (fun l => (r (begun s) l).fx) →
    exec i s = .next (ended (((begun s).putLanes d n (r (begun s))).gain (raisedIn (begun s) fun l => (r (begun s) l).fx)))

/-- A count summed over the enabled lanes. -/
def sumIn (s : State) (f : Nat → Nat) : Nat := (laneList s.sq.cur.enabled).foldl (fun x l => x + f l) 0

/-- The statistics of the instruction's tensor tag gain what its enabled lanes count (R77, R78, R208). -/
def State.counted (s : State) (r : Nat → LaneRes) (by_ : State) : State :=
  addStats s (tagOf by_) (sumIn by_ fun l => (r l).sat) (sumIn by_ fun l => (r l).flush) (sumIn by_ fun l => (r l).nan)

/-- LanesGive for an instruction with a tensor tag: its elements are counted as well (R208, R286). -/
def TaggedGives (i : Instr) (d : Nat) (r : State → Nat → LaneRes) : Prop :=
  ∀ s, Issues i s → Untrapped (begun s) (fun l => (r (begun s) l).fx) →
    exec i s = .next (ended ((((begun s).putLanes d 1 (r (begun s))).counted (r (begun s)) (begun s)).gain
      (raisedIn (begun s) fun l => (r (begun s) l).fx)))

/-- Whenever i issues and nothing it raises traps, predicate p receives in the enabled lanes whether c holds, and FLAGS gains
invalid where c says so (R202). -/
def CompareGives (i : Instr) (p : BitVec 3) (c : State → Nat → Bool × Bool) : Prop :=
  ∀ s, Issues i s → Untrapped (begun s) (fun l => if (c (begun s) l).2 then 1 else 0) →
    exec i s = .next (ended ((((begun s).setP p.toNat (begun s).sq.cur.enabled
      (maskOf ((laneList (begun s).sq.cur.enabled).filter fun l => (c (begun s) l).1)))).gain
      (raisedIn (begun s) fun l => if (c (begun s) l).2 then 1 else 0)))

/-- No lane of a mask holds a poison mark on v[r] (R225). -/
def State.unmarked (s : State) (r : Nat) (m : Mask) : Prop := poisonedV s.sq [r] m = []

/-- The lanes that are read when each enabled lane l reads lane src l. -/
def State.sourceLanes (s : State) (src : Nat → Nat) : Mask := maskOf ((laneList s.sq.cur.enabled).map src)

/-- Lane l's word of a combining operation; what any step raises, every enabled lane raises (R217). -/
def combined (rs : List Contrib) (l : Nat) : LaneRes := ⟨[(partAt rs l).x], rs.foldl (fun x c => x ||| c.fx) 0, 0, 0, 0⟩

/-! ### Floating-point traps (R281 to R283) -/

/-- A lane-wise choice between two vectors. -/
def chosen {α : Type} (m : Mask) (f g : Nat → α) : Vector α 32 := Vector.ofFn fun l : Fin 32 => if m.getLsbD l then f l else g l

/-- Entry to the user trap handler at h (R282, R283). -/
def State.trapped (s : State) (h : DWord) (cause : Nat) (lanes : Mask) (info : DWord) : State :=
  s.onSq fun q => { q with
    trap := { pc := q.cur.first, next := q.cur.next, lanes := lanes.zeroExtend 64, cause := BitVec.ofNat 64 cause, info := info,
              mask := q.cur.active.zeroExtend 64 }
    thr := { q.thr with
      savedWin := chosen q.cur.active (fun l => vget q.thr.win l) fun l => vget q.thr.savedWin l
      win := chosen q.cur.active (fun _ => Window.none) fun l => vget q.thr.win l
      handlerMark := q.thr.handlerMark ||| q.cur.active
      pc := chosen q.cur.active (fun _ => h) fun l => vget q.thr.pc l } }

/-- The information word of a floating-point trap: its first destination register, the further ones, whether they are a predicate, the
format, and the enabled exceptions raised. -/
def trapInfo (d n : Nat) (pred : Bool) (fmt : Nat) (on : Fx) : DWord :=
  BitVec.ofNat 64 (d + (n - 1) * 128 + b2n pred * 1024 + fmt * 4096 + on * 65536)

/-- The enabled lanes that raise an exception that MODE enables. -/
def trapLanes (s : State) (fx : Nat → Fx) : Mask := maskOf ((laneList s.sq.cur.enabled).filter fun l => enabledFx s (fx l) != 0)

/-- Whenever i issues outside handler state and its enabled lanes raise exceptions that MODE enables, its results w are written, FLAGS
gains what was raised, and the group enters the trap handler; in a grid without one the instruction completes and 0x41 with detail 2
follows (R285). -/
def Traps (i : Instr) (d n : Nat) (pred : Bool) (fmt : Nat) (w : State → State) (fx : State → Nat → Fx) : Prop :=
  ∀ s, Issues i s → enabledFx (begun s) (raisedIn (begun s) (fx (begun s))) ≠ 0 → inHandler (begun s).sq = false →
    (∀ h, trapEntry (begun s) = some h →
      exec i s = .next (ended (((w (begun s)).gain (raisedIn (begun s) (fx (begun s)))).trapped h
        (0x10 + lowestFx (enabledFx (begun s) (raisedIn (begun s) (fx (begun s))))) (trapLanes (begun s) (fx (begun s)))
        (trapInfo d n pred fmt (enabledFx (begun s) (raisedIn (begun s) (fx (begun s)))))))) ∧
    (trapEntry (begun s) = none →
      exec i s = .next (endSequence (takeFault (issued ((w (begun s)).gain (raisedIn (begun s) (fx (begun s)))))
        { cause := 0x41, detail := 2, lanes := trapLanes (begun s) (fx (begun s))
          aux := 0x10 + lowestFx (enabledFx (begun s) (raisedIn (begun s) (fx (begun s)))) })))

/-- Traps for the n words of r from v[d] (R192). -/
def LanesTrap (i : Instr) (d n fmt : Nat) (r : State → Nat → LaneRes) : Prop :=
  Traps i d n false fmt (fun p => p.putLanes d n (r p)) fun p l => (r p l).fx

/-- Traps for an instruction with a tensor tag, whose elements are counted first (R286). -/
def TaggedTraps (i : Instr) (d fmt : Nat) (r : State → Nat → LaneRes) : Prop :=
  Traps i d 1 false fmt (fun p => (p.putLanes d 1 (r p)).counted (r p) p) fun p l => (r p l).fx

/-- Traps for a comparison into predicate p (R202). -/
def CompareTraps (i : Instr) (p : BitVec 3) (c : State → Nat → Bool × Bool) : Prop :=
  Traps i p.toNat 1 true 0 (fun q => q.setP p.toNat q.sq.cur.enabled (maskOf ((laneList q.sq.cur.enabled).filter fun l => (c q l).1)))
    fun q l => if (c q l).2 then 1 else 0

/-- m × 2^e in units of 2^lo, for lo no more than e. -/
def units (lo e : Int) (m : Nat) : Nat := m * 2 ^ (e - lo).toNat

/-- ±m × 2^e in units of 2^lo, for lo no more than e. -/
def signedUnits (lo : Int) (neg : Bool) (m : Nat) (e : Int) : Int := if neg = true then -(units lo e m : Int) else units lo e m

/-- v is num / one, for a positive one, rounded to an integer as MODE numbers the directions (R57): to nearest with ties to even,
toward zero, down, up. -/
def Rounds (mode : Nat) (num one v : Int) : Prop :=
  (mode = 0 → 2 * (v * one - num) ≤ one ∧ 2 * (num - v * one) ≤ one ∧
    (2 * (v * one - num) = one ∨ 2 * (num - v * one) = one → v % 2 = 0)) ∧
  (mode = 2 ∨ (mode = 1 ∧ 0 ≤ num) → v * one ≤ num ∧ num < v * one + one) ∧
  (mode = 3 ∨ (mode = 1 ∧ num < 0) → num ≤ v * one ∧ v * one < num + one)

/-! ### Accesses and operations -/

/-- The value of s[r]. -/
def State.num (s : State) (r : Nat) : Nat := (s.x r).toNat

/-- Whenever i issues and every access that it makes passes its checks (R82, R83, R99, R136, R221), it completes with effect f on
those accesses. -/
def Leaves (i : Instr) (acc : State → State × List Access × List FaultInfo) (f : State → List Access → State) : Prop :=
  ∀ s, Issues i s → (acc (begun s)).2.2 = [] → exec i s = .next (ended (f (acc (begun s)).1 (acc (begun s)).2.1))

/-- Whenever i issues and an access fails a check, the fault with the lowest cause is raised (R82, R221); cause 0 stands for a walk that
waits for a link. -/
def FaultsAt (i : Instr) (acc : State → State × List Access × List FaultInfo) : Prop :=
  ∀ s f, Issues i s → lowestFault (acc (begun s)).2.2 = some f → f.cause ≠ 0 →
    exec i s = .next (endSequence (takeFault (faultPoint (noteStart s) f (acc (begun s)).1) f))

/-- The accesses of a vector load of width w. -/
def loadsOf (sp : Space) (w : BitVec 3) (va : State → Nat → Nat) (s : State) : State × List Access × List FaultInfo :=
  gather s sp ⟨accessBytes w.toNat, needR, 1, false, ordered s, false⟩ (laneList s.sq.cur.enabled) (va s) (fun _ => 0) fun _ => 0

/-- The accesses of a vector store of width w from v[d]. -/
def storesOf (sp : Space) (w : BitVec 3) (d : BitVec 7) (va : State → Nat → Nat) (s : State) :
    State × List Access × List FaultInfo :=
  gather s sp ⟨accessBytes w.toNat, needW, 2, true, ordered s, false⟩ (laneList s.sq.cur.enabled) (va s)
    (fun l => laneData s d.toNat (accessRegs w.toNat) l % 256 ^ accessBytes w.toNat) fun _ => 0

/-- The accesses of a vector atomic on n bytes. -/
def atomsOf (sp : Space) (n : Nat) (d : BitVec 7) (va : State → Nat → Nat) (s : State) : State × List Access × List FaultInfo :=
  gather s sp ⟨n, needRW, 3, true, true, true⟩ (laneList s.sq.cur.enabled) (va s) (fun l => laneData s d.toNat (n / 4) l)
    fun l => laneData s (d.toNat + n / 4) (n / 4) l

/-- The access of a scalar load. -/
def scalarLoadOf (w : BitVec 3) (va : State → Nat) (s : State) : State × List Access × List FaultInfo :=
  groupFaults (gather s .global ⟨accessBytes w.toNat, needR, 1, false, ordered s, false⟩ (leader s) (fun _ => va s) (fun _ => 0) fun _ => 0)

/-- The access of a scalar store from s[d]. -/
def scalarStoreOf (w : BitVec 3) (d : BitVec 7) (va : State → Nat) (s : State) : State × List Access × List FaultInfo :=
  groupFaults (gather s .global ⟨accessBytes w.toNat, needW, 2, true, ordered s, false⟩ (leader s) (fun _ => va s)
    (fun _ => s.num d.toNat % 256 ^ accessBytes w.toNat) fun _ => 0)

/-- The access of a scalar atomic. -/
def scalarAtomOf (op : AtomOp) (n : Nat) (d : BitVec 7) (va : State → Nat) (s : State) : State × List Access × List FaultInfo :=
  groupFaults (gather s .global ⟨n, needRW, 3, true, true, true⟩ (leader s) (fun _ => va s)
    (fun _ => (satomOperands s op n d.toNat).1) fun _ => (satomOperands s op n d.toNat).2)

/-- The outstanding operation that a load leaves (R61, R224). -/
def loading (last : Option (Nat × Word)) (sp : Space) (w : BitVec 3) (d : BitVec 7) (t : State) (acc : List Access) : State :=
  pushOp t .ld (.load sp w.toNat d.toNat false acc) t.sq.cur.enabled (orderOf t (0, 0)) (ordered t) last 0 0 []

/-- The outstanding operation that a store leaves. -/
def storing (sp : Space) (t : State) (acc : List Access) : State :=
  pushOp (raceWrites t sp (acc.map fun a => (a.va, a.n)) (ordered t)) .st (.store sp acc) t.sq.cur.enabled (orderOf t (0, 0))
    (ordered t) none 0 0 []

/-- The outstanding operation that an atomic leaves: relaxed at device scope where no `ord` says otherwise (R114). -/
def updating (sp : Space) (op : AtomOp) (d : BitVec 7) (t : State) (acc : List Access) : State :=
  pushOp (raceWrites t sp (acc.map fun a => (a.va, a.n)) true) .ld (.atomic sp op d.toNat false acc) t.sq.cur.enabled
    (orderOf t (0, 4)) true none 0 0 []

/-- Does the `.last` mark of the sequence, if any, pass its checks (R88)? -/
def LastOk (s : State) : Prop :=
  ∀ m, lastMark s.sq.cur = some m →
    interlocked s.sq ⟨[], [], [m.2], [], true⟩ = false ∧ (s.sq.poisonS.find? fun t => t.1 == m.2) = none ∧
    handleOk ((s.x m.2).truncate 32) ((s.myCrew.map fun c => c.storage.length * 1024).getD 0) = true ∧ m.1 < queueCount s

/-- The queue and handle of the sequence's `.last` mark (R87). -/
def markOf (s : State) : Option (Nat × Word) := (lastMark s.sq.cur).map fun m => (m.1, (s.x m.2).truncate 32)

/-- A global range that passes the check of R248. -/
def State.inGlobal (s : State) (a n : Nat) : Prop := n = 0 ∨ a + n - 1 < addressTop s

/-- A range of crew c's scratchpad that passes the checks of R83 and R136 for an engine. -/
def State.inScratch (s : State) (c : Crew) (o n : Nat) : Prop := n = 0 ∨ (o + n ≤ c.spadBytes ∧ raceConflict s c o n false = none)

/-- The race-watch marks of an engine's write (R136, R248). -/
def State.raceMarked (s : State) (c : Crew) (o n : Nat) : State := if n = 0 then s else raceWrite s c.id o n false

/-- Every logical compute bank of a range is mapped (R255). -/
def Crew.mapsAll (c : Crew) (first n : Nat) : Prop := ∀ k, k < n → c.detached (first + k) = false

/-- What an engine finds in n bytes at an address of scratchpad, or of global memory, and the state after it looked (R248, R253). -/
def Reads (s : State) (o : Op) (scratch : Bool) (a n : Nat) (t : State) (bs : List Byte) : Prop :=
  if scratch = true then ∃ c, s.myCrew = some c ∧ (n = 0 ∨ a + n ≤ c.spadBytes) ∧ spadPoison s c.storage a n = false ∧
    t = s ∧ bs = spadRead s c.storage a n
  else ∃ u ks, reachRanges s o needR (if n = 0 then [] else [(a, n)]) = (u, .keys ks) ∧ readKeys u ks = (t, bs, none)

/-- An engine's captured operands. -/
def engineAct (e : Engine) (d : Nat) (x y z x2 : DWord) : Act := .engine e d x y z x2 (Vector.replicate 32 0)

/-- No operation of a squad of the crew still touches its banks (R255). -/
def BanksQuiet (s : State) (c : Crew) : Prop :=
  (s.squads.any fun q => q.ident.crew == c.id && q.ops.any Op.touchesBanks) = false

/-- Does a source of an `arr` have a legal descriptor: an immediate, or rows of the destination's window (R272, R273)? -/
def ArrSource (y x : DWord) : Prop := vecBad x = false ∧ (vecFn x = 0x20 ∨ (vecFn x = 0 ∧ vecWin x = vecWin y))

/-! ### Control -/

/-- The threads' words of a branch table are found (R172): its address passes, word 0 and every word that a thread selects are read
without poison, and every target lies in range. -/
def TableFound (s : State) (x : BitVec 7) (t : BitVec 6) (u : State) (targets : List (Nat × DWord)) : Prop :=
  s.num t.toNat < addressTop s ∧ s.num t.toNat % 4 = 0 ∧ ∃ s1 bs,
    readWeak s (s.num t.toNat) 4 s.sq.cur.active = (s1, .bytes bs false) ∧
    tableTargets s1 x.toNat (s.num t.toNat) (leNat bs) s.sq.cur.active = (u, ⟨targets, [], false⟩)

/-- The thresholds of a `wait`; 31 waits on nothing (R176). -/
def waitTo (l sc c t : BitVec 5) (a : BitVec 4) : List Nat :=
  [l.toNat, sc.toNat, c.toNat, t.toNat, if a.toNat = 15 then 31 else a.toNat]

/-- The thresholds of a `wait0` (R177). -/
def wait0To (m : BitVec 5) : List Nat := (List.range 5).map fun k => if m.getLsbD k then 0 else 31

/-- Every waited counter is at or below its threshold (R176). -/
def Below (s : State) (thr : List Nat) : Prop := ∀ o n, waitsOn thr o = some n → s.sq.count o ≤ n

/-- No waited class holds an error (R178). -/
def NoError (s : State) (thr : List Nat) : Prop := firstError s.sq (fun o => (waitsOn thr o).isSome) = none

/-- Pending write-backs of the core are tried again (R226, R370). -/
def retried (s : State) : State :=
  (sectorsAt s s.sq.ident.core).foldl (fun st x => if x.stale then writeBack st x else st) s

/-- MODE after a `setmode` (R179). -/
def modeAfter (m : DWord) (r : BitVec 2) (z : BitVec 1) (t : BitVec 5) (w fm : BitVec 1) (en : BitVec 5) : DWord :=
  let m := if w = 1 then (m &&& ~~~(3 : DWord)) ||| r.zeroExtend 64 else m
  let m := if fm = 1 then (m &&& ~~~(4 : DWord)) ||| (z.zeroExtend 64 <<< 2) else m
  (m &&& ~~~(en.zeroExtend 64 <<< 8 : DWord)) ||| ((t.zeroExtend 64 <<< 8) &&& (en.zeroExtend 64 <<< 8))

/-- Return from the user trap handler (R188). -/
def State.untrapped (s : State) : State :=
  s.onSq fun q => { q with thr := { q.thr with
    pc := chosen q.cur.active (fun _ => q.trap.next) fun l => vget q.thr.pc l
    win := chosen q.cur.active (fun l => vget q.thr.savedWin l) fun l => vget q.thr.win l
    handlerMark := q.thr.handlerMark &&& ~~~q.cur.active } }

/-- Return from the system handler (R322). -/
def State.sysReturned (s : State) : State :=
  s.onSq fun q => { q with thr := { q.thr with
    pc := chosen q.cur.active (fun _ => q.sys.syspc) fun l => vget q.thr.pc l
    win := chosen q.cur.active (fun l => vget q.thr.savedSysWin l) fun l => vget q.thr.win l
    sysMark := q.thr.sysMark &&& ~~~q.cur.active } }

/-! ### Synchronisation -/

/-- Whenever i issues and P holds, the running group blocks on w (R39, R42), from the state u. -/
def BlocksWhen (P : State → Prop) (i : Instr) (w : State → Blocked) : Prop :=
  ∀ s, Issues i s → P (begun s) →
    exec i s = .next (endSequence (blockGroup (issued (restoreThreads (noteStart s) (begun s))) (w (begun s))))

/-- The checks of a barrier arrival pass (R237): the count is no more than the squads created and agrees with the generation's; and the
release of a team barrier waits for no write-back (R125, R132). -/
def BarTakes (s : State) (team : Bool) (b n : Nat) : Prop :=
  (∃ c, s.myCrew = some c ∧ n ≤ barCreated s c team ∧ (barOf s c team b).count.getD n = n) ∧
  (team = true → releaseWaits s s.sq.ident.core 2 = false)

/-- The squad has arrived; a team barrier releases at team scope (R132). -/
def arrivedAt (s : State) (team : Bool) (b n : Nat) : State :=
  if team then releaseAction (barArrive s team b n).1 s.sq.ident.core 2 else (barArrive s team b n).1

/-- Nothing keeps the running group at a fence of an order and scope (R123, R125, R233): no access of its threads is awaited, and every
write-back of the release action finds its way; order 0 is relaxed. -/
def FenceFree (s : State) (order scope : Nat) : Prop :=
  (order = 0 ∨ ∀ p ∈ s.sq.ops, p.fenced s.sq.cur.active order = false) ∧
  (fenceReleases order = true → releaseWaits s s.sq.ident.core scope = false)

/-- The running group stalls at its instruction, which has no effect yet, and no other group of its squad issues before it (R233). -/
def StallsWhen (P : State → Prop) (i : Instr) : Prop :=
  ∀ s, Issues i s → P (begun s) → exec i s = .next (endSequence (holdGroup s))

/-- A synchronous access at its home passes its checks (R241, R242, R244), and its way is open: t is the state after translation,
key its byte's. -/
def Homes (s : State) (va n : Nat) (need : Need) (t : State) (key : Nat) : Prop :=
  ∃ named, reachGlobal s ⟨n, need, if need.w then 3 else 1, need.w, true, true⟩ va s.sq.cur.active = (t, .inl named) ∧
    key = canon t named ∧ inBacking t t.sq.ident.ctx va key n = false ∧
    rangeWay t t.sq.ident.core key n (peerOfKey named) = .clear

/-- A legal span queue stands at va (R240, R242). -/
def SpanFound (s : State) (va : Nat) (u : State) (d : SpanDesc) : Prop :=
  ∃ t key bs, Homes s va 64 needRW t key ∧ inHbm key = true ∧ homeRead t t.sq.ident.ctx key 64 = (u, bs, false) ∧
    d = spanDesc key va bs ∧ spanDescOk d bs = true ∧ ringArmed u d = false

/-- r is u with an entry pushed: the value and the meridian time in the ring, then the tail raised (R241). -/
def SpanPushed (u : State) (d : SpanDesc) (x : DWord) (r : State) : Prop :=
  releaseWaits u u.sq.ident.core d.scope = false ∧ ∃ t key w, Homes (releaseAction u u.sq.ident.core d.scope) (spanEntry d d.t) 16 needRW t key ∧
    homeWrite t t.sq.ident.ctx key (leBytes 8 x.toNat ++ leBytes 8 t.now.toNat) = (w, false) ∧
    homeWrite w w.sq.ident.ctx (d.key + 0x18) (leBytes 8 (d.t + 1)) = (r, false)

/-- r is u with the oldest entry popped into a pair: read, then the head raised (R241). -/
def SpanPopped (u : State) (d : SpanDesc) (e : Nat) (r : State) : Prop :=
  ∃ t key w bs v, Homes u (spanEntry d d.h) 16 needRW t key ∧ homeRead t t.sq.ident.ctx key 16 = (w, bs, false) ∧
    homeWrite w w.sq.ident.ctx (d.key + 0x10) (leBytes 8 (d.h + 1)) = (v, false) ∧
    r = acquireAction ((v.setX e (BitVec.ofNat 64 (fieldOf bs 0 8))).setX (e + 1) (BitVec.ofNat 64 (fieldOf bs 8 8)))
      v.sq.ident.core d.scope

/-- A legal span semaphore stands at va, with its value and scope (R243, R244). -/
def SemFound (s : State) (va : Nat) (need : Need) (u : State) (key v scope : Nat) : Prop :=
  ∃ t bs, Homes s va 16 need t key ∧ inHbm key = true ∧ homeRead t t.sq.ident.ctx key 16 = (u, bs, false) ∧
    scope = fieldOf bs 8 8 ∧ 2 ≤ scope ∧ scope ≤ 5 ∧ v = fieldOf bs 0 8

/-! ### System instructions (R323) -/

/-- The wait of step 1 of R323 is over, and nothing that it examines holds an error. -/
def FencePasses (s : State) : Prop :=
  s.sq.ops = [] ∧ releaseWaits s s.sq.ident.core 5 = false ∧ firstError s.sq (fun _ => true) = none ∧ (deferredFaults (retried s)).2 = false

/-- The state after step 1 of R323: as `fence.sc.sy` with its async bit (R130). -/
def sysFenced (s : State) : State :=
  let t := (deferredFaults (retried s)).1
  acquireAction (releaseAction t t.sq.ident.core 5) t.sq.ident.core 5

/-- A system instruction whose effect begins and is not complete: the squad stays at it. -/
def BeginsWhen (P : State → Prop) (i : Instr) (f : State → State) : Prop :=
  ∀ s, Issues i s → P (begun s) →
    exec i s = .next (endSequence ((holdGroup (f (begun s))).setPc (f (begun s)).sq.cur.active fun _ => (f (begun s)).sq.cur.first))

/-- Nothing stands in the way of a range of `cchop` (R326). -/
def ChopOk (_ : State) (x n : Nat) : Prop :=
  n < 1099511627776 ∧ x % 512 = 0 ∧ n % 512 = 0 ∧ x < paSpace ∧ x + (n - 1) < paSpace

/-! ### The device's own steps -/

/-- Whenever P holds, the device step i has effect f. -/
def Happens (P : State → Prop) (i : Instr) (f : State → State) : Prop := ∀ s, P s → exec i s = .next (f s)

/-- Whenever the next command of partition p is one of some (R358), and P holds once it is taken, the device step i runs it with
effect f. -/
def Runs (P : State → Prop) (p : Nat) (cmds : List Nat) (i : Instr) (f : State → State) : Prop :=
  ∀ s v, nextCommand s p cmds = some v → P (takeCommand s p) → exec i s = .next (f (takeCommand s p))

/-- The same for a step of a squad, which is checked out for it. -/
def HappensOn (sq : Nat) (P : State → Prop) (i : Instr) (f : State → State) : Prop :=
  ∀ s t, s.checkout sq = some t → P t → exec i s = .next (f t)

/-- The same for a step of an operation of a squad. -/
def HappensTo (sq k : Nat) (P : State → Op → Prop) (i : Instr) (f : State → Op → State) : Prop :=
  ∀ s t o, s.checkout sq = some t → findOp t k = some o → P t o → exec i s = .next (f t o)

/-- The squad as a blocked instruction finds it that is tried again (R42): its threads are the group, at the next address. -/
def resumed (s : State) (w : Wait) : State := (blockedState s w).setPc w.mask fun _ => (blockedState s w).sq.cur.next

/-- The squad that is checked out has threads blocked since moment k, and nothing else keeps them (R42, R284, R369). -/
def BlockedAt (s : State) (k : Nat) (w : Wait) : Prop :=
  (s.sq.thr.waits.find? fun w => w.stamp == k) = some w ∧ s.sq.status = .ready ∧ s.sq.replay = none ∧
  inSystemWait s s.sq = false ∧ s.sq.thr.mayGoOn w.mask = true

/-- What a step makes of the answer of a move from e (R351). -/
noncomputable def renewed (e : State) (m : Move) : Res → Res
  | .next t => .next (renewAges e t m)
  | r => r

/-- Entries ahead of a queue's read index (R337). -/
def ahead (w : WorkQueue) : Nat := (w.w + 4294967296 - w.rd) % 4294967296

/-- An enabled queue of a running partition has an entry to take (R337). -/
def QueueReady (s : State) (n : Nat) : Prop :=
  (s.queue n).cfg.getLsbD 31 = true ∧ 0 < ahead (s.queue n) ∧ ahead (s.queue n) ≤ 2 ^ ((s.queue n).cfg.toNat % 32) ∧
  ((s.part ((s.queue n).cfg.toNat / 65536 % 8)).state = 1 ∨ (s.part ((s.queue n).cfg.toNat / 65536 % 8)).state = 2)

/-- The submitter that a queue is (R335): queue 0 is privileged. -/
def queueSubmitter (s : State) (n : Nat) : Submitter :=
  ⟨if n = 0 then 0 else (s.queue n).cfg.toNat / 256 % 64, (s.queue n).cfg.toNat / 65536 % 8, n == 0, true,
    bit (s.queue n).cfg.toNat 24, false⟩

/-- Chiplets that a command would make leave a partition (R359). -/
def leaving (s : State) (p : Nat) : BitVec 32 := (s.part p).chips &&& ~~~(s.part p).target

/-- The checks of a resize pass (R358). -/
def ResizePasses (s : State) (p : Nat) : Prop :=
  (s.part p).state = 1 ∧ (s.part p).target ≠ 0 ∧ chipsTaken s p ((s.part p).target &&& ~~~(s.part p).chips) = false ∧
  (s.part p).rcores ≤ 4 * chipCount ((s.part p).chips &&& (s.part p).target) ∧ windowBlocks s p (leaving s p) = false ∧
  residencyBlocks s (leaving s p) = false

/-- The squad whose step runs is a system squad. -/
def BySystem (s : State) : Prop := s.sq.present = true ∧ s.sq.ident.priv = true

/-! ### Frames: what a step leaves unchanged -/

/-- One byte at its home as a reader sees it (R103): expanded where a compression window holds its line compressed. -/
def State.byteAt (s : State) (a : Nat) : Byte := (lineBytes s (a / 512 * 512)).getD (a % 512) 0

/-- Every byte of memory at its home. -/
def SameMemory (s t : State) : Prop := ∀ a, t.byteAt a = s.byteAt a

/-- The register files outside the lists, and outside the lanes of a mask (R54). -/
structure KeepsFiles (s t : State) (vs ss ps : List Nat) (m : Mask) : Prop where
  vector    : ∀ n l, n < 128 → l < 32 → n ∉ vs ∨ m.getLsbD l = false → t.v n l = s.v n l
  scalar    : ∀ n, n < 64 → n ∉ ss → t.x n = s.x n
  predicate : ∀ n l, n < 8 → l < 32 → n ∉ ps ∨ m.getLsbD l = false →
    (t.sq.regs.pred n).getLsbD l = (s.sq.regs.pred n).getLsbD l

/-- The registers of traps and of the system (R282, R318), the handler marks, the threads that live, who the squad is, what its
classes hold, and its operations. -/
structure KeepsSpecial (s t : State) : Prop where
  trap        : t.sq.trap = s.sq.trap
  sys         : t.sq.sys = s.sq.sys
  handlerMark : t.sq.thr.handlerMark = s.sq.thr.handlerMark
  sysMark     : t.sq.thr.sysMark = s.sq.thr.sysMark
  live        : t.sq.thr.live = s.sq.thr.live
  ident       : t.sq.ident = s.sq.ident
  status      : t.sq.status = s.sq.status
  errs        : t.sq.errs = s.sq.errs

/-- Everything outside the squad whose step runs, its grid's statistics and the survey's counters (R77, R407) aside. -/
structure KeepsDevice (s t : State) : Prop where
  rest   : { t with sq := s.sq, survey := s.survey, grids := s.grids } = s
  memory : SameMemory s t

/-- Grids differ in the statistics of their tensor tags at most (R77). -/
def SameGrids (s t : State) : Prop :=
  (t.grids.map fun g => { g with stats := [] }) = s.grids.map fun g => { g with stats := [] }

/-- Beside the program counters, an instruction that issues in a state that meets P changes only the registers of the lists, in
the lanes of m. -/
def Framed (P : State → Prop) (i : Instr) (vs ss ps : List Nat) (m : State → Mask) : Prop :=
  ∀ s t, Issues i s → P (begun s) → exec i s = .next t →
    KeepsFiles s t vs ss ps (m (begun s)) ∧ KeepsSpecial s t ∧ t.sq.mode = s.sq.mode ∧ t.sq.flags = s.sq.flags ∧
    t.sq.ops = s.sq.ops ∧ KeepsDevice (noteStart s) t ∧ t.grids = (noteStart s).grids

/-- The same for a floating-point instruction that does not trap: FLAGS may gain exceptions in bits 4:0 (R58). -/
def FramedFloat (P : State → Prop) (i : Instr) (vs ps : List Nat) : Prop :=
  ∀ s t, Issues i s → P (begun s) → exec i s = .next t →
    KeepsFiles s t vs [] ps (begun s).sq.cur.enabled ∧ KeepsSpecial s t ∧ t.sq.mode = s.sq.mode ∧
    (t.sq.flags &&& s.sq.flags = s.sq.flags ∧ t.sq.flags >>> 5 = s.sq.flags >>> 5) ∧
    t.sq.ops = s.sq.ops ∧ KeepsDevice (noteStart s) t ∧ SameGrids (noteStart s) t

/-- The enabled lanes of an instruction. -/
abbrev inEnabled (s : State) : Mask := s.sq.cur.enabled

/-- The lanes of the running group. -/
abbrev inActive (s : State) : Mask := s.sq.cur.active

/-- No condition. -/
abbrev always (_ : State) : Prop := True

/-- No line holds a code that the device never writes or that marks a failure (R103), no metadata is about to be found bad (R105),
and no clean line of the LLC hides another code below it: reads, writes and replacements raise no record and change no code. -/
structure Legible (s : State) : Prop where
  codes  : ∀ c ∈ s.codes, c.2 ≤ 8
  latent : ∀ n, Latent.metadata n ∉ s.latent
  held   : ∀ l ∈ s.llc, l.dirty = 0 → l.backCode = heldCode s l.addr

/-- No L1 holds a byte that is still to be written back (R93), or a pinned sector (R370). -/
def Settled (s : State) : Prop := ∀ x ∈ s.l1, x.dirty = 0 ∧ x.pinned = false

/-- No sector of a line that is held compressed is poisoned, at its home or below it (R105): no home refuses a write. -/
structure Sound (s : State) : Prop where
  here  : ∀ c ∈ s.codes, 1 ≤ c.2 → c.2 ≤ 7 → ∀ p ∈ s.poison, p / 8 ≠ c.1
  below : ∀ l ∈ s.llc, 1 ≤ heldCode s l.addr → heldCode s l.addr ≤ 7 → l.backPoison &&& ~~~l.dirty = 0

/-- The bytes of pieces as they read at their homes. -/
def State.bytesAt (s : State) (ks : List (Nat × Nat × Nat)) : List Byte :=
  ks.flatMap fun p => (List.range p.2.2).map fun i => s.byteAt (p.2.1 + i)

/-- Is a key outside n bytes at another? -/
def outside (j a n : Nat) : Prop := j < a ∨ a + n ≤ j

/-- Two ranges of keys have no byte in common. -/
def apart (a m b n : Nat) : Prop := a + m ≤ b ∨ b + n ≤ a

/-- An instruction that accesses homes when it issues: beside the program counters it changes only the scalar registers of a list, and
at most the bytes of memory in the ranges rs. -/
def FramedHome (s t : State) (ss : List Nat) (rs : List (Nat × Nat)) : Prop :=
  KeepsFiles s t [] ss [] 0 ∧ KeepsSpecial s t ∧ t.sq.mode = s.sq.mode ∧ t.sq.flags = s.sq.flags ∧ t.sq.ops = s.sq.ops ∧
  (Legible (begun s) → Sound (begun s) → Settled (begun s) →
    ∀ j, (∀ r ∈ rs, outside j r.1 r.2) → t.byteAt j = (noteStart s).byteAt j)

/-- A change of the crew's banks: beside the program counters it changes the crew, and at most the bytes of memory in the ranges rs. -/
def FramedBank (s t : State) (rs : List (Nat × Nat)) : Prop :=
  KeepsFiles s t [] [] [] 0 ∧ KeepsSpecial s t ∧ t.sq.mode = s.sq.mode ∧ t.sq.flags = s.sq.flags ∧ t.sq.ops = s.sq.ops ∧
  { t with sq := s.sq, survey := s.survey, crews := s.crews, mem := s.mem, poison := s.poison, latent := s.latent } =
    { noteStart s with sq := s.sq, survey := s.survey, crews := s.crews, mem := s.mem, poison := s.poison, latent := s.latent } ∧
  ∀ j, (∀ r ∈ rs, outside j r.1 r.2) → memGet t.mem j = memGet (noteStart s).mem j

/-- An instruction that leaves an operation outstanding changes at issue, beside the program counters, no register but those
of a list, no flag, no special register and no byte of memory. -/
def FramedIssue (i : Instr) (ss : List Nat) : Prop :=
  ∀ s t, Issues i s → exec i s = .next t → s.sq.ops.length < t.sq.ops.length →
    KeepsFiles s t [] ss [] 0 ∧ KeepsSpecial s t ∧ t.sq.mode = s.sq.mode ∧ t.sq.flags = s.sq.flags ∧
    (Legible (begun s) → Settled (begun s) → SameMemory (noteStart s) t)

/-- An instruction that writes MODE or FLAGS, as told, changes nothing else beside the program counters. -/
def FramedMode (i : Instr) (mode flags : Bool) : Prop :=
  ∀ s t, Issues i s → exec i s = .next t →
    KeepsFiles s t [] [] [] 0 ∧ KeepsSpecial s t ∧ (mode = false → t.sq.mode = s.sq.mode) ∧
    (flags = false → t.sq.flags = s.sq.flags) ∧ t.sq.ops = s.sq.ops ∧ KeepsDevice (noteStart s) t ∧
    t.grids = (noteStart s).grids

/-- An instruction that enters or leaves a handler, or ends threads, when it issues in a state that meets P: beside thread state
and, on entry, the trap registers, nothing changes. -/
def FramedEntry (P : State → Prop) (i : Instr) (entry : Bool) : Prop :=
  ∀ s t, Issues i s → P (begun s) → exec i s = .next t →
    KeepsFiles s t [] [] [] 0 ∧ (entry = false → t.sq.trap = s.sq.trap) ∧ t.sq.sys = s.sq.sys ∧ t.sq.ident = s.sq.ident ∧
    t.sq.mode = s.sq.mode ∧ t.sq.flags = s.sq.flags ∧ t.sq.ops = s.sq.ops ∧ t.sq.errs = s.sq.errs ∧
    KeepsDevice (noteStart s) t ∧ t.grids = (noteStart s).grids

/-- An instruction that synchronises, when it issues in a state that meets P: beside the program counters it changes only the
registers of the lists and the objects of its crew, and no byte of memory. -/
def FramedSync (P : State → Prop) (i : Instr) (vs ss : List Nat) (m : State → Mask) : Prop :=
  ∀ s t, Issues i s → P (begun s) → exec i s = .next t →
    KeepsFiles s t vs ss [] (m (begun s)) ∧ KeepsSpecial s t ∧ t.sq.mode = s.sq.mode ∧ t.sq.flags = s.sq.flags ∧
    t.sq.ops = s.sq.ops ∧ (Legible (begun s) → Settled (begun s) → SameMemory (noteStart s) t)

/-- A system instruction, when it issues in a state that meets P, changes no register but those of a list, unless it ends its own
squad (R358). -/
def FramedSystem (P : State → Prop) (i : Instr) (ss : List Nat) : Prop :=
  ∀ s t, Issues i s → P (begun s) → exec i s = .next t →
    t.sq.status ≠ .absent → KeepsFiles s t [] ss [] 0 ∧ t.sq.trap = s.sq.trap ∧ t.sq.mode = s.sq.mode ∧
      t.sq.flags = s.sq.flags ∧ t.sq.ident = s.sq.ident

/-- A device step that touches no squad. -/
def SparesSquads (i : Instr) : Prop := ∀ s t, exec i s = .next t → t.sq = s.sq ∧ t.parked = s.parked

/-- A squad stands at its entry (R30): every thread live, ready and at a pc of which P holds; p0 true and the other predicates false;
MODE, FLAGS, the trap registers and the quantum count 0; no operation outstanding. -/
structure EntersAt (q : Squad) (P : DWord → Prop) : Prop where
  pc       : ∀ l, l < 32 → P (vget q.thr.pc l)
  eligible : q.thr.eligible = allLanes
  aside    : q.thr.aside = 0
  windows  : ∀ l, l < 32 → vget q.thr.win l = Window.none
  p0       : q.regs.pred 0 = allLanes
  preds    : ∀ n, 0 < n → n < 8 → q.regs.pred n = 0
  mode     : q.mode = 0
  flags    : q.flags = 0
  trap     : q.trap = ⟨0, 0, 0, 0, 0, 0⟩
  quantum  : q.thr.quantum = 0
  ops      : q.ops = []

end Sys2Proof.Machine
end

