-- ==== Sys2Proof/Certificates/Slice0/Obligations.lean ====
section
/-! DEFINITION. The statements for the provers. Each follows the numbered rules of spec/ that its docstring names; d, a, b and the
other fields of an instruction run over every value that its encoding admits. -/

open Sys2Proof Sys2Proof.Machine

/-- In each enabled lane, add, sub, mul, mulhi, mad, and, or, xor, the shifts, min, max, the saturating sums, prmt, bfe, bfi and idot4 write v[d] from v[a], v[b] and where they read it v[d] (R193 to R195, R207). Each bit of a bfe is a bit of the field at b[7:0] of a, of b[15:8] bits up to 32, zero- or sign-extended as b[16] says, and 0 for an empty field; each bit of a bfi is a bit of b[31:16] inside the field, of up to 16 bits, and a bit of a outside it (R195). -/
def Obligations.PairedIntegerLanes : Prop :=
  (∀ (d a b : BitVec 7),
    Gives (.add d a b) (fun p => p.putV d.toNat fun l => (p.v a.toNat l) + (p.v b.toNat l)) ∧
    Gives (.sub d a b) (fun p => p.putV d.toNat fun l => (p.v a.toNat l) - (p.v b.toNat l)) ∧
    Gives (.mul d a b) (fun p => p.putV d.toNat fun l => (p.v a.toNat l) * (p.v b.toNat l)) ∧
    Gives (.mulhiI32 d a b) (fun p => p.putV d.toNat fun l => BitVec.ofInt 32 ((p.v a.toNat l).toInt * (p.v b.toNat l).toInt / 4294967296)) ∧
    Gives (.mulhiN32 d a b) (fun p => p.putV d.toNat fun l => BitVec.ofNat 32 ((p.v a.toNat l).toNat * (p.v b.toNat l).toNat / 4294967296)) ∧
    Gives (.and d a b) (fun p => p.putV d.toNat fun l => (p.v a.toNat l) &&& (p.v b.toNat l)) ∧
    Gives (.or d a b) (fun p => p.putV d.toNat fun l => (p.v a.toNat l) ||| (p.v b.toNat l)) ∧
    Gives (.xor d a b) (fun p => p.putV d.toNat fun l => (p.v a.toNat l) ^^^ (p.v b.toNat l)) ∧
    Gives (.shl d a b) (fun p => p.putV d.toNat fun l => if (p.v b.toNat l).toNat < 32 then (p.v a.toNat l) <<< (p.v b.toNat l).toNat else 0) ∧
    Gives (.shr d a b) (fun p => p.putV d.toNat fun l => if (p.v b.toNat l).toNat < 32 then (p.v a.toNat l) >>> (p.v b.toNat l).toNat else 0) ∧
    Gives (.sar d a b) (fun p => p.putV d.toNat fun l => (p.v a.toNat l).sshiftRight (min (p.v b.toNat l).toNat 31)) ∧
    Gives (.minI32 d a b) (fun p => p.putV d.toNat fun l => if (p.v a.toNat l).slt (p.v b.toNat l) then (p.v a.toNat l) else (p.v b.toNat l)) ∧
    Gives (.maxI32 d a b) (fun p => p.putV d.toNat fun l => if (p.v a.toNat l).slt (p.v b.toNat l) then (p.v b.toNat l) else (p.v a.toNat l)) ∧
    Gives (.minN32 d a b) (fun p => p.putV d.toNat fun l => if (p.v a.toNat l).ult (p.v b.toNat l) then (p.v a.toNat l) else (p.v b.toNat l)) ∧
    Gives (.maxN32 d a b) (fun p => p.putV d.toNat fun l => if (p.v a.toNat l).ult (p.v b.toNat l) then (p.v b.toNat l) else (p.v a.toNat l)) ∧
    Gives (.addsatI32 d a b) (fun p => p.putV d.toNat fun l => BitVec.ofInt 32 (max (-2147483648) (min 2147483647 ((p.v a.toNat l).toInt + (p.v b.toNat l).toInt)))) ∧
    Gives (.subsatI32 d a b) (fun p => p.putV d.toNat fun l => BitVec.ofInt 32 (max (-2147483648) (min 2147483647 ((p.v a.toNat l).toInt - (p.v b.toNat l).toInt)))) ∧
    Gives (.prmt d a b) (fun p => p.putV d.toNat fun l => permute (p.v a.toNat l) (p.v b.toNat l)) ∧
    Gives (.bfe d a b) (fun p => p.putV d.toNat fun l => extract (p.v a.toNat l) (p.v b.toNat l)) ∧
    Gives (.bfi d a b) (fun p => p.putV d.toNat fun l => insertField (p.v a.toNat l) (p.v b.toNat l)) ∧
    Gives (.mad d a b) (fun p => p.putV d.toNat fun l => p.v a.toNat l * p.v b.toNat l + p.v d.toNat l) ∧
    Gives (.idot4 d a b) (fun p => p.putV d.toNat fun l => p.v d.toNat l + BitVec.ofInt 32 (byteDot (p.v a.toNat l) (p.v b.toNat l)))) ∧
  (∀ (x y : Word) (k : Nat), k < 32 →
      let pos := y.toNat % 256
      let e := min (y.toNat / 256 % 256) 32
      let src := fun i => if i < 32 then x.getLsbD i else y.getLsbD 16 && x.getLsbD 31
      (extract x y).getLsbD k =
        if e = 0 then false else if k < e then src (pos + k) else y.getLsbD 16 && src (pos + e - 1)) ∧
  (∀ (x y : Word) (k : Nat), k < 32 →
      let pos := y.toNat % 256
      (insertField x y).getLsbD k =
        if pos ≤ k ∧ k < pos + min (y.toNat / 256 % 256) 16 then y.getLsbD (16 + (k - pos)) else x.getLsbD k)

/-- The forms with a scalar b read the low 32 bits of s[b] as every lane's b and write v[d] (R151, R190, R193). The fields of bfe and bfi are told bit by bit (R195). -/
def Obligations.PairedIntegerScalar : Prop :=
  (∀ (d a b : BitVec 7),
    Gives (.addS d a b) (fun p => p.putV d.toNat fun l => (p.v a.toNat l) + (p.lowWord b)) ∧
    Gives (.subS d a b) (fun p => p.putV d.toNat fun l => (p.v a.toNat l) - (p.lowWord b)) ∧
    Gives (.mulS d a b) (fun p => p.putV d.toNat fun l => (p.v a.toNat l) * (p.lowWord b)) ∧
    Gives (.mulhiI32S d a b) (fun p => p.putV d.toNat fun l => BitVec.ofInt 32 ((p.v a.toNat l).toInt * (p.lowWord b).toInt / 4294967296)) ∧
    Gives (.mulhiN32S d a b) (fun p => p.putV d.toNat fun l => BitVec.ofNat 32 ((p.v a.toNat l).toNat * (p.lowWord b).toNat / 4294967296)) ∧
    Gives (.andS d a b) (fun p => p.putV d.toNat fun l => (p.v a.toNat l) &&& (p.lowWord b)) ∧
    Gives (.orS d a b) (fun p => p.putV d.toNat fun l => (p.v a.toNat l) ||| (p.lowWord b)) ∧
    Gives (.xorS d a b) (fun p => p.putV d.toNat fun l => (p.v a.toNat l) ^^^ (p.lowWord b)) ∧
    Gives (.shlS d a b) (fun p => p.putV d.toNat fun l => if (p.lowWord b).toNat < 32 then (p.v a.toNat l) <<< (p.lowWord b).toNat else 0) ∧
    Gives (.shrS d a b) (fun p => p.putV d.toNat fun l => if (p.lowWord b).toNat < 32 then (p.v a.toNat l) >>> (p.lowWord b).toNat else 0) ∧
    Gives (.sarS d a b) (fun p => p.putV d.toNat fun l => (p.v a.toNat l).sshiftRight (min (p.lowWord b).toNat 31)) ∧
    Gives (.minI32S d a b) (fun p => p.putV d.toNat fun l => if (p.v a.toNat l).slt (p.lowWord b) then (p.v a.toNat l) else (p.lowWord b)) ∧
    Gives (.maxI32S d a b) (fun p => p.putV d.toNat fun l => if (p.v a.toNat l).slt (p.lowWord b) then (p.lowWord b) else (p.v a.toNat l)) ∧
    Gives (.minN32S d a b) (fun p => p.putV d.toNat fun l => if (p.v a.toNat l).ult (p.lowWord b) then (p.v a.toNat l) else (p.lowWord b)) ∧
    Gives (.maxN32S d a b) (fun p => p.putV d.toNat fun l => if (p.v a.toNat l).ult (p.lowWord b) then (p.lowWord b) else (p.v a.toNat l)) ∧
    Gives (.addsatI32S d a b) (fun p => p.putV d.toNat fun l => BitVec.ofInt 32 (max (-2147483648) (min 2147483647 ((p.v a.toNat l).toInt + (p.lowWord b).toInt)))) ∧
    Gives (.subsatI32S d a b) (fun p => p.putV d.toNat fun l => BitVec.ofInt 32 (max (-2147483648) (min 2147483647 ((p.v a.toNat l).toInt - (p.lowWord b).toInt)))) ∧
    Gives (.prmtS d a b) (fun p => p.putV d.toNat fun l => permute (p.v a.toNat l) (p.lowWord b)) ∧
    Gives (.bfeS d a b) (fun p => p.putV d.toNat fun l => extract (p.v a.toNat l) (p.lowWord b)) ∧
    Gives (.bfiS d a b) (fun p => p.putV d.toNat fun l => insertField (p.v a.toNat l) (p.lowWord b)) ∧
    Gives (.madS d a b) (fun p => p.putV d.toNat fun l => p.v a.toNat l * p.lowWord b + p.v d.toNat l) ∧
    Gives (.idot4S d a b) (fun p => p.putV d.toNat fun l => p.v d.toNat l + BitVec.ofInt 32 (byteDot (p.v a.toNat l) (p.lowWord b)))) ∧
  (∀ (x y : Word) (k : Nat), k < 32 →
      let pos := y.toNat % 256
      let e := min (y.toNat / 256 % 256) 32
      let src := fun i => if i < 32 then x.getLsbD i else y.getLsbD 16 && x.getLsbD 31
      (extract x y).getLsbD k =
        if e = 0 then false else if k < e then src (pos + k) else y.getLsbD 16 && src (pos + e - 1)) ∧
  (∀ (x y : Word) (k : Nat), k < 32 →
      let pos := y.toNat % 256
      (insertField x y).getLsbD k =
        if pos ≤ k ∧ k < pos + min (y.toNat / 256 % 256) 16 then y.getLsbD (16 + (k - pos)) else x.getLsbD k)

/-- The 16-bit lane forms read v[d] as their first source (R141); popc, clz, brev, abs, neg, not, mov, sext and selp give the results of R197. -/
def Obligations.ShortAndSingleIntegerLanes : Prop :=
  (∀ (d a : BitVec 5),
    Gives (.add16 d a) (fun p => p.putV d.toNat fun l => (p.v d.toNat l) + (p.v a.toNat l)) ∧
    Gives (.sub16 d a) (fun p => p.putV d.toNat fun l => (p.v d.toNat l) - (p.v a.toNat l)) ∧
    Gives (.mul16 d a) (fun p => p.putV d.toNat fun l => (p.v d.toNat l) * (p.v a.toNat l)) ∧
    Gives (.and16 d a) (fun p => p.putV d.toNat fun l => (p.v d.toNat l) &&& (p.v a.toNat l)) ∧
    Gives (.or16 d a) (fun p => p.putV d.toNat fun l => (p.v d.toNat l) ||| (p.v a.toNat l)) ∧
    Gives (.xor16 d a) (fun p => p.putV d.toNat fun l => (p.v d.toNat l) ^^^ (p.v a.toNat l)) ∧
    Gives (.shl16 d a) (fun p => p.putV d.toNat fun l => if (p.v a.toNat l).toNat < 32 then (p.v d.toNat l) <<< (p.v a.toNat l).toNat else 0) ∧
    Gives (.shr16 d a) (fun p => p.putV d.toNat fun l => if (p.v a.toNat l).toNat < 32 then (p.v d.toNat l) >>> (p.v a.toNat l).toNat else 0) ∧
    Gives (.sar16 d a) (fun p => p.putV d.toNat fun l => (p.v d.toNat l).sshiftRight (min (p.v a.toNat l).toNat 31)) ∧
    Gives (.mov16 d a) (fun p => p.putV d.toNat fun l => p.v a.toNat l)) ∧
  (∀ (d a : BitVec 7),
    Gives (.popc d a) (fun p => p.putV d.toNat fun l => BitVec.ofNat 32 ((List.range 32).countP fun k => (p.v a.toNat l).getLsbD k)) ∧
    Gives (.clz d a) (fun p => p.putV d.toNat fun l => BitVec.ofNat 32 (if p.v a.toNat l = 0 then 32 else 31 - Nat.log2 (p.v a.toNat l).toNat)) ∧
    Gives (.brev d a) (fun p => p.putV d.toNat fun l => (p.v a.toNat l).reverse) ∧
    Gives (.abs d a) (fun p => p.putV d.toNat fun l => if (p.v a.toNat l).slt 0 then -p.v a.toNat l else p.v a.toNat l) ∧
    Gives (.neg d a) (fun p => p.putV d.toNat fun l => -p.v a.toNat l) ∧
    Gives (.not d a) (fun p => p.putV d.toNat fun l => ~~~p.v a.toNat l) ∧
    Gives (.mov d a) (fun p => p.putV d.toNat fun l => p.v a.toNat l) ∧
    (∀ w, Gives (.sext d a w) (fun p => p.putV d.toNat fun l => (p.v a.toNat l <<< (32 - w.toNat)).sshiftRight (32 - w.toNat))) ∧
    (∀ q n, Gives (.selp d a q n) (fun p => p.putV d.toNat fun l => if (p.source q n).getLsbD l then p.v a.toNat l else p.v d.toNat l)))

/-- The class I lane operations use the sign-extended immediate, movi takes its upper bits from an ext, lidx adds the lane number times the immediate, tlu looks its table up (R199, R200); movx and movxr move through the register that a scalar names and fault with 0x41 when the number is above 127 or outside the allotment (R198); setp and setpi write a predicate in the enabled lanes, by the ten conditions of R196; and each byte of a tlu is the table byte that the index byte names, or the fill (R200). -/
def Obligations.ImmediateNamedAndCompareLanes : Prop :=
  (∀ (d a : BitVec 7) ,
    (∀ imm, Gives (.addi d a imm) (fun p => p.putV d.toNat fun l => (p.v a.toNat l) + (imm.signExtend 32))) ∧
    (∀ imm, Gives (.andi d a imm) (fun p => p.putV d.toNat fun l => (p.v a.toNat l) &&& (imm.signExtend 32))) ∧
    (∀ imm, Gives (.ori d a imm) (fun p => p.putV d.toNat fun l => (p.v a.toNat l) ||| (imm.signExtend 32))) ∧
    (∀ imm, Gives (.xori d a imm) (fun p => p.putV d.toNat fun l => (p.v a.toNat l) ^^^ (imm.signExtend 32))) ∧
    (∀ imm, Gives (.muli d a imm) (fun p => p.putV d.toNat fun l => (p.v a.toNat l) * (imm.signExtend 32))) ∧
    (∀ imm, Gives (.shli d a imm) (fun p => p.putV d.toNat fun l => if imm.toNat < 32 then (p.v a.toNat l) <<< imm.toNat else 0)) ∧
    (∀ imm, Gives (.shri d a imm) (fun p => p.putV d.toNat fun l => if imm.toNat < 32 then (p.v a.toNat l) >>> imm.toNat else 0)) ∧
    (∀ imm, Gives (.sari d a imm) (fun p => p.putV d.toNat fun l => (p.v a.toNat l).sshiftRight (min imm.toNat 31))) ∧
    (∀ imm, Gives (.movi d imm) (fun p => p.putV d.toNat fun _ => match p.sq.cur.ext with
        | none => imm.signExtend 32
        | some e => BitVec.ofNat 32 (e.toNat % 4194304 * 1024 + imm.toNat))) ∧
    (∀ imm, Gives (.lidx d a imm) (fun p => p.putV d.toNat fun l => p.v a.toNat l + imm.signExtend 32 * BitVec.ofNat 32 l)) ∧
    (∀ t n, Gives (.tlu d a t n) (fun p => p.putV d.toNat fun l =>
        lookUp p (p.v a.toNat l) t.toNat (n.toNat + 1) ((p.sq.cur.ext.getD 0).toNat % 256) l)) ∧
    GivesWhen (fun p => (p.x d.toNat).toNat < 128 ∧ inAllotment p.sq.ident.allot (p.x d.toNat).toNat = true ∧
        interlocked p.sq ⟨[(p.x d.toNat).toNat], [(p.x d.toNat).toNat], [], [], true⟩ = false) (.movx d a)
        (fun p => p.putV (p.x d.toNat).toNat fun l => p.v a.toNat l) ∧
    GivesWhen (fun p => (p.x a.toNat).toNat < 128 ∧ inAllotment p.sq.ident.allot (p.x a.toNat).toNat = true ∧
        interlocked p.sq ⟨[(p.x a.toNat).toNat], [(p.x a.toNat).toNat], [], [], true⟩ = false ∧
        p.unmarked (p.x a.toNat).toNat p.sq.cur.enabled) (.movxr d a)
        (fun p => p.putV d.toNat fun l => p.v (p.x a.toNat).toNat l) ∧
    FaultsWhen (fun p => 128 ≤ (p.x d.toNat).toNat ∨ (p.sq.ident.allot < (p.x d.toNat).toNat + 5 ∧ (p.x d.toNat).toNat < 124)) (.movx d a) (fun p => { cause := 0x41, lanes := p.sq.cur.enabled }) ∧
    FaultsWhen (fun p => 128 ≤ (p.x a.toNat).toNat ∨ (p.sq.ident.allot < (p.x a.toNat).toNat + 5 ∧ (p.x a.toNat).toNat < 124)) (.movxr d a) (fun p => { cause := 0x41, lanes := p.sq.cur.enabled }) ∧
    (∀ q c b, Gives (.setp q c a b) (fun p => p.setP q.toNat p.sq.cur.enabled
        (lanesWhere fun l => intCond c.toNat (p.v a.toNat l) (p.v b.toNat l)))) ∧
    (∀ q c b, Gives (.setpS q c a b) (fun p => p.setP q.toNat p.sq.cur.enabled
        (lanesWhere fun l => intCond c.toNat (p.v a.toNat l) (p.lowWord b)))) ∧
    (∀ q c imm, Gives (.setpi q c a imm) (fun p => p.setP q.toNat p.sq.cur.enabled
        (lanesWhere fun l => intCond c.toNat (p.v a.toNat l) (imm.signExtend 32))))) ∧
  (∀ x y : Word, (List.range 10).map (fun c => intCond c x y) =
      [decide (x = y), decide (x ≠ y), decide (x.toInt < y.toInt), decide (x.toInt ≤ y.toInt), decide (y.toInt < x.toInt),
        decide (y.toInt ≤ x.toInt), decide (x.toNat < y.toNat), decide (x.toNat ≤ y.toNat), decide (y.toNat < x.toNat),
        decide (y.toNat ≤ x.toNat)]) ∧
  (∀ (p : State) (x : Word) (t n fill l i : Nat), fill < 256 → i < 4 →
      let j := x.toNat / 256 ^ i % 256
      (lookUp p x t n fill l).toNat / 256 ^ i % 256 =
        if j < 4 * n then (p.v (t + j / 4) l).toNat / 256 ^ (j % 4) % 256 else fill)

/-- The class R scalar operations compute on 64-bit values, signed where the name says so, with division by zero as R183 states it; smov, sclz, spopc, the class I scalar operations and li write s[d] (R184, R185); movs, rdlane and wrlane move 32-bit values between the files, and a lane number above 31 raises 0x41 (R182). -/
def Obligations.ScalarInstructions : Prop :=
  (∀ (d a b : BitVec 7),
    Gives (.sadd d a b) (fun p => p.setX d.toNat ((p.x a.toNat) + (p.x b.toNat))) ∧
    Gives (.ssub d a b) (fun p => p.setX d.toNat ((p.x a.toNat) - (p.x b.toNat))) ∧
    Gives (.smul d a b) (fun p => p.setX d.toNat ((p.x a.toNat) * (p.x b.toNat))) ∧
    Gives (.smulhi d a b) (fun p => p.setX d.toNat (BitVec.ofInt 64 ((p.x a.toNat).toInt * (p.x b.toNat).toInt / 18446744073709551616))) ∧
    Gives (.sand d a b) (fun p => p.setX d.toNat ((p.x a.toNat) &&& (p.x b.toNat))) ∧
    Gives (.sor d a b) (fun p => p.setX d.toNat ((p.x a.toNat) ||| (p.x b.toNat))) ∧
    Gives (.sxor d a b) (fun p => p.setX d.toNat ((p.x a.toNat) ^^^ (p.x b.toNat))) ∧
    Gives (.sshl d a b) (fun p => p.setX d.toNat (if (p.x b.toNat).toNat < 64 then (p.x a.toNat) <<< (p.x b.toNat).toNat else 0)) ∧
    Gives (.sshr d a b) (fun p => p.setX d.toNat (if (p.x b.toNat).toNat < 64 then (p.x a.toNat) >>> (p.x b.toNat).toNat else 0)) ∧
    Gives (.ssar d a b) (fun p => p.setX d.toNat ((p.x a.toNat).sshiftRight (min (p.x b.toNat).toNat 63))) ∧
    Gives (.smin d a b) (fun p => p.setX d.toNat (if (p.x a.toNat).slt (p.x b.toNat) then (p.x a.toNat) else (p.x b.toNat))) ∧
    Gives (.smax d a b) (fun p => p.setX d.toNat (if (p.x a.toNat).slt (p.x b.toNat) then (p.x b.toNat) else (p.x a.toNat))) ∧
    Gives (.sminn d a b) (fun p => p.setX d.toNat (if (p.x a.toNat).ult (p.x b.toNat) then (p.x a.toNat) else (p.x b.toNat))) ∧
    Gives (.smaxn d a b) (fun p => p.setX d.toNat (if (p.x a.toNat).ult (p.x b.toNat) then (p.x b.toNat) else (p.x a.toNat))) ∧
    Gives (.seq d a b) (fun p => p.setX d.toNat (if (p.x a.toNat) = (p.x b.toNat) then 1 else 0)) ∧
    Gives (.sne d a b) (fun p => p.setX d.toNat (if (p.x a.toNat) = (p.x b.toNat) then 0 else 1)) ∧
    Gives (.slt d a b) (fun p => p.setX d.toNat (if (p.x a.toNat).slt (p.x b.toNat) then 1 else 0)) ∧
    Gives (.sle d a b) (fun p => p.setX d.toNat (if (p.x a.toNat).sle (p.x b.toNat) then 1 else 0)) ∧
    Gives (.sltn d a b) (fun p => p.setX d.toNat (if (p.x a.toNat).ult (p.x b.toNat) then 1 else 0)) ∧
    Gives (.slen d a b) (fun p => p.setX d.toNat (if (p.x a.toNat).ule (p.x b.toNat) then 1 else 0)) ∧
    Gives (.sdivn d a b) (fun p => p.setX d.toNat (if (p.x b.toNat) = 0 then BitVec.allOnes 64 else (p.x a.toNat) / (p.x b.toNat))) ∧
    Gives (.sremn d a b) (fun p => p.setX d.toNat (if (p.x b.toNat) = 0 then (p.x a.toNat) else (p.x a.toNat) % (p.x b.toNat))) ∧
    Gives (.ssel d a b) (fun p => p.setX d.toNat (if p.x d.toNat = 0 then p.x b.toNat else p.x a.toNat)) ∧
    Gives (.smov d a) (fun p => p.setX d.toNat (p.x a.toNat)) ∧
    Gives (.sclz d a) (fun p => p.setX d.toNat (BitVec.ofNat 64 (if p.x a.toNat = 0 then 64 else 63 - Nat.log2 (p.x a.toNat).toNat))) ∧
    Gives (.spopc d a) (fun p => p.setX d.toNat (BitVec.ofNat 64 ((List.range 64).countP fun k => (p.x a.toNat).getLsbD k))) ∧
    (∀ imm, Gives (.saddi d a imm) (fun p => p.setX d.toNat ((p.x a.toNat) + (imm.signExtend 64)))) ∧
    (∀ imm, Gives (.sandi d a imm) (fun p => p.setX d.toNat ((p.x a.toNat) &&& (imm.signExtend 64)))) ∧
    (∀ imm, Gives (.sori d a imm) (fun p => p.setX d.toNat ((p.x a.toNat) ||| (imm.signExtend 64)))) ∧
    (∀ imm, Gives (.sxori d a imm) (fun p => p.setX d.toNat ((p.x a.toNat) ^^^ (imm.signExtend 64)))) ∧
    (∀ imm, Gives (.smuli d a imm) (fun p => p.setX d.toNat ((p.x a.toNat) * (imm.signExtend 64)))) ∧
    (∀ imm, Gives (.seqi d a imm) (fun p => p.setX d.toNat (if (p.x a.toNat) = (imm.signExtend 64) then 1 else 0))) ∧
    (∀ imm, Gives (.slti d a imm) (fun p => p.setX d.toNat (if (p.x a.toNat).slt (imm.signExtend 64) then 1 else 0))) ∧
    (∀ imm, Gives (.sltni d a imm) (fun p => p.setX d.toNat (if (p.x a.toNat).ult (imm.signExtend 64) then 1 else 0))) ∧
    (∀ imm, Gives (.sshli d a imm) (fun p => p.setX d.toNat (if imm.toNat < 64 then (p.x a.toNat) <<< imm.toNat else 0))) ∧
    (∀ imm, Gives (.sshri d a imm) (fun p => p.setX d.toNat (if imm.toNat < 64 then (p.x a.toNat) >>> imm.toNat else 0))) ∧
    (∀ imm, Gives (.ssari d a imm) (fun p => p.setX d.toNat ((p.x a.toNat).sshiftRight (min imm.toNat 63)))) ∧
    (∀ r imm, Gives (.li r imm) (fun p => p.setX r.toNat (imm.signExtend 64))) ∧
    Gives (.movs d a) (fun p => p.putV d.toNat fun _ => p.lowWord a) ∧
    GivesWhen (fun p => (p.x b.toNat).toNat < 32 ∧ p.unmarked a.toNat (maskOf [(p.x b.toNat).toNat])) (.rdlane d a b)
        (fun p => p.setX d.toNat ((p.v a.toNat (p.x b.toNat).toNat).zeroExtend 64)) ∧
    GivesWhen (fun p => (p.x b.toNat).toNat < 32) (.wrlane d a b)
        (fun p => p.setV d.toNat (maskOf [(p.x b.toNat).toNat]) fun _ => p.lowWord a) ∧
    FaultsWhen (fun p => 32 ≤ (p.x b.toNat).toNat) (.rdlane d a b) (fun p => { cause := 0x41, lanes := p.sq.cur.active }) ∧
    FaultsWhen (fun p => 32 ≤ (p.x b.toNat).toNat) (.wrlane d a b) (fun p => { cause := 0x41, lanes := p.sq.cur.active }))

/-- pand, por, pxor, pset, pget and pmask act on the running group; the votes act on the enabled lanes (R186, R218). -/
def Obligations.PredicatesAndVotes : Prop :=
  (∀ (e : BitVec 3),
    (∀ q x r y, Gives (.pand e q x r y) (fun p => p.setP e.toNat p.sq.cur.active (p.source q x &&& p.source r y))) ∧
    (∀ q x r y, Gives (.por e q x r y) (fun p => p.setP e.toNat p.sq.cur.active (p.source q x ||| p.source r y))) ∧
    (∀ q x r y, Gives (.pxor e q x r y) (fun p => p.setP e.toNat p.sq.cur.active (p.source q x ^^^ p.source r y))) ∧
    (∀ a, Gives (.pset e a) (fun p => p.setP e.toNat p.sq.cur.active (lanesWhere fun l => p.v a.toNat l != 0))) ∧
    (∀ d q n, Gives (.pget d q n) (fun p => p.setV d.toNat p.sq.cur.active fun l => if (p.source q n).getLsbD l then 1 else 0)) ∧
    (∀ a, Gives (.pmask e a 0) (fun p => p.setP e.toNat p.sq.cur.active (p.lowWord a))) ∧
    (∀ a, Gives (.pmask e a 1) (fun p => p)) ∧
    (∀ q n, Gives (.voteAll e q n) (fun p => p.setP e.toNat p.sq.cur.enabled
        (if p.source q n &&& p.sq.cur.enabled = p.sq.cur.enabled then allLanes else 0))) ∧
    (∀ q n, Gives (.voteAny e q n) (fun p => p.setP e.toNat p.sq.cur.enabled (if p.source q n &&& p.sq.cur.enabled = 0 then 0 else allLanes))) ∧
    (∀ q n, Gives (.voteUni e q n) (fun p => p.setP e.toNat p.sq.cur.enabled
        (if p.source q n &&& p.sq.cur.enabled = 0 ∨ p.source q n &&& p.sq.cur.enabled = p.sq.cur.enabled then allLanes else 0))) ∧
    (∀ d q n, Gives (.voteBallot d q n) (fun p => p.setX d.toNat ((p.source q n &&& p.sq.cur.enabled).zeroExtend 64))) ∧
    (∀ d q n, Gives (.voteBallotHi d q n) (fun p => p.setX d.toNat 0)))

/-- fadd, fsub, fmul, fmin, fmax, fdiv, ffma, fnma, their scalar and 16-bit forms, the unary and special functions and the comparisons write their results, and FLAGS gains exactly what the enabled lanes raised, where nothing raised traps (R58, R192, R201 to R204). The relations of fsetp on finite, infinite and NaN operands and what raises invalid (R202), the class bits of fclass and the integral value of frnd (R204) are told by the bits and the exact value of the operand after FTZ (R63, R65). -/
def Obligations.FloatingPointLanes : Prop :=
  (∀ (d a b : BitVec 7),
    LanesGive (.fadd d a b) d.toNat 1 (fun p l => (fadd2 p (p.v a.toNat l) (p.v b.toNat l)).lane) ∧
    LanesGive (.faddS d a b) d.toNat 1 (fun p l => (fadd2 p (p.v a.toNat l) (p.lowWord b)).lane) ∧
    LanesGive (.fsub d a b) d.toNat 1 (fun p l => (fsub2 p (p.v a.toNat l) (p.v b.toNat l)).lane) ∧
    LanesGive (.fsubS d a b) d.toNat 1 (fun p l => (fsub2 p (p.v a.toNat l) (p.lowWord b)).lane) ∧
    LanesGive (.fmul d a b) d.toNat 1 (fun p l => (fmul2 p (p.v a.toNat l) (p.v b.toNat l)).lane) ∧
    LanesGive (.fmulS d a b) d.toNat 1 (fun p l => (fmul2 p (p.v a.toNat l) (p.lowWord b)).lane) ∧
    LanesGive (.fmin d a b) d.toNat 1 (fun p l => (fmin2 p false (p.v a.toNat l) (p.v b.toNat l)).lane) ∧
    LanesGive (.fminS d a b) d.toNat 1 (fun p l => (fmin2 p false (p.v a.toNat l) (p.lowWord b)).lane) ∧
    LanesGive (.fmax d a b) d.toNat 1 (fun p l => (fmin2 p true (p.v a.toNat l) (p.v b.toNat l)).lane) ∧
    LanesGive (.fmaxS d a b) d.toNat 1 (fun p l => (fmin2 p true (p.v a.toNat l) (p.lowWord b)).lane) ∧
    LanesGive (.fdiv d a b) d.toNat 1 (fun p l => (fdiv2 p (p.v a.toNat l) (p.v b.toNat l)).lane) ∧
    LanesGive (.fdivS d a b) d.toNat 1 (fun p l => (fdiv2 p (p.v a.toNat l) (p.lowWord b)).lane) ∧
    LanesGive (.ffma d a b) d.toNat 1 (fun p l => (ffma3 p (p.v a.toNat l) (p.v b.toNat l) (p.v d.toNat l)).lane) ∧
    LanesGive (.ffmaS d a b) d.toNat 1 (fun p l => (ffma3 p (p.v a.toNat l) (p.lowWord b) (p.v d.toNat l)).lane) ∧
    LanesGive (.fnma d a b) d.toNat 1 (fun p l => (fnma3 p (p.v a.toNat l) (p.v b.toNat l) (p.v d.toNat l)).lane) ∧
    LanesGive (.fnmaS d a b) d.toNat 1 (fun p l => (fnma3 p (p.v a.toNat l) (p.lowWord b) (p.v d.toNat l)).lane)) ∧
  (∀ (d a : BitVec 5),
    LanesGive (.fadd16 d a) d.toNat 1 (fun p l => (fadd2 p (p.v d.toNat l) (p.v a.toNat l)).lane) ∧
    LanesGive (.fsub16 d a) d.toNat 1 (fun p l => (fsub2 p (p.v d.toNat l) (p.v a.toNat l)).lane) ∧
    LanesGive (.fmul16 d a) d.toNat 1 (fun p l => (fmul2 p (p.v d.toNat l) (p.v a.toNat l)).lane) ∧
    LanesGive (.fmin16 d a) d.toNat 1 (fun p l => (fmin2 p false (p.v d.toNat l) (p.v a.toNat l)).lane) ∧
    LanesGive (.fmax16 d a) d.toNat 1 (fun p l => (fmin2 p true (p.v d.toNat l) (p.v a.toNat l)).lane) ∧
    Gives (.fneg16 d a) (fun p => p.putV d.toNat fun l => signOp p true (p.v a.toNat l))) ∧
  (∀ (d a : BitVec 7),
    LanesGive (.frcp d a) d.toNat 1 (fun p l => (fdiv2 p 0x3F800000 (p.v a.toNat l)).lane) ∧
    LanesGive (.frsq d a) d.toNat 1 (fun p l => (fp32.rsqrt (ftzOn p) (f32 p (p.v a.toNat l))).lane) ∧
    LanesGive (.fsqrt d a) d.toNat 1 (fun p l => (fp32.sqrt (ftzOn p) (f32 p (p.v a.toNat l))).lane) ∧
    LanesGive (.fex2 d a) d.toNat 1 (fun p l => (specialEx2 (ftzOn p) (p.v a.toNat l).toNat).lane) ∧
    LanesGive (.flg2 d a) d.toNat 1 (fun p l => (specialLg2 (ftzOn p) (p.v a.toNat l).toNat).lane) ∧
    LanesGive (.fsin d a) d.toNat 1 (fun p l => (specialSinCos (ftzOn p) false (p.v a.toNat l).toNat).lane) ∧
    LanesGive (.fcos d a) d.toNat 1 (fun p l => (specialSinCos (ftzOn p) true (p.v a.toNat l).toNat).lane) ∧
    LanesGive (.ftanh d a) d.toNat 1 (fun p l => (specialTanh (ftzOn p) (p.v a.toNat l).toNat).lane) ∧
    (∀ m, LanesGive (.frnd d a m) d.toNat 1 (fun p l => (roundIntegral p m.toNat (p.v a.toNat l)).lane)) ∧
    Gives (.fabs d a) (fun p => p.putV d.toNat fun l => signOp p false (p.v a.toNat l)) ∧
    Gives (.fneg d a) (fun p => p.putV d.toNat fun l => signOp p true (p.v a.toNat l)) ∧
    Gives (.fclass d a) (fun p => p.putV d.toNat fun l => classOf p (p.v a.toNat l)) ∧
    (∀ q c a b, CompareGives (.fsetp q c a b) q (fun p l => floatCond c.toNat (f32 p (p.v a.toNat l)) (f32 p (p.v b.toNat l)))) ∧
    (∀ q c a b, CompareGives (.fsetpS q c a b) q (fun p l => floatCond c.toNat (f32 p (p.v a.toNat l)) (f32 p (p.lowWord b))))) ∧
  (∀ (p : State) (x : Word),
      let E := x.toNat / 8388608 % 256
      let F := x.toNat % 8388608
      f32 p x = if E = 255 then (if F = 0 then .inf (x.getLsbD 31) else .nan (!x.getLsbD 22))
        else if E = 0 then .fin (x.getLsbD 31) (if ftzOn p = true then 0 else F) (-149)
        else .fin (x.getLsbD 31) (F + 8388608) ((E : Int) - 150)) ∧
  (∀ (c ma mb : Nat) (na nb : Bool) (ea eb : Int), c ≤ 11 →
      let x := signedUnits (min ea eb) na ma ea
      let y := signedUnits (min ea eb) nb mb eb
      floatCond c (.fin na ma ea) (.fin nb mb eb) =
        ([decide (x = y), decide (x ≠ y), decide (x < y), decide (x ≤ y), decide (y < x), decide (y ≤ x), false, true,
          decide (x < y), decide (x ≤ y), decide (y < x), decide (y ≤ x)].getD c false, false)) ∧
  (∀ (c : Nat) (x y : Machine.Num), c ≤ 11 → (x.isNan || y.isNan) = true →
      floatCond c x y = (decide (c = 1 ∨ c = 6), decide (8 ≤ c) || x.isSnan || y.isSnan)) ∧
  (∀ (c m : Nat) (n k : Bool) (e : Int), floatCond c (.inf n) (.fin k m e) = floatCond c (.fin n 1 0) (.fin false 0 0) ∧
      floatCond c (.fin k m e) (.inf n) = floatCond c (.fin false 0 0) (.fin n 1 0) ∧
      floatCond c (.inf n) (.inf k) = floatCond c (.fin n 1 0) (.fin k 1 0)) ∧
  (∀ (p : State) (x : Word),
      let E := x.toNat / 8388608 % 256
      let F := x.toNat % 8388608
      let n := x.getLsbD 31
      classOf p x = if E = 255 then (if F = 0 then (if n = true then 4 else 0x200) else if F < 4194304 then 1 else 2)
        else if E ≠ 0 then (if n = true then 8 else 0x100)
        else if F = 0 ∨ ftzOn p = true then (if n = true then 0x20 else 0x40) else (if n = true then 0x10 else 0x80)) ∧
  (∀ (p : State) (m : Nat) (x : Word), m ≤ 4 →
      (∀ g, f32 p x = .nan g → roundIntegral p m x = { bits := 0x7FC00000, fx := if g = true then 1 else 0, nan := true }) ∧
      (∀ n, f32 p x = .inf n → roundIntegral p m x = { bits := if n = true then 0xFF800000 else 0x7F800000 }) ∧
      (∀ n k e, f32 p x = .fin n k e → ∃ (v : Int) (i : Nat) (q : Int),
        Rounds (if m = 4 then roundMode p else m) (signedUnits (min e 0) n k e) (units (min e 0) 0 1) v ∧
        (roundIntegral p m x).fx = 0 ∧ fp32.decode (roundIntegral p m x).bits = .fin n i q ∧
        signedUnits (min q 0) n i q = v * units (min q 0) 0 1))

/-- The packed FP16 and BF16 operations and dot2 (R205, R206), and the conversions and MX quantisation with the statistics of their tensor tag (R208 to R215), where nothing raised traps. The integer of cvtfi, with its bounds and what it raises and counts (R209), the value of cvtif (R210), the scale of a block from its largest element (R214), and the nearest MXINT8 or E2M1 code of an element with what it counts (R215) are told by exact values. That dot2 tests a quiet NaN before infinities of opposite sign is the model's choice (log 102, DESIGN CHOICE). -/
def Obligations.PackedAndConversions : Prop :=
  (∀ (d a b c : BitVec 7),
    LanesGive (.hadd2 d a b) d.toNat 1 (fun p l => packed 16 ([0, 1].map fun k => fp16.add (roundMode p) (ftzOn p) (halfNum fp16 p (p.v a.toNat l) k) (halfNum fp16 p (p.v b.toNat l) k))) ∧
    LanesGive (.hmul2 d a b) d.toNat 1 (fun p l => packed 16 ([0, 1].map fun k => fp16.mul (roundMode p) (ftzOn p) (halfNum fp16 p (p.v a.toNat l) k) (halfNum fp16 p (p.v b.toNat l) k))) ∧
    LanesGive (.hfma2 d a b) d.toNat 1 (fun p l => packed 16 ([0, 1].map fun k => fp16.fma (roundMode p) (ftzOn p) (halfNum fp16 p (p.v a.toNat l) k) (halfNum fp16 p (p.v b.toNat l) k) (halfNum fp16 p (p.v d.toNat l) k))) ∧
    LanesGive (.hadd2S d a b) d.toNat 1 (fun p l => packed 16 ([0, 1].map fun k => fp16.add (roundMode p) (ftzOn p) (halfNum fp16 p (p.v a.toNat l) k) (halfNum fp16 p (p.lowWord b) k))) ∧
    LanesGive (.hmul2S d a b) d.toNat 1 (fun p l => packed 16 ([0, 1].map fun k => fp16.mul (roundMode p) (ftzOn p) (halfNum fp16 p (p.v a.toNat l) k) (halfNum fp16 p (p.lowWord b) k))) ∧
    LanesGive (.hfma2S d a b) d.toNat 1 (fun p l => packed 16 ([0, 1].map fun k => fp16.fma (roundMode p) (ftzOn p) (halfNum fp16 p (p.v a.toNat l) k) (halfNum fp16 p (p.lowWord b) k) (halfNum fp16 p (p.v d.toNat l) k))) ∧
    LanesGive (.badd2 d a b) d.toNat 1 (fun p l => packed 16 ([0, 1].map fun k => bf16.add (roundMode p) (ftzOn p) (halfNum bf16 p (p.v a.toNat l) k) (halfNum bf16 p (p.v b.toNat l) k))) ∧
    LanesGive (.bmul2 d a b) d.toNat 1 (fun p l => packed 16 ([0, 1].map fun k => bf16.mul (roundMode p) (ftzOn p) (halfNum bf16 p (p.v a.toNat l) k) (halfNum bf16 p (p.v b.toNat l) k))) ∧
    LanesGive (.bfma2 d a b) d.toNat 1 (fun p l => packed 16 ([0, 1].map fun k => bf16.fma (roundMode p) (ftzOn p) (halfNum bf16 p (p.v a.toNat l) k) (halfNum bf16 p (p.v b.toNat l) k) (halfNum bf16 p (p.v d.toNat l) k))) ∧
    LanesGive (.badd2S d a b) d.toNat 1 (fun p l => packed 16 ([0, 1].map fun k => bf16.add (roundMode p) (ftzOn p) (halfNum bf16 p (p.v a.toNat l) k) (halfNum bf16 p (p.lowWord b) k))) ∧
    LanesGive (.bmul2S d a b) d.toNat 1 (fun p l => packed 16 ([0, 1].map fun k => bf16.mul (roundMode p) (ftzOn p) (halfNum bf16 p (p.v a.toNat l) k) (halfNum bf16 p (p.lowWord b) k))) ∧
    LanesGive (.bfma2S d a b) d.toNat 1 (fun p l => packed 16 ([0, 1].map fun k => bf16.fma (roundMode p) (ftzOn p) (halfNum bf16 p (p.v a.toNat l) k) (halfNum bf16 p (p.lowWord b) k) (halfNum bf16 p (p.v d.toNat l) k))) ∧
    LanesGive (.dot2 d a b) d.toNat 2 (fun p l => spread ([0, 1].map fun k => fp32.dot (roundMode p) (ftzOn p) (f32 p (p.v (d.toNat + k) l))
        ([0, 1].map fun j => (halfNum bf16 p (p.v (a.toNat + k) l) j, halfNum bf16 p (p.v b.toNat l) j)))) ∧
    LanesGive (.dot2S d a b) d.toNat 2 (fun p l => spread ([0, 1].map fun k => fp32.dot (roundMode p) (ftzOn p) (f32 p (p.v (d.toNat + k) l))
        ([0, 1].map fun j => (halfNum bf16 p (p.v (a.toNat + k) l) j, halfNum bf16 p (p.lowWord b) j)))) ∧
    TaggedGives (.cvtfi d a c) d.toNat (fun p l => floatToInt p c.toNat (p.v a.toNat l)) ∧
    TaggedGives (.cvtif d a c) d.toNat (fun p l => (intToFloat p c.toNat (p.v a.toNat l)).counted) ∧
    TaggedGives (.cvtff d a c) d.toNat (fun p l =>
        (floatToFloat p (c.toNat % 8) (c.toNat / 8 % 8) (bit c.toNat 6) (p.v a.toNat l).toNat).counted) ∧
    TaggedGives (.cvtpk d a c) d.toNat (fun p l => packed (32 / packCount (c.toNat % 8)) ((List.range (packCount (c.toNat % 8))).map fun k =>
        floatToFloat p 0 (c.toNat % 8) (bit c.toNat 3) (p.v (a.toNat + k) l).toNat)) ∧
    LanesGive (.cvtup d a c) d.toNat (packCount (c.toNat % 8)) (fun p l => spread ((List.range (packCount (c.toNat % 8))).map fun k =>
        convert (fmtOf (c.toNat % 8)) fp32 0 (ftzOn p) false
          ((p.v a.toNat l).toNat / 2 ^ (32 / packCount (c.toNat % 8) * k) % 2 ^ (32 / packCount (c.toNat % 8))))) ∧
    (∀ m, Gives (.mxscale d a m) (fun p => p.putV d.toNat fun _ => BitVec.ofNat 32 (mxScale (mxEmax m) (blockElements p a.toNat)))) ∧
    (∀ m, TaggedGives (.mxq d a m) d.toNat (fun p l => mxLane m (mxScale (mxEmax m) (blockElements p a.toNat)) (f32 p (p.v a.toNat l))))) ∧
  (∀ (p : State) (c : Nat) (x : Word), c < 128 → c % 4 ≤ 2 → c / 4 % 8 ≤ 5 →
      let lo : Int := [-2147483648, 0, -32768, 0, -128, 0].getD (c / 4 % 8) 0
      let hi : Int := [2147483647, 4294967295, 32767, 65535, 127, 255].getD (c / 4 % 8) 0
      let y := ([fp32, fp16, bf16].getD (c % 4) fp32).operand (ftzOn p) x.toNat
      (∀ g, y = .nan g → floatToInt p c x = { words := [0], fx := 1, nan := 1 }) ∧
      (∀ n, y = .inf n → floatToInt p c x = { words := [BitVec.ofInt 32 (if n = true then lo else hi)], fx := 1, sat := 1 }) ∧
      (∀ n k e, y = .fin n k e → ∃ v,
        Rounds ([1, 0, roundMode p, 2].getD (c / 32) 0) (signedUnits (min e 0) n k e) (units (min e 0) 0 1) v ∧
        floatToInt p c x = if v < lo then { words := [BitVec.ofInt 32 lo], fx := 1, sat := 1 }
          else if hi < v then { words := [BitVec.ofInt 32 hi], fx := 1, sat := 1 }
          else { words := [BitVec.ofInt 32 v], fx := if v * units (min e 0) 0 1 = signedUnits (min e 0) n k e then 0 else 16
                 flush := if k ≠ 0 ∧ v = 0 then 1 else 0 })) ∧
  (∀ (p : State) (c : Nat) (x : Word), c < 64 → c % 8 ≤ 5 → c / 8 % 4 ≤ 2 →
      let v : Int := [x.toInt, (x.toNat : Int), (x.extractLsb' 0 16).toInt, (x.toNat % 65536 : Nat), (x.extractLsb' 0 8).toInt,
        (x.toNat % 256 : Nat)].getD (c % 8) 0
      intToFloat p c x = ([fp32, fp16, bf16].getD (c / 8 % 4) fp32).finite (roundMode p) (ftzOn p) (decide (c / 32 % 2 = 1))
        (decide (v < 0)) v.natAbs 0 false) ∧
  (mxEmax 0 = 0 ∧ mxEmax 1 = 2) ∧
  (∀ (p : State) (r l : Nat), l < 32 →
      (blockElements p r)[l]? = some (if p.sq.cur.enabled.getLsbD l = true then f32 p (p.v r l) else .fin false 0 0)) ∧
  (∀ (g : Int) (xs : List Machine.Num), (∃ x ∈ xs, (x.isNan || x.isInf) = true) → mxScale g xs = 255) ∧
  (∀ (g : Int) (xs : List Machine.Num), (∀ x ∈ xs, ∃ n e, x = .fin n 0 e) → mxScale g xs = 127) ∧
  (∀ (g : Int) (xs : List Machine.Num) (n : Bool) (k : Nat) (e i : Int), (∀ x ∈ xs, ∃ n m q, x = .fin n m q ∧
        units (min q e) q m ≤ units (min q e) e k) → .fin n k e ∈ xs →
      units (min i e) i 1 ≤ units (min i e) e k → units (min i e) e k < 2 * units (min i e) i 1 →
      mxScale g xs = (max 0 (min 254 (i - g + 127))).toNat) ∧
  (∀ (f : BitVec 1) (X : Nat) (x : Machine.Num), X = 255 ∨ x.isNan = true →
      mxLane f X x = { words := [BitVec.ofNat 32 (X * 256)], fx := 0, nan := 1 }) ∧
  (∀ (X k : Nat) (n : Bool) (e : Int), X < 255 →
      let q := e + 133 - (X : Int)
      ∃ v, Rounds 0 (signedUnits (min q 0) n k q) (units (min q 0) 0 1) v ∧
        let u := max (-128) (min 127 v)
        mxLane 0 X (.fin n k e) = { words := [BitVec.ofNat 32 ((BitVec.ofInt 8 u).toNat + X * 256)], fx := 0
                                    sat := if u = v then 0 else 1, flush := if k ≠ 0 ∧ u = 0 then 1 else 0 }) ∧
  (∀ (X k : Nat) (n : Bool) (e : Int), X < 255 →
      let q := e + 127 - (X : Int)
      let z : Int := units (min q (-1)) q k
      let o : Int := units (min q (-1)) (-1) 1
      let at_ := fun i : Nat => (([0, 1, 2, 3, 4, 6, 8, 12].getD i 0 : Int) * o - z).natAbs
      ∃ i, i < 8 ∧ (∀ j, j < 8 → at_ i ≤ at_ j ∧ (at_ i = at_ j → j = i ∨ i % 2 = 0)) ∧
        mxLane 1 X (.fin n k e) = { words := [BitVec.ofNat 32 ((if n = true then i + 8 else i) + X * 256)], fx := 0
                                    sat := if 14 * o ≤ z then 1 else 0, flush := if k ≠ 0 ∧ i = 0 then 1 else 0 })

/-- Every FP instruction whose enabled exceptions are raised delivers its trap as R281 to R285 say. -/
def Obligations.FloatingPointTraps : Prop :=
  (∀ (d a b c : BitVec 7),
    LanesTrap (.fadd d a b) d.toNat 1 0
        (fun p l => (fadd2 p (p.v a.toNat l) (p.v b.toNat l)).lane) ∧
    LanesTrap (.faddS d a b) d.toNat 1 0
        (fun p l => (fadd2 p (p.v a.toNat l) (p.lowWord b)).lane) ∧
    LanesTrap (.fsub d a b) d.toNat 1 0
        (fun p l => (fsub2 p (p.v a.toNat l) (p.v b.toNat l)).lane) ∧
    LanesTrap (.fsubS d a b) d.toNat 1 0
        (fun p l => (fsub2 p (p.v a.toNat l) (p.lowWord b)).lane) ∧
    LanesTrap (.fmul d a b) d.toNat 1 0
        (fun p l => (fmul2 p (p.v a.toNat l) (p.v b.toNat l)).lane) ∧
    LanesTrap (.fmulS d a b) d.toNat 1 0
        (fun p l => (fmul2 p (p.v a.toNat l) (p.lowWord b)).lane) ∧
    LanesTrap (.fmin d a b) d.toNat 1 0
        (fun p l => (fmin2 p false (p.v a.toNat l) (p.v b.toNat l)).lane) ∧
    LanesTrap (.fminS d a b) d.toNat 1 0
        (fun p l => (fmin2 p false (p.v a.toNat l) (p.lowWord b)).lane) ∧
    LanesTrap (.fmax d a b) d.toNat 1 0
        (fun p l => (fmin2 p true (p.v a.toNat l) (p.v b.toNat l)).lane) ∧
    LanesTrap (.fmaxS d a b) d.toNat 1 0
        (fun p l => (fmin2 p true (p.v a.toNat l) (p.lowWord b)).lane) ∧
    LanesTrap (.fdiv d a b) d.toNat 1 0
        (fun p l => (fdiv2 p (p.v a.toNat l) (p.v b.toNat l)).lane) ∧
    LanesTrap (.fdivS d a b) d.toNat 1 0
        (fun p l => (fdiv2 p (p.v a.toNat l) (p.lowWord b)).lane) ∧
    LanesTrap (.ffma d a b) d.toNat 1 0
        (fun p l => (ffma3 p (p.v a.toNat l) (p.v b.toNat l) (p.v d.toNat l)).lane) ∧
    LanesTrap (.ffmaS d a b) d.toNat 1 0
        (fun p l => (ffma3 p (p.v a.toNat l) (p.lowWord b) (p.v d.toNat l)).lane) ∧
    LanesTrap (.fnma d a b) d.toNat 1 0
        (fun p l => (fnma3 p (p.v a.toNat l) (p.v b.toNat l) (p.v d.toNat l)).lane) ∧
    LanesTrap (.fnmaS d a b) d.toNat 1 0
        (fun p l => (fnma3 p (p.v a.toNat l) (p.lowWord b) (p.v d.toNat l)).lane) ∧
    LanesTrap (.frcp d a) d.toNat 1 0
        (fun p l => (fdiv2 p 0x3F800000 (p.v a.toNat l)).lane) ∧
    LanesTrap (.frsq d a) d.toNat 1 0
        (fun p l => (fp32.rsqrt (ftzOn p) (f32 p (p.v a.toNat l))).lane) ∧
    LanesTrap (.fsqrt d a) d.toNat 1 0
        (fun p l => (fp32.sqrt (ftzOn p) (f32 p (p.v a.toNat l))).lane) ∧
    LanesTrap (.fex2 d a) d.toNat 1 0
        (fun p l => (specialEx2 (ftzOn p) (p.v a.toNat l).toNat).lane) ∧
    LanesTrap (.flg2 d a) d.toNat 1 0
        (fun p l => (specialLg2 (ftzOn p) (p.v a.toNat l).toNat).lane) ∧
    LanesTrap (.fsin d a) d.toNat 1 0
        (fun p l => (specialSinCos (ftzOn p) false (p.v a.toNat l).toNat).lane) ∧
    LanesTrap (.fcos d a) d.toNat 1 0
        (fun p l => (specialSinCos (ftzOn p) true (p.v a.toNat l).toNat).lane) ∧
    LanesTrap (.ftanh d a) d.toNat 1 0
        (fun p l => (specialTanh (ftzOn p) (p.v a.toNat l).toNat).lane) ∧
    (∀ m, LanesTrap (.frnd d a m) d.toNat 1 0
        (fun p l => (roundIntegral p m.toNat (p.v a.toNat l)).lane)) ∧
    (∀ q c a b, CompareTraps (.fsetp q c a b) q
        (fun p l => floatCond c.toNat (f32 p (p.v a.toNat l)) (f32 p (p.v b.toNat l)))) ∧
    (∀ q c a b, CompareTraps (.fsetpS q c a b) q
        (fun p l => floatCond c.toNat (f32 p (p.v a.toNat l)) (f32 p (p.lowWord b)))) ∧
    LanesTrap (.hadd2 d a b) d.toNat 1 1
        (fun p l => packed 16 ([0, 1].map fun k => fp16.add (roundMode p) (ftzOn p) (halfNum fp16 p (p.v a.toNat l) k) (halfNum fp16 p (p.v b.toNat l) k))) ∧
    LanesTrap (.hmul2 d a b) d.toNat 1 1
        (fun p l => packed 16 ([0, 1].map fun k => fp16.mul (roundMode p) (ftzOn p) (halfNum fp16 p (p.v a.toNat l) k) (halfNum fp16 p (p.v b.toNat l) k))) ∧
    LanesTrap (.hfma2 d a b) d.toNat 1 1
        (fun p l => packed 16 ([0, 1].map fun k => fp16.fma (roundMode p) (ftzOn p) (halfNum fp16 p (p.v a.toNat l) k) (halfNum fp16 p (p.v b.toNat l) k) (halfNum fp16 p (p.v d.toNat l) k))) ∧
    LanesTrap (.hadd2S d a b) d.toNat 1 1
        (fun p l => packed 16 ([0, 1].map fun k => fp16.add (roundMode p) (ftzOn p) (halfNum fp16 p (p.v a.toNat l) k) (halfNum fp16 p (p.lowWord b) k))) ∧
    LanesTrap (.hmul2S d a b) d.toNat 1 1
        (fun p l => packed 16 ([0, 1].map fun k => fp16.mul (roundMode p) (ftzOn p) (halfNum fp16 p (p.v a.toNat l) k) (halfNum fp16 p (p.lowWord b) k))) ∧
    LanesTrap (.hfma2S d a b) d.toNat 1 1
        (fun p l => packed 16 ([0, 1].map fun k => fp16.fma (roundMode p) (ftzOn p) (halfNum fp16 p (p.v a.toNat l) k) (halfNum fp16 p (p.lowWord b) k) (halfNum fp16 p (p.v d.toNat l) k))) ∧
    LanesTrap (.badd2 d a b) d.toNat 1 2
        (fun p l => packed 16 ([0, 1].map fun k => bf16.add (roundMode p) (ftzOn p) (halfNum bf16 p (p.v a.toNat l) k) (halfNum bf16 p (p.v b.toNat l) k))) ∧
    LanesTrap (.bmul2 d a b) d.toNat 1 2
        (fun p l => packed 16 ([0, 1].map fun k => bf16.mul (roundMode p) (ftzOn p) (halfNum bf16 p (p.v a.toNat l) k) (halfNum bf16 p (p.v b.toNat l) k))) ∧
    LanesTrap (.bfma2 d a b) d.toNat 1 2
        (fun p l => packed 16 ([0, 1].map fun k => bf16.fma (roundMode p) (ftzOn p) (halfNum bf16 p (p.v a.toNat l) k) (halfNum bf16 p (p.v b.toNat l) k) (halfNum bf16 p (p.v d.toNat l) k))) ∧
    LanesTrap (.badd2S d a b) d.toNat 1 2
        (fun p l => packed 16 ([0, 1].map fun k => bf16.add (roundMode p) (ftzOn p) (halfNum bf16 p (p.v a.toNat l) k) (halfNum bf16 p (p.lowWord b) k))) ∧
    LanesTrap (.bmul2S d a b) d.toNat 1 2
        (fun p l => packed 16 ([0, 1].map fun k => bf16.mul (roundMode p) (ftzOn p) (halfNum bf16 p (p.v a.toNat l) k) (halfNum bf16 p (p.lowWord b) k))) ∧
    LanesTrap (.bfma2S d a b) d.toNat 1 2
        (fun p l => packed 16 ([0, 1].map fun k => bf16.fma (roundMode p) (ftzOn p) (halfNum bf16 p (p.v a.toNat l) k) (halfNum bf16 p (p.lowWord b) k) (halfNum bf16 p (p.v d.toNat l) k))) ∧
    LanesTrap (.dot2 d a b) d.toNat 2 0
        (fun p l => spread ([0, 1].map fun k => fp32.dot (roundMode p) (ftzOn p) (f32 p (p.v (d.toNat + k) l))
        ([0, 1].map fun j => (halfNum bf16 p (p.v (a.toNat + k) l) j, halfNum bf16 p (p.v b.toNat l) j)))) ∧
    LanesTrap (.dot2S d a b) d.toNat 2 0
        (fun p l => spread ([0, 1].map fun k => fp32.dot (roundMode p) (ftzOn p) (f32 p (p.v (d.toNat + k) l))
        ([0, 1].map fun j => (halfNum bf16 p (p.v (a.toNat + k) l) j, halfNum bf16 p (p.lowWord b) j)))) ∧
    TaggedTraps (.cvtfi d a c) d.toNat (8 + c.toNat / 4 % 8)
        (fun p l => floatToInt p c.toNat (p.v a.toNat l)) ∧
    TaggedTraps (.cvtif d a c) d.toNat (c.toNat / 8 % 4)
        (fun p l => (intToFloat p c.toNat (p.v a.toNat l)).counted) ∧
    TaggedTraps (.cvtff d a c) d.toNat (c.toNat / 8 % 8)
        (fun p l =>
        (floatToFloat p (c.toNat % 8) (c.toNat / 8 % 8) (bit c.toNat 6) (p.v a.toNat l).toNat).counted) ∧
    TaggedTraps (.cvtpk d a c) d.toNat (c.toNat % 8)
        (fun p l => packed (32 / packCount (c.toNat % 8)) ((List.range (packCount (c.toNat % 8))).map fun k =>
        floatToFloat p 0 (c.toNat % 8) (bit c.toNat 3) (p.v (a.toNat + k) l).toNat)) ∧
    LanesTrap (.cvtup d a c) d.toNat (packCount (c.toNat % 8)) 0
        (fun p l => spread ((List.range (packCount (c.toNat % 8))).map fun k =>
        convert (fmtOf (c.toNat % 8)) fp32 0 (ftzOn p) false
          ((p.v a.toNat l).toNat / 2 ^ (32 / packCount (c.toNat % 8) * k) % 2 ^ (32 / packCount (c.toNat % 8))))) ∧
    (∀ o, LanesTrap (.redsq d a o) d.toNat 1 0
        (fun p l => combined (if o.toNat = 8 && p.nbv == 1
        then inOrder (combine p o.toNat) (entering p a.toNat o.toNat) else butterfly (combine p o.toNat) (entering p a.toNat o.toNat)) l)) ∧
    (∀ o, LanesTrap (.scan d a o) d.toNat 1 0
        (fun p l => combined (prefixes (combine p o.toNat) (entering p a.toNat o.toNat)) l))) ∧
  (∀ (d a : BitVec 5),
    LanesTrap (.fadd16 d a) d.toNat 1 0
        (fun p l => (fadd2 p (p.v d.toNat l) (p.v a.toNat l)).lane) ∧
    LanesTrap (.fsub16 d a) d.toNat 1 0
        (fun p l => (fsub2 p (p.v d.toNat l) (p.v a.toNat l)).lane) ∧
    LanesTrap (.fmul16 d a) d.toNat 1 0
        (fun p l => (fmul2 p (p.v d.toNat l) (p.v a.toNat l)).lane) ∧
    LanesTrap (.fmin16 d a) d.toNat 1 0
        (fun p l => (fmin2 p false (p.v d.toNat l) (p.v a.toNat l)).lane) ∧
    LanesTrap (.fmax16 d a) d.toNat 1 0
        (fun p l => (fmin2 p true (p.v d.toNat l) (p.v a.toNat l)).lane))

/-- A shuffle reads its source lane before any lane is written, a distance above 31 raises 0x41, redsq and scan combine the enabled lanes, and match compares them (R216, R217, R219). Where several marks are met, the one that the fault names is the model's choice (log 22, DESIGN CHOICE). -/
def Obligations.CrossLaneInstructions : Prop :=
  (∀ (d a b : BitVec 7),
    GivesWhen (fun p => p.unmarked a.toNat (p.sourceLanes fun l => (p.v b.toNat l).toNat % 32)) (.shflIdx d a b)
        (fun p => p.putV d.toNat fun l => p.v a.toNat ((p.v b.toNat l).toNat % 32)) ∧
    GivesWhen (fun p => (p.x b.toNat).toNat < 32 ∧ p.unmarked a.toNat (p.sourceLanes fun l => l ^^^ (p.x b.toNat).toNat)) (.shflXor d a b)
        (fun p => p.putV d.toNat fun l => p.v a.toNat (l ^^^ (p.x b.toNat).toNat)) ∧
    FaultsWhen (fun p => 32 ≤ (p.x b.toNat).toNat) (.shflXor d a b) (fun p => { cause := 0x41, lanes := p.sq.cur.enabled }) ∧
    GivesWhen (fun p => (p.x b.toNat).toNat < 32 ∧ p.unmarked a.toNat (p.sourceLanes fun l => if l < (p.x b.toNat).toNat then l else l - (p.x b.toNat).toNat)) (.shflUp d a b)
        (fun p => p.putV d.toNat fun l => p.v a.toNat (if l < (p.x b.toNat).toNat then l else l - (p.x b.toNat).toNat)) ∧
    FaultsWhen (fun p => 32 ≤ (p.x b.toNat).toNat) (.shflUp d a b) (fun p => { cause := 0x41, lanes := p.sq.cur.enabled }) ∧
    GivesWhen (fun p => (p.x b.toNat).toNat < 32 ∧ p.unmarked a.toNat (p.sourceLanes fun l => if 32 ≤ l + (p.x b.toNat).toNat then l else l + (p.x b.toNat).toNat)) (.shflDn d a b)
        (fun p => p.putV d.toNat fun l => p.v a.toNat (if 32 ≤ l + (p.x b.toNat).toNat then l else l + (p.x b.toNat).toNat)) ∧
    FaultsWhen (fun p => 32 ≤ (p.x b.toNat).toNat) (.shflDn d a b) (fun p => { cause := 0x41, lanes := p.sq.cur.enabled }) ∧
    (∀ o, LanesGive (.redsq d a o) d.toNat 1 (fun p l => combined (if o.toNat = 8 && p.nbv == 1
        then inOrder (combine p o.toNat) (entering p a.toNat o.toNat) else butterfly (combine p o.toNat) (entering p a.toNat o.toNat)) l)) ∧
    (∀ o, LanesGive (.scan d a o) d.toNat 1 (fun p l => combined (prefixes (combine p o.toNat) (entering p a.toNat o.toNat)) l)) ∧
    Gives (.matchAny d a) (fun p => p.putV d.toNat fun l => maskOf ((laneList p.sq.cur.enabled).filter fun m => p.v a.toNat m == p.v a.toNat l)) ∧
    Gives (.matchFirst d a) (fun p => p.putV d.toNat fun l =>
        BitVec.ofNat 32 (((laneList p.sq.cur.enabled).filter fun m => p.v a.toNat m == p.v a.toNat l).headD 0)))

/-- When every access passes its checks a load or store leaves one outstanding operation that holds its accesses; when one fails, the fault with the lowest cause is taken; pref asks for its lines (R61, R82, R221 to R224, R234). A prefetch that finds no way open is dropped (log 79, DESIGN CHOICE), and the 0x45 of ldt and stt in a team of one has detail 4 (log 87, DESIGN CHOICE). -/
def Obligations.LoadsAndStoresIssue : Prop :=
  (∀ (d a b : BitVec 7) (w : BitVec 3),
    Leaves (.ld w d a b) (loadsOf .global w (fun p => globalVa p a.toNat b.toNat)) (loading none .global w d) ∧
    Leaves (.ldt w d a b) (loadsOf .peer w (fun p => scratchOffset p a.toNat b.toNat)) (loading none .peer w d) ∧
    (∀ s, Issues (.lds w d a b) s → LastOk (begun s) → (loadsOf .scratch w (fun p => scratchOffset p a.toNat b.toNat) (begun s)).2.2 = [] →
        exec (.lds w d a b) s = .next (ended (loading (markOf (begun s)) .scratch w d
          (loadsOf .scratch w (fun p => scratchOffset p a.toNat b.toNat) (begun s)).1 (loadsOf .scratch w (fun p => scratchOffset p a.toNat b.toNat) (begun s)).2.1))) ∧
    (∀ s f, Issues (.lds w d a b) s → LastOk (begun s) → lowestFault (loadsOf .scratch w (fun p => scratchOffset p a.toNat b.toNat) (begun s)).2.2 = some f →
        f.cause ≠ 0 →       exec (.lds w d a b) s = .next (endSequence (takeFault (faultPoint (noteStart s) f (loadsOf .scratch w (fun p => scratchOffset p a.toNat b.toNat) (begun s)).1) f))) ∧
    FaultsAt (.ld w d a b) (loadsOf .global w (fun p => globalVa p a.toNat b.toNat)) ∧
    FaultsAt (.ldt w d a b) (loadsOf .peer w (fun p => scratchOffset p a.toNat b.toNat)) ∧
    Leaves (.st w d a b) (storesOf .global w d (fun p => globalVa p a.toNat b.toNat)) (storing .global) ∧
    Leaves (.sts w d a b) (storesOf .scratch w d (fun p => scratchOffset p a.toNat b.toNat)) (storing .scratch) ∧
    Leaves (.stt w d a b) (storesOf .peer w d (fun p => scratchOffset p a.toNat b.toNat)) (storing .peer) ∧
    FaultsAt (.st w d a b) (storesOf .global w d (fun p => globalVa p a.toNat b.toNat)) ∧
    FaultsAt (.sts w d a b) (storesOf .scratch w d (fun p => scratchOffset p a.toNat b.toNat)) ∧
    FaultsAt (.stt w d a b) (storesOf .peer w d (fun p => scratchOffset p a.toNat b.toNat)) ∧
    Leaves (.sld w d a b) (scalarLoadOf w (fun p => (p.x b.toNat + p.x a.toNat).toNat)) (fun t acc =>
        pushOp t .ld (.load .global w.toNat d.toNat true acc) t.sq.cur.active (orderOf t (0, 0)) (ordered t) none 0 0 []) ∧
    Leaves (.sst w d a b) (scalarStoreOf w d (fun p => (p.x b.toNat + p.x a.toNat).toNat)) (fun t acc =>
        pushOp t .st (.store .global acc) t.sq.cur.active (orderOf t (0, 0)) (ordered t) none 0 0 []) ∧
    FaultsAt (.sld w d a b) (scalarLoadOf w (fun p => (p.x b.toNat + p.x a.toNat).toNat)) ∧
    FaultsAt (.sst w d a b) (scalarStoreOf w d (fun p => (p.x b.toNat + p.x a.toNat).toNat)) ∧
    (∀ l, GivesWhen (fun p => ∀ n ∈ laneList p.sq.cur.enabled, globalVa p a.toNat b.toNat n < addressTop p) (.pref l a b)
        (fun p => (laneList p.sq.cur.enabled).foldl (fun u n => prefetch u (l == 1) (globalVa p a.toNat b.toNat n)) p)) ∧
    (∀ l n rest, FaultsWhen (fun p => (laneList p.sq.cur.enabled).filter (fun k => addressTop p ≤ globalVa p a.toNat b.toNat k) = n :: rest)
        (.pref l a b) (fun p => { cause := 0x45, detail := 4, lanes := maskOf (n :: rest), addr := globalVa p a.toNat b.toNat n, aux := 1 })))

/-- atom, atom2, atoms and satom gather one access a lane, or one for the group, and leave the operation that updates them (R155, R228, R231). That satom reaches global memory alone is the model's reading (log 90, DEDUCED). -/
def Obligations.AtomicsIssue : Prop :=
  (∀ (d a b : BitVec 7),
    Leaves (.atomAdd d a b) (atomsOf .global 4 d (fun p => globalVa p a.toNat b.toNat)) (updating .global .add d) ∧
    FaultsAt (.atomAdd d a b) (atomsOf .global 4 d (fun p => globalVa p a.toNat b.toNat)) ∧
    Leaves (.atomMinI32 d a b) (atomsOf .global 4 d (fun p => globalVa p a.toNat b.toNat)) (updating .global .minI d) ∧
    FaultsAt (.atomMinI32 d a b) (atomsOf .global 4 d (fun p => globalVa p a.toNat b.toNat)) ∧
    Leaves (.atomMaxI32 d a b) (atomsOf .global 4 d (fun p => globalVa p a.toNat b.toNat)) (updating .global .maxI d) ∧
    FaultsAt (.atomMaxI32 d a b) (atomsOf .global 4 d (fun p => globalVa p a.toNat b.toNat)) ∧
    Leaves (.atomMinN32 d a b) (atomsOf .global 4 d (fun p => globalVa p a.toNat b.toNat)) (updating .global .minN d) ∧
    FaultsAt (.atomMinN32 d a b) (atomsOf .global 4 d (fun p => globalVa p a.toNat b.toNat)) ∧
    Leaves (.atomMaxN32 d a b) (atomsOf .global 4 d (fun p => globalVa p a.toNat b.toNat)) (updating .global .maxN d) ∧
    FaultsAt (.atomMaxN32 d a b) (atomsOf .global 4 d (fun p => globalVa p a.toNat b.toNat)) ∧
    Leaves (.atomAnd d a b) (atomsOf .global 4 d (fun p => globalVa p a.toNat b.toNat)) (updating .global .and d) ∧
    FaultsAt (.atomAnd d a b) (atomsOf .global 4 d (fun p => globalVa p a.toNat b.toNat)) ∧
    Leaves (.atomOr d a b) (atomsOf .global 4 d (fun p => globalVa p a.toNat b.toNat)) (updating .global .or d) ∧
    FaultsAt (.atomOr d a b) (atomsOf .global 4 d (fun p => globalVa p a.toNat b.toNat)) ∧
    Leaves (.atomXor d a b) (atomsOf .global 4 d (fun p => globalVa p a.toNat b.toNat)) (updating .global .xor d) ∧
    FaultsAt (.atomXor d a b) (atomsOf .global 4 d (fun p => globalVa p a.toNat b.toNat)) ∧
    Leaves (.atom2Exch d a b) (atomsOf .global 4 d (fun p => globalVa p a.toNat b.toNat)) (updating .global .exch d) ∧
    FaultsAt (.atom2Exch d a b) (atomsOf .global 4 d (fun p => globalVa p a.toNat b.toNat)) ∧
    Leaves (.atom2Cas d a b) (atomsOf .global 4 d (fun p => globalVa p a.toNat b.toNat)) (updating .global .cas d) ∧
    FaultsAt (.atom2Cas d a b) (atomsOf .global 4 d (fun p => globalVa p a.toNat b.toNat)) ∧
    Leaves (.atom2FaddF32 d a b) (atomsOf .global 4 d (fun p => globalVa p a.toNat b.toNat)) (updating .global .fadd d) ∧
    FaultsAt (.atom2FaddF32 d a b) (atomsOf .global 4 d (fun p => globalVa p a.toNat b.toNat)) ∧
    Leaves (.atom2FminF32 d a b) (atomsOf .global 4 d (fun p => globalVa p a.toNat b.toNat)) (updating .global .fmin d) ∧
    FaultsAt (.atom2FminF32 d a b) (atomsOf .global 4 d (fun p => globalVa p a.toNat b.toNat)) ∧
    Leaves (.atom2FmaxF32 d a b) (atomsOf .global 4 d (fun p => globalVa p a.toNat b.toNat)) (updating .global .fmax d) ∧
    FaultsAt (.atom2FmaxF32 d a b) (atomsOf .global 4 d (fun p => globalVa p a.toNat b.toNat)) ∧
    Leaves (.atom2AddI64 d a b) (atomsOf .global 8 d (fun p => globalVa p a.toNat b.toNat)) (updating .global .add d) ∧
    FaultsAt (.atom2AddI64 d a b) (atomsOf .global 8 d (fun p => globalVa p a.toNat b.toNat)) ∧
    Leaves (.atom2ExchB64 d a b) (atomsOf .global 8 d (fun p => globalVa p a.toNat b.toNat)) (updating .global .exch d) ∧
    FaultsAt (.atom2ExchB64 d a b) (atomsOf .global 8 d (fun p => globalVa p a.toNat b.toNat)) ∧
    Leaves (.atom2CasB64 d a b) (atomsOf .global 8 d (fun p => globalVa p a.toNat b.toNat)) (updating .global .cas d) ∧
    FaultsAt (.atom2CasB64 d a b) (atomsOf .global 8 d (fun p => globalVa p a.toNat b.toNat)) ∧
    (∀ f : BitVec 3, ∀ s g, Issues (.atoms f d a b) s →
        lowestFault (atomsOf .scratch (atomOf (extSet (begun s).sq.cur) f.toNat).2 d (fun p => scratchOffset p a.toNat b.toNat) (begun s)).2.2 = some g →
        g.cause ≠ 0 → exec (.atoms f d a b) s = .next (endSequence (takeFault (faultPoint (noteStart s) g
          (atomsOf .scratch (atomOf (extSet (begun s).sq.cur) f.toNat).2 d (fun p => scratchOffset p a.toNat b.toNat) (begun s)).1) g))) ∧
    (∀ f : BitVec 3, ∀ s g, Issues (.satom f d a b) s →
        lowestFault (scalarAtomOf (atomOf (extSet (begun s).sq.cur) f.toNat).1 (atomOf (extSet (begun s).sq.cur) f.toNat).2 d (fun p => (p.x b.toNat + p.x a.toNat).toNat) (begun s)).2.2 = some g →
        g.cause ≠ 0 → exec (.satom f d a b) s = .next (endSequence (takeFault (faultPoint (noteStart s) g
          (scalarAtomOf (atomOf (extSet (begun s).sq.cur) f.toNat).1 (atomOf (extSet (begun s).sq.cur) f.toNat).2 d (fun p => (p.x b.toNat + p.x a.toNat).toNat) (begun s)).1) g))) ∧
    (∀ f : BitVec 3, ∀ s, Issues (.atoms f d a b) s →
        (atomsOf .scratch (atomOf (extSet (begun s).sq.cur) f.toNat).2 d (fun p => scratchOffset p a.toNat b.toNat) (begun s)).2.2 = [] →
        exec (.atoms f d a b) s = .next (ended (updating .scratch (atomOf (extSet (begun s).sq.cur) f.toNat).1 d
          (atomsOf .scratch (atomOf (extSet (begun s).sq.cur) f.toNat).2 d (fun p => scratchOffset p a.toNat b.toNat) (begun s)).1
          (atomsOf .scratch (atomOf (extSet (begun s).sq.cur) f.toNat).2 d (fun p => scratchOffset p a.toNat b.toNat) (begun s)).2.1))) ∧
    (∀ f : BitVec 3, ∀ s, Issues (.satom f d a b) s →
        (scalarAtomOf (atomOf (extSet (begun s).sq.cur) f.toNat).1 (atomOf (extSet (begun s).sq.cur) f.toNat).2 d (fun p => (p.x b.toNat + p.x a.toNat).toNat) (begun s)).2.2 = [] →
        exec (.satom f d a b) s = .next (ended (
          let r := scalarAtomOf (atomOf (extSet (begun s).sq.cur) f.toNat).1 (atomOf (extSet (begun s).sq.cur) f.toNat).2 d (fun p => (p.x b.toNat + p.x a.toNat).toNat) (begun s)
          pushOp r.1 .ld (.atomic .global (atomOf (extSet (begun s).sq.cur) f.toNat).1 d.toNat true r.2.1) r.1.sq.cur.active
            (orderOf r.1 (0, 4)) true none 0 0 []))))

/-- A fence that nothing keeps (no access of its threads that its order awaits, an async one no operation of the squad, and no write-back that cannot find its way) completes: it performs its release action and then its acquire action in the L1 of its core, at its scope (R123, R125, R130, R233). One that something keeps stalls: exec leaves the group at the fence, which has no effect, and holds the group, and the next group selected is the held one, so that no other group of the squad issues before it and its acquire action precedes every later instruction (R233; that the hold ends when no held thread is eligible is the model's reading, log 39, DEDUCED). An error that the wait of an async fence covers is consumed as a wait consumes it (R178). A barrier sync, arrive or wait completes when its checks pass: an arrival joins its generation, and the squad passes or blocks as the generation completes, and a blocked group goes on, and for a team barrier acquires, once its generation is over (R42, R132, R235 to R237). That a squad that waits at a barrier waits on the generation that is current at its wait is the model's reading (log 37, DEDUCED), and that a second arrival of a squad with another count raises 0x41 is its choice (log 103, DESIGN CHOICE). -/
def Obligations.FencesAndBarriers : Prop :=
  (
    (∀ sc o : BitVec 3, GivesWhen (fun p => (sc.toNat < 3 ∨ o.toNat < 2 ∨ 4 < o.toNat) ∧ FenceFree p o.toNat sc.toNat) (.fence sc o 0)
        (fun p => fenceAction p o.toNat sc.toNat)) ∧
    (∀ sc o : BitVec 3, StallsWhen (fun p => ¬FenceFree p o.toNat sc.toNat) (.fence sc o 0)) ∧
    (∀ sc o : BitVec 3, GivesWhen (fun p => (sc.toNat < 3 ∨ o.toNat < 2 ∨ 4 < o.toNat) ∧ p.sq.ops = [] ∧ FenceFree p o.toNat sc.toNat ∧
        firstError p.sq (fun _ => true) = none) (.fence sc o 1) (fun p => fenceAction p o.toNat sc.toNat)) ∧
    (∀ sc o : BitVec 3, StallsWhen (fun p => p.sq.ops ≠ [] ∨ ¬FenceFree p o.toNat sc.toNat) (.fence sc o 1)) ∧
    (∀ sc o y, GivesWhen (fun p => (deferredFaults (retried p)).2 = false ∧ 3 ≤ sc.toNat ∧ 2 ≤ o.toNat ∧ o.toNat ≤ 4 ∧
        (y = 1 → p.sq.ops = [] ∧ firstError p.sq (fun _ => true) = none) ∧ FenceFree p o.toNat sc.toNat) (.fence sc o y)
        (fun p => fenceAction (deferredFaults (retried p)).1 o.toNat sc.toNat)) ∧
    (∀ sc o y, ∀ s, Issues (.fence sc o y) s → (deferredFaults (retried (begun s))).2 = true → 3 ≤ sc.toNat → 2 ≤ o.toNat → o.toNat ≤ 4 →
        (y = 1 → (begun s).sq.ops = [] ∧ firstError (begun s).sq (fun _ => true) = none) → FenceFree (begun s) o.toNat sc.toNat →
        exec (.fence sc o y) s = .next (endSequence (stopSquad (let t := (deferredFaults (retried (begun s))).1
          t.setPc t.sq.cur.active fun _ => t.sq.cur.first)))) ∧
    (∀ sc o, ∀ s k e, Issues (.fence sc o 1) s → (begun s).sq.ops = [] → FenceFree (begun s) o.toNat sc.toNat →
        firstError (begun s).sq (fun _ => true) = some (k, e) →
        exec (.fence sc o 1) s = .next (endSequence (takeFault ((noteStart s).onSq fun q =>
          { q with errs := q.errs.filter fun x => x.1 != k }) e.raise))) ∧
    (∀ sc o : BitVec 3, ∀ s, Issues (.fence sc o 0) s → ¬FenceFree (begun s) o.toNat sc.toNat → s.sq.cur.active ≠ 0 →
        s.sq.cur.active &&& ~~~s.sq.thr.eligible = 0 → ∃ u pc, exec (.fence sc o 0) s = .next u ∧
        u.sq.thr.select = some (s.sq.cur.active, pc, u.sq.thr)) ∧
    (∀ (e : BitVec 4) n, GivesWhen (fun p => BarTakes p false e.toNat n.toNat) (.barArrive e n) (fun p => arrivedAt p false e.toNat n.toNat)) ∧
    (∀ (e : BitVec 4) n, GivesWhen (fun p => BarTakes p false e.toNat n.toNat ∧
        barGen (arrivedAt p false e.toNat n.toNat) false e.toNat ≠ barGen p false e.toNat) (.barSync e n)
        (fun p => pastBar (arrivedAt p false e.toNat n.toNat) false)) ∧
    (∀ (e : BitVec 4) n, ∀ s, Issues (.barSync e n) s → BarTakes (begun s) false e.toNat n.toNat →
        barGen (arrivedAt (begun s) false e.toNat n.toNat) false e.toNat = barGen (begun s) false e.toNat →
        exec (.barSync e n) s = .next (endSequence (blockGroup (issued (restoreThreads (noteStart s)
          (arrivedAt (begun s) false e.toNat n.toNat))) (.bar false e.toNat (barGen (begun s) false e.toNat))))) ∧
    (∀ e : BitVec 4, BlocksWhen (fun _ => True) (.barWait e) (fun p => .bar false e.toNat (barGen p false e.toNat))) ∧
    (∀ (e : BitVec 2) n, GivesWhen (fun p => BarTakes p true e.toNat n.toNat) (.tbarArrive e n) (fun p => arrivedAt p true e.toNat n.toNat)) ∧
    (∀ (e : BitVec 2) n, GivesWhen (fun p => BarTakes p true e.toNat n.toNat ∧
        barGen (arrivedAt p true e.toNat n.toNat) true e.toNat ≠ barGen p true e.toNat) (.tbarSync e n)
        (fun p => pastBar (arrivedAt p true e.toNat n.toNat) true)) ∧
    (∀ (e : BitVec 2) n, ∀ s, Issues (.tbarSync e n) s → BarTakes (begun s) true e.toNat n.toNat →
        barGen (arrivedAt (begun s) true e.toNat n.toNat) true e.toNat = barGen (begun s) true e.toNat →
        exec (.tbarSync e n) s = .next (endSequence (blockGroup (issued (restoreThreads (noteStart s)
          (arrivedAt (begun s) true e.toNat n.toNat))) (.bar true e.toNat (barGen (begun s) true e.toNat))))) ∧
    (∀ e : BitVec 2, BlocksWhen (fun _ => True) (.tbarWait e) (fun p => .bar true e.toNat (barGen p true e.toNat)))) ∧
  (∀ sq k w team n g, HappensOn sq (fun t => BlockedAt t k w ∧ w.what = .bar team n g ∧ barGen (resumed t w) team n ≠ g)
      (.blockedInstructionComplete sq k) (fun t => dropWait (pastBar (resumed t w) team) k)) ∧
  (∀ s t sq k w team n g, s.checkout sq = some t → BlockedAt t k w → w.what = .bar team n g →
      barGen (resumed t w) team n = g → exec (.blockedInstructionComplete sq k) s = .next s)

/-- qpush and qpop complete when there is room or an entry and nobody waits before, and block otherwise; the try forms write 1 or 0 to s[b]; a queue the crew does not have raises 0x4B (R238, R239). With a legal queue at the address that s[a] names, a span push stores the value and the meridian time and raises the tail, a pop reads the oldest entry and raises the head, and a try form that may not act writes 0; sem.add adds, sem.wait passes once the value is high enough, and sem.read reads (R240 to R244). -/
def Obligations.QueuesAndSemaphores : Prop :=
  (∀ (d a b : BitVec 7) ,
    (∀ q, GivesWhen (fun p => q.toNat < queueCount p ∧ mayPush p q.toNat p.serial = true) (.qpush d q) (fun p => pushEntry p q.toNat d.toNat)) ∧
    (∀ q, GivesWhen (fun p => q.toNat < queueCount p ∧ mayPop p q.toNat p.serial = true) (.qpop d q) (fun p => popEntry p q.toNat d.toNat)) ∧
    (∀ q, BlocksWhen (fun p => q.toNat < queueCount p ∧ mayPush p q.toNat p.serial = false) (.qpush d q) (fun _ => .qpush q.toNat d.toNat)) ∧
    (∀ q, BlocksWhen (fun p => q.toNat < queueCount p ∧ mayPop p q.toNat p.serial = false) (.qpop d q) (fun _ => .qpop q.toNat d.toNat)) ∧
    (∀ q, GivesWhen (fun p => q.toNat < queueCount p) (.qpushTry d q b) (fun p => if mayPush p q.toNat p.serial = true
        then (pushEntry p q.toNat d.toNat).setX b.toNat 1 else p.setX b.toNat 0)) ∧
    (∀ q, GivesWhen (fun p => q.toNat < queueCount p) (.qpopTry d q b) (fun p => if mayPop p q.toNat p.serial = true
        then (popEntry p q.toNat d.toNat).setX b.toNat 1 else p.setX b.toNat 0)) ∧
    (∀ q, FaultsWhen (fun p => queueCount p ≤ q.toNat) (.qpush d q) (fun p => { cause := 0x4B, lanes := p.sq.cur.active })) ∧
    (∀ q, FaultsWhen (fun p => queueCount p ≤ q.toNat) (.qpop d q) (fun p => { cause := 0x4B, lanes := p.sq.cur.active })) ∧
    (∀ q, FaultsWhen (fun p => queueCount p ≤ q.toNat) (.qpushTry d q b) (fun p => { cause := 0x4B, lanes := p.sq.cur.active })) ∧
    (∀ q, FaultsWhen (fun p => queueCount p ≤ q.toNat) (.qpopTry d q b) (fun p => { cause := 0x4B, lanes := p.sq.cur.active })) ∧
    (∀ s u e, Issues (.qpushSpan d a) s → SpanFound (begun s) ((begun s).num a.toNat) u e → maySpan u e true (begun s).serial = false →
        exec (.qpushSpan d a) s =
          .next (endSequence (blockGroup (issued (restoreThreads (noteStart s) u)) (.qpushSpan a.toNat d.toNat)))) ∧
    (∀ s u e, Issues (.qpopSpan d a) s → SpanFound (begun s) ((begun s).num a.toNat) u e → maySpan u e false (begun s).serial = false →
        exec (.qpopSpan d a) s =
          .next (endSequence (blockGroup (issued (restoreThreads (noteStart s) u)) (.qpopSpan a.toNat d.toNat)))) ∧
    (∀ s u e r, Issues (.qpushSpan d a) s → SpanFound (begun s) ((begun s).num a.toNat) u e → maySpan u e true (begun s).serial = true →
        SpanPushed u e (u.x d.toNat) r → exec (.qpushSpan d a) s = .next (ended r)) ∧
    (∀ s u e r, Issues (.qpopSpan d a) s → SpanFound (begun s) ((begun s).num a.toNat) u e → maySpan u e false (begun s).serial = true →
        SpanPopped u e d.toNat r → exec (.qpopSpan d a) s = .next (ended r)) ∧
    (∀ s u e r, Issues (.qpushSpanTry d a b) s → SpanFound (begun s) ((begun s).num a.toNat) u e → maySpan u e true u.serial = true →
        SpanPushed u e (u.x d.toNat) r → exec (.qpushSpanTry d a b) s = .next (ended (r.setX b.toNat 1))) ∧
    (∀ s u e, Issues (.qpushSpanTry d a b) s → SpanFound (begun s) ((begun s).num a.toNat) u e → maySpan u e true u.serial = false →
        exec (.qpushSpanTry d a b) s = .next (ended (u.setX b.toNat 0))) ∧
    (∀ s u e r, Issues (.qpopSpanTry d a b) s → SpanFound (begun s) ((begun s).num a.toNat) u e → maySpan u e false u.serial = true →
        SpanPopped u e d.toNat r → exec (.qpopSpanTry d a b) s = .next (ended (r.setX b.toNat 1))) ∧
    (∀ s u e, Issues (.qpopSpanTry d a b) s → SpanFound (begun s) ((begun s).num a.toNat) u e → maySpan u e false u.serial = false →
        exec (.qpopSpanTry d a b) s = .next (ended (u.setX b.toNat 0))) ∧
    (∀ s u key v scope, Issues (.semWait d a b) s → SemFound (begun s) ((begun s).num a.toNat) needRW u key v scope →
        v < u.num d.toNat → exec (.semWait d a b) s =
          .next (endSequence (blockGroup (issued (restoreThreads (noteStart s) u)) (.semWait a.toNat d.toNat b.toNat)))) ∧
    (∀ s u key v scope r, Issues (.semAdd d a) s → SemFound (begun s) ((begun s).num a.toNat) needRW u key v scope →
        releaseWaits u u.sq.ident.core scope = false → homeWrite (releaseAction u u.sq.ident.core scope) (releaseAction u u.sq.ident.core scope).sq.ident.ctx key
          (leBytes 8 (v + u.num d.toNat)) = (r, false) →
        exec (.semAdd d a) s = .next (ended (evalDeps r))) ∧
    (∀ s u key v scope, Issues (.semWait d a b) s → SemFound (begun s) ((begun s).num a.toNat) needRW u key v scope →
        u.num d.toNat ≤ v → exec (.semWait d a b) s =
          .next (ended (acquireAction (u.setX b.toNat (BitVec.ofNat 64 v)) u.sq.ident.core scope))) ∧
    (∀ s u key v scope, Issues (.semRead a b) s → SemFound (begun s) ((begun s).num a.toNat) needR u key v scope →
        exec (.semRead a b) s = .next (ended (u.setX b.toNat (BitVec.ofNat 64 v)))))

/-- A copy whose alignment, lengths and ranges pass leaves one outstanding operation with its operands, and its token register holds the issue value (R248, R249, R251 to R254). stk.rowcopy, rowzero and probe leave one likewise; lnk.turn queues a split and returns its status, and lnk.status reads the link (R275 to R277). When its engine runs, a probe gives the stack and row of its page, a row operation on a page that is not stack-capable ends with status 3 and one between stacks with status 2, both without effect, and otherwise a rowzero writes 0, and a rowcopy the source page's bytes, to the sectors that it reaches in each of its two parts, and no other byte of memory beside the source's write-backs (R109, R275). That a row operation goes in two parts is the model's reading (log 81), and which sectors the first reaches is free. -/
def Obligations.CopiesStackAndLinkInstructions : Prop :=
  (∀ (d a b : BitVec 7),
    (∀ c, GivesWhen (fun p => rangesWait (p.raceMarked c (p.num (a.toNat + 1)) (p.num b.toNat)) ([((p.num a.toNat), (p.num b.toNat))] ++ []) = false ∧
        p.myCrew = some c ∧ p.num a.toNat % 64 = 0 ∧ p.num (a.toNat + 1) % 64 = 0 ∧ p.num b.toNat % 64 = 0 ∧ p.num b.toNat < 4294967296 ∧ p.inGlobal (p.num a.toNat) (p.num b.toNat) ∧ p.inScratch c (p.num (a.toNat + 1)) (p.num b.toNat)) (.cpyGs d a b)
        (fun p => engineOut (p.raceMarked c (p.num (a.toNat + 1)) (p.num b.toNat)) .cp (engineAct .cpyGS d.toNat (p.x a.toNat) (p.x (a.toNat + 1)) (p.x b.toNat) 0) 0 d.toNat (p.num b.toNat) none [((p.num a.toNat), (p.num b.toNat))] [])) ∧
    (∀ c, GivesWhen (fun p => rangesWait p ([] ++ [((p.num (a.toNat + 1)), (p.num b.toNat))]) = false ∧
        LastOk p ∧ p.myCrew = some c ∧ p.num a.toNat % 64 = 0 ∧ p.num (a.toNat + 1) % 64 = 0 ∧ p.num b.toNat % 64 = 0 ∧ p.num b.toNat < 4294967296 ∧ p.inScratch c (p.num a.toNat) (p.num b.toNat) ∧ p.inGlobal (p.num (a.toNat + 1)) (p.num b.toNat)) (.cpySg d a b)
        (fun p => engineOut p .cp (engineAct .cpySG d.toNat (p.x a.toNat) (p.x (a.toNat + 1)) (p.x b.toNat) 0) 0 d.toNat (p.num b.toNat) (markOf p) [] [((p.num (a.toNat + 1)), (p.num b.toNat))])) ∧
    GivesWhen (fun p => rangesWait p ([((p.num a.toNat), (p.num b.toNat))] ++ [((p.num (a.toNat + 1)), (p.num b.toNat))]) = false ∧
        p.num a.toNat % 64 = 0 ∧ p.num (a.toNat + 1) % 64 = 0 ∧ p.num b.toNat % 64 = 0 ∧ p.num b.toNat < 4294967296 ∧ p.inGlobal (p.num a.toNat) (p.num b.toNat) ∧ p.inGlobal (p.num (a.toNat + 1)) (p.num b.toNat) ∧
        ((p.num b.toNat) = 0 ∨ overlap (p.num a.toNat) (p.num (a.toNat + 1)) (p.num b.toNat) = false)) (.cpyGg d a b)
        (fun p => engineOut p .cp (engineAct .cpyGG d.toNat (p.x a.toNat) (p.x (a.toNat + 1)) (p.x b.toNat) 0) 0 d.toNat (p.num b.toNat) none [((p.num a.toNat), (p.num b.toNat))] [((p.num (a.toNat + 1)), (p.num b.toNat))]) ∧
    (∀ c c2, GivesWhen (fun p => LastOk p ∧ p.myCrew = some c ∧ p.peerCrew = some c2 ∧ p.num a.toNat % 64 = 0 ∧ p.num (a.toNat + 1) % 64 = 0 ∧ p.num b.toNat % 64 = 0 ∧ p.num b.toNat < 4294967296 ∧ p.inScratch c (p.num a.toNat) (p.num b.toNat) ∧ p.inScratch c2 (p.num (a.toNat + 1)) (p.num b.toNat))
        (.cpySp d a b) (fun p => engineOut (p.raceMarked c2 (p.num (a.toNat + 1)) (p.num b.toNat)) .cp (engineAct .cpySP d.toNat (p.x a.toNat) (p.x (a.toNat + 1)) (p.x b.toNat) 0) 0 d.toNat (p.num b.toNat) (markOf p) [] [])) ∧
    GivesWhen (fun p => rangesWait p ([((p.num a.toNat), (p.num b.toNat))] ++ []) = false ∧
        p.num a.toNat % 64 = 0 ∧ p.x (a.toNat + 1) = 0 ∧ p.num b.toNat % 64 = 0 ∧ p.num b.toNat < 4294967296 ∧ p.inGlobal (p.num a.toNat) (p.num b.toNat)) (.cpyPin d a b)
        (fun p => engineOut p .cp (engineAct .cpyPin d.toNat (p.x a.toNat) 0 (p.x b.toNat) 0) 0 d.toNat (p.num b.toNat) none [((p.num a.toNat), (p.num b.toNat))] []) ∧
    (∀ c, GivesWhen (fun p => rangesWait (p.raceMarked c (p.num (a.toNat + 1)) (shapeOf (p.x b.toNat)).total) (((shapeOf (p.x b.toNat)).joined.runs (p.num a.toNat) ((shapeOf (p.x b.toNat)).rows + 1) 0 (shapeOf (p.x b.toNat)).total) ++ []) = false ∧
        p.myCrew = some c ∧ (shapeOf (p.x b.toNat)).row ≠ 0 ∧ (shapeOf (p.x b.toNat)).row ≤ (shapeOf (p.x b.toNat)).pitch ∧ (shapeOf (p.x b.toNat)).total ≤ 0xFFFFFFC0 ∧ p.num a.toNat % 64 = 0 ∧ p.num (a.toNat + 1) % 64 = 0 ∧
        (shapeOf (p.x b.toNat)).row % 64 = 0 ∧ p.inGlobal (p.num a.toNat) ((shapeOf (p.x b.toNat)).pitch * ((shapeOf (p.x b.toNat)).rows - 1) + (shapeOf (p.x b.toNat)).row) ∧ p.inScratch c (p.num (a.toNat + 1)) (shapeOf (p.x b.toNat)).total) (.cpyGs2 d a b)
        (fun p => engineOut (p.raceMarked c (p.num (a.toNat + 1)) (shapeOf (p.x b.toNat)).total) .cp (engineAct .cpyGS2 d.toNat (p.x a.toNat) (p.x (a.toNat + 1)) (p.x b.toNat) 0) 0 d.toNat (shapeOf (p.x b.toNat)).total none
          ((shapeOf (p.x b.toNat)).joined.runs (p.num a.toNat) ((shapeOf (p.x b.toNat)).rows + 1) 0 (shapeOf (p.x b.toNat)).total) [])) ∧
    (∀ c, GivesWhen (fun p => rangesWait p ([] ++ ((shapeOf (p.x b.toNat)).joined.runs (p.num (a.toNat + 1)) ((shapeOf (p.x b.toNat)).rows + 1) 0 (shapeOf (p.x b.toNat)).total)) = false ∧
        LastOk p ∧ p.myCrew = some c ∧ (shapeOf (p.x b.toNat)).row ≠ 0 ∧ (shapeOf (p.x b.toNat)).row ≤ (shapeOf (p.x b.toNat)).pitch ∧ (shapeOf (p.x b.toNat)).total ≤ 0xFFFFFFC0 ∧ p.num a.toNat % 64 = 0 ∧ p.num (a.toNat + 1) % 64 = 0 ∧
        (shapeOf (p.x b.toNat)).row % 64 = 0 ∧ p.inGlobal (p.num (a.toNat + 1)) ((shapeOf (p.x b.toNat)).pitch * ((shapeOf (p.x b.toNat)).rows - 1) + (shapeOf (p.x b.toNat)).row) ∧ p.inScratch c (p.num a.toNat) (shapeOf (p.x b.toNat)).total) (.cpySg2 d a b)
        (fun p => engineOut p .cp (engineAct .cpySG2 d.toNat (p.x a.toNat) (p.x (a.toNat + 1)) (p.x b.toNat) 0) 0 d.toNat (shapeOf (p.x b.toNat)).total (markOf p)
          [] ((shapeOf (p.x b.toNat)).joined.runs (p.num (a.toNat + 1)) ((shapeOf (p.x b.toNat)).rows + 1) 0 (shapeOf (p.x b.toNat)).total))) ∧
    GivesWhen (fun p => rangesWait p ([(p.num b.toNat, 65536)] ++ [(p.num a.toNat, 65536)]) = false ∧
        p.num a.toNat % 65536 = 0 ∧ p.num b.toNat % 65536 = 0 ∧ p.inGlobal (p.num a.toNat) 65536 ∧ p.inGlobal (p.num b.toNat) 65536) (.stkRowcopy d a b)
        (fun p => engineOut p .cp (engineAct .stkRowcopy d.toNat (p.x a.toNat) 0 (p.x b.toNat) 0) 0 d.toNat 65536 none
          [(p.num b.toNat, 65536)] [(p.num a.toNat, 65536)]) ∧
    GivesWhen (fun p => rangesWait p ([] ++ [(p.num a.toNat, 65536)]) = false ∧
        p.num a.toNat % 65536 = 0 ∧ p.inGlobal (p.num a.toNat) 65536) (.stkRowzero d a)
        (fun p => engineOut p .cp (engineAct .stkRowzero d.toNat (p.x a.toNat) 0 0 0) 0 d.toNat 65536 none [] [(p.num a.toNat, 65536)]) ∧
    GivesWhen (fun p => p.num a.toNat % 65536 = 0 ∧ p.inGlobal (p.num a.toNat) 65536) (.stkProbe d a)
        (fun p => engineOut p .cp (engineAct .stkProbe d.toNat (p.x a.toNat) 0 0 0) 0 d.toNat 0 none [] []) ∧
    GivesWhen (fun p => field (p.x a.toNat) 3 5 = 0 ∧ p.num a.toNat < 65536) (.lnkTurn d a)
        (fun p => (queueTurn p (p.x a.toNat)).1.setX d.toNat (BitVec.ofNat 64 (queueTurn p (p.x a.toNat)).2)) ∧
    GivesWhen (fun p => p.num a.toNat < 8) (.lnkStatus d a) (fun p => p.setX d.toNat (BitVec.ofNat 64 (linkStatus p (p.x a.toNat))))) ∧
  (∀ (s : State) (o : Op) (d : Nat) (x y z x2 : DWord) (v : Vector Word 32),
      let q := s.sq.ident
      (∀ f, (resolve s q.priv q.core q.ctx x.toNat needLeaf).2 = .inr f → f.cause ≠ 0 → f.cause ≠ 0x44 →
        runEngine s o .stkRowzero d x y z x2 v = .failed s (o.fails f.cause f.detail x.toNat false)) ∧
      ∀ t k, resolve s q.priv q.core q.ctx x.toNat needLeaf = (t, .inl k) →
        runEngine s o .stkProbe d x y z x2 v = .word t (match stackPage t k with
          | none => 0
          | some p => BitVec.ofNat 64 (p.1 + 16 + p.2 * 65536)) ∧
        (stackPage t k = none → runEngine s o .stkRowzero d x y z x2 v = .ended t 3 0) ∧
        (∀ g u a, stackPage t k = some g → resolve t t.sq.ident.priv t.sq.ident.core t.sq.ident.ctx x.toNat needW = (u, .inl a) →
          inBacking u u.sq.ident.ctx x.toNat a 65536 = false → rowWaits u a none = false →
          ∃ r, runEngine s o .stkRowzero d x y z x2 v = (if o.pos = 0 then .part r (u.tickets + 1) o.detail else .ended r 0 0) ∧
            ∀ i, memGet r.mem i = if a ≤ i ∧ i < a + 65536 ∧ reaches u o ((i - a) / 64) = true then 0 else memGet u.mem i) ∧
        ∀ u b, resolve t t.sq.ident.priv t.sq.ident.core t.sq.ident.ctx z.toNat needLeaf = (u, .inl b) →
          (stackPage u k = none ∨ stackPage u b = none → runEngine s o .stkRowcopy d x y z x2 v = .ended u 3 0) ∧
          ∀ g h w a r src, stackPage u k = some g → stackPage u b = some h →
            resolve u u.sq.ident.priv u.sq.ident.core u.sq.ident.ctx x.toNat needW = (w, .inl a) →
            inBacking w w.sq.ident.ctx x.toNat a 65536 = false →
            resolve w w.sq.ident.priv w.sq.ident.core w.sq.ident.ctx z.toNat needR = (r, .inl src) →
            inBacking r r.sq.ident.ctx z.toNat src 65536 = false →
            (g.1 ≠ h.1 → runEngine s o .stkRowcopy d x y z x2 v = .ended r 2 0) ∧
            (g.1 = h.1 → rowWaits r a (some src) = false →
              let c := (r.l1.filter fun l => l.meets src 65536).foldl writeBack r
              ∃ m, runEngine s o .stkRowcopy d x y z x2 v = (if o.pos = 0 then .part m (r.tickets + 1) o.detail
                  else .ended m (if g.2 / 512 = h.2 / 512 then 0 else 1) 0) ∧
                ∀ i, memGet m.mem i = if a ≤ i ∧ i < a + 65536 ∧ reaches r o ((i - a) / 64) = true
                  then memGet c.mem (src + (i - a)) else memGet c.mem i)) ∧
  (∀ (s t : State) (o p : Op) (j : Nat), o.pos = 0 → p.pos = s.tickets + 1 → reaches t p j = !reaches s o j)

/-- bload, the transforms, tmac, tdrain, the tacc operations and dotv leave an outstanding operation with their operands, and a token where they name one; bank.compute, storage, attach and detach change the crew's banks at once, bank.query reads them, and a bank or residency that is not there raises 0x4C (R248, R255, R256, R259 to R261, R265, R268, R269). Of several faults of one command, which one is raised is the model's choice (log 91, DESIGN CHOICE). When its engine runs, a tmac reads one bank a part, and at its last part every element of its rows becomes the saturated integer sum or the two block additions, or four half-block additions under version 1, of exact products (R72 to R76, R262, R263); a tdrain writes each row in its format at its stride, MX blocks with their scales, and no other byte (R266, R267); tacc reads, writes, adds and scales rows (R268); and dotv sums exactly, or 32 partial chains combined in the order of redsq (R75, R269). INT and TAG of tacc.add are those of s[A] (log 104), an FP32 subnormal that version 1 reads as zero keeps its sign (log 82), and dotv keeps its order under version 1 (log 86): the model's choices. -/
def Obligations.BankAndTileInstructions : Prop :=
  (∀ (d a b : BitVec 7) (q m : BitVec 3),
    (∀ c, GivesWhen (fun p => rangesWait p ([((p.num a.toNat), bankCount (p.x b.toNat) * imageBytes m.toNat)] ++ []) = false ∧
        p.myCrew = some c ∧ bankDescBad c m.toNat (p.x b.toNat) = false ∧ bankPlanes (p.x b.toNat) = 0 ∧ p.num a.toNat % 64 = 0 ∧
        p.inGlobal (p.num a.toNat) (bankCount (p.x b.toNat) * imageBytes m.toNat) ∧ c.mapsAll (bankFirst (p.x b.toNat)) (bankCount (p.x b.toNat))) (.bload m d a b)
        (fun p => engineOut p .cp (engineAct (.bload m.toNat) d.toNat (p.x a.toNat) 0 (p.x b.toNat) 0) 0 d.toNat (bankCount (p.x b.toNat) * imageBytes m.toNat) none
          [((p.num a.toNat), bankCount (p.x b.toNat) * imageBytes m.toNat)] [])) ∧
    (∀ c, GivesWhen (fun p => p.myCrew = some c ∧ (p.x a.toNat).toNat < 8192 ∧ p.x b.toNat = 0 ∧
        xfFmt (p.x a.toNat) ≠ 3 ∧ xfScales (p.x a.toNat) = false ∧ xfSlot (p.x a.toNat) < slotCount (xfFmt (p.x a.toNat)) ∧ xfCompute (p.x a.toNat) = false ∧ xfBank (p.x a.toNat) < c.storage.length ∧
        p.inScratch c (65536 * xfBank (p.x a.toNat)) 65536) (.xformToplanes d a b)
        (fun p => engineOut (p.raceMarked c (65536 * xfBank (p.x a.toNat)) 65536) .cp (engineAct .xformToplanes d.toNat (p.x a.toNat) 0 (p.x b.toNat) 0) 0 d.toNat (1024 * slotPlanes (xfFmt (p.x a.toNat))) none [] [])) ∧
    (∀ c, GivesWhen (fun p => p.myCrew = some c ∧ (p.x a.toNat).toNat < 8192 ∧ p.x b.toNat = 0 ∧
        xfFmt (p.x a.toNat) ≠ 3 ∧ xfScales (p.x a.toNat) = false ∧ xfSlot (p.x a.toNat) < slotCount (xfFmt (p.x a.toNat)) ∧ xfCompute (p.x a.toNat) = false ∧ xfBank (p.x a.toNat) < c.storage.length ∧
        p.inScratch c (65536 * xfBank (p.x a.toNat)) 65536) (.xformFromplanes d a b)
        (fun p => engineOut (p.raceMarked c (65536 * xfBank (p.x a.toNat)) 65536) .cp (engineAct .xformFromplanes d.toNat (p.x a.toNat) 0 (p.x b.toNat) 0) 0 d.toNat (1024 * slotPlanes (xfFmt (p.x a.toNat))) none [] [])) ∧
    (∀ c, GivesWhen (fun p => p.myCrew = some c ∧ (p.x a.toNat).toNat < 8192 ∧ p.x b.toNat = 0 ∧
        xfFmt (p.x a.toNat) = 0 ∧ xfScales (p.x a.toNat) = false ∧ xfSlot (p.x a.toNat) = 0 ∧
        xfCompute (p.x a.toNat) = false ∧ xfBank (p.x a.toNat) < c.storage.length ∧ p.inScratch c (65536 * xfBank (p.x a.toNat)) 65536) (.xformZero d a b)
        (fun p => engineOut (p.raceMarked c (65536 * xfBank (p.x a.toNat)) 65536) .cp (engineAct .xformZero d.toNat (p.x a.toNat) 0 (p.x b.toNat) 0) 0 d.toNat (65536) none [] [])) ∧
    (∀ c, GivesWhen (fun p => p.myCrew = some c ∧ (p.x a.toNat).toNat < 8192 ∧ p.x b.toNat = 0 ∧
        xfFmt (p.x a.toNat) = 0 ∧ xfScales (p.x a.toNat) = false ∧ xfSlot (p.x a.toNat) = 0 ∧
        xfCompute (p.x a.toNat) = true ∧ p.sq.ident.core ≠ Config.mcCore ∧ xfBank (p.x a.toNat) < c.banksSeen ∧ c.detached (xfBank (p.x a.toNat)) = false) (.xformZero d a b)
        (fun p => engineOut p .cp (engineAct .xformZero d.toNat (p.x a.toNat) 0 (p.x b.toNat) 0) 0 d.toNat (65536) none [] [])) ∧
    (∀ c, GivesWhen (fun p => p.myCrew = some c ∧ (p.x a.toNat).toNat < 8192 ∧
        xfFmt (p.x a.toNat) = 0 ∧ xfScales (p.x a.toNat) = false ∧ xfSlot (p.x a.toNat) = 0 ∧
        xfCompute (p.x a.toNat) = false ∧ xfBank (p.x a.toNat) < c.storage.length ∧ p.inScratch c (65536 * xfBank (p.x a.toNat)) 65536) (.xformFill d a b)
        (fun p => engineOut (p.raceMarked c (65536 * xfBank (p.x a.toNat)) 65536) .cp (engineAct .xformFill d.toNat (p.x a.toNat) 0 (p.x b.toNat) 0) 0 d.toNat (65536) none [] [])) ∧
    (∀ c, GivesWhen (fun p => p.myCrew = some c ∧ (p.x a.toNat).toNat < 8192 ∧
        xfFmt (p.x a.toNat) = 0 ∧ xfScales (p.x a.toNat) = false ∧ xfSlot (p.x a.toNat) = 0 ∧
        xfCompute (p.x a.toNat) = true ∧ p.sq.ident.core ≠ Config.mcCore ∧ xfBank (p.x a.toNat) < c.banksSeen ∧ c.detached (xfBank (p.x a.toNat)) = false) (.xformFill d a b)
        (fun p => engineOut p .cp (engineAct .xformFill d.toNat (p.x a.toNat) 0 (p.x b.toNat) 0) 0 d.toNat (65536) none [] [])) ∧
    (∀ c, GivesWhen (fun p => p.myCrew = some c ∧ (p.x a.toNat).toNat < 8192 ∧
        xfScales (p.x a.toNat) = true ∧ xfFmt (p.x a.toNat) < 2 ∧ xfSlot (p.x a.toNat) < slotCount (xfFmt (p.x a.toNat)) ∧
        xfCompute (p.x a.toNat) = true ∧ p.sq.ident.core ≠ Config.mcCore ∧ xfBank (p.x a.toNat) < c.banksSeen ∧ c.detached (xfBank (p.x a.toNat)) = false) (.xformFill d a b)
        (fun p => engineOut p .cp (engineAct .xformFill d.toNat (p.x a.toNat) 0 (p.x b.toNat) 0) 0 d.toNat (256) none [] [])) ∧
    (∀ c, GivesWhen (fun p => p.myCrew = some c ∧ (p.x a.toNat).toNat < 8192 ∧ p.x b.toNat = 0 ∧
        xfFmt (p.x a.toNat) = 0 ∧ xfScales (p.x a.toNat) = false ∧ xfSlot (p.x a.toNat) = 0 ∧
        xfCompute (p.x a.toNat) = true ∧ p.sq.ident.core ≠ Config.mcCore ∧ xfBank (p.x a.toNat) < c.banksSeen ∧ c.detached (xfBank (p.x a.toNat)) = false) (.xformChecksum d a b)
        (fun p => engineOut p .cp (engineAct .xformChecksum d.toNat (p.x a.toNat) 0 (p.x b.toNat) 0) 0 d.toNat (65536) none [] [])) ∧
    (∀ c, GivesWhen (fun p => p.myCrew = some c ∧ c.storage ≠ [] ∧ BanksQuiet p c) .bankCompute (fun p => toCompute p c)) ∧
    (∀ c, GivesWhen (fun p => p.myCrew = some c ∧ c.compute ≠ [] ∧ BanksQuiet p c) .bankStorage (fun p => toStorage p c)) ∧
    (∀ c, GivesWhen (fun p => p.myCrew = some c ∧ c.residen ≠ [] ∧ BanksQuiet p c) .bankAttach (fun p => p.setCrew { c with attached := true })) ∧
    (∀ c, GivesWhen (fun p => p.myCrew = some c ∧ c.residen ≠ [] ∧ BanksQuiet p c) .bankDetach (fun p => p.setCrew { c with attached := false })) ∧
    (∀ c, FaultsWhen (fun p => p.myCrew = some c ∧ c.storage = []) .bankCompute (fun p => { cause := 0x4C, lanes := p.sq.cur.active })) ∧
    (∀ c, FaultsWhen (fun p => p.myCrew = some c ∧ c.compute = []) .bankStorage (fun p => { cause := 0x4C, lanes := p.sq.cur.active })) ∧
    (∀ c, FaultsWhen (fun p => p.myCrew = some c ∧ c.residen = []) .bankAttach (fun p => { cause := 0x4C, lanes := p.sq.cur.active })) ∧
    (∀ c, FaultsWhen (fun p => p.myCrew = some c ∧ c.residen = []) .bankDetach (fun p => { cause := 0x4C, lanes := p.sq.cur.active })) ∧
    (∀ c, GivesWhen (fun p => p.myCrew = some c ∧ p.x a.toNat = 0) (.bankQuery d a) (fun p => p.setX d.toNat (BitVec.ofNat 64
        (c.storage.length + c.compute.length * 64 + c.residen.length * 4096 + (if c.attached then 262144 else 0))))) ∧
    (∀ c k, GivesWhen (fun p => p.myCrew = some c ∧ (p.x a.toNat).getLsbD 8 = true ∧ p.x a.toNat &&& ~~~0x11F = 0 ∧
        c.computeBank (field (p.x a.toNat) 0 5) = some k) (.bankQuery d a) (fun p => p.setX d.toNat (BitVec.ofNat 64 (poisonMask p k)))) ∧
    (∀ c, GivesWhen (fun p => LastOk p ∧ p.myCrew = some c ∧ tmacBad c q.toNat (p.x a.toNat) (p.x d.toNat) (p.x b.toNat) = false ∧
        actOff (p.x a.toNat) % (if actFmt q.toNat = 2 then 512 else 64) = 0 ∧
        p.inScratch c (actOff (p.x a.toNat)) (tileBytes (actFmt q.toNat) (actRows (p.x a.toNat))) ∧
        c.mapsAll (bankFirst (p.x b.toNat)) (bankCount (p.x b.toNat))) (.tmac q d a b)
        (fun p => engineOut p .tl (engineAct (.tmac q.toNat) 0 (p.x a.toNat) (p.x d.toNat) (p.x b.toNat) 0) (accTag (p.x d.toNat)) 0 0
          (markOf p) [] [])) ∧
    (∀ c, GivesWhen (fun p => rangesWait p ([] ++ (drainRanges q.toNat (p.x d.toNat) (p.x b.toNat) (p.x (d.toNat + 1)))) = false ∧
        p.myCrew = some c ∧ drainBad c q.toNat (p.x a.toNat) (p.x b.toNat) (p.x (d.toNat + 1)) = false ∧
        p.num d.toNat % (if q.toNat = 6 then 512 else 64) = 0 ∧ drainStride (p.x b.toNat) % (if q.toNat = 6 then 512 else 64) = 0 ∧
        (drainMx q.toNat = true → p.num (d.toNat + 1) % 4 = 0) ∧
        p.inGlobal (p.num d.toNat) (drainStride (p.x b.toNat) * (drainOuts q.toNat (p.x b.toNat) - 1) + drainRow q.toNat) ∧
        p.inGlobal (p.num (d.toNat + 1)) (if drainMx q.toNat then 4 * drainRows (p.x b.toNat) else 0)) (.tdrain q d a b)
        (fun p => engineOut p .tl (engineAct (.tdrain q.toNat) 0 (p.x d.toNat) (p.x a.toNat) (p.x b.toNat) (p.x (d.toNat + 1)))
          (accTag (p.x a.toNat)) 0 0 none [] (drainRanges q.toNat (p.x d.toNat) (p.x b.toNat) (p.x (d.toNat + 1))))) ∧
    (∀ c, GivesWhen (fun p => p.myCrew = some c ∧ accBad c (p.x a.toNat) (p.num b.toNat) = false ∧ accOvw (p.x a.toNat) = false ∧
        p.num b.toNat ≤ 3072) (.taccZero a b) (fun p => engineOut p .tl (engineAct .taccZero 0 0 (p.x a.toNat) (p.x b.toNat) 0)
          (accTag (p.x a.toNat)) 0 0 none [] [])) ∧
    (∀ c, GivesWhen (fun p => p.myCrew = some c ∧ accBad c (p.x a.toNat) 1 = false ∧ accOvw (p.x a.toNat) = false ∧
        p.num b.toNat ≤ 96 ∧ p.num b.toNat % 32 = 0) (.taccRead d a b)
        (fun p => engineOut p .tl (engineAct .taccRead d.toNat (p.x b.toNat) (p.x a.toNat) 1 0) (accTag (p.x a.toNat)) 0 0 none [] [])) ∧
    (∀ c, GivesWhen (fun p => p.myCrew = some c ∧ accBad c (p.x a.toNat) 1 = false ∧ accOvw (p.x a.toNat) = false ∧
        p.num b.toNat ≤ 96 ∧ p.num b.toNat % 32 = 0) (.taccWrite d a b)
        (fun p => engineOut p .tl (.engine .taccWrite 0 (p.x b.toNat) (p.x a.toNat) 1 0 (vget p.sq.regs.v d.toNat))
          (accTag (p.x a.toNat)) 0 0 none [] [])) ∧
    (∀ c, GivesWhen (fun p => p.myCrew = some c ∧ accBad c (p.x a.toNat) (p.num b.toNat) = false ∧ accOvw (p.x a.toNat) = false ∧
        p.num b.toNat ≤ 3072 ∧ accBad c (p.x d.toNat) (p.num b.toNat) = false ∧ accOvw (p.x d.toNat) = false) (.taccAdd d a b)
        (fun p => engineOut p .tl (engineAct .taccAdd 0 (p.x d.toNat) (p.x a.toNat) (p.x b.toNat) 0) (accTag (p.x a.toNat)) 0 0 none [] [])) ∧
    (∀ c, GivesWhen (fun p => p.myCrew = some c ∧ accBad c (p.x a.toNat) (p.num b.toNat) = false ∧ accOvw (p.x a.toNat) = false ∧
        p.num b.toNat ≤ 3072) (.taccScale d a b)
        (fun p => engineOut p .tl (engineAct .taccScale 0 (p.x d.toNat) (p.x a.toNat) (p.x b.toNat) 0) (accTag (p.x a.toNat)) 0 0 none [] [])) ∧
    (∀ c, GivesWhen (fun p => rangesWait p (((if dotXs (p.x b.toNat) then [] else [(p.num a.toNat, dotLen (p.x b.toNat) * dotBytes q.toNat)]) ++
            (if dotYs (p.x b.toNat) then [] else [(p.num (a.toNat + 1), dotLen (p.x b.toNat) * dotBytes q.toNat)])) ++ []) = false ∧
        p.myCrew = some c ∧ p.num b.toNat < 17179869184 ∧ dotLen (p.x b.toNat) ≤ 65535 ∧
        p.num a.toNat % dotBytes q.toNat = 0 ∧ p.num (a.toNat + 1) % dotBytes q.toNat = 0 ∧
        (if dotXs (p.x b.toNat) then p.inScratch c (p.num a.toNat) (dotLen (p.x b.toNat) * dotBytes q.toNat) else p.inGlobal (p.num a.toNat) (dotLen (p.x b.toNat) * dotBytes q.toNat)) ∧
        (if dotYs (p.x b.toNat) then p.inScratch c (p.num (a.toNat + 1)) (dotLen (p.x b.toNat) * dotBytes q.toNat) else p.inGlobal (p.num (a.toNat + 1)) (dotLen (p.x b.toNat) * dotBytes q.toNat))) (.dotv q d a b)
        (fun p => engineOut p .tl (engineAct (.dotv q.toNat) d.toNat (p.x a.toNat) (p.x (a.toNat + 1)) (p.x b.toNat) 0) 0 0 0 none
          ((if dotXs (p.x b.toNat) then [] else [(p.num a.toNat, dotLen (p.x b.toNat) * dotBytes q.toNat)]) ++
            (if dotYs (p.x b.toNat) then [] else [(p.num (a.toNat + 1), dotLen (p.x b.toNat) * dotBytes q.toNat)])) []))) ∧
  (∀ (s : State) (o : Op) (d : Nat) (x y z x2 : DWord) (v : Vector Word 32) (p : Nat) c bank, s.myCrew = some c →
      accRow y + actRows x * bankCount z ≤ c.rows → c.mapped (bankFirst z + o.pos) = some bank →
      slotBad s bank (weightFmt p) (bankSlot z) = false →
      let slots := o.slots ++ [(slotPlanesBits s bank (weightFmt p) (bankSlot z) (weightPlanes p z),
        memRead s.mem (scaleKey bank (weightFmt p) (bankSlot z)) 256)]
      (o.pos + 1 < bankCount z → runEngine s o (.tmac p) d x y z x2 v = .part (setOp s { o with slots := slots }) (o.pos + 1) o.detail) ∧
      (bankCount z ≤ o.pos + 1 → actOff x + tileBytes (actFmt p) (actRows x) ≤ c.spadBytes → tilePoison s c (actFmt p) x = false →
        let r := multiply s c p x y z (spadRead s c.storage (actOff x) (tileBytes (actFmt p) (actRows x))).toArray slots
        runEngine s o (.tmac p) d x y z x2 v = .ended (countResults r.1 (accTag y) r.2) 0 0)) ∧
  (∀ (s : State) (c : Crew) (p m i n : Nat) (x y z : DWord) (tile : Array Byte) slots, p < 4 → slots.length = bankCount z →
      m < actRows x → i < bankCount z → n < 128 →
      let r := (multiply s c p x y z tile slots).1
      let row := accRow y + m * bankCount z + i
      let old := if y.getLsbD 12 = true then 0 else (rowRead s c.id row).getD n 0
      let w := slots.getD i ([], [])
      let A := actElem (actFmt p) (actPlanes x (slotPlanes (actFmt p))) tile m
      let W := fun k => planesInt w.1 k n
      (rowRead r c.id row).getD n 0 = if p = 3
        then (BitVec.ofInt 32 (max (-2147483648) (min 2147483647 ((BitVec.ofNat 32 old).toInt +
          ((List.range 64).map fun k => A k * W k).sum)))).toNat
        else (if s.nbv = 1 then [(0, 0, 16), (0, 16, 16), (1, 32, 16), (1, 48, 16)] else [(0, 0, 32), (1, 32, 32)]).foldl
          (fun acc (b : Nat × Nat × Nat) =>
            let xa := (tile.getD (actBytes (actFmt p) (actRows x) + 2 * m + b.1) 0).toNat
            let xw := (w.2.getD (2 * n + b.1) 0).toNat
            let h := ((List.range b.2.2).map fun k => A (b.2.1 + k) * W (b.2.1 + k)).sum
            let e : Int := (xa : Int) + xw - 254 + (if p = 0 then -12 else if p = 1 then -2 else -7)
            let q := if xa = 255 ∨ xw = 255 then 0x7FC00000 else if h = 0 then 0
              else (fp32.finite 0 (s.nbv == 1) false (decide (h < 0)) h.natAbs e false).bits
            (fp32.add 0 (s.nbv == 1) (fp32.operand (s.nbv == 1) acc) (fp32.operand (s.nbv == 1) q)).bits) old) ∧
  (∀ (s : State) (c : Crew) (p row : Nat) (x y z : DWord) (tile : Array Byte) slots, slots.length = bankCount z →
      row < accRow y ∨ accRow y + actRows x * bankCount z ≤ row →
      rowRead (multiply s c p x y z tile slots).1 c.id row = rowRead s c.id row) ∧
  (∀ (f p m k : Nat) (tile : Array Byte), 1 ≤ p → p ≤ slotPlanes f → f < 3 → actElem f p tile m k =
      if f = 0 then (tile.getD (64 * m + k) 0).toInt / 2 ^ (8 - p) * 2 ^ (8 - p)
      else if f = 1 then
        let e := (tile.getD (32 * m + k / 2) 0).toNat / 16 ^ (k % 2) % 16
        (if 8 ≤ e then -1 else 1) * ([0, 1, 2, 3, 4, 6, 8, 12] : List Int).getD (e % 8) 0 / 2 ^ (5 - p) * 2 ^ (5 - p)
      else
        let e := 64 * (m % 8) + k
        let b := fun j => (tile.getD (512 * (m / 8) + 64 * j + e / 8) 0).getLsbD (e % 8)
        ((List.range p).map fun j => if b j = true then (2 ^ (p - 1 - j) : Int) else 0).sum - (if b 0 = true then 2 ^ p else 0)) ∧
  (∀ (s : State) (o : Op) (d : Nat) (x y z x2 : DWord) (v : Vector Word 32) (f : Nat) c t ks w p, s.myCrew = some c → accRow y + drainRows z ≤ c.rows →
      reachRanges s o needW (drainRanges f x z x2) = (t, .keys ks) →
      let outs := drainOutputs t f x y z x2 ((List.range (drainRows z)).map fun i => rowRead t c.id (accRow y + i))
      writeLines (noteWritten t o.id ks) (placeOutputs ks outs.1) = (w, none) → poisonOutputs w f y z c outs.1 ks = (p, none) →
      runEngine s o (.tdrain f) d x y z x2 v =
        .ended (countResults (if y.getLsbD 12 = true then zeroRows p c (accRow y) (drainRows z) else p) (accTag y) outs.2) 0 0) ∧
  (∀ (s t : State) ps, Legible s → Sound s → (∀ p ∈ ps, ∀ i, i < p.2.2.length → toControl s (p.2.1 + i) = false) →
      ps.Pairwise (fun p q => apart p.2.1 p.2.2.length q.2.1 q.2.2.length) → writeLines s ps = (t, none) →
      (∀ p ∈ ps, ∀ i, i < p.2.2.length → t.byteAt (p.2.1 + i) = p.2.2.getD i 0) ∧
      ∀ j, (∀ p ∈ ps, outside j p.2.1 p.2.2.length) → t.byteAt j = s.byteAt j) ∧
  (∀ (s : State) (f : Nat) (y z : DWord) c outs ks, SameMemory s (poisonOutputs s f y z c outs ks).1) ∧
  (∀ (s : State) (f i n : Nat) (x y z x2 : DWord) rows, f < 4 → rows.length = drainRows z → (∀ r ∈ rows, r.length = 128) →
      i < drainRows z → n < 128 →
      let w := [4, 2, 1, 1].getD f 0
      ∃ bs, (drainOutputs s f x y z x2 rows).1[i]? = some (x.toNat + drainStride z * i, bs) ∧ bs.length = 128 * w ∧
        leNat ((bs.drop (w * n)).take w) = (narrow ([fp32, bf16, e4m3, e5m2].getD f fp32) (z.getLsbD 7 || (f == 2 && s.nbv == 1))
          (product (accValue (s.nbv == 1) (y.getLsbD 19) ((rows.getD i []).getD n 0)) (fp32.decode (x2.toNat % 4294967296)))).bits) ∧
  (∀ (s : State) (i r n j : Nat) (x y z x2 : DWord) rows, rows.length = drainRows z → (∀ q ∈ rows, q.length = 128) → drainRows z % 4 = 0 →
      i < drainRows z / 4 → r < 4 → n < 128 → j < 8 →
      ∃ bs, (drainOutputs s 6 x y z x2 rows).1[i]? = some (x.toNat + drainStride z * i, bs) ∧ bs.length = 512 ∧
        (bs.getD (64 * j + (128 * r + n) / 8) 0).getLsbD (n % 8) = (narrowInt 8 (product (accValue (s.nbv == 1) (y.getLsbD 19)
          ((rows.getD (4 * i + r) []).getD n 0)) (fp32.decode (x2.toNat % 4294967296)))).bits.testBit (7 - j)) ∧
  (∀ (s : State) (f i n : Nat) (x y z x2 : DWord) rows, f = 4 ∨ f = 5 → rows.length = drainRows z → (∀ r ∈ rows, r.length = 128) →
      i < drainRows z → n < 128 →
      let fm : BitVec 1 := if f = 4 then 1 else 0
      let row := (rows.getD i []).map (accValue (s.nbv == 1) (y.getLsbD 19))
      let X := mxScale (mxEmax fm) ((row.drop (32 * (n / 32))).take 32)
      ∃ bs ss, (drainOutputs s f x y z x2 rows).1[i]? = some (x.toNat + drainStride z * i, bs) ∧
        (drainOutputs s f x y z x2 rows).1[drainRows z + i]? = some (x2.toNat + 4 * i, ss) ∧ ss.length = 4 ∧
        (ss.getD (n / 32) 0).toNat = X ∧ bs.length = (if f = 4 then 64 else 128) ∧
        (if f = 4 then (bs.getD (n / 2) 0).toNat / 16 ^ (n % 2) % 16 else (bs.getD n 0).toNat) =
          ((mxLane fm X (row.getD n (.nan false))).words.getD 0 0).toNat % 256) ∧
  (∀ (v1 int : Bool) (w : Nat), accValue v1 int w = if int = true
      then .fin (decide ((BitVec.ofNat 32 w).toInt < 0)) (BitVec.ofNat 32 w).toInt.natAbs 0 else fp32.operand v1 w) ∧
  (∀ (f : Fmt) (sat : Bool) (v u : Machine.Num), f ∈ [fp32, bf16, e4m3, e5m2] →
      ((v.isNan || u.isNan || (v.isInf && u.isZero) || (v.isZero && u.isInf)) = true →
        (narrow f sat (product v u)).bits = f.nan ∧ (narrow f sat (product v u)).nan = true ∧
        narrowInt 8 (product v u) = { bits := 0, nan := true } ∧ narrowInt 32 (product v u) = { bits := 0, nan := true }) ∧
      (∀ n k m q e g, v = .fin n m e → u = .fin k q g →
        narrow f sat (product v u) = f.finite 0 false sat (n != k) (m * q) (e + g) false) ∧
      ((v.isNan || u.isNan || (v.isInf && u.isZero) || (v.isZero && u.isInf)) = false → (v.isInf || u.isInf) = true →
        product v u = .inf (v.neg != u.neg)) ∧
      ∀ n, (narrow f sat (.inf n)).bits = if sat = true then f.signed n f.largest else if f = e4m3 then 0x7F else f.signed n f.inf) ∧
  (fp32.nan = 0x7FC00000 ∧ bf16.nan = 0x7FC0 ∧ e4m3.nan = 0x7F ∧ e5m2.nan = 0x7E ∧ fp32.inf = 0x7F800000 ∧ bf16.inf = 0x7F80 ∧
      e5m2.inf = 0x7C ∧ fp32.largest = 0x7F7FFFFF ∧ bf16.largest = 0x7F7F ∧ e4m3.largest = 0x7E ∧ e5m2.largest = 0x7B) ∧
  (∀ (w : Nat) (n : Bool) (m : Nat) (e : Int), w = 8 ∨ w = 32 →
      let hi : Int := 2 ^ (w - 1) - 1
      (narrowInt w (.inf n)).bits = (BitVec.ofInt w (if n = true then -hi - 1 else hi)).toNat ∧ (narrowInt w (.inf n)).sat = true ∧
      ∃ k, Rounds 0 (signedUnits (min e 0) n m e) (units (min e 0) 0 1) k ∧
        (narrowInt w (.fin n m e)).bits = (BitVec.ofInt w (max (-hi - 1) (min hi k))).toNat ∧
        ((narrowInt w (.fin n m e)).sat = true ↔ max (-hi - 1) (min hi k) ≠ k)) ∧
  (∀ (s : State) (o : Op) (d : Nat) (x y z x2 : DWord) (v : Vector Word 32) c, s.myCrew = some c → accRow y + z.toNat ≤ c.rows →
      runEngine s o .taccZero d x y z x2 v = .ended (zeroRows s c (accRow y) z.toNat) 0 0 ∧
      (z.toNat = 1 → ∃ r, runEngine s o .taccRead d x y z x2 v = .ended r 0 0 ∧ (d < 128 → ∀ l, l < 32 → r.v d l =
        if o.active.getLsbD l = true then BitVec.ofNat 32 (accWord (s.nbv == 1) (y.getLsbD 19) ((rowRead s c.id (accRow y)).getD (x.toNat + l) 0))
        else s.v d l)) ∧
      (z.toNat = 1 → x.toNat ≤ 96 → ∃ r, runEngine s o .taccWrite d x y z x2 v = .ended r 0 0 ∧ ∀ n, n < 128 →
        (rowRead r c.id (accRow y)).getD n 0 = if x.toNat ≤ n ∧ n < x.toNat + 32 ∧ o.active.getLsbD (n - x.toNat) = true
          then (vget v (n - x.toNat)).toNat else (rowRead s c.id (accRow y)).getD n 0) ∧
      (accRow x + z.toNat ≤ c.rows → ∃ r, runEngine s o .taccAdd d x y z x2 v = .ended r 0 0 ∧ ∀ i n, i < z.toNat → n < 128 →
        let b := if accRow y ≤ accRow x + i ∧ accRow x + i < accRow y + i then (rowRead r c.id (accRow x + i)).getD n 0
          else (rowRead s c.id (accRow x + i)).getD n 0
        (rowRead r c.id (accRow y + i)).getD n 0 = (accSum (s.nbv == 1) (y.getLsbD 19) ((rowRead s c.id (accRow y + i)).getD n 0) b).bits) ∧
      ∃ r, runEngine s o .taccScale d x y z x2 v = .ended r 0 0 ∧ ∀ i n, i < z.toNat → n < 128 →
        let q := product (accValue (s.nbv == 1) (y.getLsbD 19) ((rowRead s c.id (accRow y + i)).getD n 0)) (fp32.decode (x.toNat % 4294967296))
        (rowRead r c.id (accRow y + i)).getD n 0 = (if y.getLsbD 19 = true then narrowInt 32 q else narrow fp32 false q).bits) ∧
  (∀ (v1 : Bool) (a b : Nat), (accSum v1 true a b).bits = (BitVec.ofInt 32 (max (-2147483648) (min 2147483647
      ((BitVec.ofNat 32 a).toInt + (BitVec.ofNat 32 b).toInt)))).toNat ∧
      (accSum v1 false a b).bits = (fp32.add 0 v1 (fp32.operand v1 a) (fp32.operand v1 b)).bits ∧
      accWord v1 true a = a ∧ accWord false false a = a ∧
      (a < 4294967296 → accWord true false a = if a / 8388608 % 256 = 0 then a / 2147483648 * 2147483648 else a)) ∧
  (∀ (s : State) (o : Op) (d : Nat) (x y z x2 : DWord) (v : Vector Word 32) (f : Nat) t xs u ys,
      Reads s o (z.getLsbD 32) x.toNat (z.toNat % 4294967296 * dotBytes f) t xs →
      Reads t o (z.getLsbD 33) y.toNat (z.toNat % 4294967296 * dotBytes f) u ys →
      runEngine s o (.dotv f) d x y z x2 v =
        .ended (u.setX d (dotProduct (o.mode.toNat % 4) (o.mode.getLsbD 2) f (z.toNat % 4294967296) xs.toArray ys.toArray)) 0 0) ∧
  (∀ (mode n : Nat) (ftz : Bool) (x y : Array Byte), dotProduct mode ftz 3 n x y =
        BitVec.ofInt 64 ((List.range n).map fun i => (x.getD i 0).toInt * (y.getD i 0).toInt).sum ∧
      ∀ f, f < 3 → dotProduct mode ftz f 0 x y = 0 ∧ (0 < n →
        let num := fp32.operand ftz
        let p := fun j => ((List.range n).filter fun i => i % 32 == j).foldl (fun acc i =>
          (fp32.fma mode ftz (num (dotElem f x i)) (num (dotElem f y i)) (num acc)).bits) 0x80000000
        let plus := fun (g : Nat → Nat) (k j : Nat) => (fp32.add mode ftz (num (g j)) (num (g (j + k)))).bits
        dotProduct mode ftz f n x y = BitVec.ofNat 64 (plus (plus (plus (plus (plus p 16) 8) 4) 2) 1 0))) ∧
  (∀ (b : Array Byte) (i : Nat), dotElem 0 b i = leNat ((List.range 4).map fun k => b.getD (4 * i + k) 0) ∧
      dotElem 1 b i = 65536 * leNat ((List.range 2).map fun k => b.getD (2 * i + k) 0) ∧
      dotElem 2 b i = (convert e4m3 fp32 0 false false (b.getD i 0).toNat).bits)

/-- arrx arms, disarms, queries, loads, stores and fills windows, and arr operates on the elements of an armed window; a window that is not armed raises 0x46 (R270, R272, R273). When its engine runs, an arr gives every element of its window the low bits of the exact or saturated result of its operation on the sources in the rows of D, and changes nothing else; a load, store or fill moves each element of its range to or from the rows of its descriptor, and no other element (R97, R270, R272, R273). -/
def Obligations.ArrayInstructions : Prop :=
  (∀ (d a b : BitVec 7) ,
    GivesWhen (fun p => rangesWait p ([(p.num b.toNat, 12582912 * (spanSlices p (armPart (p.x a.toNat))).length)] ++ []) = false ∧
        p.num a.toNat < 64 ∧ p.num b.toNat % 65536 = 0 ∧
        p.inGlobal (p.num b.toNat) (12582912 * (spanSlices p (armPart (p.x a.toNat))).length)) (.arrxArm d a b)
        (fun p => engineOut p .ar (engineAct .arrxArm d.toNat (p.x a.toNat) 0 (p.x b.toNat) 0) 0 0 0 none
          [(p.num b.toNat, 12582912 * (spanSlices p (armPart (p.x a.toNat))).length)] []) ∧
    GivesWhen (fun p => rangesWait p ([] ++ (match armedWin p (field (p.x a.toNat) 0 3) with | some w => [(w.backing, w.bytes)] | none => [])) = false ∧
        p.num a.toNat < 8) (.arrxDisarm d a)
        (fun p => engineOut p .ar (engineAct .arrxDisarm d.toNat (p.x a.toNat) 0 0 0) 0 0 0 none []
          (match armedWin p (field (p.x a.toNat) 0 3) with | some w => [(w.backing, w.bytes)] | none => [])) ∧
    GivesWhen (fun p => p.num a.toNat < 8) (.arrxQuery d a)
        (fun p => engineOut p .ar (engineAct .arrxQuery d.toNat (p.x a.toNat) 0 0 0) 0 0 0 none [] []) ∧
    (∀ w, GivesWhen (fun p => rangesWait p ([(p.num b.toNat, (elemBytes (vecW (p.x a.toNat)) * rangeCount (p.x d.toNat)))] ++ []) = false ∧
        vecBad (p.x a.toNat) = false ∧ rangeCount (p.x d.toNat) ≠ 0 ∧
        armedWin p (vecWin (p.x a.toNat)) = some w ∧ rangeFirst (p.x d.toNat) + rangeCount (p.x d.toNat) ≤ w.size ∧ vecFn (p.x a.toNat) = 0 ∧
        p.num b.toNat % elemBytes (vecW (p.x a.toNat)) = 0 ∧ p.inGlobal (p.num b.toNat) (elemBytes (vecW (p.x a.toNat)) * rangeCount (p.x d.toNat))) (.arrxLoad d a b)
        (fun p => engineOut p .ar (engineAct .arrxLoad 0 (p.x a.toNat) (p.x d.toNat) (p.x b.toNat) 0) 0 0 0 none
          [(p.num b.toNat, (elemBytes (vecW (p.x a.toNat)) * rangeCount (p.x d.toNat)))] [])) ∧
    (∀ w, GivesWhen (fun p => rangesWait p ([] ++ [(p.num b.toNat, (elemBytes (vecW (p.x a.toNat)) * rangeCount (p.x d.toNat)))]) = false ∧
        vecBad (p.x a.toNat) = false ∧ rangeCount (p.x d.toNat) ≠ 0 ∧
        armedWin p (vecWin (p.x a.toNat)) = some w ∧ rangeFirst (p.x d.toNat) + rangeCount (p.x d.toNat) ≤ w.size ∧ vecFn (p.x a.toNat) = 0 ∧
        p.num b.toNat % elemBytes (vecW (p.x a.toNat)) = 0 ∧ p.inGlobal (p.num b.toNat) (elemBytes (vecW (p.x a.toNat)) * rangeCount (p.x d.toNat))) (.arrxStore d a b)
        (fun p => engineOut p .ar (engineAct .arrxStore 0 (p.x a.toNat) (p.x d.toNat) (p.x b.toNat) 0) 0 0 0 none
          [] [(p.num b.toNat, (elemBytes (vecW (p.x a.toNat)) * rangeCount (p.x d.toNat)))])) ∧
    (∀ w, GivesWhen (fun p => vecBad (p.x a.toNat) = false ∧ rangeCount (p.x d.toNat) ≠ 0 ∧
        armedWin p (vecWin (p.x a.toNat)) = some w ∧ rangeFirst (p.x d.toNat) + rangeCount (p.x d.toNat) ≤ w.size ∧ (vecFn (p.x a.toNat) = 0 ∨ vecFn (p.x a.toNat) = 0x20)) (.arrxFill d a)
        (fun p => engineOut p .ar (engineAct .arrxFill 0 (p.x a.toNat) (p.x d.toNat) 0 0) 0 0 0 none [] [])) ∧
    FaultsWhen (fun p => vecBad (p.x a.toNat) = false ∧ rangeCount (p.x d.toNat) ≠ 0 ∧ vecFn (p.x a.toNat) = 0 ∧
        armedWin p (vecWin (p.x a.toNat)) = none) (.arrxLoad d a b) (fun p => { cause := 0x46, lanes := p.sq.cur.active }) ∧
    FaultsWhen (fun p => vecBad (p.x a.toNat) = false ∧ rangeCount (p.x d.toNat) ≠ 0 ∧ vecFn (p.x a.toNat) = 0 ∧
        armedWin p (vecWin (p.x a.toNat)) = none) (.arrxStore d a b) (fun p => { cause := 0x46, lanes := p.sq.cur.active }) ∧
    FaultsWhen (fun p => vecBad (p.x a.toNat) = false ∧ rangeCount (p.x d.toNat) ≠ 0 ∧ (vecFn (p.x a.toNat) = 0 ∨ vecFn (p.x a.toNat) = 0x20) ∧
        armedWin p (vecWin (p.x a.toNat)) = none) (.arrxFill d a) (fun p => { cause := 0x46, lanes := p.sq.cur.active }) ∧
    (∀ w, GivesWhen (fun p => vecBad (p.x d.toNat) = false ∧ vecFn (p.x d.toNat) < 16 ∧ ArrSource (p.x d.toNat) (p.x a.toNat) ∧
        ArrSource (p.x d.toNat) (p.x b.toNat) ∧ armedWin p (vecWin (p.x d.toNat)) = some w) (.arrLogic d a b)
        (fun p => engineOut p .ar (engineAct .arrLogic 0 (p.x a.toNat) (p.x d.toNat) (p.x b.toNat) 0) 0 0 0 none [] [])) ∧
    FaultsWhen (fun p => vecBad (p.x d.toNat) = false ∧ vecFn (p.x d.toNat) < 16 ∧ ArrSource (p.x d.toNat) (p.x a.toNat) ∧
        ArrSource (p.x d.toNat) (p.x b.toNat) ∧ armedWin p (vecWin (p.x d.toNat)) = none) (.arrLogic d a b)
        (fun p => { cause := 0x46, lanes := p.sq.cur.active }) ∧
    (∀ w, GivesWhen (fun p => vecBad (p.x d.toNat) = false ∧ vecFn (p.x d.toNat) < 4 ∧ ArrSource (p.x d.toNat) (p.x a.toNat) ∧
        ArrSource (p.x d.toNat) (p.x b.toNat) ∧ armedWin p (vecWin (p.x d.toNat)) = some w) (.arrAddsub d a b)
        (fun p => engineOut p .ar (engineAct .arrAddsub 0 (p.x a.toNat) (p.x d.toNat) (p.x b.toNat) 0) 0 0 0 none [] [])) ∧
    FaultsWhen (fun p => vecBad (p.x d.toNat) = false ∧ vecFn (p.x d.toNat) < 4 ∧ ArrSource (p.x d.toNat) (p.x a.toNat) ∧
        ArrSource (p.x d.toNat) (p.x b.toNat) ∧ armedWin p (vecWin (p.x d.toNat)) = none) (.arrAddsub d a b)
        (fun p => { cause := 0x46, lanes := p.sq.cur.active }) ∧
    (∀ w, GivesWhen (fun p => vecBad (p.x d.toNat) = false ∧ (vecFn (p.x d.toNat) = 0 ∨ vecFn (p.x d.toNat) = 2) ∧ ArrSource (p.x d.toNat) (p.x a.toNat) ∧
        ArrSource (p.x d.toNat) (p.x b.toNat) ∧ armedWin p (vecWin (p.x d.toNat)) = some w) (.arrMul d a b)
        (fun p => engineOut p .ar (engineAct .arrMul 0 (p.x a.toNat) (p.x d.toNat) (p.x b.toNat) 0) 0 0 0 none [] [])) ∧
    FaultsWhen (fun p => vecBad (p.x d.toNat) = false ∧ (vecFn (p.x d.toNat) = 0 ∨ vecFn (p.x d.toNat) = 2) ∧ ArrSource (p.x d.toNat) (p.x a.toNat) ∧
        ArrSource (p.x d.toNat) (p.x b.toNat) ∧ armedWin p (vecWin (p.x d.toNat)) = none) (.arrMul d a b)
        (fun p => { cause := 0x46, lanes := p.sq.cur.active }) ∧
    (∀ w, GivesWhen (fun p => vecBad (p.x d.toNat) = false ∧ vecFn (p.x d.toNat) < 6 ∧ ArrSource (p.x d.toNat) (p.x a.toNat) ∧
        ArrSource (p.x d.toNat) (p.x b.toNat) ∧ armedWin p (vecWin (p.x d.toNat)) = some w) (.arrCmp d a b)
        (fun p => engineOut p .ar (engineAct .arrCmp 0 (p.x a.toNat) (p.x d.toNat) (p.x b.toNat) 0) 0 0 0 none [] [])) ∧
    FaultsWhen (fun p => vecBad (p.x d.toNat) = false ∧ vecFn (p.x d.toNat) < 6 ∧ ArrSource (p.x d.toNat) (p.x a.toNat) ∧
        ArrSource (p.x d.toNat) (p.x b.toNat) ∧ armedWin p (vecWin (p.x d.toNat)) = none) (.arrCmp d a b)
        (fun p => { cause := 0x46, lanes := p.sq.cur.active }) ∧
    (∀ w, GivesWhen (fun p => vecBad (p.x d.toNat) = false ∧ vecFn (p.x d.toNat) = 0 ∧ ArrSource (p.x d.toNat) (p.x a.toNat) ∧
        ArrSource (p.x d.toNat) (p.x b.toNat) ∧ armedWin p (vecWin (p.x d.toNat)) = some w) (.arrSel d a b)
        (fun p => engineOut p .ar (engineAct .arrSel 0 (p.x a.toNat) (p.x d.toNat) (p.x b.toNat) 0) 0 0 0 none [] [])) ∧
    FaultsWhen (fun p => vecBad (p.x d.toNat) = false ∧ vecFn (p.x d.toNat) = 0 ∧ ArrSource (p.x d.toNat) (p.x a.toNat) ∧
        ArrSource (p.x d.toNat) (p.x b.toNat) ∧ armedWin p (vecWin (p.x d.toNat)) = none) (.arrSel d a b)
        (fun p => { cause := 0x46, lanes := p.sq.cur.active }) ∧
    (∀ w, GivesWhen (fun p => vecBad (p.x d.toNat) = false ∧ vecFn (p.x d.toNat) < 2 ∧ ArrSource (p.x d.toNat) (p.x a.toNat) ∧
        ArrSource (p.x d.toNat) (p.x b.toNat) ∧ armedWin p (vecWin (p.x d.toNat)) = some w) (.arrShift d a b)
        (fun p => engineOut p .ar (engineAct .arrShift 0 (p.x a.toNat) (p.x d.toNat) (p.x b.toNat) 0) 0 0 0 none [] [])) ∧
    FaultsWhen (fun p => vecBad (p.x d.toNat) = false ∧ vecFn (p.x d.toNat) < 2 ∧ ArrSource (p.x d.toNat) (p.x a.toNat) ∧
        ArrSource (p.x d.toNat) (p.x b.toNat) ∧ armedWin p (vecWin (p.x d.toNat)) = none) (.arrShift d a b)
        (fun p => { cause := 0x46, lanes := p.sq.cur.active }) ∧
    (∀ w, GivesWhen (fun p => vecBad (p.x d.toNat) = false ∧ vecFn (p.x d.toNat) = 0 ∧ ArrSource (p.x d.toNat) (p.x a.toNat) ∧
        armedWin p (vecWin (p.x d.toNat)) = some w) (.arrPopc d a)
        (fun p => engineOut p .ar (engineAct .arrPopc 0 (p.x a.toNat) (p.x d.toNat) 0 0) 0 0 0 none [] [])) ∧
    (∀ w, GivesWhen (fun p => vecBad (p.x d.toNat) = false ∧ vecFn (p.x d.toNat) = 0 ∧ armedWin p (vecWin (p.x d.toNat)) = some w) (.arrBcast d)
        (fun p => engineOut p .ar (engineAct .arrBcast 0 0 (p.x d.toNat) 0 0) 0 0 0 none [] [])) ∧
    FaultsWhen (fun p => vecBad (p.x d.toNat) = false ∧ vecFn (p.x d.toNat) = 0 ∧ ArrSource (p.x d.toNat) (p.x a.toNat) ∧
        armedWin p (vecWin (p.x d.toNat)) = none) (.arrPopc d a) (fun p => { cause := 0x46, lanes := p.sq.cur.active }) ∧
    FaultsWhen (fun p => vecBad (p.x d.toNat) = false ∧ vecFn (p.x d.toNat) = 0 ∧ armedWin p (vecWin (p.x d.toNat)) = none) (.arrBcast d)
        (fun p => { cause := 0x46, lanes := p.sq.cur.active })) ∧
  (∀ (s : State) (o : Op) (d : Nat) (x y z x2 : DWord) (v : Vector Word 32) (e : Engine) w, e ∈ [.arrLogic, .arrAddsub, .arrMul, .arrCmp, .arrSel, .arrShift, .arrPopc, .arrBcast] →
      armedWin s (vecWin y) = some w →
      ∃ r u, runEngine s o e d x y z x2 v = .ended r 0 0 ∧ armedWin r (vecWin y) = some u ∧
        (∀ k, u.elem k = vecSet y (w.elem k) (arrResult e y x z (w.elem k))) ∧
        (∀ k, k ≠ vecWin y → findWin r k = findWin s k) ∧ { r with ctxs := s.ctxs } = s) ∧
  (∀ (y : DWord) (el : BitVec 512) (r : Int) (j : Nat), j < 512 → (vecSet y el r).getLsbD j =
      if vecRow y ≤ j ∧ j < vecRow y + vecW y then decide (r / 2 ^ (j - vecRow y) % 2 = 1) else el.getLsbD j) ∧
  (∀ (x : DWord) (el : BitVec 512), vecSource x el =
      let u := if x.toNat / 262144 % 64 = 32 then x.toNat / 4294967296 % 2 ^ vecW x else el.toNat / 2 ^ vecRow x % 2 ^ vecW x
      if x.getLsbD 17 = true ∧ 2 ^ (vecW x - 1) ≤ u then (u : Int) - 2 ^ vecW x else u) ∧
  (∀ (x : DWord), vecRow x = x.toNat % 512 ∧ vecW x = x.toNat / 512 % 32 + 1 ∧ vecWin x = x.toNat / 16384 % 8 ∧ vecFn x = x.toNat / 262144 % 64) ∧
  (∀ (y x z : DWord) (el : BitVec 512),
      let a := vecSource x el
      let b := vecSource z el
      let fn := vecFn y
      let lo : Int := if y.getLsbD 17 = true then -2 ^ (vecW y - 1) else 0
      let hi : Int := if y.getLsbD 17 = true then 2 ^ (vecW y - 1) - 1 else 2 ^ vecW y - 1
      let cap := fun r : Int => if fn / 2 % 2 = 1 then max lo (min hi r) else r
      arrResult .arrAddsub y x z el = cap (if fn % 2 = 1 then a - b else a + b) ∧ arrResult .arrMul y x z el = cap (a * b) ∧
      arrResult .arrCmp y x z el = (if [decide (a = b), decide (a ≠ b), decide (a < b), decide (a ≤ b), decide (b < a)].getD fn
        (decide (b ≤ a)) = true then 1 else 0) ∧
      arrResult .arrSel y x z el = (if a = 0 then vecGet y el else b) ∧
      arrResult .arrShift y x z el = (if b < 0 ∨ 32 ≤ b then (if fn % 2 = 1 ∧ a < 0 then -1 else 0)
        else if fn % 2 = 1 then a / 2 ^ b.toNat else a * 2 ^ b.toNat) ∧
      arrResult .arrPopc y x z el = ((List.range (vecW x)).countP fun j => decide (a / 2 ^ j % 2 = 1) : Nat) ∧
      arrResult .arrBcast y x z el = (y.toNat / 4294967296 : Nat) ∧
      ∀ j, j < vecW y → (arrResult .arrLogic y x z el / 2 ^ j % 2 = 1 ↔
        fn.testBit (2 * (a / 2 ^ j % 2).toNat + (b / 2 ^ j % 2).toNat) = true)) ∧
  (∀ (y : DWord) (el : BitVec 512), vecGet y el =
      let u := el.toNat / 2 ^ vecRow y % 2 ^ vecW y
      if y.getLsbD 17 = true ∧ 2 ^ (vecW y - 1) ≤ u then (u : Int) - 2 ^ vecW y else u) ∧
  (∀ (s : State) (o : Op) (d : Nat) (x y z x2 : DWord) (v : Vector Word 32) w,
      let e0 := y.toNat % 4294967296
      let n := y.toNat / 4294967296
      let b := if vecW x ≤ 8 then 1 else if vecW x ≤ 16 then 2 else 4
      armedWin s (vecWin x) = some w → e0 + n ≤ w.size →
      (∀ t bs, Reads s o false z.toNat (b * n) t bs → 0 < n → t.sq.ident = s.sq.ident → t.ctxs = s.ctxs →
        ∃ r u, runEngine s o .arrxLoad d x y z x2 v = .ended r 0 0 ∧ armedWin r (vecWin x) = some u ∧
          { r with ctxs := t.ctxs } = t ∧ ∀ k, u.elem k = if e0 ≤ k ∧ k < e0 + n
            then vecSet x (w.elem k) (leNat ((bs.drop (b * (k - e0))).take b)) else w.elem k) ∧
      (∀ t ks r, reachRanges s o needW [(z.toNat, b * n)] = (t, .keys ks) →
        writeKeys t false o ks ((List.range n).flatMap fun i => (List.range b).map fun j =>
          BitVec.ofInt 8 (vecGet x (w.elem (e0 + i)) / 256 ^ j)) = (r, none) →
        runEngine s o .arrxStore d x y z x2 v = .ended r 0 0) ∧
      ∃ r u, runEngine s o .arrxFill d x y z x2 v = .ended r 0 0 ∧ armedWin r (vecWin x) = some u ∧
        { r with ctxs := s.ctxs } = s ∧ ∀ k, u.elem k = if e0 ≤ k ∧ k < e0 + n
          then vecSet x (w.elem k) (x.toNat / 4294967296 : Nat) else w.elem k)

/-- A direct branch adds its offset to its own address, brp and the scalar branches take their condition, call links in v126, ret returns by it, a table branch finds each thread's target, and a target whose upper bits are not 0 raises 0x45 (R170 to R173). -/
def Obligations.BranchInstructions : Prop :=
  (∀ (x : BitVec 7) (t : BitVec 6) ,
    (∀ x, GivesWhen (fun p => p.sq.cur.active = 0 ∨ (branchTarget p x).toNat < addressTop p) (.bra x)
        (fun p => p.setPc p.sq.cur.active fun _ => branchTarget p x)) ∧
    (∀ x, GivesWhen (fun p => p.sq.cur.active = 0 ∨ (branchTarget p x).toNat < addressTop p) (.call x)
        (fun p => (p.setV 126 p.sq.cur.active fun _ => p.sq.cur.next.truncate 32).setPc p.sq.cur.active fun _ => branchTarget p x)) ∧
    (∀ q n x, GivesWhen (fun p => p.sq.cur.active &&& p.source q n = 0 ∨ (branchTarget p x).toNat < addressTop p) (.brp q n x)
        (fun p => p.setPc (p.sq.cur.active &&& p.source q n) fun _ => branchTarget p x)) ∧
    (∀ r x, GivesWhen (fun p => p.x r.toNat ≠ 0 ∨ (branchTarget p x).toNat < addressTop p) (.bsz r x)
        (fun p => p.setPc (if p.x r.toNat = 0 then p.sq.cur.active else 0) fun _ => branchTarget p x)) ∧
    (∀ r x, GivesWhen (fun p => p.x r.toNat = 0 ∨ (branchTarget p x).toNat < addressTop p) (.bsnz r x)
        (fun p => p.setPc (if p.x r.toNat = 0 then 0 else p.sq.cur.active) fun _ => branchTarget p x)) ∧
    GivesWhen (fun p => ∀ l ∈ laneList p.sq.cur.active, (returnTarget p l).getLsbD 0 = false) .ret
        (fun p => p.setPc p.sq.cur.active (returnTarget p)) ∧
    (∀ x, FaultsWhen (fun p => p.sq.cur.active ≠ 0 ∧ addressTop p ≤ (branchTarget p x).toNat) (.bra x)
        (fun p => { cause := 0x45, detail := 4, lanes := p.sq.cur.active, addr := (branchTarget p x).toNat })) ∧
    (∀ x, FaultsWhen (fun p => p.sq.cur.active ≠ 0 ∧ addressTop p ≤ (branchTarget p x).toNat) (.call x)
        (fun p => { cause := 0x45, detail := 4, lanes := p.sq.cur.active, addr := (branchTarget p x).toNat })) ∧
    (∀ q n x, FaultsWhen (fun p => p.sq.cur.active &&& p.source q n ≠ 0 ∧ addressTop p ≤ (branchTarget p x).toNat) (.brp q n x)
        (fun p => { cause := 0x45, detail := 4, lanes := p.sq.cur.active &&& p.source q n, addr := (branchTarget p x).toNat })) ∧
    (∀ r x, FaultsWhen (fun p => p.sq.cur.active ≠ 0 ∧ p.x r.toNat = 0 ∧ addressTop p ≤ (branchTarget p x).toNat) (.bsz r x)
        (fun p => { cause := 0x45, detail := 4, lanes := p.sq.cur.active, addr := (branchTarget p x).toNat })) ∧
    (∀ r x, FaultsWhen (fun p => p.sq.cur.active ≠ 0 ∧ p.x r.toNat ≠ 0 ∧ addressTop p ≤ (branchTarget p x).toNat) (.bsnz r x)
        (fun p => { cause := 0x45, detail := 4, lanes := p.sq.cur.active, addr := (branchTarget p x).toNat })) ∧
    (∀ l rest, FaultsWhen (fun p => (laneList p.sq.cur.active).filter (fun k => (returnTarget p k).getLsbD 0) = l :: rest) .ret
        (fun p => { cause := 0x43, lanes := maskOf (l :: rest), addr := (returnTarget p l).toNat })) ∧
    (∀ s u tg, Issues (.brx x t) s → TableFound (begun s) x t u tg →
        exec (.brx x t) s = .next (ended (u.setPc (begun s).sq.cur.active fun l => assocGet tg l 0))) ∧
    (∀ s u tg, Issues (.callx x t) s → TableFound (begun s) x t u tg →
        exec (.callx x t) s = .next (ended (link (u.setPc (begun s).sq.cur.active fun l => assocGet tg l 0)))))

/-- nop, yield, exit, the prefixes, time, rdsr, wrsr and setmode (R174, R175, R179 to R181), and the waits: a wait passes when each counter is low enough and no waited class holds an error, and blocks while one is above its threshold (R176 to R178). A wait on ST that meets a pinned sector delivers that 0x49 before any recorded error (log 89, DESIGN CHOICE). -/
def Obligations.ControlInstructions : Prop :=
  (∀ (d a : BitVec 7) ,
    Gives .nop (fun p => p) ∧
    Switches .yield (fun p => p.onSq fun q => { q with thr := q.thr.setAside q.cur.active }) ∧
    Switches .exit retireGroup ∧
    (∀ q n c, ∀ s, exec (.guard q n c) s = .next (s.onSq fun r => { r with cur := { r.cur with guard := some (q, n == 1, c.toNat + 1) } })) ∧
    (∀ c o, ∀ s, exec (.ord c o) s = .next (s.onSq fun r => { r with cur := { r.cur with ord := some (o.toNat, c.toNat) } })) ∧
    (∀ x, ∀ s, exec (.ext x) s = .next (s.onSq fun r => { r with cur := { r.cur with ext := some x } })) ∧
    Gives (.time d) (fun p => p.setX d.toNat p.now) ∧
    (∀ n, Gives (.rdsr d n) (fun p => p.setX d.toNat (specialReg p n.toNat))) ∧
    (∀ n, Gives (.wrsr n a) (fun p => p.onSq fun q => if n.toNat = 0x0D then { q with mode := p.x a.toNat &&& 0x1F07 }
        else { q with flags := p.x a.toNat &&& 0x1F })) ∧
    (∀ r z t w f e, Gives (.setmode r z t w f e) (fun p => p.onSq fun q => { q with mode := modeAfter q.mode r z t w f e })) ∧
    (∀ l c k t m, GivesWhen (fun p => Below p (waitTo l c k t m) ∧ NoError p (waitTo l c k t m) ∧ waitsOn (waitTo l c k t m) .st = none) (.wait l c k t m) (fun p => p)) ∧
    (∀ l c k t m, GivesWhen (fun p => Below p (waitTo l c k t m) ∧ waitsOn (waitTo l c k t m) .st ≠ none ∧
        (deferredFaults (retried p)).2 = false ∧ NoError (deferredFaults (retried p)).1 (waitTo l c k t m)) (.wait l c k t m)
        (fun p => (deferredFaults (retried p)).1)) ∧
    (∀ l c k t m, BlocksWhen (fun p => ∃ o n, waitsOn (waitTo l c k t m) o = some n ∧ n < p.sq.count o) (.wait l c k t m) (fun _ => .wait (waitTo l c k t m))) ∧
    (∀ m, GivesWhen (fun p => Below p (wait0To m) ∧ NoError p (wait0To m) ∧ waitsOn (wait0To m) .st = none) (.wait0 m) (fun p => p)) ∧
    (∀ m, GivesWhen (fun p => Below p (wait0To m) ∧ waitsOn (wait0To m) .st ≠ none ∧ (deferredFaults (retried p)).2 = false ∧
        NoError (deferredFaults (retried p)).1 (wait0To m)) (.wait0 m) (fun p => (deferredFaults (retried p)).1)) ∧
    (∀ m, BlocksWhen (fun p => ∃ o n, waitsOn (wait0To m) o = some n ∧ n < p.sq.count o) (.wait0 m) (fun _ => .wait (wait0To m))) ∧
    (∀ l c k t m, ∀ s o e, Issues (.wait l c k t m) s → Below (begun s) (waitTo l c k t m) → waitsOn (waitTo l c k t m) .st = none →
        firstError (begun s).sq (fun y => (waitsOn (waitTo l c k t m) y).isSome) = some (o, e) →
        exec (.wait l c k t m) s = .next (endSequence (takeFault ((noteStart s).onSq fun q =>
          { q with errs := q.errs.filter fun x => x.1 != o }) e.raise))) ∧
    (∀ l c k t m, ∀ s o e, Issues (.wait l c k t m) s → Below (begun s) (waitTo l c k t m) → waitsOn (waitTo l c k t m) .st ≠ none → (deferredFaults (retried (begun s))).2 = false →
        firstError (deferredFaults (retried (begun s))).1.sq (fun y => (waitsOn (waitTo l c k t m) y).isSome) = some (o, e) →
        exec (.wait l c k t m) s = .next (endSequence (takeFault ((noteStart s).onSq fun q =>
          { q with errs := q.errs.filter fun x => x.1 != o }) e.raise))) ∧
    (∀ l c k t m, ∀ s, Issues (.wait l c k t m) s → Below (begun s) (waitTo l c k t m) → waitsOn (waitTo l c k t m) .st ≠ none → (deferredFaults (retried (begun s))).2 = true →
        exec (.wait l c k t m) s = .next (endSequence (stopSquad (let t := (deferredFaults (retried (begun s))).1
          t.setPc t.sq.cur.active fun _ => t.sq.cur.first)))) ∧
    (∀ m, ∀ s o e, Issues (.wait0 m) s → Below (begun s) (wait0To m) → waitsOn (wait0To m) .st = none →
        firstError (begun s).sq (fun y => (waitsOn (wait0To m) y).isSome) = some (o, e) →
        exec (.wait0 m) s = .next (endSequence (takeFault ((noteStart s).onSq fun q =>
          { q with errs := q.errs.filter fun x => x.1 != o }) e.raise))) ∧
    (∀ m, ∀ s o e, Issues (.wait0 m) s → Below (begun s) (wait0To m) → waitsOn (wait0To m) .st ≠ none → (deferredFaults (retried (begun s))).2 = false →
        firstError (deferredFaults (retried (begun s))).1.sq (fun y => (waitsOn (wait0To m) y).isSome) = some (o, e) →
        exec (.wait0 m) s = .next (endSequence (takeFault ((noteStart s).onSq fun q =>
          { q with errs := q.errs.filter fun x => x.1 != o }) e.raise))) ∧
    (∀ m, ∀ s, Issues (.wait0 m) s → Below (begun s) (wait0To m) → waitsOn (wait0To m) .st ≠ none → (deferredFaults (retried (begun s))).2 = true →
        exec (.wait0 m) s = .next (endSequence (stopSquad (let t := (deferredFaults (retried (begun s))).1
          t.setPc t.sq.cur.active fun _ => t.sq.cur.first)))))

/-- Outside handler state and with a trap entry, trap and brk write the trap registers, mark the group and send it to the entry; rett and sret restore the pcs and windows, clear the marks, and raise 0x41 for a thread without the mark (R187, R188, R282, R283, R322). -/
def Obligations.TrapInstructions : Prop :=
  (∀ (a : BitVec 7) (h : DWord),
    GivesWhen (fun p => inHandler p.sq = false ∧ trapEntry p = some h) (.trap a) (fun p => p.trapped h 0x01 p.sq.cur.active (p.x a.toNat)) ∧
    (∀ k, GivesWhen (fun p => inHandler p.sq = false ∧ trapEntry p = some h) (.brk k) (fun p => p.trapped h 0x02 p.sq.cur.active (k.zeroExtend 64))) ∧
    GivesWhen (fun p => p.sq.cur.active &&& ~~~p.sq.thr.handlerMark = 0) .rett (fun p => p.untrapped) ∧
    FaultsWhen (fun p => p.sq.cur.active &&& ~~~p.sq.thr.handlerMark ≠ 0) .rett (fun p => { cause := 0x41, lanes := p.sq.cur.active }) ∧
    GivesWhen (fun p => p.sq.cur.active &&& ~~~p.sq.thr.sysMark = 0) .sret (fun p => p.sysReturned) ∧
    FaultsWhen (fun p => p.sq.cur.active &&& ~~~p.sq.thr.sysMark ≠ 0) .sret (fun p => { cause := 0x41, lanes := p.sq.cur.active }))

/-- A squad-held register is reached at once and any other after the wait of R323; tlbinv removes what its selector covers (R318, R323 to R325). After the wait of R323 cchop, errrd, mcctl and wayctl act on the lines, codes, pages and ways that s[a] or the selector names and write their result to s[d] (R326, R330 to R332). -/
def Obligations.SystemRegisterTlbAndMemoryControl : Prop :=
  (∀ (d a : BitVec 7),
    (∀ n : BitVec 7, GivesWhen (fun _ => squadHeld n.toNat = true) (.mfsr d n) (fun p => p.setX d.toNat (sysRead p n.toNat))) ∧
    (∀ n : BitVec 7, GivesWhen (fun p => squadHeld n.toNat = false ∧ FencePasses p) (.mfsr d n)
        (fun p => (sysFenced p).setX d.toNat (sysRead (sysFenced p) n.toNat))) ∧
    (∀ n : BitVec 7, GivesWhen (fun _ => squadHeld n.toNat = true) (.mtsr n a) (fun p => sysWrite p n.toNat (p.x a.toNat))) ∧
    (∀ n : BitVec 7, GivesWhen (fun p => squadHeld n.toNat = false ∧ FencePasses p) (.mtsr n a)
        (fun p => sysWrite (sysFenced p) n.toNat ((sysFenced p).x a.toNat))) ∧
    GivesWhen (fun p => p.x a.toNat = 0 ∧ FencePasses p ∧ translating (sysFenced p) .all = false) (.tlbinvAll a)
        (fun p => removeTranslations (sysFenced p) .all) ∧
    GivesWhen (fun p => p.num a.toNat < 64 ∧ FencePasses p ∧ translating (sysFenced p) (.ctx (p.num a.toNat)) = false) (.tlbinvCtx a)
        (fun p => removeTranslations (sysFenced p) (.ctx (p.num a.toNat))) ∧
    GivesWhen (fun p => field (p.x a.toNat) 6 10 = 0 ∧ p.num a.toNat < 36028797018963968 ∧ FencePasses p ∧
        translating (sysFenced p) (.page (p.num a.toNat % 64) (p.num a.toNat / 65536 * 65536)) = false) (.tlbinvPage a)
        (fun p => removeTranslations (sysFenced p) (.page (p.num a.toNat % 64) (p.num a.toNat / 65536 * 65536))) ∧
    GivesWhen (fun p => ChopOk p (p.num a.toNat) (p.num (a.toNat + 1)) ∧ FencePasses p ∧
        cleanWaits (sysFenced p) (p.num a.toNat) (p.num (a.toNat + 1)) = false) (.cchopWb d a)
        (fun p => (cleanRange (unkeepRange (sysFenced p) (p.num a.toNat) (p.num (a.toNat + 1))) (p.num a.toNat) (p.num (a.toNat + 1))).setX d.toNat (BitVec.ofNat 64 (poisonedLines (sysFenced p) (p.num a.toNat) (p.num (a.toNat + 1))))) ∧
    GivesWhen (fun p => ChopOk p (p.num a.toNat) (p.num (a.toNat + 1)) ∧ FencePasses p ∧
        cleanWaits (sysFenced p) (p.num a.toNat) (p.num (a.toNat + 1)) = false) (.cchopWbinv d a)
        (fun p => (purgeClean (cleanRange (unkeepRange (sysFenced p) (p.num a.toNat) (p.num (a.toNat + 1))) (p.num a.toNat) (p.num (a.toNat + 1))) (p.num a.toNat) (p.num (a.toNat + 1))).setX d.toNat (BitVec.ofNat 64 (poisonedLines (sysFenced p) (p.num a.toNat) (p.num (a.toNat + 1))))) ∧
    GivesWhen (fun p => ChopOk p (p.num a.toNat) (p.num (a.toNat + 1)) ∧ FencePasses p) (.cchopInv d a)
        (fun p => (discardRange (unkeepRange (sysFenced p) (p.num a.toNat) (p.num (a.toNat + 1))) (p.num a.toNat) (p.num (a.toNat + 1))).setX d.toNat (BitVec.ofNat 64 (poisonedLines (sysFenced p) (p.num a.toNat) (p.num (a.toNat + 1))))) ∧
    GivesWhen (fun p => ChopOk p (p.num a.toNat) (p.num (a.toNat + 1)) ∧ FencePasses p) (.cchopUnkeep d a)
        (fun p => (unkeepRange (sysFenced p) (p.num a.toNat) (p.num (a.toNat + 1))).setX d.toNat (BitVec.ofNat 64 (poisonedLines (sysFenced p) (p.num a.toNat) (p.num (a.toNat + 1))))) ∧
    GivesWhen (fun p => p.num a.toNat % 512 = 0 ∧ p.num a.toNat < paSpace ∧ FencePasses p) (.errrd d a) (fun p => (sysFenced p).setX d.toNat (BitVec.ofNat 64 (lineWord (sysFenced p) (p.num a.toNat)))) ∧
    GivesWhen (fun p => p.num a.toNat % 512 = 0 ∧ p.num a.toNat < paSpace ∧ FencePasses p) (.mcctlMetard d a) (fun p => (sysFenced p).setX d.toNat (BitVec.ofNat 64
        (codeOf (sysFenced p) (p.num a.toNat) + if inWindow (sysFenced p) (p.num a.toNat) = true then 16 else 0))) ∧
    GivesWhen (fun p => (p.num a.toNat % 16 = 0 ∨ p.num a.toNat % 16 = 15) ∧ p.num a.toNat / 16 * 16 % 512 = 0 ∧ p.num a.toNat < paSpace ∧
        FencePasses p ∧ inWindow (sysFenced p) (p.num a.toNat / 16 * 16) = true) (.mcctlMetawr d a)
        (fun p => (setMeta (sysFenced p) (p.num a.toNat / 16 * 16) (p.num a.toNat % 16)).setX d.toNat 0) ∧
    GivesWhen (fun p => (p.num a.toNat % 16 = 0 ∨ p.num a.toNat % 16 = 15) ∧ p.num a.toNat / 16 * 16 % 512 = 0 ∧ p.num a.toNat < paSpace ∧
        FencePasses p ∧ inWindow (sysFenced p) (p.num a.toNat / 16 * 16) = false) (.mcctlMetawr d a)
        (fun p => (sysFenced p).setX d.toNat 1) ∧
    GivesWhen (fun p => p.num a.toNat % 65536 = 0 ∧ p.num a.toNat < paSpace ∧ FencePasses p) (.mcctlRetire d a) (fun p => (retirePage (sysFenced p) (p.num a.toNat)).1.setX d.toNat (BitVec.ofNat 64 (retirePage (sysFenced p) (p.num a.toNat)).2)) ∧
    GivesWhen FencePasses (.wayctlQuar d) (fun p => (quarantine (sysFenced p) (selWay (sysFenced p).sq).1 (selWay (sysFenced p).sq).2).1.setX d.toNat (BitVec.ofNat 64 (quarantine (sysFenced p) (selWay (sysFenced p).sq).1 (selWay (sysFenced p).sq).2).2)) ∧
    GivesWhen FencePasses (.wayctlRelease d) (fun p => (releaseWay (sysFenced p) (selWay (sysFenced p).sq).1 (selWay (sysFenced p).sq).2).1.setX d.toNat (BitVec.ofNat 64 (releaseWay (sysFenced p) (selWay (sysFenced p).sq).1 (selWay (sysFenced p).sq).2).2)) ∧
    GivesWhen FencePasses (.wayctlDiscard d) (fun p => (discardWay (sysFenced p) (selWay (sysFenced p).sq).1 (selWay (sysFenced p).sq).2).1.setX d.toNat (BitVec.ofNat 64 (discardWay (sysFenced p) (selWay (sysFenced p).sq).1 (selWay (sysFenced p).sq).2).2)))

/-- A squad stays at survey, cxsave and cxrest until the device holds the result, which then goes to s[d]; halt passes when a selected event is pending (R327 to R329). lnkctl pauses, resumes, spares, retrains and clears the link that LNKSEL names and writes its status to s[d] (R334, R389, R390, R420). That a squad whose instruction has begun stays at it with its pc set back, here for survey, cxsave, cxrest and lnkctl.width, is the model's reading (log 72, DEDUCED); that a pause answers at once, with no flit in flight, is log 52 (DESIGN CHOICE). A spare answers 1 on a link that is not paused, 2 when the spare is in use, and else 0 with the lane moved; a width answers 0 with the lowest block whose lanes all train, or 3 with the group idle, and keeps BAD and the spare (R334, R390, R420). -/
def Obligations.LongSystemAndLinkControl : Prop :=
  (∀ (d a : BitVec 7) ,
    (∀ y, GivesWhen (fun p => myAnswer p = some y) (.survey d a) (fun p => (clearAnswer p).setX d.toNat y)) ∧
    BeginsWhen (fun p => myAnswer p = none ∧ (p.dev.surveyWait.any fun w => w.1 == p.sq.ident.id) = false ∧ FencePasses p) (.survey d a)
        (fun p => { sysFenced p with dev := { (sysFenced p).dev with surveyWait := (sysFenced p).dev.surveyWait ++
          [((sysFenced p).sq.ident.id, Nat.max ((sysFenced p).num a.toNat) ((sysFenced p).now.toNat + 2000))] } }) ∧
    (∀ y, GivesWhen (fun p => p.num (a.toNat + 1) % 4096 = 0 ∧ p.num (a.toNat + 1) < paSpace ∧ myAnswer p = some y) (.cxsave d a)
        (fun p => (clearAnswer p).setX d.toNat y)) ∧
    (∀ n u, GivesWhen (fun p => p.num (a.toNat + 1) % 4096 = 0 ∧ p.num (a.toNat + 1) < paSpace ∧ myAnswer p = none ∧ moving p = false ∧
        FencePasses p ∧ startSave (sysFenced p) (sysFenced p).sq.ident.id ((sysFenced p).x a.toNat) (p.num (a.toNat + 1)) d.toNat = (u, some n))
        (.cxsave d a) (fun _ => u.setX d.toNat (BitVec.ofNat 64 n))) ∧
    (∀ u, BeginsWhen (fun p => p.num (a.toNat + 1) % 4096 = 0 ∧ p.num (a.toNat + 1) < paSpace ∧ myAnswer p = none ∧ moving p = false ∧
        FencePasses p ∧ startSave (sysFenced p) (sysFenced p).sq.ident.id ((sysFenced p).x a.toNat) (p.num (a.toNat + 1)) d.toNat = (u, none))
        (.cxsave d a) (fun _ => u)) ∧
    (∀ y, GivesWhen (fun p => p.num a.toNat < paSpace ∧ myAnswer p = some y) (.cxrest d a) (fun p => (clearAnswer p).setX d.toNat y)) ∧
    (∀ n u, GivesWhen (fun p => p.num a.toNat < paSpace ∧ myAnswer p = none ∧ moving p = false ∧ FencePasses p ∧
        deviceWaits (sysFenced p) true 0 (p.num a.toNat) 72 needR = false ∧
        startRest (sysFenced p) (sysFenced p).sq.ident.id (p.num a.toNat) ((sysFenced p).x (a.toNat + 1)) d.toNat = (u, some n))
        (.cxrest d a) (fun _ => u.setX d.toNat (BitVec.ofNat 64 n))) ∧
    (∀ u, BeginsWhen (fun p => p.num a.toNat < paSpace ∧ myAnswer p = none ∧ moving p = false ∧ FencePasses p ∧
        deviceWaits (sysFenced p) true 0 (p.num a.toNat) 72 needR = false ∧
        startRest (sysFenced p) (sysFenced p).sq.ident.id (p.num a.toNat) ((sysFenced p).x (a.toNat + 1)) d.toNat = (u, none))
        (.cxrest d a) (fun _ => u)) ∧
    GivesWhen (fun p => p.sq.ident.core = Config.mcCore ∧ p.num a.toNat ≠ 0 ∧ p.num a.toNat % 65536 = 0 ∧ p.num a.toNat < 8388608 ∧
        FencePasses p ∧ (sysFenced p).dev.evpend &&& BitVec.ofNat 7 ((sysFenced p).num a.toNat / 65536) ≠ 0) (.halt a) (fun p => sysFenced p) ∧
    (∀ n, GivesWhen (fun p => selLink p.sq = some n ∧ p.x a.toNat = 0 ∧ FencePasses p) (.lnkctlPause d a)
        (fun p => ((sysFenced p).setLink n { (sysFenced p).link n with paused := true }).setX d.toNat 0)) ∧
    (∀ n, GivesWhen (fun p => selLink p.sq = some n ∧ p.x a.toNat = 0 ∧ FencePasses p ∧ ((sysFenced p).link n).paused = true) (.lnkctlResume d a)
        (fun p => ((sysFenced p).setLink n { (sysFenced p).link n with
          paused := false, readyAt := (sysFenced p).now.toNat }).setX d.toNat 0)) ∧
    (∀ n, GivesWhen (fun p => selLink p.sq = some n ∧ p.x a.toNat = 0 ∧ FencePasses p ∧ ((sysFenced p).link n).paused = false) (.lnkctlResume d a)
        (fun p => ((sysFenced p).setLink n { (sysFenced p).link n with paused := false }).setX d.toNat 1)) ∧
    (∀ n, GivesWhen (fun p => selLink p.sq = some n ∧ p.num a.toNat < 512 ∧ FencePasses p) (.lnkctlSpare d a)
        (fun p => (spareLane (sysFenced p) n (field (p.x a.toNat) 0 5) (field (p.x a.toNat) 5 4)).1.setX d.toNat (BitVec.ofNat 64 (spareLane (sysFenced p) n (field (p.x a.toNat) 0 5) (field (p.x a.toNat) 5 4)).2))) ∧
    (∀ n, GivesWhen (fun p => selLink p.sq = some n ∧ field (p.x a.toNat) 5 3 = 0 ∧ p.num a.toNat < 1024 ∧ field (p.x a.toNat) 8 2 ≠ 3 ∧ FencePasses p ∧
        (vget ((sysFenced p).link n).groups (field (p.x a.toNat) 0 5)).train = none ∧ ((sysFenced p).link n).paused = false) (.lnkctlWidth d a)
        (fun p => (sysFenced p).setX d.toNat 1)) ∧
    (∀ n, GivesWhen (fun p => selLink p.sq = some n ∧ field (p.x a.toNat) 5 3 = 0 ∧ p.num a.toNat < 1024 ∧ field (p.x a.toNat) 8 2 ≠ 3 ∧ FencePasses p ∧
        (vget ((sysFenced p).link n).groups (field (p.x a.toNat) 0 5)).train = some (sysFenced p).sq.ident.id) (.lnkctlWidth d a)
        (fun p => (trainGroup (sysFenced p) n (field (p.x a.toNat) 0 5) (field (p.x a.toNat) 8 2)).1.setX d.toNat (BitVec.ofNat 64 (trainGroup (sysFenced p) n (field (p.x a.toNat) 0 5) (field (p.x a.toNat) 8 2)).2))) ∧
    (∀ n, BeginsWhen (fun p => selLink p.sq = some n ∧ field (p.x a.toNat) 5 3 = 0 ∧ p.num a.toNat < 1024 ∧ field (p.x a.toNat) 8 2 ≠ 3 ∧ FencePasses p ∧
        (vget ((sysFenced p).link n).groups (field (p.x a.toNat) 0 5)).train = none ∧ ((sysFenced p).link n).paused = true) (.lnkctlWidth d a)
        (fun p => setGroup (sysFenced p) n (field (p.x a.toNat) 0 5) fun k => { k with train := some (sysFenced p).sq.ident.id })) ∧
    (∀ n, GivesWhen (fun p => selLink p.sq = some n ∧ p.x a.toNat = 0 ∧ FencePasses p) (.lnkctlClrretry d a)
        (fun p => (clearRetry (sysFenced p) n).setX d.toNat 0))) ∧
  (∀ (s : State) (n g lane : Nat),
      let k := vget (s.link n).groups g
      let r := spareLane s n g lane
      r.2 = (if (s.link n).paused = false then 1 else if k.spareUse = true then 2 else 0) ∧ (r.2 ≠ 0 → r.1 = s) ∧
      (r.2 = 0 → vget (r.1.link n).groups g = { k with spared := lane, spareUse := true })) ∧
  (∀ (s : State) (n g w : Nat), w ≤ 2 →
      let k := vget (s.link n).groups g
      let r := trainGroup s n g w
      let j := vget (r.1.link n).groups g
      let m := 16 / 2 ^ w
      let trains := fun q => ∀ i, i < m → k.fails.getLsbD (if k.spareUse = true ∧ k.spared = m * q + i then 16 else m * q + i) = false
      (r.2 = 0 ∨ r.2 = 3) ∧ (r.2 = 3 → j.width = 3 ∧ ∀ q, q < 2 ^ w → ¬trains q) ∧
      (r.2 = 0 → j.width = w ∧ j.q < 2 ^ w ∧ trains j.q ∧ ∀ q, q < j.q → ¬trains q) ∧
      j.bad = k.bad ∧ j.spared = k.spared ∧ j.spareUse = k.spareUse)

/-- retain.create, destroy and query return their status (R333): a create answers 0 when no field is out of range, the id is new, every core of the mask has the banks free, and fewer than 256 residencies are held, and then each such core holds that many banks, blank; any other status tells a condition that holds and changes nothing; a destroy answers 1 for no such residency, 2 while an accepted grid is bound to it, and else 0 with its banks blank and the residency gone. launch accepts a record that passes its checks, returns the refusal code of one that does not, and faults on an address out of range or misaligned (R245, R338, R341). -/
def Obligations.ResidenciesAndLaunch : Prop :=
  (∀ (d a : BitVec 7),
    (∀ u bs, GivesWhen (fun p => p.num a.toNat % 32 = 0 ∧ p.num a.toNat < paSpace ∧ FencePasses p ∧
        linksOpen (sysFenced p) (sysFenced p).sq.ident.core (p.num a.toNat) none = true ∧
        homeRead (sysFenced p) (sysFenced p).sq.ident.ctx (p.num a.toNat) 32 = (u, bs, false)) (.retainCreate d a)
        (fun _ => (createResid u bs).1.setX d.toNat (BitVec.ofNat 64 (createResid u bs).2))) ∧
    GivesWhen (fun p => field (p.x a.toNat) 6 10 = 0 ∧ p.num a.toNat < 4294967296 ∧ FencePasses p) (.retainDestroy d a)
        (fun p => (destroyResid (sysFenced p) (field (p.x a.toNat) 0 6) (field (p.x a.toNat) 16 16)).1.setX d.toNat (BitVec.ofNat 64 (destroyResid (sysFenced p) (field (p.x a.toNat) 0 6) (field (p.x a.toNat) 16 16)).2)) ∧
    (∀ r, GivesWhen (fun p => field (p.x a.toNat) 6 10 = 0 ∧ p.num a.toNat < 4294967296 ∧ FencePasses p ∧ resid? (sysFenced p) (field (p.x a.toNat) 0 6) (field (p.x a.toNat) 16 16) = some r) (.retainQuery d a)
        (fun p => (sysFenced p).setX d.toNat (BitVec.ofNat 64 (r.n * 256)))) ∧
    GivesWhen (fun p => field (p.x a.toNat) 6 10 = 0 ∧ p.num a.toNat < 4294967296 ∧ FencePasses p ∧ resid? (sysFenced p) (field (p.x a.toNat) 0 6) (field (p.x a.toNat) 16 16) = none) (.retainQuery d a)
        (fun p => (sysFenced p).setX d.toNat 1) ∧
    (∀ u v bs sites, GivesWhen (fun p => p.num a.toNat < addressTop p ∧ p.num a.toNat % 256 = 0 ∧
        unflushed p p.sq.ident.core = false ∧ submitWaits p (launcher p) (p.num a.toNat) = false ∧ deviceRead (flushL1 p p.sq.ident.core) (launcher p).priv (launcher p).ctx (p.num a.toNat) 256 = (u, .inl bs) ∧
        checkRecord u (launcher p) (recordOf (p.num a.toNat) bs) bs = (v, 0, sites)) (.launch d a)
        (fun p => (accept v (gridOf v (launcher p) (recordOf (p.num a.toNat) bs) sites)).setX d.toNat 0)) ∧
    (∀ u v bs sites n, GivesWhen (fun p => p.num a.toNat < addressTop p ∧ p.num a.toNat % 256 = 0 ∧
        unflushed p p.sq.ident.core = false ∧ submitWaits p (launcher p) (p.num a.toNat) = false ∧ deviceRead (flushL1 p p.sq.ident.core) (launcher p).priv (launcher p).ctx (p.num a.toNat) 256 = (u, .inl bs) ∧
        checkRecord u (launcher p) (recordOf (p.num a.toNat) bs) bs = (v, n + 1, sites)) (.launch d a)
        (fun _ => v.setX d.toNat (BitVec.ofNat 64 (n + 1)))) ∧
    (∀ u n, GivesWhen (fun p => p.num a.toNat < addressTop p ∧ p.num a.toNat % 256 = 0 ∧
        unflushed p p.sq.ident.core = false ∧ submitWaits p (launcher p) (p.num a.toNat) = false ∧ deviceRead (flushL1 p p.sq.ident.core) (launcher p).priv (launcher p).ctx (p.num a.toNat) 256 = (u, .inr n) ∧
        ((u.part (launcher p).part).state ≠ 3 ∨ (launcher p).mcSquad = true)) (.launch d a) (fun _ => u.setX d.toNat 0x0E)) ∧
    (∀ u n, GivesWhen (fun p => p.num a.toNat < addressTop p ∧ p.num a.toNat % 256 = 0 ∧
        unflushed p p.sq.ident.core = false ∧ submitWaits p (launcher p) (p.num a.toNat) = false ∧ deviceRead (flushL1 p p.sq.ident.core) (launcher p).priv (launcher p).ctx (p.num a.toNat) 256 = (u, .inr n) ∧
        (u.part (launcher p).part).state = 3 ∧ (launcher p).mcSquad = false) (.launch d a) (fun _ => u.setX d.toNat 0x0D)) ∧
    FaultsWhen (fun p => addressTop p ≤ p.num a.toNat) (.launch d a)
        (fun p => { cause := 0x45, detail := 4, lanes := p.sq.cur.active, addr := p.num a.toNat, aux := 1 }) ∧
    FaultsWhen (fun p => p.num a.toNat < addressTop p ∧ p.num a.toNat % 256 ≠ 0) (.launch d a)
        (fun p => { cause := 0x43, lanes := p.sq.cur.active, addr := p.num a.toNat, aux := 1 })) ∧
  (∀ (s : State) (bs : List Byte),
      let id := fieldOf bs 0 2
      let ctx := fieldOf bs 2 1
      let n := fieldOf bs 3 1
      let mask : BitVec 128 := BitVec.ofNat 128 (fieldOf bs 8 16)
      let bad := id = 0 ∨ ctx = 0 ∨ 64 ≤ ctx ∨ n = 0 ∨ 32 < n ∨ fieldOf bs 4 4 ≠ 0 ∨ fieldOf bs 0x18 8 ≠ 0 ∨ mask = 0
      let known := ∃ b ∈ s.resids, b.ctx = ctx ∧ b.id = id
      let short := ∃ c, c < 128 ∧ mask.getLsbD c = true ∧ (freeBanks s c).length < n
      let r := createResid s bs
      (r.2 = 0 ↔ ¬bad ∧ ¬known ∧ ¬short ∧ s.resids.length < 256) ∧ (r.2 = 1 → known) ∧ (r.2 = 2 → short) ∧ (r.2 = 3 → bad) ∧
      (r.2 = 4 → 256 ≤ s.resids.length) ∧ r.2 ≤ 4 ∧ (r.2 ≠ 0 → r.1 = s) ∧
      (r.2 = 0 → ∃ b, r.1.resids = s.resids ++ [b] ∧ b.ctx = ctx ∧ b.id = id ∧ b.n = n ∧ b.mask = mask ∧
        (∀ c, c < 128 → mask.getLsbD c = true → ∃ l, (c, l) ∈ b.banks ∧ l.length = n ∧ ∀ k ∈ l, k ∈ freeBanks s c) ∧
        ∀ p ∈ b.banks, ∀ k ∈ p.2, (∀ i, i < 65536 → memGet r.1.mem (bankKey k i) = 0) ∧ ∀ i, i < 4096 → memGet r.1.mem (bankKey k (65536 + i)) = 0x7F)) ∧
  (∀ (s : State) (ctx id : Nat),
      let known := ∃ b ∈ s.resids, b.ctx = ctx ∧ b.id = id
      let bound := ∃ g ∈ s.grids, g.ctx = ctx ∧ g.r.resid = id
      let r := destroyResid s ctx id
      (r.2 = 0 ↔ known ∧ ¬bound) ∧ (r.2 = 1 ↔ ¬known) ∧ (r.2 = 2 ↔ known ∧ bound) ∧ r.2 ≤ 2 ∧ (r.2 ≠ 0 → r.1 = s) ∧
      (r.2 = 0 → (∀ b, b ∈ r.1.resids ↔ b ∈ s.resids ∧ ¬(b.ctx = ctx ∧ b.id = id)) ∧
        ∀ b, (s.resids.find? fun b => b.ctx == ctx && b.id == id) = some b → ∀ p ∈ b.banks, ∀ k ∈ p.2, k < 65536 →
          (∀ i, i < 65536 → memGet r.1.mem (bankKey k i) = 0) ∧ ∀ i, i < 4096 → memGet r.1.mem (bankKey k (65536 + i)) = 0x7F))

/-- An event enters the system handler, the quantum sets the running group aside at 4096 instructions, a blocked instruction completes when its condition holds, a squad without operations retires, and an access that a tlbinv has covered is tried again (R41, R42, R46, R321, R369). Two points are the model's reading: a quantum step below 4096 instructions changes nothing, as any event that its rule does not enable (log 67, DEDUCED), and a squad whose last exit consumes an error stands again at that exit and faults there (log 68, DEDUCED). -/
def Obligations.SquadSteps : Prop :=
  (
    (∀ s q t g pc, (s.squads.find? fun q => q.isMc0) = some q → s.checkout q.ident.id = some t → eventDue t t.sq = true →
        eventGroup t.sq.thr = some (g, pc) →
        exec .systemEventDelivery s = .next (enterSystem t g pc (0x80 + lowestEvent t) 0 g.toNat)) ∧
    (∀ sq, HappensOn sq (fun t => Config.quantum ≤ t.sq.thr.quantum) (.quantumExpiry sq) (fun t => t.onSq fun q =>
        { q with thr := { q.thr with aside := q.thr.aside ||| (q.thr.ran &&& q.thr.live), quantum := 0 } })) ∧
    (∀ sq, HappensOn sq (fun t => t.sq.thr.quantum < Config.quantum) (.quantumExpiry sq) (fun t => t)) ∧
    (∀ sq k w u, HappensOn sq (fun t => BlockedAt t k w ∧ interlocked (resumed t w).sq ⟨[], [], w.what.reads, w.what.writes, true⟩ = false ∧
        checkPoison (resumed t w) ⟨[], [], w.what.reads, w.what.writes, true⟩ = none ∧
        tryBlocked (resumed t w) k w.what = .done u) (.blockedInstructionComplete sq k) (fun _ => dropWait u k)) ∧
    (∀ sq k w f, HappensOn sq (fun t => BlockedAt t k w ∧ interlocked (resumed t w).sq ⟨[], [], w.what.reads, w.what.writes, true⟩ = false ∧
        checkPoison (resumed t w) ⟨[], [], w.what.reads, w.what.writes, true⟩ = some f)
        (.blockedInstructionComplete sq k) (fun t => takeFault (dropWait (blockedState t w) k) f)) ∧
    (∀ s t sq k w, s.checkout sq = some t → BlockedAt t k w →
        interlocked (resumed t w).sq ⟨[], [], w.what.reads, w.what.writes, true⟩ = true →
        exec (.blockedInstructionComplete sq k) s = .next s) ∧
    (∀ sq, HappensOn sq (fun t => inUnit t t.sq = false ∧ endWaits t = false ∧ t.sq.status = .exiting ∧ t.sq.ops = [] ∧
        firstError t.sq (fun _ => true) = none) (.squadRetire sq) retireSquad) ∧
    (∀ sq c e, HappensOn sq (fun t => inUnit t t.sq = false ∧ endWaits t = false ∧ t.sq.status = .exiting ∧ t.sq.ops = [] ∧
        firstError t.sq (fun _ => true) = some (c, e)) (.squadRetire sq)
        (fun t => endSequence (takeFault ((backToExit t).onSq fun q => { q with errs := q.errs.filter fun x => x.1 != c }) e.raise))) ∧
    (∀ sq r p u key, HappensOn sq (fun t => t.sq.replay = some r ∧ r.pages = [p] ∧ p.seen = true ∧
        resolve t t.sq.ident.priv t.sq.ident.core t.sq.ident.ctx p.va needLeaf = (u, .inl key)) (.notPresentReplay sq 0)
        (fun _ => u.onSq fun q => { q with replay := none })) ∧
    (∀ sq r p u f, HappensOn sq (fun t => t.sq.replay = some r ∧ r.pages = [p] ∧ p.seen = true ∧ f.cause = 0x44 ∧ f.joined = true ∧
        resolve t t.sq.ident.priv t.sq.ident.core t.sq.ident.ctx p.va needLeaf = (u, .inr f)) (.notPresentReplay sq 0)
        (fun _ => u.onSq fun q => { q with replay := some { r with pages := [{ p with seen := false }] } })) ∧
    (∀ sq k o va, HappensOn sq (fun t => k ≠ 0 ∧ findOp t k = some o ∧ o.page = some (va, true)) (.notPresentReplay sq k)
        (fun t => setOp t { o with page := none })) ∧
    Happens (fun s => s.sq.present = true) .illegalInstructionFault
        (fun s => endSequence (takeFault s { cause := 0x40, lanes := s.sq.cur.active })))

/-- An operation that nothing older holds back completes and then the oldest operations of each class retire (R61, R62, R87 to R89, R224, R232, R249). -/
def Obligations.OperationSteps : Prop :=
  (
    (∀ sq k sp w d sc acc, HappensTo sq k (fun t o => o.act = .load sp w d sc acc ∧ mayComplete t o = true) (.loadComplete sq k)
        (fun t o => retireOps (completeLoad t o sp w d sc acc))) ∧
    (∀ sq k sp acc, HappensTo sq k (fun t o => o.act = .store sp acc ∧ mayComplete t o = true) (.storeComplete sq k)
        (fun t o => retireOps (completeStore t o sp acc))) ∧
    (∀ sq k sp op d sc acc, HappensTo sq k (fun t o => o.act = .atomic sp op d sc acc ∧ mayComplete t o = true) (.atomicComplete sq k)
        (fun t o => retireOps (completeAtomic t o sp op d sc acc))) ∧
    (∀ sq k e d x y z x2 v, HappensTo sq k (fun t o => o.act = .engine e d x y z x2 v ∧ mayRun t.sq o = true) (.engineOperationComplete sq k)
        (fun t o => retireOps (settleEngine o (runEngine t o e d x y z x2 v)))) ∧
    (∀ sq k, HappensTo sq k (fun _ o => o.done = true ∧ o.last.isSome = true) (.lastPush sq k) (fun t _ => retireOps t)))

/-- A taken queue entry is accepted, a crew is placed on cores that have room, a timed grid over its budget is demoted, and a unit passes from stopping through draining, saving and saved to restoring and resumed (R337, R347, R348, R353). R329 leaves the size of a saved image to the implementation: the 72 bytes here are the model's choice (log 12, DESIGN CHOICE). -/
def Obligations.SchedulingAndPreemptionSteps : Prop :=
  (
    (∀ s n t e u bs, n < 64 → QueueReady s n → deviceWaits s (queueSubmitter s n).priv (queueSubmitter s n).ctx
          ((s.queue n).base.toNat + 8 * ((s.queue n).rd % 2 ^ ((s.queue n).cfg.toNat % 32))) 8 needR = false →
        deviceRead s (queueSubmitter s n).priv (queueSubmitter s n).ctx ((s.queue n).base.toNat + 8 * ((s.queue n).rd % 2 ^ ((s.queue n).cfg.toNat % 32))) 8 =
          (t, .inl e) →
        leNat e % 256 = 0 → submitWaits t (queueSubmitter s n) (leNat e) = false →
        deviceRead t (queueSubmitter s n).priv (queueSubmitter s n).ctx (leNat e) 256 = (u, .inl bs) →
        exec (.workQueueEntryTake n) s = .next ((submit u (queueSubmitter s n) (leNat e) bs).1.setQueue n
          { (submit u (queueSubmitter s n) (leNat e) bs).1.queue n with rd := ((s.queue n).rd + 1) % 4294967296 })) ∧
    Happens (fun _ => True) .dependencePoll evalDeps ∧
    (∀ s g n cores c t, s.grid? g = some c → unitBefore s c = false → tryPlace s c n cores = some t →
        exec (.crewPlacement g n cores) s = .next t) ∧
    (∀ s g c, s.grid? g = some c → c.timed = true → c.demoted = false → c.r.budget < c.used → exec (.timedBudgetExceeded g) s =
        .next (errorRecord (s.setGrid { c with demoted := true }) 0x85 (some c.ctx) 0 0 0 0 c.r.va 0)) ∧
    (∀ s n u, unit? s n = some u → u.phase = .stopping → exec (.preemptDraining n) s = .next (setUnit s { u with phase := .draining })) ∧
    (∀ s n u, unit? s n = some u → u.phase = .draining → (squadsOf s u.crews).all drained = true → exec (.preemptSaving n) s =
        .next (setUnit ((coresWith s u.crews).foldl flushL1 s) { u with phase := .saving })) ∧
    (∀ s n u t p, unit? s n = some u → u.phase = .saving → savingWaits s u = false → u.cause = .distributor ∨ u.cause = .resize p →
        writeImages ((coresWith s u.crews).foldl flushL1 s) u = (t, none) → exec (.preemptSaved n) s = .next (holdUnit t u u.cause)) ∧
    (∀ s n u t sq dst keep, unit? s n = some u → u.phase = .saving → savingWaits s u = false → u.cause = .cxsave sq dst keep →
        writeImages ((coresWith s u.crews).foldl flushL1 s) u = (t, none) → exec (.preemptSaved n) s = .next (answerSave (holdUnit t u .image) u sq (72 * 4294967296))) ∧
    (∀ s n u g cores r t, unit? s n = some u → unitGrid s u = some g → (g.r.pinned = true → tableWaits s g.part = false) →
        r = (if g.r.pinned then readTable s g.part (u.heldC.filterMap fun c => siteOf g.sites c.linear) else s) →
        mayRestore r u = true → unitTurn r u = true → startRestoring r u cores u.cause = some t →
        exec (.preemptRestoring n cores) s = .next t) ∧
    (∀ s n u, unit? s n = some u → u.phase = .restoring → (squadsOf s u.crews).all (fun q => q.ops.isEmpty) = true → u.cause = .distributor →
        exec (.preemptResumed n) s = .next (runOn s u)))

/-- start, resize, stop and end context, their completions, an invalid command and a reservation write change the partition as R357 to R359 give. Three points are the model's reading: the CHIPS of 0 after a stop and the refusal of an empty TARGET (log 55, DEDUCED), the end of a resize (log 56, DEDUCED), and all twelve stacks and STATE OFF during a start (log 57, DEDUCED). -/
def Obligations.PartitionSteps : Prop :=
  (
    (∀ p, p < 8 → Runs (fun s => (s.part p).state = 0 ∧ (s.part p).target ≠ 0 ∧ chipsTaken s p (s.part p).target = false) p [1] (.partitionStart p)
        (fun s => ownLinks (s.setPart p { s.part p with chips := (s.part p).target, phase := .starting }))) ∧
    (∀ p, p < 8 → Runs (fun s => (s.part p).state ≠ 0) p [1] (.partitionStart p) (fun s => endCommand s p 1)) ∧
    (∀ p, p < 8 → Happens (fun s => (s.part p).phase = .starting ∧ (s.part p).chips &&& ~~~(s.dev.ready0.truncate 32) = 0 ∧
        field s.dev.ready0 32 12 = 0xFFF) (.partitionStartComplete p)
        (fun s => endCommand (s.setPart p { s.part p with state := 1, phase := .none }) p 0)) ∧
    (∀ p, p < 8 → Runs (fun s => ResizePasses s p) p [2] (.partitionResize p) (fun s => evacuate (ownLinks (s.setPart p { s.part p with
        state := 2, chips := (s.part p).chips ||| (s.part p).target, aim := (s.part p).target, phase := .evacuate })) p)) ∧
    (∀ p, p < 8 → Runs (fun s => (s.part p).state ≠ 1) p [2] (.partitionResize p) (fun s => endCommand s p 1)) ∧
    (∀ p, p < 8 → Happens (fun s => (s.part p).phase = .evacuate ∧ onLeaving s p ((s.part p).chips &&& ~~~(s.part p).aim) = []) (.resizeRelease p)
        (fun s => ownLinks (s.setPart p { s.part p with chips := (s.part p).aim, phase := .release }))) ∧
    (∀ p, p < 8 → Happens (fun s => (s.part p).phase = .release ∧ resuming s p = false) (.resizeDone p)
        (fun s => endCommand (s.setPart p { s.part p with state := 1, phase := .none }) p 0)) ∧
    (∀ p, p < 8 → Runs (fun s => (s.part p).state = 1 ∧ (s.grids.any fun g => g.part == p && !g.mc) = false) p [3] (.partitionStop p)
        (fun s => endCommand (ownLinks (s.setPart p { s.part p with state := 0, chips := 0, phase := .none })) p 0)) ∧
    (∀ p, p < 8 → Runs (fun s => (s.part p).state = 1 ∧ (s.grids.any fun g => g.part == p && !g.mc) = true) p [3] (.partitionStop p)
        (fun s => endCommand s p 6)) ∧
    (∀ s p c v, p < 8 → nextCommand s p [4] = some v → field v 8 6 = c → endWaitsFor s p c = false → (s.part p).state = 1 →
        exec (.endContext p c) s = .next (let t := takeCommand s p
          clearContext (t.setPart p { t.part p with state := 3, phase := .ending c }) p c)) ∧
    (∀ p c, p < 8 → Happens (fun s => (s.part p).phase = .ending c) (.endContextComplete p)
        (fun s => endCommand (s.setPart p { s.part p with state := 1, phase := .none }) p 0)) ∧
    (∀ p, p < 8 → Runs (fun _ => True) p [5, 6, 7] (.partctlInvalidCmd p) (fun s => raiseEvent (s.setPart p { s.part p with err := 8 }) 5)) ∧
    (∀ s p c, (nextCommand s p [1] = none → exec (.partitionStart p) s = .next s) ∧ (nextCommand s p [2] = none → exec (.partitionResize p) s = .next s) ∧
        (nextCommand s p [3] = none → exec (.partitionStop p) s = .next s) ∧ (nextCommand s p [4] = none → exec (.endContext p c) s = .next s) ∧
        (nextCommand s p [5, 6, 7] = none → exec (.partctlInvalidCmd p) s = .next s)) ∧
    (∀ (s : State) p v, p < 8 → reserves (s.part p) v = false → (writePartctl s p v).part p =
        (if field v 4 3 = 0 then s.part p else { s.part p with cmds := (s.part p).cmds ++ [v] })) ∧
    (∀ p v, p < 8 → Happens (fun s => BySystem s ∧ reserves (s.part p) v = true ∧ reserveBad s p v = false) (.reservationWrite p v)
        (fun s => s.setPart p { s.part p with rcores := field v 16 8, rmem := field v 24 7, rlnk := field v 31 7, err := 0 })) ∧
    (∀ p v, p < 8 → Happens (fun s => BySystem s ∧ reserves (s.part p) v = true ∧ reserveBad s p v = true) (.reservationWrite p v)
        (fun s => s.setPart p { s.part p with err := 3 })))

/-- A queued split starts its turn and takes effect when its dead time ends, a replay is counted and recorded, a span port goes down or is trained, and an access to a peer out of reach completes with an error (R386, R388, R393, R400). -/
def Obligations.LinkSteps : Prop :=
  (
    (∀ n o rest, n < 88 → Happens (fun s => mayTurn s n = true ∧ (s.link n).turns = o :: rest) (.linkTurnStart n) (fun s =>
        startTurn (s.setLink n { s.link n with turns := rest, readyAt := s.now.toNat }) n o
          (if (s.link n).turned then Nat.max (s.link n).readyAt ((s.link n).tstart + 2000) else (s.link n).readyAt))) ∧
    (∀ n o t, n < 88 → Happens (fun s => (s.link n).turning = some (o, t) ∧ t ≤ s.now.toNat) (.turnDeadTimeEnd n)
        (fun s => settleLost (setSplit (s.setLink n { s.link n with readyAt := Nat.max (s.link n).readyAt t }) n o) n)) ∧
    (∀ n g l, n < 88 → g < 32 → l < 16 → Happens (fun _ => True) (.flitReplay n g l) (fun s => replayFlit s n g l)) ∧
    Happens (fun _ => True) .retryWindowExpiry (fun s => (List.range 88).foldl freshWindow s) ∧
    (∀ p, p < 24 → Happens (fun s => s.dev.ready1.getLsbD p = true) (.spanPortDown p)
        (fun s => linkRecord (noteSpan (setReady1 s p false)) 0 6 p 0 0)) ∧
    (∀ p, p < 24 → Happens (fun s => s.dev.ready1.getLsbD p = false ∧ s.dev.ready0.getLsbD 49 = true) (.spanPortTrained p)
        (fun s => noteSpan (setReady1 s p true))) ∧
    (∀ n, Happens (fun s => peerTimedOut s n = true ∧ peerPorts s n ≠ 0) (.peerAccessTimeout n)
        (fun s => (s.squads.flatMap fun q => q.ops.map fun o => (q.ident.id, o.id)).foldl
          (fun t k => onOp t k.1 k.2 fun u o => if forPeer u o n then completeOp u o else u) s)))

/-- A host or peer access reaches memory, a doorbell and the queue registers act, and a write of a system register or a window acts as R318 to R407 give (R330, R336, R378, R391, R394, R396 to R400, R407). That a host read of the control space gives the words of a buffer placed at its base is the model's choice (log 97, DESIGN CHOICE), that the host is owner 0 of what it reads is its reading (log 65, DEDUCED), and that a write which disables a window leaves its range as it was is its choice (log 108, DESIGN CHOICE). -/
def Obligations.HostAndRegisterSteps : Prop :=
  (
    (∀ n bytes bad, Happens (fun s => hostReady s = true ∧ reachable n bytes.length = true ∧
        outsideOpen s n bytes.length true = true) (.hostHdmWrite n bytes bad) (fun s => outsideWrite s n bytes bad)) ∧
    (∀ n k, Happens (fun s => inControl n = false ∧ hostReady s = true ∧ reachable n k = true ∧
        outsideOpen s n k false = true) (.hostHdmRead n k) (fun s => outsideRead s n k)) ∧
    (∀ n k, n + k ≤ 67108864 → Happens (fun s => s.dev.powered = true ∧ n < 67108864) (.hostHdmRead (Config.controlBase + n) k)
        (fun s => { s with hostOut := (barRead s n k).zipIdx.map fun b => (Config.controlBase + n + b.2, b.1, false) })) ∧
    (∀ n k, Happens (fun s => s.dev.ready1.toNat % 16777216 ≠ 0 ∧ reachable n k = true ∧
        outsideOpen s n k false = true) (.peerRequest (.read n k)) (fun s => outsideRead s n k)) ∧
    (∀ n bytes bad, Happens (fun s => s.dev.ready1.toNat % 16777216 ≠ 0 ∧ reachable n bytes.length = true ∧
        outsideOpen s n bytes.length true = true) (.peerRequest (.write n bytes bad))
        (fun s => outsideWrite s n bytes bad)) ∧
    Happens (fun s => s.dev.powered = true) .doorbell (fun s => raiseEvent s 4) ∧
    (∀ n v, 1 ≤ n → n < 64 → Happens (fun s => s.dev.powered = true) (.qcfgWrite n v) (fun s => writeQcfg s n v)) ∧
    (∀ n v, 1 ≤ n → n < 64 → Happens (fun s => s.dev.powered = true) (.qwriteWrite n v)
        (fun s => s.setQueue n { s.queue n with w := v.toNat % 4294967296 })) ∧
    (∀ o n v, Happens (fun s => s.dev.powered = true) (.bar0Write o n v) (fun s => barWrite s true o n v.toNat)) ∧
    (∀ v, Happens BySystem (.sysstatWrite v) (fun s => sysWrite s 0x00 v)) ∧
    (∀ v, Happens BySystem (.errpopWrite v) (fun s => sysWrite s 0x11 v)) ∧
    (∀ v, Happens (fun s => BySystem s ∧ (vget s.dev.mcwin (s.sq.sys.mcsel.toNat % 16)).en = false ∧
        windowBad s (s.sq.sys.mcsel.toNat % 16) (windowOf (v ||| 1)) = false) (.mcwinEnable v)
        (fun s => setWindow s (s.sq.sys.mcsel.toNat % 16) (windowOf (v ||| 1)))) ∧
    (∀ v, Happens (fun s => BySystem s ∧ (vget s.dev.mcwin (s.sq.sys.mcsel.toNat % 16)).en = true) (.mcwinDisable v)
        (fun s => setWindow s (s.sq.sys.mcsel.toNat % 16) { vget s.dev.mcwin (s.sq.sys.mcsel.toNat % 16) with busy := true })) ∧
    (∀ n, n < 16 → Happens (fun _ => True) (.mcwinExpansionDone n) (fun s => expandWindow s n)) ∧
    (∀ v, Happens BySystem (.surveyctlWrite v) (fun s => sysWrite s 0x39 v)) ∧
    (∀ t, Happens (fun s => s.dev.armedAt = some t ∧ t ≤ s.meridian.toNat) .surveyCompareLatch (fun s => latchTick s t)) ∧
    (∀ a r rest, Happens (fun s => s.dev.outs = (a, r) :: rest ∧
        deviceWaits s true 0 (a + 64 * r) (64 * (285 - r)) needW = false) .surveyWriteOutDone
        (fun s => raiseEvent (putRecords { s with dev := { s.dev with outs := rest } } a r (285 - r)) 2)) ∧
    (∀ v n, Happens (fun s => BySystem s ∧ selLink s.sq = some n) (.lnklanesWrite v)
        (fun s => setGroup s n (selGroup s.sq) fun g => { g with bad := g.bad &&& ~~~(v.truncate 16) })) ∧
    (∀ v, Happens (fun s => BySystem s ∧ (s.part (selPart s.sq)).state = 0) (.keepbaseWrite v)
        (fun s => s.setPart (selPart s.sq) { s.part (selPart s.sq) with keep := v &&& 0x000FFFFFFF80FFFF })) ∧
    (∀ n v, Happens BySystem (.systemRegisterWrite n v) (fun s => sysWrite s n.toNat v)))

/-- A scrub finds, counts and records (R375), banks and way groups enter and leave retention (R408), the power stages warn and trip (R409), and reset, the meridian source, the firmware check and the functions that come up change the ready bits (R401, R402, R404). Squad 0 of the management core starts at the entry that the board's image names (logs 2 and 83, DESIGN CHOICE), and what a cold reset leaves of memory is log 6; the causes that end a bank's retention are log 69. -/
def Obligations.HealthAndResetSteps : Prop :=
  (
    (∀ n, Happens (fun s => inCompute s n = true ∧ s.bankRet.contains n = false) (.planeScrub n) (fun s => verifyPlanes s n (List.range 64) true)) ∧
    (∀ n l, Happens (fun s => llcFind s (n * 64) = some l ∧ l.dirty = 0) (.llcScrub n .dataError)
        (fun s => countCorrected (countWay (llcShow s l) l))) ∧
    (∀ n l, Happens (fun s => llcFind s (n * 64) = some l ∧ l.dirty ≠ 0) (.llcScrub n .dataError)
        (fun s => dataRecord (countWay (llcSet (poisonSector s n) { l with dirty := l.dirty ||| BitVec.twoPow 8 (n % 8) }) l) (some l.owner) 7
          (b2n l.mixed + 2) (wayUnit l) (physOf (n * 64)) 0)) ∧
    (∀ n, Happens (fun s => llcFind s (n * 64) = none) (.hbmScrub n .dataError)
        (fun s => dataRecord (poisonSector s n) ((llcFind s (n / 8 * 512)).map (·.owner)) 10 (lineAux s (n / 8 * 512)) (stackOf s (n * 64)) (physOf (n * 64)) 0)) ∧
    (∀ n l, Happens (fun s => llcFind s (n * 64) = some l) (.hbmScrub n .dataError)
        (fun s => dataRecord (llcSet s { l with backPoison := l.backPoison ||| BitVec.twoPow 8 (n % 8) })
          ((llcFind s (n / 8 * 512)).map (·.owner)) 10 (lineAux s (n / 8 * 512)) (stackOf s (n * 64)) (physOf (n * 64)) 0)) ∧
    (∀ n, Happens (fun _ => True) (.hbmScrub n .corrected) (fun s => countCorrected (s.countSurvey (160 + stackOf s (n * 64)) 5 1))) ∧
    (∀ n, n < 4100 → Happens (fun s => s.dev.ready1.getLsbD 32 = true ∧ bankIdle s n = true ∧ idleLong s n = true ∧
        s.bankRet.contains n = false) (.bankRetentionEntry n) (fun s => { s with bankRet := n :: s.bankRet })) ∧
    (∀ n, Happens (fun s => retentionEnds s n = true) (.bankRetentionExit n) (fun s => leaveRetention s n)) ∧
    (∀ n, Happens (fun s => s.dev.ready1.getLsbD 32 = false) (.bankRetentionExit n) (fun s => leaveRetention s n)) ∧
    (∀ k g, k < 32 → g < 4 → Happens (fun s => s.dev.ready1.getLsbD 33 = true ∧ ((List.range 4).all fun i => quarantined s k (4 * g + i)) = true ∧
        s.wayRet.contains (k, g) = false) (.wayGroupRetentionEntry k g) (fun s => { s with wayRet := (k, g) :: s.wayRet })) ∧
    (∀ k g, Happens (fun s => s.dev.ready1.getLsbD 33 = false) (.wayGroupRetentionExit k g)
        (fun s => { s with wayRet := s.wayRet.filter (· != (k, g)) })) ∧
    Happens (fun s => s.dev.powered = true) .overcurrentWarning (fun s => { s with dev := { s.dev with halved := true } }) ∧
    Happens (fun _ => True) .overcurrentClear (fun s => { s with dev := { s.dev with halved := false } }) ∧
    Happens (fun _ => True) .powerOnReset restart ∧
    Happens (fun s => s.dev.powered = true) .cxlConventionalReset restart ∧
    Happens (fun s => s.dev.powered = true) .thermalTrip (fun s => { restart s with dev := { Device.reset with powered := false } }) ∧
    (∀ s : State, { restart s with mem := [], poison := [], board := Board.reset, plan := [], tickets := 0 } = State.reset ∧
        (restart s).board = s.board ∧ (restart s).plan = s.plan ∧ (restart s).tickets = s.tickets ∧
        ∀ a, a < paSpace ∨ bankBase ≤ a → memGet (restart s).mem a = unlisted a) ∧
    Happens (fun s => s.dev.powered = true ∧ s.dev.ready0.getLsbD 48 = false) .meridianLock (fun s => setReady0 (lockDies s) 48 true) ∧
    (∀ k e, Happens (fun s => s.dev.powered = true ∧ s.dev.booted = false ∧ s.dev.ready0.getLsbD 48 = true ∧
        bootStatus s.board = k.toNat ∧ (k = 1 → e = bootEntry s.board)) (.firmwareVerify k e) (fun s =>
          if k = 1 then setReady0 (startMc (setReady0 (writeBoot s 1) 49 true) e) 50 true else writeBoot s k.toNat)) ∧
    (∀ (b : Board) (f : Firmware), (b.flash = none → bootStatus b = 4) ∧ (b.flash = some f → bootStatus b =
        if signatureHolds b f = false then 2 else if f.version.toNat < b.minVersion.toNat then 3 else 1)) ∧
    (∀ n, n < 32 → Happens (fun s => s.dev.ready0.getLsbD 50 = true) (.functionReady (.chip n)) (fun s => setReady0 s n true)) ∧
    (∀ k b n r, k < 12 → Happens (fun s => s.dev.ready0.getLsbD 50 = true ∧ s.dev.ready0.getLsbD (32 + k) = false ∧ regionOk s b n r = true)
        (.functionReady (.stack k b n r))
        (fun s => setReady0 { s with dev := { s.dev with regions := s.dev.regions ++ [(k, b, n, r)] } } (32 + k) true)) ∧
    (∀ n, n < 4 → Happens (fun s => s.dev.ready0.getLsbD 50 = true) (.functionReady (.edge n)) (fun s => setReady0 s (44 + n) true)) ∧
    (∀ n, n < 24 → Happens (fun s => s.dev.ready0.getLsbD 50 = true) (.functionReady (.span n)) (fun s => noteSpan (setReady1 s n true))) ∧
    Happens (fun s => s.dev.ready0.getLsbD 50 = true ∧ field s.dev.ready0 32 12 = 0xFFF) (.functionReady .host) (fun s => setReady0 s 51 true) ∧
    Happens (fun s => s.dev.ready0.getLsbD 50 = true) (.functionReady .ide)
        (fun s => setReady1 { s with dev := { s.dev with ideKeys := some (Config.ideKey s.tickets) }, tickets := s.tickets + 1 } 24 true) ∧
    (∀ f, Happens (fun s => s.dev.ready0.getLsbD 49 = true ∧ s.board.flash = some f) (.functionReady .attest)
        (fun s => setReady1 { s with dev := { s.dev with
          attest := some (sha3_256 f.image, slhPublic slh256f (attestSecret s.board (sha3_256 f.image))) } } 25 true)))

/-- Every integer lane instruction, comparison, shuffle and movx or movxr leaves every vector register but its destination, every scalar register, every predicate but its destination, the lanes that are not enabled, MODE, FLAGS, the trap and system registers, the outstanding operations, the rest of the device and every byte of memory unchanged. -/
def Obligations.FrameOfIntegerLanes : Prop :=
  (∀ (d a : BitVec 5),
    Framed always (.add16 d a) [d.toNat] [] [] inEnabled ∧
    Framed always (.sub16 d a) [d.toNat] [] [] inEnabled ∧
    Framed always (.mul16 d a) [d.toNat] [] [] inEnabled ∧
    Framed always (.and16 d a) [d.toNat] [] [] inEnabled ∧
    Framed always (.or16 d a) [d.toNat] [] [] inEnabled ∧
    Framed always (.xor16 d a) [d.toNat] [] [] inEnabled ∧
    Framed always (.shl16 d a) [d.toNat] [] [] inEnabled ∧
    Framed always (.shr16 d a) [d.toNat] [] [] inEnabled ∧
    Framed always (.sar16 d a) [d.toNat] [] [] inEnabled ∧
    Framed always (.mov16 d a) [d.toNat] [] [] inEnabled) ∧
  (∀ (d a b : BitVec 7),
    Framed always (.add d a b) [d.toNat] [] [] inEnabled ∧
    Framed always (.sub d a b) [d.toNat] [] [] inEnabled ∧
    Framed always (.mul d a b) [d.toNat] [] [] inEnabled ∧
    Framed always (.mulhiI32 d a b) [d.toNat] [] [] inEnabled ∧
    Framed always (.mulhiN32 d a b) [d.toNat] [] [] inEnabled ∧
    Framed always (.and d a b) [d.toNat] [] [] inEnabled ∧
    Framed always (.or d a b) [d.toNat] [] [] inEnabled ∧
    Framed always (.xor d a b) [d.toNat] [] [] inEnabled ∧
    Framed always (.shl d a b) [d.toNat] [] [] inEnabled ∧
    Framed always (.shr d a b) [d.toNat] [] [] inEnabled ∧
    Framed always (.sar d a b) [d.toNat] [] [] inEnabled ∧
    Framed always (.minI32 d a b) [d.toNat] [] [] inEnabled ∧
    Framed always (.maxI32 d a b) [d.toNat] [] [] inEnabled ∧
    Framed always (.minN32 d a b) [d.toNat] [] [] inEnabled ∧
    Framed always (.maxN32 d a b) [d.toNat] [] [] inEnabled ∧
    Framed always (.addsatI32 d a b) [d.toNat] [] [] inEnabled ∧
    Framed always (.subsatI32 d a b) [d.toNat] [] [] inEnabled ∧
    Framed always (.prmt d a b) [d.toNat] [] [] inEnabled ∧
    Framed always (.bfe d a b) [d.toNat] [] [] inEnabled ∧
    Framed always (.bfi d a b) [d.toNat] [] [] inEnabled ∧
    Framed always (.mad d a b) [d.toNat] [] [] inEnabled ∧
    Framed always (.idot4 d a b) [d.toNat] [] [] inEnabled ∧
    Framed always (.addS d a b) [d.toNat] [] [] inEnabled ∧
    Framed always (.subS d a b) [d.toNat] [] [] inEnabled ∧
    Framed always (.mulS d a b) [d.toNat] [] [] inEnabled ∧
    Framed always (.mulhiI32S d a b) [d.toNat] [] [] inEnabled ∧
    Framed always (.mulhiN32S d a b) [d.toNat] [] [] inEnabled ∧
    Framed always (.andS d a b) [d.toNat] [] [] inEnabled ∧
    Framed always (.orS d a b) [d.toNat] [] [] inEnabled ∧
    Framed always (.xorS d a b) [d.toNat] [] [] inEnabled ∧
    Framed always (.shlS d a b) [d.toNat] [] [] inEnabled ∧
    Framed always (.shrS d a b) [d.toNat] [] [] inEnabled ∧
    Framed always (.sarS d a b) [d.toNat] [] [] inEnabled ∧
    Framed always (.minI32S d a b) [d.toNat] [] [] inEnabled ∧
    Framed always (.maxI32S d a b) [d.toNat] [] [] inEnabled ∧
    Framed always (.minN32S d a b) [d.toNat] [] [] inEnabled ∧
    Framed always (.maxN32S d a b) [d.toNat] [] [] inEnabled ∧
    Framed always (.addsatI32S d a b) [d.toNat] [] [] inEnabled ∧
    Framed always (.subsatI32S d a b) [d.toNat] [] [] inEnabled ∧
    Framed always (.prmtS d a b) [d.toNat] [] [] inEnabled ∧
    Framed always (.bfeS d a b) [d.toNat] [] [] inEnabled ∧
    Framed always (.bfiS d a b) [d.toNat] [] [] inEnabled ∧
    Framed always (.madS d a b) [d.toNat] [] [] inEnabled ∧
    Framed always (.idot4S d a b) [d.toNat] [] [] inEnabled ∧
    Framed always (.popc d a) [d.toNat] [] [] inEnabled ∧
    Framed always (.clz d a) [d.toNat] [] [] inEnabled ∧
    Framed always (.brev d a) [d.toNat] [] [] inEnabled ∧
    Framed always (.abs d a) [d.toNat] [] [] inEnabled ∧
    Framed always (.neg d a) [d.toNat] [] [] inEnabled ∧
    Framed always (.not d a) [d.toNat] [] [] inEnabled ∧
    Framed always (.mov d a) [d.toNat] [] [] inEnabled ∧
    (∀ w, Framed always (.sext d a w) [d.toNat] [] [] inEnabled) ∧
    (∀ q n, Framed always (.selp d a q n) [d.toNat] [] [] inEnabled) ∧
    (∀ imm, Framed always (.addi d a imm) [d.toNat] [] [] inEnabled) ∧
    (∀ imm, Framed always (.andi d a imm) [d.toNat] [] [] inEnabled) ∧
    (∀ imm, Framed always (.ori d a imm) [d.toNat] [] [] inEnabled) ∧
    (∀ imm, Framed always (.xori d a imm) [d.toNat] [] [] inEnabled) ∧
    (∀ imm, Framed always (.muli d a imm) [d.toNat] [] [] inEnabled) ∧
    (∀ imm, Framed always (.shli d a imm) [d.toNat] [] [] inEnabled) ∧
    (∀ imm, Framed always (.shri d a imm) [d.toNat] [] [] inEnabled) ∧
    (∀ imm, Framed always (.sari d a imm) [d.toNat] [] [] inEnabled) ∧
    (∀ imm, Framed always (.movi d imm) [d.toNat] [] [] inEnabled) ∧
    (∀ imm, Framed always (.lidx d a imm) [d.toNat] [] [] inEnabled) ∧
    (∀ t n, Framed always (.tlu d a t n) [d.toNat] [] [] inEnabled) ∧
    (∀ q c b, Framed always (.setp q c a b) [] [] [q.toNat] inEnabled) ∧
    (∀ q c b, Framed always (.setpS q c a b) [] [] [q.toNat] inEnabled) ∧
    (∀ q c imm, Framed always (.setpi q c a imm) [] [] [q.toNat] inEnabled) ∧
    Framed (fun p => p.unmarked a.toNat (p.sourceLanes fun l => (p.v b.toNat l).toNat % 32)) (.shflIdx d a b) [d.toNat] [] [] inEnabled ∧
    Framed (fun p => (p.x b.toNat).toNat < 32 ∧ p.unmarked a.toNat (p.sourceLanes fun l => l ^^^ (p.x b.toNat).toNat)) (.shflXor d a b) [d.toNat] [] [] inEnabled ∧
    Framed (fun p => (p.x b.toNat).toNat < 32 ∧ p.unmarked a.toNat (p.sourceLanes fun l => if l < (p.x b.toNat).toNat then l else l - (p.x b.toNat).toNat)) (.shflUp d a b) [d.toNat] [] [] inEnabled ∧
    Framed (fun p => (p.x b.toNat).toNat < 32 ∧ p.unmarked a.toNat (p.sourceLanes fun l => if 32 ≤ l + (p.x b.toNat).toNat then l else l + (p.x b.toNat).toNat)) (.shflDn d a b) [d.toNat] [] [] inEnabled ∧
    (∀ n, Framed (fun p => (p.x d.toNat).toNat = n ∧ n < 128 ∧ inAllotment p.sq.ident.allot n = true ∧
        interlocked p.sq ⟨[n], [n], [], [], true⟩ = false) (.movx d a) [n] [] [] inEnabled) ∧
    (∀ n, Framed (fun p => (p.x a.toNat).toNat = n ∧ n < 128 ∧ inAllotment p.sq.ident.allot n = true ∧
        interlocked p.sq ⟨[n], [n], [], [], true⟩ = false ∧ p.unmarked n p.sq.cur.enabled) (.movxr d a) [d.toNat] [] [] inEnabled))

/-- Every scalar instruction, move between the files, predicate instruction and vote leaves every register but its destination, MODE, FLAGS, the trap and system registers, the outstanding operations, the rest of the device and every byte of memory unchanged. -/
def Obligations.FrameOfScalarAndPredicate : Prop :=
  (∀ (d a b : BitVec 7) (e : BitVec 3),
    Framed always (.sadd d a b) [] [d.toNat] [] inEnabled ∧
    Framed always (.ssub d a b) [] [d.toNat] [] inEnabled ∧
    Framed always (.smul d a b) [] [d.toNat] [] inEnabled ∧
    Framed always (.smulhi d a b) [] [d.toNat] [] inEnabled ∧
    Framed always (.sand d a b) [] [d.toNat] [] inEnabled ∧
    Framed always (.sor d a b) [] [d.toNat] [] inEnabled ∧
    Framed always (.sxor d a b) [] [d.toNat] [] inEnabled ∧
    Framed always (.sshl d a b) [] [d.toNat] [] inEnabled ∧
    Framed always (.sshr d a b) [] [d.toNat] [] inEnabled ∧
    Framed always (.ssar d a b) [] [d.toNat] [] inEnabled ∧
    Framed always (.smin d a b) [] [d.toNat] [] inEnabled ∧
    Framed always (.smax d a b) [] [d.toNat] [] inEnabled ∧
    Framed always (.sminn d a b) [] [d.toNat] [] inEnabled ∧
    Framed always (.smaxn d a b) [] [d.toNat] [] inEnabled ∧
    Framed always (.seq d a b) [] [d.toNat] [] inEnabled ∧
    Framed always (.sne d a b) [] [d.toNat] [] inEnabled ∧
    Framed always (.slt d a b) [] [d.toNat] [] inEnabled ∧
    Framed always (.sle d a b) [] [d.toNat] [] inEnabled ∧
    Framed always (.sltn d a b) [] [d.toNat] [] inEnabled ∧
    Framed always (.slen d a b) [] [d.toNat] [] inEnabled ∧
    Framed always (.sdivn d a b) [] [d.toNat] [] inEnabled ∧
    Framed always (.sremn d a b) [] [d.toNat] [] inEnabled ∧
    Framed always (.ssel d a b) [] [d.toNat] [] inEnabled ∧
    Framed always (.smov d a) [] [d.toNat] [] inEnabled ∧
    Framed always (.sclz d a) [] [d.toNat] [] inEnabled ∧
    Framed always (.spopc d a) [] [d.toNat] [] inEnabled ∧
    (∀ imm, Framed always (.saddi d a imm) [] [d.toNat] [] inEnabled) ∧
    (∀ imm, Framed always (.sandi d a imm) [] [d.toNat] [] inEnabled) ∧
    (∀ imm, Framed always (.sori d a imm) [] [d.toNat] [] inEnabled) ∧
    (∀ imm, Framed always (.sxori d a imm) [] [d.toNat] [] inEnabled) ∧
    (∀ imm, Framed always (.smuli d a imm) [] [d.toNat] [] inEnabled) ∧
    (∀ imm, Framed always (.seqi d a imm) [] [d.toNat] [] inEnabled) ∧
    (∀ imm, Framed always (.slti d a imm) [] [d.toNat] [] inEnabled) ∧
    (∀ imm, Framed always (.sltni d a imm) [] [d.toNat] [] inEnabled) ∧
    (∀ imm, Framed always (.sshli d a imm) [] [d.toNat] [] inEnabled) ∧
    (∀ imm, Framed always (.sshri d a imm) [] [d.toNat] [] inEnabled) ∧
    (∀ imm, Framed always (.ssari d a imm) [] [d.toNat] [] inEnabled) ∧
    (∀ r imm, Framed always (.li r imm) [] [r.toNat] [] inEnabled) ∧
    Framed always (.movs d a) [d.toNat] [] [] inEnabled ∧
    Framed (fun p => (p.x b.toNat).toNat < 32 ∧ p.unmarked a.toNat (maskOf [(p.x b.toNat).toNat])) (.rdlane d a b) [] [d.toNat] [] inEnabled ∧
    Framed (fun p => (p.x b.toNat).toNat < 32) (.wrlane d a b) [d.toNat] [] [] (fun p => (maskOf [(p.x b.toNat).toNat])) ∧
    (∀ q x r y, Framed always (.pand e q x r y) [] [] [e.toNat] inActive) ∧
    (∀ q x r y, Framed always (.por e q x r y) [] [] [e.toNat] inActive) ∧
    (∀ q x r y, Framed always (.pxor e q x r y) [] [] [e.toNat] inActive) ∧
    (∀ a, Framed always (.pset e a) [] [] [e.toNat] inActive) ∧
    (∀ d q n, Framed always (.pget d q n) [d.toNat] [] [] inActive) ∧
    (∀ a, Framed always (.pmask e a 0) [] [] [e.toNat] inActive) ∧
    (∀ a, Framed always (.pmask e a 1) [] [] [] inEnabled) ∧
    (∀ q n, Framed always (.voteAll e q n) [] [] [e.toNat] inEnabled) ∧
    (∀ q n, Framed always (.voteAny e q n) [] [] [e.toNat] inEnabled) ∧
    (∀ q n, Framed always (.voteUni e q n) [] [] [e.toNat] inEnabled) ∧
    (∀ d q n, Framed always (.voteBallot d q n) [] [d.toNat] [] inEnabled) ∧
    (∀ d q n, Framed always (.voteBallotHi d q n) [] [d.toNat] [] inEnabled))

/-- Every floating-point lane instruction whose exceptions do not trap leaves every register but its destination in the enabled lanes unchanged; FLAGS keeps its set bits and every bit above 4, MODE and the special registers are unchanged, grids change in their statistics at most, and every byte of memory is unchanged. -/
def Obligations.FrameOfFloatingPoint : Prop :=
  (∀ (d a : BitVec 5),
    FramedFloat (fun p => Untrapped p fun l => ((fadd2 p (p.v d.toNat l) (p.v a.toNat l)).lane).fx)
        (.fadd16 d a) [d.toNat] [] ∧
    FramedFloat (fun p => Untrapped p fun l => ((fsub2 p (p.v d.toNat l) (p.v a.toNat l)).lane).fx)
        (.fsub16 d a) [d.toNat] [] ∧
    FramedFloat (fun p => Untrapped p fun l => ((fmul2 p (p.v d.toNat l) (p.v a.toNat l)).lane).fx)
        (.fmul16 d a) [d.toNat] [] ∧
    FramedFloat (fun p => Untrapped p fun l => ((fmin2 p false (p.v d.toNat l) (p.v a.toNat l)).lane).fx)
        (.fmin16 d a) [d.toNat] [] ∧
    FramedFloat (fun p => Untrapped p fun l => ((fmin2 p true (p.v d.toNat l) (p.v a.toNat l)).lane).fx)
        (.fmax16 d a) [d.toNat] [] ∧
    Framed always (.fneg16 d a) [d.toNat] [] [] inEnabled) ∧
  (∀ (d a b c : BitVec 7),
    FramedFloat (fun p => Untrapped p fun l => ((fadd2 p (p.v a.toNat l) (p.v b.toNat l)).lane).fx)
        (.fadd d a b) [d.toNat] [] ∧
    FramedFloat (fun p => Untrapped p fun l => ((fadd2 p (p.v a.toNat l) (p.lowWord b)).lane).fx)
        (.faddS d a b) [d.toNat] [] ∧
    FramedFloat (fun p => Untrapped p fun l => ((fsub2 p (p.v a.toNat l) (p.v b.toNat l)).lane).fx)
        (.fsub d a b) [d.toNat] [] ∧
    FramedFloat (fun p => Untrapped p fun l => ((fsub2 p (p.v a.toNat l) (p.lowWord b)).lane).fx)
        (.fsubS d a b) [d.toNat] [] ∧
    FramedFloat (fun p => Untrapped p fun l => ((fmul2 p (p.v a.toNat l) (p.v b.toNat l)).lane).fx)
        (.fmul d a b) [d.toNat] [] ∧
    FramedFloat (fun p => Untrapped p fun l => ((fmul2 p (p.v a.toNat l) (p.lowWord b)).lane).fx)
        (.fmulS d a b) [d.toNat] [] ∧
    FramedFloat (fun p => Untrapped p fun l => ((fmin2 p false (p.v a.toNat l) (p.v b.toNat l)).lane).fx)
        (.fmin d a b) [d.toNat] [] ∧
    FramedFloat (fun p => Untrapped p fun l => ((fmin2 p false (p.v a.toNat l) (p.lowWord b)).lane).fx)
        (.fminS d a b) [d.toNat] [] ∧
    FramedFloat (fun p => Untrapped p fun l => ((fmin2 p true (p.v a.toNat l) (p.v b.toNat l)).lane).fx)
        (.fmax d a b) [d.toNat] [] ∧
    FramedFloat (fun p => Untrapped p fun l => ((fmin2 p true (p.v a.toNat l) (p.lowWord b)).lane).fx)
        (.fmaxS d a b) [d.toNat] [] ∧
    FramedFloat (fun p => Untrapped p fun l => ((fdiv2 p (p.v a.toNat l) (p.v b.toNat l)).lane).fx)
        (.fdiv d a b) [d.toNat] [] ∧
    FramedFloat (fun p => Untrapped p fun l => ((fdiv2 p (p.v a.toNat l) (p.lowWord b)).lane).fx)
        (.fdivS d a b) [d.toNat] [] ∧
    FramedFloat (fun p => Untrapped p fun l => ((ffma3 p (p.v a.toNat l) (p.v b.toNat l) (p.v d.toNat l)).lane).fx)
        (.ffma d a b) [d.toNat] [] ∧
    FramedFloat (fun p => Untrapped p fun l => ((ffma3 p (p.v a.toNat l) (p.lowWord b) (p.v d.toNat l)).lane).fx)
        (.ffmaS d a b) [d.toNat] [] ∧
    FramedFloat (fun p => Untrapped p fun l => ((fnma3 p (p.v a.toNat l) (p.v b.toNat l) (p.v d.toNat l)).lane).fx)
        (.fnma d a b) [d.toNat] [] ∧
    FramedFloat (fun p => Untrapped p fun l => ((fnma3 p (p.v a.toNat l) (p.lowWord b) (p.v d.toNat l)).lane).fx)
        (.fnmaS d a b) [d.toNat] [] ∧
    FramedFloat (fun p => Untrapped p fun l => ((fdiv2 p 0x3F800000 (p.v a.toNat l)).lane).fx)
        (.frcp d a) [d.toNat] [] ∧
    FramedFloat (fun p => Untrapped p fun l => ((fp32.rsqrt (ftzOn p) (f32 p (p.v a.toNat l))).lane).fx)
        (.frsq d a) [d.toNat] [] ∧
    FramedFloat (fun p => Untrapped p fun l => ((fp32.sqrt (ftzOn p) (f32 p (p.v a.toNat l))).lane).fx)
        (.fsqrt d a) [d.toNat] [] ∧
    FramedFloat (fun p => Untrapped p fun l => ((specialEx2 (ftzOn p) (p.v a.toNat l).toNat).lane).fx)
        (.fex2 d a) [d.toNat] [] ∧
    FramedFloat (fun p => Untrapped p fun l => ((specialLg2 (ftzOn p) (p.v a.toNat l).toNat).lane).fx)
        (.flg2 d a) [d.toNat] [] ∧
    FramedFloat (fun p => Untrapped p fun l => ((specialSinCos (ftzOn p) false (p.v a.toNat l).toNat).lane).fx)
        (.fsin d a) [d.toNat] [] ∧
    FramedFloat (fun p => Untrapped p fun l => ((specialSinCos (ftzOn p) true (p.v a.toNat l).toNat).lane).fx)
        (.fcos d a) [d.toNat] [] ∧
    FramedFloat (fun p => Untrapped p fun l => ((specialTanh (ftzOn p) (p.v a.toNat l).toNat).lane).fx)
        (.ftanh d a) [d.toNat] [] ∧
    (∀ m, FramedFloat (fun p => Untrapped p fun l => ((roundIntegral p m.toNat (p.v a.toNat l)).lane).fx)
        (.frnd d a m) [d.toNat] []) ∧
    Framed always (.fabs d a) [d.toNat] [] [] inEnabled ∧
    Framed always (.fneg d a) [d.toNat] [] [] inEnabled ∧
    Framed always (.fclass d a) [d.toNat] [] [] inEnabled ∧
    (∀ q c a b, FramedFloat (fun p => Untrapped p fun l => if (floatCond c.toNat (f32 p (p.v a.toNat l)) (f32 p (p.v b.toNat l))).2 then 1 else 0)
        (.fsetp q c a b) [] [q.toNat]) ∧
    (∀ q c a b, FramedFloat (fun p => Untrapped p fun l => if (floatCond c.toNat (f32 p (p.v a.toNat l)) (f32 p (p.lowWord b))).2 then 1 else 0)
        (.fsetpS q c a b) [] [q.toNat]) ∧
    FramedFloat (fun p => Untrapped p fun l => (packed 16 ([0, 1].map fun k => fp16.add (roundMode p) (ftzOn p) (halfNum fp16 p (p.v a.toNat l) k) (halfNum fp16 p (p.v b.toNat l) k))).fx)
        (.hadd2 d a b) [d.toNat] [] ∧
    FramedFloat (fun p => Untrapped p fun l => (packed 16 ([0, 1].map fun k => fp16.mul (roundMode p) (ftzOn p) (halfNum fp16 p (p.v a.toNat l) k) (halfNum fp16 p (p.v b.toNat l) k))).fx)
        (.hmul2 d a b) [d.toNat] [] ∧
    FramedFloat (fun p => Untrapped p fun l => (packed 16 ([0, 1].map fun k => fp16.fma (roundMode p) (ftzOn p) (halfNum fp16 p (p.v a.toNat l) k) (halfNum fp16 p (p.v b.toNat l) k) (halfNum fp16 p (p.v d.toNat l) k))).fx)
        (.hfma2 d a b) [d.toNat] [] ∧
    FramedFloat (fun p => Untrapped p fun l => (packed 16 ([0, 1].map fun k => fp16.add (roundMode p) (ftzOn p) (halfNum fp16 p (p.v a.toNat l) k) (halfNum fp16 p (p.lowWord b) k))).fx)
        (.hadd2S d a b) [d.toNat] [] ∧
    FramedFloat (fun p => Untrapped p fun l => (packed 16 ([0, 1].map fun k => fp16.mul (roundMode p) (ftzOn p) (halfNum fp16 p (p.v a.toNat l) k) (halfNum fp16 p (p.lowWord b) k))).fx)
        (.hmul2S d a b) [d.toNat] [] ∧
    FramedFloat (fun p => Untrapped p fun l => (packed 16 ([0, 1].map fun k => fp16.fma (roundMode p) (ftzOn p) (halfNum fp16 p (p.v a.toNat l) k) (halfNum fp16 p (p.lowWord b) k) (halfNum fp16 p (p.v d.toNat l) k))).fx)
        (.hfma2S d a b) [d.toNat] [] ∧
    FramedFloat (fun p => Untrapped p fun l => (packed 16 ([0, 1].map fun k => bf16.add (roundMode p) (ftzOn p) (halfNum bf16 p (p.v a.toNat l) k) (halfNum bf16 p (p.v b.toNat l) k))).fx)
        (.badd2 d a b) [d.toNat] [] ∧
    FramedFloat (fun p => Untrapped p fun l => (packed 16 ([0, 1].map fun k => bf16.mul (roundMode p) (ftzOn p) (halfNum bf16 p (p.v a.toNat l) k) (halfNum bf16 p (p.v b.toNat l) k))).fx)
        (.bmul2 d a b) [d.toNat] [] ∧
    FramedFloat (fun p => Untrapped p fun l => (packed 16 ([0, 1].map fun k => bf16.fma (roundMode p) (ftzOn p) (halfNum bf16 p (p.v a.toNat l) k) (halfNum bf16 p (p.v b.toNat l) k) (halfNum bf16 p (p.v d.toNat l) k))).fx)
        (.bfma2 d a b) [d.toNat] [] ∧
    FramedFloat (fun p => Untrapped p fun l => (packed 16 ([0, 1].map fun k => bf16.add (roundMode p) (ftzOn p) (halfNum bf16 p (p.v a.toNat l) k) (halfNum bf16 p (p.lowWord b) k))).fx)
        (.badd2S d a b) [d.toNat] [] ∧
    FramedFloat (fun p => Untrapped p fun l => (packed 16 ([0, 1].map fun k => bf16.mul (roundMode p) (ftzOn p) (halfNum bf16 p (p.v a.toNat l) k) (halfNum bf16 p (p.lowWord b) k))).fx)
        (.bmul2S d a b) [d.toNat] [] ∧
    FramedFloat (fun p => Untrapped p fun l => (packed 16 ([0, 1].map fun k => bf16.fma (roundMode p) (ftzOn p) (halfNum bf16 p (p.v a.toNat l) k) (halfNum bf16 p (p.lowWord b) k) (halfNum bf16 p (p.v d.toNat l) k))).fx)
        (.bfma2S d a b) [d.toNat] [] ∧
    FramedFloat (fun p => Untrapped p fun l => (spread ([0, 1].map fun k => fp32.dot (roundMode p) (ftzOn p) (f32 p (p.v (d.toNat + k) l))
        ([0, 1].map fun j => (halfNum bf16 p (p.v (a.toNat + k) l) j, halfNum bf16 p (p.v b.toNat l) j)))).fx)
        (.dot2 d a b) [d.toNat, d.toNat + 1] [] ∧
    FramedFloat (fun p => Untrapped p fun l => (spread ([0, 1].map fun k => fp32.dot (roundMode p) (ftzOn p) (f32 p (p.v (d.toNat + k) l))
        ([0, 1].map fun j => (halfNum bf16 p (p.v (a.toNat + k) l) j, halfNum bf16 p (p.lowWord b) j)))).fx)
        (.dot2S d a b) [d.toNat, d.toNat + 1] [] ∧
    FramedFloat (fun p => Untrapped p fun l => (floatToInt p c.toNat (p.v a.toNat l)).fx)
        (.cvtfi d a c) [d.toNat] [] ∧
    FramedFloat (fun p => Untrapped p fun l => ((intToFloat p c.toNat (p.v a.toNat l)).counted).fx)
        (.cvtif d a c) [d.toNat] [] ∧
    FramedFloat (fun p => Untrapped p fun l => ((floatToFloat p (c.toNat % 8) (c.toNat / 8 % 8) (bit c.toNat 6) (p.v a.toNat l).toNat).counted).fx)
        (.cvtff d a c) [d.toNat] [] ∧
    FramedFloat (fun p => Untrapped p fun l => (packed (32 / packCount (c.toNat % 8)) ((List.range (packCount (c.toNat % 8))).map fun k =>
        floatToFloat p 0 (c.toNat % 8) (bit c.toNat 3) (p.v (a.toNat + k) l).toNat)).fx)
        (.cvtpk d a c) [d.toNat] [] ∧
    FramedFloat (fun p => Untrapped p fun l => (spread ((List.range (packCount (c.toNat % 8))).map fun k =>
        convert (fmtOf (c.toNat % 8)) fp32 0 (ftzOn p) false
          ((p.v a.toNat l).toNat / 2 ^ (32 / packCount (c.toNat % 8) * k) % 2 ^ (32 / packCount (c.toNat % 8))))).fx)
        (.cvtup d a c) ((List.range (packCount (c.toNat % 8))).map (d.toNat + ·)) [] ∧
    (∀ m, Framed always (.mxscale d a m) [d.toNat] [] [] inEnabled) ∧
    (∀ m, FramedFloat (fun p => Untrapped p fun l => (mxLane m (mxScale (mxEmax m) (blockElements p a.toNat)) (f32 p (p.v a.toNat l))).fx)
        (.mxq d a m) [d.toNat] []) ∧
    (∀ o, FramedFloat (fun p => Untrapped p fun l => (combined (if o.toNat = 8 && p.nbv == 1
        then inOrder (combine p o.toNat) (entering p a.toNat o.toNat) else butterfly (combine p o.toNat) (entering p a.toNat o.toNat)) l).fx)
        (.redsq d a o) [d.toNat] []) ∧
    (∀ o, FramedFloat (fun p => Untrapped p fun l => (combined (prefixes (combine p o.toNat) (entering p a.toNat o.toNat)) l).fx)
        (.scan d a o) [d.toNat] []) ∧
    Framed always (.matchAny d a) [d.toNat] [] [] inEnabled ∧
    Framed always (.matchFirst d a) [d.toNat] [] [] inEnabled)

/-- nop, yield, exit, time, rdsr, wrsr, setmode, the branches, waits, trap, brk, rett and sret leave every register but the one they name unchanged (call and callx: v126; wrsr and setmode: MODE or FLAGS; trap and brk: the trap registers), and every byte of memory; a table branch and a wait read memory only where lines are legible and L1s hold nothing to write back. -/
def Obligations.FrameOfControl : Prop :=
  (∀ (d a x : BitVec 7) (t : BitVec 6) (h : DWord),
    Framed always .nop [] [] [] inEnabled ∧
    Framed always .yield [] [] [] inEnabled ∧
    FramedEntry always .exit false ∧
    Framed always (.time d) [] [d.toNat] [] inEnabled ∧
    (∀ n, Framed always (.rdsr d n) [] [d.toNat] [] inEnabled) ∧
    (∀ n : BitVec 7, FramedMode (.wrsr n a) (n == 0x0D) (n != 0x0D)) ∧
    (∀ r z k y f en, FramedMode (.setmode r z k y f en) true false) ∧
    (∀ x, Framed (fun p => p.sq.cur.active = 0 ∨ (branchTarget p x).toNat < addressTop p) (.bra x) [] [] [] inActive) ∧
    (∀ x, Framed (fun p => p.sq.cur.active = 0 ∨ (branchTarget p x).toNat < addressTop p) (.call x) [126] [] [] inActive) ∧
    (∀ q n x, Framed (fun p => p.sq.cur.active &&& p.source q n = 0 ∨ (branchTarget p x).toNat < addressTop p) (.brp q n x) [] [] [] inActive) ∧
    (∀ r x, Framed (fun p => p.x r.toNat ≠ 0 ∨ (branchTarget p x).toNat < addressTop p) (.bsz r x) [] [] [] inActive) ∧
    (∀ r x, Framed (fun p => p.x r.toNat = 0 ∨ (branchTarget p x).toNat < addressTop p) (.bsnz r x) [] [] [] inActive) ∧
    Framed (fun p => ∀ l ∈ laneList p.sq.cur.active, (returnTarget p l).getLsbD 0 = false) .ret [] [] [] inActive ∧
    FramedSync (fun p => ∃ u tg, TableFound p x t u tg) (.brx x t) [] [] inActive ∧
    FramedSync (fun p => ∃ u tg, TableFound p x t u tg) (.callx x t) [126] [] inActive ∧
    FramedEntry (fun p => inHandler p.sq = false ∧ trapEntry p = some h) (.trap a) true ∧
    (∀ k, FramedEntry (fun p => inHandler p.sq = false ∧ trapEntry p = some h) (.brk k) true) ∧
    FramedEntry (fun p => p.sq.cur.active &&& ~~~p.sq.thr.handlerMark = 0) .rett false ∧
    FramedEntry (fun p => p.sq.cur.active &&& ~~~p.sq.thr.sysMark = 0) .sret false ∧
    (∀ l c k t m, FramedSync (fun p => Below p (waitTo l c k t m) ∧ NoError p (waitTo l c k t m) ∧ waitsOn (waitTo l c k t m) .st = none) (.wait l c k t m) [] [] inActive) ∧
    (∀ l c k t m, FramedSync (fun p => Below p (waitTo l c k t m) ∧ waitsOn (waitTo l c k t m) .st ≠ none ∧
        (deferredFaults (retried p)).2 = false ∧ NoError (deferredFaults (retried p)).1 (waitTo l c k t m)) (.wait l c k t m) [] [] inActive) ∧
    (∀ l c k t m, FramedSync (fun p => ∃ o n, waitsOn (waitTo l c k t m) o = some n ∧ n < p.sq.count o) (.wait l c k t m) [] [] inActive) ∧
    (∀ m, FramedSync (fun p => Below p (wait0To m) ∧ NoError p (wait0To m) ∧ waitsOn (wait0To m) .st = none) (.wait0 m) [] [] inActive) ∧
    (∀ m, FramedSync (fun p => Below p (wait0To m) ∧ waitsOn (wait0To m) .st ≠ none ∧ (deferredFaults (retried p)).2 = false ∧
        NoError (deferredFaults (retried p)).1 (wait0To m)) (.wait0 m) [] [] inActive) ∧
    (∀ m, FramedSync (fun p => ∃ o n, waitsOn (wait0To m) o = some n ∧ n < p.sq.count o) (.wait0 m) [] [] inActive))

/-- Fences, barrier arrivals and waits, crew queue pushes and pops, pref, bank.query, lnk.status and lnk.turn leave every register but the result they name, MODE, FLAGS, the special registers and the outstanding operations unchanged; every byte of memory reads as before where lines are legible and L1s hold nothing to write back. -/
def Obligations.FrameOfSynchronisation : Prop :=
  (∀ (d a b : BitVec 7) ,
    (∀ sc o : BitVec 3, FramedSync (fun p => (sc.toNat < 3 ∨ o.toNat < 2 ∨ 4 < o.toNat) ∧ FenceFree p o.toNat sc.toNat) (.fence sc o 0) [] [] inActive) ∧
    (∀ sc o : BitVec 3, FramedSync (fun p => ¬FenceFree p o.toNat sc.toNat) (.fence sc o 0) [] [] inActive) ∧
    (∀ sc o : BitVec 3, FramedSync (fun p => (sc.toNat < 3 ∨ o.toNat < 2 ∨ 4 < o.toNat) ∧ p.sq.ops = [] ∧ FenceFree p o.toNat sc.toNat ∧
        firstError p.sq (fun _ => true) = none) (.fence sc o 1) [] [] inActive) ∧
    (∀ sc o : BitVec 3, FramedSync (fun p => p.sq.ops ≠ [] ∨ ¬FenceFree p o.toNat sc.toNat) (.fence sc o 1) [] [] inActive) ∧
    (∀ sc o y, FramedSync (fun p => (deferredFaults (retried p)).2 = false ∧ 3 ≤ sc.toNat ∧ 2 ≤ o.toNat ∧ o.toNat ≤ 4 ∧
        (y = 1 → p.sq.ops = [] ∧ firstError p.sq (fun _ => true) = none) ∧ FenceFree p o.toNat sc.toNat) (.fence sc o y) [] [] inActive) ∧
    (∀ (e : BitVec 4) n, FramedSync (fun p => BarTakes p false e.toNat n.toNat) (.barArrive e n) [] [] inActive) ∧
    (∀ (e : BitVec 4) n, FramedSync (fun p => BarTakes p false e.toNat n.toNat) (.barSync e n) [] [] inActive) ∧
    (∀ e : BitVec 4, FramedSync always (.barWait e) [] [] inActive) ∧
    (∀ (e : BitVec 2) n, FramedSync (fun p => BarTakes p true e.toNat n.toNat) (.tbarArrive e n) [] [] inActive) ∧
    (∀ (e : BitVec 2) n, FramedSync (fun p => BarTakes p true e.toNat n.toNat) (.tbarSync e n) [] [] inActive) ∧
    (∀ e : BitVec 2, FramedSync always (.tbarWait e) [] [] inActive) ∧
    (∀ q, FramedSync (fun p => q.toNat < queueCount p) (.qpush d q) [] [] inActive) ∧
    (∀ q, FramedSync (fun p => q.toNat < queueCount p) (.qpop d q) [] [d.toNat] inActive) ∧
    (∀ q, FramedSync (fun p => q.toNat < queueCount p) (.qpushTry d q b) [] [b.toNat] inActive) ∧
    (∀ q, FramedSync (fun p => q.toNat < queueCount p) (.qpopTry d q b) [] [d.toNat, b.toNat] inActive) ∧
    (∀ l, FramedSync (fun p => ∀ n ∈ laneList p.sq.cur.enabled, globalVa p a.toNat b.toNat n < addressTop p) (.pref l a b) [] [] inActive) ∧
    (∀ c, Framed (fun p => p.myCrew = some c ∧ p.x a.toNat = 0) (.bankQuery d a) [] [d.toNat] [] inActive) ∧
    (∀ c k, Framed (fun p => p.myCrew = some c ∧ (p.x a.toNat).getLsbD 8 = true ∧ p.x a.toNat &&& ~~~0x11F = 0 ∧
        c.computeBank (field (p.x a.toNat) 0 5) = some k) (.bankQuery d a) [] [d.toNat] [] inActive) ∧
    Framed (fun p => p.num a.toNat < 8) (.lnkStatus d a) [] [d.toNat] [] inActive ∧
    FramedSync (fun p => field (p.x a.toNat) 3 5 = 0 ∧ p.num a.toNat < 65536) (.lnkTurn d a) [] [d.toNat] inActive)

/-- Span queues, semaphores and bank modes: every register, flag and byte that they do not name is as before. -/
def Obligations.FrameOfHomesAndBankModes : Prop :=
  (∀ (d a b : BitVec 7) ,
    (∀ s u e r t v k, Issues (.qpushSpan d a) s → SpanFound (begun s) ((begun s).num a.toNat) u e → maySpan u e true (begun s).serial = true →
        SpanPushed u e (u.x d.toNat) r → Homes (releaseAction u u.sq.ident.core e.scope) (spanEntry e e.t) 16 needRW v k →
        exec (.qpushSpan d a) s = .next t → FramedHome s t [] [(k, 16), (e.key + 0x18, 8)]) ∧
    (∀ s u e r t v k, Issues (.qpushSpanTry d a b) s → SpanFound (begun s) ((begun s).num a.toNat) u e → maySpan u e true u.serial = true →
        SpanPushed u e (u.x d.toNat) r → Homes (releaseAction u u.sq.ident.core e.scope) (spanEntry e e.t) 16 needRW v k →
        exec (.qpushSpanTry d a b) s = .next t → FramedHome s t [b.toNat] [(k, 16), (e.key + 0x18, 8)]) ∧
    (∀ s u e r t, Issues (.qpopSpan d a) s → SpanFound (begun s) ((begun s).num a.toNat) u e → maySpan u e false (begun s).serial = true →
        SpanPopped u e d.toNat r → exec (.qpopSpan d a) s = .next t → FramedHome s t [d.toNat, d.toNat + 1] [(e.key + 0x10, 8)]) ∧
    (∀ s u e r t, Issues (.qpopSpanTry d a b) s → SpanFound (begun s) ((begun s).num a.toNat) u e → maySpan u e false u.serial = true →
        SpanPopped u e d.toNat r → exec (.qpopSpanTry d a b) s = .next t →
        FramedHome s t [d.toNat, d.toNat + 1, b.toNat] [(e.key + 0x10, 8)]) ∧
    (∀ s u e t, Issues (.qpushSpanTry d a b) s → SpanFound (begun s) ((begun s).num a.toNat) u e → maySpan u e true u.serial = false →
        exec (.qpushSpanTry d a b) s = .next t → FramedHome s t [b.toNat] []) ∧
    (∀ s u e t, Issues (.qpopSpanTry d a b) s → SpanFound (begun s) ((begun s).num a.toNat) u e → maySpan u e false u.serial = false →
        exec (.qpopSpanTry d a b) s = .next t → FramedHome s t [b.toNat] []) ∧
    (∀ s u e t, Issues (.qpushSpan d a) s → SpanFound (begun s) ((begun s).num a.toNat) u e → maySpan u e true (begun s).serial = false →
        exec (.qpushSpan d a) s = .next t → FramedHome s t [] []) ∧
    (∀ s u e t, Issues (.qpopSpan d a) s → SpanFound (begun s) ((begun s).num a.toNat) u e → maySpan u e false (begun s).serial = false →
        exec (.qpopSpan d a) s = .next t → FramedHome s t [] []) ∧
    (∀ s u key v scope r t, Issues (.semAdd d a) s → SemFound (begun s) ((begun s).num a.toNat) needRW u key v scope →
        homeWrite (releaseAction u u.sq.ident.core scope) (releaseAction u u.sq.ident.core scope).sq.ident.ctx key
          (leBytes 8 (v + u.num d.toNat)) = (r, false) → (∀ g ∈ r.grids, g.pend0 = false ∧ g.pend1 = false) →
        exec (.semAdd d a) s = .next t → FramedHome s t [] [(key, 8)]) ∧
    (∀ s u key v scope t, Issues (.semWait d a b) s → SemFound (begun s) ((begun s).num a.toNat) needRW u key v scope → exec (.semWait d a b) s = .next t →
        FramedHome s t (if u.num d.toNat ≤ v then [b.toNat] else []) []) ∧
    (∀ s u key v scope t, Issues (.semRead a b) s → SemFound (begun s) ((begun s).num a.toNat) needR u key v scope → exec (.semRead a b) s = .next t → FramedHome s t [b.toNat] [])) ∧
  ((∀ c s t, Issues .bankCompute s → (begun s).myCrew = some c → c.storage ≠ [] → BanksQuiet (begun s) c →
        exec .bankCompute s = .next t → FramedBank s t [(rowKey c.id (96 * c.banksSeen) 0, 49152)]) ∧
    (∀ c s t, Issues .bankStorage s → (begun s).myCrew = some c → c.compute ≠ [] → BanksQuiet (begun s) c →
        exec .bankStorage s = .next t → FramedBank s t [(rowKey c.id (96 * (c.banksSeen - 1)) 0, 49152)]) ∧
    (∀ c s t, Issues .bankAttach s → (begun s).myCrew = some c → c.residen ≠ [] → BanksQuiet (begun s) c →
        exec .bankAttach s = .next t → FramedBank s t []) ∧
    (∀ c s t, Issues .bankDetach s → (begun s).myCrew = some c → c.residen ≠ [] → BanksQuiet (begun s) c →
        exec .bankDetach s = .next t → FramedBank s t []))

/-- Whenever a load, store, atomic or engine instruction leaves an operation outstanding, every vector register, predicate and scalar register but the token that it names, MODE, FLAGS and the special registers are unchanged, and every byte of memory reads as before where lines are legible and L1s hold nothing to write back; stores and results land when the operation completes. -/
def Obligations.FrameOfIssuedOperations : Prop :=
  (∀ (d a b : BitVec 7) (w q m : BitVec 3),
    FramedIssue (.ld w d a b) [] ∧
    FramedIssue (.ldt w d a b) [] ∧
    FramedIssue (.lds w d a b) [] ∧
    FramedIssue (.st w d a b) [] ∧
    FramedIssue (.sts w d a b) [] ∧
    FramedIssue (.stt w d a b) [] ∧
    FramedIssue (.sld w d a b) [] ∧
    FramedIssue (.sst w d a b) [] ∧
    FramedIssue (.atomAdd d a b) [] ∧
    FramedIssue (.atomMinI32 d a b) [] ∧
    FramedIssue (.atomMaxI32 d a b) [] ∧
    FramedIssue (.atomMinN32 d a b) [] ∧
    FramedIssue (.atomMaxN32 d a b) [] ∧
    FramedIssue (.atomAnd d a b) [] ∧
    FramedIssue (.atomOr d a b) [] ∧
    FramedIssue (.atomXor d a b) [] ∧
    FramedIssue (.atom2Exch d a b) [] ∧
    FramedIssue (.atom2Cas d a b) [] ∧
    FramedIssue (.atom2FaddF32 d a b) [] ∧
    FramedIssue (.atom2FminF32 d a b) [] ∧
    FramedIssue (.atom2FmaxF32 d a b) [] ∧
    FramedIssue (.atom2AddI64 d a b) [] ∧
    FramedIssue (.atom2ExchB64 d a b) [] ∧
    FramedIssue (.atom2CasB64 d a b) [] ∧
    (∀ f : BitVec 3, FramedIssue (.atoms f d a b) []) ∧
    (∀ f : BitVec 3, FramedIssue (.satom f d a b) []) ∧
    FramedIssue (.cpyGs d a b) [d.toNat] ∧
    FramedIssue (.cpySg d a b) [d.toNat] ∧
    FramedIssue (.cpyGg d a b) [d.toNat] ∧
    FramedIssue (.cpySp d a b) [d.toNat] ∧
    FramedIssue (.cpyPin d a b) [d.toNat] ∧
    FramedIssue (.cpyGs2 d a b) [d.toNat] ∧
    FramedIssue (.cpySg2 d a b) [d.toNat] ∧
    FramedIssue (.bload m d a b) [d.toNat] ∧
    FramedIssue (.xformToplanes d a b) [d.toNat] ∧
    FramedIssue (.xformFromplanes d a b) [d.toNat] ∧
    FramedIssue (.xformZero d a b) [d.toNat] ∧
    FramedIssue (.xformFill d a b) [d.toNat] ∧
    FramedIssue (.xformChecksum d a b) [d.toNat] ∧
    FramedIssue (.tmac q d a b) [] ∧
    FramedIssue (.tdrain q d a b) [] ∧
    FramedIssue (.taccZero a b) [] ∧
    FramedIssue (.taccRead d a b) [] ∧
    FramedIssue (.taccWrite d a b) [] ∧
    FramedIssue (.taccAdd d a b) [] ∧
    FramedIssue (.taccScale d a b) [] ∧
    FramedIssue (.dotv q d a b) [] ∧
    FramedIssue (.arrxArm d a b) [] ∧
    FramedIssue (.arrxDisarm d a) [] ∧
    FramedIssue (.arrxQuery d a) [] ∧
    FramedIssue (.arrxLoad d a b) [] ∧
    FramedIssue (.arrxStore d a b) [] ∧
    FramedIssue (.arrxFill d a) [] ∧
    FramedIssue (.arrLogic d a b) [] ∧
    FramedIssue (.arrAddsub d a b) [] ∧
    FramedIssue (.arrMul d a b) [] ∧
    FramedIssue (.arrCmp d a b) [] ∧
    FramedIssue (.arrSel d a b) [] ∧
    FramedIssue (.arrShift d a b) [] ∧
    FramedIssue (.arrPopc d a) [] ∧
    FramedIssue (.arrBcast d) [] ∧
    FramedIssue (.stkRowcopy d a b) [d.toNat] ∧
    FramedIssue (.stkRowzero d a) [d.toNat] ∧
    FramedIssue (.stkProbe d a) [d.toNat])

/-- mfsr, mtsr, tlbinv, cchop, errrd, mcctl, wayctl, survey, cxsave, cxrest, halt, lnkctl, retain and launch leave every vector register, predicate and scalar register but the result s[d] that they name, the trap registers, MODE, FLAGS and the squad's identity unchanged, unless the squad ends itself. -/
def Obligations.FrameOfSystemInstructions : Prop :=
  (∀ (d a : BitVec 7) ,
    (∀ n : BitVec 7, FramedSystem (fun _ => squadHeld n.toNat = true) (.mfsr d n) [d.toNat]) ∧
    (∀ n : BitVec 7, FramedSystem (fun p => squadHeld n.toNat = false ∧ FencePasses p) (.mfsr d n) [d.toNat]) ∧
    (∀ n : BitVec 7, FramedSystem (fun _ => squadHeld n.toNat = true) (.mtsr n a) []) ∧
    (∀ n : BitVec 7, FramedSystem (fun p => squadHeld n.toNat = false ∧ FencePasses p) (.mtsr n a) []) ∧
    FramedSystem (fun p => p.x a.toNat = 0 ∧ FencePasses p ∧ translating (sysFenced p) .all = false) (.tlbinvAll a) [] ∧
    FramedSystem (fun p => p.num a.toNat < 64 ∧ FencePasses p ∧ translating (sysFenced p) (.ctx (p.num a.toNat)) = false) (.tlbinvCtx a) [] ∧
    FramedSystem (fun p => field (p.x a.toNat) 6 10 = 0 ∧ p.num a.toNat < 36028797018963968 ∧ FencePasses p ∧
        translating (sysFenced p) (.page (p.num a.toNat % 64) (p.num a.toNat / 65536 * 65536)) = false) (.tlbinvPage a) [] ∧
    FramedSystem (fun p => ChopOk p (p.num a.toNat) (p.num (a.toNat + 1)) ∧ FencePasses p ∧
        cleanWaits (sysFenced p) (p.num a.toNat) (p.num (a.toNat + 1)) = false) (.cchopWb d a) [d.toNat] ∧
    FramedSystem (fun p => ChopOk p (p.num a.toNat) (p.num (a.toNat + 1)) ∧ FencePasses p ∧
        cleanWaits (sysFenced p) (p.num a.toNat) (p.num (a.toNat + 1)) = false) (.cchopWbinv d a) [d.toNat] ∧
    FramedSystem (fun p => ChopOk p (p.num a.toNat) (p.num (a.toNat + 1)) ∧ FencePasses p) (.cchopInv d a) [d.toNat] ∧
    FramedSystem (fun p => ChopOk p (p.num a.toNat) (p.num (a.toNat + 1)) ∧ FencePasses p) (.cchopUnkeep d a) [d.toNat] ∧
    FramedSystem (fun p => p.num a.toNat % 512 = 0 ∧ p.num a.toNat < paSpace ∧ FencePasses p) (.errrd d a) [d.toNat] ∧
    FramedSystem (fun p => p.num a.toNat % 512 = 0 ∧ p.num a.toNat < paSpace ∧ FencePasses p) (.mcctlMetard d a) [d.toNat] ∧
    FramedSystem (fun p => (p.num a.toNat % 16 = 0 ∨ p.num a.toNat % 16 = 15) ∧ p.num a.toNat / 16 * 16 % 512 = 0 ∧ p.num a.toNat < paSpace ∧
        FencePasses p ∧ inWindow (sysFenced p) (p.num a.toNat / 16 * 16) = true) (.mcctlMetawr d a) [d.toNat] ∧
    FramedSystem (fun p => (p.num a.toNat % 16 = 0 ∨ p.num a.toNat % 16 = 15) ∧ p.num a.toNat / 16 * 16 % 512 = 0 ∧ p.num a.toNat < paSpace ∧
        FencePasses p ∧ inWindow (sysFenced p) (p.num a.toNat / 16 * 16) = false) (.mcctlMetawr d a) [d.toNat] ∧
    FramedSystem (fun p => p.num a.toNat % 65536 = 0 ∧ p.num a.toNat < paSpace ∧ FencePasses p) (.mcctlRetire d a) [d.toNat] ∧
    FramedSystem FencePasses (.wayctlQuar d) [d.toNat] ∧
    FramedSystem FencePasses (.wayctlRelease d) [d.toNat] ∧
    FramedSystem FencePasses (.wayctlDiscard d) [d.toNat] ∧
    (∀ y, FramedSystem (fun p => myAnswer p = some y) (.survey d a) [d.toNat]) ∧
    FramedSystem (fun p => myAnswer p = none ∧ (p.dev.surveyWait.any fun w => w.1 == p.sq.ident.id) = false ∧ FencePasses p) (.survey d a) [d.toNat] ∧
    (∀ y, FramedSystem (fun p => p.num (a.toNat + 1) % 4096 = 0 ∧ p.num (a.toNat + 1) < paSpace ∧ myAnswer p = some y) (.cxsave d a) [d.toNat]) ∧
    (∀ n u, FramedSystem (fun p => p.num (a.toNat + 1) % 4096 = 0 ∧ p.num (a.toNat + 1) < paSpace ∧ myAnswer p = none ∧ moving p = false ∧
        FencePasses p ∧ startSave (sysFenced p) (sysFenced p).sq.ident.id ((sysFenced p).x a.toNat) (p.num (a.toNat + 1)) d.toNat = (u, some n)) (.cxsave d a) [d.toNat]) ∧
    (∀ u, FramedSystem (fun p => p.num (a.toNat + 1) % 4096 = 0 ∧ p.num (a.toNat + 1) < paSpace ∧ myAnswer p = none ∧ moving p = false ∧
        FencePasses p ∧ startSave (sysFenced p) (sysFenced p).sq.ident.id ((sysFenced p).x a.toNat) (p.num (a.toNat + 1)) d.toNat = (u, none)) (.cxsave d a) [d.toNat]) ∧
    (∀ y, FramedSystem (fun p => p.num a.toNat < paSpace ∧ myAnswer p = some y) (.cxrest d a) [d.toNat]) ∧
    (∀ n u, FramedSystem (fun p => p.num a.toNat < paSpace ∧ myAnswer p = none ∧ moving p = false ∧ FencePasses p ∧
        deviceWaits (sysFenced p) true 0 (p.num a.toNat) 72 needR = false ∧
        startRest (sysFenced p) (sysFenced p).sq.ident.id (p.num a.toNat) ((sysFenced p).x (a.toNat + 1)) d.toNat = (u, some n)) (.cxrest d a) [d.toNat]) ∧
    (∀ u, FramedSystem (fun p => p.num a.toNat < paSpace ∧ myAnswer p = none ∧ moving p = false ∧ FencePasses p ∧
        deviceWaits (sysFenced p) true 0 (p.num a.toNat) 72 needR = false ∧
        startRest (sysFenced p) (sysFenced p).sq.ident.id (p.num a.toNat) ((sysFenced p).x (a.toNat + 1)) d.toNat = (u, none)) (.cxrest d a) [d.toNat]) ∧
    FramedSystem (fun p => p.sq.ident.core = Config.mcCore ∧ p.num a.toNat ≠ 0 ∧ p.num a.toNat % 65536 = 0 ∧ p.num a.toNat < 8388608 ∧
        FencePasses p ∧ (sysFenced p).dev.evpend &&& BitVec.ofNat 7 ((sysFenced p).num a.toNat / 65536) ≠ 0) (.halt a) [] ∧
    (∀ n, FramedSystem (fun p => selLink p.sq = some n ∧ p.x a.toNat = 0 ∧ FencePasses p) (.lnkctlPause d a) [d.toNat]) ∧
    (∀ n, FramedSystem (fun p => selLink p.sq = some n ∧ p.x a.toNat = 0 ∧ FencePasses p ∧ ((sysFenced p).link n).paused = true) (.lnkctlResume d a) [d.toNat]) ∧
    (∀ n, FramedSystem (fun p => selLink p.sq = some n ∧ p.x a.toNat = 0 ∧ FencePasses p ∧ ((sysFenced p).link n).paused = false) (.lnkctlResume d a) [d.toNat]) ∧
    (∀ n, FramedSystem (fun p => selLink p.sq = some n ∧ p.num a.toNat < 512 ∧ FencePasses p) (.lnkctlSpare d a) [d.toNat]) ∧
    (∀ n, FramedSystem (fun p => selLink p.sq = some n ∧ field (p.x a.toNat) 5 3 = 0 ∧ p.num a.toNat < 1024 ∧ field (p.x a.toNat) 8 2 ≠ 3 ∧ FencePasses p ∧
        (vget ((sysFenced p).link n).groups (field (p.x a.toNat) 0 5)).train = none ∧ ((sysFenced p).link n).paused = false) (.lnkctlWidth d a) [d.toNat]) ∧
    (∀ n, FramedSystem (fun p => selLink p.sq = some n ∧ field (p.x a.toNat) 5 3 = 0 ∧ p.num a.toNat < 1024 ∧ field (p.x a.toNat) 8 2 ≠ 3 ∧ FencePasses p ∧
        (vget ((sysFenced p).link n).groups (field (p.x a.toNat) 0 5)).train = some (sysFenced p).sq.ident.id) (.lnkctlWidth d a) [d.toNat]) ∧
    (∀ n, FramedSystem (fun p => selLink p.sq = some n ∧ field (p.x a.toNat) 5 3 = 0 ∧ p.num a.toNat < 1024 ∧ field (p.x a.toNat) 8 2 ≠ 3 ∧ FencePasses p ∧
        (vget ((sysFenced p).link n).groups (field (p.x a.toNat) 0 5)).train = none ∧ ((sysFenced p).link n).paused = true) (.lnkctlWidth d a) [d.toNat]) ∧
    (∀ n, FramedSystem (fun p => selLink p.sq = some n ∧ p.x a.toNat = 0 ∧ FencePasses p) (.lnkctlClrretry d a) [d.toNat]) ∧
    (∀ u bs, FramedSystem (fun p => p.num a.toNat % 32 = 0 ∧ p.num a.toNat < paSpace ∧ FencePasses p ∧
        linksOpen (sysFenced p) (sysFenced p).sq.ident.core (p.num a.toNat) none = true ∧
        homeRead (sysFenced p) (sysFenced p).sq.ident.ctx (p.num a.toNat) 32 = (u, bs, false)) (.retainCreate d a) [d.toNat]) ∧
    FramedSystem (fun p => field (p.x a.toNat) 6 10 = 0 ∧ p.num a.toNat < 4294967296 ∧ FencePasses p) (.retainDestroy d a) [d.toNat] ∧
    (∀ r, FramedSystem (fun p => field (p.x a.toNat) 6 10 = 0 ∧ p.num a.toNat < 4294967296 ∧ FencePasses p ∧ resid? (sysFenced p) (field (p.x a.toNat) 0 6) (field (p.x a.toNat) 16 16) = some r) (.retainQuery d a) [d.toNat]) ∧
    FramedSystem (fun p => field (p.x a.toNat) 6 10 = 0 ∧ p.num a.toNat < 4294967296 ∧ FencePasses p ∧ resid? (sysFenced p) (field (p.x a.toNat) 0 6) (field (p.x a.toNat) 16 16) = none) (.retainQuery d a) [d.toNat] ∧
    (∀ u v bs sites, FramedSystem (fun p => p.num a.toNat < addressTop p ∧ p.num a.toNat % 256 = 0 ∧
        unflushed p p.sq.ident.core = false ∧ submitWaits p (launcher p) (p.num a.toNat) = false ∧ deviceRead (flushL1 p p.sq.ident.core) (launcher p).priv (launcher p).ctx (p.num a.toNat) 256 = (u, .inl bs) ∧
        checkRecord u (launcher p) (recordOf (p.num a.toNat) bs) bs = (v, 0, sites)) (.launch d a) [d.toNat]) ∧
    (∀ u v bs sites n, FramedSystem (fun p => p.num a.toNat < addressTop p ∧ p.num a.toNat % 256 = 0 ∧
        unflushed p p.sq.ident.core = false ∧ submitWaits p (launcher p) (p.num a.toNat) = false ∧ deviceRead (flushL1 p p.sq.ident.core) (launcher p).priv (launcher p).ctx (p.num a.toNat) 256 = (u, .inl bs) ∧
        checkRecord u (launcher p) (recordOf (p.num a.toNat) bs) bs = (v, n + 1, sites)) (.launch d a) [d.toNat]) ∧
    (∀ u n, FramedSystem (fun p => p.num a.toNat < addressTop p ∧ p.num a.toNat % 256 = 0 ∧
        unflushed p p.sq.ident.core = false ∧ submitWaits p (launcher p) (p.num a.toNat) = false ∧ deviceRead (flushL1 p p.sq.ident.core) (launcher p).priv (launcher p).ctx (p.num a.toNat) 256 = (u, .inr n) ∧
        ((u.part (launcher p).part).state ≠ 3 ∨ (launcher p).mcSquad = true)) (.launch d a) [d.toNat]) ∧
    (∀ u n, FramedSystem (fun p => p.num a.toNat < addressTop p ∧ p.num a.toNat % 256 = 0 ∧
        unflushed p p.sq.ident.core = false ∧ submitWaits p (launcher p) (p.num a.toNat) = false ∧ deviceRead (flushL1 p p.sq.ident.core) (launcher p).priv (launcher p).ctx (p.num a.toNat) 256 = (u, .inr n) ∧
        (u.part (launcher p).part).state = 3 ∧ (launcher p).mcSquad = false) (.launch d a) [d.toNat]))

/-- When a load completes, only its destination registers in the lanes of its accesses change, and no byte of memory where lines are legible and L1s hold nothing to write back. When a store or atomic completes, in global memory or in a scratchpad, only the registers of an atomic's old values change, and every byte of memory outside the bytes of its accesses reads as before, where besides no home refuses a write. MODE, FLAGS, the trap and system registers, the threads, the identity and the status of the squad never change. -/
def Obligations.FrameOfCompletions : Prop :=
  (∀ s t r o sq k sp w d acc, s.checkout sq = some t → findOp t k = some o → o.act = .load sp w d false acc → mayComplete t o = true →
      exec (.loadComplete sq k) s = .next r →
      KeepsFiles t r ((List.range (accessRegs w)).map fun i => (d + i) % 128) [] [] (maskOf (acc.map (·.lane))) ∧ r.sq.mode = t.sq.mode ∧ r.sq.flags = t.sq.flags ∧ r.sq.trap = t.sq.trap ∧ r.sq.sys = t.sq.sys ∧
      r.sq.thr = t.sq.thr ∧ r.sq.ident = t.sq.ident ∧ r.sq.status = t.sq.status ∧
      (Legible t → Settled t → SameMemory t r)) ∧
  (∀ s t r o sq k sp w d acc, s.checkout sq = some t → findOp t k = some o → o.act = .load sp w d true acc → mayComplete t o = true →
      exec (.loadComplete sq k) s = .next r → KeepsFiles t r [] [d % 64] [] 0 ∧ r.sq.mode = t.sq.mode ∧ r.sq.flags = t.sq.flags ∧ r.sq.trap = t.sq.trap ∧ r.sq.sys = t.sq.sys ∧
      r.sq.thr = t.sq.thr ∧ r.sq.ident = t.sq.ident ∧ r.sq.status = t.sq.status ∧ (Legible t → Settled t → SameMemory t r)) ∧
  (∀ s t r o sq k sp acc, s.checkout sq = some t → findOp t k = some o → o.act = .store sp acc → mayComplete t o = true →
      exec (.storeComplete sq k) s = .next r → KeepsFiles t r [] [] [] 0 ∧ r.sq.mode = t.sq.mode ∧ r.sq.flags = t.sq.flags ∧ r.sq.trap = t.sq.trap ∧ r.sq.sys = t.sq.sys ∧
      r.sq.thr = t.sq.thr ∧ r.sq.ident = t.sq.ident ∧ r.sq.status = t.sq.status ∧
      (sp ≠ .global → Legible t → Settled t → ∀ j, (∀ a ∈ acc, outside j a.pa a.n) → memGet r.mem j = memGet t.mem j) ∧
      (Legible t → Sound t → Settled t → ∀ j, (∀ a ∈ acc, outside j a.pa a.n) → r.byteAt j = t.byteAt j)) ∧
  (∀ s t r o sq k sp op d acc, s.checkout sq = some t → findOp t k = some o → o.act = .atomic sp op d false acc →
      (∀ a ∈ acc, a.n ≤ 8) → mayComplete t o = true → exec (.atomicComplete sq k) s = .next r →
      KeepsFiles t r [d % 128, (d + 1) % 128] [] [] (maskOf (acc.map (·.lane))) ∧ r.sq.mode = t.sq.mode ∧ r.sq.flags = t.sq.flags ∧ r.sq.trap = t.sq.trap ∧ r.sq.sys = t.sq.sys ∧
      r.sq.thr = t.sq.thr ∧ r.sq.ident = t.sq.ident ∧ r.sq.status = t.sq.status ∧
      (sp ≠ .global → Legible t → Settled t → ∀ j, (∀ a ∈ acc, outside j a.pa a.n) → memGet r.mem j = memGet t.mem j) ∧
      (Legible t → Sound t → Settled t → ∀ j, (∀ a ∈ acc, outside j a.pa a.n) → r.byteAt j = t.byteAt j)) ∧
  (∀ s t r o sq k sp op d acc, s.checkout sq = some t → findOp t k = some o → o.act = .atomic sp op d true acc →
      mayComplete t o = true → exec (.atomicComplete sq k) s = .next r → KeepsFiles t r [] [d % 64] [] 0 ∧ r.sq.mode = t.sq.mode ∧ r.sq.flags = t.sq.flags ∧ r.sq.trap = t.sq.trap ∧ r.sq.sys = t.sq.sys ∧
      r.sq.thr = t.sq.thr ∧ r.sq.ident = t.sq.ident ∧ r.sq.status = t.sq.status ∧
      (sp ≠ .global → Legible t → Settled t → ∀ j, (∀ a ∈ acc, outside j a.pa a.n) → memGet r.mem j = memGet t.mem j) ∧
      (Legible t → Sound t → Settled t → ∀ j, (∀ a ∈ acc, outside j a.pa a.n) → r.byteAt j = t.byteAt j))

/-- When a store to a scratchpad completes, the bytes of every access that no later access of the instruction overlaps stand in the bank (R117, R223); when a load completes, each lane's registers hold the sign- or zero-extended value of its bytes (R222, R223); when an atomic completes, each location holds what its lanes in ascending order leave there and v[d], with v[d+1] for 8 bytes, holds each lane's old value (R228 to R230). The banks are still the crew's (R255), and no sector of an atomic's location is poisoned. -/
def Obligations.ScratchpadAccessesLand : Prop :=
  (∀ s t r o sq k sp acc pre a post, s.checkout sq = some t → findOp t k = some o → o.act = .store sp acc → mayComplete t o = true →
      sp ≠ .global → acc.filter (goneBank t sp) = [] → Legible t → Settled t → acc = pre ++ a :: post →
      (∀ b ∈ post, apart a.pa a.n b.pa b.n) →
      exec (.storeComplete sq k) s = .next r → memRead r.mem a.pa a.n = leBytes a.n a.x) ∧
  (∀ s t r o sq k sp w d acc a, s.checkout sq = some t → findOp t k = some o → o.act = .load sp w d false acc →
      mayComplete t o = true → sp ≠ .global → acc.filter (goneBank t sp) = [] → a ∈ acc → (∀ b ∈ acc, b.lane = a.lane → b = a) →
      a.lane < 32 → d + accessRegs w ≤ 128 → exec (.loadComplete sq k) s = .next r →
      (∀ i, i < accessRegs w → r.v (d + i) a.lane =
        if i = 0 then loadedWord w (memNat t.mem a.pa a.n) else BitVec.ofNat 32 (memNat t.mem a.pa a.n / 4294967296 ^ i))) ∧
  (∀ s t r o sq k sp op d acc a, s.checkout sq = some t → findOp t k = some o → o.act = .atomic sp op d false acc →
      mayComplete t o = true → sp ≠ .global → acc.filter (goneBank t sp) = [] → (∀ b ∈ acc, anyPoison t b.pa b.n = false) →
      Legible t → Settled t → (∀ b ∈ acc, b.lane < 32 ∧ 4 ≤ b.n ∧ b.n ≤ 8) → (acc.map (·.lane)).Nodup → d + 1 < 128 →
      (∀ b ∈ acc, ∀ c ∈ acc, (b.pa = c.pa ∧ b.n = c.n) ∨ apart b.pa b.n c.pa c.n) → a ∈ acc →
      exec (.atomicComplete sq k) s = .next r →
      let ls := acc.filter fun b => b.pa == a.pa
      let m := memNat t.mem a.pa a.n
      let f := if op = .fadd then atomFadd m ls else atomFold op a.n m ls
      memNat r.mem a.pa a.n = f.2 % 256 ^ a.n ∧
      ∀ p ∈ f.1, r.v d p.1 = BitVec.ofNat 32 p.2 ∧ (a.n = 8 → r.v (d + 1) p.1 = BitVec.ofNat 32 (p.2 / 4294967296)))

/-- A store performed at the home leaves the bytes of every access that no later one overlaps there; a weak store into sectors that the core's L1 holds is what the core reads, and no home changes; a load at the home gives its registers the home's bytes, expanded where the line is compressed; a weak load gives the L1's valid bytes and the home's for the rest; an atomic of one lane, or a scalar one, at the home returns the old value and leaves the new one (R93, R94, R103, R104, R117, R222, R228 to R231). -/
def Obligations.GlobalAccessesLand : Prop :=
  (∀ s t r o sq k acc pre a post, s.checkout sq = some t → findOp t k = some o → o.act = .store .global acc →
      mayComplete t o = true → acc = pre ++ a :: post → (∀ b ∈ post, apart a.pa a.n b.pa b.n) → (∀ b ∈ acc, b.via = none) →
      (∀ b ∈ acc, toControl t b.pa = false ∧ 0 < b.n ∧ b.pa % 512 + b.n ≤ 512) → atHome t o.strong o.scope = true →
      Legible t → Sound t → Settled t → exec (.storeComplete sq k) s = .next r →
      ∀ i, i < a.n → r.byteAt (a.pa + i) = BitVec.ofNat 8 (a.x / 256 ^ i)) ∧
  (∀ s t r o sq k acc pre a post, s.checkout sq = some t → findOp t k = some o → o.act = .store .global acc →
      mayComplete t o = true → acc = pre ++ a :: post → (∀ b ∈ post, apart a.pa a.n b.pa b.n) →
      (∀ b ∈ acc, toControl t b.pa = false ∧ b.pa < paSpace ∧ inWindow t b.pa = false ∧ 0 < b.n ∧ b.pa % 64 + b.n ≤ 64 ∧
        (l1Find t t.sq.ident.core b.pa).isSome = true) → atHome t o.strong o.scope = false → o.releases = false →
      exec (.storeComplete sq k) s = .next r →
      (l1Load r r.sq.ident.core r.sq.ident.ctx a.pa a.n).2.1 = leBytes a.n a.x ∧ r.mem = t.mem ∧ r.codes = t.codes) ∧
  (∀ s t r o sq k w d acc a, s.checkout sq = some t → findOp t k = some o → o.act = .load .global w d false acc →
      mayComplete t o = true → a ∈ acc → (∀ b ∈ acc, b.lane = a.lane → b = a) → (∀ b ∈ acc, b.via = none ∧ toControl t b.pa = false) →
      atHome t o.strong o.scope = true → Legible t → Settled t → a.lane < 32 → d + accessRegs w ≤ 128 →
      exec (.loadComplete sq k) s = .next r →
      ∀ i, i < accessRegs w → r.v (d + i) a.lane =
        if i = 0 then loadedWord w (leNat ((List.range a.n).map fun j => t.byteAt (a.pa + j)))
        else BitVec.ofNat 32 (leNat ((List.range a.n).map fun j => t.byteAt (a.pa + j)) / 4294967296 ^ i)) ∧
  (∀ s core ctx a n, Legible s → Settled s → a % 64 + n ≤ 64 → ∀ i, i < n →
      (l1Load s core ctx a n).2.1[i]? = some (match l1Find s core a with
        | some x => if x.valid.getLsbD (a % 64 + i) = true then sectorByte x.data (a % 64 + i) else s.byteAt (a + i)
        | none => s.byteAt (a + i))) ∧
  (∀ s t r o sq k op d a, s.checkout sq = some t → findOp t k = some o → o.act = .atomic .global op d false [a] →
      mayComplete t o = true → a.via = none → toControl t a.pa = false → inBacking t t.sq.ident.ctx a.va a.pa a.n = false →
      anyBad t a.pa a.n = false → a.pa % 512 + a.n ≤ 512 → atHome t true o.scope = true → Legible t → Sound t → Settled t →
      a.lane < 32 → d < 128 → 4 ≤ a.n → a.n ≤ 8 → exec (.atomicComplete sq k) s = .next r →
      let m := leNat ((List.range a.n).map fun j => t.byteAt (a.pa + j))
      r.v d a.lane = BitVec.ofNat 32 m ∧
      leNat ((List.range a.n).map fun j => r.byteAt (a.pa + j)) = (if op = .fadd then addRne m (addRne 0x80000000 a.x)
        else atomApply op a.n m a.x a.y) % 256 ^ a.n) ∧
  (∀ s t r o sq k op d a, s.checkout sq = some t → findOp t k = some o → o.act = .atomic .global op d true [a] →
      mayComplete t o = true → a.via = none → toControl t a.pa = false → inBacking t t.sq.ident.ctx a.va a.pa a.n = false →
      anyBad t a.pa a.n = false → a.pa % 512 + a.n ≤ 512 → atHome t true o.scope = true → Legible t → Sound t → Settled t →
      0 < d → d < 64 → 4 ≤ a.n → a.n ≤ 8 → exec (.atomicComplete sq k) s = .next r →
      let m := leNat ((List.range a.n).map fun j => t.byteAt (a.pa + j))
      r.x d = BitVec.ofNat 64 m ∧
      leNat ((List.range a.n).map fun j => r.byteAt (a.pa + j)) = (if op = .fadd then addRne m (addRne 0x80000000 a.x)
        else atomApply op a.n m a.x a.y) % 256 ^ a.n)

/-- When an engine operation runs, only its token or result register changes, or for tacc.read its vector register in the group's lanes; tile operations write no byte of memory outside the crew's accumulator rows. A chunk of a copy reads the bytes at its source and writes exactly them at its destination, in scratchpad and at homes, raw or compressed, and every other byte is as before (R104, R251 to R253). The chunks of the statement are the model's reading of R253, of 64 KiB, each cut at the last 512-byte line of a global destination that it reaches (log 42, DEDUCED); the six copies run by them, each byte at its row and pitch (R251, R252). A bank load gives each bank the integers and scales of its image, and a transform the planes, elements or words that R260 names, and no other byte of memory changes where no bank holds a latent error (R257 to R260); tacc.zero leaves rows of zeros (R268); the planes of a slot give back the integers written to them (R257). -/
def Obligations.EngineOperationsMoveTheirBytes : Prop :=
  (∀ (s : State) (o : Op) (d : Nat) (x y z x2 : DWord) (v : Vector Word 32),
      let one : CopyShape := ⟨z.toNat, 1, z.toNat⟩
      let r := z.toNat % 16777216
      let m := z.toNat / 16777216 % 65536 + 1
      let q := z.toNat / 1099511627776 * 64
      let two : CopyShape := if q = r then ⟨r * m, 1, r * m⟩ else ⟨r, m, q⟩
      runEngine s o .cpyGS d x y z x2 v = runCopy s o one x.toNat y.toNat true false false ∧
      runEngine s o .cpySG d x y z x2 v = runCopy s o one x.toNat y.toNat false true false ∧
      runEngine s o .cpyGG d x y z x2 v = runCopy s o one x.toNat y.toNat true true false ∧
      runEngine s o .cpySP d x y z x2 v = runCopy s o one x.toNat y.toNat false false true ∧
      runEngine s o .cpyGS2 d x y z x2 v = runCopy s o two x.toNat y.toNat true false false ∧
      runEngine s o .cpySG2 d x y z x2 v = runCopy s o two x.toNat y.toNat false true false) ∧
  (∀ (c : CopyShape) (base p n : Nat), 0 < c.row → c.row % 64 = 0 → p % 64 = 0 → n % 64 = 0 →
      ((c.runs base (n / 64 + 2) p n).flatMap fun r => (List.range r.2).map (r.1 + ·)) =
        (List.range n).map fun i => base + c.pitch * ((p + i) / c.row) + (p + i) % c.row) ∧
  (∀ (s : State) (o : Op) (d : Nat) (x y z x2 : DWord) (v : Vector Word 32) (f : Nat) c bank u ks t bs, s.myCrew = some c →
      c.mapped (z.toNat % 32 + o.pos) = some bank →
      reachRanges s o needR [(x.toNat + o.pos * imageBytes f, imageBytes f)] = (u, .keys ks) → readKeys u ks = (t, bs, none) →
      runEngine s o (.bload f) d x y z x2 v = if z.toNat / 32 % 32 ≤ o.pos
        then .ended (loadSlot t bank f (z.toNat / 1024 % 16) bs) 0 0
        else .part (loadSlot t bank f (z.toNat / 1024 % 16) bs) (o.pos + 1) 0) ∧
  (∀ (s : State) (bank f slot k n : Nat) (bs : List Byte), f < 3 → slot < slotCount f → bs.length = imageBytes f → k < 64 → n < 128 →
      let t := loadSlot s bank f slot bs
      planesInt (slotPlanesBits t bank f slot (slotPlanes f)) k n = imageInt f bs.toArray k n ∧
      (f ≠ 2 → memRead t.mem (scaleKey bank f slot) 256 = bs.drop (elementBytes f)) ∧
      (s.latent = [] → ∀ j, outside j (bankKey bank (1024 * (slotPlanes f * slot))) (1024 * slotPlanes f) →
        f = 2 ∨ outside j (scaleKey bank f slot) 256 → memGet t.mem j = memGet s.mem j)) ∧
  (∀ (img : Array Byte) (f k n : Nat), imageInt f img k n = if f = 1
      then let e := (img.getD (32 * n + k / 2) 0).toNat / 16 ^ (k % 2) % 16
        (if 8 ≤ e then -1 else 1) * ([0, 1, 2, 3, 4, 6, 8, 12] : List Int).getD (e % 8) 0
      else (img.getD (64 * n + k) 0).toInt) ∧
  (∀ (ps : List Nat) (k n : Nat), ps ≠ [] → planesInt ps k n =
      ((List.range ps.length).map fun q => if (ps.getD q 0).testBit (128 * k + n) = true then (2 ^ q : Int) else 0).sum -
        (if (ps.getD (ps.length - 1) 0).testBit (128 * k + n) = true then (2 ^ ps.length : Int) else 0)) ∧
  (∀ (s : State) (o : Op) (d : Nat) (x y z x2 : DWord) (v : Vector Word 32) (e : Engine) c bank, e ∈ [.xformToplanes, .xformFromplanes, .xformFill, .xformZero, .xformChecksum] →
      s.myCrew = some c →
      (if x.getLsbD 5 = true then c.mapped (x.toNat % 32) else c.storage[x.toNat % 32]?) = some bank →
      ∃ r k, runEngine s o e d x y z x2 v = .ended r 0 k ∧
      let f := x.toNat / 1024 % 4
      let slot := x.toNat / 64 % 16
      let lo := bankKey bank (1024 * (slotPlanes f * slot))
      (e = .xformZero → memRead r.mem (bankKey bank 0) 65536 = List.replicate 65536 0) ∧
      (e = .xformFill → x.getLsbD 12 = false →
        memRead r.mem (bankKey bank 0) 65536 = (List.replicate 16384 (leBytes 4 (z.toNat % 4294967296))).flatten) ∧
      (e = .xformFill → x.getLsbD 12 = true → memRead r.mem (scaleKey bank f slot) 256 = List.replicate 256 (z.truncate 8) ∧
        ∀ j, outside j (scaleKey bank f slot) 256 → memGet r.mem j = memGet s.mem j) ∧
      (e = .xformZero ∨ (e = .xformFill ∧ x.getLsbD 12 = false) →
        ∀ j, outside j (bankKey bank 0) 65536 → memGet r.mem j = memGet s.mem j) ∧
      (e = .xformToplanes ∨ e = .xformFromplanes →
        ∀ j, outside j lo (1024 * slotPlanes f) → memGet r.mem j = memGet s.mem j) ∧
      (e = .xformChecksum → s.latent = [] → r.mem = s.mem) ∧
      (e = .xformChecksum → k = (List.range 64).countP fun i => planeBad r bank i) ∧
      ∀ i n, i < 64 → n < 128 → f < 3 → slot < slotCount f →
        (e = .xformToplanes → planesInt (slotPlanesBits r bank f slot (slotPlanes f)) i n =
          imageInt f (memRead s.mem lo (elementBytes f)).toArray i n) ∧
        (e = .xformFromplanes →
          let w := planesInt (slotPlanesBits s bank f slot (slotPlanes f)) i n
          imageInt f (memRead r.mem lo (elementBytes f)).toArray i n = (if f = 1 then (if w < 0 then -1 else 1) *
            ([0, 1, 2, 3, 4, 4, 6, 8, 8, 8, 8, 12, 12, 12, 12, 12, 12] : List Int).getD w.natAbs 0 else w) ∧
          (f = 1 → memRead r.mem (lo + 4096) 1024 = List.replicate 1024 0))) ∧
  (∀ s t r o sq k e d x y z x2 v, s.checkout sq = some t → findOp t k = some o → o.act = .engine e d x y z x2 v →
      mayRun t.sq o = true → exec (.engineOperationComplete sq k) s = .next r →
      KeepsFiles t r (if e = .taccRead then [d % 128] else []) (if e = .taccRead then [] else [d % 64, o.token % 64]) [] o.active ∧
      r.sq.mode = t.sq.mode ∧ r.sq.flags = t.sq.flags ∧ r.sq.trap = t.sq.trap ∧ r.sq.sys = t.sq.sys ∧ r.sq.thr = t.sq.thr ∧
      r.sq.ident = t.sq.ident ∧ r.sq.status = t.sq.status) ∧
  (∀ s t r o sq k e d x y z x2 v c p, s.checkout sq = some t → findOp t k = some o → o.act = .engine e d x y z x2 v →
      mayRun t.sq o = true → e ∈ [.tmac p, .taccZero, .taccRead, .taccWrite, .taccAdd, .taccScale] → t.myCrew = some c →
      c.rows ≤ 3072 → (e = .taccWrite → x.toNat ≤ 96) → t.latent = [] → Settled t →
      exec (.engineOperationComplete sq k) s = .next r →
      ∀ j, outside j (rowKey c.id 0 0) 1572864 → memGet r.mem j = memGet t.mem j) ∧
  (∀ (s : State) c row n k, k < n → rowRead (zeroRows s c row n) c.id (row + k) = List.replicate 128 0) ∧
  (∀ s o c src dst crew u ks v bs, s.myCrew = some crew →
      reachRanges s o needR (c.runs src (chunkLen c none o.pos / 64 + 2) o.pos (chunkLen c none o.pos)) = (u, .keys ks) →
      readKeys u ks = (v, bs, none) → (chunkLen c none o.pos = 0 ∨ dst + o.pos + chunkLen c none o.pos ≤ crew.spadBytes) →
      runCopy s o c src dst true false false = chunkDone (spadWrite v crew.storage (dst + o.pos) bs) o none
        (o.pos + chunkLen c none o.pos) c.total) ∧
  (∀ s o c src dst crew u ks v ks2 w, s.myCrew = some crew →
      reachRanges s o needW (c.runs dst (chunkLen c (some dst) o.pos / 64 + 2) o.pos (chunkLen c (some dst) o.pos)) = (u, .keys ks) →
      (chunkLen c (some dst) o.pos = 0 ∨ src + o.pos + chunkLen c (some dst) o.pos ≤ crew.spadBytes) →
      spadPoison u crew.storage (src + o.pos) (chunkLen c (some dst) o.pos) = false →
      reachRanges u o needW (c.runs dst (chunkLen c (some dst) o.pos / 64 + 2) o.pos (chunkLen c (some dst) o.pos)) = (v, .keys ks2) →
      writeKeys v true o ks2 (spadRead u crew.storage (src + o.pos) (chunkLen c (some dst) o.pos)) = (w, none) →
      runCopy s o c src dst false true false = chunkDone w o none (o.pos + chunkLen c (some dst) o.pos) c.total) ∧
  (∀ s o c src dst crew u ks v ks1 x bs y ks2 w, s.myCrew = some crew →
      reachRanges s o needW (c.runs dst (chunkLen c (some dst) o.pos / 64 + 2) o.pos (chunkLen c (some dst) o.pos)) = (u, .keys ks) →
      reachRanges u o needR (c.runs src (chunkLen c (some dst) o.pos / 64 + 2) o.pos (chunkLen c (some dst) o.pos)) = (v, .keys ks1) →
      readKeys v ks1 = (x, bs, none) →
      reachRanges x o needW (c.runs dst (chunkLen c (some dst) o.pos / 64 + 2) o.pos (chunkLen c (some dst) o.pos)) = (y, .keys ks2) →
      writeKeys y true o ks2 bs = (w, none) →
      runCopy s o c src dst true true false = chunkDone w o none (o.pos + chunkLen c (some dst) o.pos) c.total) ∧
  (∀ s o c src dst crew peer, s.myCrew = some crew → s.peerCrew = some peer →
      (chunkLen c none o.pos = 0 ∨ src + o.pos + chunkLen c none o.pos ≤ crew.spadBytes) → spadPoison s crew.storage (src + o.pos) (chunkLen c none o.pos) = false →
      (chunkLen c none o.pos = 0 ∨ dst + o.pos + chunkLen c none o.pos ≤ peer.spadBytes) →
      runCopy s o c src dst false false true = chunkDone (spadWrite s peer.storage (dst + o.pos)
        (spadRead s crew.storage (src + o.pos) (chunkLen c none o.pos))) o none (o.pos + chunkLen c none o.pos) c.total) ∧
  (∀ (s : State) ks, Legible s → (∀ p ∈ ks, toControl s p.2.1 = false) →
      (readKeys s ks).2.1 = s.bytesAt ks ∧ SameMemory s (readKeys s ks).1) ∧
  (∀ (s t : State) whole o ks bs, Legible s → Sound s → (∀ p ∈ ks, toControl s p.2.1 = false) →
      ks.Pairwise (fun p q => apart p.2.1 p.2.2 q.2.1 q.2.2) → bs.length = (ks.map fun p => p.2.2).sum →
      writeKeys s whole o ks bs = (t, none) →
      t.bytesAt ks = bs ∧ ∀ j, (∀ p ∈ ks, outside j p.2.1 p.2.2) → t.byteAt j = s.byteAt j) ∧
  (∀ (s : State) banks a bs, banks.Nodup → banks.length ≤ 32 → a + bs.length ≤ 65536 * banks.length →
      spadRead (spadWrite s banks a bs) banks a bs.length = bs ∧
      ∀ j, (∀ i, i < bs.length → j ≠ bankKey (banks.getD ((a + i) / 65536) 0) ((a + i) % 65536)) →
        memGet (spadWrite s banks a bs).mem j = memGet s.mem j) ∧
  (∀ (s : State) bank fmt slot (f : Nat → Nat → Int) k n, fmt < 3 → slot < slotCount fmt → k < 64 → n < 128 →
      -(2 ^ (slotPlanes fmt - 1) : Nat) ≤ f k n → f k n < (2 ^ (slotPlanes fmt - 1) : Nat) →
      planesInt (slotPlanesBits (writeSlot s bank fmt slot f) bank fmt slot (slotPlanes fmt)) k n = f k n)

/-- For FP32, FP16, BF16, E5M2, E4M3 and E2M1 a finite value is rounded to the multiple that the mode names, nearest with ties to even or directed, inexact exactly when they differ, and the code decodes to that multiple; addition and fused multiply-add round the exact sum once; division and square root to nearest lie within half a unit of the exact result; and some results are given as words (R57, R60, R63, R66, R70, R192, R201, R203). -/
def Obligations.RoundingIsExact : Prop :=
  (∀ (f : Fmt) (mode : Nat) (neg : Bool) (m : Nat) (e lo : Int), f ∈ [fp32, fp16, bf16, e5m2, e4m3, e2m1] → 0 < m →
    let r := f.round mode neg m e false
    let x : Int := units lo r.q r.n
    let y : Int := units lo e m
    let u : Int := units lo r.q 1
    lo ≤ e → lo ≤ r.q →
    (mode = 0 → 2 * (x - y) ≤ u ∧ 2 * (y - x) ≤ u ∧ (2 * (x - y) = u ∨ 2 * (y - x) = u → r.n % 2 = 0)) ∧
    (mode = 1 ∨ (mode = 2 ∧ neg = false) ∨ (mode = 3 ∧ neg = true) → x ≤ y ∧ y < x + u) ∧
    ((mode = 2 ∧ neg = true) ∨ (mode = 3 ∧ neg = false) → y ≤ x ∧ x < y + u) ∧
    (r.inx = true ↔ x ≠ y) ∧ r.n ≤ 2 ^ (f.mb + 1) ∧ 1 - (f.bias : Int) - f.mb ≤ r.q ∧
    (1 - (f.bias : Int) - f.mb < r.q → 2 ^ f.mb ≤ r.n)) ∧
  (∀ (f : Fmt) (mode : Nat) (neg sat : Bool) (m : Nat) (e : Int), f ∈ [fp32, fp16, bf16, e5m2, e4m3, e2m1] → 0 < m →
    let r := f.round mode neg m e false
    r.beyond = false →
    (∃ n q, f.decode (f.finite mode false sat neg m e false).bits = .fin neg n q ∧ units (min q r.q) q n = units (min q r.q) r.q r.n) ∧
    (f.finite mode false sat neg m e false).fx = (if r.tiny = true ∧ r.inx = true then 8 else 0) + (if r.inx = true then 16 else 0)) ∧
  (∀ (f : Fmt) (mode : Nat) (ftz na nb : Bool) (ma mb : Nat) (ea eb lo : Int), f ∈ [fp32, fp16, bf16] → lo ≤ ea → lo ≤ eb →
    let x : Int := (if na = true then -(units lo ea ma : Int) else units lo ea ma) + (if nb = true then -(units lo eb mb : Int) else units lo eb mb)
    x ≠ 0 → f.add mode ftz (.fin na ma ea) (.fin nb mb eb) = f.finite mode ftz false (decide (x < 0)) x.natAbs lo false) ∧
  (∀ (f : Fmt) (mode : Nat) (ftz na nb nc : Bool) (ma mb mc : Nat) (ea eb ec lo : Int), f ∈ [fp32, fp16, bf16] → lo ≤ ea + eb → lo ≤ ec →
    let x : Int := (if na = nb then (units lo (ea + eb) (ma * mb) : Int) else -(units lo (ea + eb) (ma * mb) : Int)) +
      (if nc = true then -(units lo ec mc : Int) else units lo ec mc)
    x ≠ 0 → f.fma mode ftz (.fin na ma ea) (.fin nb mb eb) (.fin nc mc ec) =
      f.finite mode ftz false (decide (x < 0)) x.natAbs lo false) ∧
  (∀ (na nb : Bool) (ma mb : Nat) (ea eb lo : Int), 0 < ma → ma < 16777216 → 0 < mb → mb < 16777216 →
    let r := fp32.round 0 (na != nb) (ma * 18446744073709551616 / mb) (ea - eb - 64) (ma * 18446744073709551616 % mb != 0)
    (r.beyond = false → ∃ n q, fp32.decode (fp32.div false (.fin na ma ea) (.fin nb mb eb)).bits = .fin (na != nb) n q ∧
      units (min q r.q) q n = units (min q r.q) r.q r.n) ∧
    (lo ≤ ea → lo ≤ r.q + eb →
      2 * ((units lo (r.q + eb) (r.n * mb) : Int) - units lo ea ma) ≤ units lo (r.q + eb) mb ∧
      2 * ((units lo ea ma : Int) - units lo (r.q + eb) (r.n * mb)) ≤ units lo (r.q + eb) mb)) ∧
  (∀ (m : Nat) (e : Int), 0 < m → m < 16777216 → -149 ≤ e → e ≤ 104 → ∃ n q, 0 < n ∧
    fp32.decode (fp32.sqrt false (.fin false m e)).bits = .fin false n q ∧ ∀ lo, lo ≤ e → lo ≤ 2 * q →
      units lo (2 * q) ((2 * n - 1) * (2 * n - 1)) ≤ units lo e (4 * m) ∧ units lo e (4 * m) ≤ units lo (2 * q) ((2 * n + 1) * (2 * n + 1))) ∧
  (fp32.div false (fp32.decode 0x3F800000) (fp32.decode 0x40400000)).bits = 0x3EAAAAAB ∧
  (fp32.sqrt false (fp32.decode 0x40000000)).bits = 0x3FB504F3 ∧
  (fp32.add 0 false (fp32.decode 0x3DCCCCCD) (fp32.decode 0x3E4CCCCD)).bits = 0x3E99999A ∧
  (convert fp32 fp16 0 false false 0x477FEFFF).bits = 0x7BFF ∧ (convert fp32 fp16 0 false false 0x477FF000).bits = 0x7C00 ∧
  (convert fp32 e4m3 0 false true 0x43E80000).bits = 0x7E

/-- Doorbells, queue registers, reservations, link turns and replays, span ports, host accesses, compression windows, the survey write-out, scrubs, retention, over-current warnings, budgets and the meridian lock leave the squad that is checked out and every parked squad unchanged; those among them that concern no memory leave every cell unchanged. -/
def Obligations.DeviceStepsSpareSquads : Prop :=
  (SparesSquads .doorbell ∧ (∀ n v, SparesSquads (.qcfgWrite n v)) ∧ (∀ n v, SparesSquads (.qwriteWrite n v)) ∧
    (∀ p v, SparesSquads (.reservationWrite p v)) ∧ (∀ p, SparesSquads (.partctlInvalidCmd p)) ∧
    (∀ n, SparesSquads (.linkTurnStart n)) ∧ (∀ n, SparesSquads (.turnDeadTimeEnd n)) ∧ (∀ n g l, SparesSquads (.flitReplay n g l)) ∧
    SparesSquads .retryWindowExpiry ∧ (∀ p, SparesSquads (.spanPortDown p)) ∧ (∀ p, SparesSquads (.spanPortTrained p)) ∧
    (∀ n bytes bad, SparesSquads (.hostHdmWrite n bytes bad)) ∧ (∀ n k, SparesSquads (.hostHdmRead n k)) ∧
    (∀ n, SparesSquads (.mcwinExpansionDone n)) ∧ SparesSquads .surveyWriteOutDone ∧ (∀ n f, SparesSquads (.llcScrub n f)) ∧
    (∀ n f, SparesSquads (.hbmScrub n f)) ∧ (∀ n, SparesSquads (.planeScrub n)) ∧ (∀ n, SparesSquads (.bankRetentionEntry n)) ∧
    (∀ n, SparesSquads (.bankRetentionExit n)) ∧ (∀ n g, SparesSquads (.wayGroupRetentionEntry n g)) ∧
    (∀ n g, SparesSquads (.wayGroupRetentionExit n g)) ∧ SparesSquads .overcurrentWarning ∧ SparesSquads .overcurrentClear ∧
    (∀ g, SparesSquads (.timedBudgetExceeded g)) ∧ SparesSquads .meridianLock) ∧
  (∀ s t n v g, exec .doorbell s = .next t ∨ exec (.qcfgWrite n v) s = .next t ∨ exec (.qwriteWrite n v) s = .next t ∨
      exec (.reservationWrite n v) s = .next t ∨ exec (.partctlInvalidCmd n) s = .next t ∨
      exec (.spanPortTrained n) s = .next t ∨ exec (.bankRetentionEntry n) s = .next t ∨
      exec (.wayGroupRetentionEntry n g) s = .next t ∨ exec (.wayGroupRetentionExit n g) s = .next t ∨
      exec .overcurrentWarning s = .next t ∨ exec .overcurrentClear s = .next t ∨ exec .meridianLock s = .next t → t.mem = s.mem)

/-- A write of a vector register, scalar register or predicate is what is read back in the lanes written, every other register and lane is as before, and a write to s0 or p0 changes nothing (R54). SYSVEC, SYSPC, CTXID, PTBASE, LNKSEL, MCSEL, WAYSEL, SURVEYCMP and PARTSEL read as their last write masked to their fields, and a write of MODE or FLAGS with wrsr keeps their fields alone (R57, R58, R318, R320, R330, R331, R357, R391, R407). -/
def Obligations.RegistersReadBack : Prop :=
  (∀ (s : State) (n k l : Nat) (m : Mask) (f : Nat → Word), n < 128 → k < 128 → l < 32 →
    (s.setV n m f).v k l = if k = n ∧ m.getLsbD l = true then f l else s.v k l) ∧
  (∀ (s : State) (n k : Nat) (x : DWord), n < 64 → k < 64 → (s.setX n x).x k = if k = n ∧ n ≠ 0 then x else s.x k) ∧
  (∀ (s : State) (n k l : Nat) (m x : Mask), n < 8 → k < 8 → l < 32 → ((s.setP n m x).sq.regs.pred k).getLsbD l =
    if k = n ∧ n ≠ 0 ∧ m.getLsbD l = true then x.getLsbD l else (s.sq.regs.pred k).getLsbD l) ∧
  (∀ s : State, s.x 0 = 0 ∧ s.sq.regs.pred 0 = allLanes) ∧
  (∀ (s : State) (v : DWord), sysRead (sysWrite s 0x01 v) 0x01 = v &&& ~~~1 ∧ sysRead (sysWrite s 0x05 v) 0x05 = v ∧
    sysRead (sysWrite s 0x06 v) 0x06 = v &&& 0x3F ∧ sysRead (sysWrite s 0x07 v) 0x07 = v &&& 0x000FFFFFFFFF0001 ∧
    sysRead (sysWrite s 0x18 v) 0x18 = v &&& 0x1F7F ∧ sysRead (sysWrite s 0x20 v) 0x20 = v &&& 0xF ∧
    sysRead (sysWrite s 0x28 v) 0x28 = v &&& 0xF1F ∧ sysRead (sysWrite s 0x38 v) 0x38 = v ∧
    sysRead (sysWrite s 0x40 v) 0x40 = v &&& 7) ∧
  (∀ (a : BitVec 7) (s t : State), Issues (.wrsr 0x0D a) s → exec (.wrsr 0x0D a) s = .next t →
    t.sq.mode = s.x a.toNat &&& 0x1F07) ∧
  (∀ (a : BitVec 7) (s t : State), Issues (.wrsr 0x0E a) s → exec (.wrsr 0x0E a) s = .next t →
    t.sq.flags = s.x a.toNat &&& 0x1F)

/-- For every instruction of the table but the prefixes and the device steps: a privileged instruction of a user squad takes 0x42, a misplaced prefix 0x41 with detail 1, and one that the management core refuses 0x4C; then an illegal operand takes 0x41; then an instruction whose counter is full or whose registers are outstanding leaves the squad where it was; then a marked register that it reads takes 0x4A with AUX 1, the address of the mark and its lane, or for a scalar register the enabled lanes. That a 0x41 of step 4 names the lanes that guards enable is the model's reading (log 19, DEDUCED), and of several marks the one named is its choice (log 22, DESIGN CHOICE). Each fault is taken by the one operation for faults. The instructions of class R codes 0xC0 to 0xCD are the privileged ones listed, and no other takes 0x42 from these checks. -/
def Obligations.IssueChecksInOrder : Prop :=
  (∀ (i : Instr) (s : State), (traitsOf i).device = false → prefixRank i = none →
    (∀ f, checkForm s (traitsOf i) = some f → exec i s = .next (endSequence (takeFault s f))) ∧
    (∀ f, checkForm s (traitsOf i) = none → checkOperands s (traitsOf i) (usesNow s i) = some f →
      exec i s = .next (endSequence (takeFault s f))) ∧
    (checkForm s (traitsOf i) = none → checkOperands s (traitsOf i) (usesNow s i) = none →
      mustWait s (traitsOf i) (usesNow s i) = true → exec i s = .next (endSequence s)) ∧
    (∀ f, checkForm s (traitsOf i) = none → checkOperands s (traitsOf i) (usesNow s i) = none →
      mustWait s (traitsOf i) (usesNow s i) = false → checkPoison (begun s) (usesNow s i) = some f →
      exec i s = .next (endSequence (takeFault (noteStart s) f)))) ∧
  (∀ (i : Instr) (s : State), (traitsOf i).priv = true → (traitsOf i).device = false → s.sq.ident.priv = false →
    exec i s = .next (endSequence (takeFault s { cause := 0x42, lanes := s.sq.cur.active }))) ∧
  (∀ (s : State) (t : Traits), (t.priv = true → s.sq.ident.priv = true) →
    (prefixMisplaced s.sq t = true → checkForm s t = some { cause := 0x41, detail := 1, lanes := s.sq.cur.active }) ∧
    (prefixMisplaced s.sq t = false → t.mcStop = true → s.sq.ident.core = Config.mcCore →
      checkForm s t = some { cause := 0x4C, lanes := s.sq.cur.active }) ∧
    (prefixMisplaced s.sq t = false → (t.mcStop = true → s.sq.ident.core ≠ Config.mcCore) → checkForm s t = none)) ∧
  (∀ (s : State) (t : Traits) (u : Uses) f, checkOperands s t u = some f →
    f.cause = 0x41 ∧ f.detail = 0 ∧ f.lanes = enabledLanes s.sq (windowsFor s.sq)) ∧
  (∀ (s : State) (t : Traits) (u : Uses), u.legal = true → s.sq.cur.ord = none → s.sq.cur.ext = none →
    (∀ r ∈ u.vr ++ u.vw, r + 5 ≤ s.sq.ident.allot ∨ (124 ≤ r ∧ r < 128)) → checkOperands s t u = none) ∧
  (∀ (s : State) (u : Uses) f, checkPoison s u = some f → f.cause = 0x4A ∧ f.detail = 0 ∧ f.aux = 1 ∧
    ((∀ r ∈ u.sr, ∀ a, (r, a) ∉ s.sq.poisonS) → (∀ l, l < 32 → (f.lanes.getLsbD l = true ↔
        s.sq.cur.enabled.getLsbD l = true ∧ ∃ r a, r ∈ u.vr ∧ (r, l, a) ∈ s.sq.poisonV)) ∧
      ∃ r l, r ∈ u.vr ∧ (r, l, f.addr) ∈ s.sq.poisonV ∧ f.lanes.getLsbD l = true ∧ ∀ k, k < l → f.lanes.getLsbD k = false) ∧
    ((∃ r a, r ∈ u.sr ∧ (r, a) ∈ s.sq.poisonS) → f.lanes = s.sq.cur.enabled)) ∧
  (∀ (s : State) (u : Uses), checkPoison s u = none ↔
    (∀ r ∈ u.vr, ∀ l a, (r, l, a) ∈ s.sq.poisonV → s.sq.cur.enabled.getLsbD l = false) ∧ ∀ r ∈ u.sr, ∀ a, (r, a) ∉ s.sq.poisonS) ∧
  (∀ (d a n : BitVec 7), [Instr.mfsr d n, .mtsr n a, .tlbinvAll a, .tlbinvCtx a, .tlbinvPage a, .cchopWb d a, .cchopWbinv d a,
      .cchopInv d a, .cchopUnkeep d a, .survey d a, .halt a, .cxsave d a, .cxrest d a, .errrd d a, .mcctlMetard d a, .mcctlMetawr d a,
      .mcctlRetire d a, .wayctlQuar d, .wayctlRelease d, .wayctlDiscard d, .retainCreate d a, .retainDestroy d a, .retainQuery d a,
      .lnkctlPause d a, .lnkctlResume d a, .lnkctlSpare d a, .lnkctlWidth d a, .lnkctlClrretry d a, .sret].all
      (fun i => (traitsOf i).priv) = true) ∧
  (∀ (i : Instr) (s : State) f, (traitsOf i).priv = false → checkForm s (traitsOf i) = some f → f.cause ≠ 0x42)

/-- At an instruction a lane of the running group is enabled when it has no window or its predicate differs from the negate bit, and no other lane is. A guard with count n gives every thread of the group a window of n instructions, its own instruction the first; each instruction that the group issues counts the window down by one (R146). The running group that is chosen is not empty, stands at one pc, holds every eligible thread at it, and no eligible thread that is not set aside stands lower (R39, R40); none is chosen exactly when no thread is eligible. -/
def Obligations.GuardsAndRunningGroups : Prop :=
  (∀ (s : State) (l : Nat), l < 32 → let w := vget (windowsFor (noteStart s).sq) l
    (begun s).sq.cur.enabled.getLsbD l = ((noteStart s).sq.cur.active.getLsbD l &&
      (w.left == 0 || ((noteStart s).sq.regs.pred w.pred.toNat).getLsbD l != w.neg))) ∧
  (∀ (s : State) (l : Nat), l < 32 → let q := (noteStart s).sq
    let w := match q.cur.guard with | some (p, neg, n) => (⟨p, neg, n⟩ : Window) | none => vget q.thr.win l
    vget (begun s).sq.thr.win l = if q.cur.active.getLsbD l = true then { w with left := w.left - 1 } else vget q.thr.win l) ∧
  (∀ (s t : State) (l : Nat), l < 32 → Issues .nop s → exec .nop s = .next t →
    vget t.sq.thr.win l = vget (begun s).sq.thr.win l ∧ t.sq.cur.guard = none) ∧
  (∀ (s : State) (p : BitVec 3) (n : BitVec 1) (c : BitVec 2), exec (.guard p n c) s =
    .next (s.onSq fun r => { r with cur := { r.cur with guard := some (p, n == 1, c.toNat + 1) } })) ∧
  (∀ t : Threads, t.held ≠ 0 → t.held &&& ~~~t.eligible = 0 → ∃ pc, t.select = some (t.held, pc, t)) ∧
  (∀ (t u : Threads) (g : Mask) (pc : DWord), t.held = 0 ∨ t.held &&& ~~~t.eligible ≠ 0 → t.select = some (g, pc, u) →
    g ≠ 0 ∧ (∀ l, l < 32 → (g.getLsbD l = true ↔ t.eligible.getLsbD l = true ∧ vget t.pc l = pc)) ∧
    (∀ l, l < 32 → t.eligible.getLsbD l = true → t.aside.getLsbD l = false ∨ t.eligible &&& ~~~t.aside = 0 →
      pc.toNat ≤ (vget t.pc l).toNat) ∧
    u.aside &&& g = 0) ∧
  (∀ t : Threads, t.select = none ↔ t.eligible = 0)

/-- With no handler in progress and SYSVEC not 0, entry writes SYSPC, SYSCAUSE, SYSINFO0 and SYSINFO1, saves and clears the windows of the group, marks it, and sends it to SYSVEC; registers, MODE, FLAGS, the trap registers, the other threads and the rest of the device are unchanged. With a handler in progress or no handler the squad stops. A fault of a system squad is this entry with the address of its first prefix (R320, R321, R368). -/
def Obligations.SystemHandlerEntry : Prop :=
  (∀ (s : State) (g : Mask) (ret : DWord) (cause i0 i1 : Nat), s.sq.thr.sysMark = 0 → 2 ≤ s.sq.sys.sysvec.toNat →
    let t := enterSystem s g ret cause i0 i1
    t.sq.sys.syspc = ret ∧ t.sq.sys.cause = BitVec.ofNat 64 cause ∧ t.sq.sys.info0 = BitVec.ofNat 64 i0 ∧
    t.sq.sys.info1 = BitVec.ofNat 64 i1 ∧ t.sq.sys.sysvec = s.sq.sys.sysvec ∧ t.sq.thr.sysMark = g ∧
    (∀ l, l < 32 → vget t.sq.thr.pc l = if g.getLsbD l then BitVec.ofNat 64 (s.sq.sys.sysvec.toNat / 2 * 2) else vget s.sq.thr.pc l) ∧
    (∀ l, l < 32 → vget t.sq.thr.win l = if g.getLsbD l then Window.none else vget s.sq.thr.win l) ∧
    (∀ l, l < 32 → vget t.sq.thr.savedSysWin l = if g.getLsbD l then vget s.sq.thr.win l else vget s.sq.thr.savedSysWin l) ∧
    t.sq.regs = s.sq.regs ∧ t.sq.mode = s.sq.mode ∧ t.sq.flags = s.sq.flags ∧ t.sq.trap = s.sq.trap ∧
    t.sq.thr.handlerMark = s.sq.thr.handlerMark ∧ { t with sq := s.sq } = s) ∧
  (∀ (s : State) (g : Mask) (ret : DWord) (cause i0 i1 : Nat), s.sq.thr.sysMark ≠ 0 ∨ s.sq.sys.sysvec.toNat < 2 →
    (enterSystem s g ret cause i0 i1).sq.status = .stopped) ∧
  (∀ (s : State) (f : FaultInfo), s.sq.ident.priv = true →
    takeFault s f = enterSystem s s.sq.cur.active s.sq.cur.first f.cause f.addr (f.lanes.toNat + f.detail * 4294967296))

/-- A fault of a user squad other than not-present stops the squad with its registers and pcs unchanged and raises event 0. While the ring is enabled and not full, the record of R372 (time, cause with context, detail, unit and auxiliary bits, address with core, and the pc with slot, quadrant and length) stands at WR and WR rises by 1; otherwise LOST rises by 1, up to 0xFFFF, and no cell of memory changes. A not-present fault leaves the squad waiting for its pages instead, with a record for each walk of its own (R356, R365, R368, R369, R372, R378 to R380). That bit 4 of AUX tells a token from lanes in every cause but 0x41 is the model's reading (log 26, DEDUCED). -/
def Obligations.UserFaultStopsAndIsRecorded : Prop :=
  (∀ (s : State) (f : FaultInfo), s.sq.ident.priv = false → f.cause ≠ 0x44 →
    (takeFault s f).sq.status = .stopped ∧ (takeFault s f).sq.regs = s.sq.regs ∧ (takeFault s f).sq.thr.pc = s.sq.thr.pc ∧
    (takeFault s f).dev.evpend.getLsbD 0 = true) ∧
  (∀ (s : State) (f : FaultInfo), s.sq.ident.priv = false → s.sq.isMc0 = false → f.cause ≠ 0x44 → s.dev.errEn = true →
    (s.dev.errWr - s.dev.errRd).toNat ≠ 65536 →
    atArmed s (s.dev.errBase.toNat * 2097152 + 32 * (s.dev.errWr.toNat % 65536)) 32 = false →
    (takeFault s f).dev.errWr = s.dev.errWr + 1 ∧
    memRead (takeFault s f).mem (s.dev.errBase.toNat * 2097152 + 32 * (s.dev.errWr.toNat % 65536)) 32 =
      leBytes 8 s.now.toNat ++
      leBytes 8 (recWord8 f.cause s.sq.ident.ctx true false f.detail f.aux
        (if bit f.aux 4 && f.cause != 0x41 then f.token else f.lanes.toNat)) ++
      leBytes 8 (recWord10 f.addr s.sq.ident.core) ++
      leBytes 8 (recWord18 s.sq s.sq.cur.first ((s.sq.cur.next - s.sq.cur.first).toNat / 2))) ∧
  (∀ (s : State) (f : FaultInfo), s.sq.ident.priv = false → f.cause ≠ 0x44 →
    s.dev.errEn = false ∨ (s.dev.errWr - s.dev.errRd).toNat = 65536 ∨
      atArmed s (s.dev.errBase.toNat * 2097152 + 32 * (s.dev.errWr.toNat % 65536)) 32 = true →
    (takeFault s f).mem = s.mem ∧ (takeFault s f).dev.errLost = if s.dev.errLost < 65535 then s.dev.errLost + 1 else 65535) ∧
  (∀ (s : State) (f : FaultInfo), s.sq.ident.priv = false → f.cause = 0x44 →
    (takeFault s f).sq.status = s.sq.status ∧ (takeFault s f).sq.regs = s.sq.regs ∧ (takeFault s f).sq.thr = s.sq.thr ∧
    (takeFault s f).sq.replay = some ⟨s.sq.ident.ctx, f.aux, ⟨f.addr, f.lanes, false⟩ :: f.more.map fun a => ⟨a.addr, a.lanes, false⟩⟩ ∧
    (f.joined = true → f.more = [] → { takeFault s f with sq := s.sq } = s) ∧
    (f.joined = false → f.more = [] → takeFault s f = awaitPages (faultRecord s f) f))

/-- The words of class R codes 0x6E and 0x6F decode to idot4 with vector and scalar b; in each enabled lane the instruction writes the low 32 bits of d plus the sum over i from 0 to 3 of the products of the sign-extended bytes i of a and b, and FLAGS does not change. -/
def Obligations.IntegerDotProduct : Prop :=
  ∀ (d a b : BitVec 7),
    (let w := 1 + 0x6E * 8 + d.toNat * 2048 + a.toNat * 262144 + b.toNat * 33554432
     decode (w % 65536) (w / 65536) = .ok (.idot4 d a b)) ∧
    (let w := 1 + 0x6F * 8 + d.toNat * 2048 + a.toNat * 262144 + b.toNat * 33554432
     decode (w % 65536) (w / 65536) = .ok (.idot4S d a b)) ∧
    Gives (.idot4 d a b) (fun p => p.putV d.toNat fun l => BitVec.ofInt 32 ((p.v d.toNat l).toInt +
      ((p.v a.toNat l).extractLsb' 0 8).toInt * ((p.v b.toNat l).extractLsb' 0 8).toInt +
      ((p.v a.toNat l).extractLsb' 8 8).toInt * ((p.v b.toNat l).extractLsb' 8 8).toInt +
      ((p.v a.toNat l).extractLsb' 16 8).toInt * ((p.v b.toNat l).extractLsb' 16 8).toInt +
      ((p.v a.toNat l).extractLsb' 24 8).toInt * ((p.v b.toNat l).extractLsb' 24 8).toInt)) ∧
    Gives (.idot4S d a b) (fun p => p.putV d.toNat fun l => BitVec.ofInt 32 ((p.v d.toNat l).toInt +
      ((p.v a.toNat l).extractLsb' 0 8).toInt * ((p.x b.toNat).extractLsb' 0 8).toInt +
      ((p.v a.toNat l).extractLsb' 8 8).toInt * ((p.x b.toNat).extractLsb' 8 8).toInt +
      ((p.v a.toNat l).extractLsb' 16 8).toInt * ((p.x b.toNat).extractLsb' 16 8).toInt +
      ((p.v a.toNat l).extractLsb' 24 8).toInt * ((p.x b.toNat).extractLsb' 24 8).toInt)) ∧
    Framed always (.idot4 d a b) [d.toNat] [] [] inEnabled ∧ Framed always (.idot4S d a b) [d.toNat] [] [] inEnabled

/-- In each enabled lane prmt, with a vector or a scalar b, writes a word whose byte i is 0 when bit 2 of nibble i of b is set, else the sign fill of the byte of a that bits 1:0 name when bit 3 is set, else that byte; bits 31:16 of b do not matter; and the example of the rule holds. -/
def Obligations.PermuteBytes : Prop :=
  (∀ (d a b : BitVec 7),
    Gives (.prmt d a b) (fun p => p.putV d.toNat fun l => permute (p.v a.toNat l) (p.v b.toNat l)) ∧
    Gives (.prmtS d a b) (fun p => p.putV d.toNat fun l => permute (p.v a.toNat l) (p.lowWord b))) ∧
  (∀ (x y : Word) (i : Nat), i < 4 →
    let n := y.toNat / 16 ^ i % 16
    let k := x.toNat / 256 ^ (n % 4) % 256
    (permute x y).toNat / 256 ^ i % 256 =
      if n / 4 % 2 = 1 then 0 else if n / 8 = 1 then (if 128 ≤ k then 255 else 0) else k) ∧
  (∀ x y z : Word, y.toNat % 65536 = z.toNat % 65536 → permute x y = permute x z) ∧
  permute 0x88442211 0x8123 = 0x00224488

/-- Code 0x7F with B = 0 decodes to match.any, which writes in each enabled lane the mask of the enabled lanes whose a equals its own; with B = 1 to match.first, which writes the lowest such lane number; and with B from 2 to 127 to no instruction but a reserved one, whose issue takes 0x41 where its form passes. That a fault of the whole group names the lanes that guards enable is the model's reading (log 19, DEDUCED). -/
def Obligations.MatchInstructions : Prop :=
  (∀ (d a : BitVec 7),
    (let w := 1 + 0x7F * 8 + d.toNat * 2048 + a.toNat * 262144
     decode (w % 65536) (w / 65536) = .ok (.matchAny d a)) ∧
    (let w := 1 + 0x7F * 8 + d.toNat * 2048 + a.toNat * 262144 + 33554432
     decode (w % 65536) (w / 65536) = .ok (.matchFirst d a)) ∧
    (∀ b : BitVec 7, 2 ≤ b.toNat → let w := 1 + 0x7F * 8 + d.toNat * 2048 + a.toNat * 262144 + b.toNat * 33554432
     ∃ i, decode (w % 65536) (w / 65536) = .reserved i ∧ ∀ s, checkForm s (traitsOf i) = none →
      issueReserved (traitsOf i) s = endSequence (takeFault s { cause := 0x41, lanes := enabledLanes s.sq (windowsFor s.sq) })) ∧
    (∀ s, Issues (.matchAny d a) s → ∃ t, exec (.matchAny d a) s = .next t ∧ ∀ l, l < 32 →
      (begun s).sq.cur.enabled.getLsbD l = true → ∀ m, m < 32 → ((t.v d.toNat l).getLsbD m = true ↔
        (begun s).sq.cur.enabled.getLsbD m = true ∧ s.v a.toNat m = s.v a.toNat l)) ∧
    (∀ s, Issues (.matchFirst d a) s → ∃ t, exec (.matchFirst d a) s = .next t ∧ ∀ l, l < 32 →
      (begun s).sq.cur.enabled.getLsbD l = true → ∃ m, m < 32 ∧ t.v d.toNat l = BitVec.ofNat 32 m ∧
        (begun s).sq.cur.enabled.getLsbD m = true ∧ s.v a.toNat m = s.v a.toNat l ∧
        ∀ k, k < m → (begun s).sq.cur.enabled.getLsbD k = true → s.v a.toNat k ≠ s.v a.toNat l))

/-- Bytes stored weakly in one sector of a core's L1 are what a weak load of those bytes by the same core gives, and no cell of memory, code or poisoned sector changes by the store (R93). -/
def Obligations.WeakStoreReadsBack : Prop :=
  ∀ (s : State) (core ctx va a : Nat) (bs : List Byte), 0 < bs.length → a % 64 + bs.length ≤ 64 →
    (l1Find s core a).isSome = true ∨ (l1SetLines s core a).length < l1Ways (l1Core s core a) →
    (l1Load (l1Store s core ctx va a bs) core ctx a bs.length).2.1 = bs ∧
    (l1Store s core ctx va a bs).mem = s.mem ∧ (l1Store s core ctx va a bs).poison = s.poison ∧
    (l1Store s core ctx va a bs).codes = s.codes

/-- For every line of 512 bytes with z non-zero words: code 0x8 and no data for z = 0; code n, the least number of sectors that hold the mask and the words, for z below 56, with the mask of the non-zero words, those words in ascending order and zero padding; code 0x0 and the line raw from 56 on. A form has as many sectors as its code, and expanding it gives the line back (R102, R103). -/
def Obligations.CompressionRoundTrip : Prop :=
  (∀ bs : List Byte, bs.length = 512 →
    ((compressLine bs).1 = 0 ∧ (compressLine bs).2 = bs) ∨
    ((compressLine bs).1 = 8 ∧ (compressLine bs).2 = [] ∧ bs = List.replicate 512 0) ∨
    (1 ≤ (compressLine bs).1 ∧ (compressLine bs).1 ≤ 7 ∧ (compressLine bs).2.length = 64 * (compressLine bs).1 ∧
      expandForm ((compressLine bs).2 ++ List.replicate (512 - (compressLine bs).2.length) 0) = bs)) ∧
  (∀ bs : List Byte, bs.length = 512 →
    let word := fun i => (bs.drop (8 * i)).take 8
    let nz := (List.range 64).filter fun i => decide (word i ≠ List.replicate 8 0)
    let form := (compressLine bs).2
    (compressLine bs).1 = (if nz.length = 0 then 8 else if nz.length < 56 then (8 + 8 * nz.length + 63) / 64 else 0) ∧
    (0 < nz.length → nz.length < 56 → (∀ i, i < 64 → (form.getD (i / 8) 0).getLsbD (i % 8) = decide (i ∈ nz)) ∧
      form.drop 8 = nz.flatMap word ++ List.replicate (form.length - 8 - 8 * nz.length) 0))

/-- When the plan, or where it is empty the default move, lets a squad issue, and the squad has no due event, may issue, is within its quantum, and a running group is chosen: the step is exec of the instruction that the halfwords at the group's pc decode to, with the sequence's addresses set, and for a sequence with prefixes exec of its instruction after them; afterwards the ages of a quadrant's candidates are brought up to date (R351). The plan and the default move are the model's own account of who moves next (log 3, DESIGN CHOICE), the time that a move takes is free (log 4), and ages counted in moves are its reading of R351 (log 80). Where other squads share the quadrant, the one that issues is its oldest candidate of the port class; where none does, the squad itself. -/
def Obligations.StepRunsTheFetchedInstruction : Prop :=
  (∀ (s e t : State) (id dt : Nat) (rest : List (Nat × Move)),
    ((s.plan = (dt, .squad id) :: rest ∧ e = elapse { s with plan := rest } dt (.squad id)) ∨
      (s.plan = [] ∧ s.dev.powered = true ∧ defaultMove s = .squad id ∧ e = elapse s (Config.freeNs s.tickets) (.squad id))) →
    e.checkout id = some t → eventDue t t.sq = false → canIssue t.sq = true → t.sq.thr.quantum < Config.quantum →
    (∀ g pc thr u h0 h1 next i, (turn t).sq.thr.select = some (g, pc, thr) →
      fetchOne ((turn t).onSq fun q => { q with thr := thr, cur := ⟨pc, pc, pc, g, g, none, none, none⟩ }) pc = (u, .got (h0, h1, next)) →
      decode h0 h1 = .ok i → prefixRank i = none → ((traitsOf i).priv = true → u.sq.ident.priv = true) →
      step s = renewed e (.squad id) (exec i (setCursor u pc next))) ∧
    (∀ ps i u, fetch (turn t) = .run ps i u → step s = renewed e (.squad id) (exec i (runPrefixes ps u)))) ∧
  (∀ t : State, rivals t = [] → turn t = t) ∧
  (∀ (s t : State) (m : Move), crowded t = false → renewed s m (.next t) = .next t)

/-- One or more words of each class (16-bit lane and miscellaneous forms, classes R, I, L and M, and the system instructions), written from the encoding rules, decode to their instructions, and unassigned words decode to none. -/
def Obligations.EncodedWordsDecode : Prop :=
  decode 0x0000 0 = .ok (.mov16 0 0) ∧ decode 0x0002 0 = .ok .nop ∧ decode 0x0016 0 = .ok .ret ∧
  decode (0x0004 + 3 * 64 + 5 * 2048) 0 = .ok (.add16 3 5) ∧
  decode32 (1 + 0x00 * 8 + 3 * 2048 + 4 * 262144 + 5 * 33554432) = .ok (.add 3 4 5) ∧
  decode32 (1 + 0x6E * 8 + 1 * 2048 + 2 * 262144 + 3 * 33554432) = .ok (.idot4 1 2 3) ∧
  decode32 0x00000641 = .ok .sret ∧
  decode32 (5 + 5 * 8 + 7 * 256 + 9 * 16384) = .ok (.li 7 9) ∧
  decode32 (7 + 12 * 8) = .ok (.fence 0 0 0) ∧
  decode32 (3 + 23 * 8) = .illegal ∧ decode32 (5 + 13 * 8) = .illegal ∧ decode32 (7 + 30 * 8) = .illegal

/-- For every well-formed instruction of the table, with every operand at every value that its encoding admits, the encoder gives two or four bytes, and decoding those bytes with anything after them gives the instruction and their number. -/
def Obligations.DecodeInvertsEncode : Prop :=
  ∀ (i : Instr) (rest : List Byte), i.wellFormed = true →
    ∃ bs, encodeBytes i = some bs ∧ (bs.length = 2 ∨ bs.length = 4) ∧ decodeBytes (bs ++ rest) = some (.ok i, bs.length)

/-- From any state whose memory lists its cells at strictly rising addresses and lists no cell that reads so unlisted, every step that answers a next state leaves such a memory. The form is the model's own, so that equal memories are equal data (log 6). -/
def Obligations.StepKeepsMemoryForm : Prop :=
  ∀ s t : State, Memory.wf s.mem → step s = .next t → Memory.wf t.mem

/-- State.reset lists no cell, so its memory is in the canonical form that every step keeps. -/
def Obligations.ResetHoldsMemoryForm : Prop :=
  Memory.wf State.reset.mem ∧ State.reset.mem = []

/-- At step 1 of the reset sequence the meridian count is 0, no event is pending, no ready bit of READY0 is set, every partition is OFF, every queue is disabled, every link is split 16 to 16 with a threshold of 0x100, the error ring is disabled and its counts are 0. Placing a crew adds its squads, and each of them begins with s1 the argument block, s2 the launch record and s3 the crew's private area, lane l of v127 the top of its slice, every other scalar and vector register 0, p0 true and the other predicates false, MODE, FLAGS, the trap registers and the quantum count 0, no operation outstanding, and every thread live, ready and at its role's entry. Squad 0 of the management core begins likewise at the given entry, as a system squad, with s1 to s3 of 0 (R424); that its v127 is 0 as well is the model's reading (log 115, DEDUCED). -/
def Obligations.ResetAndEntryValues : Prop :=
  (State.reset.meridian = 0 ∧ State.reset.dev.evpend = 0 ∧ State.reset.dev.ready0 = 0 ∧ State.reset.dev.errEn = false ∧
    State.reset.dev.errWr = 0 ∧ State.reset.dev.errLost = 0 ∧ State.reset.dev.errCe = 0 ∧ State.reset.squads = []) ∧
  (∀ p, p < 8 → (State.reset.part p).state = 0 ∧ (State.reset.part p).chips = 0 ∧ (State.reset.part p).target = 0) ∧
  (∀ n, n < 64 → (State.reset.queue n).cfg.getLsbD 31 = false) ∧
  (∀ n, n < 88 → (State.reset.link n).outa = 16 ∧ (State.reset.link n).thresh = 0x100 ∧ (State.reset.link n).retry = 0) ∧
  (∀ (s : State) (g : Grid) (linear core : Nat), let t := (placeCrew s g linear core).1
    t.parked.length = s.parked.length + (g.r.roles.map Role.squads).sum ∧
    ∀ q ∈ t.parked, q ∉ s.parked →
      (∀ l, l < 32 → q.regs.lane 127 l = BitVec.ofNat 32 ((q.ident.squad * 32 + l + 1) * g.r.priv)) ∧
      (∀ n l, n < 127 → l < 32 → q.regs.lane n l = 0) ∧
      (∀ n, n < 64 → q.regs.sreg n = if n = 1 then BitVec.ofNat 64 g.r.args else if n = 2 then BitVec.ofNat 64 g.r.va else
        if n = 3 then BitVec.ofNat 64 (g.r.privBase + linear * (32 * g.r.squads) * g.r.priv) else 0) ∧
      EntersAt q (fun pc => ∃ r, g.r.roles[q.ident.role]? = some r ∧ q.ident.allot = r.vregs ∧
        pc = BitVec.ofNat 64 (g.r.code + 2 * r.entry)) ∧
      q.ident.core = core ∧ q.ident.ctx = g.ctx ∧ q.ident.grid = g.id ∧ q.ident.priv = g.priv) ∧
  (∀ (s : State) (e : DWord), let q := (startMc s e).sq
    (∀ n l, n < 128 → l < 32 → q.regs.lane n l = 0) ∧ (∀ n, n < 64 → q.regs.sreg n = 0) ∧ EntersAt q (fun pc => pc = e) ∧
    q.ident.priv = true ∧ q.ident.ctx = 0)
end

