-- ==== Sys2Proof/Laws/Issue.lean ====
section
/-! SUPPORT. What the issue of an instruction answers (R150): once for the shared operation, by what the own part answers. -/

namespace Sys2Proof.Machine

/-- An instruction that passes every check answers what its own part settles to. -/
theorem issue_own {t : Traits} {u : Uses} {s : State} {body : State → Eff} (form : checkForm s t = none)
    (operands : checkOperands s t u = none) (ready : mustWait s t u = false) (sound : checkPoison (begun s) u = none) :
    issue t u s body = .next (settleOwn s (noteStart s) (body (begun s))) := by
  unfold begun at *
  simp only [issue, form, operands, ready, sound, Bool.false_eq_true, if_false]

/-- The first failing check of R150 is the fault that is taken. -/
theorem issue_form {t : Traits} {u : Uses} {s : State} {body : State → Eff} {f : FaultInfo} (form : checkForm s t = some f) :
    issue t u s body = .next (endSequence (takeFault s f)) := by
  simp only [issue, form, settle]

theorem issue_operands {t : Traits} {u : Uses} {s : State} {body : State → Eff} {f : FaultInfo} (form : checkForm s t = none)
    (operands : checkOperands s t u = some f) : issue t u s body = .next (endSequence (takeFault s f)) := by
  simp only [issue, form, operands, settle]

/-- An instruction that must wait leaves the state as it was, but for its spent prefixes. -/
theorem issue_wait {t : Traits} {u : Uses} {s : State} {body : State → Eff} (form : checkForm s t = none)
    (operands : checkOperands s t u = none) (ready : mustWait s t u = true) :
    issue t u s body = .next (endSequence s) := by
  simp only [issue, form, operands, ready, if_true, settle]

/-- A poisoned register that is read is the fault that is taken (R225). -/
theorem issue_poison {t : Traits} {u : Uses} {s : State} {body : State → Eff} {f : FaultInfo} (form : checkForm s t = none)
    (operands : checkOperands s t u = none) (ready : mustWait s t u = false) (sound : checkPoison (begun s) u = some f) :
    issue t u s body = .next (endSequence (takeFault (noteStart s) f)) := by
  unfold begun at *
  simp only [issue, form, operands, ready, sound, Bool.false_eq_true, if_false, settle]

/-- An instruction that issues, read through the meaning that its arm calls. -/
theorem exec_own {i : Instr} (g : State → Res) {t : Traits} {u : Uses} {body : State → Eff} (arm : ∀ s, exec i s = g s)
    (meaning : ∀ s, g s = issue t u s body) (traits : traitsOf i = t) (uses : ∀ e, usesOf e i = u) {s : State} (h : Issues i s) :
    exec i s = .next (settleOwn s (noteStart s) (body (begun s))) := by
  obtain ⟨form, operands, ready, sound⟩ := h
  simp only [usesNow, traits, uses] at form operands ready sound
  rw [arm, meaning, issue_own form operands ready sound]

/-- The same for an instruction whose registers depend on the operation set that its `ext` selects (R155). -/
theorem exec_own_set {i : Instr} (g : State → Res) {t : Traits} (u : Bool → Uses) {body : State → Eff} (arm : ∀ s, exec i s = g s)
    (meaning : ∀ s, g s = issue t (u (extSet s.sq.cur)) s body) (traits : traitsOf i = t) (uses : ∀ e, usesOf e i = u e) {s : State}
    (h : Issues i s) : exec i s = .next (settleOwn s (noteStart s) (body (begun s))) := by
  obtain ⟨form, operands, ready, sound⟩ := h
  simp only [usesNow, traits, uses] at form operands ready sound
  rw [arm, meaning, issue_own form operands ready sound]

theorem settleOwn_done (s n u : State) : settleOwn s n (.done u) = ended u := rfl
theorem settleOwn_switch (s n u : State) : settleOwn s n (.switch u) = switched u := rfl
theorem settleOwn_fault (s n : State) (f : FaultInfo) : settleOwn s n (.fault f) = endSequence (takeFault n f) := rfl
theorem settleOwn_after (s n u : State) (f : FaultInfo) :
    settleOwn s n (.after f u) = endSequence (takeFault (issued u) f) := rfl
theorem settleOwn_halted (s n u : State) : settleOwn s n (.halted u) = endSequence u := rfl
theorem settleOwn_stall (s n : State) : settleOwn s n .stall = endSequence s := rfl
theorem settleOwn_block (s n u : State) (w : Blocked) :
    settleOwn s n (.block w u) = endSequence (blockGroup (issued (restoreThreads n u)) w) := rfl

theorem settleOwn_faultIn (s n u : State) (f : FaultInfo) :
    settleOwn s n (.faultIn f u) = endSequence (takeFault (faultPoint n f u) f) := rfl

end Sys2Proof.Machine
end

