-- ==== Sys2Proof/Laws/Checks.lean ====
section
/-! SUPPORT. The checks of engine and memory instructions, when they pass (R82, R83, R88, R136, R248). -/

namespace Sys2Proof.Machine

theorem failIf_pass {bad : Bool} {f : FaultInfo} {k : Eff} (h : bad = false) : failIf bad f k = k := by simp [failIf, h]

theorem aligned_pass {s : State} {a n : Nat} {write : Bool} {k : Eff} (h : a % n = 0) : aligned s a n write k = k := by
  simp [aligned, failIf, h]

theorem globalRange_pass {s : State} {a n : Nat} {write : Bool} {k : Eff} (h : s.inGlobal a n) : globalRange s a n write k = k := by
  rcases h with h | h
  · simp [globalRange, failIf, h]
  · have : ¬ addressTop s ≤ a + n - 1 := Nat.not_le.2 h
    simp [globalRange, failIf, this]

theorem scratchRange_read {s : State} {c : Crew} {o n : Nat} {k : State → Eff} (h : s.inScratch c o n) :
    scratchRange s (some c) o n false k = k s := by
  unfold scratchRange
  by_cases hn : n = 0
  · simp [hn]
  · obtain ⟨h1, h2⟩ := h.resolve_left hn
    simp [hn, Nat.not_lt.2 h1, h2]

theorem scratchRange_write {s : State} {c : Crew} {o n : Nat} {k : State → Eff} (h : s.inScratch c o n) :
    scratchRange s (some c) o n true k = k (s.raceMarked c o n) := by
  unfold scratchRange State.raceMarked
  by_cases hn : n = 0
  · simp [hn]
  · obtain ⟨h1, h2⟩ := h.resolve_left hn
    simp [hn, Nat.not_lt.2 h1, h2]

/-- Race-watch marks are no registers. -/
@[simp] theorem raceMarked_x (s : State) (c : Crew) (o n r : Nat) : (s.raceMarked c o n).x r = s.x r := by
  unfold State.raceMarked raceWrite
  repeat' split
  all_goals rfl

theorem withCrew_some {s : State} {c : Crew} {k : Crew → Eff} (h : s.myCrew = some c) : withCrew s k = k c := by
  simp [withCrew, h]

theorem bankRange_pass {s : State} {c : Crew} {first n : Nat} {k : Eff} (h : c.mapsAll first n) : bankRange s c first n k = k := by
  have : ((List.range n).any fun i => c.detached (first + i)) = false := by
    simp only [List.any_eq_false, List.mem_range, Bool.not_eq_true]
    exact h
  simp [bankRange, failIf, this]

theorem changeBanks_quiet {s : State} {c : Crew} {k : Crew → Eff} (h : s.myCrew = some c) (quiet : BanksQuiet s c) :
    changeBanks s k = k c := by
  unfold BanksQuiet at quiet
  simp [changeBanks, withCrew, h, quiet]

theorem withLast_ok {s : State} {k : Option (Nat × Word) → Eff} (h : LastOk s) : withLast s k = k (markOf s) := by
  unfold withLast markOf
  cases e : lastMark s.sq.cur with
  | none => rfl
  | some m =>
    obtain ⟨h1, h2, h3, h4⟩ := h m e
    simp [h1, h2, h3, Nat.not_le.2 h4]

theorem withQueue_ok {s : State} {q : Nat} {k : Eff} (h : q < queueCount s) : withQueue s q k = k := by
  simp [withQueue, Nat.not_le.2 h]

theorem lowestFault_nil : lowestFault [] = none := rfl

theorem orFault_pass {r : State × List Access × List FaultInfo} {k : State → List Access → Eff} (h : r.2.2 = []) :
    orFault r k = k r.1 r.2.1 := by simp [orFault, h, lowestFault_nil]

theorem orFault_fault {r : State × List Access × List FaultInfo} {k : State → List Access → Eff} {f : FaultInfo}
    (h : lowestFault r.2.2 = some f) (real : f.cause ≠ 0) : orFault r k = .faultIn f r.1 := by
  simp [orFault, h, FaultInfo.orStall, real]

/-! ### Accesses -/

theorem issueLoad_eq (s : State) (sp : Space) (w : BitVec 3) (d : BitVec 7) (va : State → Nat → Nat) (last : Option (Nat × Word)) :
    issueLoad s sp w.toNat d.toNat (va s) last = orFault (loadsOf sp w va s) fun t acc => .done (loading last sp w d t acc) := rfl

theorem issueStore_eq (s : State) (sp : Space) (w : BitVec 3) (d : BitVec 7) (va : State → Nat → Nat) :
    issueStore s sp w.toNat d.toNat (va s) = orFault (storesOf sp w d va s) fun t acc => .done (storing sp t acc) := rfl

theorem issueAtomic_eq (s : State) (sp : Space) (op : AtomOp) (n : Nat) (d : BitVec 7) (va : State → Nat → Nat) :
    issueAtomic s sp op n d.toNat (va s) = orFault (atomsOf sp n d va s) fun t acc => .done (updating sp op d t acc) := rfl

theorem issueScalarLoad_eq (s : State) (w : BitVec 3) (d : BitVec 7) (va : State → Nat) :
    issueScalarLoad s w.toNat d.toNat (va s) = orFault (scalarLoadOf w va s) fun t acc =>
      .done (pushOp t .ld (.load .global w.toNat d.toNat true acc) t.sq.cur.active (orderOf t (0, 0)) (ordered t) none 0 0 []) := rfl

theorem issueScalarStore_eq (s : State) (w : BitVec 3) (d : BitVec 7) (va : State → Nat) :
    issueScalarStore s w.toNat d.toNat (va s) = orFault (scalarStoreOf w d va s) fun t acc =>
      .done (pushOp t .st (.store .global acc) t.sq.cur.active (orderOf t (0, 0)) (ordered t) none 0 0 []) := rfl

theorem issueScalarAtomic_eq (s : State) (op : AtomOp) (n : Nat) (d : BitVec 7) (va : State → Nat) :
    issueScalarAtomic s op n d.toNat (va s) = orFault (scalarAtomOf op n d va s) fun t acc =>
      .done (pushOp t .ld (.atomic .global op d.toNat true acc) t.sq.cur.active (orderOf t (0, 4)) true none 0 0 []) := rfl

theorem source_eq (s : State) (p : BitVec 3) (neg : BitVec 1) :
    (if (neg == 1) = true then ~~~(s.sq.regs.pred p.toNat) else s.sq.regs.pred p.toNat) = s.source p neg := by
  simp [State.source]

theorem branchTo_done {s : State} {taken : Mask} {target : DWord} (h : taken = 0 ∨ target.toNat < addressTop s) :
    branchTo s taken target = .done (s.setPc taken fun _ => target) := by
  unfold branchTo
  rcases h with h | h
  · simp [h]
  · simp [Nat.not_le.2 h]

theorem withWin_armed {s : State} {num : Nat} {w : ArrWindow} {k : ArrWindow → Eff} (h : armedWin s num = some w) :
    withWin s num k = k w := by simp [withWin, h]

theorem arriveThen_takes {s : State} {team : Bool} {b n : Nat} {k : State → Eff} (h : BarTakes s team b n) :
    arriveThen s team b n k = k (arrivedAt s team b n) := by
  obtain ⟨⟨c, hc, hn, hb⟩, way⟩ := h
  have : (barArrive s team b n).2 = false := by simp [barArrive, hc, Nat.not_lt.2 hn, hb]
  cases team <;> simp_all [arriveThen, arrivedAt]

theorem awaitBar_past {s : State} {team : Bool} {n gen : Nat} (h : barGen s team n ≠ gen) :
    awaitBar s team n gen = .done (pastBar s team) := by simp [awaitBar, h]

theorem awaitBar_blocks {s : State} {team : Bool} {n gen : Nat} (h : barGen s team n = gen) :
    awaitBar s team n gen = .block (.bar team n gen) s := by simp [awaitBar, h]

theorem homeAccess_homes {s : State} {va n : Nat} {need : Need} {t : State} {key : Nat} {k : State → Nat → Eff}
    (h : Homes s va n need t key) : homeAccess s va n need k = k t key := by
  obtain ⟨named, h1, rfl, h2, h3⟩ := h
  simp [homeAccess, h1, h2, h3]

theorem withSpan_found {s : State} {va : Nat} {u : State} {d : SpanDesc} {k : State → SpanDesc → Eff} (h : SpanFound s va u d) :
    withSpan s va k = k u d := by
  obtain ⟨t, key, bs, h1, h2, h3, rfl, h4, h5⟩ := h
  simp [withSpan, homeAccess_homes h1, h2, homeFetch, h3, h4, h5]

theorem spanPush_pushed {u : State} {d : SpanDesc} {x : DWord} {r : State} {k : State → Eff} (h : SpanPushed u d x r) :
    spanPush u d x k = k r := by
  obtain ⟨way, t, key, w, h1, h2, h3⟩ := h
  simp [spanPush, way, homeAccess_homes h1, homeStore, h2, h3]

theorem spanPop_popped {u : State} {d : SpanDesc} {e : Nat} {r : State} {k : State → Eff} (h : SpanPopped u d e r) :
    spanPop u d e k = k r := by
  obtain ⟨t, key, w, bs, v, h1, h2, h3, rfl⟩ := h
  simp [spanPop, homeAccess_homes h1, homeFetch, homeStore, h2, h3]

theorem withSem_found {s : State} {va : Nat} {need : Need} {u : State} {key v scope : Nat} {k : State → Nat → Nat → Nat → Eff}
    (h : SemFound s va need u key v scope) : withSem s va need k = k u key v scope := by
  obtain ⟨t, bs, h1, h2, h3, rfl, h4, h5, rfl⟩ := h
  simp only [withSem, homeAccess_homes h1, h2, homeFetch, h3, Bool.not_true, Bool.false_eq_true, if_false]
  rw [if_neg]
  simp only [Bool.or_eq_true, bne_iff_ne, decide_eq_true_eq]
  omega

/-- A wait whose counters are low enough examines the errors (R176, R178). -/
theorem waitBody_below {s : State} {thr : List Nat} (h : Below s thr) :
    waitBody thr s = if (waitsOn thr .st).isSome then withDeferred s fun t => checkErrors t fun c => (waitsOn thr c).isSome
      else checkErrors s fun c => (waitsOn thr c).isSome := by
  unfold waitBody
  rw [if_neg]
  simp only [List.any_eq_true, not_exists, not_and, Bool.not_eq_true]
  intro c _
  cases e : waitsOn thr c with
  | none => rfl
  | some n => simpa using h c n e

theorem mem_all_classes (c : OpClass) : c ∈ OpClass.all := by cases c <;> decide

theorem waitBody_blocks {s : State} {thr : List Nat} (h : ∃ o n, waitsOn thr o = some n ∧ n < s.sq.count o) :
    waitBody thr s = .block (.wait thr) s := by
  obtain ⟨o, n, h1, h2⟩ := h
  unfold waitBody
  rw [if_pos]
  simp only [List.any_eq_true]
  exact ⟨o, mem_all_classes o, by simp [h1, h2]⟩

theorem withDeferred_none {s : State} {k : State → Eff} (h : (deferredFaults (retried s)).2 = false) :
    withDeferred s k = k (deferredFaults (retried s)).1 := by
  unfold retried at h ⊢
  simp [withDeferred, h]

/-- Step 1 of R323, where nothing is outstanding and nothing failed. -/
theorem afterFence_passes {s : State} {k : State → Eff} (h : FencePasses s) : afterFence s k = k (sysFenced s) := by
  obtain ⟨h1, way, h2, h3⟩ := h
  simp [afterFence, h1, way, h2, withDeferred_none h3, sysFenced]

theorem deliverTrap_handler {s : State} {h : DWord} {cause : Nat} {lanes : Mask} {info : DWord} (free : inHandler s.sq = false)
    (entry : trapEntry s = some h) : deliverTrap s cause lanes info = .done (s.trapped h cause lanes info) := by
  unfold deliverTrap State.trapped chosen
  simp only [free, entry, Bool.false_eq_true, if_false, State.onSq]

theorem returnTrap_marked {s : State} (h : s.sq.cur.active &&& ~~~s.sq.thr.handlerMark = 0) :
    returnTrap s = .done s.untrapped := by
  unfold returnTrap State.untrapped chosen
  simp only [h, bne_self_eq_false, Bool.false_eq_true, if_false, State.onSq]

theorem returnSystem_marked {s : State} (h : s.sq.cur.active &&& ~~~s.sq.thr.sysMark = 0) :
    returnSystem s = .done s.sysReturned := by
  unfold returnSystem State.sysReturned chosen
  simp only [h, bne_self_eq_false, Bool.false_eq_true, if_false, State.onSq]

end Sys2Proof.Machine
end

