-- ==== Sys2Proof/Laws/Homes.lean ====
section
/-! SUPPORT. What reads and writes at the homes, page walks and translations leave unchanged: the squad always, and everything but
what is held in the LLC and the TLBs where every line is legible. -/

namespace Sys2Proof.Machine

/-! ### The squad -/

/-- What each step of a fold leaves unchanged, the fold leaves unchanged. -/
theorem foldl_same {α β γ : Type} (g : β → γ) {f : β → α → β} (same : ∀ b a, g (f b a) = g b) :
    ∀ (l : List α) (b : β), g (l.foldl f b) = g b
  | [], _ => rfl
  | a :: l, b => by rw [List.foldl_cons, foldl_same g same l, same]

@[simp] theorem ticket_sq (s : State) : s.ticket.sq = s.sq := rfl
@[simp] theorem llcSet_sq (s : State) (l : LlcLine) : (llcSet s l).sq = s.sq := rfl
@[simp] theorem llcDrop_sq (s : State) (a : Nat) : (llcDrop s a).sq = s.sq := rfl
@[simp] theorem rawWrite_sq (s : State) (a : Nat) (bs : List Byte) : (rawWrite s a bs).sq = s.sq := rfl
@[simp] theorem setCode_sq (s : State) (line code : Nat) : (setCode s line code).sq = s.sq := rfl
@[simp] theorem raiseEvent_sq (s : State) (k : Nat) : (raiseEvent s k).sq = s.sq := rfl
@[simp] theorem l1Set_sq (s : State) (x : L1Sector) : (l1Set s x).sq = s.sq := rfl
@[simp] theorem l1Drop_sq (s : State) (x : L1Sector) : (l1Drop s x).sq = s.sq := rfl
@[simp] theorem setGrid_sq (s : State) (g : Grid) : (s.setGrid g).sq = s.sq := rfl
@[simp] theorem setCrew_sq (s : State) (c : Crew) : (s.setCrew c).sq = s.sq := rfl
@[simp] theorem countSurvey_sq (s : State) (r k n : Nat) : (s.countSurvey r k n).sq = s.sq := rfl

@[simp] theorem setMeta_sq (s : State) (line code : Nat) : (setMeta s line code).sq = s.sq := by
  simp only [setMeta]
  split <;> rfl

@[simp] theorem llcClean_sq (s : State) (a : Nat) : (llcClean s a).sq = s.sq := by
  simp only [llcClean]
  repeat' split
  all_goals rfl

@[simp] theorem llcShow_sq (s : State) (l : LlcLine) : (llcShow s l).sq = s.sq := by
  simp only [llcShow]
  repeat' split
  all_goals rfl

@[simp] theorem llcEvict_sq (s : State) (a : Nat) : (llcEvict s a).sq = s.sq := by
  simp only [llcEvict]
  split
  · exact llcClean_sq s a
  · exact (llcShow_sq _ _).trans (llcClean_sq s a)

@[simp] theorem llcRoom_sq (s : State) (a : Nat) (ws : List Nat) : (llcRoom s a ws).sq = s.sq := by
  simp only [llcRoom]
  repeat' split
  · rfl
  · rfl
  · rfl
  · exact llcEvict_sq _ _

@[simp] theorem llcFill_sq (s : State) (ctx a : Nat) : (llcFill s ctx a).sq = s.sq := by
  simp only [llcFill]
  repeat' split
  · rfl
  · rfl
  · rfl
  · exact llcRoom_sq _ _ _

@[simp] theorem llcWrite_sq (s : State) (ctx line a n : Nat) : (llcWrite s ctx line a n).sq = s.sq := by
  simp only [llcWrite]
  split
  · exact llcFill_sq s ctx line
  · exact llcFill_sq s ctx line

@[simp] theorem homePut_sq (s : State) (ctx a : Nat) (bs : List Byte) : (homePut s ctx a bs).sq = s.sq := by
  unfold homePut
  rw [rawWrite_sq]
  exact foldl_same (·.sq) (fun t line => llcWrite_sq t ctx line a bs.length) _ s

@[simp] theorem storeRecord_sq (s : State) (words : List Byte) : (storeRecord s words).sq = s.sq := homePut_sq s 0 _ _

@[simp] theorem pushRecord_sq (s : State) (f : Bool) (a b c : Nat) : (pushRecord s f a b c).sq = s.sq := by
  unfold pushRecord
  rw [raiseEvent_sq]
  split
  · exact storeRecord_sq s _
  · rfl

@[simp] theorem metaRecord_sq (s : State) (line code : Nat) : (metaRecord s line code).sq = s.sq := pushRecord_sq _ _ _ _ _

theorem errorRecord_sq (s : State) (kind : Nat) (ctx : Option Nat) (a b c d e f : Nat) :
    (errorRecord s kind ctx a b c d e f).sq = s.sq := pushRecord_sq _ _ _ _ _

@[simp] theorem loseMeta_sq (s : State) (line : Nat) : (loseMeta s line).sq = s.sq := setMeta_sq _ _ _

@[simp] theorem fetchMeta_sq (s : State) (line : Nat) : (fetchMeta s line).sq = s.sq := by
  simp only [fetchMeta]
  split
  · exact (metaRecord_sq _ _ _).trans (loseMeta_sq _ _)
  · rfl

@[simp] theorem noteCode_sq (s : State) (line : Nat) : (noteCode s line).sq = s.sq := by
  simp only [noteCode]
  split
  · exact (metaRecord_sq _ _ _).trans (setMeta_sq _ _ _)
  · rfl

@[simp] theorem noteOld_sq (s : State) (a : Nat) (old : List Byte) : (noteOld s a old).sq = s.sq := by
  unfold noteOld
  split <;> rfl

@[simp] theorem homeRead_sq (s : State) (ctx a n : Nat) : (homeRead s ctx a n).1.sq = s.sq := by
  have fill : ((linesOf a n).foldl (fun st line => llcFill (fetchMeta st line) ctx line) s).sq = s.sq :=
    foldl_same (·.sq) (fun t line => (llcFill_sq _ ctx line).trans (fetchMeta_sq t line)) _ s
  simp only [homeRead]
  split
  · exact fill
  · exact (foldl_same (fun st : State => st.sq) (fun t line => noteCode_sq t line) _ _).trans fill

@[simp] theorem refuseWrite_sq (s : State) (line code : Nat) : (refuseWrite s line code).1.sq = s.sq :=
  (metaRecord_sq _ _ _).trans (setMeta_sq _ _ _)

@[simp] theorem homeWritePart_sq (s : State) (ctx line a : Nat) (bs : List Byte) :
    (homeWritePart s ctx line a bs).1.sq = s.sq := by
  have found : (if metaFails s line then loseMeta s line else s).sq = s.sq := by
    split
    · exact loseMeta_sq s line
    · rfl
  simp only [homeWritePart]
  generalize (if metaFails s line then loseMeta s line else s) = t at found ⊢
  rw [← found]
  repeat' split
  · exact refuseWrite_sq _ _ _
  · exact (homePut_sq _ _ _ _).trans (noteOld_sq _ _ _)
  · exact refuseWrite_sq _ _ _
  · exact (homePut_sq _ _ _ _).trans (noteOld_sq _ _ _)

@[simp] theorem homeWrite_sq (s : State) (ctx a : Nat) (bs : List Byte) : (homeWrite s ctx a bs).1.sq = s.sq := by
  simp only [homeWrite]
  split
  · exact (homePut_sq _ _ _ _).trans (noteOld_sq _ _ _)
  · refine foldl_same (fun st : State × Bool => st.1.sq) ?_ _ (s, false)
    exact fun st line => homeWritePart_sq _ _ _ _ _

@[simp] theorem homeMerge_sq (s : State) (ctx a : Nat) (data : BitVec 512) (mask : BitVec 64) :
    (homeMerge s ctx a data mask).1.sq = s.sq := by
  simp only [homeMerge]
  split
  · exact homeWritePart_sq _ _ _ _ _
  · exact homeWritePart_sq _ _ _ _ _

@[simp] theorem contigLeaf_sq (s : State) (table va e : Nat) : (contigLeaf s table va e).1.sq = s.sq := by
  simp only [contigLeaf]
  repeat' split
  all_goals exact homeRead_sq _ _ _ _

theorem readEntry_sq (s : State) (core level a : Nat) : (readEntry s core level a).1.sq = s.sq := by
  unfold readEntry
  split
  · exact homeRead_sq s 0 a 8
  · rfl

/-- What reads of entries and the choice in a contiguity group keep, a walk keeps. -/
theorem walk_keeps {Q : State → Prop} {core : Nat} (entry : ∀ t level a, Q t → Q (readEntry t core level a).1)
    (contig : ∀ t a b c, Q t → Q (contigLeaf t a b c).1) {s : State} (h : Q s) (ctx va : Nat) : Q (walk s core ctx va).1 := by
  have last : ∀ t a, Q t → Q (walkLast t core a va).1 := by
    intro t a ht
    have e := entry t 2 (a + 8 * (va / 65536 % 8192)) ht
    unfold walkLast
    split
    · next f => rw [f] at e; exact e
    · next f =>
      rw [f] at e
      split
      · exact contig _ _ _ _ e
      · exact e
  have middle : ∀ t a, Q t → Q (walkMiddle t core a va).1 := by
    intro t a ht
    have e := entry t 1 (a + 8 * (va / 536870912 % 8192)) ht
    unfold walkMiddle
    split
    · next f => rw [f] at e; exact e
    · next f =>
      rw [f] at e
      split
      · exact e
      · exact last _ _ e
  unfold walk
  simp only
  split
  · exact h
  · split
    · next f =>
      have e := entry s 0 (entryPa (s.ctx ctx).ptbase.toNat + 8 * (va / 4398046511104 % 8192)) h
      rw [f] at e
      exact e
    · next f =>
      have e := entry s 0 (entryPa (s.ctx ctx).ptbase.toNat + 8 * (va / 4398046511104 % 8192)) h
      rw [f] at e
      exact middle _ _ e

@[simp] theorem walk_sq (s : State) (core ctx va : Nat) : (walk s core ctx va).1.sq = s.sq :=
  walk_keeps (Q := fun t => t.sq = s.sq) (fun _ _ _ h => (readEntry_sq _ _ _ _).trans h) (fun _ _ _ _ h => (contigLeaf_sq _ _ _ _).trans h)
    rfl ctx va

@[simp] theorem missWalk_sq (s : State) (core ctx va : Nat) : (missWalk s core ctx va).1.sq = s.sq := by
  have w := walk_sq s core ctx va
  unfold missWalk
  split
  · rfl
  · split
    · next e =>
      rw [e] at w
      simp only
      split
      · exact w
      · exact w
    · next e => rw [e] at w; exact w

@[simp] theorem translate_sq (s : State) (core ctx va : Nat) (need : Need) : (translate s core ctx va need).1.sq = s.sq := by
  have w := missWalk_sq s core ctx va
  unfold translate
  split
  · rfl
  · split
    · rfl
    · split
      · next e => rw [e] at w; exact w
      · next e => rw [e] at w; exact w

@[simp] theorem resolve_sq (s : State) (priv : Bool) (core ctx va : Nat) (need : Need) :
    (resolve s priv core ctx va need).1.sq = s.sq := by
  unfold resolve
  repeat' split
  · rfl
  · rfl
  · rfl
  · exact translate_sq _ _ _ _ _

@[simp] theorem resolveRange_sq (s : State) (priv : Bool) (core ctx va n : Nat) (need : Need) :
    (resolveRange s priv core ctx va n need).1.sq = s.sq := by
  refine foldl_same (fun st : State × (List (Nat × Nat) ⊕ (TrFault × Nat)) => st.1.sq) ?_ _ (s, .inl [])
  intro st p
  split
  · rfl
  · split
    · next e => exact (congrArg (fun r : State × (Nat ⊕ TrFault) => r.1.sq) e).symm.trans (resolve_sq _ _ _ _ _ _)
    · next e => exact (congrArg (fun r : State × (Nat ⊕ TrFault) => r.1.sq) e).symm.trans (resolve_sq _ _ _ _ _ _)

@[simp] theorem deviceWrite_sq (s : State) (priv : Bool) (ctx va : Nat) (bs : List Byte) :
    (deviceWrite s priv ctx va bs).1.sq = s.sq := by
  have res := resolveRange_sq s priv Config.mcCore ctx va bs.length needW
  unfold deviceWrite
  split
  · rfl
  · next e =>
    rw [e] at res
    split
    · exact res
    refine (foldl_same (fun st : State × List Byte × Bool => st.1.sq) ?_ _ _).trans res
    intro st p
    simp only
    split
    · exact homeWrite_sq _ _ _ _
    · rfl

/-- Noting that a crew starts touches no squad (R346). -/
@[simp] theorem noteBegin_sq (s : State) : (noteBegin s).sq = s.sq := by
  unfold noteBegin
  repeat' split
  all_goals rfl

/-- Noting the start of a grid touches no squad (R338). -/
@[simp] theorem noteStart_sq (s : State) : (noteStart s).sq = s.sq := by
  unfold noteStart
  simp only
  repeat' split
  · exact noteBegin_sq s
  · exact noteBegin_sq s
  · exact (deviceWrite_sq _ _ _ _ _).trans (noteBegin_sq s)

/-- What the own part of an instruction begins with. -/
theorem begun_regs (s : State) : (begun s).sq.regs = s.sq.regs := by simp only [begun, prepare, noteStart_sq]

theorem begun_x (s : State) (n : Nat) : (begun s).x n = s.x n := by simp only [State.x, begun_regs]

theorem begun_v (s : State) (n l : Nat) : (begun s).v n l = s.v n l := by simp only [State.v, begun_regs]

/-! ### Everything but what caches and TLBs hold -/

/-- t is s but for the lines present in the LLC and the poison that a replaced one hid, the translations held and the walks
outstanding, the survey's counts, and the count of free values. -/
def Quiet (s t : State) : Prop :=
  { t with llc := s.llc, poison := s.poison, tlb := s.tlb, tlb1 := s.tlb1, walks := s.walks, survey := s.survey, tickets := s.tickets } = s

theorem Quiet.out {s t : State} (h : Quiet s t) :
    { t with llc := s.llc, poison := s.poison, tlb := s.tlb, tlb1 := s.tlb1, walks := s.walks, survey := s.survey, tickets := s.tickets } = s := h

theorem Quiet.refl (s : State) : Quiet s s := rfl

theorem Quiet.trans {s t u : State} (h : Quiet s t) (g : Quiet t u) : Quiet s u := by
  unfold Quiet at *
  rw [← h, ← g]

theorem Quiet.mem {s t : State} (h : Quiet s t) : t.mem = s.mem := (congrArg State.mem h.out :)
theorem Quiet.codes {s t : State} (h : Quiet s t) : t.codes = s.codes := (congrArg State.codes h.out :)
theorem Quiet.latent {s t : State} (h : Quiet s t) : t.latent = s.latent := (congrArg State.latent h.out :)
theorem Quiet.l1 {s t : State} (h : Quiet s t) : t.l1 = s.l1 := (congrArg State.l1 h.out :)
theorem Quiet.sq {s t : State} (h : Quiet s t) : t.sq = s.sq := (congrArg State.sq h.out :)
theorem Quiet.dev {s t : State} (h : Quiet s t) : t.dev = s.dev := (congrArg State.dev h.out :)

theorem inWindow_eq {s t : State} (w : t.dev.mcwin = s.dev.mcwin) (a : Nat) : inWindow t a = inWindow s a := by
  unfold inWindow
  rw [w]

theorem heldCode_eq {s t : State} (c : t.codes = s.codes) (line : Nat) : heldCode t line = heldCode s line := by
  unfold heldCode
  rw [c]

theorem codeOf_eq {s t : State} (c : t.codes = s.codes) (w : t.dev.mcwin = s.dev.mcwin) (line : Nat) :
    codeOf t line = codeOf s line := by
  unfold codeOf
  rw [inWindow_eq w, heldCode_eq c]

theorem lineBytes_eq {s t : State} (m : t.mem = s.mem) (c : t.codes = s.codes) (w : t.dev.mcwin = s.dev.mcwin) (line : Nat) :
    lineBytes t line = lineBytes s line := by
  unfold lineBytes
  rw [codeOf_eq c w, m]

/-- Bytes at the homes depend on the cells, the codes and the windows alone. -/
theorem SameMemory.of_eq {s t : State} (m : t.mem = s.mem) (c : t.codes = s.codes) (w : t.dev.mcwin = s.dev.mcwin) :
    SameMemory s t := by
  intro a
  unfold State.byteAt
  rw [lineBytes_eq m c w]

theorem Quiet.memory {s t : State} (h : Quiet s t) : SameMemory s t :=
  SameMemory.of_eq h.mem h.codes (by rw [h.dev])

theorem assocGet_le {l : List (Nat × Nat)} {b : Nat} (h : ∀ c ∈ l, c.2 ≤ b) (k : Nat) : assocGet l k 0 ≤ b := by
  unfold assocGet
  split
  · next c e => exact h c (List.mem_of_find?_eq_some e)
  · exact Nat.zero_le b

theorem codeOf_le {s : State} (h : Legible s) (line : Nat) : codeOf s line ≤ 8 := by
  unfold codeOf
  split
  · exact assocGet_le h.codes _
  · exact Nat.zero_le 8

/-- A step that is quiet, and after which every line is still legible. -/
structure Calm (s t : State) : Prop where
  quiet   : Quiet s t
  legible : Legible t

theorem Calm.refl {s : State} (h : Legible s) : Calm s s := ⟨Quiet.refl s, h⟩

theorem Calm.trans {s t u : State} (h : Calm s t) (g : Calm t u) : Calm s u := ⟨h.quiet.trans g.quiet, g.legible⟩

theorem Calm.foldl {α : Type} {f : State → α → State} (step : ∀ s a, Legible s → Calm s (f s a)) (l : List α) {s : State}
    (h : Legible s) : Calm s (l.foldl f s) := by
  induction l generalizing s with
  | nil => exact Calm.refl h
  | cons a l ih => exact (step s a h).trans (ih (step s a h).legible)

/-- A quiet step after which no clean line of the LLC hides another code is calm. -/
theorem Calm.of_held {s t : State} (h : Legible s) (q : Quiet s t)
    (held : ∀ l ∈ t.llc, l.dirty = 0 → l.backCode = heldCode s l.addr) : Calm s t :=
  ⟨q, by rw [q.codes]; exact h.codes, by rw [q.latent]; exact h.latent, fun l hl hd => by rw [heldCode_eq q.codes]; exact held l hl hd⟩

theorem llcFind_mem {s : State} {a : Nat} {l : LlcLine} (e : llcFind s a = some l) : l ∈ s.llc := List.mem_of_find?_eq_some e

theorem llcSet_calm {s : State} (h : Legible s) {l : LlcLine} (e : l.dirty = 0 → l.backCode = heldCode s l.addr) :
    Calm s (llcSet s l) := by
  refine Calm.of_held h rfl fun k hk hd => ?_
  rcases List.mem_cons.1 hk with rfl | hk
  · exact e hd
  · exact h.held k (List.mem_filter.1 hk).1 hd

theorem ticket_calm {s : State} (h : Legible s) : Calm s s.ticket := Calm.of_held h rfl h.held

theorem countSurvey_calm {s : State} (h : Legible s) (r k n : Nat) : Calm s (s.countSurvey r k n) := Calm.of_held h rfl h.held

theorem llcClean_calm {s : State} (h : Legible s) (a : Nat) : Calm s (llcClean s a) := by
  simp only [llcClean]
  split
  · exact Calm.refl h
  · split
    · exact Calm.refl h
    · exact (countSurvey_calm h _ 2 1).trans (llcSet_calm (countSurvey_calm h _ 2 1).legible fun _ => rfl)

/-- A line that hides no other code is given up. -/
theorem llcShow_calm {s : State} (h : Legible s) {l : LlcLine} (e : l.backCode = heldCode s l.addr) : Calm s (llcShow s l) := by
  have rest {t : State} (q : Quiet s t) (m : t.llc = s.llc.filter fun k => k.addr != l.addr) : Calm s t :=
    Calm.of_held h q fun k hk hd => h.held k (List.mem_filter.1 (m ▸ hk)).1 hd
  have same : (heldCode s l.addr == l.backCode) = true := by simp [e]
  by_cases p : (linePoison s l.addr == l.backPoison) = true
  · simp only [llcShow, p, if_true, same]
    exact rest rfl rfl
  · have other (x : List Nat) : (heldCode { s with poison := x } l.addr == l.backCode) = true := same
    simp only [llcShow, p, other, if_true]
    exact rest rfl rfl

/-- A line of an address is that of its first byte. -/
theorem llcFind_addr {s : State} {a : Nat} {l : LlcLine} (e : llcFind s a = some l) : l.addr = a / 512 * 512 := by
  have := List.find?_some e
  simpa using this

theorem llcFind_set (s : State) (l : LlcLine) {a : Nat} (e : l.addr = a / 512 * 512) : llcFind (llcSet s l) a = some l := by
  unfold llcFind llcSet
  simp [e]

theorem llcEvict_calm {s : State} (h : Legible s) (a : Nat) : Calm s (llcEvict s a) := by
  have c := llcClean_calm h a
  have clean : ∀ l, llcFind (llcClean s a) a = some l → l.dirty = 0 := by
    simp only [llcClean]
    cases f : llcFind s a with
    | none => simp [f]
    | some k =>
      by_cases z : k.dirty = 0
      · simp only [z, beq_self_eq_true, if_true, f, Option.some.injEq]
        rintro l rfl
        exact z
      · simp only [beq_iff_eq, z, if_false]
        intro l e
        have at_ := llcFind_addr f
        rw [llcFind_set _ _ (by exact at_)] at e
        cases e
        rfl
  simp only [llcEvict]
  split
  · exact c
  · next l e => exact c.trans (llcShow_calm c.legible (c.legible.held l (llcFind_mem e) (clean l e)))

theorem llcRoom_calm {s : State} (h : Legible s) (a : Nat) (ws : List Nat) : Calm s (llcRoom s a ws) := by
  simp only [llcRoom]
  repeat' split
  · exact Calm.refl h
  · exact Calm.refl h
  · exact Calm.refl h
  · exact (ticket_calm h).trans (llcEvict_calm (ticket_calm h).legible _)

theorem llcFill_calm {s : State} (h : Legible s) (ctx a : Nat) : Calm s (llcFill s ctx a) := by
  simp only [llcFill]
  repeat' split
  · exact Calm.refl h
  · exact countSurvey_calm h _ _ _
  · exact countSurvey_calm h _ _ _
  · have c := (countSurvey_calm h (128 + sliceOf a) 1 1).trans
      (llcRoom_calm (countSurvey_calm h (128 + sliceOf a) 1 1).legible a
        (usableWays (s.countSurvey (128 + sliceOf a) 1 1) (sliceOf a)))
    exact c.trans ((ticket_calm c.legible).trans (llcSet_calm (ticket_calm c.legible).legible fun _ => rfl))

theorem fetchMeta_calm {s : State} (h : Legible s) (line : Nat) : fetchMeta s line = s := by
  unfold fetchMeta metaFails
  rw [if_neg]
  simp only [Bool.and_eq_true, List.contains_iff_mem, not_and]
  exact fun e => absurd e.1 (h.latent _)

theorem noteCode_calm {s : State} (h : Legible s) (line : Nat) : noteCode s line = s := by
  unfold noteCode
  have := codeOf_le h line
  simp only
  rw [if_neg (by omega)]

/-- A read at the homes changes what caches hold and nothing else, where every line is legible. -/
theorem homeRead_calm {s : State} (h : Legible s) (ctx a n : Nat) : Calm s (homeRead s ctx a n).1 := by
  have fill : Calm s ((linesOf a n).foldl (fun st line => llcFill (fetchMeta st line) ctx line) s) :=
    Calm.foldl (fun t line ht => by rw [fetchMeta_calm ht]; exact llcFill_calm ht ctx line) _ h
  simp only [homeRead]
  split
  · exact fill
  · exact fill.trans (Calm.foldl (fun t line ht => by rw [noteCode_calm ht]; exact Calm.refl ht) _ fill.legible)

theorem contigLeaf_calm {s : State} (h : Legible s) (table va e : Nat) : Calm s (contigLeaf s table va e).1 := by
  have r (a : Nat) := homeRead_calm h 0 a 256
  simp only [contigLeaf]
  repeat' split
  · exact r _
  · exact r _
  · exact (r _).trans (ticket_calm (r _).legible)
  · exact (r _).trans (ticket_calm (r _).legible)

theorem readEntry_calm {s : State} (h : Legible s) (core level a : Nat) : Calm s (readEntry s core level a).1 := by
  unfold readEntry
  split
  · exact homeRead_calm h 0 a 8
  · exact Calm.refl h

/-- A page walk changes what caches hold and nothing else, where every line is legible. -/
theorem walk_calm {s : State} (h : Legible s) (core ctx va : Nat) : Calm s (walk s core ctx va).1 :=
  walk_keeps (Q := fun t => Calm s t) (fun _ _ _ q => q.trans (readEntry_calm q.legible _ _ _))
    (fun _ _ _ _ q => q.trans (contigLeaf_calm q.legible _ _ _)) (Calm.refl h) ctx va

/-- What changes in no way that reading depends on is calm. -/
theorem Calm.of_eq {s t : State} (h : Legible s) (q : Quiet s t) (m : t.llc = s.llc) : Calm s t :=
  Calm.of_held h q fun l hl hd => h.held l (m ▸ hl) hd

theorem missWalk_calm {s : State} (h : Legible s) (core ctx va : Nat) : Calm s (missWalk s core ctx va).1 := by
  have w := walk_calm h core ctx va
  unfold missWalk
  split
  · exact Calm.refl h
  · split
    · next e =>
      rw [e] at w
      simp only
      split
      · exact w
      · exact w.trans (Calm.of_eq w.legible rfl rfl)
    · next e =>
      rw [e] at w
      exact w

theorem holdL1_calm {s : State} (h : Legible s) (core : Nat) (t : TlbEntry) : Calm s (holdL1 s core t) := by
  unfold holdL1
  generalize tlbPut _ _ _ _ = l
  exact Calm.of_eq h rfl rfl

theorem holdL2_calm {s : State} (h : Legible s) (core : Nat) (t : TlbEntry) : Calm s (holdL2 s core t) := by
  unfold holdL2
  generalize tlbPut _ _ _ _ = l
  exact Calm.of_eq h rfl rfl

theorem translate_calm {s : State} (h : Legible s) (core ctx va : Nat) (need : Need) :
    Calm s (translate s core ctx va need).1 := by
  have w := missWalk_calm h core ctx va
  unfold translate
  split
  · exact Calm.refl h
  · split
    · exact holdL1_calm h _ _
    · split
      · next e =>
        rw [e] at w
        exact w
      · next e =>
        rw [e] at w
        exact w.trans ((holdL2_calm w.legible _ _).trans (holdL1_calm (holdL2_calm w.legible _ _).legible _ _))

theorem resolve_calm {s : State} (h : Legible s) (priv : Bool) (core ctx va : Nat) (need : Need) :
    Calm s (resolve s priv core ctx va need).1 := by
  unfold resolve
  repeat' split
  · exact Calm.refl h
  · exact Calm.refl h
  · exact Calm.refl h
  · exact translate_calm h _ _ _ _

end Sys2Proof.Machine
end

