-- ==== Sys2Proof/Laws/Lanes.lean ====
section
/-! SUPPORT. What the shared operations of lane instructions do: lanes and masks, results written in enabled lanes, and the
end of a floating-point instruction. -/

namespace Sys2Proof.Machine

/-! ### Lanes and masks -/

theorem mem_laneList {m : Mask} {l : Nat} : l ∈ laneList m ↔ l < 32 ∧ m.getLsbD l = true := by simp [laneList]

theorem getLsbD_foldl_or (ls : List Nat) (m : Mask) (k : Nat) (hk : k < 32) :
    (ls.foldl (fun m l => m ||| BitVec.twoPow 32 l) m).getLsbD k = (m.getLsbD k || ls.contains k) := by
  induction ls generalizing m with
  | nil => simp
  | cons a ls ih =>
    rw [List.foldl_cons, ih, List.contains_cons, BitVec.getLsbD_or, BitVec.getLsbD_twoPow, Bool.or_assoc]
    congr 2
    by_cases h : a = k
    · subst h; simp [hk]
    · simp [h, Ne.symm h]

/-- Lane k is in the mask of a list when the list has it. -/
theorem getLsbD_maskOf (ls : List Nat) (k : Nat) (hk : k < 32) : (maskOf ls).getLsbD k = ls.contains k := by
  rw [maskOf, getLsbD_foldl_or ls 0 k hk]
  simp

/-! ### Results -/

theorem find_lane (f : Nat → LaneRes) (l : Nat) : ∀ ls : List Nat, l ∈ ls →
    (ls.map fun k => (k, f k)).find? (fun r => r.1 == l) = some (l, f l)
  | [], h => absurd h (by simp)
  | a :: ls, h => by
    by_cases e : a = l
    · subst e; simp
    · have : l ∈ ls := by simpa [Ne.symm e] using h
      simp [e, find_lane f l ls this]

/-- The result of an enabled lane in the list of results is that lane's. -/
theorem resultOf_laneResults (s : State) (f : Nat → LaneRes) (l : Nat) (h : l ∈ laneList s.sq.cur.enabled) :
    resultOf (laneResults s f) l = f l := by simp [resultOf, laneResults, find_lane f l _ h]

/-- Writes in the enabled lanes depend only on what those lanes write. -/
theorem putV_congr (s : State) (n : Nat) (f g : Nat → Word) (h : ∀ l ∈ laneList s.sq.cur.enabled, f l = g l) :
    s.putV n f = s.putV n g := by
  have : ∀ l : Fin 32, (if s.sq.cur.enabled.getLsbD l then f l else vget (vget s.sq.regs.v n) l)
      = if s.sq.cur.enabled.getLsbD l then g l else vget (vget s.sq.regs.v n) l := by
    intro l
    split
    · next e => exact h l (mem_laneList.2 ⟨l.2, e⟩)
    · rfl
  simp only [State.putV, State.setV, State.onSq, Regs.setV, this]

/-- A fold whose steps agree as long as P holds. -/
theorem foldl_agree {α β : Type} (P : β → Prop) {f g : β → α → β} (same : ∀ b a, P b → f b a = g b a)
    (keep : ∀ b a, P b → P (g b a)) : ∀ (l : List α) (b : β), P b → l.foldl f b = l.foldl g b
  | [], _, _ => rfl
  | a :: l, b, h => by rw [List.foldl_cons, List.foldl_cons, same b a h, foldl_agree P same keep l _ (keep b a h)]

theorem putV_enabled (s : State) (n : Nat) (f : Nat → Word) : (s.putV n f).sq.cur = s.sq.cur := rfl

/-- The results of the enabled lanes, as putResults writes them. -/
theorem putResults_eq (s : State) (d n : Nat) (f : Nat → LaneRes) :
    putResults s d n (laneResults s f) = s.putLanes d n f :=
  foldl_agree (fun t => t.sq.cur = s.sq.cur)
    (fun t k h => putV_congr t (d + k) _ _ fun l m => by rw [resultOf_laneResults s f l (h ▸ m)])
    (fun t k h => (putV_enabled t (d + k) _).trans h) _ s rfl

theorem laneResults_fx (s : State) (f : Nat → LaneRes) :
    ((laneResults s f).map fun r => (r.1, r.2.fx)) = (laneList s.sq.cur.enabled).map fun l => (l, (f l).fx) := by
  simp [laneResults]

theorem laneResults_sum (s : State) (f : Nat → LaneRes) (g : LaneRes → Nat) :
    (laneResults s f).foldl (fun x r => x + g r.2) 0 = sumIn s fun l => g (f l) := by
  simp [laneResults, sumIn, List.foldl_map]

/-- MODE and the handler marks that decide on a trap are the instruction's own (R57, R284). -/
theorem putLanes_keeps (s : State) (d n : Nat) (f : Nat → LaneRes) :
    (s.putLanes d n f).sq.mode = s.sq.mode ∧ (s.putLanes d n f).sq.thr = s.sq.thr ∧ (s.putLanes d n f).sq.flags = s.sq.flags := by
  have : ∀ (ks : List Nat) (s : State), let t := ks.foldl (fun t k => t.putV (d + k) fun l => (f l).words.getD k 0) s
      t.sq.mode = s.sq.mode ∧ t.sq.thr = s.sq.thr ∧ t.sq.flags = s.sq.flags := by
    intro ks
    induction ks with
    | nil => intro s; exact ⟨rfl, rfl, rfl⟩
    | cons k ks ih => intro s; exact ih _
  exact this _ s

theorem addStats_sq (s : State) (tag a b c : Nat) : (addStats s tag a b c).sq = s.sq := by
  unfold addStats
  split
  · rfl
  · dsimp only; split <;> rfl

/-- The end of a floating-point instruction without a trap: FLAGS gains what was raised (R58). -/
theorem finishFp_quiet {s : State} {fx : Fx} {dreg dcnt fmt : Nat} {pred : Bool} {raised : List (Nat × Fx)}
    (sum : raised.foldl (fun x r => x ||| r.2) 0 = fx) (quiet : enabledFx s fx = 0 ∨ inHandler s.sq = true) :
    finishFp s dreg dcnt pred fmt raised = .done (s.gain fx) := by
  unfold finishFp
  rw [sum]
  simp only [State.gain]
  rw [if_pos]
  rcases quiet with h | h <;> simp [h]

/-- A lane instruction without a trap. -/
theorem fpLanes_quiet (s : State) (d n fmt : Nat) (f : Nat → LaneRes) (quiet : Untrapped s fun l => (f l).fx) :
    fpLanes s d n fmt f = .done ((s.putLanes d n f).gain (raisedIn s fun l => (f l).fx)) := by
  obtain ⟨hm, ht, _⟩ := putLanes_keeps s d n f
  simp only [fpLanes, putResults_eq, laneResults_fx]
  refine finishFp_quiet ?_ ?_
  · simp [raisedIn, List.foldl_map]
  · simpa only [Untrapped, enabledFx, inHandler, hm, ht] using quiet

/-- The same with the statistics of a tensor tag. -/
theorem fpTagged_quiet (s : State) (d fmt : Nat) (f : Nat → LaneRes) (quiet : Untrapped s fun l => (f l).fx) :
    fpTagged s d fmt f = .done (((s.putLanes d 1 f).counted f s).gain (raisedIn s fun l => (f l).fx)) := by
  obtain ⟨hm, ht, _⟩ := putLanes_keeps s d 1 f
  simp only [fpTagged, putResults_eq, laneResults_fx, laneResults_sum, State.counted]
  refine finishFp_quiet ?_ ?_
  · simp [raisedIn, List.foldl_map]
  · simpa only [Untrapped, enabledFx, inHandler, addStats_sq, hm, ht] using quiet

/-- A floating-point comparison without a trap (R202). -/
theorem compareFloat_quiet (s : State) (p c a : Nat) (b : Nat → Word)
    (quiet : Untrapped s fun l => if (floatCond c (f32 s (s.v a l)) (f32 s (b l))).2 then 1 else 0) :
    compareFloat s p c a b = .done ((s.setP p s.sq.cur.enabled (maskOf ((laneList s.sq.cur.enabled).filter fun l =>
      (floatCond c (f32 s (s.v a l)) (f32 s (b l))).1))).gain
      (raisedIn s fun l => if (floatCond c (f32 s (s.v a l)) (f32 s (b l))).2 then 1 else 0)) := by
  simp only [compareFloat, List.filter_map, List.map_map]
  have e : (laneList s.sq.cur.enabled).filter ((fun r : Nat × Bool × Bool => r.2.1) ∘ fun l => (l, floatCond c (f32 s (s.v a l)) (f32 s (b l))))
      = (laneList s.sq.cur.enabled).filter fun l => (floatCond c (f32 s (s.v a l)) (f32 s (b l))).1 := rfl
  rw [e, show ((fun x : Nat × Bool × Bool => x.1) ∘ fun l => (l, floatCond c (f32 s (s.v a l)) (f32 s (b l)))) = id from rfl, List.map_id]
  refine finishFp_quiet ?_ ?_
  · simp [raisedIn, List.foldl_map, Function.comp_def]
  · simpa only [Untrapped, enabledFx, inHandler, State.setP, State.onSq] using quiet

/-- A shuffle whose source lanes hold no mark (R216, R225). -/
theorem shuffle_done (s : State) (d a : Nat) (src : Nat → Nat) (h : s.unmarked a (s.sourceLanes src)) :
    shuffle s d a src = .done (s.putV d fun l => s.v a (src l)) := by
  unfold State.unmarked State.sourceLanes at h
  have none_ : markFault [] = none := rfl
  simp only [shuffle, h, none_]

end Sys2Proof.Machine
end

