-- ==== Sys2Proof/Laws/Frames.lean ====
section
/-! SUPPORT. Frames of instructions that write registers: reading the files after a write (R54), what the end of an instruction
leaves unchanged, and the frame of an instruction from its completion. -/

namespace Sys2Proof.Machine

/-! ### Register files -/

theorem vget_vset_same {α : Type} {n : Nat} [NeZero n] (v : Vector α n) (i j : Nat) (x : α) (h : i % n = j % n) :
    vget (vset v i x) j = x := by simp [vget, vset, h]

theorem vget_vset_other {α : Type} {n : Nat} [NeZero n] (v : Vector α n) (i j : Nat) (x : α) (h : i % n ≠ j % n) :
    vget (vset v i x) j = vget v j := by simp [vget, vset, h]

theorem vget_ofFn {α : Type} (f : Fin 32 → α) (l : Nat) (h : l < 32) : vget (Vector.ofFn f) l = f ⟨l, h⟩ := by
  simp [vget, Nat.mod_eq_of_lt h]

/-- A vector register after a write in the lanes of a mask. -/
theorem setV_lane (r : Regs) (n k l : Nat) (m : Mask) (f : Nat → Word) (hl : l < 32) (hn : n < 128) (hk : k < 128) :
    (r.setV n m f).lane k l = if k = n ∧ m.getLsbD l = true then f l else r.lane k l := by
  unfold Regs.setV Regs.lane
  by_cases e : k = n
  · subst e
    rw [vget_vset_same _ _ _ _ rfl, vget_ofFn _ _ hl]
    simp
  · rw [vget_vset_other _ _ _ _ (by rw [Nat.mod_eq_of_lt hn, Nat.mod_eq_of_lt hk]; exact fun h => e h.symm)]
    simp [e]

theorem setV_sreg (r : Regs) (n k : Nat) (m : Mask) (f : Nat → Word) : (r.setV n m f).sreg k = r.sreg k := rfl

theorem setV_pred (r : Regs) (n k : Nat) (m : Mask) (f : Nat → Word) : (r.setV n m f).pred k = r.pred k := rfl

/-- A scalar register after a write: s0 stays 0 (R54). -/
theorem setS_sreg (r : Regs) (n k : Nat) (x : DWord) (hn : n < 64) (hk : k < 64) :
    (r.setS n x).sreg k = if k = n ∧ n ≠ 0 then x else r.sreg k := by
  unfold Regs.setS Regs.sreg
  rw [Nat.mod_eq_of_lt hn, Nat.mod_eq_of_lt hk]
  by_cases z : n = 0
  · simp [z]
  · rw [if_neg z]
    by_cases e : k = n
    · subst e
      simp [z, vget_vset_same]
    · rw [vget_vset_other _ _ _ _ (by rw [Nat.mod_eq_of_lt hn, Nat.mod_eq_of_lt hk]; exact fun h => e h.symm)]
      simp [e]

theorem setS_lane (r : Regs) (n k l : Nat) (x : DWord) : (r.setS n x).lane k l = r.lane k l := by
  unfold Regs.setS
  split <;> rfl

theorem setS_pred (r : Regs) (n k : Nat) (x : DWord) : (r.setS n x).pred k = r.pred k := by
  unfold Regs.setS
  split <;> rfl

/-- A predicate after a write in the lanes of a mask: p0 stays true (R54). -/
theorem setP_pred (r : Regs) (n k l : Nat) (m x : Mask) (hn : n < 8) (hk : k < 8) (hl : l < 32) :
    ((r.setP n m x).pred k).getLsbD l =
      if k = n ∧ n ≠ 0 ∧ m.getLsbD l = true then x.getLsbD l else (r.pred k).getLsbD l := by
  unfold Regs.setP Regs.pred
  rw [Nat.mod_eq_of_lt hn, Nat.mod_eq_of_lt hk]
  by_cases z : n = 0
  · simp [z]
  · rw [if_neg z]
    by_cases e : k = n
    · subst e
      rw [if_neg z, if_neg z, vget_vset_same _ _ _ _ rfl]
      have q : k ≠ 0 := z
      rw [BitVec.getLsbD_or, BitVec.getLsbD_and, BitVec.getLsbD_and, BitVec.getLsbD_not]
      cases m.getLsbD l <;> simp [q, hl]
    · rw [vget_vset_other _ _ _ _ (by rw [Nat.mod_eq_of_lt hn, Nat.mod_eq_of_lt hk]; exact fun h => e h.symm)]
      simp [e]

theorem setP_lane (r : Regs) (n k l : Nat) (m x : Mask) : (r.setP n m x).lane k l = r.lane k l := by
  unfold Regs.setP
  split <;> rfl

theorem setP_sreg (r : Regs) (n k : Nat) (m x : Mask) : (r.setP n m x).sreg k = r.sreg k := by
  unfold Regs.setP
  split <;> rfl

/-! ### The end of an instruction -/

/-- Two squads agree on everything but their files, poison marks, flags, threads' places and cursor. -/
def SquadLike (s t : State) : Prop :=
  KeepsSpecial s t ∧ t.sq.mode = s.sq.mode ∧ t.sq.ops = s.sq.ops

/-- The instruction that the quantum counts, and the group that ran it (R41). -/
def counting (u : State) : State :=
  u.onSq fun q => { q with thr := { q.thr with quantum := q.thr.quantum + 1, ran := q.cur.active, held := 0 } }

theorem issued_cases (u : State) : issued u = (counting u).countSurvey (counting u).sq.ident.core 0 1 ∨ issued u = counting u := by
  show (if (counting u).sq.ident.core < 128 then _ else _) = _ ∨ _
  by_cases h : (counting u).sq.ident.core < 128
  · exact .inl (if_pos h)
  · exact .inr (if_neg h)

theorem ended_regs (u : State) : (ended u).sq.regs = u.sq.regs := by
  unfold ended
  rcases issued_cases u with e | e <;> rw [e] <;> rfl

theorem ended_flags (u : State) : (ended u).sq.flags = u.sq.flags := by
  unfold ended
  rcases issued_cases u with e | e <;> rw [e] <;> rfl

theorem ended_grids (u : State) : (ended u).grids = u.grids := by
  unfold ended
  rcases issued_cases u with e | e <;> rw [e] <;> rfl

theorem ended_like (u : State) : SquadLike u (ended u) := by
  unfold ended
  rcases issued_cases u with e | e <;> rw [e] <;> exact ⟨⟨rfl, rfl, rfl, rfl, rfl, rfl, rfl, rfl⟩, rfl, rfl⟩

theorem prepare_like (n : State) : SquadLike n (prepare n) := by
  unfold SquadLike prepare
  exact ⟨⟨rfl, rfl, rfl, rfl, rfl, rfl, rfl, rfl⟩, rfl, rfl⟩

theorem begun_like (s : State) : SquadLike s (begun s) := by
  obtain ⟨⟨a1, a2, a3, a4, a5, a6, a7, a8⟩, a9, a10⟩ := prepare_like (noteStart s)
  rw [noteStart_sq] at a1 a2 a3 a4 a5 a6 a7 a8 a9 a10
  exact ⟨⟨a1, a2, a3, a4, a5, a6, a7, a8⟩, a9, a10⟩

/-- A state with the squad of another. -/
def State.withSq (u s : State) : State := { u with sq := s.sq }

theorem prepare_eq (n : State) : prepare n = { n with sq := (prepare n).sq } := rfl

theorem prepare_grids (n : State) : (prepare n).grids = n.grids := by
  unfold prepare
  rfl

/-- What the own part of an instruction did outside the squad is what the instruction did. -/
theorem prepared_rest (n u b : State) (hb : b = prepare n) (h : u.withSq b = b) :
    { u with sq := n.sq, survey := n.survey, grids := n.grids } = n := by
  rw [hb.trans (prepare_eq n), State.withSq] at h
  generalize (prepare n).sq = q at h
  exact (congrArg (fun t : State => { t with sq := n.sq, survey := n.survey, grids := n.grids }) h :)

theorem begun_flags (s : State) : (begun s).sq.flags = s.sq.flags := by simp only [begun, prepare, noteStart_sq]

theorem SquadLike.trans {s t u : State} (h : SquadLike s t) (g : SquadLike t u) : SquadLike s u := by
  obtain ⟨⟨a1, a2, a3, a4, a5, a6, a7, a8⟩, a9, a10⟩ := h
  obtain ⟨⟨b1, b2, b3, b4, b5, b6, b7, b8⟩, b9, b10⟩ := g
  exact ⟨⟨b1.trans a1, b2.trans a2, b3.trans a3, b4.trans a4, b5.trans a5, b6.trans a6, b7.trans a7, b8.trans a8⟩,
    b9.trans a9, b10.trans a10⟩

/-- A completed instruction changed the device only through the state that its own part left. -/
theorem ended_device {s u : State} (h : { u with sq := s.sq, survey := s.survey, grids := s.grids } = s) :
    KeepsDevice s (ended u) := by
  have e : { ended u with sq := s.sq, survey := s.survey, grids := s.grids } = s := by
    refine Eq.trans ?_ h
    unfold ended
    rcases issued_cases u with e | e <;> rw [e] <;> rfl
  exact ⟨e, SameMemory.of_eq (congrArg State.mem e :) (congrArg State.codes e :) (congrArg (fun t : State => t.dev.mcwin) e :)⟩

/-! ### Frames from completions -/

/-- The frame of an instruction whose own part changes the squad alone. -/
theorem framed_of {P : State → Prop} {i : Instr} {f : State → State} {vs ss ps : List Nat} {m : State → Mask}
    (gives : GivesWhen P i f)
    (files : ∀ p, KeepsFiles p (f p) vs ss ps (m p))
    (like : ∀ p, SquadLike p (f p)) (flags : ∀ p, (f p).sq.flags = p.sq.flags)
    (rest : ∀ p : State, (f p).withSq p = p) : Framed P i vs ss ps m := by
  intro s t hi hp e
  rw [gives s hi hp] at e
  cases e
  obtain ⟨v, x, q⟩ := files (begun s)
  obtain ⟨k1, k2, k3⟩ := ((begun_like s).trans (like (begun s))).trans (ended_like (f (begun s)))
  refine ⟨⟨fun n l hn hl h => ?_, fun n hn h => ?_, fun n l hn hl h => ?_⟩, k1, k2, ?_, k3, ended_device ?_, ?_⟩
  · rw [← begun_v s, ← v n l hn hl h]
    simp only [State.v, ended_regs]
  · rw [← begun_x s, ← x n hn h]
    simp only [State.x, ended_regs]
  · rw [← begun_regs s, ← q n l hn hl h, ended_regs]
  · rw [ended_flags, flags, begun_flags]
  · exact prepared_rest (noteStart s) (f (begun s)) (begun s) rfl (rest (begun s))
  · rw [ended_grids]
    exact (congrArg State.grids (rest (begun s)) :).trans (prepare_grids (noteStart s))

theorem framed_setV {P : State → Prop} {i : Instr} {d : Nat} {m : State → Mask} {f : State → Nat → Word} (hd : d < 128)
    (gives : GivesWhen P i fun p => p.setV d (m p) (f p)) : Framed P i [d] [] [] m := by
  refine framed_of gives (fun p => ⟨fun n l hn hl h => ?_, fun n _ _ => rfl, fun n l _ _ _ => rfl⟩)
    (fun p => ⟨⟨rfl, rfl, rfl, rfl, rfl, rfl, rfl, rfl⟩, rfl, rfl⟩) (fun p => rfl) fun p => rfl
  show (p.sq.regs.setV d (m p) (f p)).lane n l = p.sq.regs.lane n l
  rw [setV_lane _ _ _ _ _ _ hl hd hn, if_neg]
  rintro ⟨rfl, e⟩
  rcases h with h | h
  · exact h (List.mem_singleton.2 rfl)
  · rw [h] at e
    exact absurd e (by simp)

theorem framed_setX {P : State → Prop} {i : Instr} {d : Nat} {m : State → Mask} {f : State → DWord} (hd : d < 64)
    (gives : GivesWhen P i fun p => p.setX d (f p)) : Framed P i [] [d] [] m := by
  refine framed_of gives (fun p => ⟨fun n l _ _ _ => ?_, fun n hn h => ?_, fun n l _ _ _ => ?_⟩)
    (fun p => ⟨⟨rfl, rfl, rfl, rfl, rfl, rfl, rfl, rfl⟩, rfl, rfl⟩) (fun p => rfl) fun p => rfl
  · exact setS_lane _ _ _ _ _
  · show (p.sq.regs.setS d (f p)).sreg n = p.sq.regs.sreg n
    rw [setS_sreg _ _ _ _ hd hn, if_neg]
    rintro ⟨rfl, _⟩
    exact h (List.mem_singleton.2 rfl)
  · show ((p.sq.regs.setS d (f p)).pred n).getLsbD l = _
    rw [setS_pred]

theorem framed_setP {P : State → Prop} {i : Instr} {d : Nat} {m : State → Mask} {f : State → Mask} (hd : d < 8)
    (gives : GivesWhen P i fun p => p.setP d (m p) (f p)) : Framed P i [] [] [d] m := by
  refine framed_of gives (fun p => ⟨fun n l _ _ _ => ?_, fun n hn h => ?_, fun n l hn hl h => ?_⟩)
    (fun p => ⟨⟨rfl, rfl, rfl, rfl, rfl, rfl, rfl, rfl⟩, rfl, rfl⟩) (fun p => rfl) fun p => rfl
  · exact setP_lane _ _ _ _ _ _
  · exact setP_sreg _ _ _ _ _
  · show ((p.sq.regs.setP d (m p) (f p)).pred n).getLsbD l = _
    rw [setP_pred _ _ _ _ _ _ hd hn hl, if_neg]
    rintro ⟨rfl, _, e⟩
    rcases h with h | h
    · exact h (List.mem_singleton.2 rfl)
    · rw [h] at e
      exact absurd e (by simp)

end Sys2Proof.Machine
end

