-- ==== Sys2Proof/Laws/Memory.lean ====
section
/-! SUPPORT. Memory as a canonical list of cells: every operation keeps the form, and a read after a write gives the value written
where it was written and the old value elsewhere. -/

namespace Sys2Proof.Machine

/-! ### The canonical form -/

theorem wf_nil : Memory.wf [] := ⟨List.Pairwise.nil, fun _ h => absurd h (by simp)⟩

theorem wf_filter {m : List Host.Cell} (p : Host.Cell → Bool) (h : Memory.wf m) : Memory.wf (m.filter p) :=
  ⟨h.1.filter p, fun c hc => h.2 c (List.mem_filter.1 hc).1⟩

/-- Two memories in the form, one below the other, make one in the form. -/
theorem wf_append {m n : List Host.Cell} (hm : Memory.wf m) (hn : Memory.wf n) (h : ∀ c ∈ m, ∀ d ∈ n, c.1 < d.1) :
    Memory.wf (m ++ n) :=
  ⟨List.pairwise_append.2 ⟨hm.1, hn.1, h⟩, fun c hc => (List.mem_append.1 hc).elim (hm.2 c) (hn.2 c)⟩

/-- The cells of bytes at a lie in their range and list no byte that reads so unlisted. -/
theorem mem_cellsAt {c : Host.Cell} : ∀ {a : Nat} {bs : List Byte}, c ∈ cellsAt a bs →
    a ≤ c.1 ∧ c.1 < a + bs.length ∧ c.2 ≠ unlisted c.1
  | a, b :: bs, h => by
    unfold cellsAt at h
    split at h
    · obtain ⟨h1, h2, h3⟩ := mem_cellsAt h
      exact ⟨by omega, by simp only [List.length_cons]; omega, h3⟩
    · next e =>
      rcases List.mem_cons.1 h with rfl | h
      · exact ⟨Nat.le_refl _, by simp only [List.length_cons]; omega, e⟩
      · obtain ⟨h1, h2, h3⟩ := mem_cellsAt h
        exact ⟨by omega, by simp only [List.length_cons]; omega, h3⟩

theorem cellsAt_wf : ∀ (a : Nat) (bs : List Byte), Memory.wf (cellsAt a bs)
  | _, [] => wf_nil
  | a, b :: bs => by
    unfold cellsAt
    split
    · exact cellsAt_wf (a + 1) bs
    · next e =>
      have ih := cellsAt_wf (a + 1) bs
      refine ⟨List.pairwise_cons.2 ⟨fun c hc => ?_, ih.1⟩, fun c hc => ?_⟩
      · have := (mem_cellsAt hc).1; show a < c.1; omega
      · rcases List.mem_cons.1 hc with rfl | hc
        · exact e
        · exact ih.2 c hc

/-- Cells below a, cells from a to b, and cells from b on make one memory. -/
theorem wf_between {m n : List Host.Cell} {a b : Nat} (hm : Memory.wf m) (hn : Memory.wf n) (ab : a ≤ b)
    (h : ∀ c ∈ n, a ≤ c.1 ∧ c.1 < b) :
    Memory.wf (m.filter (fun c => c.1 < a) ++ n ++ m.filter fun c => b ≤ c.1) := by
  refine wf_append (wf_append (wf_filter _ hm) hn fun c hc d hd => ?_) (wf_filter _ hm) fun c hc d hd => ?_
  · have h1 : c.1 < a := by simpa using (List.mem_filter.1 hc).2
    have h2 := (h d hd).1
    omega
  · have h2 : b ≤ d.1 := by simpa using (List.mem_filter.1 hd).2
    rcases List.mem_append.1 hc with hc | hc
    · have h1 : c.1 < a := by simpa using (List.mem_filter.1 hc).2
      omega
    · have h1 := (h c hc).2
      omega

theorem memPut_wf {m : List Host.Cell} (a : Nat) (bs : List Byte) (h : Memory.wf m) : Memory.wf (memPut m a bs) :=
  wf_between h (cellsAt_wf a bs) (Nat.le_add_right _ _) fun _ hc => ⟨(mem_cellsAt hc).1, (mem_cellsAt hc).2.1⟩

theorem memPutNat_wf {m : List Host.Cell} (a n x : Nat) (h : Memory.wf m) : Memory.wf (memPutNat m a n x) := memPut_wf a _ h

theorem memClear_wf {m : List Host.Cell} (a n : Nat) (h : Memory.wf m) : Memory.wf (memClear m a n) := wf_filter _ h

theorem putPieces_wf : ∀ {m : List Host.Cell} (ps : List (Nat × Nat)) (bs : List Byte), Memory.wf m →
    Memory.wf (putPieces m ps bs)
  | _, [], _, h => h
  | _, (a, n) :: ps, bs, h => putPieces_wf ps (bs.drop n) (memPut_wf a (bs.take n) h)

theorem rawWrite_wf {s : State} (a : Nat) (bs : List Byte) (h : Memory.wf s.mem) : Memory.wf (rawWrite s a bs).mem :=
  memPut_wf a bs h

/-- What each step of a fold keeps, the fold keeps. -/
theorem foldl_keeps {α β : Type} {P : β → Prop} {f : β → α → β} (keep : ∀ b a, P b → P (f b a)) :
    ∀ (l : List α) (b : β), P b → P (l.foldl f b)
  | [], _, h => h
  | a :: l, b, h => foldl_keeps keep l (f b a) (keep b a h)

theorem spadWrite_wf {s : State} (banks : List Nat) (o : Nat) (bs : List Byte) (h : Memory.wf s.mem) :
    Memory.wf (spadWrite s banks o bs).mem :=
  foldl_keeps (P := fun st : State × List Byte => Memory.wf st.1.mem) (fun st p hs => rawWrite_wf p.1 (st.2.take p.2) hs) _ (s, bs) h

theorem rowWrite_wf {s : State} (crew row c : Nat) (xs : List Nat) (h : Memory.wf s.mem) :
    Memory.wf (rowWrite s crew row c xs).mem := memPut_wf _ _ h

theorem placeCode_wf {s : State} (a : Nat) (bs : List Byte) (h : Memory.wf s.mem) : Memory.wf (placeCode s a bs).mem :=
  memPut_wf a bs h

/-- Moved cells that would read so unlisted at their new place are not listed. -/
theorem moveBank_wf {s : State} (a b : Nat) (h : Memory.wf s.mem) : Memory.wf (moveBank s a b).mem := by
  refine wf_between (memClear_wf _ _ (memClear_wf _ _ h)) ⟨List.Pairwise.filter _ ?_, fun c hc => by simpa using (List.mem_filter.1 hc).2⟩
    (Nat.le_add_right _ _) fun c hc => ?_
  · rw [List.pairwise_map]
    refine (h.1.filter _).imp_of_mem fun {c d} hc hd lt => ?_
    have h1 := (List.mem_filter.1 hc).2
    have h2 := (List.mem_filter.1 hd).2
    simp only [Bool.and_eq_true, decide_eq_true_eq] at h1 h2
    show c.1 - bankKey a 0 + bankKey b 0 < d.1 - bankKey a 0 + bankKey b 0
    omega
  · obtain ⟨d, hd, rfl⟩ := List.mem_map.1 (List.mem_filter.1 hc).1
    have h1 := (List.mem_filter.1 hd).2
    simp only [Bool.and_eq_true, decide_eq_true_eq] at h1
    constructor
    · exact Nat.le_add_left _ _
    · show d.1 - bankKey a 0 + bankKey b 0 < bankKey b 0 + 131072
      omega

/-! ### Reading -/

theorem memGet_nil (a : Nat) : memGet [] a = unlisted a := rfl

/-- A cell that a list has is what is read there, in a memory whose addresses differ. -/
theorem memGet_append (m n : List Host.Cell) (a : Nat) :
    memGet (m ++ n) a = if ∃ c ∈ m, c.1 = a then memGet m a else memGet n a := by
  unfold memGet
  rw [List.find?_append]
  by_cases h : ∃ c ∈ m, c.1 = a
  · rw [if_pos h]
    obtain ⟨c, hc, e⟩ := h
    have : (m.find? fun c => c.1 == a).isSome := by
      rw [List.find?_isSome]
      exact ⟨c, hc, by simp [e]⟩
    cases e2 : m.find? (fun c => c.1 == a) with
    | none => simp [e2] at this
    | some d => simp
  · rw [if_neg h]
    have : m.find? (fun c => c.1 == a) = none := by
      rw [List.find?_eq_none]
      intro c hc
      simp only [beq_iff_eq]
      exact fun e => h ⟨c, hc, e⟩
    rw [this]
    rfl

/-- A filter that keeps address a keeps what is read there. -/
theorem memGet_filter_keep (m : List Host.Cell) (p : Host.Cell → Bool) (a : Nat) (h : ∀ c ∈ m, c.1 = a → p c = true) :
    memGet (m.filter p) a = memGet m a := by
  unfold memGet
  congr 1
  rw [List.find?_filter]
  induction m with
  | nil => rfl
  | cons c m ih =>
    rw [List.find?_cons, List.find?_cons]
    have ih := ih fun d hd => h d (List.mem_cons_of_mem _ hd)
    by_cases e : c.1 = a
    · simp [e, h c (by simp) e]
    · have f : (c.1 == a) = false := by simp [e]
      rw [f, show decide (p c = true ∧ false = true) = false by simp]
      exact ih

/-- A filter that drops address a leaves what an unlisted byte reads as. -/
theorem memGet_filter_drop (m : List Host.Cell) (p : Host.Cell → Bool) (a : Nat) (h : ∀ c ∈ m, c.1 = a → p c = false) :
    memGet (m.filter p) a = unlisted a := by
  unfold memGet
  have : (m.filter p).find? (fun c => c.1 == a) = none := by
    rw [List.find?_eq_none]
    intro c hc
    obtain ⟨h1, h2⟩ := List.mem_filter.1 hc
    simp only [beq_iff_eq]
    intro e
    rw [h c h1 e] at h2
    exact absurd h2 (by simp)
  rw [this]

theorem memGet_cellsAt : ∀ (bs : List Byte) (a i : Nat), memGet (cellsAt a bs) (a + i) = if h : i < bs.length then bs[i] else unlisted (a + i)
  | [], a, i => by simp [cellsAt, memGet_nil]
  | b :: bs, a, 0 => by
    unfold cellsAt
    split
    · next e =>
      have : memGet (cellsAt (a + 1) bs) a = unlisted a := by
        unfold memGet
        have : (cellsAt (a + 1) bs).find? (fun c => c.1 == a) = none := by
          rw [List.find?_eq_none]
          intro c hc
          have := (mem_cellsAt hc).1
          simp only [beq_iff_eq]
          omega
        rw [this]
      simpa [this] using e.symm
    · simp [memGet]
  | b :: bs, a, i + 1 => by
    have ih := memGet_cellsAt bs (a + 1) i
    have e : a + 1 + i = a + (i + 1) := by omega
    unfold cellsAt
    split
    · rw [← e, ih]; simp
    · have : memGet ((a, b) :: cellsAt (a + 1) bs) (a + (i + 1)) = memGet (cellsAt (a + 1) bs) (a + (i + 1)) := by
        unfold memGet
        rw [List.find?_cons]
        have : ((a, b).1 == a + (i + 1)) = false := by simp
        rw [this]
      rw [this, ← e, ih]
      simp

/-- A byte outside a write is as before. -/
theorem memGet_memPut_out (m : List Host.Cell) (a : Nat) (bs : List Byte) (k : Nat) (h : k < a ∨ a + bs.length ≤ k) :
    memGet (memPut m a bs) k = memGet m k := by
  have nc : ¬ ∃ c ∈ cellsAt a bs, c.1 = k := by
    rintro ⟨c, hc, rfl⟩
    have := mem_cellsAt hc
    omega
  unfold memPut
  rw [List.append_assoc, memGet_append, memGet_append]
  rcases h with h | h
  · have keep : memGet (m.filter fun c => decide (c.1 < a)) k = memGet m k :=
      memGet_filter_keep _ _ _ fun c _ e => by simp [e, h]
    split
    · exact keep
    · next none_ =>
      have hi : memGet (m.filter fun c => decide (a + bs.length ≤ c.1)) k = unlisted k :=
        memGet_filter_drop _ _ _ fun c _ e => by simp; omega
      have lo : memGet (m.filter fun c => decide (c.1 < a)) k = unlisted k := by
        unfold memGet
        have : (m.filter fun c => decide (c.1 < a)).find? (fun c => c.1 == k) = none := by
          rw [List.find?_eq_none]
          intro c hc
          simp only [beq_iff_eq]
          exact fun e => none_ ⟨c, hc, e⟩
        rw [this]
      rw [hi, ← lo, keep]
  · have no : ¬ ∃ c ∈ m.filter (fun c => decide (c.1 < a)), c.1 = k := by
      rintro ⟨c, hc, rfl⟩
      have : c.1 < a := by simpa using (List.mem_filter.1 hc).2
      omega
    rw [if_neg no, if_neg nc]
    exact memGet_filter_keep _ _ _ fun c _ e => by simp [e, h]

/-- A byte that was written reads as written. -/
theorem memGet_memPut_in (m : List Host.Cell) (a : Nat) (bs : List Byte) (i : Nat) (h : i < bs.length) :
    memGet (memPut m a bs) (a + i) = bs[i] := by
  have no : ¬ ∃ c ∈ m.filter (fun c => decide (c.1 < a)), c.1 = a + i := by
    rintro ⟨c, hc, e⟩
    have : c.1 < a := by simpa using (List.mem_filter.1 hc).2
    omega
  have hi : memGet (m.filter fun c => decide (a + bs.length ≤ c.1)) (a + i) = unlisted (a + i) :=
    memGet_filter_drop _ _ _ fun c _ e => by simp; omega
  have at_ := memGet_cellsAt bs a i
  rw [dif_pos h] at at_
  unfold memPut
  rw [List.append_assoc, memGet_append, if_neg no, memGet_append]
  split
  · exact at_
  · next none_ =>
    rw [hi, ← at_]
    unfold memGet
    have : (cellsAt a bs).find? (fun c => c.1 == a + i) = none := by
      rw [List.find?_eq_none]
      intro c hc
      simp only [beq_iff_eq]
      exact fun e => none_ ⟨c, hc, e⟩
    rw [this]

theorem memGet_memClear (m : List Host.Cell) (a n k : Nat) :
    memGet (memClear m a n) k = if a ≤ k ∧ k < a + n then unlisted k else memGet m k := by
  unfold memClear
  split
  · next h => exact memGet_filter_drop _ _ _ fun c _ e => by simp [e]; omega
  · next h => exact memGet_filter_keep _ _ _ fun c _ e => by simp [e]; omega

/-- A range read is its bytes. -/
theorem memRead_eq (m : List Host.Cell) (a n : Nat) : memRead m a n = (List.range n).map fun i => memGet m (a + i) := by
  unfold memRead
  refine List.map_congr_left fun i hi => ?_
  have : i < n := List.mem_range.1 hi
  exact memGet_filter_keep _ _ _ fun c _ e => by simp [e]; omega

theorem memRead_length (m : List Host.Cell) (a n : Nat) : (memRead m a n).length = n := by simp [memRead]

/-- Reading back what was written. -/
theorem memRead_memPut (m : List Host.Cell) (a : Nat) (bs : List Byte) : memRead (memPut m a bs) a bs.length = bs := by
  rw [memRead_eq]
  apply List.ext_getElem
  · simp
  · intro i h1 h2
    simp only [List.length_map, List.length_range] at h1
    simpa using memGet_memPut_in m a bs i h1

/-- Reading a range that a write does not meet. -/
theorem memRead_memPut_out (m : List Host.Cell) (a : Nat) (bs : List Byte) (b n : Nat) (h : b + n ≤ a ∨ a + bs.length ≤ b) :
    memRead (memPut m a bs) b n = memRead m b n := by
  rw [memRead_eq, memRead_eq]
  refine List.map_congr_left fun i hi => ?_
  have : i < n := List.mem_range.1 hi
  exact memGet_memPut_out _ _ _ _ (by omega)

/-! ### Numbers as bytes -/

theorem leBytes_length : ∀ n x : Nat, (leBytes n x).length = n
  | 0, _ => rfl
  | n + 1, x => by rw [leBytes, List.length_cons, leBytes_length n]

/-- Bytes of a number are read as its low part (R17). -/
theorem leNat_leBytes : ∀ n x : Nat, leNat (leBytes n x) = x % 256 ^ n
  | 0, x => by simp [leBytes, leNat, Nat.mod_one]
  | n + 1, x => by
    rw [leBytes, leNat, leNat_leBytes n, Nat.pow_succ, Nat.mul_comm (256 ^ n) 256, Nat.mod_mul]
    simp

/-- A number written and read. -/
theorem memNat_memPutNat (m : List Host.Cell) (a n x : Nat) : memNat (memPutNat m a n x) a n = x % 256 ^ n := by
  have := memRead_memPut m a (leBytes n x)
  rw [leBytes_length] at this
  rw [memNat, memPutNat, this, leNat_leBytes]

end Sys2Proof.Machine
end

