-- ==== Sys2Proof/Laws/PerInstr.lean ====
section
/-! SUPPORT. A family of claims about every instruction as syntax, one lemma per constructor. Shape: a device step has no word;
every other instruction has a word of one or two halfwords, and bit 0 of the first tells which (R138). -/

namespace Sys2Proof.Laws

namespace Shape

/-- A device step has no word; an instruction has one of 16 bits with bit 0 clear, or of 32 bits with bit 0 set (R138). -/
def Statement (i : Instr) : Prop :=
  if (Machine.traitsOf i).device then encode i = none
  else ∃ n w, encode i = some (n, w) ∧ ((n = 16 ∧ w % 2 = 0) ∨ (n = 32 ∧ w % 2 = 1))

theorem of_step {i : Instr} (t : (Machine.traitsOf i).device = true) (h : encode i = none) : Statement i := by
  simpa only [Statement, t, if_true] using h

theorem of_halfword {i : Instr} (w : Nat) (t : (Machine.traitsOf i).device = false) (h : encode i = some (16, w)) (e : w % 2 = 0) :
    Statement i := by
  simp only [Statement, t, Bool.false_eq_true, if_false]
  exact ⟨16, w, h, .inl ⟨rfl, e⟩⟩

theorem of_word {i : Instr} (w : Nat) (t : (Machine.traitsOf i).device = false) (h : encode i = some (32, w)) (e : w % 2 = 1) :
    Statement i := by
  simp only [Statement, t, Bool.false_eq_true, if_false]
  exact ⟨32, w, h, .inr ⟨rfl, e⟩⟩

theorem mov16 (d : BitVec 5) (a : BitVec 5) : Statement (.mov16 d a) :=
  of_halfword _ rfl rfl (by simp only [put]; omega)
theorem add16 (d : BitVec 5) (a : BitVec 5) : Statement (.add16 d a) :=
  of_halfword _ rfl rfl (by simp only [put]; omega)
theorem sub16 (d : BitVec 5) (a : BitVec 5) : Statement (.sub16 d a) :=
  of_halfword _ rfl rfl (by simp only [put]; omega)
theorem mul16 (d : BitVec 5) (a : BitVec 5) : Statement (.mul16 d a) :=
  of_halfword _ rfl rfl (by simp only [put]; omega)
theorem and16 (d : BitVec 5) (a : BitVec 5) : Statement (.and16 d a) :=
  of_halfword _ rfl rfl (by simp only [put]; omega)
theorem or16 (d : BitVec 5) (a : BitVec 5) : Statement (.or16 d a) :=
  of_halfword _ rfl rfl (by simp only [put]; omega)
theorem xor16 (d : BitVec 5) (a : BitVec 5) : Statement (.xor16 d a) :=
  of_halfword _ rfl rfl (by simp only [put]; omega)
theorem shl16 (d : BitVec 5) (a : BitVec 5) : Statement (.shl16 d a) :=
  of_halfword _ rfl rfl (by simp only [put]; omega)
theorem shr16 (d : BitVec 5) (a : BitVec 5) : Statement (.shr16 d a) :=
  of_halfword _ rfl rfl (by simp only [put]; omega)
theorem sar16 (d : BitVec 5) (a : BitVec 5) : Statement (.sar16 d a) :=
  of_halfword _ rfl rfl (by simp only [put]; omega)
theorem fadd16 (d : BitVec 5) (a : BitVec 5) : Statement (.fadd16 d a) :=
  of_halfword _ rfl rfl (by simp only [put]; omega)
theorem fsub16 (d : BitVec 5) (a : BitVec 5) : Statement (.fsub16 d a) :=
  of_halfword _ rfl rfl (by simp only [put]; omega)
theorem fmul16 (d : BitVec 5) (a : BitVec 5) : Statement (.fmul16 d a) :=
  of_halfword _ rfl rfl (by simp only [put]; omega)
theorem fmin16 (d : BitVec 5) (a : BitVec 5) : Statement (.fmin16 d a) :=
  of_halfword _ rfl rfl (by simp only [put]; omega)
theorem fmax16 (d : BitVec 5) (a : BitVec 5) : Statement (.fmax16 d a) :=
  of_halfword _ rfl rfl (by simp only [put]; omega)
theorem fneg16 (d : BitVec 5) (a : BitVec 5) : Statement (.fneg16 d a) :=
  of_halfword _ rfl rfl (by simp only [put]; omega)
theorem nop : Statement .nop :=
  of_halfword _ rfl rfl rfl
theorem guard (p : BitVec 3) (n : BitVec 1) (c : BitVec 2) : Statement (.guard p n c) :=
  of_halfword _ rfl rfl (by simp only [put]; omega)
theorem ord (sc : BitVec 3) (o : BitVec 3) : Statement (.ord sc o) :=
  of_halfword _ rfl rfl (by simp only [put]; omega)
theorem yield : Statement .yield :=
  of_halfword _ rfl rfl rfl
theorem exit : Statement .exit :=
  of_halfword _ rfl rfl rfl
theorem ret : Statement .ret :=
  of_halfword _ rfl rfl rfl
theorem brk (c : BitVec 10) : Statement (.brk c) :=
  of_halfword _ rfl rfl (by simp only [put]; omega)
theorem wait0 (m : BitVec 5) : Statement (.wait0 m) :=
  of_halfword _ rfl rfl (by simp only [put]; omega)
theorem add (d : BitVec 7) (a : BitVec 7) (b : BitVec 7) : Statement (.add d a b) :=
  of_word _ rfl rfl (by simp only [word3, put]; omega)
theorem addS (d : BitVec 7) (a : BitVec 7) (b : BitVec 7) : Statement (.addS d a b) :=
  of_word _ rfl rfl (by simp only [word3, put]; omega)
theorem sub (d : BitVec 7) (a : BitVec 7) (b : BitVec 7) : Statement (.sub d a b) :=
  of_word _ rfl rfl (by simp only [word3, put]; omega)
theorem subS (d : BitVec 7) (a : BitVec 7) (b : BitVec 7) : Statement (.subS d a b) :=
  of_word _ rfl rfl (by simp only [word3, put]; omega)
theorem mul (d : BitVec 7) (a : BitVec 7) (b : BitVec 7) : Statement (.mul d a b) :=
  of_word _ rfl rfl (by simp only [word3, put]; omega)
theorem mulS (d : BitVec 7) (a : BitVec 7) (b : BitVec 7) : Statement (.mulS d a b) :=
  of_word _ rfl rfl (by simp only [word3, put]; omega)
theorem mulhiI32 (d : BitVec 7) (a : BitVec 7) (b : BitVec 7) : Statement (.mulhiI32 d a b) :=
  of_word _ rfl rfl (by simp only [word3, put]; omega)
theorem mulhiI32S (d : BitVec 7) (a : BitVec 7) (b : BitVec 7) : Statement (.mulhiI32S d a b) :=
  of_word _ rfl rfl (by simp only [word3, put]; omega)
theorem mulhiN32 (d : BitVec 7) (a : BitVec 7) (b : BitVec 7) : Statement (.mulhiN32 d a b) :=
  of_word _ rfl rfl (by simp only [word3, put]; omega)
theorem mulhiN32S (d : BitVec 7) (a : BitVec 7) (b : BitVec 7) : Statement (.mulhiN32S d a b) :=
  of_word _ rfl rfl (by simp only [word3, put]; omega)
theorem and (d : BitVec 7) (a : BitVec 7) (b : BitVec 7) : Statement (.and d a b) :=
  of_word _ rfl rfl (by simp only [word3, put]; omega)
theorem andS (d : BitVec 7) (a : BitVec 7) (b : BitVec 7) : Statement (.andS d a b) :=
  of_word _ rfl rfl (by simp only [word3, put]; omega)
theorem or (d : BitVec 7) (a : BitVec 7) (b : BitVec 7) : Statement (.or d a b) :=
  of_word _ rfl rfl (by simp only [word3, put]; omega)
theorem orS (d : BitVec 7) (a : BitVec 7) (b : BitVec 7) : Statement (.orS d a b) :=
  of_word _ rfl rfl (by simp only [word3, put]; omega)
theorem xor (d : BitVec 7) (a : BitVec 7) (b : BitVec 7) : Statement (.xor d a b) :=
  of_word _ rfl rfl (by simp only [word3, put]; omega)
theorem xorS (d : BitVec 7) (a : BitVec 7) (b : BitVec 7) : Statement (.xorS d a b) :=
  of_word _ rfl rfl (by simp only [word3, put]; omega)
theorem shl (d : BitVec 7) (a : BitVec 7) (b : BitVec 7) : Statement (.shl d a b) :=
  of_word _ rfl rfl (by simp only [word3, put]; omega)
theorem shlS (d : BitVec 7) (a : BitVec 7) (b : BitVec 7) : Statement (.shlS d a b) :=
  of_word _ rfl rfl (by simp only [word3, put]; omega)
theorem shr (d : BitVec 7) (a : BitVec 7) (b : BitVec 7) : Statement (.shr d a b) :=
  of_word _ rfl rfl (by simp only [word3, put]; omega)
theorem shrS (d : BitVec 7) (a : BitVec 7) (b : BitVec 7) : Statement (.shrS d a b) :=
  of_word _ rfl rfl (by simp only [word3, put]; omega)
theorem sar (d : BitVec 7) (a : BitVec 7) (b : BitVec 7) : Statement (.sar d a b) :=
  of_word _ rfl rfl (by simp only [word3, put]; omega)
theorem sarS (d : BitVec 7) (a : BitVec 7) (b : BitVec 7) : Statement (.sarS d a b) :=
  of_word _ rfl rfl (by simp only [word3, put]; omega)
theorem minI32 (d : BitVec 7) (a : BitVec 7) (b : BitVec 7) : Statement (.minI32 d a b) :=
  of_word _ rfl rfl (by simp only [word3, put]; omega)
theorem minI32S (d : BitVec 7) (a : BitVec 7) (b : BitVec 7) : Statement (.minI32S d a b) :=
  of_word _ rfl rfl (by simp only [word3, put]; omega)
theorem maxI32 (d : BitVec 7) (a : BitVec 7) (b : BitVec 7) : Statement (.maxI32 d a b) :=
  of_word _ rfl rfl (by simp only [word3, put]; omega)
theorem maxI32S (d : BitVec 7) (a : BitVec 7) (b : BitVec 7) : Statement (.maxI32S d a b) :=
  of_word _ rfl rfl (by simp only [word3, put]; omega)
theorem minN32 (d : BitVec 7) (a : BitVec 7) (b : BitVec 7) : Statement (.minN32 d a b) :=
  of_word _ rfl rfl (by simp only [word3, put]; omega)
theorem minN32S (d : BitVec 7) (a : BitVec 7) (b : BitVec 7) : Statement (.minN32S d a b) :=
  of_word _ rfl rfl (by simp only [word3, put]; omega)
theorem maxN32 (d : BitVec 7) (a : BitVec 7) (b : BitVec 7) : Statement (.maxN32 d a b) :=
  of_word _ rfl rfl (by simp only [word3, put]; omega)
theorem maxN32S (d : BitVec 7) (a : BitVec 7) (b : BitVec 7) : Statement (.maxN32S d a b) :=
  of_word _ rfl rfl (by simp only [word3, put]; omega)
theorem addsatI32 (d : BitVec 7) (a : BitVec 7) (b : BitVec 7) : Statement (.addsatI32 d a b) :=
  of_word _ rfl rfl (by simp only [word3, put]; omega)
theorem addsatI32S (d : BitVec 7) (a : BitVec 7) (b : BitVec 7) : Statement (.addsatI32S d a b) :=
  of_word _ rfl rfl (by simp only [word3, put]; omega)
theorem subsatI32 (d : BitVec 7) (a : BitVec 7) (b : BitVec 7) : Statement (.subsatI32 d a b) :=
  of_word _ rfl rfl (by simp only [word3, put]; omega)
theorem subsatI32S (d : BitVec 7) (a : BitVec 7) (b : BitVec 7) : Statement (.subsatI32S d a b) :=
  of_word _ rfl rfl (by simp only [word3, put]; omega)
theorem mad (d : BitVec 7) (a : BitVec 7) (b : BitVec 7) : Statement (.mad d a b) :=
  of_word _ rfl rfl (by simp only [word3, put]; omega)
theorem madS (d : BitVec 7) (a : BitVec 7) (b : BitVec 7) : Statement (.madS d a b) :=
  of_word _ rfl rfl (by simp only [word3, put]; omega)
theorem prmt (d : BitVec 7) (a : BitVec 7) (b : BitVec 7) : Statement (.prmt d a b) :=
  of_word _ rfl rfl (by simp only [word3, put]; omega)
theorem prmtS (d : BitVec 7) (a : BitVec 7) (b : BitVec 7) : Statement (.prmtS d a b) :=
  of_word _ rfl rfl (by simp only [word3, put]; omega)
theorem bfe (d : BitVec 7) (a : BitVec 7) (b : BitVec 7) : Statement (.bfe d a b) :=
  of_word _ rfl rfl (by simp only [word3, put]; omega)
theorem bfeS (d : BitVec 7) (a : BitVec 7) (b : BitVec 7) : Statement (.bfeS d a b) :=
  of_word _ rfl rfl (by simp only [word3, put]; omega)
theorem bfi (d : BitVec 7) (a : BitVec 7) (b : BitVec 7) : Statement (.bfi d a b) :=
  of_word _ rfl rfl (by simp only [word3, put]; omega)
theorem bfiS (d : BitVec 7) (a : BitVec 7) (b : BitVec 7) : Statement (.bfiS d a b) :=
  of_word _ rfl rfl (by simp only [word3, put]; omega)
theorem setp (p : BitVec 3) (c : BitVec 4) (a : BitVec 7) (b : BitVec 7) : Statement (.setp p c a b) :=
  of_word _ rfl rfl (by simp only [put]; omega)
theorem setpS (p : BitVec 3) (c : BitVec 4) (a : BitVec 7) (b : BitVec 7) : Statement (.setpS p c a b) :=
  of_word _ rfl rfl (by simp only [put]; omega)
theorem selp (d : BitVec 7) (a : BitVec 7) (p : BitVec 3) (n : BitVec 1) : Statement (.selp d a p n) :=
  of_word _ rfl rfl (by simp only [put]; omega)
theorem popc (d : BitVec 7) (a : BitVec 7) : Statement (.popc d a) :=
  of_word _ rfl rfl (by simp only [put]; omega)
theorem clz (d : BitVec 7) (a : BitVec 7) : Statement (.clz d a) :=
  of_word _ rfl rfl (by simp only [put]; omega)
theorem brev (d : BitVec 7) (a : BitVec 7) : Statement (.brev d a) :=
  of_word _ rfl rfl (by simp only [put]; omega)
theorem abs (d : BitVec 7) (a : BitVec 7) : Statement (.abs d a) :=
  of_word _ rfl rfl (by simp only [put]; omega)
theorem neg (d : BitVec 7) (a : BitVec 7) : Statement (.neg d a) :=
  of_word _ rfl rfl (by simp only [put]; omega)
theorem not (d : BitVec 7) (a : BitVec 7) : Statement (.not d a) :=
  of_word _ rfl rfl (by simp only [put]; omega)
theorem mov (d : BitVec 7) (a : BitVec 7) : Statement (.mov d a) :=
  of_word _ rfl rfl (by simp only [put]; omega)
theorem movs (d : BitVec 7) (a : BitVec 7) : Statement (.movs d a) :=
  of_word _ rfl rfl (by simp only [put]; omega)
theorem sext (d : BitVec 7) (a : BitVec 7) (w : BitVec 7) : Statement (.sext d a w) :=
  of_word _ rfl rfl (by simp only [word3, put]; omega)
theorem movx (d : BitVec 7) (a : BitVec 7) : Statement (.movx d a) :=
  of_word _ rfl rfl (by simp only [put]; omega)
theorem movxr (d : BitVec 7) (a : BitVec 7) : Statement (.movxr d a) :=
  of_word _ rfl rfl (by simp only [put]; omega)
theorem fadd (d : BitVec 7) (a : BitVec 7) (b : BitVec 7) : Statement (.fadd d a b) :=
  of_word _ rfl rfl (by simp only [word3, put]; omega)
theorem faddS (d : BitVec 7) (a : BitVec 7) (b : BitVec 7) : Statement (.faddS d a b) :=
  of_word _ rfl rfl (by simp only [word3, put]; omega)
theorem fsub (d : BitVec 7) (a : BitVec 7) (b : BitVec 7) : Statement (.fsub d a b) :=
  of_word _ rfl rfl (by simp only [word3, put]; omega)
theorem fsubS (d : BitVec 7) (a : BitVec 7) (b : BitVec 7) : Statement (.fsubS d a b) :=
  of_word _ rfl rfl (by simp only [word3, put]; omega)
theorem fmul (d : BitVec 7) (a : BitVec 7) (b : BitVec 7) : Statement (.fmul d a b) :=
  of_word _ rfl rfl (by simp only [word3, put]; omega)
theorem fmulS (d : BitVec 7) (a : BitVec 7) (b : BitVec 7) : Statement (.fmulS d a b) :=
  of_word _ rfl rfl (by simp only [word3, put]; omega)
theorem ffma (d : BitVec 7) (a : BitVec 7) (b : BitVec 7) : Statement (.ffma d a b) :=
  of_word _ rfl rfl (by simp only [word3, put]; omega)
theorem ffmaS (d : BitVec 7) (a : BitVec 7) (b : BitVec 7) : Statement (.ffmaS d a b) :=
  of_word _ rfl rfl (by simp only [word3, put]; omega)
theorem fnma (d : BitVec 7) (a : BitVec 7) (b : BitVec 7) : Statement (.fnma d a b) :=
  of_word _ rfl rfl (by simp only [word3, put]; omega)
theorem fnmaS (d : BitVec 7) (a : BitVec 7) (b : BitVec 7) : Statement (.fnmaS d a b) :=
  of_word _ rfl rfl (by simp only [word3, put]; omega)
theorem fmin (d : BitVec 7) (a : BitVec 7) (b : BitVec 7) : Statement (.fmin d a b) :=
  of_word _ rfl rfl (by simp only [word3, put]; omega)
theorem fminS (d : BitVec 7) (a : BitVec 7) (b : BitVec 7) : Statement (.fminS d a b) :=
  of_word _ rfl rfl (by simp only [word3, put]; omega)
theorem fmax (d : BitVec 7) (a : BitVec 7) (b : BitVec 7) : Statement (.fmax d a b) :=
  of_word _ rfl rfl (by simp only [word3, put]; omega)
theorem fmaxS (d : BitVec 7) (a : BitVec 7) (b : BitVec 7) : Statement (.fmaxS d a b) :=
  of_word _ rfl rfl (by simp only [word3, put]; omega)
theorem fsetp (p : BitVec 3) (c : BitVec 4) (a : BitVec 7) (b : BitVec 7) : Statement (.fsetp p c a b) :=
  of_word _ rfl rfl (by simp only [put]; omega)
theorem fsetpS (p : BitVec 3) (c : BitVec 4) (a : BitVec 7) (b : BitVec 7) : Statement (.fsetpS p c a b) :=
  of_word _ rfl rfl (by simp only [put]; omega)
theorem fdiv (d : BitVec 7) (a : BitVec 7) (b : BitVec 7) : Statement (.fdiv d a b) :=
  of_word _ rfl rfl (by simp only [word3, put]; omega)
theorem fdivS (d : BitVec 7) (a : BitVec 7) (b : BitVec 7) : Statement (.fdivS d a b) :=
  of_word _ rfl rfl (by simp only [word3, put]; omega)
theorem fabs (d : BitVec 7) (a : BitVec 7) : Statement (.fabs d a) :=
  of_word _ rfl rfl (by simp only [put]; omega)
theorem fneg (d : BitVec 7) (a : BitVec 7) : Statement (.fneg d a) :=
  of_word _ rfl rfl (by simp only [put]; omega)
theorem frcp (d : BitVec 7) (a : BitVec 7) : Statement (.frcp d a) :=
  of_word _ rfl rfl (by simp only [put]; omega)
theorem frsq (d : BitVec 7) (a : BitVec 7) : Statement (.frsq d a) :=
  of_word _ rfl rfl (by simp only [put]; omega)
theorem fsqrt (d : BitVec 7) (a : BitVec 7) : Statement (.fsqrt d a) :=
  of_word _ rfl rfl (by simp only [put]; omega)
theorem fex2 (d : BitVec 7) (a : BitVec 7) : Statement (.fex2 d a) :=
  of_word _ rfl rfl (by simp only [put]; omega)
theorem flg2 (d : BitVec 7) (a : BitVec 7) : Statement (.flg2 d a) :=
  of_word _ rfl rfl (by simp only [put]; omega)
theorem fsin (d : BitVec 7) (a : BitVec 7) : Statement (.fsin d a) :=
  of_word _ rfl rfl (by simp only [put]; omega)
theorem fcos (d : BitVec 7) (a : BitVec 7) : Statement (.fcos d a) :=
  of_word _ rfl rfl (by simp only [put]; omega)
theorem ftanh (d : BitVec 7) (a : BitVec 7) : Statement (.ftanh d a) :=
  of_word _ rfl rfl (by simp only [put]; omega)
theorem frnd (d : BitVec 7) (a : BitVec 7) (m : BitVec 3) : Statement (.frnd d a m) :=
  of_word _ rfl rfl (by simp only [put]; omega)
theorem fclass (d : BitVec 7) (a : BitVec 7) : Statement (.fclass d a) :=
  of_word _ rfl rfl (by simp only [put]; omega)
theorem hadd2 (d : BitVec 7) (a : BitVec 7) (b : BitVec 7) : Statement (.hadd2 d a b) :=
  of_word _ rfl rfl (by simp only [word3, put]; omega)
theorem hadd2S (d : BitVec 7) (a : BitVec 7) (b : BitVec 7) : Statement (.hadd2S d a b) :=
  of_word _ rfl rfl (by simp only [word3, put]; omega)
theorem hmul2 (d : BitVec 7) (a : BitVec 7) (b : BitVec 7) : Statement (.hmul2 d a b) :=
  of_word _ rfl rfl (by simp only [word3, put]; omega)
theorem hmul2S (d : BitVec 7) (a : BitVec 7) (b : BitVec 7) : Statement (.hmul2S d a b) :=
  of_word _ rfl rfl (by simp only [word3, put]; omega)
theorem hfma2 (d : BitVec 7) (a : BitVec 7) (b : BitVec 7) : Statement (.hfma2 d a b) :=
  of_word _ rfl rfl (by simp only [word3, put]; omega)
theorem hfma2S (d : BitVec 7) (a : BitVec 7) (b : BitVec 7) : Statement (.hfma2S d a b) :=
  of_word _ rfl rfl (by simp only [word3, put]; omega)
theorem badd2 (d : BitVec 7) (a : BitVec 7) (b : BitVec 7) : Statement (.badd2 d a b) :=
  of_word _ rfl rfl (by simp only [word3, put]; omega)
theorem badd2S (d : BitVec 7) (a : BitVec 7) (b : BitVec 7) : Statement (.badd2S d a b) :=
  of_word _ rfl rfl (by simp only [word3, put]; omega)
theorem bmul2 (d : BitVec 7) (a : BitVec 7) (b : BitVec 7) : Statement (.bmul2 d a b) :=
  of_word _ rfl rfl (by simp only [word3, put]; omega)
theorem bmul2S (d : BitVec 7) (a : BitVec 7) (b : BitVec 7) : Statement (.bmul2S d a b) :=
  of_word _ rfl rfl (by simp only [word3, put]; omega)
theorem bfma2 (d : BitVec 7) (a : BitVec 7) (b : BitVec 7) : Statement (.bfma2 d a b) :=
  of_word _ rfl rfl (by simp only [word3, put]; omega)
theorem bfma2S (d : BitVec 7) (a : BitVec 7) (b : BitVec 7) : Statement (.bfma2S d a b) :=
  of_word _ rfl rfl (by simp only [word3, put]; omega)
theorem dot2 (d : BitVec 7) (a : BitVec 7) (b : BitVec 7) : Statement (.dot2 d a b) :=
  of_word _ rfl rfl (by simp only [word3, put]; omega)
theorem dot2S (d : BitVec 7) (a : BitVec 7) (b : BitVec 7) : Statement (.dot2S d a b) :=
  of_word _ rfl rfl (by simp only [word3, put]; omega)
theorem idot4 (d : BitVec 7) (a : BitVec 7) (b : BitVec 7) : Statement (.idot4 d a b) :=
  of_word _ rfl rfl (by simp only [word3, put]; omega)
theorem idot4S (d : BitVec 7) (a : BitVec 7) (b : BitVec 7) : Statement (.idot4S d a b) :=
  of_word _ rfl rfl (by simp only [word3, put]; omega)
theorem cvtfi (d : BitVec 7) (a : BitVec 7) (sc : BitVec 7) : Statement (.cvtfi d a sc) :=
  of_word _ rfl rfl (by simp only [word3, put]; omega)
theorem cvtif (d : BitVec 7) (a : BitVec 7) (sc : BitVec 7) : Statement (.cvtif d a sc) :=
  of_word _ rfl rfl (by simp only [word3, put]; omega)
theorem cvtff (d : BitVec 7) (a : BitVec 7) (sc : BitVec 7) : Statement (.cvtff d a sc) :=
  of_word _ rfl rfl (by simp only [word3, put]; omega)
theorem cvtpk (d : BitVec 7) (a : BitVec 7) (sc : BitVec 7) : Statement (.cvtpk d a sc) :=
  of_word _ rfl rfl (by simp only [word3, put]; omega)
theorem cvtup (d : BitVec 7) (a : BitVec 7) (sc : BitVec 7) : Statement (.cvtup d a sc) :=
  of_word _ rfl rfl (by simp only [word3, put]; omega)
theorem mxscale (d : BitVec 7) (a : BitVec 7) (fm : BitVec 1) : Statement (.mxscale d a fm) :=
  of_word _ rfl rfl (by simp only [put]; omega)
theorem mxq (d : BitVec 7) (a : BitVec 7) (fm : BitVec 1) : Statement (.mxq d a fm) :=
  of_word _ rfl rfl (by simp only [put]; omega)
theorem shflIdx (d : BitVec 7) (a : BitVec 7) (b : BitVec 7) : Statement (.shflIdx d a b) :=
  of_word _ rfl rfl (by simp only [word3, put]; omega)
theorem shflXor (d : BitVec 7) (a : BitVec 7) (b : BitVec 7) : Statement (.shflXor d a b) :=
  of_word _ rfl rfl (by simp only [word3, put]; omega)
theorem shflUp (d : BitVec 7) (a : BitVec 7) (b : BitVec 7) : Statement (.shflUp d a b) :=
  of_word _ rfl rfl (by simp only [word3, put]; omega)
theorem shflDn (d : BitVec 7) (a : BitVec 7) (b : BitVec 7) : Statement (.shflDn d a b) :=
  of_word _ rfl rfl (by simp only [word3, put]; omega)
theorem redsq (d : BitVec 7) (a : BitVec 7) (o : BitVec 7) : Statement (.redsq d a o) :=
  of_word _ rfl rfl (by simp only [word3, put]; omega)
theorem scan (d : BitVec 7) (a : BitVec 7) (o : BitVec 7) : Statement (.scan d a o) :=
  of_word _ rfl rfl (by simp only [word3, put]; omega)
theorem voteBallot (d : BitVec 7) (a : BitVec 3) (n : BitVec 1) : Statement (.voteBallot d a n) :=
  of_word _ rfl rfl (by simp only [put]; omega)
theorem voteAll (d : BitVec 3) (a : BitVec 3) (n : BitVec 1) : Statement (.voteAll d a n) :=
  of_word _ rfl rfl (by simp only [put]; omega)
theorem voteAny (d : BitVec 3) (a : BitVec 3) (n : BitVec 1) : Statement (.voteAny d a n) :=
  of_word _ rfl rfl (by simp only [put]; omega)
theorem voteUni (d : BitVec 3) (a : BitVec 3) (n : BitVec 1) : Statement (.voteUni d a n) :=
  of_word _ rfl rfl (by simp only [put]; omega)
theorem voteBallotHi (d : BitVec 7) (a : BitVec 3) (n : BitVec 1) : Statement (.voteBallotHi d a n) :=
  of_word _ rfl rfl (by simp only [put]; omega)
theorem matchAny (d : BitVec 7) (a : BitVec 7) : Statement (.matchAny d a) :=
  of_word _ rfl rfl (by simp only [put]; omega)
theorem matchFirst (d : BitVec 7) (a : BitVec 7) : Statement (.matchFirst d a) :=
  of_word _ rfl rfl (by simp only [put]; omega)
theorem sadd (d : BitVec 7) (a : BitVec 7) (b : BitVec 7) : Statement (.sadd d a b) :=
  of_word _ rfl rfl (by simp only [word3, put]; omega)
theorem ssub (d : BitVec 7) (a : BitVec 7) (b : BitVec 7) : Statement (.ssub d a b) :=
  of_word _ rfl rfl (by simp only [word3, put]; omega)
theorem smul (d : BitVec 7) (a : BitVec 7) (b : BitVec 7) : Statement (.smul d a b) :=
  of_word _ rfl rfl (by simp only [word3, put]; omega)
theorem smulhi (d : BitVec 7) (a : BitVec 7) (b : BitVec 7) : Statement (.smulhi d a b) :=
  of_word _ rfl rfl (by simp only [word3, put]; omega)
theorem sand (d : BitVec 7) (a : BitVec 7) (b : BitVec 7) : Statement (.sand d a b) :=
  of_word _ rfl rfl (by simp only [word3, put]; omega)
theorem sor (d : BitVec 7) (a : BitVec 7) (b : BitVec 7) : Statement (.sor d a b) :=
  of_word _ rfl rfl (by simp only [word3, put]; omega)
theorem sxor (d : BitVec 7) (a : BitVec 7) (b : BitVec 7) : Statement (.sxor d a b) :=
  of_word _ rfl rfl (by simp only [word3, put]; omega)
theorem sshl (d : BitVec 7) (a : BitVec 7) (b : BitVec 7) : Statement (.sshl d a b) :=
  of_word _ rfl rfl (by simp only [word3, put]; omega)
theorem sshr (d : BitVec 7) (a : BitVec 7) (b : BitVec 7) : Statement (.sshr d a b) :=
  of_word _ rfl rfl (by simp only [word3, put]; omega)
theorem ssar (d : BitVec 7) (a : BitVec 7) (b : BitVec 7) : Statement (.ssar d a b) :=
  of_word _ rfl rfl (by simp only [word3, put]; omega)
theorem smin (d : BitVec 7) (a : BitVec 7) (b : BitVec 7) : Statement (.smin d a b) :=
  of_word _ rfl rfl (by simp only [word3, put]; omega)
theorem smax (d : BitVec 7) (a : BitVec 7) (b : BitVec 7) : Statement (.smax d a b) :=
  of_word _ rfl rfl (by simp only [word3, put]; omega)
theorem sminn (d : BitVec 7) (a : BitVec 7) (b : BitVec 7) : Statement (.sminn d a b) :=
  of_word _ rfl rfl (by simp only [word3, put]; omega)
theorem smaxn (d : BitVec 7) (a : BitVec 7) (b : BitVec 7) : Statement (.smaxn d a b) :=
  of_word _ rfl rfl (by simp only [word3, put]; omega)
theorem seq (d : BitVec 7) (a : BitVec 7) (b : BitVec 7) : Statement (.seq d a b) :=
  of_word _ rfl rfl (by simp only [word3, put]; omega)
theorem sne (d : BitVec 7) (a : BitVec 7) (b : BitVec 7) : Statement (.sne d a b) :=
  of_word _ rfl rfl (by simp only [word3, put]; omega)
theorem slt (d : BitVec 7) (a : BitVec 7) (b : BitVec 7) : Statement (.slt d a b) :=
  of_word _ rfl rfl (by simp only [word3, put]; omega)
theorem sle (d : BitVec 7) (a : BitVec 7) (b : BitVec 7) : Statement (.sle d a b) :=
  of_word _ rfl rfl (by simp only [word3, put]; omega)
theorem sltn (d : BitVec 7) (a : BitVec 7) (b : BitVec 7) : Statement (.sltn d a b) :=
  of_word _ rfl rfl (by simp only [word3, put]; omega)
theorem slen (d : BitVec 7) (a : BitVec 7) (b : BitVec 7) : Statement (.slen d a b) :=
  of_word _ rfl rfl (by simp only [word3, put]; omega)
theorem smov (d : BitVec 7) (a : BitVec 7) : Statement (.smov d a) :=
  of_word _ rfl rfl (by simp only [put]; omega)
theorem sdivn (d : BitVec 7) (a : BitVec 7) (b : BitVec 7) : Statement (.sdivn d a b) :=
  of_word _ rfl rfl (by simp only [word3, put]; omega)
theorem sremn (d : BitVec 7) (a : BitVec 7) (b : BitVec 7) : Statement (.sremn d a b) :=
  of_word _ rfl rfl (by simp only [word3, put]; omega)
theorem sclz (d : BitVec 7) (a : BitVec 7) : Statement (.sclz d a) :=
  of_word _ rfl rfl (by simp only [put]; omega)
theorem spopc (d : BitVec 7) (a : BitVec 7) : Statement (.spopc d a) :=
  of_word _ rfl rfl (by simp only [put]; omega)
theorem ssel (d : BitVec 7) (a : BitVec 7) (b : BitVec 7) : Statement (.ssel d a b) :=
  of_word _ rfl rfl (by simp only [word3, put]; omega)
theorem rdsr (d : BitVec 7) (n : BitVec 7) : Statement (.rdsr d n) :=
  of_word _ rfl rfl (by simp only [put]; omega)
theorem wrsr (n : BitVec 7) (a : BitVec 7) : Statement (.wrsr n a) :=
  of_word _ rfl rfl (by simp only [put]; omega)
theorem time (d : BitVec 7) : Statement (.time d) :=
  of_word _ rfl rfl (by simp only [put]; omega)
theorem rdlane (d : BitVec 7) (a : BitVec 7) (b : BitVec 7) : Statement (.rdlane d a b) :=
  of_word _ rfl rfl (by simp only [word3, put]; omega)
theorem wrlane (d : BitVec 7) (a : BitVec 7) (b : BitVec 7) : Statement (.wrlane d a b) :=
  of_word _ rfl rfl (by simp only [word3, put]; omega)
theorem pand (d : BitVec 3) (a : BitVec 3) (x : BitVec 1) (b : BitVec 3) (y : BitVec 1) : Statement (.pand d a x b y) :=
  of_word _ rfl rfl (by simp only [put]; omega)
theorem por (d : BitVec 3) (a : BitVec 3) (x : BitVec 1) (b : BitVec 3) (y : BitVec 1) : Statement (.por d a x b y) :=
  of_word _ rfl rfl (by simp only [put]; omega)
theorem pxor (d : BitVec 3) (a : BitVec 3) (x : BitVec 1) (b : BitVec 3) (y : BitVec 1) : Statement (.pxor d a x b y) :=
  of_word _ rfl rfl (by simp only [put]; omega)
theorem pset (d : BitVec 3) (a : BitVec 7) : Statement (.pset d a) :=
  of_word _ rfl rfl (by simp only [put]; omega)
theorem pget (d : BitVec 7) (a : BitVec 3) (n : BitVec 1) : Statement (.pget d a n) :=
  of_word _ rfl rfl (by simp only [put]; omega)
theorem pmask (d : BitVec 3) (a : BitVec 7) (h : BitVec 1) : Statement (.pmask d a h) :=
  of_word _ rfl rfl (by simp only [put]; omega)
theorem mfsr (d : BitVec 7) (n : BitVec 7) : Statement (.mfsr d n) :=
  of_word _ rfl rfl (by simp only [put]; omega)
theorem mtsr (n : BitVec 7) (a : BitVec 7) : Statement (.mtsr n a) :=
  of_word _ rfl rfl (by simp only [put]; omega)
theorem tlbinvAll (a : BitVec 7) : Statement (.tlbinvAll a) :=
  of_word _ rfl rfl (by simp only [put]; omega)
theorem tlbinvCtx (a : BitVec 7) : Statement (.tlbinvCtx a) :=
  of_word _ rfl rfl (by simp only [put]; omega)
theorem tlbinvPage (a : BitVec 7) : Statement (.tlbinvPage a) :=
  of_word _ rfl rfl (by simp only [put]; omega)
theorem cchopWb (d : BitVec 7) (a : BitVec 7) : Statement (.cchopWb d a) :=
  of_word _ rfl rfl (by simp only [put]; omega)
theorem cchopWbinv (d : BitVec 7) (a : BitVec 7) : Statement (.cchopWbinv d a) :=
  of_word _ rfl rfl (by simp only [put]; omega)
theorem cchopInv (d : BitVec 7) (a : BitVec 7) : Statement (.cchopInv d a) :=
  of_word _ rfl rfl (by simp only [put]; omega)
theorem cchopUnkeep (d : BitVec 7) (a : BitVec 7) : Statement (.cchopUnkeep d a) :=
  of_word _ rfl rfl (by simp only [put]; omega)
theorem survey (d : BitVec 7) (a : BitVec 7) : Statement (.survey d a) :=
  of_word _ rfl rfl (by simp only [put]; omega)
theorem halt (a : BitVec 7) : Statement (.halt a) :=
  of_word _ rfl rfl (by simp only [put]; omega)
theorem cxsave (d : BitVec 7) (a : BitVec 7) : Statement (.cxsave d a) :=
  of_word _ rfl rfl (by simp only [put]; omega)
theorem cxrest (d : BitVec 7) (a : BitVec 7) : Statement (.cxrest d a) :=
  of_word _ rfl rfl (by simp only [put]; omega)
theorem sret : Statement .sret :=
  of_word _ rfl rfl rfl
theorem lnkctlPause (d : BitVec 7) (a : BitVec 7) : Statement (.lnkctlPause d a) :=
  of_word _ rfl rfl (by simp only [put]; omega)
theorem lnkctlResume (d : BitVec 7) (a : BitVec 7) : Statement (.lnkctlResume d a) :=
  of_word _ rfl rfl (by simp only [put]; omega)
theorem lnkctlSpare (d : BitVec 7) (a : BitVec 7) : Statement (.lnkctlSpare d a) :=
  of_word _ rfl rfl (by simp only [put]; omega)
theorem lnkctlWidth (d : BitVec 7) (a : BitVec 7) : Statement (.lnkctlWidth d a) :=
  of_word _ rfl rfl (by simp only [put]; omega)
theorem lnkctlClrretry (d : BitVec 7) (a : BitVec 7) : Statement (.lnkctlClrretry d a) :=
  of_word _ rfl rfl (by simp only [put]; omega)
theorem errrd (d : BitVec 7) (a : BitVec 7) : Statement (.errrd d a) :=
  of_word _ rfl rfl (by simp only [put]; omega)
theorem retainCreate (d : BitVec 7) (a : BitVec 7) : Statement (.retainCreate d a) :=
  of_word _ rfl rfl (by simp only [put]; omega)
theorem retainDestroy (d : BitVec 7) (a : BitVec 7) : Statement (.retainDestroy d a) :=
  of_word _ rfl rfl (by simp only [put]; omega)
theorem retainQuery (d : BitVec 7) (a : BitVec 7) : Statement (.retainQuery d a) :=
  of_word _ rfl rfl (by simp only [put]; omega)
theorem mcctlMetard (d : BitVec 7) (a : BitVec 7) : Statement (.mcctlMetard d a) :=
  of_word _ rfl rfl (by simp only [put]; omega)
theorem mcctlMetawr (d : BitVec 7) (a : BitVec 7) : Statement (.mcctlMetawr d a) :=
  of_word _ rfl rfl (by simp only [put]; omega)
theorem mcctlRetire (d : BitVec 7) (a : BitVec 7) : Statement (.mcctlRetire d a) :=
  of_word _ rfl rfl (by simp only [put]; omega)
theorem wayctlQuar (d : BitVec 7) : Statement (.wayctlQuar d) :=
  of_word _ rfl rfl (by simp only [put]; omega)
theorem wayctlRelease (d : BitVec 7) : Statement (.wayctlRelease d) :=
  of_word _ rfl rfl (by simp only [put]; omega)
theorem wayctlDiscard (d : BitVec 7) : Statement (.wayctlDiscard d) :=
  of_word _ rfl rfl (by simp only [put]; omega)
theorem trap (a : BitVec 7) : Statement (.trap a) :=
  of_word _ rfl rfl (by simp only [put]; omega)
theorem rett : Statement .rett :=
  of_word _ rfl rfl rfl
theorem addi (d : BitVec 7) (a : BitVec 7) (imm : BitVec 10) : Statement (.addi d a imm) :=
  of_word _ rfl rfl (by simp only [put]; omega)
theorem andi (d : BitVec 7) (a : BitVec 7) (imm : BitVec 10) : Statement (.andi d a imm) :=
  of_word _ rfl rfl (by simp only [put]; omega)
theorem ori (d : BitVec 7) (a : BitVec 7) (imm : BitVec 10) : Statement (.ori d a imm) :=
  of_word _ rfl rfl (by simp only [put]; omega)
theorem xori (d : BitVec 7) (a : BitVec 7) (imm : BitVec 10) : Statement (.xori d a imm) :=
  of_word _ rfl rfl (by simp only [put]; omega)
theorem shli (d : BitVec 7) (a : BitVec 7) (imm : BitVec 10) : Statement (.shli d a imm) :=
  of_word _ rfl rfl (by simp only [put]; omega)
theorem shri (d : BitVec 7) (a : BitVec 7) (imm : BitVec 10) : Statement (.shri d a imm) :=
  of_word _ rfl rfl (by simp only [put]; omega)
theorem sari (d : BitVec 7) (a : BitVec 7) (imm : BitVec 10) : Statement (.sari d a imm) :=
  of_word _ rfl rfl (by simp only [put]; omega)
theorem muli (d : BitVec 7) (a : BitVec 7) (imm : BitVec 10) : Statement (.muli d a imm) :=
  of_word _ rfl rfl (by simp only [put]; omega)
theorem setpi (p : BitVec 3) (c : BitVec 4) (a : BitVec 7) (imm : BitVec 10) : Statement (.setpi p c a imm) :=
  of_word _ rfl rfl (by simp only [put]; omega)
theorem movi (d : BitVec 7) (imm : BitVec 10) : Statement (.movi d imm) :=
  of_word _ rfl rfl (by simp only [put]; omega)
theorem tlu (d : BitVec 7) (a : BitVec 7) (t : BitVec 7) (n : BitVec 3) : Statement (.tlu d a t n) :=
  of_word _ rfl rfl (by simp only [put]; omega)
theorem lidx (d : BitVec 7) (a : BitVec 7) (imm : BitVec 10) : Statement (.lidx d a imm) :=
  of_word _ rfl rfl (by simp only [put]; omega)
theorem saddi (d : BitVec 7) (a : BitVec 7) (imm : BitVec 10) : Statement (.saddi d a imm) :=
  of_word _ rfl rfl (by simp only [put]; omega)
theorem sandi (d : BitVec 7) (a : BitVec 7) (imm : BitVec 10) : Statement (.sandi d a imm) :=
  of_word _ rfl rfl (by simp only [put]; omega)
theorem sori (d : BitVec 7) (a : BitVec 7) (imm : BitVec 10) : Statement (.sori d a imm) :=
  of_word _ rfl rfl (by simp only [put]; omega)
theorem sxori (d : BitVec 7) (a : BitVec 7) (imm : BitVec 10) : Statement (.sxori d a imm) :=
  of_word _ rfl rfl (by simp only [put]; omega)
theorem sshli (d : BitVec 7) (a : BitVec 7) (imm : BitVec 10) : Statement (.sshli d a imm) :=
  of_word _ rfl rfl (by simp only [put]; omega)
theorem sshri (d : BitVec 7) (a : BitVec 7) (imm : BitVec 10) : Statement (.sshri d a imm) :=
  of_word _ rfl rfl (by simp only [put]; omega)
theorem ssari (d : BitVec 7) (a : BitVec 7) (imm : BitVec 10) : Statement (.ssari d a imm) :=
  of_word _ rfl rfl (by simp only [put]; omega)
theorem smuli (d : BitVec 7) (a : BitVec 7) (imm : BitVec 10) : Statement (.smuli d a imm) :=
  of_word _ rfl rfl (by simp only [put]; omega)
theorem seqi (d : BitVec 7) (a : BitVec 7) (imm : BitVec 10) : Statement (.seqi d a imm) :=
  of_word _ rfl rfl (by simp only [put]; omega)
theorem slti (d : BitVec 7) (a : BitVec 7) (imm : BitVec 10) : Statement (.slti d a imm) :=
  of_word _ rfl rfl (by simp only [put]; omega)
theorem sltni (d : BitVec 7) (a : BitVec 7) (imm : BitVec 10) : Statement (.sltni d a imm) :=
  of_word _ rfl rfl (by simp only [put]; omega)
theorem bra (x : BitVec 24) : Statement (.bra x) :=
  of_word _ rfl rfl (by simp only [put]; omega)
theorem call (x : BitVec 24) : Statement (.call x) :=
  of_word _ rfl rfl (by simp only [put]; omega)
theorem brp (p : BitVec 3) (n : BitVec 1) (x : BitVec 20) : Statement (.brp p n x) :=
  of_word _ rfl rfl (by simp only [put]; omega)
theorem bsz (r : BitVec 6) (x : BitVec 18) : Statement (.bsz r x) :=
  of_word _ rfl rfl (by simp only [put]; omega)
theorem bsnz (r : BitVec 6) (x : BitVec 18) : Statement (.bsnz r x) :=
  of_word _ rfl rfl (by simp only [put]; omega)
theorem li (r : BitVec 6) (imm : BitVec 18) : Statement (.li r imm) :=
  of_word _ rfl rfl (by simp only [put]; omega)
theorem ext (x : BitVec 24) : Statement (.ext x) :=
  of_word _ rfl rfl (by simp only [put]; omega)
theorem wait (l : BitVec 5) (sc : BitVec 5) (c : BitVec 5) (t : BitVec 5) (a : BitVec 4) : Statement (.wait l sc c t a) :=
  of_word _ rfl rfl (by simp only [put]; omega)
theorem brx (x : BitVec 7) (t : BitVec 6) : Statement (.brx x t) :=
  of_word _ rfl rfl (by simp only [put]; omega)
theorem callx (x : BitVec 7) (t : BitVec 6) : Statement (.callx x t) :=
  of_word _ rfl rfl (by simp only [put]; omega)
theorem barSync (b : BitVec 4) (n : BitVec 6) : Statement (.barSync b n) :=
  of_word _ rfl rfl (by simp only [put]; omega)
theorem barArrive (b : BitVec 4) (n : BitVec 6) : Statement (.barArrive b n) :=
  of_word _ rfl rfl (by simp only [put]; omega)
theorem barWait (b : BitVec 4) : Statement (.barWait b) :=
  of_word _ rfl rfl (by simp only [put]; omega)
theorem tbarSync (b : BitVec 2) (n : BitVec 6) : Statement (.tbarSync b n) :=
  of_word _ rfl rfl (by simp only [put]; omega)
theorem tbarArrive (b : BitVec 2) (n : BitVec 6) : Statement (.tbarArrive b n) :=
  of_word _ rfl rfl (by simp only [put]; omega)
theorem tbarWait (b : BitVec 2) : Statement (.tbarWait b) :=
  of_word _ rfl rfl (by simp only [put]; omega)
theorem setmode (r : BitVec 2) (z : BitVec 1) (t : BitVec 5) (w : BitVec 1) (fm : BitVec 1) (en : BitVec 5) : Statement (.setmode r z t w fm en) :=
  of_word _ rfl rfl (by simp only [put]; omega)
theorem ld (w : BitVec 3) (d : BitVec 7) (a : BitVec 7) (b : BitVec 7) : Statement (.ld w d a b) :=
  of_word _ rfl rfl (by simp only [put]; omega)
theorem st (w : BitVec 3) (d : BitVec 7) (a : BitVec 7) (b : BitVec 7) : Statement (.st w d a b) :=
  of_word _ rfl rfl (by simp only [put]; omega)
theorem lds (w : BitVec 3) (d : BitVec 7) (a : BitVec 7) (b : BitVec 7) : Statement (.lds w d a b) :=
  of_word _ rfl rfl (by simp only [put]; omega)
theorem sts (w : BitVec 3) (d : BitVec 7) (a : BitVec 7) (b : BitVec 7) : Statement (.sts w d a b) :=
  of_word _ rfl rfl (by simp only [put]; omega)
theorem ldt (w : BitVec 3) (d : BitVec 7) (a : BitVec 7) (b : BitVec 7) : Statement (.ldt w d a b) :=
  of_word _ rfl rfl (by simp only [put]; omega)
theorem stt (w : BitVec 3) (d : BitVec 7) (a : BitVec 7) (b : BitVec 7) : Statement (.stt w d a b) :=
  of_word _ rfl rfl (by simp only [put]; omega)
theorem sld (w : BitVec 3) (d : BitVec 7) (a : BitVec 7) (b : BitVec 7) : Statement (.sld w d a b) :=
  of_word _ rfl rfl (by simp only [put]; omega)
theorem sst (w : BitVec 3) (d : BitVec 7) (a : BitVec 7) (b : BitVec 7) : Statement (.sst w d a b) :=
  of_word _ rfl rfl (by simp only [put]; omega)
theorem atomAdd (d : BitVec 7) (a : BitVec 7) (b : BitVec 7) : Statement (.atomAdd d a b) :=
  of_word _ rfl rfl (by simp only [word3, put]; omega)
theorem atomMinI32 (d : BitVec 7) (a : BitVec 7) (b : BitVec 7) : Statement (.atomMinI32 d a b) :=
  of_word _ rfl rfl (by simp only [word3, put]; omega)
theorem atomMaxI32 (d : BitVec 7) (a : BitVec 7) (b : BitVec 7) : Statement (.atomMaxI32 d a b) :=
  of_word _ rfl rfl (by simp only [word3, put]; omega)
theorem atomMinN32 (d : BitVec 7) (a : BitVec 7) (b : BitVec 7) : Statement (.atomMinN32 d a b) :=
  of_word _ rfl rfl (by simp only [word3, put]; omega)
theorem atomMaxN32 (d : BitVec 7) (a : BitVec 7) (b : BitVec 7) : Statement (.atomMaxN32 d a b) :=
  of_word _ rfl rfl (by simp only [word3, put]; omega)
theorem atomAnd (d : BitVec 7) (a : BitVec 7) (b : BitVec 7) : Statement (.atomAnd d a b) :=
  of_word _ rfl rfl (by simp only [word3, put]; omega)
theorem atomOr (d : BitVec 7) (a : BitVec 7) (b : BitVec 7) : Statement (.atomOr d a b) :=
  of_word _ rfl rfl (by simp only [word3, put]; omega)
theorem atomXor (d : BitVec 7) (a : BitVec 7) (b : BitVec 7) : Statement (.atomXor d a b) :=
  of_word _ rfl rfl (by simp only [word3, put]; omega)
theorem atom2Exch (d : BitVec 7) (a : BitVec 7) (b : BitVec 7) : Statement (.atom2Exch d a b) :=
  of_word _ rfl rfl (by simp only [word3, put]; omega)
theorem atom2Cas (d : BitVec 7) (a : BitVec 7) (b : BitVec 7) : Statement (.atom2Cas d a b) :=
  of_word _ rfl rfl (by simp only [word3, put]; omega)
theorem atom2FaddF32 (d : BitVec 7) (a : BitVec 7) (b : BitVec 7) : Statement (.atom2FaddF32 d a b) :=
  of_word _ rfl rfl (by simp only [word3, put]; omega)
theorem atom2FminF32 (d : BitVec 7) (a : BitVec 7) (b : BitVec 7) : Statement (.atom2FminF32 d a b) :=
  of_word _ rfl rfl (by simp only [word3, put]; omega)
theorem atom2FmaxF32 (d : BitVec 7) (a : BitVec 7) (b : BitVec 7) : Statement (.atom2FmaxF32 d a b) :=
  of_word _ rfl rfl (by simp only [word3, put]; omega)
theorem atom2AddI64 (d : BitVec 7) (a : BitVec 7) (b : BitVec 7) : Statement (.atom2AddI64 d a b) :=
  of_word _ rfl rfl (by simp only [word3, put]; omega)
theorem atom2ExchB64 (d : BitVec 7) (a : BitVec 7) (b : BitVec 7) : Statement (.atom2ExchB64 d a b) :=
  of_word _ rfl rfl (by simp only [word3, put]; omega)
theorem atom2CasB64 (d : BitVec 7) (a : BitVec 7) (b : BitVec 7) : Statement (.atom2CasB64 d a b) :=
  of_word _ rfl rfl (by simp only [word3, put]; omega)
theorem satom (fm : BitVec 3) (d : BitVec 7) (a : BitVec 7) (b : BitVec 7) : Statement (.satom fm d a b) :=
  of_word _ rfl rfl (by simp only [put]; omega)
theorem atoms (fm : BitVec 3) (d : BitVec 7) (a : BitVec 7) (b : BitVec 7) : Statement (.atoms fm d a b) :=
  of_word _ rfl rfl (by simp only [put]; omega)
theorem fence (sc : BitVec 3) (o : BitVec 3) (y : BitVec 1) : Statement (.fence sc o y) :=
  of_word _ rfl rfl (by simp only [put]; omega)
theorem pref (l : BitVec 1) (a : BitVec 7) (b : BitVec 7) : Statement (.pref l a b) :=
  of_word _ rfl rfl (by simp only [put]; omega)
theorem qpush (d : BitVec 7) (q : BitVec 4) : Statement (.qpush d q) :=
  of_word _ rfl rfl (by simp only [put]; omega)
theorem qpushSpan (d : BitVec 7) (a : BitVec 7) : Statement (.qpushSpan d a) :=
  of_word _ rfl rfl (by simp only [put]; omega)
theorem qpushTry (d : BitVec 7) (q : BitVec 4) (b : BitVec 7) : Statement (.qpushTry d q b) :=
  of_word _ rfl rfl (by simp only [put]; omega)
theorem qpushSpanTry (d : BitVec 7) (a : BitVec 7) (b : BitVec 7) : Statement (.qpushSpanTry d a b) :=
  of_word _ rfl rfl (by simp only [word3, put]; omega)
theorem qpop (d : BitVec 7) (q : BitVec 4) : Statement (.qpop d q) :=
  of_word _ rfl rfl (by simp only [put]; omega)
theorem qpopSpan (d : BitVec 7) (a : BitVec 7) : Statement (.qpopSpan d a) :=
  of_word _ rfl rfl (by simp only [put]; omega)
theorem qpopTry (d : BitVec 7) (q : BitVec 4) (b : BitVec 7) : Statement (.qpopTry d q b) :=
  of_word _ rfl rfl (by simp only [put]; omega)
theorem qpopSpanTry (d : BitVec 7) (a : BitVec 7) (b : BitVec 7) : Statement (.qpopSpanTry d a b) :=
  of_word _ rfl rfl (by simp only [word3, put]; omega)
theorem semAdd (d : BitVec 7) (a : BitVec 7) : Statement (.semAdd d a) :=
  of_word _ rfl rfl (by simp only [put]; omega)
theorem semWait (d : BitVec 7) (a : BitVec 7) (b : BitVec 7) : Statement (.semWait d a b) :=
  of_word _ rfl rfl (by simp only [word3, put]; omega)
theorem semRead (a : BitVec 7) (b : BitVec 7) : Statement (.semRead a b) :=
  of_word _ rfl rfl (by simp only [put]; omega)
theorem launch (d : BitVec 7) (a : BitVec 7) : Statement (.launch d a) :=
  of_word _ rfl rfl (by simp only [put]; omega)
theorem cpyGs (d : BitVec 7) (a : BitVec 7) (b : BitVec 7) : Statement (.cpyGs d a b) :=
  of_word _ rfl rfl (by simp only [word3, put]; omega)
theorem cpySg (d : BitVec 7) (a : BitVec 7) (b : BitVec 7) : Statement (.cpySg d a b) :=
  of_word _ rfl rfl (by simp only [word3, put]; omega)
theorem cpyGg (d : BitVec 7) (a : BitVec 7) (b : BitVec 7) : Statement (.cpyGg d a b) :=
  of_word _ rfl rfl (by simp only [word3, put]; omega)
theorem cpySp (d : BitVec 7) (a : BitVec 7) (b : BitVec 7) : Statement (.cpySp d a b) :=
  of_word _ rfl rfl (by simp only [word3, put]; omega)
theorem cpyGs2 (d : BitVec 7) (a : BitVec 7) (b : BitVec 7) : Statement (.cpyGs2 d a b) :=
  of_word _ rfl rfl (by simp only [word3, put]; omega)
theorem cpySg2 (d : BitVec 7) (a : BitVec 7) (b : BitVec 7) : Statement (.cpySg2 d a b) :=
  of_word _ rfl rfl (by simp only [word3, put]; omega)
theorem cpyPin (d : BitVec 7) (a : BitVec 7) (b : BitVec 7) : Statement (.cpyPin d a b) :=
  of_word _ rfl rfl (by simp only [word3, put]; omega)
theorem bload (fm : BitVec 3) (d : BitVec 7) (a : BitVec 7) (b : BitVec 7) : Statement (.bload fm d a b) :=
  of_word _ rfl rfl (by simp only [put]; omega)
theorem xformToplanes (d : BitVec 7) (a : BitVec 7) (b : BitVec 7) : Statement (.xformToplanes d a b) :=
  of_word _ rfl rfl (by simp only [word3, put]; omega)
theorem xformFromplanes (d : BitVec 7) (a : BitVec 7) (b : BitVec 7) : Statement (.xformFromplanes d a b) :=
  of_word _ rfl rfl (by simp only [word3, put]; omega)
theorem xformFill (d : BitVec 7) (a : BitVec 7) (b : BitVec 7) : Statement (.xformFill d a b) :=
  of_word _ rfl rfl (by simp only [word3, put]; omega)
theorem xformZero (d : BitVec 7) (a : BitVec 7) (b : BitVec 7) : Statement (.xformZero d a b) :=
  of_word _ rfl rfl (by simp only [word3, put]; omega)
theorem xformChecksum (d : BitVec 7) (a : BitVec 7) (b : BitVec 7) : Statement (.xformChecksum d a b) :=
  of_word _ rfl rfl (by simp only [word3, put]; omega)
theorem tmac (p : BitVec 3) (d : BitVec 7) (a : BitVec 7) (b : BitVec 7) : Statement (.tmac p d a b) :=
  of_word _ rfl rfl (by simp only [put]; omega)
theorem tdrain (fm : BitVec 3) (d : BitVec 7) (a : BitVec 7) (b : BitVec 7) : Statement (.tdrain fm d a b) :=
  of_word _ rfl rfl (by simp only [put]; omega)
theorem taccZero (a : BitVec 7) (b : BitVec 7) : Statement (.taccZero a b) :=
  of_word _ rfl rfl (by simp only [put]; omega)
theorem taccRead (d : BitVec 7) (a : BitVec 7) (b : BitVec 7) : Statement (.taccRead d a b) :=
  of_word _ rfl rfl (by simp only [word3, put]; omega)
theorem taccWrite (d : BitVec 7) (a : BitVec 7) (b : BitVec 7) : Statement (.taccWrite d a b) :=
  of_word _ rfl rfl (by simp only [word3, put]; omega)
theorem taccAdd (d : BitVec 7) (a : BitVec 7) (b : BitVec 7) : Statement (.taccAdd d a b) :=
  of_word _ rfl rfl (by simp only [word3, put]; omega)
theorem taccScale (d : BitVec 7) (a : BitVec 7) (b : BitVec 7) : Statement (.taccScale d a b) :=
  of_word _ rfl rfl (by simp only [word3, put]; omega)
theorem bankCompute : Statement .bankCompute :=
  of_word _ rfl rfl rfl
theorem bankStorage : Statement .bankStorage :=
  of_word _ rfl rfl rfl
theorem bankAttach : Statement .bankAttach :=
  of_word _ rfl rfl rfl
theorem bankDetach : Statement .bankDetach :=
  of_word _ rfl rfl rfl
theorem bankQuery (d : BitVec 7) (a : BitVec 7) : Statement (.bankQuery d a) :=
  of_word _ rfl rfl (by simp only [put]; omega)
theorem dotv (fm : BitVec 3) (d : BitVec 7) (a : BitVec 7) (b : BitVec 7) : Statement (.dotv fm d a b) :=
  of_word _ rfl rfl (by simp only [put]; omega)
theorem arrLogic (d : BitVec 7) (a : BitVec 7) (b : BitVec 7) : Statement (.arrLogic d a b) :=
  of_word _ rfl rfl (by simp only [word3, put]; omega)
theorem arrAddsub (d : BitVec 7) (a : BitVec 7) (b : BitVec 7) : Statement (.arrAddsub d a b) :=
  of_word _ rfl rfl (by simp only [word3, put]; omega)
theorem arrMul (d : BitVec 7) (a : BitVec 7) (b : BitVec 7) : Statement (.arrMul d a b) :=
  of_word _ rfl rfl (by simp only [word3, put]; omega)
theorem arrCmp (d : BitVec 7) (a : BitVec 7) (b : BitVec 7) : Statement (.arrCmp d a b) :=
  of_word _ rfl rfl (by simp only [word3, put]; omega)
theorem arrSel (d : BitVec 7) (a : BitVec 7) (b : BitVec 7) : Statement (.arrSel d a b) :=
  of_word _ rfl rfl (by simp only [word3, put]; omega)
theorem arrShift (d : BitVec 7) (a : BitVec 7) (b : BitVec 7) : Statement (.arrShift d a b) :=
  of_word _ rfl rfl (by simp only [word3, put]; omega)
theorem arrPopc (d : BitVec 7) (a : BitVec 7) : Statement (.arrPopc d a) :=
  of_word _ rfl rfl (by simp only [put]; omega)
theorem arrBcast (d : BitVec 7) : Statement (.arrBcast d) :=
  of_word _ rfl rfl (by simp only [put]; omega)
theorem arrxArm (d : BitVec 7) (a : BitVec 7) (b : BitVec 7) : Statement (.arrxArm d a b) :=
  of_word _ rfl rfl (by simp only [word3, put]; omega)
theorem arrxDisarm (d : BitVec 7) (a : BitVec 7) : Statement (.arrxDisarm d a) :=
  of_word _ rfl rfl (by simp only [put]; omega)
theorem arrxLoad (d : BitVec 7) (a : BitVec 7) (b : BitVec 7) : Statement (.arrxLoad d a b) :=
  of_word _ rfl rfl (by simp only [word3, put]; omega)
theorem arrxStore (d : BitVec 7) (a : BitVec 7) (b : BitVec 7) : Statement (.arrxStore d a b) :=
  of_word _ rfl rfl (by simp only [word3, put]; omega)
theorem arrxFill (d : BitVec 7) (a : BitVec 7) : Statement (.arrxFill d a) :=
  of_word _ rfl rfl (by simp only [put]; omega)
theorem arrxQuery (d : BitVec 7) (a : BitVec 7) : Statement (.arrxQuery d a) :=
  of_word _ rfl rfl (by simp only [put]; omega)
theorem stkRowcopy (d : BitVec 7) (a : BitVec 7) (b : BitVec 7) : Statement (.stkRowcopy d a b) :=
  of_word _ rfl rfl (by simp only [word3, put]; omega)
theorem stkRowzero (d : BitVec 7) (a : BitVec 7) : Statement (.stkRowzero d a) :=
  of_word _ rfl rfl (by simp only [put]; omega)
theorem stkProbe (d : BitVec 7) (a : BitVec 7) : Statement (.stkProbe d a) :=
  of_word _ rfl rfl (by simp only [put]; omega)
theorem lnkTurn (d : BitVec 7) (a : BitVec 7) : Statement (.lnkTurn d a) :=
  of_word _ rfl rfl (by simp only [put]; omega)
theorem lnkStatus (d : BitVec 7) (a : BitVec 7) : Statement (.lnkStatus d a) :=
  of_word _ rfl rfl (by simp only [put]; omega)
theorem systemEventDelivery : Statement .systemEventDelivery := of_step rfl rfl
theorem quantumExpiry (sq : Nat) : Statement (.quantumExpiry sq) := of_step rfl rfl
theorem blockedInstructionComplete (sq k : Nat) : Statement (.blockedInstructionComplete sq k) := of_step rfl rfl
theorem loadComplete (sq k : Nat) : Statement (.loadComplete sq k) := of_step rfl rfl
theorem storeComplete (sq k : Nat) : Statement (.storeComplete sq k) := of_step rfl rfl
theorem atomicComplete (sq k : Nat) : Statement (.atomicComplete sq k) := of_step rfl rfl
theorem engineOperationComplete (sq k : Nat) : Statement (.engineOperationComplete sq k) := of_step rfl rfl
theorem lastPush (sq k : Nat) : Statement (.lastPush sq k) := of_step rfl rfl
theorem squadRetire (sq : Nat) : Statement (.squadRetire sq) := of_step rfl rfl
theorem notPresentReplay (sq k : Nat) : Statement (.notPresentReplay sq k) := of_step rfl rfl
theorem workQueueEntryTake (q : Nat) : Statement (.workQueueEntryTake q) := of_step rfl rfl
theorem dependencePoll : Statement .dependencePoll := of_step rfl rfl
theorem crewPlacement (g n : Nat) (cores : List Nat) : Statement (.crewPlacement g n cores) := of_step rfl rfl
theorem timedBudgetExceeded (g : Nat) : Statement (.timedBudgetExceeded g) := of_step rfl rfl
theorem preemptDraining (u : Nat) : Statement (.preemptDraining u) := of_step rfl rfl
theorem preemptSaving (u : Nat) : Statement (.preemptSaving u) := of_step rfl rfl
theorem preemptSaved (u : Nat) : Statement (.preemptSaved u) := of_step rfl rfl
theorem preemptRestoring (u : Nat) (cores : List Nat) : Statement (.preemptRestoring u cores) := of_step rfl rfl
theorem preemptResumed (u : Nat) : Statement (.preemptResumed u) := of_step rfl rfl
theorem partitionStart (p : Nat) : Statement (.partitionStart p) := of_step rfl rfl
theorem partitionStartComplete (p : Nat) : Statement (.partitionStartComplete p) := of_step rfl rfl
theorem partitionResize (p : Nat) : Statement (.partitionResize p) := of_step rfl rfl
theorem resizeRelease (p : Nat) : Statement (.resizeRelease p) := of_step rfl rfl
theorem resizeDone (p : Nat) : Statement (.resizeDone p) := of_step rfl rfl
theorem partitionStop (p : Nat) : Statement (.partitionStop p) := of_step rfl rfl
theorem endContext (p ctx : Nat) : Statement (.endContext p ctx) := of_step rfl rfl
theorem endContextComplete (p : Nat) : Statement (.endContextComplete p) := of_step rfl rfl
theorem partctlInvalidCmd (p : Nat) : Statement (.partctlInvalidCmd p) := of_step rfl rfl
theorem reservationWrite (p : Nat) (v : BitVec 64) : Statement (.reservationWrite p v) := of_step rfl rfl
theorem linkTurnStart (n : Nat) : Statement (.linkTurnStart n) := of_step rfl rfl
theorem turnDeadTimeEnd (n : Nat) : Statement (.turnDeadTimeEnd n) := of_step rfl rfl
theorem flitReplay (n g lane : Nat) : Statement (.flitReplay n g lane) := of_step rfl rfl
theorem retryWindowExpiry : Statement .retryWindowExpiry := of_step rfl rfl
theorem spanPortDown (p : Nat) : Statement (.spanPortDown p) := of_step rfl rfl
theorem spanPortTrained (p : Nat) : Statement (.spanPortTrained p) := of_step rfl rfl
theorem peerAccessTimeout (peer : Nat) : Statement (.peerAccessTimeout peer) := of_step rfl rfl
theorem peerRequest (rq : OutsideRequest) : Statement (.peerRequest rq) := of_step rfl rfl
theorem hostHdmWrite (pa : Nat) (bytes : List (BitVec 8)) (bad : Bool) : Statement (.hostHdmWrite pa bytes bad) := of_step rfl rfl
theorem hostHdmRead (pa n : Nat) : Statement (.hostHdmRead pa n) := of_step rfl rfl
theorem doorbell : Statement .doorbell := of_step rfl rfl
theorem qcfgWrite (q : Nat) (v : BitVec 64) : Statement (.qcfgWrite q v) := of_step rfl rfl
theorem qwriteWrite (q : Nat) (v : BitVec 64) : Statement (.qwriteWrite q v) := of_step rfl rfl
theorem bar0Write (off width : Nat) (v : BitVec 64) : Statement (.bar0Write off width v) := of_step rfl rfl
theorem sysstatWrite (v : BitVec 64) : Statement (.sysstatWrite v) := of_step rfl rfl
theorem errpopWrite (v : BitVec 64) : Statement (.errpopWrite v) := of_step rfl rfl
theorem mcwinEnable (v : BitVec 64) : Statement (.mcwinEnable v) := of_step rfl rfl
theorem mcwinDisable (v : BitVec 64) : Statement (.mcwinDisable v) := of_step rfl rfl
theorem mcwinExpansionDone (w : Nat) : Statement (.mcwinExpansionDone w) := of_step rfl rfl
theorem surveyctlWrite (v : BitVec 64) : Statement (.surveyctlWrite v) := of_step rfl rfl
theorem surveyCompareLatch : Statement .surveyCompareLatch := of_step rfl rfl
theorem surveyWriteOutDone : Statement .surveyWriteOutDone := of_step rfl rfl
theorem lnklanesWrite (v : BitVec 64) : Statement (.lnklanesWrite v) := of_step rfl rfl
theorem keepbaseWrite (v : BitVec 64) : Statement (.keepbaseWrite v) := of_step rfl rfl
theorem systemRegisterWrite (n : BitVec 7) (v : BitVec 64) : Statement (.systemRegisterWrite n v) := of_step rfl rfl
theorem planeScrub (bank : Nat) : Statement (.planeScrub bank) := of_step rfl rfl
theorem llcScrub (sec : Nat) (finding : Finding) : Statement (.llcScrub sec finding) := of_step rfl rfl
theorem hbmScrub (sec : Nat) (finding : Finding) : Statement (.hbmScrub sec finding) := of_step rfl rfl
theorem bankRetentionEntry (bank : Nat) : Statement (.bankRetentionEntry bank) := of_step rfl rfl
theorem bankRetentionExit (bank : Nat) : Statement (.bankRetentionExit bank) := of_step rfl rfl
theorem wayGroupRetentionEntry (slice g : Nat) : Statement (.wayGroupRetentionEntry slice g) := of_step rfl rfl
theorem wayGroupRetentionExit (slice g : Nat) : Statement (.wayGroupRetentionExit slice g) := of_step rfl rfl
theorem overcurrentWarning : Statement .overcurrentWarning := of_step rfl rfl
theorem overcurrentClear : Statement .overcurrentClear := of_step rfl rfl
theorem thermalTrip : Statement .thermalTrip := of_step rfl rfl
theorem powerOnReset : Statement .powerOnReset := of_step rfl rfl
theorem cxlConventionalReset : Statement .cxlConventionalReset := of_step rfl rfl
theorem meridianLock : Statement .meridianLock := of_step rfl rfl
theorem firmwareVerify (status : BitVec 8) (entry : BitVec 64) : Statement (.firmwareVerify status entry) := of_step rfl rfl
theorem functionReady (fn : ReadyFunction) : Statement (.functionReady fn) := of_step rfl rfl
theorem illegalInstructionFault : Statement .illegalInstructionFault := of_step rfl rfl

end Shape

end Sys2Proof.Laws
end

