-- ==== Sys2Proof/Laws/State.lean ====
section
/-! SUPPORT. What each update of the state leaves as it was, field by field, and what it writes; true by definition. -/

namespace Sys2Proof.Machine

/-! ### The squad whose step runs -/

@[simp] theorem State.onSq_mem (s : State) (f : Squad → Squad) : (s.onSq f).mem = s.mem := rfl
@[simp] theorem State.onSq_poison (s : State) (f : Squad → Squad) : (s.onSq f).poison = s.poison := rfl
@[simp] theorem State.onSq_codes (s : State) (f : Squad → Squad) : (s.onSq f).codes = s.codes := rfl
@[simp] theorem State.onSq_parked (s : State) (f : Squad → Squad) : (s.onSq f).parked = s.parked := rfl
@[simp] theorem State.onSq_crews (s : State) (f : Squad → Squad) : (s.onSq f).crews = s.crews := rfl
@[simp] theorem State.onSq_grids (s : State) (f : Squad → Squad) : (s.onSq f).grids = s.grids := rfl
@[simp] theorem State.onSq_ctxs (s : State) (f : Squad → Squad) : (s.onSq f).ctxs = s.ctxs := rfl
@[simp] theorem State.onSq_resids (s : State) (f : Squad → Squad) : (s.onSq f).resids = s.resids := rfl
@[simp] theorem State.onSq_l1 (s : State) (f : Squad → Squad) : (s.onSq f).l1 = s.l1 := rfl
@[simp] theorem State.onSq_llc (s : State) (f : Squad → Squad) : (s.onSq f).llc = s.llc := rfl
@[simp] theorem State.onSq_ways (s : State) (f : Squad → Squad) : (s.onSq f).ways = s.ways := rfl
@[simp] theorem State.onSq_wayRet (s : State) (f : Squad → Squad) : (s.onSq f).wayRet = s.wayRet := rfl
@[simp] theorem State.onSq_bankRet (s : State) (f : Squad → Squad) : (s.onSq f).bankRet = s.bankRet := rfl
@[simp] theorem State.onSq_tlb (s : State) (f : Squad → Squad) : (s.onSq f).tlb = s.tlb := rfl
@[simp] theorem State.onSq_fused (s : State) (f : Squad → Squad) : (s.onSq f).fused = s.fused := rfl
@[simp] theorem State.onSq_latent (s : State) (f : Squad → Squad) : (s.onSq f).latent = s.latent := rfl
@[simp] theorem State.onSq_links (s : State) (f : Squad → Squad) : (s.onSq f).links = s.links := rfl
@[simp] theorem State.onSq_parts (s : State) (f : Squad → Squad) : (s.onSq f).parts = s.parts := rfl
@[simp] theorem State.onSq_queues (s : State) (f : Squad → Squad) : (s.onSq f).queues = s.queues := rfl
@[simp] theorem State.onSq_units (s : State) (f : Squad → Squad) : (s.onSq f).units = s.units := rfl
@[simp] theorem State.onSq_dev (s : State) (f : Squad → Squad) : (s.onSq f).dev = s.dev := rfl
@[simp] theorem State.onSq_cycle (s : State) (f : Squad → Squad) : (s.onSq f).cycle = s.cycle := rfl
@[simp] theorem State.onSq_survey (s : State) (f : Squad → Squad) : (s.onSq f).survey = s.survey := rfl
@[simp] theorem State.onSq_meridian (s : State) (f : Squad → Squad) : (s.onSq f).meridian = s.meridian := rfl
@[simp] theorem State.onSq_lastCore (s : State) (f : Squad → Squad) : (s.onSq f).lastCore = s.lastCore := rfl
@[simp] theorem State.onSq_serial (s : State) (f : Squad → Squad) : (s.onSq f).serial = s.serial := rfl
@[simp] theorem State.onSq_tickets (s : State) (f : Squad → Squad) : (s.onSq f).tickets = s.tickets := rfl
@[simp] theorem State.onSq_plan (s : State) (f : Squad → Squad) : (s.onSq f).plan = s.plan := rfl
@[simp] theorem State.onSq_hostOut (s : State) (f : Squad → Squad) : (s.onSq f).hostOut = s.hostOut := rfl
@[simp] theorem State.onSq_sq (s : State) (f : Squad → Squad) : (s.onSq f).sq = f s.sq := rfl

/-! ### A vector register -/

@[simp] theorem State.setV_mem (s : State) (n : Nat) (m : Mask) (f : Nat → Word) : (s.setV n m f).mem = s.mem := rfl
@[simp] theorem State.setV_poison (s : State) (n : Nat) (m : Mask) (f : Nat → Word) : (s.setV n m f).poison = s.poison := rfl
@[simp] theorem State.setV_codes (s : State) (n : Nat) (m : Mask) (f : Nat → Word) : (s.setV n m f).codes = s.codes := rfl
@[simp] theorem State.setV_parked (s : State) (n : Nat) (m : Mask) (f : Nat → Word) : (s.setV n m f).parked = s.parked := rfl
@[simp] theorem State.setV_crews (s : State) (n : Nat) (m : Mask) (f : Nat → Word) : (s.setV n m f).crews = s.crews := rfl
@[simp] theorem State.setV_grids (s : State) (n : Nat) (m : Mask) (f : Nat → Word) : (s.setV n m f).grids = s.grids := rfl
@[simp] theorem State.setV_ctxs (s : State) (n : Nat) (m : Mask) (f : Nat → Word) : (s.setV n m f).ctxs = s.ctxs := rfl
@[simp] theorem State.setV_resids (s : State) (n : Nat) (m : Mask) (f : Nat → Word) : (s.setV n m f).resids = s.resids := rfl
@[simp] theorem State.setV_l1 (s : State) (n : Nat) (m : Mask) (f : Nat → Word) : (s.setV n m f).l1 = s.l1 := rfl
@[simp] theorem State.setV_llc (s : State) (n : Nat) (m : Mask) (f : Nat → Word) : (s.setV n m f).llc = s.llc := rfl
@[simp] theorem State.setV_ways (s : State) (n : Nat) (m : Mask) (f : Nat → Word) : (s.setV n m f).ways = s.ways := rfl
@[simp] theorem State.setV_wayRet (s : State) (n : Nat) (m : Mask) (f : Nat → Word) : (s.setV n m f).wayRet = s.wayRet := rfl
@[simp] theorem State.setV_bankRet (s : State) (n : Nat) (m : Mask) (f : Nat → Word) : (s.setV n m f).bankRet = s.bankRet := rfl
@[simp] theorem State.setV_tlb (s : State) (n : Nat) (m : Mask) (f : Nat → Word) : (s.setV n m f).tlb = s.tlb := rfl
@[simp] theorem State.setV_fused (s : State) (n : Nat) (m : Mask) (f : Nat → Word) : (s.setV n m f).fused = s.fused := rfl
@[simp] theorem State.setV_latent (s : State) (n : Nat) (m : Mask) (f : Nat → Word) : (s.setV n m f).latent = s.latent := rfl
@[simp] theorem State.setV_links (s : State) (n : Nat) (m : Mask) (f : Nat → Word) : (s.setV n m f).links = s.links := rfl
@[simp] theorem State.setV_parts (s : State) (n : Nat) (m : Mask) (f : Nat → Word) : (s.setV n m f).parts = s.parts := rfl
@[simp] theorem State.setV_queues (s : State) (n : Nat) (m : Mask) (f : Nat → Word) : (s.setV n m f).queues = s.queues := rfl
@[simp] theorem State.setV_units (s : State) (n : Nat) (m : Mask) (f : Nat → Word) : (s.setV n m f).units = s.units := rfl
@[simp] theorem State.setV_dev (s : State) (n : Nat) (m : Mask) (f : Nat → Word) : (s.setV n m f).dev = s.dev := rfl
@[simp] theorem State.setV_cycle (s : State) (n : Nat) (m : Mask) (f : Nat → Word) : (s.setV n m f).cycle = s.cycle := rfl
@[simp] theorem State.setV_survey (s : State) (n : Nat) (m : Mask) (f : Nat → Word) : (s.setV n m f).survey = s.survey := rfl
@[simp] theorem State.setV_meridian (s : State) (n : Nat) (m : Mask) (f : Nat → Word) :
    (s.setV n m f).meridian = s.meridian := rfl
@[simp] theorem State.setV_lastCore (s : State) (n : Nat) (m : Mask) (f : Nat → Word) :
    (s.setV n m f).lastCore = s.lastCore := rfl
@[simp] theorem State.setV_serial (s : State) (n : Nat) (m : Mask) (f : Nat → Word) : (s.setV n m f).serial = s.serial := rfl
@[simp] theorem State.setV_tickets (s : State) (n : Nat) (m : Mask) (f : Nat → Word) : (s.setV n m f).tickets = s.tickets := rfl
@[simp] theorem State.setV_plan (s : State) (n : Nat) (m : Mask) (f : Nat → Word) : (s.setV n m f).plan = s.plan := rfl
@[simp] theorem State.setV_hostOut (s : State) (n : Nat) (m : Mask) (f : Nat → Word) : (s.setV n m f).hostOut = s.hostOut := rfl
@[simp] theorem State.setV_sq_ident (s : State) (n : Nat) (m : Mask) (f : Nat → Word) :
    (s.setV n m f).sq.ident = s.sq.ident := rfl
@[simp] theorem State.setV_sq_status (s : State) (n : Nat) (m : Mask) (f : Nat → Word) :
    (s.setV n m f).sq.status = s.sq.status := rfl
@[simp] theorem State.setV_sq_thr (s : State) (n : Nat) (m : Mask) (f : Nat → Word) : (s.setV n m f).sq.thr = s.sq.thr := rfl
@[simp] theorem State.setV_sq_mode (s : State) (n : Nat) (m : Mask) (f : Nat → Word) : (s.setV n m f).sq.mode = s.sq.mode := rfl
@[simp] theorem State.setV_sq_flags (s : State) (n : Nat) (m : Mask) (f : Nat → Word) :
    (s.setV n m f).sq.flags = s.sq.flags := rfl
@[simp] theorem State.setV_sq_trap (s : State) (n : Nat) (m : Mask) (f : Nat → Word) : (s.setV n m f).sq.trap = s.sq.trap := rfl
@[simp] theorem State.setV_sq_sys (s : State) (n : Nat) (m : Mask) (f : Nat → Word) : (s.setV n m f).sq.sys = s.sq.sys := rfl
@[simp] theorem State.setV_sq_ops (s : State) (n : Nat) (m : Mask) (f : Nat → Word) : (s.setV n m f).sq.ops = s.sq.ops := rfl
@[simp] theorem State.setV_sq_errs (s : State) (n : Nat) (m : Mask) (f : Nat → Word) : (s.setV n m f).sq.errs = s.sq.errs := rfl
@[simp] theorem State.setV_sq_poisonS (s : State) (n : Nat) (m : Mask) (f : Nat → Word) :
    (s.setV n m f).sq.poisonS = s.sq.poisonS := rfl
@[simp] theorem State.setV_sq_replay (s : State) (n : Nat) (m : Mask) (f : Nat → Word) :
    (s.setV n m f).sq.replay = s.sq.replay := rfl
@[simp] theorem State.setV_sq_exitPc (s : State) (n : Nat) (m : Mask) (f : Nat → Word) :
    (s.setV n m f).sq.exitPc = s.sq.exitPc := rfl
@[simp] theorem State.setV_sq_cur (s : State) (n : Nat) (m : Mask) (f : Nat → Word) : (s.setV n m f).sq.cur = s.sq.cur := rfl
@[simp] theorem State.setV_sq_regs (s : State) (n : Nat) (m : Mask) (f : Nat → Word) :
    (s.setV n m f).sq.regs = s.sq.regs.setV n m f := rfl

/-! ### A vector register in the enabled lanes -/

@[simp] theorem State.putV_mem (s : State) (n : Nat) (f : Nat → Word) : (s.putV n f).mem = s.mem := rfl
@[simp] theorem State.putV_poison (s : State) (n : Nat) (f : Nat → Word) : (s.putV n f).poison = s.poison := rfl
@[simp] theorem State.putV_codes (s : State) (n : Nat) (f : Nat → Word) : (s.putV n f).codes = s.codes := rfl
@[simp] theorem State.putV_parked (s : State) (n : Nat) (f : Nat → Word) : (s.putV n f).parked = s.parked := rfl
@[simp] theorem State.putV_crews (s : State) (n : Nat) (f : Nat → Word) : (s.putV n f).crews = s.crews := rfl
@[simp] theorem State.putV_grids (s : State) (n : Nat) (f : Nat → Word) : (s.putV n f).grids = s.grids := rfl
@[simp] theorem State.putV_ctxs (s : State) (n : Nat) (f : Nat → Word) : (s.putV n f).ctxs = s.ctxs := rfl
@[simp] theorem State.putV_resids (s : State) (n : Nat) (f : Nat → Word) : (s.putV n f).resids = s.resids := rfl
@[simp] theorem State.putV_l1 (s : State) (n : Nat) (f : Nat → Word) : (s.putV n f).l1 = s.l1 := rfl
@[simp] theorem State.putV_llc (s : State) (n : Nat) (f : Nat → Word) : (s.putV n f).llc = s.llc := rfl
@[simp] theorem State.putV_ways (s : State) (n : Nat) (f : Nat → Word) : (s.putV n f).ways = s.ways := rfl
@[simp] theorem State.putV_wayRet (s : State) (n : Nat) (f : Nat → Word) : (s.putV n f).wayRet = s.wayRet := rfl
@[simp] theorem State.putV_bankRet (s : State) (n : Nat) (f : Nat → Word) : (s.putV n f).bankRet = s.bankRet := rfl
@[simp] theorem State.putV_tlb (s : State) (n : Nat) (f : Nat → Word) : (s.putV n f).tlb = s.tlb := rfl
@[simp] theorem State.putV_fused (s : State) (n : Nat) (f : Nat → Word) : (s.putV n f).fused = s.fused := rfl
@[simp] theorem State.putV_latent (s : State) (n : Nat) (f : Nat → Word) : (s.putV n f).latent = s.latent := rfl
@[simp] theorem State.putV_links (s : State) (n : Nat) (f : Nat → Word) : (s.putV n f).links = s.links := rfl
@[simp] theorem State.putV_parts (s : State) (n : Nat) (f : Nat → Word) : (s.putV n f).parts = s.parts := rfl
@[simp] theorem State.putV_queues (s : State) (n : Nat) (f : Nat → Word) : (s.putV n f).queues = s.queues := rfl
@[simp] theorem State.putV_units (s : State) (n : Nat) (f : Nat → Word) : (s.putV n f).units = s.units := rfl
@[simp] theorem State.putV_dev (s : State) (n : Nat) (f : Nat → Word) : (s.putV n f).dev = s.dev := rfl
@[simp] theorem State.putV_cycle (s : State) (n : Nat) (f : Nat → Word) : (s.putV n f).cycle = s.cycle := rfl
@[simp] theorem State.putV_survey (s : State) (n : Nat) (f : Nat → Word) : (s.putV n f).survey = s.survey := rfl
@[simp] theorem State.putV_meridian (s : State) (n : Nat) (f : Nat → Word) : (s.putV n f).meridian = s.meridian := rfl
@[simp] theorem State.putV_lastCore (s : State) (n : Nat) (f : Nat → Word) : (s.putV n f).lastCore = s.lastCore := rfl
@[simp] theorem State.putV_serial (s : State) (n : Nat) (f : Nat → Word) : (s.putV n f).serial = s.serial := rfl
@[simp] theorem State.putV_tickets (s : State) (n : Nat) (f : Nat → Word) : (s.putV n f).tickets = s.tickets := rfl
@[simp] theorem State.putV_plan (s : State) (n : Nat) (f : Nat → Word) : (s.putV n f).plan = s.plan := rfl
@[simp] theorem State.putV_hostOut (s : State) (n : Nat) (f : Nat → Word) : (s.putV n f).hostOut = s.hostOut := rfl
@[simp] theorem State.putV_sq_ident (s : State) (n : Nat) (f : Nat → Word) : (s.putV n f).sq.ident = s.sq.ident := rfl
@[simp] theorem State.putV_sq_status (s : State) (n : Nat) (f : Nat → Word) : (s.putV n f).sq.status = s.sq.status := rfl
@[simp] theorem State.putV_sq_thr (s : State) (n : Nat) (f : Nat → Word) : (s.putV n f).sq.thr = s.sq.thr := rfl
@[simp] theorem State.putV_sq_mode (s : State) (n : Nat) (f : Nat → Word) : (s.putV n f).sq.mode = s.sq.mode := rfl
@[simp] theorem State.putV_sq_flags (s : State) (n : Nat) (f : Nat → Word) : (s.putV n f).sq.flags = s.sq.flags := rfl
@[simp] theorem State.putV_sq_trap (s : State) (n : Nat) (f : Nat → Word) : (s.putV n f).sq.trap = s.sq.trap := rfl
@[simp] theorem State.putV_sq_sys (s : State) (n : Nat) (f : Nat → Word) : (s.putV n f).sq.sys = s.sq.sys := rfl
@[simp] theorem State.putV_sq_ops (s : State) (n : Nat) (f : Nat → Word) : (s.putV n f).sq.ops = s.sq.ops := rfl
@[simp] theorem State.putV_sq_errs (s : State) (n : Nat) (f : Nat → Word) : (s.putV n f).sq.errs = s.sq.errs := rfl
@[simp] theorem State.putV_sq_poisonS (s : State) (n : Nat) (f : Nat → Word) : (s.putV n f).sq.poisonS = s.sq.poisonS := rfl
@[simp] theorem State.putV_sq_replay (s : State) (n : Nat) (f : Nat → Word) : (s.putV n f).sq.replay = s.sq.replay := rfl
@[simp] theorem State.putV_sq_exitPc (s : State) (n : Nat) (f : Nat → Word) : (s.putV n f).sq.exitPc = s.sq.exitPc := rfl
@[simp] theorem State.putV_sq_cur (s : State) (n : Nat) (f : Nat → Word) : (s.putV n f).sq.cur = s.sq.cur := rfl
@[simp] theorem State.putV_sq_regs (s : State) (n : Nat) (f : Nat → Word) :
    (s.putV n f).sq.regs = s.sq.regs.setV n s.sq.cur.enabled f := rfl

/-! ### A scalar register -/

@[simp] theorem State.setX_mem (s : State) (n : Nat) (x : DWord) : (s.setX n x).mem = s.mem := rfl
@[simp] theorem State.setX_poison (s : State) (n : Nat) (x : DWord) : (s.setX n x).poison = s.poison := rfl
@[simp] theorem State.setX_codes (s : State) (n : Nat) (x : DWord) : (s.setX n x).codes = s.codes := rfl
@[simp] theorem State.setX_parked (s : State) (n : Nat) (x : DWord) : (s.setX n x).parked = s.parked := rfl
@[simp] theorem State.setX_crews (s : State) (n : Nat) (x : DWord) : (s.setX n x).crews = s.crews := rfl
@[simp] theorem State.setX_grids (s : State) (n : Nat) (x : DWord) : (s.setX n x).grids = s.grids := rfl
@[simp] theorem State.setX_ctxs (s : State) (n : Nat) (x : DWord) : (s.setX n x).ctxs = s.ctxs := rfl
@[simp] theorem State.setX_resids (s : State) (n : Nat) (x : DWord) : (s.setX n x).resids = s.resids := rfl
@[simp] theorem State.setX_l1 (s : State) (n : Nat) (x : DWord) : (s.setX n x).l1 = s.l1 := rfl
@[simp] theorem State.setX_llc (s : State) (n : Nat) (x : DWord) : (s.setX n x).llc = s.llc := rfl
@[simp] theorem State.setX_ways (s : State) (n : Nat) (x : DWord) : (s.setX n x).ways = s.ways := rfl
@[simp] theorem State.setX_wayRet (s : State) (n : Nat) (x : DWord) : (s.setX n x).wayRet = s.wayRet := rfl
@[simp] theorem State.setX_bankRet (s : State) (n : Nat) (x : DWord) : (s.setX n x).bankRet = s.bankRet := rfl
@[simp] theorem State.setX_tlb (s : State) (n : Nat) (x : DWord) : (s.setX n x).tlb = s.tlb := rfl
@[simp] theorem State.setX_fused (s : State) (n : Nat) (x : DWord) : (s.setX n x).fused = s.fused := rfl
@[simp] theorem State.setX_latent (s : State) (n : Nat) (x : DWord) : (s.setX n x).latent = s.latent := rfl
@[simp] theorem State.setX_links (s : State) (n : Nat) (x : DWord) : (s.setX n x).links = s.links := rfl
@[simp] theorem State.setX_parts (s : State) (n : Nat) (x : DWord) : (s.setX n x).parts = s.parts := rfl
@[simp] theorem State.setX_queues (s : State) (n : Nat) (x : DWord) : (s.setX n x).queues = s.queues := rfl
@[simp] theorem State.setX_units (s : State) (n : Nat) (x : DWord) : (s.setX n x).units = s.units := rfl
@[simp] theorem State.setX_dev (s : State) (n : Nat) (x : DWord) : (s.setX n x).dev = s.dev := rfl
@[simp] theorem State.setX_cycle (s : State) (n : Nat) (x : DWord) : (s.setX n x).cycle = s.cycle := rfl
@[simp] theorem State.setX_survey (s : State) (n : Nat) (x : DWord) : (s.setX n x).survey = s.survey := rfl
@[simp] theorem State.setX_meridian (s : State) (n : Nat) (x : DWord) : (s.setX n x).meridian = s.meridian := rfl
@[simp] theorem State.setX_lastCore (s : State) (n : Nat) (x : DWord) : (s.setX n x).lastCore = s.lastCore := rfl
@[simp] theorem State.setX_serial (s : State) (n : Nat) (x : DWord) : (s.setX n x).serial = s.serial := rfl
@[simp] theorem State.setX_tickets (s : State) (n : Nat) (x : DWord) : (s.setX n x).tickets = s.tickets := rfl
@[simp] theorem State.setX_plan (s : State) (n : Nat) (x : DWord) : (s.setX n x).plan = s.plan := rfl
@[simp] theorem State.setX_hostOut (s : State) (n : Nat) (x : DWord) : (s.setX n x).hostOut = s.hostOut := rfl
@[simp] theorem State.setX_sq_ident (s : State) (n : Nat) (x : DWord) : (s.setX n x).sq.ident = s.sq.ident := rfl
@[simp] theorem State.setX_sq_status (s : State) (n : Nat) (x : DWord) : (s.setX n x).sq.status = s.sq.status := rfl
@[simp] theorem State.setX_sq_thr (s : State) (n : Nat) (x : DWord) : (s.setX n x).sq.thr = s.sq.thr := rfl
@[simp] theorem State.setX_sq_mode (s : State) (n : Nat) (x : DWord) : (s.setX n x).sq.mode = s.sq.mode := rfl
@[simp] theorem State.setX_sq_flags (s : State) (n : Nat) (x : DWord) : (s.setX n x).sq.flags = s.sq.flags := rfl
@[simp] theorem State.setX_sq_trap (s : State) (n : Nat) (x : DWord) : (s.setX n x).sq.trap = s.sq.trap := rfl
@[simp] theorem State.setX_sq_sys (s : State) (n : Nat) (x : DWord) : (s.setX n x).sq.sys = s.sq.sys := rfl
@[simp] theorem State.setX_sq_ops (s : State) (n : Nat) (x : DWord) : (s.setX n x).sq.ops = s.sq.ops := rfl
@[simp] theorem State.setX_sq_errs (s : State) (n : Nat) (x : DWord) : (s.setX n x).sq.errs = s.sq.errs := rfl
@[simp] theorem State.setX_sq_poisonV (s : State) (n : Nat) (x : DWord) : (s.setX n x).sq.poisonV = s.sq.poisonV := rfl
@[simp] theorem State.setX_sq_replay (s : State) (n : Nat) (x : DWord) : (s.setX n x).sq.replay = s.sq.replay := rfl
@[simp] theorem State.setX_sq_exitPc (s : State) (n : Nat) (x : DWord) : (s.setX n x).sq.exitPc = s.sq.exitPc := rfl
@[simp] theorem State.setX_sq_cur (s : State) (n : Nat) (x : DWord) : (s.setX n x).sq.cur = s.sq.cur := rfl
@[simp] theorem State.setX_sq_regs (s : State) (n : Nat) (x : DWord) : (s.setX n x).sq.regs = s.sq.regs.setS n x := rfl

/-! ### A predicate -/

@[simp] theorem State.setP_mem (s : State) (n : Nat) (m x : Mask) : (s.setP n m x).mem = s.mem := rfl
@[simp] theorem State.setP_poison (s : State) (n : Nat) (m x : Mask) : (s.setP n m x).poison = s.poison := rfl
@[simp] theorem State.setP_codes (s : State) (n : Nat) (m x : Mask) : (s.setP n m x).codes = s.codes := rfl
@[simp] theorem State.setP_parked (s : State) (n : Nat) (m x : Mask) : (s.setP n m x).parked = s.parked := rfl
@[simp] theorem State.setP_crews (s : State) (n : Nat) (m x : Mask) : (s.setP n m x).crews = s.crews := rfl
@[simp] theorem State.setP_grids (s : State) (n : Nat) (m x : Mask) : (s.setP n m x).grids = s.grids := rfl
@[simp] theorem State.setP_ctxs (s : State) (n : Nat) (m x : Mask) : (s.setP n m x).ctxs = s.ctxs := rfl
@[simp] theorem State.setP_resids (s : State) (n : Nat) (m x : Mask) : (s.setP n m x).resids = s.resids := rfl
@[simp] theorem State.setP_l1 (s : State) (n : Nat) (m x : Mask) : (s.setP n m x).l1 = s.l1 := rfl
@[simp] theorem State.setP_llc (s : State) (n : Nat) (m x : Mask) : (s.setP n m x).llc = s.llc := rfl
@[simp] theorem State.setP_ways (s : State) (n : Nat) (m x : Mask) : (s.setP n m x).ways = s.ways := rfl
@[simp] theorem State.setP_wayRet (s : State) (n : Nat) (m x : Mask) : (s.setP n m x).wayRet = s.wayRet := rfl
@[simp] theorem State.setP_bankRet (s : State) (n : Nat) (m x : Mask) : (s.setP n m x).bankRet = s.bankRet := rfl
@[simp] theorem State.setP_tlb (s : State) (n : Nat) (m x : Mask) : (s.setP n m x).tlb = s.tlb := rfl
@[simp] theorem State.setP_fused (s : State) (n : Nat) (m x : Mask) : (s.setP n m x).fused = s.fused := rfl
@[simp] theorem State.setP_latent (s : State) (n : Nat) (m x : Mask) : (s.setP n m x).latent = s.latent := rfl
@[simp] theorem State.setP_links (s : State) (n : Nat) (m x : Mask) : (s.setP n m x).links = s.links := rfl
@[simp] theorem State.setP_parts (s : State) (n : Nat) (m x : Mask) : (s.setP n m x).parts = s.parts := rfl
@[simp] theorem State.setP_queues (s : State) (n : Nat) (m x : Mask) : (s.setP n m x).queues = s.queues := rfl
@[simp] theorem State.setP_units (s : State) (n : Nat) (m x : Mask) : (s.setP n m x).units = s.units := rfl
@[simp] theorem State.setP_dev (s : State) (n : Nat) (m x : Mask) : (s.setP n m x).dev = s.dev := rfl
@[simp] theorem State.setP_cycle (s : State) (n : Nat) (m x : Mask) : (s.setP n m x).cycle = s.cycle := rfl
@[simp] theorem State.setP_survey (s : State) (n : Nat) (m x : Mask) : (s.setP n m x).survey = s.survey := rfl
@[simp] theorem State.setP_meridian (s : State) (n : Nat) (m x : Mask) : (s.setP n m x).meridian = s.meridian := rfl
@[simp] theorem State.setP_lastCore (s : State) (n : Nat) (m x : Mask) : (s.setP n m x).lastCore = s.lastCore := rfl
@[simp] theorem State.setP_serial (s : State) (n : Nat) (m x : Mask) : (s.setP n m x).serial = s.serial := rfl
@[simp] theorem State.setP_tickets (s : State) (n : Nat) (m x : Mask) : (s.setP n m x).tickets = s.tickets := rfl
@[simp] theorem State.setP_plan (s : State) (n : Nat) (m x : Mask) : (s.setP n m x).plan = s.plan := rfl
@[simp] theorem State.setP_hostOut (s : State) (n : Nat) (m x : Mask) : (s.setP n m x).hostOut = s.hostOut := rfl
@[simp] theorem State.setP_sq_ident (s : State) (n : Nat) (m x : Mask) : (s.setP n m x).sq.ident = s.sq.ident := rfl
@[simp] theorem State.setP_sq_status (s : State) (n : Nat) (m x : Mask) : (s.setP n m x).sq.status = s.sq.status := rfl
@[simp] theorem State.setP_sq_thr (s : State) (n : Nat) (m x : Mask) : (s.setP n m x).sq.thr = s.sq.thr := rfl
@[simp] theorem State.setP_sq_mode (s : State) (n : Nat) (m x : Mask) : (s.setP n m x).sq.mode = s.sq.mode := rfl
@[simp] theorem State.setP_sq_flags (s : State) (n : Nat) (m x : Mask) : (s.setP n m x).sq.flags = s.sq.flags := rfl
@[simp] theorem State.setP_sq_trap (s : State) (n : Nat) (m x : Mask) : (s.setP n m x).sq.trap = s.sq.trap := rfl
@[simp] theorem State.setP_sq_sys (s : State) (n : Nat) (m x : Mask) : (s.setP n m x).sq.sys = s.sq.sys := rfl
@[simp] theorem State.setP_sq_ops (s : State) (n : Nat) (m x : Mask) : (s.setP n m x).sq.ops = s.sq.ops := rfl
@[simp] theorem State.setP_sq_errs (s : State) (n : Nat) (m x : Mask) : (s.setP n m x).sq.errs = s.sq.errs := rfl
@[simp] theorem State.setP_sq_poisonV (s : State) (n : Nat) (m x : Mask) : (s.setP n m x).sq.poisonV = s.sq.poisonV := rfl
@[simp] theorem State.setP_sq_poisonS (s : State) (n : Nat) (m x : Mask) : (s.setP n m x).sq.poisonS = s.sq.poisonS := rfl
@[simp] theorem State.setP_sq_replay (s : State) (n : Nat) (m x : Mask) : (s.setP n m x).sq.replay = s.sq.replay := rfl
@[simp] theorem State.setP_sq_exitPc (s : State) (n : Nat) (m x : Mask) : (s.setP n m x).sq.exitPc = s.sq.exitPc := rfl
@[simp] theorem State.setP_sq_cur (s : State) (n : Nat) (m x : Mask) : (s.setP n m x).sq.cur = s.sq.cur := rfl
@[simp] theorem State.setP_sq_regs (s : State) (n : Nat) (m x : Mask) : (s.setP n m x).sq.regs = s.sq.regs.setP n m x := rfl

/-! ### Program counters -/

@[simp] theorem State.setPc_mem (s : State) (m : Mask) (f : Nat → DWord) :
    (s.setPc m f).mem = s.mem := by simp only [State.setPc, State.onSq]
@[simp] theorem State.setPc_poison (s : State) (m : Mask) (f : Nat → DWord) :
    (s.setPc m f).poison = s.poison := by simp only [State.setPc, State.onSq]
@[simp] theorem State.setPc_codes (s : State) (m : Mask) (f : Nat → DWord) :
    (s.setPc m f).codes = s.codes := by simp only [State.setPc, State.onSq]
@[simp] theorem State.setPc_parked (s : State) (m : Mask) (f : Nat → DWord) :
    (s.setPc m f).parked = s.parked := by simp only [State.setPc, State.onSq]
@[simp] theorem State.setPc_crews (s : State) (m : Mask) (f : Nat → DWord) :
    (s.setPc m f).crews = s.crews := by simp only [State.setPc, State.onSq]
@[simp] theorem State.setPc_grids (s : State) (m : Mask) (f : Nat → DWord) :
    (s.setPc m f).grids = s.grids := by simp only [State.setPc, State.onSq]
@[simp] theorem State.setPc_ctxs (s : State) (m : Mask) (f : Nat → DWord) :
    (s.setPc m f).ctxs = s.ctxs := by simp only [State.setPc, State.onSq]
@[simp] theorem State.setPc_resids (s : State) (m : Mask) (f : Nat → DWord) :
    (s.setPc m f).resids = s.resids := by simp only [State.setPc, State.onSq]
@[simp] theorem State.setPc_l1 (s : State) (m : Mask) (f : Nat → DWord) :
    (s.setPc m f).l1 = s.l1 := by simp only [State.setPc, State.onSq]
@[simp] theorem State.setPc_llc (s : State) (m : Mask) (f : Nat → DWord) :
    (s.setPc m f).llc = s.llc := by simp only [State.setPc, State.onSq]
@[simp] theorem State.setPc_ways (s : State) (m : Mask) (f : Nat → DWord) :
    (s.setPc m f).ways = s.ways := by simp only [State.setPc, State.onSq]
@[simp] theorem State.setPc_wayRet (s : State) (m : Mask) (f : Nat → DWord) :
    (s.setPc m f).wayRet = s.wayRet := by simp only [State.setPc, State.onSq]
@[simp] theorem State.setPc_bankRet (s : State) (m : Mask) (f : Nat → DWord) :
    (s.setPc m f).bankRet = s.bankRet := by simp only [State.setPc, State.onSq]
@[simp] theorem State.setPc_tlb (s : State) (m : Mask) (f : Nat → DWord) :
    (s.setPc m f).tlb = s.tlb := by simp only [State.setPc, State.onSq]
@[simp] theorem State.setPc_fused (s : State) (m : Mask) (f : Nat → DWord) :
    (s.setPc m f).fused = s.fused := by simp only [State.setPc, State.onSq]
@[simp] theorem State.setPc_latent (s : State) (m : Mask) (f : Nat → DWord) :
    (s.setPc m f).latent = s.latent := by simp only [State.setPc, State.onSq]
@[simp] theorem State.setPc_links (s : State) (m : Mask) (f : Nat → DWord) :
    (s.setPc m f).links = s.links := by simp only [State.setPc, State.onSq]
@[simp] theorem State.setPc_parts (s : State) (m : Mask) (f : Nat → DWord) :
    (s.setPc m f).parts = s.parts := by simp only [State.setPc, State.onSq]
@[simp] theorem State.setPc_queues (s : State) (m : Mask) (f : Nat → DWord) :
    (s.setPc m f).queues = s.queues := by simp only [State.setPc, State.onSq]
@[simp] theorem State.setPc_units (s : State) (m : Mask) (f : Nat → DWord) :
    (s.setPc m f).units = s.units := by simp only [State.setPc, State.onSq]
@[simp] theorem State.setPc_dev (s : State) (m : Mask) (f : Nat → DWord) :
    (s.setPc m f).dev = s.dev := by simp only [State.setPc, State.onSq]
@[simp] theorem State.setPc_cycle (s : State) (m : Mask) (f : Nat → DWord) :
    (s.setPc m f).cycle = s.cycle := by simp only [State.setPc, State.onSq]
@[simp] theorem State.setPc_survey (s : State) (m : Mask) (f : Nat → DWord) :
    (s.setPc m f).survey = s.survey := by simp only [State.setPc, State.onSq]
@[simp] theorem State.setPc_meridian (s : State) (m : Mask) (f : Nat → DWord) :
    (s.setPc m f).meridian = s.meridian := by simp only [State.setPc, State.onSq]
@[simp] theorem State.setPc_lastCore (s : State) (m : Mask) (f : Nat → DWord) :
    (s.setPc m f).lastCore = s.lastCore := by simp only [State.setPc, State.onSq]
@[simp] theorem State.setPc_serial (s : State) (m : Mask) (f : Nat → DWord) :
    (s.setPc m f).serial = s.serial := by simp only [State.setPc, State.onSq]
@[simp] theorem State.setPc_tickets (s : State) (m : Mask) (f : Nat → DWord) :
    (s.setPc m f).tickets = s.tickets := by simp only [State.setPc, State.onSq]
@[simp] theorem State.setPc_plan (s : State) (m : Mask) (f : Nat → DWord) :
    (s.setPc m f).plan = s.plan := by simp only [State.setPc, State.onSq]
@[simp] theorem State.setPc_hostOut (s : State) (m : Mask) (f : Nat → DWord) :
    (s.setPc m f).hostOut = s.hostOut := by simp only [State.setPc, State.onSq]
@[simp] theorem State.setPc_sq_ident (s : State) (m : Mask) (f : Nat → DWord) :
    (s.setPc m f).sq.ident = s.sq.ident := by simp only [State.setPc, State.onSq]
@[simp] theorem State.setPc_sq_status (s : State) (m : Mask) (f : Nat → DWord) :
    (s.setPc m f).sq.status = s.sq.status := by simp only [State.setPc, State.onSq]
@[simp] theorem State.setPc_sq_regs (s : State) (m : Mask) (f : Nat → DWord) :
    (s.setPc m f).sq.regs = s.sq.regs := by simp only [State.setPc, State.onSq]
@[simp] theorem State.setPc_sq_mode (s : State) (m : Mask) (f : Nat → DWord) :
    (s.setPc m f).sq.mode = s.sq.mode := by simp only [State.setPc, State.onSq]
@[simp] theorem State.setPc_sq_flags (s : State) (m : Mask) (f : Nat → DWord) :
    (s.setPc m f).sq.flags = s.sq.flags := by simp only [State.setPc, State.onSq]
@[simp] theorem State.setPc_sq_trap (s : State) (m : Mask) (f : Nat → DWord) :
    (s.setPc m f).sq.trap = s.sq.trap := by simp only [State.setPc, State.onSq]
@[simp] theorem State.setPc_sq_sys (s : State) (m : Mask) (f : Nat → DWord) :
    (s.setPc m f).sq.sys = s.sq.sys := by simp only [State.setPc, State.onSq]
@[simp] theorem State.setPc_sq_ops (s : State) (m : Mask) (f : Nat → DWord) :
    (s.setPc m f).sq.ops = s.sq.ops := by simp only [State.setPc, State.onSq]
@[simp] theorem State.setPc_sq_errs (s : State) (m : Mask) (f : Nat → DWord) :
    (s.setPc m f).sq.errs = s.sq.errs := by simp only [State.setPc, State.onSq]
@[simp] theorem State.setPc_sq_poisonV (s : State) (m : Mask) (f : Nat → DWord) :
    (s.setPc m f).sq.poisonV = s.sq.poisonV := by simp only [State.setPc, State.onSq]
@[simp] theorem State.setPc_sq_poisonS (s : State) (m : Mask) (f : Nat → DWord) :
    (s.setPc m f).sq.poisonS = s.sq.poisonS := by simp only [State.setPc, State.onSq]
@[simp] theorem State.setPc_sq_replay (s : State) (m : Mask) (f : Nat → DWord) :
    (s.setPc m f).sq.replay = s.sq.replay := by simp only [State.setPc, State.onSq]
@[simp] theorem State.setPc_sq_exitPc (s : State) (m : Mask) (f : Nat → DWord) :
    (s.setPc m f).sq.exitPc = s.sq.exitPc := by simp only [State.setPc, State.onSq]
@[simp] theorem State.setPc_sq_cur (s : State) (m : Mask) (f : Nat → DWord) :
    (s.setPc m f).sq.cur = s.sq.cur := by simp only [State.setPc, State.onSq]

/-! ### The end of a prefix sequence -/

@[simp] theorem State.endSequence_mem (s : State) : (Sys2Proof.Machine.endSequence s).mem = s.mem := rfl
@[simp] theorem State.endSequence_poison (s : State) : (Sys2Proof.Machine.endSequence s).poison = s.poison := rfl
@[simp] theorem State.endSequence_codes (s : State) : (Sys2Proof.Machine.endSequence s).codes = s.codes := rfl
@[simp] theorem State.endSequence_parked (s : State) : (Sys2Proof.Machine.endSequence s).parked = s.parked := rfl
@[simp] theorem State.endSequence_crews (s : State) : (Sys2Proof.Machine.endSequence s).crews = s.crews := rfl
@[simp] theorem State.endSequence_grids (s : State) : (Sys2Proof.Machine.endSequence s).grids = s.grids := rfl
@[simp] theorem State.endSequence_ctxs (s : State) : (Sys2Proof.Machine.endSequence s).ctxs = s.ctxs := rfl
@[simp] theorem State.endSequence_resids (s : State) : (Sys2Proof.Machine.endSequence s).resids = s.resids := rfl
@[simp] theorem State.endSequence_l1 (s : State) : (Sys2Proof.Machine.endSequence s).l1 = s.l1 := rfl
@[simp] theorem State.endSequence_llc (s : State) : (Sys2Proof.Machine.endSequence s).llc = s.llc := rfl
@[simp] theorem State.endSequence_ways (s : State) : (Sys2Proof.Machine.endSequence s).ways = s.ways := rfl
@[simp] theorem State.endSequence_wayRet (s : State) : (Sys2Proof.Machine.endSequence s).wayRet = s.wayRet := rfl
@[simp] theorem State.endSequence_bankRet (s : State) : (Sys2Proof.Machine.endSequence s).bankRet = s.bankRet := rfl
@[simp] theorem State.endSequence_tlb (s : State) : (Sys2Proof.Machine.endSequence s).tlb = s.tlb := rfl
@[simp] theorem State.endSequence_fused (s : State) : (Sys2Proof.Machine.endSequence s).fused = s.fused := rfl
@[simp] theorem State.endSequence_latent (s : State) : (Sys2Proof.Machine.endSequence s).latent = s.latent := rfl
@[simp] theorem State.endSequence_links (s : State) : (Sys2Proof.Machine.endSequence s).links = s.links := rfl
@[simp] theorem State.endSequence_parts (s : State) : (Sys2Proof.Machine.endSequence s).parts = s.parts := rfl
@[simp] theorem State.endSequence_queues (s : State) : (Sys2Proof.Machine.endSequence s).queues = s.queues := rfl
@[simp] theorem State.endSequence_units (s : State) : (Sys2Proof.Machine.endSequence s).units = s.units := rfl
@[simp] theorem State.endSequence_dev (s : State) : (Sys2Proof.Machine.endSequence s).dev = s.dev := rfl
@[simp] theorem State.endSequence_cycle (s : State) : (Sys2Proof.Machine.endSequence s).cycle = s.cycle := rfl
@[simp] theorem State.endSequence_survey (s : State) : (Sys2Proof.Machine.endSequence s).survey = s.survey := rfl
@[simp] theorem State.endSequence_meridian (s : State) : (Sys2Proof.Machine.endSequence s).meridian = s.meridian := rfl
@[simp] theorem State.endSequence_lastCore (s : State) : (Sys2Proof.Machine.endSequence s).lastCore = s.lastCore := rfl
@[simp] theorem State.endSequence_serial (s : State) : (Sys2Proof.Machine.endSequence s).serial = s.serial := rfl
@[simp] theorem State.endSequence_tickets (s : State) : (Sys2Proof.Machine.endSequence s).tickets = s.tickets := rfl
@[simp] theorem State.endSequence_plan (s : State) : (Sys2Proof.Machine.endSequence s).plan = s.plan := rfl
@[simp] theorem State.endSequence_hostOut (s : State) : (Sys2Proof.Machine.endSequence s).hostOut = s.hostOut := rfl
@[simp] theorem State.endSequence_sq_ident (s : State) : (Sys2Proof.Machine.endSequence s).sq.ident = s.sq.ident := rfl
@[simp] theorem State.endSequence_sq_status (s : State) : (Sys2Proof.Machine.endSequence s).sq.status = s.sq.status := rfl
@[simp] theorem State.endSequence_sq_regs (s : State) : (Sys2Proof.Machine.endSequence s).sq.regs = s.sq.regs := rfl
@[simp] theorem State.endSequence_sq_thr (s : State) : (Sys2Proof.Machine.endSequence s).sq.thr = s.sq.thr := rfl
@[simp] theorem State.endSequence_sq_mode (s : State) : (Sys2Proof.Machine.endSequence s).sq.mode = s.sq.mode := rfl
@[simp] theorem State.endSequence_sq_flags (s : State) : (Sys2Proof.Machine.endSequence s).sq.flags = s.sq.flags := rfl
@[simp] theorem State.endSequence_sq_trap (s : State) : (Sys2Proof.Machine.endSequence s).sq.trap = s.sq.trap := rfl
@[simp] theorem State.endSequence_sq_sys (s : State) : (Sys2Proof.Machine.endSequence s).sq.sys = s.sq.sys := rfl
@[simp] theorem State.endSequence_sq_ops (s : State) : (Sys2Proof.Machine.endSequence s).sq.ops = s.sq.ops := rfl
@[simp] theorem State.endSequence_sq_errs (s : State) : (Sys2Proof.Machine.endSequence s).sq.errs = s.sq.errs := rfl
@[simp] theorem State.endSequence_sq_poisonV (s : State) : (Sys2Proof.Machine.endSequence s).sq.poisonV = s.sq.poisonV := rfl
@[simp] theorem State.endSequence_sq_poisonS (s : State) : (Sys2Proof.Machine.endSequence s).sq.poisonS = s.sq.poisonS := rfl
@[simp] theorem State.endSequence_sq_replay (s : State) : (Sys2Proof.Machine.endSequence s).sq.replay = s.sq.replay := rfl
@[simp] theorem State.endSequence_sq_exitPc (s : State) : (Sys2Proof.Machine.endSequence s).sq.exitPc = s.sq.exitPc := rfl

/-! ### A crew -/

@[simp] theorem State.setCrew_mem (s : State) (c : Crew) : (s.setCrew c).mem = s.mem := rfl
@[simp] theorem State.setCrew_poison (s : State) (c : Crew) : (s.setCrew c).poison = s.poison := rfl
@[simp] theorem State.setCrew_codes (s : State) (c : Crew) : (s.setCrew c).codes = s.codes := rfl
@[simp] theorem State.setCrew_sq (s : State) (c : Crew) : (s.setCrew c).sq = s.sq := rfl
@[simp] theorem State.setCrew_parked (s : State) (c : Crew) : (s.setCrew c).parked = s.parked := rfl
@[simp] theorem State.setCrew_grids (s : State) (c : Crew) : (s.setCrew c).grids = s.grids := rfl
@[simp] theorem State.setCrew_ctxs (s : State) (c : Crew) : (s.setCrew c).ctxs = s.ctxs := rfl
@[simp] theorem State.setCrew_resids (s : State) (c : Crew) : (s.setCrew c).resids = s.resids := rfl
@[simp] theorem State.setCrew_l1 (s : State) (c : Crew) : (s.setCrew c).l1 = s.l1 := rfl
@[simp] theorem State.setCrew_llc (s : State) (c : Crew) : (s.setCrew c).llc = s.llc := rfl
@[simp] theorem State.setCrew_ways (s : State) (c : Crew) : (s.setCrew c).ways = s.ways := rfl
@[simp] theorem State.setCrew_wayRet (s : State) (c : Crew) : (s.setCrew c).wayRet = s.wayRet := rfl
@[simp] theorem State.setCrew_bankRet (s : State) (c : Crew) : (s.setCrew c).bankRet = s.bankRet := rfl
@[simp] theorem State.setCrew_tlb (s : State) (c : Crew) : (s.setCrew c).tlb = s.tlb := rfl
@[simp] theorem State.setCrew_fused (s : State) (c : Crew) : (s.setCrew c).fused = s.fused := rfl
@[simp] theorem State.setCrew_latent (s : State) (c : Crew) : (s.setCrew c).latent = s.latent := rfl
@[simp] theorem State.setCrew_links (s : State) (c : Crew) : (s.setCrew c).links = s.links := rfl
@[simp] theorem State.setCrew_parts (s : State) (c : Crew) : (s.setCrew c).parts = s.parts := rfl
@[simp] theorem State.setCrew_queues (s : State) (c : Crew) : (s.setCrew c).queues = s.queues := rfl
@[simp] theorem State.setCrew_units (s : State) (c : Crew) : (s.setCrew c).units = s.units := rfl
@[simp] theorem State.setCrew_dev (s : State) (c : Crew) : (s.setCrew c).dev = s.dev := rfl
@[simp] theorem State.setCrew_cycle (s : State) (c : Crew) : (s.setCrew c).cycle = s.cycle := rfl
@[simp] theorem State.setCrew_survey (s : State) (c : Crew) : (s.setCrew c).survey = s.survey := rfl
@[simp] theorem State.setCrew_meridian (s : State) (c : Crew) : (s.setCrew c).meridian = s.meridian := rfl
@[simp] theorem State.setCrew_lastCore (s : State) (c : Crew) : (s.setCrew c).lastCore = s.lastCore := rfl
@[simp] theorem State.setCrew_serial (s : State) (c : Crew) : (s.setCrew c).serial = s.serial := rfl
@[simp] theorem State.setCrew_tickets (s : State) (c : Crew) : (s.setCrew c).tickets = s.tickets := rfl
@[simp] theorem State.setCrew_plan (s : State) (c : Crew) : (s.setCrew c).plan = s.plan := rfl
@[simp] theorem State.setCrew_hostOut (s : State) (c : Crew) : (s.setCrew c).hostOut = s.hostOut := rfl

/-! ### A grid -/

@[simp] theorem State.setGrid_mem (s : State) (g : Grid) : (s.setGrid g).mem = s.mem := rfl
@[simp] theorem State.setGrid_poison (s : State) (g : Grid) : (s.setGrid g).poison = s.poison := rfl
@[simp] theorem State.setGrid_codes (s : State) (g : Grid) : (s.setGrid g).codes = s.codes := rfl
@[simp] theorem State.setGrid_sq (s : State) (g : Grid) : (s.setGrid g).sq = s.sq := rfl
@[simp] theorem State.setGrid_parked (s : State) (g : Grid) : (s.setGrid g).parked = s.parked := rfl
@[simp] theorem State.setGrid_crews (s : State) (g : Grid) : (s.setGrid g).crews = s.crews := rfl
@[simp] theorem State.setGrid_ctxs (s : State) (g : Grid) : (s.setGrid g).ctxs = s.ctxs := rfl
@[simp] theorem State.setGrid_resids (s : State) (g : Grid) : (s.setGrid g).resids = s.resids := rfl
@[simp] theorem State.setGrid_l1 (s : State) (g : Grid) : (s.setGrid g).l1 = s.l1 := rfl
@[simp] theorem State.setGrid_llc (s : State) (g : Grid) : (s.setGrid g).llc = s.llc := rfl
@[simp] theorem State.setGrid_ways (s : State) (g : Grid) : (s.setGrid g).ways = s.ways := rfl
@[simp] theorem State.setGrid_wayRet (s : State) (g : Grid) : (s.setGrid g).wayRet = s.wayRet := rfl
@[simp] theorem State.setGrid_bankRet (s : State) (g : Grid) : (s.setGrid g).bankRet = s.bankRet := rfl
@[simp] theorem State.setGrid_tlb (s : State) (g : Grid) : (s.setGrid g).tlb = s.tlb := rfl
@[simp] theorem State.setGrid_fused (s : State) (g : Grid) : (s.setGrid g).fused = s.fused := rfl
@[simp] theorem State.setGrid_latent (s : State) (g : Grid) : (s.setGrid g).latent = s.latent := rfl
@[simp] theorem State.setGrid_links (s : State) (g : Grid) : (s.setGrid g).links = s.links := rfl
@[simp] theorem State.setGrid_parts (s : State) (g : Grid) : (s.setGrid g).parts = s.parts := rfl
@[simp] theorem State.setGrid_queues (s : State) (g : Grid) : (s.setGrid g).queues = s.queues := rfl
@[simp] theorem State.setGrid_units (s : State) (g : Grid) : (s.setGrid g).units = s.units := rfl
@[simp] theorem State.setGrid_dev (s : State) (g : Grid) : (s.setGrid g).dev = s.dev := rfl
@[simp] theorem State.setGrid_cycle (s : State) (g : Grid) : (s.setGrid g).cycle = s.cycle := rfl
@[simp] theorem State.setGrid_survey (s : State) (g : Grid) : (s.setGrid g).survey = s.survey := rfl
@[simp] theorem State.setGrid_meridian (s : State) (g : Grid) : (s.setGrid g).meridian = s.meridian := rfl
@[simp] theorem State.setGrid_lastCore (s : State) (g : Grid) : (s.setGrid g).lastCore = s.lastCore := rfl
@[simp] theorem State.setGrid_serial (s : State) (g : Grid) : (s.setGrid g).serial = s.serial := rfl
@[simp] theorem State.setGrid_tickets (s : State) (g : Grid) : (s.setGrid g).tickets = s.tickets := rfl
@[simp] theorem State.setGrid_plan (s : State) (g : Grid) : (s.setGrid g).plan = s.plan := rfl
@[simp] theorem State.setGrid_hostOut (s : State) (g : Grid) : (s.setGrid g).hostOut = s.hostOut := rfl

/-! ### A context -/

@[simp] theorem State.setCtx_mem (s : State) (c : Nat) (x : Context) : (s.setCtx c x).mem = s.mem := rfl
@[simp] theorem State.setCtx_poison (s : State) (c : Nat) (x : Context) : (s.setCtx c x).poison = s.poison := rfl
@[simp] theorem State.setCtx_codes (s : State) (c : Nat) (x : Context) : (s.setCtx c x).codes = s.codes := rfl
@[simp] theorem State.setCtx_sq (s : State) (c : Nat) (x : Context) : (s.setCtx c x).sq = s.sq := rfl
@[simp] theorem State.setCtx_parked (s : State) (c : Nat) (x : Context) : (s.setCtx c x).parked = s.parked := rfl
@[simp] theorem State.setCtx_crews (s : State) (c : Nat) (x : Context) : (s.setCtx c x).crews = s.crews := rfl
@[simp] theorem State.setCtx_grids (s : State) (c : Nat) (x : Context) : (s.setCtx c x).grids = s.grids := rfl
@[simp] theorem State.setCtx_resids (s : State) (c : Nat) (x : Context) : (s.setCtx c x).resids = s.resids := rfl
@[simp] theorem State.setCtx_l1 (s : State) (c : Nat) (x : Context) : (s.setCtx c x).l1 = s.l1 := rfl
@[simp] theorem State.setCtx_llc (s : State) (c : Nat) (x : Context) : (s.setCtx c x).llc = s.llc := rfl
@[simp] theorem State.setCtx_ways (s : State) (c : Nat) (x : Context) : (s.setCtx c x).ways = s.ways := rfl
@[simp] theorem State.setCtx_wayRet (s : State) (c : Nat) (x : Context) : (s.setCtx c x).wayRet = s.wayRet := rfl
@[simp] theorem State.setCtx_bankRet (s : State) (c : Nat) (x : Context) : (s.setCtx c x).bankRet = s.bankRet := rfl
@[simp] theorem State.setCtx_tlb (s : State) (c : Nat) (x : Context) : (s.setCtx c x).tlb = s.tlb := rfl
@[simp] theorem State.setCtx_fused (s : State) (c : Nat) (x : Context) : (s.setCtx c x).fused = s.fused := rfl
@[simp] theorem State.setCtx_latent (s : State) (c : Nat) (x : Context) : (s.setCtx c x).latent = s.latent := rfl
@[simp] theorem State.setCtx_links (s : State) (c : Nat) (x : Context) : (s.setCtx c x).links = s.links := rfl
@[simp] theorem State.setCtx_parts (s : State) (c : Nat) (x : Context) : (s.setCtx c x).parts = s.parts := rfl
@[simp] theorem State.setCtx_queues (s : State) (c : Nat) (x : Context) : (s.setCtx c x).queues = s.queues := rfl
@[simp] theorem State.setCtx_units (s : State) (c : Nat) (x : Context) : (s.setCtx c x).units = s.units := rfl
@[simp] theorem State.setCtx_dev (s : State) (c : Nat) (x : Context) : (s.setCtx c x).dev = s.dev := rfl
@[simp] theorem State.setCtx_cycle (s : State) (c : Nat) (x : Context) : (s.setCtx c x).cycle = s.cycle := rfl
@[simp] theorem State.setCtx_survey (s : State) (c : Nat) (x : Context) : (s.setCtx c x).survey = s.survey := rfl
@[simp] theorem State.setCtx_meridian (s : State) (c : Nat) (x : Context) : (s.setCtx c x).meridian = s.meridian := rfl
@[simp] theorem State.setCtx_lastCore (s : State) (c : Nat) (x : Context) : (s.setCtx c x).lastCore = s.lastCore := rfl
@[simp] theorem State.setCtx_serial (s : State) (c : Nat) (x : Context) : (s.setCtx c x).serial = s.serial := rfl
@[simp] theorem State.setCtx_tickets (s : State) (c : Nat) (x : Context) : (s.setCtx c x).tickets = s.tickets := rfl
@[simp] theorem State.setCtx_plan (s : State) (c : Nat) (x : Context) : (s.setCtx c x).plan = s.plan := rfl
@[simp] theorem State.setCtx_hostOut (s : State) (c : Nat) (x : Context) : (s.setCtx c x).hostOut = s.hostOut := rfl
@[simp] theorem State.setCtx_ctxs (s : State) (c : Nat) (x : Context) : (s.setCtx c x).ctxs = vset s.ctxs c x := rfl

/-! ### A partition -/

@[simp] theorem State.setPart_mem (s : State) (p : Nat) (x : Partition) : (s.setPart p x).mem = s.mem := rfl
@[simp] theorem State.setPart_poison (s : State) (p : Nat) (x : Partition) : (s.setPart p x).poison = s.poison := rfl
@[simp] theorem State.setPart_codes (s : State) (p : Nat) (x : Partition) : (s.setPart p x).codes = s.codes := rfl
@[simp] theorem State.setPart_sq (s : State) (p : Nat) (x : Partition) : (s.setPart p x).sq = s.sq := rfl
@[simp] theorem State.setPart_parked (s : State) (p : Nat) (x : Partition) : (s.setPart p x).parked = s.parked := rfl
@[simp] theorem State.setPart_crews (s : State) (p : Nat) (x : Partition) : (s.setPart p x).crews = s.crews := rfl
@[simp] theorem State.setPart_grids (s : State) (p : Nat) (x : Partition) : (s.setPart p x).grids = s.grids := rfl
@[simp] theorem State.setPart_ctxs (s : State) (p : Nat) (x : Partition) : (s.setPart p x).ctxs = s.ctxs := rfl
@[simp] theorem State.setPart_resids (s : State) (p : Nat) (x : Partition) : (s.setPart p x).resids = s.resids := rfl
@[simp] theorem State.setPart_l1 (s : State) (p : Nat) (x : Partition) : (s.setPart p x).l1 = s.l1 := rfl
@[simp] theorem State.setPart_llc (s : State) (p : Nat) (x : Partition) : (s.setPart p x).llc = s.llc := rfl
@[simp] theorem State.setPart_ways (s : State) (p : Nat) (x : Partition) : (s.setPart p x).ways = s.ways := rfl
@[simp] theorem State.setPart_wayRet (s : State) (p : Nat) (x : Partition) : (s.setPart p x).wayRet = s.wayRet := rfl
@[simp] theorem State.setPart_bankRet (s : State) (p : Nat) (x : Partition) : (s.setPart p x).bankRet = s.bankRet := rfl
@[simp] theorem State.setPart_tlb (s : State) (p : Nat) (x : Partition) : (s.setPart p x).tlb = s.tlb := rfl
@[simp] theorem State.setPart_fused (s : State) (p : Nat) (x : Partition) : (s.setPart p x).fused = s.fused := rfl
@[simp] theorem State.setPart_latent (s : State) (p : Nat) (x : Partition) : (s.setPart p x).latent = s.latent := rfl
@[simp] theorem State.setPart_links (s : State) (p : Nat) (x : Partition) : (s.setPart p x).links = s.links := rfl
@[simp] theorem State.setPart_queues (s : State) (p : Nat) (x : Partition) : (s.setPart p x).queues = s.queues := rfl
@[simp] theorem State.setPart_units (s : State) (p : Nat) (x : Partition) : (s.setPart p x).units = s.units := rfl
@[simp] theorem State.setPart_dev (s : State) (p : Nat) (x : Partition) : (s.setPart p x).dev = s.dev := rfl
@[simp] theorem State.setPart_cycle (s : State) (p : Nat) (x : Partition) : (s.setPart p x).cycle = s.cycle := rfl
@[simp] theorem State.setPart_survey (s : State) (p : Nat) (x : Partition) : (s.setPart p x).survey = s.survey := rfl
@[simp] theorem State.setPart_meridian (s : State) (p : Nat) (x : Partition) : (s.setPart p x).meridian = s.meridian := rfl
@[simp] theorem State.setPart_lastCore (s : State) (p : Nat) (x : Partition) : (s.setPart p x).lastCore = s.lastCore := rfl
@[simp] theorem State.setPart_serial (s : State) (p : Nat) (x : Partition) : (s.setPart p x).serial = s.serial := rfl
@[simp] theorem State.setPart_tickets (s : State) (p : Nat) (x : Partition) : (s.setPart p x).tickets = s.tickets := rfl
@[simp] theorem State.setPart_plan (s : State) (p : Nat) (x : Partition) : (s.setPart p x).plan = s.plan := rfl
@[simp] theorem State.setPart_hostOut (s : State) (p : Nat) (x : Partition) : (s.setPart p x).hostOut = s.hostOut := rfl
@[simp] theorem State.setPart_parts (s : State) (p : Nat) (x : Partition) : (s.setPart p x).parts = vset s.parts p x := rfl

/-! ### A work queue -/

@[simp] theorem State.setQueue_mem (s : State) (q : Nat) (x : WorkQueue) : (s.setQueue q x).mem = s.mem := rfl
@[simp] theorem State.setQueue_poison (s : State) (q : Nat) (x : WorkQueue) : (s.setQueue q x).poison = s.poison := rfl
@[simp] theorem State.setQueue_codes (s : State) (q : Nat) (x : WorkQueue) : (s.setQueue q x).codes = s.codes := rfl
@[simp] theorem State.setQueue_sq (s : State) (q : Nat) (x : WorkQueue) : (s.setQueue q x).sq = s.sq := rfl
@[simp] theorem State.setQueue_parked (s : State) (q : Nat) (x : WorkQueue) : (s.setQueue q x).parked = s.parked := rfl
@[simp] theorem State.setQueue_crews (s : State) (q : Nat) (x : WorkQueue) : (s.setQueue q x).crews = s.crews := rfl
@[simp] theorem State.setQueue_grids (s : State) (q : Nat) (x : WorkQueue) : (s.setQueue q x).grids = s.grids := rfl
@[simp] theorem State.setQueue_ctxs (s : State) (q : Nat) (x : WorkQueue) : (s.setQueue q x).ctxs = s.ctxs := rfl
@[simp] theorem State.setQueue_resids (s : State) (q : Nat) (x : WorkQueue) : (s.setQueue q x).resids = s.resids := rfl
@[simp] theorem State.setQueue_l1 (s : State) (q : Nat) (x : WorkQueue) : (s.setQueue q x).l1 = s.l1 := rfl
@[simp] theorem State.setQueue_llc (s : State) (q : Nat) (x : WorkQueue) : (s.setQueue q x).llc = s.llc := rfl
@[simp] theorem State.setQueue_ways (s : State) (q : Nat) (x : WorkQueue) : (s.setQueue q x).ways = s.ways := rfl
@[simp] theorem State.setQueue_wayRet (s : State) (q : Nat) (x : WorkQueue) : (s.setQueue q x).wayRet = s.wayRet := rfl
@[simp] theorem State.setQueue_bankRet (s : State) (q : Nat) (x : WorkQueue) : (s.setQueue q x).bankRet = s.bankRet := rfl
@[simp] theorem State.setQueue_tlb (s : State) (q : Nat) (x : WorkQueue) : (s.setQueue q x).tlb = s.tlb := rfl
@[simp] theorem State.setQueue_fused (s : State) (q : Nat) (x : WorkQueue) : (s.setQueue q x).fused = s.fused := rfl
@[simp] theorem State.setQueue_latent (s : State) (q : Nat) (x : WorkQueue) : (s.setQueue q x).latent = s.latent := rfl
@[simp] theorem State.setQueue_links (s : State) (q : Nat) (x : WorkQueue) : (s.setQueue q x).links = s.links := rfl
@[simp] theorem State.setQueue_parts (s : State) (q : Nat) (x : WorkQueue) : (s.setQueue q x).parts = s.parts := rfl
@[simp] theorem State.setQueue_units (s : State) (q : Nat) (x : WorkQueue) : (s.setQueue q x).units = s.units := rfl
@[simp] theorem State.setQueue_dev (s : State) (q : Nat) (x : WorkQueue) : (s.setQueue q x).dev = s.dev := rfl
@[simp] theorem State.setQueue_cycle (s : State) (q : Nat) (x : WorkQueue) : (s.setQueue q x).cycle = s.cycle := rfl
@[simp] theorem State.setQueue_survey (s : State) (q : Nat) (x : WorkQueue) : (s.setQueue q x).survey = s.survey := rfl
@[simp] theorem State.setQueue_meridian (s : State) (q : Nat) (x : WorkQueue) : (s.setQueue q x).meridian = s.meridian := rfl
@[simp] theorem State.setQueue_lastCore (s : State) (q : Nat) (x : WorkQueue) : (s.setQueue q x).lastCore = s.lastCore := rfl
@[simp] theorem State.setQueue_serial (s : State) (q : Nat) (x : WorkQueue) : (s.setQueue q x).serial = s.serial := rfl
@[simp] theorem State.setQueue_tickets (s : State) (q : Nat) (x : WorkQueue) : (s.setQueue q x).tickets = s.tickets := rfl
@[simp] theorem State.setQueue_plan (s : State) (q : Nat) (x : WorkQueue) : (s.setQueue q x).plan = s.plan := rfl
@[simp] theorem State.setQueue_hostOut (s : State) (q : Nat) (x : WorkQueue) : (s.setQueue q x).hostOut = s.hostOut := rfl
@[simp] theorem State.setQueue_queues (s : State) (q : Nat) (x : WorkQueue) : (s.setQueue q x).queues = vset s.queues q x := rfl

/-! ### A link -/

@[simp] theorem State.setLink_mem (s : State) (n : Nat) (x : Link) : (s.setLink n x).mem = s.mem := rfl
@[simp] theorem State.setLink_poison (s : State) (n : Nat) (x : Link) : (s.setLink n x).poison = s.poison := rfl
@[simp] theorem State.setLink_codes (s : State) (n : Nat) (x : Link) : (s.setLink n x).codes = s.codes := rfl
@[simp] theorem State.setLink_sq (s : State) (n : Nat) (x : Link) : (s.setLink n x).sq = s.sq := rfl
@[simp] theorem State.setLink_parked (s : State) (n : Nat) (x : Link) : (s.setLink n x).parked = s.parked := rfl
@[simp] theorem State.setLink_crews (s : State) (n : Nat) (x : Link) : (s.setLink n x).crews = s.crews := rfl
@[simp] theorem State.setLink_grids (s : State) (n : Nat) (x : Link) : (s.setLink n x).grids = s.grids := rfl
@[simp] theorem State.setLink_ctxs (s : State) (n : Nat) (x : Link) : (s.setLink n x).ctxs = s.ctxs := rfl
@[simp] theorem State.setLink_resids (s : State) (n : Nat) (x : Link) : (s.setLink n x).resids = s.resids := rfl
@[simp] theorem State.setLink_l1 (s : State) (n : Nat) (x : Link) : (s.setLink n x).l1 = s.l1 := rfl
@[simp] theorem State.setLink_llc (s : State) (n : Nat) (x : Link) : (s.setLink n x).llc = s.llc := rfl
@[simp] theorem State.setLink_ways (s : State) (n : Nat) (x : Link) : (s.setLink n x).ways = s.ways := rfl
@[simp] theorem State.setLink_wayRet (s : State) (n : Nat) (x : Link) : (s.setLink n x).wayRet = s.wayRet := rfl
@[simp] theorem State.setLink_bankRet (s : State) (n : Nat) (x : Link) : (s.setLink n x).bankRet = s.bankRet := rfl
@[simp] theorem State.setLink_tlb (s : State) (n : Nat) (x : Link) : (s.setLink n x).tlb = s.tlb := rfl
@[simp] theorem State.setLink_fused (s : State) (n : Nat) (x : Link) : (s.setLink n x).fused = s.fused := rfl
@[simp] theorem State.setLink_latent (s : State) (n : Nat) (x : Link) : (s.setLink n x).latent = s.latent := rfl
@[simp] theorem State.setLink_parts (s : State) (n : Nat) (x : Link) : (s.setLink n x).parts = s.parts := rfl
@[simp] theorem State.setLink_queues (s : State) (n : Nat) (x : Link) : (s.setLink n x).queues = s.queues := rfl
@[simp] theorem State.setLink_units (s : State) (n : Nat) (x : Link) : (s.setLink n x).units = s.units := rfl
@[simp] theorem State.setLink_dev (s : State) (n : Nat) (x : Link) : (s.setLink n x).dev = s.dev := rfl
@[simp] theorem State.setLink_cycle (s : State) (n : Nat) (x : Link) : (s.setLink n x).cycle = s.cycle := rfl
@[simp] theorem State.setLink_survey (s : State) (n : Nat) (x : Link) : (s.setLink n x).survey = s.survey := rfl
@[simp] theorem State.setLink_meridian (s : State) (n : Nat) (x : Link) : (s.setLink n x).meridian = s.meridian := rfl
@[simp] theorem State.setLink_lastCore (s : State) (n : Nat) (x : Link) : (s.setLink n x).lastCore = s.lastCore := rfl
@[simp] theorem State.setLink_serial (s : State) (n : Nat) (x : Link) : (s.setLink n x).serial = s.serial := rfl
@[simp] theorem State.setLink_tickets (s : State) (n : Nat) (x : Link) : (s.setLink n x).tickets = s.tickets := rfl
@[simp] theorem State.setLink_plan (s : State) (n : Nat) (x : Link) : (s.setLink n x).plan = s.plan := rfl
@[simp] theorem State.setLink_hostOut (s : State) (n : Nat) (x : Link) : (s.setLink n x).hostOut = s.hostOut := rfl
@[simp] theorem State.setLink_links (s : State) (n : Nat) (x : Link) : (s.setLink n x).links = vset s.links n x := rfl

/-! ### The counter of the free values -/

@[simp] theorem State.ticket_mem (s : State) : (s.ticket).mem = s.mem := rfl
@[simp] theorem State.ticket_poison (s : State) : (s.ticket).poison = s.poison := rfl
@[simp] theorem State.ticket_codes (s : State) : (s.ticket).codes = s.codes := rfl
@[simp] theorem State.ticket_sq (s : State) : (s.ticket).sq = s.sq := rfl
@[simp] theorem State.ticket_parked (s : State) : (s.ticket).parked = s.parked := rfl
@[simp] theorem State.ticket_crews (s : State) : (s.ticket).crews = s.crews := rfl
@[simp] theorem State.ticket_grids (s : State) : (s.ticket).grids = s.grids := rfl
@[simp] theorem State.ticket_ctxs (s : State) : (s.ticket).ctxs = s.ctxs := rfl
@[simp] theorem State.ticket_resids (s : State) : (s.ticket).resids = s.resids := rfl
@[simp] theorem State.ticket_l1 (s : State) : (s.ticket).l1 = s.l1 := rfl
@[simp] theorem State.ticket_llc (s : State) : (s.ticket).llc = s.llc := rfl
@[simp] theorem State.ticket_ways (s : State) : (s.ticket).ways = s.ways := rfl
@[simp] theorem State.ticket_wayRet (s : State) : (s.ticket).wayRet = s.wayRet := rfl
@[simp] theorem State.ticket_bankRet (s : State) : (s.ticket).bankRet = s.bankRet := rfl
@[simp] theorem State.ticket_tlb (s : State) : (s.ticket).tlb = s.tlb := rfl
@[simp] theorem State.ticket_fused (s : State) : (s.ticket).fused = s.fused := rfl
@[simp] theorem State.ticket_latent (s : State) : (s.ticket).latent = s.latent := rfl
@[simp] theorem State.ticket_links (s : State) : (s.ticket).links = s.links := rfl
@[simp] theorem State.ticket_parts (s : State) : (s.ticket).parts = s.parts := rfl
@[simp] theorem State.ticket_queues (s : State) : (s.ticket).queues = s.queues := rfl
@[simp] theorem State.ticket_units (s : State) : (s.ticket).units = s.units := rfl
@[simp] theorem State.ticket_dev (s : State) : (s.ticket).dev = s.dev := rfl
@[simp] theorem State.ticket_cycle (s : State) : (s.ticket).cycle = s.cycle := rfl
@[simp] theorem State.ticket_survey (s : State) : (s.ticket).survey = s.survey := rfl
@[simp] theorem State.ticket_meridian (s : State) : (s.ticket).meridian = s.meridian := rfl
@[simp] theorem State.ticket_lastCore (s : State) : (s.ticket).lastCore = s.lastCore := rfl
@[simp] theorem State.ticket_serial (s : State) : (s.ticket).serial = s.serial := rfl
@[simp] theorem State.ticket_plan (s : State) : (s.ticket).plan = s.plan := rfl
@[simp] theorem State.ticket_hostOut (s : State) : (s.ticket).hostOut = s.hostOut := rfl
@[simp] theorem State.ticket_tickets (s : State) : s.ticket.tickets = s.tickets + 1 := rfl

end Sys2Proof.Machine
end

