-- ==== Sys2Proof/Tests/Slice0.lean ====
section
/-! SUPPORT. Tests: words from the encoding tables of spec/ and what they decode to, ill-formed terms that the checks refuse, single
steps on small states with results worked out from the rules, and states that meet the hypotheses of the statements. -/

namespace Sys2Proof.Tests

open Sys2Proof.Machine

set_option Elab.async false

/-! ### Small states -/

/-- The whole group at pc, before an instruction of four bytes. -/
def atPc (pc : DWord) (q : Squad) : Squad := { q with cur := ⟨pc, pc, pc + 4, allLanes, allLanes, none, none, none⟩ }

/-- Squad 0 of the management core at address 0 (R424). -/
def mc : State := (startMc State.reset 0).onSq (atPc 0)

/-- A record with one role of one squad, a trap entry at halfword 0x400, and two queues. -/
def rec9 : Record :=
  { va := 0x10000, flags := 0, code := 0x1000, gx := 1, gy := 1, gz := 1, scratch := 131072, roles := [⟨0, 1, 128⟩], trap := 0x400,
    priv := 0, privBase := 0, args := 0, stats := 0, siteMap := 0xFFFFFFFFFFFFFFFF, banks := 1, resid := 0, residN := 0, queues := 2,
    dep0 := (0, 0), dep1 := (0, 0), comp := (0, 0), budget := 0, deadline := 0 }

/-- Its grid, in context 1, started. -/
def grid9 : Grid :=
  { id := 9, ctx := 1, part := 0, priv := false, mc := false, r := rec9, nbv := 1, stats := [], pend0 := false, pend1 := false,
    toPlace := [], left := 1, sites := [], dealt := [], started := true, demoted := false, used := 0, usedAt := 0, t0 := 0, launched := 9 }

/-- A crew of it on core 5, with two storage banks, a compute bank and a residency bank; the other crew of its team is crew 8. -/
def crew7 : Crew :=
  { id := 7, grid := 9, core := 5, slot := 0, linear := 0, cx := 0, cy := 0, cz := 0, rank := 0, peer := 8, storage := [160, 161],
    compute := [162], residen := [163], attached := true, bars := Vector.replicate 16 Barrier.reset,
    tbars := Vector.replicate 4 Barrier.reset, queues := Vector.replicate 16 [], gen := 0, race := [], marks := [], squads := 1, began := 1 }

/-- The peer crew. -/
def crew8 : Crew := { crew7 with id := 8, rank := 1, peer := 7, storage := [164, 165], compute := [166], residen := [167] }

/-- A user squad of crew 7 at 0x1000. -/
def user : State :=
  { State.reset with
    sq := atPc 0x1000 (Squad.entry ⟨11, 5, 0, 0, 7, 9, 0, 0, 0, 128, 1, false⟩ 0x1000)
    crews := [crew7, crew8]
    grids := [grid9]
    serial := 40 }

/-- A system squad of the same crew. -/
def system : State := user.onSq fun q => { q with ident := { q.ident with priv := true, ctx := 0 } }

/-- A load that is outstanding. -/
def load1 : Op :=
  { id := 20, cls := .ld, act := .load .scratch 4 40 false [⟨0, 0, bankKey 160 0, 4, 0, 0, none⟩], mask := 1, active := allLanes, pc := 0x1000, mode := 0, order := 0, scope := 0,
    strong := false, last := none, tag := 0, token := 0, done := false, err := none, stamp := 0, pos := 0, detail := 0, wrote := [], page := none, slots := [] }

/-- The user squad with a load outstanding. -/
def loading1 : State := user.onSq fun q => { q with ops := [load1] }

/-- The user squad with a copy outstanding. -/
def copying : State := user.onSq fun q => { q with ops := [{ load1 with cls := .cp, act := .engine .cpyPin 4 0 0 0 0 (Vector.replicate 32 0) }] }

/-- The user squad with another squad of its crew. -/
def user2 : State := { user with parked := [Squad.entry ⟨12, 5, 1, 0, 7, 9, 1, 0, 1, 128, 1, false⟩ 0x1000] }

/-- Queue 1 of the crew holds an entry, or is full. -/
def queued : State := { user with crews := [{ crew7 with queues := Vector.replicate 16 [5] }, crew8] }
def queueFull : State := { user with crews := [{ crew7 with queues := Vector.replicate 16 (List.replicate 64 5) }, crew8] }

/-- The crew without banks. -/
def crew7bare : Crew := { crew7 with storage := [], compute := [], residen := [] }
def bare : State := { user with crews := [crew7bare, crew8] }

/-- Window 0 of context 1, armed over slice 1. -/
def win3 : ArrWindow :=
  { num := 0, armed := true, group := 0, local_ := true, slices := [1], backing := 0x4000000, keys := [], part := 0, dflt := 0, elems := [], dropped := 0 }
def armed : State := user.setCtx 1 { user.ctx 1 with wins := [win3] }

/-- A system squad with a branch table of one word at 0x8000 in s6. -/
def tabled : State := { system with mem := memPut [] 0x8000 (leBytes 8 0x1000000001) }.setX 6 0x8000

/-- Squads in a handler. -/
def handling : State := user.onSq fun q => { q with thr := { q.thr with handlerMark := allLanes } }
def sysHandling : State := system.onSq fun q => { q with thr := { q.thr with sysMark := allLanes } }

/-- The bytes of a span queue's descriptor with two entries at 0x9000, at head 0 and a tail. -/
def spanBytes (t : Nat) : List Byte :=
  leBytes 4 0x53510001 ++ [1, 2, 0, 0] ++ leBytes 8 0x9000 ++ leBytes 8 0 ++ leBytes 8 t ++ List.replicate 32 0

/-- A system squad with a span queue at 0x8000 in s8, with t entries. -/
def spanned (t : Nat) : State := { system with mem := memPut [] 0x8000 (spanBytes t) }.setX 8 0x8000

/-- A system squad with a semaphore of value 5 and crew-or-wider scope 5 at 0x8000 in s8. -/
def semed : State := { system with mem := memPut [] 0x8000 (leBytes 8 5 ++ leBytes 8 5) }.setX 8 0x8000

/-- The management core with a compression window over the first two MiB. -/
def windowed : State := { mc with dev := { mc.dev with mcwin := Vector.replicate 16 ⟨true, 0, 0, false⟩ } }

/-- It holds the result of a long instruction of squad 0. -/
def answered : State := { mc with dev := { mc.dev with answers := [(0, 7)] } }

/-- Event 2 is pending, and s8 selects it. -/
def pending : State := { mc with dev := { mc.dev with evpend := 4 } }.setX 8 0x40000

/-- A partition of every chiplet, running, and every chiplet ready. -/
def running (s : State) : State :=
  { s.setPart 0 { s.part 0 with chips := 0xFFFFFFFF, target := 0xFFFFFFFF, state := 1 } with dev := { s.dev with ready0 := 0xFFFFFFFFFFFFFFFF } }

/-- The management core beside crew 7, which s8 names. -/
def saving : State := { mc with crews := mc.crews ++ [crew7, crew8], grids := [grid9] }.setX 8 5

/-- Crew 7 without its team, saved. -/
def heldCrew : Crew := { crew7 with peer := 0, storage := [8640, 8641], compute := [8642], residen := [] }
def unit30 : PreUnit :=
  ⟨30, .saved, .image, 0, 1, [7], [], [], [heldCrew], [{ Squad.entry ⟨11, 5, 0, 0, 7, 9, 0, 0, 0, 128, 1, false⟩ 0x1000 with status := .frozen }]⟩

/-- The management core with that image at 0x8000, in s8; core 5 is named in s9. -/
def resting : State :=
  (running { mc with grids := [grid9], units := [unit30], mem := memPut [] 0x8000 (leBytes 4 0x4B490002 ++ leBytes 4 72 ++ List.replicate 56 0 ++ leBytes 8 30) }
    |>.setX 8 0x8000).setX 9 5

/-- Link 87 is selected and paused, and group 0 trains for squad 0. -/
def pausedLink : State := (mc.onSq fun q => { q with sys := { q.sys with lnksel := 87 } }).setLink 87 { mc.link 87 with paused := true }
def trainingLink : State :=
  pausedLink.setLink 87 { pausedLink.link 87 with groups := Vector.replicate 32 { LaneGroup.reset with train := some 0 } }

/-- A residency without banks. -/
def resid1 : Residency := ⟨63, 65535, 0, 0, []⟩
def resident : State := { mc with resids := [resid1] }.setX 8 0xFFFF003F

/-- A launch record of one crew of one squad. -/
def recBytes : List Byte :=
  leBytes 8 0x46410002 ++ leBytes 8 0x1000 ++ leBytes 8 0x100000001 ++ leBytes 8 1 ++ leBytes 8 0x080100000000 ++ List.replicate 24 0
    ++ leBytes 8 0xFFFFFFFF ++ List.replicate 184 0
def launching : State := running { system with mem := memPut [] 0x10000 recBytes } |>.setX 8 0x10000

/-- The user squad with an error, and with a pinned sector of its context in its L1. -/
def erring (c : OpClass) : State := user.onSq fun q => { q with errs := [(c, ⟨0x4D, 0, 0, 1, 0, 2⟩)] }
def sector (core addr : Nat) : L1Sector := ⟨core, addr, 0, 0xFF, 0, 0, 1, addr, false, false, false, false⟩
def pinning : State := { user with l1 := [{ sector 5 0x8000 with dirty := 1, pinned := true }] }

/-- Does an instruction pass the checks of its issue? -/
def issues (i : Instr) (s : State) : Bool :=
  (checkForm s (traitsOf i)).isNone && (checkOperands s (traitsOf i) (usesNow s i)).isNone && !mustWait s (traitsOf i) (usesNow s i)
    && (checkPoison (begun s) (usesNow s i)).isNone

theorem issues_iff {i : Instr} {s : State} (h : issues i s = true) : Issues i s := by
  simp only [issues, Bool.and_eq_true, Option.isNone_iff_eq_none, Bool.not_eq_true'] at h
  exact ⟨h.1.1.1, h.1.1.2, h.1.2, h.2⟩

/-- The hypotheses of a statement about an instruction, met by a state. -/
def Met (P : State → Prop) (i : Instr) (s : State) : Prop := Issues i s ∧ P (begun s)

theorem met {P : State → Prop} {i : Instr} {s : State} (h : issues i s = true) (p : P (begun s)) : Met P i s := ⟨issues_iff h, p⟩

theorem lastOk_none {s : State} (h : lastMark s.sq.cur = none) : LastOk s := by intro m e; simp [h] at e

/-- What a weak read gives, as plain data. -/
def seen : Seen → Option (List Byte × Bool)
  | .bytes bs p => some (bs, p)
  | _ => none

theorem seen_iff {x : Seen} {bs : List Byte} {p : Bool} (h : seen x = some (bs, p)) : x = .bytes bs p := by
  cases x <;> simp [seen] at h ⊢
  exact h

theorem tableRead_eq (r : TableRead) (f : r.faults = []) (w : r.waits = false) : r = ⟨r.targets, [], false⟩ := by
  cases r; simp_all

theorem tableFound_of {s : State} {x : BitVec 7} {t : BitVec 6} (bs : List Byte) (top : s.num t.toNat < addressTop s)
    (aligned : s.num t.toNat % 4 = 0) (word : seen (readWeak s (s.num t.toNat) 4 s.sq.cur.active).2 = some (bs, false))
    (found : (tableTargets (readWeak s (s.num t.toNat) 4 s.sq.cur.active).1 x.toNat (s.num t.toNat) (leNat bs) s.sq.cur.active).2.faults = [])
    (now : (tableTargets (readWeak s (s.num t.toNat) 4 s.sq.cur.active).1 x.toNat (s.num t.toNat) (leNat bs) s.sq.cur.active).2.waits = false) :
    ∃ u tg, TableFound s x t u tg :=
  ⟨_, _, top, aligned, _, bs, Prod.ext rfl (seen_iff word), Prod.ext rfl (tableRead_eq _ found now)⟩

/-- The state after the translation of a home access. -/
def homed (s : State) (va n : Nat) (need : Need) : State :=
  (reachGlobal s ⟨n, need, if need.w then 3 else 1, need.w, true, true⟩ va s.sq.cur.active).1

theorem homes {s : State} {va n : Nat} {need : Need} (key : Nat)
    (reach : (reachGlobal s ⟨n, need, if need.w then 3 else 1, need.w, true, true⟩ va s.sq.cur.active).2 = .inl key)
    (same : key = canon (homed s va n need) key)
    (back : inBacking (homed s va n need) (homed s va n need).sq.ident.ctx va key n = false)
    (near : rangeWay (homed s va n need) (homed s va n need).sq.ident.core key n (peerOfKey key) = .clear) :
    Homes s va n need (homed s va n need) key :=
  ⟨key, Prod.ext rfl reach, same, back, near⟩

/-- The state after a descriptor of n bytes is read at its home. -/
def fetched (s : State) (va n : Nat) (need : Need) (key : Nat) : State :=
  (homeRead (homed s va n need) (homed s va n need).sq.ident.ctx key n).1

theorem fetched_of {s : State} {va n : Nat} {need : Need} {key : Nat} {bs : List Byte}
    (h : (homeRead (homed s va n need) (homed s va n need).sq.ident.ctx key n).2 = (bs, false)) :
    homeRead (homed s va n need) (homed s va n need).sq.ident.ctx key n = (fetched s va n need key, bs, false) := Prod.ext rfl h

theorem of_inl {α β γ : Type} {x : α × (β ⊕ γ)} (h : x.2.isLeft = true) : ∃ u b, x = (u, .inl b) := by
  obtain ⟨u, b | g⟩ := x
  · exact ⟨u, b, rfl⟩
  · simp at h

theorem of_inr {α β γ : Type} {x : α × (β ⊕ γ)} {P : γ → Bool} (h : (x.2.elim (fun _ => false) P) = true) :
    ∃ u f, x = (u, .inr f) ∧ P f = true := by
  obtain ⟨u, b | g⟩ := x
  · simp at h
  · exact ⟨u, g, rfl, h⟩

theorem below_of {s : State} {thr : List Nat}
    (h : OpClass.all.all (fun o => match waitsOn thr o with
      | some n => decide (s.sq.count o ≤ n)
      | none => true) = true) : Below s thr := by
  intro o n e
  have := List.all_eq_true.1 h o (by cases o <;> decide)
  simpa [e] using this


/-- States in which the conjuncts of PairedIntegerLanes apply. -/
theorem witness_PairedIntegerLanes : ([
    .add 4 8 12, .sub 4 8 12, .mul 4 8 12, .mulhiI32 4 8 12, .mulhiN32 4 8 12,
    .and 4 8 12, .or 4 8 12, .xor 4 8 12, .shl 4 8 12, .shr 4 8 12,
    .sar 4 8 12, .minI32 4 8 12, .maxI32 4 8 12, .minN32 4 8 12, .maxN32 4 8 12,
    .addsatI32 4 8 12, .subsatI32 4 8 12, .prmt 4 8 12, .bfe 4 8 12, .bfi 4 8 12,
    .mad 4 8 12, .idot4 4 8 12] : List Instr).all (issues · user) = true := by decide +kernel

/-- States in which the conjuncts of PairedIntegerScalar apply. -/
theorem witness_PairedIntegerScalar : ([
    .addS 4 8 12, .subS 4 8 12, .mulS 4 8 12, .mulhiI32S 4 8 12, .mulhiN32S 4 8 12,
    .andS 4 8 12, .orS 4 8 12, .xorS 4 8 12, .shlS 4 8 12, .shrS 4 8 12,
    .sarS 4 8 12, .minI32S 4 8 12, .maxI32S 4 8 12, .minN32S 4 8 12, .maxN32S 4 8 12,
    .addsatI32S 4 8 12, .subsatI32S 4 8 12, .prmtS 4 8 12, .bfeS 4 8 12, .bfiS 4 8 12,
    .madS 4 8 12, .idot4S 4 8 12] : List Instr).all (issues · user) = true := by decide +kernel

/-- States in which the conjuncts of ShortAndSingleIntegerLanes apply. -/
theorem witness_ShortAndSingleIntegerLanes : ([
    .add16 4 8, .sub16 4 8, .mul16 4 8, .and16 4 8, .or16 4 8,
    .xor16 4 8, .shl16 4 8, .shr16 4 8, .sar16 4 8, .mov16 4 8,
    .popc 4 8, .clz 4 8, .brev 4 8, .abs 4 8, .neg 4 8,
    .not 4 8, .mov 4 8, .sext 4 8 1, .selp 4 8 1 1] : List Instr).all (issues · user) = true := by decide +kernel

/-- States in which the conjuncts of ImmediateNamedAndCompareLanes apply. -/
theorem witness_ImmediateNamedAndCompareLanes : ([
    .addi 4 8 1, .andi 4 8 1, .ori 4 8 1, .xori 4 8 1, .muli 4 8 1,
    .shli 4 8 1, .shri 4 8 1, .sari 4 8 1, .movi 4 1, .lidx 4 8 1,
    .tlu 4 8 6 1, .setp 1 1 8 12, .setpS 1 1 8 12, .setpi 1 1 8 1] : List Instr).all (issues · user) = true := by decide +kernel

/-- States in which the conjuncts of ScalarThreeOperand apply. -/
theorem witness_ScalarThreeOperand : ([
    .sadd 4 8 12, .ssub 4 8 12, .smul 4 8 12, .smulhi 4 8 12, .sand 4 8 12,
    .sor 4 8 12, .sxor 4 8 12, .sshl 4 8 12, .sshr 4 8 12, .ssar 4 8 12,
    .smin 4 8 12, .smax 4 8 12, .sminn 4 8 12, .smaxn 4 8 12, .seq 4 8 12,
    .sne 4 8 12, .slt 4 8 12, .sle 4 8 12, .sltn 4 8 12, .slen 4 8 12,
    .sdivn 4 8 12, .sremn 4 8 12, .ssel 4 8 12] : List Instr).all (issues · user) = true := by decide +kernel

/-- States in which the conjuncts of ScalarOtherAndFileMoves apply. -/
theorem witness_ScalarOtherAndFileMoves : ([
    .smov 4 8, .sclz 4 8, .spopc 4 8, .saddi 4 8 1, .sandi 4 8 1,
    .sori 4 8 1, .sxori 4 8 1, .smuli 4 8 1, .seqi 4 8 1, .slti 4 8 1,
    .sltni 4 8 1, .sshli 4 8 1, .sshri 4 8 1, .ssari 4 8 1, .li 5 1,
    .movs 4 8] : List Instr).all (issues · user) = true := by decide +kernel

/-- States in which the conjuncts of PredicatesAndVotes apply. -/
theorem witness_PredicatesAndVotes : ([
    .pand 1 1 1 5 1, .por 1 1 1 5 1, .pxor 1 1 1 5 1, .pset 1 8, .pget 4 1 1,
    .pmask 1 8 0, .pmask 1 8 1, .voteAll 1 1 1, .voteAny 1 1 1, .voteUni 1 1 1,
    .voteBallot 4 1 1, .voteBallotHi 4 1 1] : List Instr).all (issues · user) = true := by decide +kernel

/-- States in which the conjuncts of FloatingPointLanes apply. -/
theorem witness_FloatingPointLanes : ([
    .fadd 4 8 12, .faddS 4 8 12, .fsub 4 8 12, .fsubS 4 8 12, .fmul 4 8 12,
    .fmulS 4 8 12, .fmin 4 8 12, .fminS 4 8 12, .fmax 4 8 12, .fmaxS 4 8 12,
    .fdiv 4 8 12, .fdivS 4 8 12, .ffma 4 8 12, .ffmaS 4 8 12, .fnma 4 8 12,
    .fnmaS 4 8 12, .fadd16 4 8, .fsub16 4 8, .fmul16 4 8, .fmin16 4 8,
    .fmax16 4 8, .fneg16 4 8, .frcp 4 8, .frsq 4 8, .fsqrt 4 8,
    .fex2 4 8, .flg2 4 8, .fsin 4 8, .fcos 4 8, .ftanh 4 8,
    .frnd 4 8 0, .fabs 4 8, .fneg 4 8, .fclass 4 8, .fsetp 1 1 8 12,
    .fsetpS 1 1 8 12] : List Instr).all (issues · user) = true := by decide +kernel

/-- States in which the conjuncts of PackedAndConversions apply. -/
theorem witness_PackedAndConversions : ([
    .hadd2 4 8 12, .hmul2 4 8 12, .hfma2 4 8 12, .hadd2S 4 8 12, .hmul2S 4 8 12,
    .hfma2S 4 8 12, .badd2 4 8 12, .bmul2 4 8 12, .bfma2 4 8 12, .badd2S 4 8 12,
    .bmul2S 4 8 12, .bfma2S 4 8 12, .dot2 4 8 12, .dot2S 4 8 12, .cvtfi 4 8 1,
    .cvtif 4 8 1, .cvtff 4 8 1, .cvtpk 4 8 1, .cvtup 4 8 1, .mxscale 4 8 0,
    .mxq 4 8 0] : List Instr).all (issues · user) = true := by decide +kernel

/-- States in which the conjuncts of CrossLaneInstructions apply. -/
theorem witness_CrossLaneInstructions : ([
    .redsq 4 8 1, .scan 4 8 1, .matchAny 4 8, .matchFirst 4 8] : List Instr).all (issues · user) = true := by decide +kernel

/-- States in which the conjuncts of ControlInstructions without conditions apply. -/
theorem witness_ControlInstructions : ([
    .nop, .yield, .exit, .time 4, .rdsr 4 2,
    .wrsr 13 8, .setmode 1 1 0 1 1 1] : List Instr).all (issues · user) = true := by decide +kernel

/-- Registers named by a scalar, up to the last, and above it. -/
theorem witness_NamedRegisters :
    Met (fun p => (p.x (4 : BitVec 7).toNat).toNat < 128 ∧ inAllotment p.sq.ident.allot (p.x (4 : BitVec 7).toNat).toNat = true ∧ interlocked p.sq ⟨[(p.x (4 : BitVec 7).toNat).toNat], [(p.x (4 : BitVec 7).toNat).toNat], [], [], true⟩ = false) (.movx 4 8) (user.setX 4 127) ∧
    Met (fun p => (p.x (8 : BitVec 7).toNat).toNat < 128 ∧ inAllotment p.sq.ident.allot (p.x (8 : BitVec 7).toNat).toNat = true ∧ interlocked p.sq ⟨[(p.x (8 : BitVec 7).toNat).toNat], [(p.x (8 : BitVec 7).toNat).toNat], [], [], true⟩ = false ∧ p.unmarked (p.x (8 : BitVec 7).toNat).toNat p.sq.cur.enabled) (.movxr 4 8) (user.setX 8 127) ∧
    Met (fun p => 128 ≤ (p.x (4 : BitVec 7).toNat).toNat ∨ (p.sq.ident.allot < (p.x (4 : BitVec 7).toNat).toNat + 5 ∧ (p.x (4 : BitVec 7).toNat).toNat < 124)) (.movx 4 8) (user.setX 4 128) ∧
    Met (fun p => 128 ≤ (p.x (8 : BitVec 7).toNat).toNat ∨ (p.sq.ident.allot < (p.x (8 : BitVec 7).toNat).toNat + 5 ∧ (p.x (8 : BitVec 7).toNat).toNat < 124)) (.movxr 4 8) (user.setX 8 128) :=
  ⟨met (by decide +kernel) (by decide +kernel),
   met (by decide +kernel) (by delta State.unmarked; decide +kernel),
   met (by decide +kernel) (by decide +kernel),
   met (by decide +kernel) (by decide +kernel)⟩

/-- Lane numbers at the last lane and above it. -/
theorem witness_FileMoves :
    Met (fun p => (p.x (12 : BitVec 7).toNat).toNat < 32 ∧ p.unmarked (8 : BitVec 7).toNat (maskOf [(p.x (12 : BitVec 7).toNat).toNat])) (.rdlane 4 8 12) (user.setX 12 31) ∧
    Met (fun p => (p.x (12 : BitVec 7).toNat).toNat < 32) (.wrlane 4 8 12) (user.setX 12 31) ∧
    Met (fun p => 32 ≤ (p.x (12 : BitVec 7).toNat).toNat) (.rdlane 4 8 12) (user.setX 12 32) ∧
    Met (fun p => 32 ≤ (p.x (12 : BitVec 7).toNat).toNat) (.wrlane 4 8 12) (user.setX 12 32) :=
  ⟨met (by decide +kernel) (by delta State.unmarked; decide +kernel),
   met (by decide +kernel) (by decide +kernel),
   met (by decide +kernel) (by decide +kernel),
   met (by decide +kernel) (by decide +kernel)⟩

/-- Shuffle distances at the last and above it. -/
theorem witness_Shuffles :
    Met (fun p => p.unmarked (8 : BitVec 7).toNat (p.sourceLanes fun l => (p.v (12 : BitVec 7).toNat l).toNat % 32)) (.shflIdx 4 8 12) (user.setX 12 0) ∧
    Met (fun p => (p.x (12 : BitVec 7).toNat).toNat < 32 ∧ p.unmarked (8 : BitVec 7).toNat (p.sourceLanes fun l => l ^^^ (p.x (12 : BitVec 7).toNat).toNat)) (.shflXor 4 8 12) (user.setX 12 31) ∧
    Met (fun p => 32 ≤ (p.x (12 : BitVec 7).toNat).toNat) (.shflXor 4 8 12) (user.setX 12 32) ∧
    Met (fun p => (p.x (12 : BitVec 7).toNat).toNat < 32 ∧ p.unmarked (8 : BitVec 7).toNat (p.sourceLanes fun l => if l < (p.x (12 : BitVec 7).toNat).toNat then l else l - (p.x (12 : BitVec 7).toNat).toNat)) (.shflUp 4 8 12) (user.setX 12 31) ∧
    Met (fun p => 32 ≤ (p.x (12 : BitVec 7).toNat).toNat) (.shflUp 4 8 12) (user.setX 12 32) ∧
    Met (fun p => (p.x (12 : BitVec 7).toNat).toNat < 32 ∧ p.unmarked (8 : BitVec 7).toNat (p.sourceLanes fun l => if 32 ≤ l + (p.x (12 : BitVec 7).toNat).toNat then l else l + (p.x (12 : BitVec 7).toNat).toNat)) (.shflDn 4 8 12) (user.setX 12 31) ∧
    Met (fun p => 32 ≤ (p.x (12 : BitVec 7).toNat).toNat) (.shflDn 4 8 12) (user.setX 12 32) :=
  ⟨met (by decide +kernel) (by delta State.unmarked; decide +kernel),
   met (by decide +kernel) (by delta State.unmarked; decide +kernel),
   met (by decide +kernel) (by decide +kernel),
   met (by decide +kernel) (by delta State.unmarked; decide +kernel),
   met (by decide +kernel) (by decide +kernel),
   met (by decide +kernel) (by delta State.unmarked; decide +kernel),
   met (by decide +kernel) (by decide +kernel)⟩

/-- States that meet the hypotheses of conjuncts of LoadsAndStoresIssue. -/
theorem witness_LoadsAndStoresIssue :
    Met (fun p => ((loadsOf .global (4 : BitVec 3) (fun p => globalVa p (8 : BitVec 7).toNat (12 : BitVec 7).toNat)) p).2.2 = []) (.ld 4 4 8 12) system ∧
    Met (fun p => ((loadsOf .peer (4 : BitVec 3) (fun p => scratchOffset p (8 : BitVec 7).toNat (12 : BitVec 7).toNat)) p).2.2 = []) (.ldt 4 4 8 12) user ∧
    Met (fun p => lowestFault ((loadsOf .global (4 : BitVec 3) (fun p => globalVa p (8 : BitVec 7).toNat (12 : BitVec 7).toNat)) p).2.2 ≠ none) (.ld 4 4 8 12) (user.setX 12 0xFFFFFFFFFFF) ∧
    Met (fun p => lowestFault ((loadsOf .peer (4 : BitVec 3) (fun p => scratchOffset p (8 : BitVec 7).toNat (12 : BitVec 7).toNat)) p).2.2 ≠ none) (.ldt 4 4 8 12) (user.setX 12 0xFFFFFFFFFFF) ∧
    Met (fun p => ((storesOf .global (4 : BitVec 3) (4 : BitVec 7) (fun p => globalVa p (8 : BitVec 7).toNat (12 : BitVec 7).toNat)) p).2.2 = []) (.st 4 4 8 12) system ∧
    Met (fun p => ((storesOf .scratch (4 : BitVec 3) (4 : BitVec 7) (fun p => scratchOffset p (8 : BitVec 7).toNat (12 : BitVec 7).toNat)) p).2.2 = []) (.sts 4 4 8 12) user ∧
    Met (fun p => ((storesOf .peer (4 : BitVec 3) (4 : BitVec 7) (fun p => scratchOffset p (8 : BitVec 7).toNat (12 : BitVec 7).toNat)) p).2.2 = []) (.stt 4 4 8 12) user ∧
    Met (fun p => lowestFault ((storesOf .global (4 : BitVec 3) (4 : BitVec 7) (fun p => globalVa p (8 : BitVec 7).toNat (12 : BitVec 7).toNat)) p).2.2 ≠ none) (.st 4 4 8 12) (user.setX 12 0xFFFFFFFFFFF) ∧
    Met (fun p => lowestFault ((storesOf .scratch (4 : BitVec 3) (4 : BitVec 7) (fun p => scratchOffset p (8 : BitVec 7).toNat (12 : BitVec 7).toNat)) p).2.2 ≠ none) (.sts 4 4 8 12) (user.setX 12 0xFFFFFFFFFFF) ∧
    Met (fun p => lowestFault ((storesOf .peer (4 : BitVec 3) (4 : BitVec 7) (fun p => scratchOffset p (8 : BitVec 7).toNat (12 : BitVec 7).toNat)) p).2.2 ≠ none) (.stt 4 4 8 12) (user.setX 12 0xFFFFFFFFFFF) ∧
    Met (fun p => ((scalarLoadOf (4 : BitVec 3) (fun p => (p.x (12 : BitVec 7).toNat + p.x (8 : BitVec 7).toNat).toNat)) p).2.2 = []) (.sld 4 4 8 12) system ∧
    Met (fun p => ((scalarStoreOf (4 : BitVec 3) (4 : BitVec 7) (fun p => (p.x (12 : BitVec 7).toNat + p.x (8 : BitVec 7).toNat).toNat)) p).2.2 = []) (.sst 4 4 8 12) system ∧
    Met (fun p => lowestFault ((scalarLoadOf (4 : BitVec 3) (fun p => (p.x (12 : BitVec 7).toNat + p.x (8 : BitVec 7).toNat).toNat)) p).2.2 ≠ none) (.sld 4 4 8 12) (user.setX 12 0xFFFFFFFFFFF) ∧
    Met (fun p => lowestFault ((scalarStoreOf (4 : BitVec 3) (4 : BitVec 7) (fun p => (p.x (12 : BitVec 7).toNat + p.x (8 : BitVec 7).toNat).toNat)) p).2.2 ≠ none) (.sst 4 4 8 12) (user.setX 12 0xFFFFFFFFFFF) ∧
    Met (fun p => LastOk p ∧ (loadsOf .scratch (4 : BitVec 3) (fun p => scratchOffset p (8 : BitVec 7).toNat (12 : BitVec 7).toNat) p).2.2 = []) (.lds 4 4 8 12) user ∧
    Met (fun p => ∀ n ∈ laneList p.sq.cur.enabled, globalVa p (8 : BitVec 7).toNat (12 : BitVec 7).toNat n < addressTop p) (.pref 0 8 12) user ∧
    Met (fun p => (laneList p.sq.cur.enabled).filter (fun k => addressTop p ≤ globalVa p (8 : BitVec 7).toNat (12 : BitVec 7).toNat k) = 0 :: (List.range' 1 31)) (.pref 0 8 12) (user.setX 12 0xFFFFFFFFFFFFFF) :=
  ⟨met (by decide +kernel) (by decide +kernel),
   met (by decide +kernel) (by decide +kernel),
   met (by decide +kernel) (by decide +kernel),
   met (by decide +kernel) (by decide +kernel),
   met (by decide +kernel) (by decide +kernel),
   met (by decide +kernel) (by decide +kernel),
   met (by decide +kernel) (by decide +kernel),
   met (by decide +kernel) (by decide +kernel),
   met (by decide +kernel) (by decide +kernel),
   met (by decide +kernel) (by decide +kernel),
   met (by decide +kernel) (by decide +kernel),
   met (by decide +kernel) (by decide +kernel),
   met (by decide +kernel) (by decide +kernel),
   met (by decide +kernel) (by decide +kernel),
   met (by decide +kernel) (⟨lastOk_none (by decide +kernel), by decide +kernel⟩),
   met (by decide +kernel) (by decide +kernel),
   met (by decide +kernel) (by decide +kernel)⟩

/-- States that meet the hypotheses of conjuncts of AtomicsIssue. -/
theorem witness_AtomicsIssue :
    Met (fun p => ((atomsOf .global 4 (4 : BitVec 7) (fun p => globalVa p (8 : BitVec 7).toNat (12 : BitVec 7).toNat)) p).2.2 = []) (.atomAdd 4 8 12) system ∧
    Met (fun p => lowestFault ((atomsOf .global 4 (4 : BitVec 7) (fun p => globalVa p (8 : BitVec 7).toNat (12 : BitVec 7).toNat)) p).2.2 ≠ none) (.atomAdd 4 8 12) (user.setX 12 0xFFFFFFFFFFF) ∧
    Met (fun p => ((atomsOf .global 4 (4 : BitVec 7) (fun p => globalVa p (8 : BitVec 7).toNat (12 : BitVec 7).toNat)) p).2.2 = []) (.atomMinI32 4 8 12) system ∧
    Met (fun p => lowestFault ((atomsOf .global 4 (4 : BitVec 7) (fun p => globalVa p (8 : BitVec 7).toNat (12 : BitVec 7).toNat)) p).2.2 ≠ none) (.atomMinI32 4 8 12) (user.setX 12 0xFFFFFFFFFFF) ∧
    Met (fun p => ((atomsOf .global 4 (4 : BitVec 7) (fun p => globalVa p (8 : BitVec 7).toNat (12 : BitVec 7).toNat)) p).2.2 = []) (.atomMaxI32 4 8 12) system ∧
    Met (fun p => lowestFault ((atomsOf .global 4 (4 : BitVec 7) (fun p => globalVa p (8 : BitVec 7).toNat (12 : BitVec 7).toNat)) p).2.2 ≠ none) (.atomMaxI32 4 8 12) (user.setX 12 0xFFFFFFFFFFF) ∧
    Met (fun p => ((atomsOf .global 4 (4 : BitVec 7) (fun p => globalVa p (8 : BitVec 7).toNat (12 : BitVec 7).toNat)) p).2.2 = []) (.atomMinN32 4 8 12) system ∧
    Met (fun p => lowestFault ((atomsOf .global 4 (4 : BitVec 7) (fun p => globalVa p (8 : BitVec 7).toNat (12 : BitVec 7).toNat)) p).2.2 ≠ none) (.atomMinN32 4 8 12) (user.setX 12 0xFFFFFFFFFFF) ∧
    Met (fun p => ((atomsOf .global 4 (4 : BitVec 7) (fun p => globalVa p (8 : BitVec 7).toNat (12 : BitVec 7).toNat)) p).2.2 = []) (.atomMaxN32 4 8 12) system ∧
    Met (fun p => lowestFault ((atomsOf .global 4 (4 : BitVec 7) (fun p => globalVa p (8 : BitVec 7).toNat (12 : BitVec 7).toNat)) p).2.2 ≠ none) (.atomMaxN32 4 8 12) (user.setX 12 0xFFFFFFFFFFF) ∧
    Met (fun p => ((atomsOf .global 4 (4 : BitVec 7) (fun p => globalVa p (8 : BitVec 7).toNat (12 : BitVec 7).toNat)) p).2.2 = []) (.atomAnd 4 8 12) system ∧
    Met (fun p => lowestFault ((atomsOf .global 4 (4 : BitVec 7) (fun p => globalVa p (8 : BitVec 7).toNat (12 : BitVec 7).toNat)) p).2.2 ≠ none) (.atomAnd 4 8 12) (user.setX 12 0xFFFFFFFFFFF) ∧
    Met (fun p => ((atomsOf .global 4 (4 : BitVec 7) (fun p => globalVa p (8 : BitVec 7).toNat (12 : BitVec 7).toNat)) p).2.2 = []) (.atomOr 4 8 12) system ∧
    Met (fun p => lowestFault ((atomsOf .global 4 (4 : BitVec 7) (fun p => globalVa p (8 : BitVec 7).toNat (12 : BitVec 7).toNat)) p).2.2 ≠ none) (.atomOr 4 8 12) (user.setX 12 0xFFFFFFFFFFF) ∧
    Met (fun p => ((atomsOf .global 4 (4 : BitVec 7) (fun p => globalVa p (8 : BitVec 7).toNat (12 : BitVec 7).toNat)) p).2.2 = []) (.atomXor 4 8 12) system ∧
    Met (fun p => lowestFault ((atomsOf .global 4 (4 : BitVec 7) (fun p => globalVa p (8 : BitVec 7).toNat (12 : BitVec 7).toNat)) p).2.2 ≠ none) (.atomXor 4 8 12) (user.setX 12 0xFFFFFFFFFFF) ∧
    Met (fun p => ((atomsOf .global 4 (4 : BitVec 7) (fun p => globalVa p (8 : BitVec 7).toNat (12 : BitVec 7).toNat)) p).2.2 = []) (.atom2Exch 4 8 12) system ∧
    Met (fun p => lowestFault ((atomsOf .global 4 (4 : BitVec 7) (fun p => globalVa p (8 : BitVec 7).toNat (12 : BitVec 7).toNat)) p).2.2 ≠ none) (.atom2Exch 4 8 12) (user.setX 12 0xFFFFFFFFFFF) ∧
    Met (fun p => ((atomsOf .global 4 (4 : BitVec 7) (fun p => globalVa p (8 : BitVec 7).toNat (12 : BitVec 7).toNat)) p).2.2 = []) (.atom2Cas 4 8 12) system ∧
    Met (fun p => lowestFault ((atomsOf .global 4 (4 : BitVec 7) (fun p => globalVa p (8 : BitVec 7).toNat (12 : BitVec 7).toNat)) p).2.2 ≠ none) (.atom2Cas 4 8 12) (user.setX 12 0xFFFFFFFFFFF) ∧
    Met (fun p => ((atomsOf .global 4 (4 : BitVec 7) (fun p => globalVa p (8 : BitVec 7).toNat (12 : BitVec 7).toNat)) p).2.2 = []) (.atom2FaddF32 4 8 12) system ∧
    Met (fun p => lowestFault ((atomsOf .global 4 (4 : BitVec 7) (fun p => globalVa p (8 : BitVec 7).toNat (12 : BitVec 7).toNat)) p).2.2 ≠ none) (.atom2FaddF32 4 8 12) (user.setX 12 0xFFFFFFFFFFF) ∧
    Met (fun p => ((atomsOf .global 4 (4 : BitVec 7) (fun p => globalVa p (8 : BitVec 7).toNat (12 : BitVec 7).toNat)) p).2.2 = []) (.atom2FminF32 4 8 12) system ∧
    Met (fun p => lowestFault ((atomsOf .global 4 (4 : BitVec 7) (fun p => globalVa p (8 : BitVec 7).toNat (12 : BitVec 7).toNat)) p).2.2 ≠ none) (.atom2FminF32 4 8 12) (user.setX 12 0xFFFFFFFFFFF) ∧
    Met (fun p => ((atomsOf .global 4 (4 : BitVec 7) (fun p => globalVa p (8 : BitVec 7).toNat (12 : BitVec 7).toNat)) p).2.2 = []) (.atom2FmaxF32 4 8 12) system ∧
    Met (fun p => lowestFault ((atomsOf .global 4 (4 : BitVec 7) (fun p => globalVa p (8 : BitVec 7).toNat (12 : BitVec 7).toNat)) p).2.2 ≠ none) (.atom2FmaxF32 4 8 12) (user.setX 12 0xFFFFFFFFFFF) ∧
    Met (fun p => ((atomsOf .global 8 (4 : BitVec 7) (fun p => globalVa p (8 : BitVec 7).toNat (12 : BitVec 7).toNat)) p).2.2 = []) (.atom2AddI64 4 8 12) system ∧
    Met (fun p => lowestFault ((atomsOf .global 8 (4 : BitVec 7) (fun p => globalVa p (8 : BitVec 7).toNat (12 : BitVec 7).toNat)) p).2.2 ≠ none) (.atom2AddI64 4 8 12) (user.setX 12 0xFFFFFFFFFFF) ∧
    Met (fun p => ((atomsOf .global 8 (4 : BitVec 7) (fun p => globalVa p (8 : BitVec 7).toNat (12 : BitVec 7).toNat)) p).2.2 = []) (.atom2ExchB64 4 8 12) system ∧
    Met (fun p => lowestFault ((atomsOf .global 8 (4 : BitVec 7) (fun p => globalVa p (8 : BitVec 7).toNat (12 : BitVec 7).toNat)) p).2.2 ≠ none) (.atom2ExchB64 4 8 12) (user.setX 12 0xFFFFFFFFFFF) ∧
    Met (fun p => ((atomsOf .global 8 (4 : BitVec 7) (fun p => globalVa p (8 : BitVec 7).toNat (12 : BitVec 7).toNat)) p).2.2 = []) (.atom2CasB64 4 8 12) system ∧
    Met (fun p => lowestFault ((atomsOf .global 8 (4 : BitVec 7) (fun p => globalVa p (8 : BitVec 7).toNat (12 : BitVec 7).toNat)) p).2.2 ≠ none) (.atom2CasB64 4 8 12) (user.setX 12 0xFFFFFFFFFFF) ∧
    Met (fun p => (atomsOf .scratch (atomOf (extSet p.sq.cur) 0).2 (4 : BitVec 7) (fun p => scratchOffset p (8 : BitVec 7).toNat (12 : BitVec 7).toNat) p).2.2 = []) (.atoms 0 4 8 12) user ∧
    Met (fun p => (scalarAtomOf (atomOf (extSet p.sq.cur) 0).1 (atomOf (extSet p.sq.cur) 0).2 (4 : BitVec 7) (fun p => (p.x 12 + p.x 8).toNat) p).2.2 = []) (.satom 0 4 8 12) system :=
  ⟨met (by decide +kernel) (by decide +kernel),
   met (by decide +kernel) (by decide +kernel),
   met (by decide +kernel) (by decide +kernel),
   met (by decide +kernel) (by decide +kernel),
   met (by decide +kernel) (by decide +kernel),
   met (by decide +kernel) (by decide +kernel),
   met (by decide +kernel) (by decide +kernel),
   met (by decide +kernel) (by decide +kernel),
   met (by decide +kernel) (by decide +kernel),
   met (by decide +kernel) (by decide +kernel),
   met (by decide +kernel) (by decide +kernel),
   met (by decide +kernel) (by decide +kernel),
   met (by decide +kernel) (by decide +kernel),
   met (by decide +kernel) (by decide +kernel),
   met (by decide +kernel) (by decide +kernel),
   met (by decide +kernel) (by decide +kernel),
   met (by decide +kernel) (by decide +kernel),
   met (by decide +kernel) (by decide +kernel),
   met (by decide +kernel) (by decide +kernel),
   met (by decide +kernel) (by decide +kernel),
   met (by decide +kernel) (by decide +kernel),
   met (by decide +kernel) (by decide +kernel),
   met (by decide +kernel) (by decide +kernel),
   met (by decide +kernel) (by decide +kernel),
   met (by decide +kernel) (by decide +kernel),
   met (by decide +kernel) (by decide +kernel),
   met (by decide +kernel) (by decide +kernel),
   met (by decide +kernel) (by decide +kernel),
   met (by decide +kernel) (by decide +kernel),
   met (by decide +kernel) (by decide +kernel),
   met (by decide +kernel) (by decide +kernel),
   met (by decide +kernel) (by decide +kernel),
   met (by decide +kernel) (by decide +kernel),
   met (by decide +kernel) (by decide +kernel)⟩

/-- States that meet the hypotheses of conjuncts of FencesAndBarriers. -/
theorem witness_FencesAndBarriers :
    Met (fun p => ((2 : BitVec 3).toNat < 3 ∨ (3 : BitVec 3).toNat < 2 ∨ 4 < (3 : BitVec 3).toNat) ∧ FenceFree p (3 : BitVec 3).toNat (2 : BitVec 3).toNat) (.fence 2 3 0) user ∧
    Met (fun p => ¬FenceFree p (4 : BitVec 3).toNat (2 : BitVec 3).toNat) (.fence 2 4 0) loading1 ∧
    Met (fun p => ((2 : BitVec 3).toNat < 3 ∨ (4 : BitVec 3).toNat < 2 ∨ 4 < (4 : BitVec 3).toNat) ∧ p.sq.ops = [] ∧ FenceFree p (4 : BitVec 3).toNat (2 : BitVec 3).toNat ∧ firstError p.sq (fun _ => true) = none) (.fence 2 4 1) user ∧
    Met (fun p => p.sq.ops ≠ [] ∨ ¬FenceFree p (4 : BitVec 3).toNat (2 : BitVec 3).toNat) (.fence 2 4 1) copying ∧
    Met (fun p => (deferredFaults (retried p)).2 = false ∧ 3 ≤ (5 : BitVec 3).toNat ∧ 2 ≤ (2 : BitVec 3).toNat ∧ (2 : BitVec 3).toNat ≤ 4 ∧ ((1 : BitVec 1) = 1 → p.sq.ops = [] ∧ firstError p.sq (fun _ => true) = none) ∧ FenceFree p (2 : BitVec 3).toNat (5 : BitVec 3).toNat) (.fence 5 2 1) user ∧
    Met (fun p => p.sq.ops = [] ∧ FenceFree p 4 1 ∧ (firstError p.sq fun _ => true).isSome = true) (.fence 1 4 1) (erring .ld) ∧
    Met (fun p => (deferredFaults (retried p)).2 = true ∧ FenceFree p 4 3) (.fence 3 4 0) pinning ∧
    Met (fun p => ¬FenceFree p 4 2 ∧ loading1.sq.cur.active ≠ 0 ∧ loading1.sq.cur.active &&& ~~~loading1.sq.thr.eligible = 0) (.fence 2 4 0) loading1 ∧
    Met (fun p => BarTakes p false (15 : BitVec 4).toNat (1 : BitVec 6).toNat) (.barArrive 15 1) user ∧
    Met (fun p => BarTakes p false (0 : BitVec 4).toNat (1 : BitVec 6).toNat ∧ barGen (arrivedAt p false (0 : BitVec 4).toNat (1 : BitVec 6).toNat) false (0 : BitVec 4).toNat ≠ barGen p false (0 : BitVec 4).toNat) (.barSync 0 1) user ∧
    Met (fun _ => True) (.barWait 1) user ∧
    Met (fun p => BarTakes p true (3 : BitVec 2).toNat (2 : BitVec 6).toNat) (.tbarArrive 3 2) user ∧
    Met (fun p => BarTakes p true (0 : BitVec 2).toNat (1 : BitVec 6).toNat ∧ barGen (arrivedAt p true (0 : BitVec 2).toNat (1 : BitVec 6).toNat) true (0 : BitVec 2).toNat ≠ barGen p true (0 : BitVec 2).toNat) (.tbarSync 0 1) user ∧
    Met (fun _ => True) (.tbarWait 1) user ∧
    Met (fun p => BarTakes p false 0 0 ∧ barGen (arrivedAt p false 0 0) false 0 = barGen p false 0) (.barSync 0 0) user2 ∧
    Met (fun p => BarTakes p true 0 2 ∧ barGen (arrivedAt p true 0 2) true 0 = barGen p true 0) (.tbarSync 0 2) user :=
  ⟨met (by decide +kernel) (by delta FenceFree; decide +kernel),
   met (by decide +kernel) (by delta FenceFree; decide +kernel),
   met (by decide +kernel) (by delta FenceFree; decide +kernel),
   met (by decide +kernel) (by delta FenceFree; decide +kernel),
   met (by decide +kernel) (by delta FenceFree; decide +kernel),
   met (by decide +kernel) (by delta FenceFree; decide +kernel),
   met (by decide +kernel) (by delta FenceFree; decide +kernel),
   met (by decide +kernel) (by delta FenceFree; decide +kernel),
   met (by decide +kernel) (⟨⟨crew7, by decide +kernel⟩, by decide +kernel⟩),
   met (by decide +kernel) (⟨⟨⟨crew7, by decide +kernel⟩, by decide +kernel⟩, by decide +kernel⟩),
   met (by decide +kernel) (trivial),
   met (by decide +kernel) (⟨⟨crew7, by decide +kernel⟩, by decide +kernel⟩),
   met (by decide +kernel) (⟨⟨⟨crew7, by decide +kernel⟩, by decide +kernel⟩, by decide +kernel⟩),
   met (by decide +kernel) (trivial),
   met (by decide +kernel) (⟨⟨⟨crew7, by decide +kernel⟩, by decide +kernel⟩, by decide +kernel⟩),
   met (by decide +kernel) (⟨⟨⟨crew7, by decide +kernel⟩, by decide +kernel⟩, by decide +kernel⟩)⟩

/-- Crew queues with room, an entry, full, empty, and beyond the last. -/
theorem witness_QueuesAndSemaphores_crew :
    Met (fun p => (1 : BitVec 4).toNat < queueCount p ∧ mayPush p (1 : BitVec 4).toNat p.serial = true) (.qpush 4 1) user ∧
    Met (fun p => (1 : BitVec 4).toNat < queueCount p ∧ mayPop p (1 : BitVec 4).toNat p.serial = true) (.qpop 4 1) queued ∧
    Met (fun p => (1 : BitVec 4).toNat < queueCount p ∧ mayPush p (1 : BitVec 4).toNat p.serial = false) (.qpush 4 1) queueFull ∧
    Met (fun p => (1 : BitVec 4).toNat < queueCount p ∧ mayPop p (1 : BitVec 4).toNat p.serial = false) (.qpop 4 1) user ∧
    Met (fun p => (1 : BitVec 4).toNat < queueCount p) (.qpushTry 4 1 12) user ∧
    Met (fun p => (1 : BitVec 4).toNat < queueCount p) (.qpopTry 4 1 12) user ∧
    Met (fun p => queueCount p ≤ (2 : BitVec 4).toNat) (.qpush 4 2) user ∧
    Met (fun p => queueCount p ≤ (2 : BitVec 4).toNat) (.qpop 4 2) user ∧
    Met (fun p => queueCount p ≤ (2 : BitVec 4).toNat) (.qpushTry 4 2 12) user ∧
    Met (fun p => queueCount p ≤ (2 : BitVec 4).toNat) (.qpopTry 4 2 12) user :=
  ⟨met (by decide +kernel) (by decide +kernel),
   met (by decide +kernel) (by decide +kernel),
   met (by decide +kernel) (by decide +kernel),
   met (by decide +kernel) (by decide +kernel),
   met (by decide +kernel) (by decide +kernel),
   met (by decide +kernel) (by decide +kernel),
   met (by decide +kernel) (by decide +kernel),
   met (by decide +kernel) (by decide +kernel),
   met (by decide +kernel) (by decide +kernel),
   met (by decide +kernel) (by decide +kernel)⟩

/-- States that meet the hypotheses of conjuncts of CopiesStackAndLinkInstructions. -/
theorem witness_CopiesStackAndLinkInstructions :
    Met (fun p => rangesWait (p.raceMarked crew7 (p.num ((8 : BitVec 7).toNat + 1)) (p.num (12 : BitVec 7).toNat)) ([((p.num (8 : BitVec 7).toNat), (p.num (12 : BitVec 7).toNat))] ++ []) = false ∧ p.myCrew = some crew7 ∧ p.num (8 : BitVec 7).toNat % 64 = 0 ∧ p.num ((8 : BitVec 7).toNat + 1) % 64 = 0 ∧ p.num (12 : BitVec 7).toNat % 64 = 0 ∧ p.num (12 : BitVec 7).toNat < 4294967296 ∧ p.inGlobal (p.num (8 : BitVec 7).toNat) (p.num (12 : BitVec 7).toNat) ∧ p.inScratch crew7 (p.num ((8 : BitVec 7).toNat + 1)) (p.num (12 : BitVec 7).toNat)) (.cpyGs 4 8 12) ((user.setX 9 256).setX 12 64) ∧
    Met (fun p => rangesWait p ([] ++ [((p.num ((8 : BitVec 7).toNat + 1)), (p.num (12 : BitVec 7).toNat))]) = false ∧ LastOk p ∧ p.myCrew = some crew7 ∧ p.num (8 : BitVec 7).toNat % 64 = 0 ∧ p.num ((8 : BitVec 7).toNat + 1) % 64 = 0 ∧ p.num (12 : BitVec 7).toNat % 64 = 0 ∧ p.num (12 : BitVec 7).toNat < 4294967296 ∧ p.inScratch crew7 (p.num (8 : BitVec 7).toNat) (p.num (12 : BitVec 7).toNat) ∧ p.inGlobal (p.num ((8 : BitVec 7).toNat + 1)) (p.num (12 : BitVec 7).toNat)) (.cpySg 4 8 12) ((user.setX 8 131008).setX 12 64) ∧
    Met (fun p => rangesWait p ([((p.num (8 : BitVec 7).toNat), (p.num (12 : BitVec 7).toNat))] ++ [((p.num ((8 : BitVec 7).toNat + 1)), (p.num (12 : BitVec 7).toNat))]) = false ∧ p.num (8 : BitVec 7).toNat % 64 = 0 ∧ p.num ((8 : BitVec 7).toNat + 1) % 64 = 0 ∧ p.num (12 : BitVec 7).toNat % 64 = 0 ∧ p.num (12 : BitVec 7).toNat < 4294967296 ∧ p.inGlobal (p.num (8 : BitVec 7).toNat) (p.num (12 : BitVec 7).toNat) ∧ p.inGlobal (p.num ((8 : BitVec 7).toNat + 1)) (p.num (12 : BitVec 7).toNat) ∧ ((p.num (12 : BitVec 7).toNat) = 0 ∨ overlap (p.num (8 : BitVec 7).toNat) (p.num ((8 : BitVec 7).toNat + 1)) (p.num (12 : BitVec 7).toNat) = false)) (.cpyGg 4 8 12) (((user.setX 8 256).setX 9 320).setX 12 64) ∧
    Met (fun p => LastOk p ∧ p.myCrew = some crew7 ∧ p.peerCrew = some crew8 ∧ p.num (8 : BitVec 7).toNat % 64 = 0 ∧ p.num ((8 : BitVec 7).toNat + 1) % 64 = 0 ∧ p.num (12 : BitVec 7).toNat % 64 = 0 ∧ p.num (12 : BitVec 7).toNat < 4294967296 ∧ p.inScratch crew7 (p.num (8 : BitVec 7).toNat) (p.num (12 : BitVec 7).toNat) ∧ p.inScratch crew8 (p.num ((8 : BitVec 7).toNat + 1)) (p.num (12 : BitVec 7).toNat)) (.cpySp 4 8 12) (user.setX 12 65472) ∧
    Met (fun p => rangesWait p ([((p.num (8 : BitVec 7).toNat), (p.num (12 : BitVec 7).toNat))] ++ []) = false ∧ p.num (8 : BitVec 7).toNat % 64 = 0 ∧ p.x ((8 : BitVec 7).toNat + 1) = 0 ∧ p.num (12 : BitVec 7).toNat % 64 = 0 ∧ p.num (12 : BitVec 7).toNat < 4294967296 ∧ p.inGlobal (p.num (8 : BitVec 7).toNat) (p.num (12 : BitVec 7).toNat)) (.cpyPin 4 8 12) (user.setX 12 4294967232) ∧
    Met (fun p => rangesWait (p.raceMarked crew7 (p.num ((8 : BitVec 7).toNat + 1)) (shapeOf (p.x (12 : BitVec 7).toNat)).total) (((shapeOf (p.x (12 : BitVec 7).toNat)).joined.runs (p.num (8 : BitVec 7).toNat) ((shapeOf (p.x (12 : BitVec 7).toNat)).rows + 1) 0 (shapeOf (p.x (12 : BitVec 7).toNat)).total) ++ []) = false ∧ p.myCrew = some crew7 ∧ (shapeOf (p.x (12 : BitVec 7).toNat)).row ≠ 0 ∧ (shapeOf (p.x (12 : BitVec 7).toNat)).row ≤ (shapeOf (p.x (12 : BitVec 7).toNat)).pitch ∧ (shapeOf (p.x (12 : BitVec 7).toNat)).total ≤ 0xFFFFFFC0 ∧ p.num (8 : BitVec 7).toNat % 64 = 0 ∧ p.num ((8 : BitVec 7).toNat + 1) % 64 = 0 ∧ (shapeOf (p.x (12 : BitVec 7).toNat)).row % 64 = 0 ∧ p.inGlobal (p.num (8 : BitVec 7).toNat) ((shapeOf (p.x (12 : BitVec 7).toNat)).pitch * ((shapeOf (p.x (12 : BitVec 7).toNat)).rows - 1) + (shapeOf (p.x (12 : BitVec 7).toNat)).row) ∧ p.inScratch crew7 (p.num ((8 : BitVec 7).toNat + 1)) (shapeOf (p.x (12 : BitVec 7).toNat)).total) (.cpyGs2 4 8 12) (user.setX 12 0x10001000040) ∧
    Met (fun p => rangesWait p ([] ++ ((shapeOf (p.x (12 : BitVec 7).toNat)).joined.runs (p.num ((8 : BitVec 7).toNat + 1)) ((shapeOf (p.x (12 : BitVec 7).toNat)).rows + 1) 0 (shapeOf (p.x (12 : BitVec 7).toNat)).total)) = false ∧ LastOk p ∧ p.myCrew = some crew7 ∧ (shapeOf (p.x (12 : BitVec 7).toNat)).row ≠ 0 ∧ (shapeOf (p.x (12 : BitVec 7).toNat)).row ≤ (shapeOf (p.x (12 : BitVec 7).toNat)).pitch ∧ (shapeOf (p.x (12 : BitVec 7).toNat)).total ≤ 0xFFFFFFC0 ∧ p.num (8 : BitVec 7).toNat % 64 = 0 ∧ p.num ((8 : BitVec 7).toNat + 1) % 64 = 0 ∧ (shapeOf (p.x (12 : BitVec 7).toNat)).row % 64 = 0 ∧ p.inGlobal (p.num ((8 : BitVec 7).toNat + 1)) ((shapeOf (p.x (12 : BitVec 7).toNat)).pitch * ((shapeOf (p.x (12 : BitVec 7).toNat)).rows - 1) + (shapeOf (p.x (12 : BitVec 7).toNat)).row) ∧ p.inScratch crew7 (p.num (8 : BitVec 7).toNat) (shapeOf (p.x (12 : BitVec 7).toNat)).total) (.cpySg2 4 8 12) (user.setX 12 0x10000000040) ∧
    Met (fun p => rangesWait p ([(p.num (12 : BitVec 7).toNat, 65536)] ++ [(p.num (8 : BitVec 7).toNat, 65536)]) = false ∧ p.num (8 : BitVec 7).toNat % 65536 = 0 ∧ p.num (12 : BitVec 7).toNat % 65536 = 0 ∧ p.inGlobal (p.num (8 : BitVec 7).toNat) 65536 ∧ p.inGlobal (p.num (12 : BitVec 7).toNat) 65536) (.stkRowcopy 4 8 12) user ∧
    Met (fun p => rangesWait p ([] ++ [(p.num (8 : BitVec 7).toNat, 65536)]) = false ∧ p.num (8 : BitVec 7).toNat % 65536 = 0 ∧ p.inGlobal (p.num (8 : BitVec 7).toNat) 65536) (.stkRowzero 4 8) user ∧
    Met (fun p => p.num (8 : BitVec 7).toNat % 65536 = 0 ∧ p.inGlobal (p.num (8 : BitVec 7).toNat) 65536) (.stkProbe 4 8) user ∧
    Met (fun p => field (p.x (8 : BitVec 7).toNat) 3 5 = 0 ∧ p.num (8 : BitVec 7).toNat < 65536) (.lnkTurn 4 8) (user.setX 8 4103) ∧
    Met (fun p => p.num (8 : BitVec 7).toNat < 8) (.lnkStatus 4 8) (user.setX 8 7) :=
  ⟨met (by decide +kernel) (by delta State.inGlobal; delta State.inScratch; decide +kernel),
   met (by decide +kernel) (by refine ⟨by decide +kernel, lastOk_none (by decide +kernel), ?_⟩; delta State.inGlobal; delta State.inScratch; decide +kernel),
   met (by decide +kernel) (by delta State.inGlobal; decide +kernel),
   met (by decide +kernel) (by refine ⟨lastOk_none (by decide +kernel), ?_⟩; delta State.inScratch; decide +kernel),
   met (by decide +kernel) (by delta State.inGlobal; decide +kernel),
   met (by decide +kernel) (by delta State.inGlobal; delta State.inScratch; decide +kernel),
   met (by decide +kernel) (by refine ⟨by decide +kernel, lastOk_none (by decide +kernel), ?_⟩; delta State.inGlobal; delta State.inScratch; decide +kernel),
   met (by decide +kernel) (by delta State.inGlobal; decide +kernel),
   met (by decide +kernel) (by delta State.inGlobal; decide +kernel),
   met (by decide +kernel) (by delta State.inGlobal; decide +kernel),
   met (by decide +kernel) (by decide +kernel),
   met (by decide +kernel) (by decide +kernel)⟩

/-- States that meet the hypotheses of conjuncts of BankInstructions. -/
theorem witness_BankInstructions :
    Met (fun p => rangesWait p ([((p.num (8 : BitVec 7).toNat), bankCount (p.x (12 : BitVec 7).toNat) * imageBytes (0 : BitVec 3).toNat)] ++ []) = false ∧ p.myCrew = some crew7 ∧ bankDescBad crew7 (0 : BitVec 3).toNat (p.x (12 : BitVec 7).toNat) = false ∧ bankPlanes (p.x (12 : BitVec 7).toNat) = 0 ∧ p.num (8 : BitVec 7).toNat % 64 = 0 ∧ p.inGlobal (p.num (8 : BitVec 7).toNat) (bankCount (p.x (12 : BitVec 7).toNat) * imageBytes (0 : BitVec 3).toNat) ∧ crew7.mapsAll (bankFirst (p.x (12 : BitVec 7).toNat)) (bankCount (p.x (12 : BitVec 7).toNat))) (.bload 0 4 8 12) user ∧
    Met (fun p => p.myCrew = some crew7 ∧ (p.x (8 : BitVec 7).toNat).toNat < 8192 ∧ p.x (12 : BitVec 7).toNat = 0 ∧ xfFmt (p.x (8 : BitVec 7).toNat) ≠ 3 ∧ xfScales (p.x (8 : BitVec 7).toNat) = false ∧ xfSlot (p.x (8 : BitVec 7).toNat) < slotCount (xfFmt (p.x (8 : BitVec 7).toNat)) ∧ xfCompute (p.x (8 : BitVec 7).toNat) = false ∧ xfBank (p.x (8 : BitVec 7).toNat) < crew7.storage.length ∧ p.inScratch crew7 (65536 * xfBank (p.x (8 : BitVec 7).toNat)) 65536) (.xformToplanes 4 8 12) user ∧
    Met (fun p => p.myCrew = some crew7 ∧ (p.x (8 : BitVec 7).toNat).toNat < 8192 ∧ p.x (12 : BitVec 7).toNat = 0 ∧ xfFmt (p.x (8 : BitVec 7).toNat) ≠ 3 ∧ xfScales (p.x (8 : BitVec 7).toNat) = false ∧ xfSlot (p.x (8 : BitVec 7).toNat) < slotCount (xfFmt (p.x (8 : BitVec 7).toNat)) ∧ xfCompute (p.x (8 : BitVec 7).toNat) = false ∧ xfBank (p.x (8 : BitVec 7).toNat) < crew7.storage.length ∧ p.inScratch crew7 (65536 * xfBank (p.x (8 : BitVec 7).toNat)) 65536) (.xformFromplanes 4 8 12) user ∧
    Met (fun p => p.myCrew = some crew7 ∧ (p.x (8 : BitVec 7).toNat).toNat < 8192 ∧ p.x (12 : BitVec 7).toNat = 0 ∧ xfFmt (p.x (8 : BitVec 7).toNat) = 0 ∧ xfScales (p.x (8 : BitVec 7).toNat) = false ∧ xfSlot (p.x (8 : BitVec 7).toNat) = 0 ∧ xfCompute (p.x (8 : BitVec 7).toNat) = false ∧ xfBank (p.x (8 : BitVec 7).toNat) < crew7.storage.length ∧ p.inScratch crew7 (65536 * xfBank (p.x (8 : BitVec 7).toNat)) 65536) (.xformZero 4 8 12) user ∧
    Met (fun p => p.myCrew = some crew7 ∧ (p.x (8 : BitVec 7).toNat).toNat < 8192 ∧ p.x (12 : BitVec 7).toNat = 0 ∧ xfFmt (p.x (8 : BitVec 7).toNat) = 0 ∧ xfScales (p.x (8 : BitVec 7).toNat) = false ∧ xfSlot (p.x (8 : BitVec 7).toNat) = 0 ∧ xfCompute (p.x (8 : BitVec 7).toNat) = true ∧ p.sq.ident.core ≠ Config.mcCore ∧ xfBank (p.x (8 : BitVec 7).toNat) < crew7.banksSeen ∧ crew7.detached (xfBank (p.x (8 : BitVec 7).toNat)) = false) (.xformZero 4 8 12) (user.setX 8 33) ∧
    Met (fun p => p.myCrew = some crew7 ∧ (p.x (8 : BitVec 7).toNat).toNat < 8192 ∧ xfFmt (p.x (8 : BitVec 7).toNat) = 0 ∧ xfScales (p.x (8 : BitVec 7).toNat) = false ∧ xfSlot (p.x (8 : BitVec 7).toNat) = 0 ∧ xfCompute (p.x (8 : BitVec 7).toNat) = false ∧ xfBank (p.x (8 : BitVec 7).toNat) < crew7.storage.length ∧ p.inScratch crew7 (65536 * xfBank (p.x (8 : BitVec 7).toNat)) 65536) (.xformFill 4 8 12) user ∧
    Met (fun p => p.myCrew = some crew7 ∧ (p.x (8 : BitVec 7).toNat).toNat < 8192 ∧ xfFmt (p.x (8 : BitVec 7).toNat) = 0 ∧ xfScales (p.x (8 : BitVec 7).toNat) = false ∧ xfSlot (p.x (8 : BitVec 7).toNat) = 0 ∧ xfCompute (p.x (8 : BitVec 7).toNat) = true ∧ p.sq.ident.core ≠ Config.mcCore ∧ xfBank (p.x (8 : BitVec 7).toNat) < crew7.banksSeen ∧ crew7.detached (xfBank (p.x (8 : BitVec 7).toNat)) = false) (.xformFill 4 8 12) (user.setX 8 32) ∧
    Met (fun p => p.myCrew = some crew7 ∧ (p.x (8 : BitVec 7).toNat).toNat < 8192 ∧ xfScales (p.x (8 : BitVec 7).toNat) = true ∧ xfFmt (p.x (8 : BitVec 7).toNat) < 2 ∧ xfSlot (p.x (8 : BitVec 7).toNat) < slotCount (xfFmt (p.x (8 : BitVec 7).toNat)) ∧ xfCompute (p.x (8 : BitVec 7).toNat) = true ∧ p.sq.ident.core ≠ Config.mcCore ∧ xfBank (p.x (8 : BitVec 7).toNat) < crew7.banksSeen ∧ crew7.detached (xfBank (p.x (8 : BitVec 7).toNat)) = false) (.xformFill 4 8 12) (user.setX 8 4128) ∧
    Met (fun p => p.myCrew = some crew7 ∧ (p.x (8 : BitVec 7).toNat).toNat < 8192 ∧ p.x (12 : BitVec 7).toNat = 0 ∧ xfFmt (p.x (8 : BitVec 7).toNat) = 0 ∧ xfScales (p.x (8 : BitVec 7).toNat) = false ∧ xfSlot (p.x (8 : BitVec 7).toNat) = 0 ∧ xfCompute (p.x (8 : BitVec 7).toNat) = true ∧ p.sq.ident.core ≠ Config.mcCore ∧ xfBank (p.x (8 : BitVec 7).toNat) < crew7.banksSeen ∧ crew7.detached (xfBank (p.x (8 : BitVec 7).toNat)) = false) (.xformChecksum 4 8 12) (user.setX 8 32) ∧
    Met (fun p => p.myCrew = some crew7 ∧ crew7.storage ≠ [] ∧ BanksQuiet p crew7) .bankCompute user ∧
    Met (fun p => p.myCrew = some crew7 ∧ crew7.compute ≠ [] ∧ BanksQuiet p crew7) .bankStorage user ∧
    Met (fun p => p.myCrew = some crew7 ∧ crew7.residen ≠ [] ∧ BanksQuiet p crew7) .bankAttach user ∧
    Met (fun p => p.myCrew = some crew7 ∧ crew7.residen ≠ [] ∧ BanksQuiet p crew7) .bankDetach user ∧
    Met (fun p => p.myCrew = some crew7bare ∧ crew7bare.storage = []) .bankCompute bare ∧
    Met (fun p => p.myCrew = some crew7bare ∧ crew7bare.compute = []) .bankStorage bare ∧
    Met (fun p => p.myCrew = some crew7bare ∧ crew7bare.residen = []) .bankAttach bare ∧
    Met (fun p => p.myCrew = some crew7bare ∧ crew7bare.residen = []) .bankDetach bare ∧
    Met (fun p => p.myCrew = some crew7 ∧ p.x (8 : BitVec 7).toNat = 0) (.bankQuery 4 8) user ∧
    Met (fun p => p.myCrew = some crew7 ∧ (p.x (8 : BitVec 7).toNat).getLsbD 8 = true ∧ p.x (8 : BitVec 7).toNat &&& ~~~0x11F = 0 ∧ crew7.computeBank (field (p.x (8 : BitVec 7).toNat) 0 5) = some 162) (.bankQuery 4 8) (user.setX 8 257) :=
  ⟨met (by decide +kernel) (by delta State.inGlobal; delta Crew.mapsAll; decide +kernel),
   met (by decide +kernel) (by delta State.inScratch; decide +kernel),
   met (by decide +kernel) (by delta State.inScratch; decide +kernel),
   met (by decide +kernel) (by delta State.inScratch; decide +kernel),
   met (by decide +kernel) (by decide +kernel),
   met (by decide +kernel) (by delta State.inScratch; decide +kernel),
   met (by decide +kernel) (by decide +kernel),
   met (by decide +kernel) (by decide +kernel),
   met (by decide +kernel) (by decide +kernel),
   met (by decide +kernel) (by delta BanksQuiet; decide +kernel),
   met (by decide +kernel) (by delta BanksQuiet; decide +kernel),
   met (by decide +kernel) (by delta BanksQuiet; decide +kernel),
   met (by decide +kernel) (by delta BanksQuiet; decide +kernel),
   met (by decide +kernel) (by decide +kernel),
   met (by decide +kernel) (by decide +kernel),
   met (by decide +kernel) (by decide +kernel),
   met (by decide +kernel) (by decide +kernel),
   met (by decide +kernel) (by decide +kernel),
   met (by decide +kernel) (by decide +kernel)⟩

/-- States that meet the hypotheses of conjuncts of TileInstructions. -/
theorem witness_TileInstructions :
    Met (fun p => LastOk p ∧ p.myCrew = some crew7 ∧ tmacBad crew7 (0 : BitVec 3).toNat (p.x (8 : BitVec 7).toNat) (p.x (4 : BitVec 7).toNat) (p.x (12 : BitVec 7).toNat) = false ∧ actOff (p.x (8 : BitVec 7).toNat) % (if actFmt (0 : BitVec 3).toNat = 2 then 512 else 64) = 0 ∧ p.inScratch crew7 (actOff (p.x (8 : BitVec 7).toNat)) (tileBytes (actFmt (0 : BitVec 3).toNat) (actRows (p.x (8 : BitVec 7).toNat))) ∧ crew7.mapsAll (bankFirst (p.x (12 : BitVec 7).toNat)) (bankCount (p.x (12 : BitVec 7).toNat))) (.tmac 0 4 8 12) user ∧
    Met (fun p => rangesWait p ([] ++ (drainRanges (0 : BitVec 3).toNat (p.x (4 : BitVec 7).toNat) (p.x (12 : BitVec 7).toNat) (p.x ((4 : BitVec 7).toNat + 1)))) = false ∧ p.myCrew = some crew7 ∧ drainBad crew7 (0 : BitVec 3).toNat (p.x (8 : BitVec 7).toNat) (p.x (12 : BitVec 7).toNat) (p.x ((4 : BitVec 7).toNat + 1)) = false ∧ p.num (4 : BitVec 7).toNat % (if (0 : BitVec 3).toNat = 6 then 512 else 64) = 0 ∧ drainStride (p.x (12 : BitVec 7).toNat) % (if (0 : BitVec 3).toNat = 6 then 512 else 64) = 0 ∧ (drainMx (0 : BitVec 3).toNat = true → p.num ((4 : BitVec 7).toNat + 1) % 4 = 0) ∧ p.inGlobal (p.num (4 : BitVec 7).toNat) (drainStride (p.x (12 : BitVec 7).toNat) * (drainOuts (0 : BitVec 3).toNat (p.x (12 : BitVec 7).toNat) - 1) + drainRow (0 : BitVec 3).toNat) ∧ p.inGlobal (p.num ((4 : BitVec 7).toNat + 1)) (if drainMx (0 : BitVec 3).toNat then 4 * drainRows (p.x (12 : BitVec 7).toNat) else 0)) (.tdrain 0 4 8 12) (user.setX 12 0x2000000) ∧
    Met (fun p => p.myCrew = some crew7 ∧ accBad crew7 (p.x (8 : BitVec 7).toNat) (p.num (12 : BitVec 7).toNat) = false ∧ accOvw (p.x (8 : BitVec 7).toNat) = false ∧ p.num (12 : BitVec 7).toNat ≤ 3072) (.taccZero 8 12) (user.setX 12 1) ∧
    Met (fun p => p.myCrew = some crew7 ∧ accBad crew7 (p.x (8 : BitVec 7).toNat) 1 = false ∧ accOvw (p.x (8 : BitVec 7).toNat) = false ∧ p.num (12 : BitVec 7).toNat ≤ 96 ∧ p.num (12 : BitVec 7).toNat % 32 = 0) (.taccRead 4 8 12) user ∧
    Met (fun p => p.myCrew = some crew7 ∧ accBad crew7 (p.x (8 : BitVec 7).toNat) 1 = false ∧ accOvw (p.x (8 : BitVec 7).toNat) = false ∧ p.num (12 : BitVec 7).toNat ≤ 96 ∧ p.num (12 : BitVec 7).toNat % 32 = 0) (.taccWrite 4 8 12) user ∧
    Met (fun p => p.myCrew = some crew7 ∧ accBad crew7 (p.x (8 : BitVec 7).toNat) (p.num (12 : BitVec 7).toNat) = false ∧ accOvw (p.x (8 : BitVec 7).toNat) = false ∧ p.num (12 : BitVec 7).toNat ≤ 3072 ∧ accBad crew7 (p.x (4 : BitVec 7).toNat) (p.num (12 : BitVec 7).toNat) = false ∧ accOvw (p.x (4 : BitVec 7).toNat) = false) (.taccAdd 4 8 12) user ∧
    Met (fun p => p.myCrew = some crew7 ∧ accBad crew7 (p.x (8 : BitVec 7).toNat) (p.num (12 : BitVec 7).toNat) = false ∧ accOvw (p.x (8 : BitVec 7).toNat) = false ∧ p.num (12 : BitVec 7).toNat ≤ 3072) (.taccScale 4 8 12) user ∧
    Met (fun p => rangesWait p (((if dotXs (p.x (12 : BitVec 7).toNat) then [] else [(p.num (8 : BitVec 7).toNat, dotLen (p.x (12 : BitVec 7).toNat) * dotBytes (1 : BitVec 3).toNat)]) ++ (if dotYs (p.x (12 : BitVec 7).toNat) then [] else [(p.num ((8 : BitVec 7).toNat + 1), dotLen (p.x (12 : BitVec 7).toNat) * dotBytes (1 : BitVec 3).toNat)])) ++ []) = false ∧ p.myCrew = some crew7 ∧ p.num (12 : BitVec 7).toNat < 17179869184 ∧ dotLen (p.x (12 : BitVec 7).toNat) ≤ 65535 ∧ p.num (8 : BitVec 7).toNat % dotBytes (1 : BitVec 3).toNat = 0 ∧ p.num ((8 : BitVec 7).toNat + 1) % dotBytes (1 : BitVec 3).toNat = 0 ∧ (if dotXs (p.x (12 : BitVec 7).toNat) then p.inScratch crew7 (p.num (8 : BitVec 7).toNat) (dotLen (p.x (12 : BitVec 7).toNat) * dotBytes (1 : BitVec 3).toNat) else p.inGlobal (p.num (8 : BitVec 7).toNat) (dotLen (p.x (12 : BitVec 7).toNat) * dotBytes (1 : BitVec 3).toNat)) ∧ (if dotYs (p.x (12 : BitVec 7).toNat) then p.inScratch crew7 (p.num ((8 : BitVec 7).toNat + 1)) (dotLen (p.x (12 : BitVec 7).toNat) * dotBytes (1 : BitVec 3).toNat) else p.inGlobal (p.num ((8 : BitVec 7).toNat + 1)) (dotLen (p.x (12 : BitVec 7).toNat) * dotBytes (1 : BitVec 3).toNat))) (.dotv 1 4 8 12) user :=
  ⟨met (by decide +kernel) (by refine ⟨lastOk_none (by decide +kernel), ?_⟩; delta State.inScratch; delta Crew.mapsAll; decide +kernel),
   met (by decide +kernel) (by delta State.inGlobal; decide +kernel),
   met (by decide +kernel) (by decide +kernel),
   met (by decide +kernel) (by decide +kernel),
   met (by decide +kernel) (by decide +kernel),
   met (by decide +kernel) (by decide +kernel),
   met (by decide +kernel) (by decide +kernel),
   met (by decide +kernel) (by delta State.inGlobal; delta State.inScratch; decide +kernel)⟩

/-- States that meet the hypotheses of conjuncts of ArrayInstructions. -/
theorem witness_ArrayInstructions :
    Met (fun p => rangesWait p ([(p.num (12 : BitVec 7).toNat, 12582912 * (spanSlices p (armPart (p.x (8 : BitVec 7).toNat))).length)] ++ []) = false ∧ p.num (8 : BitVec 7).toNat < 64 ∧ p.num (12 : BitVec 7).toNat % 65536 = 0 ∧ p.inGlobal (p.num (12 : BitVec 7).toNat) (12582912 * (spanSlices p (armPart (p.x (8 : BitVec 7).toNat))).length)) (.arrxArm 4 8 12) user ∧
    Met (fun p => rangesWait p ([] ++ (match armedWin p (field (p.x (8 : BitVec 7).toNat) 0 3) with | some w => [(w.backing, w.bytes)] | none => [])) = false ∧ p.num (8 : BitVec 7).toNat < 8) (.arrxDisarm 4 8) user ∧
    Met (fun p => p.num (8 : BitVec 7).toNat < 8) (.arrxQuery 4 8) user ∧
    Met (fun p => rangesWait p ([(p.num (12 : BitVec 7).toNat, (elemBytes (vecW (p.x (8 : BitVec 7).toNat)) * rangeCount (p.x (4 : BitVec 7).toNat)))] ++ []) = false ∧ vecBad (p.x (8 : BitVec 7).toNat) = false ∧ rangeCount (p.x (4 : BitVec 7).toNat) ≠ 0 ∧ armedWin p (vecWin (p.x (8 : BitVec 7).toNat)) = some win3 ∧ rangeFirst (p.x (4 : BitVec 7).toNat) + rangeCount (p.x (4 : BitVec 7).toNat) ≤ win3.size ∧ vecFn (p.x (8 : BitVec 7).toNat) = 0 ∧ p.num (12 : BitVec 7).toNat % elemBytes (vecW (p.x (8 : BitVec 7).toNat)) = 0 ∧ p.inGlobal (p.num (12 : BitVec 7).toNat) (elemBytes (vecW (p.x (8 : BitVec 7).toNat)) * rangeCount (p.x (4 : BitVec 7).toNat))) (.arrxLoad 4 8 12) (armed.setX 4 0x100000000) ∧
    Met (fun p => rangesWait p ([] ++ [(p.num (12 : BitVec 7).toNat, (elemBytes (vecW (p.x (8 : BitVec 7).toNat)) * rangeCount (p.x (4 : BitVec 7).toNat)))]) = false ∧ vecBad (p.x (8 : BitVec 7).toNat) = false ∧ rangeCount (p.x (4 : BitVec 7).toNat) ≠ 0 ∧ armedWin p (vecWin (p.x (8 : BitVec 7).toNat)) = some win3 ∧ rangeFirst (p.x (4 : BitVec 7).toNat) + rangeCount (p.x (4 : BitVec 7).toNat) ≤ win3.size ∧ vecFn (p.x (8 : BitVec 7).toNat) = 0 ∧ p.num (12 : BitVec 7).toNat % elemBytes (vecW (p.x (8 : BitVec 7).toNat)) = 0 ∧ p.inGlobal (p.num (12 : BitVec 7).toNat) (elemBytes (vecW (p.x (8 : BitVec 7).toNat)) * rangeCount (p.x (4 : BitVec 7).toNat))) (.arrxStore 4 8 12) (armed.setX 4 0x100000000) ∧
    Met (fun p => vecBad (p.x (8 : BitVec 7).toNat) = false ∧ rangeCount (p.x (4 : BitVec 7).toNat) ≠ 0 ∧ armedWin p (vecWin (p.x (8 : BitVec 7).toNat)) = some win3 ∧ rangeFirst (p.x (4 : BitVec 7).toNat) + rangeCount (p.x (4 : BitVec 7).toNat) ≤ win3.size ∧ (vecFn (p.x (8 : BitVec 7).toNat) = 0 ∨ vecFn (p.x (8 : BitVec 7).toNat) = 0x20)) (.arrxFill 4 8) (armed.setX 4 0x100000000) ∧
    Met (fun p => vecBad (p.x (8 : BitVec 7).toNat) = false ∧ rangeCount (p.x (4 : BitVec 7).toNat) ≠ 0 ∧ vecFn (p.x (8 : BitVec 7).toNat) = 0 ∧ armedWin p (vecWin (p.x (8 : BitVec 7).toNat)) = none) (.arrxLoad 4 8 12) (user.setX 4 0x100000000) ∧
    Met (fun p => vecBad (p.x (8 : BitVec 7).toNat) = false ∧ rangeCount (p.x (4 : BitVec 7).toNat) ≠ 0 ∧ vecFn (p.x (8 : BitVec 7).toNat) = 0 ∧ armedWin p (vecWin (p.x (8 : BitVec 7).toNat)) = none) (.arrxStore 4 8 12) (user.setX 4 0x100000000) ∧
    Met (fun p => vecBad (p.x (8 : BitVec 7).toNat) = false ∧ rangeCount (p.x (4 : BitVec 7).toNat) ≠ 0 ∧ (vecFn (p.x (8 : BitVec 7).toNat) = 0 ∨ vecFn (p.x (8 : BitVec 7).toNat) = 0x20) ∧ armedWin p (vecWin (p.x (8 : BitVec 7).toNat)) = none) (.arrxFill 4 8) (user.setX 4 0x100000000) ∧
    Met (fun p => vecBad (p.x (4 : BitVec 7).toNat) = false ∧ vecFn (p.x (4 : BitVec 7).toNat) < 16 ∧ ArrSource (p.x (4 : BitVec 7).toNat) (p.x (8 : BitVec 7).toNat) ∧ ArrSource (p.x (4 : BitVec 7).toNat) (p.x (12 : BitVec 7).toNat) ∧ armedWin p (vecWin (p.x (4 : BitVec 7).toNat)) = some win3) (.arrLogic 4 8 12) armed ∧
    Met (fun p => vecBad (p.x (4 : BitVec 7).toNat) = false ∧ vecFn (p.x (4 : BitVec 7).toNat) < 16 ∧ ArrSource (p.x (4 : BitVec 7).toNat) (p.x (8 : BitVec 7).toNat) ∧ ArrSource (p.x (4 : BitVec 7).toNat) (p.x (12 : BitVec 7).toNat) ∧ armedWin p (vecWin (p.x (4 : BitVec 7).toNat)) = none) (.arrLogic 4 8 12) user ∧
    Met (fun p => vecBad (p.x (4 : BitVec 7).toNat) = false ∧ vecFn (p.x (4 : BitVec 7).toNat) < 4 ∧ ArrSource (p.x (4 : BitVec 7).toNat) (p.x (8 : BitVec 7).toNat) ∧ ArrSource (p.x (4 : BitVec 7).toNat) (p.x (12 : BitVec 7).toNat) ∧ armedWin p (vecWin (p.x (4 : BitVec 7).toNat)) = some win3) (.arrAddsub 4 8 12) armed ∧
    Met (fun p => vecBad (p.x (4 : BitVec 7).toNat) = false ∧ vecFn (p.x (4 : BitVec 7).toNat) < 4 ∧ ArrSource (p.x (4 : BitVec 7).toNat) (p.x (8 : BitVec 7).toNat) ∧ ArrSource (p.x (4 : BitVec 7).toNat) (p.x (12 : BitVec 7).toNat) ∧ armedWin p (vecWin (p.x (4 : BitVec 7).toNat)) = none) (.arrAddsub 4 8 12) user ∧
    Met (fun p => vecBad (p.x (4 : BitVec 7).toNat) = false ∧ (vecFn (p.x (4 : BitVec 7).toNat) = 0 ∨ vecFn (p.x (4 : BitVec 7).toNat) = 2) ∧ ArrSource (p.x (4 : BitVec 7).toNat) (p.x (8 : BitVec 7).toNat) ∧ ArrSource (p.x (4 : BitVec 7).toNat) (p.x (12 : BitVec 7).toNat) ∧ armedWin p (vecWin (p.x (4 : BitVec 7).toNat)) = some win3) (.arrMul 4 8 12) armed ∧
    Met (fun p => vecBad (p.x (4 : BitVec 7).toNat) = false ∧ (vecFn (p.x (4 : BitVec 7).toNat) = 0 ∨ vecFn (p.x (4 : BitVec 7).toNat) = 2) ∧ ArrSource (p.x (4 : BitVec 7).toNat) (p.x (8 : BitVec 7).toNat) ∧ ArrSource (p.x (4 : BitVec 7).toNat) (p.x (12 : BitVec 7).toNat) ∧ armedWin p (vecWin (p.x (4 : BitVec 7).toNat)) = none) (.arrMul 4 8 12) user ∧
    Met (fun p => vecBad (p.x (4 : BitVec 7).toNat) = false ∧ vecFn (p.x (4 : BitVec 7).toNat) < 6 ∧ ArrSource (p.x (4 : BitVec 7).toNat) (p.x (8 : BitVec 7).toNat) ∧ ArrSource (p.x (4 : BitVec 7).toNat) (p.x (12 : BitVec 7).toNat) ∧ armedWin p (vecWin (p.x (4 : BitVec 7).toNat)) = some win3) (.arrCmp 4 8 12) armed ∧
    Met (fun p => vecBad (p.x (4 : BitVec 7).toNat) = false ∧ vecFn (p.x (4 : BitVec 7).toNat) < 6 ∧ ArrSource (p.x (4 : BitVec 7).toNat) (p.x (8 : BitVec 7).toNat) ∧ ArrSource (p.x (4 : BitVec 7).toNat) (p.x (12 : BitVec 7).toNat) ∧ armedWin p (vecWin (p.x (4 : BitVec 7).toNat)) = none) (.arrCmp 4 8 12) user ∧
    Met (fun p => vecBad (p.x (4 : BitVec 7).toNat) = false ∧ vecFn (p.x (4 : BitVec 7).toNat) = 0 ∧ ArrSource (p.x (4 : BitVec 7).toNat) (p.x (8 : BitVec 7).toNat) ∧ ArrSource (p.x (4 : BitVec 7).toNat) (p.x (12 : BitVec 7).toNat) ∧ armedWin p (vecWin (p.x (4 : BitVec 7).toNat)) = some win3) (.arrSel 4 8 12) armed ∧
    Met (fun p => vecBad (p.x (4 : BitVec 7).toNat) = false ∧ vecFn (p.x (4 : BitVec 7).toNat) = 0 ∧ ArrSource (p.x (4 : BitVec 7).toNat) (p.x (8 : BitVec 7).toNat) ∧ ArrSource (p.x (4 : BitVec 7).toNat) (p.x (12 : BitVec 7).toNat) ∧ armedWin p (vecWin (p.x (4 : BitVec 7).toNat)) = none) (.arrSel 4 8 12) user ∧
    Met (fun p => vecBad (p.x (4 : BitVec 7).toNat) = false ∧ vecFn (p.x (4 : BitVec 7).toNat) < 2 ∧ ArrSource (p.x (4 : BitVec 7).toNat) (p.x (8 : BitVec 7).toNat) ∧ ArrSource (p.x (4 : BitVec 7).toNat) (p.x (12 : BitVec 7).toNat) ∧ armedWin p (vecWin (p.x (4 : BitVec 7).toNat)) = some win3) (.arrShift 4 8 12) armed ∧
    Met (fun p => vecBad (p.x (4 : BitVec 7).toNat) = false ∧ vecFn (p.x (4 : BitVec 7).toNat) < 2 ∧ ArrSource (p.x (4 : BitVec 7).toNat) (p.x (8 : BitVec 7).toNat) ∧ ArrSource (p.x (4 : BitVec 7).toNat) (p.x (12 : BitVec 7).toNat) ∧ armedWin p (vecWin (p.x (4 : BitVec 7).toNat)) = none) (.arrShift 4 8 12) user ∧
    Met (fun p => vecBad (p.x (4 : BitVec 7).toNat) = false ∧ vecFn (p.x (4 : BitVec 7).toNat) = 0 ∧ ArrSource (p.x (4 : BitVec 7).toNat) (p.x (8 : BitVec 7).toNat) ∧ armedWin p (vecWin (p.x (4 : BitVec 7).toNat)) = some win3) (.arrPopc 4 8) armed ∧
    Met (fun p => vecBad (p.x (4 : BitVec 7).toNat) = false ∧ vecFn (p.x (4 : BitVec 7).toNat) = 0 ∧ armedWin p (vecWin (p.x (4 : BitVec 7).toNat)) = some win3) (.arrBcast 4) armed ∧
    Met (fun p => vecBad (p.x (4 : BitVec 7).toNat) = false ∧ vecFn (p.x (4 : BitVec 7).toNat) = 0 ∧ ArrSource (p.x (4 : BitVec 7).toNat) (p.x (8 : BitVec 7).toNat) ∧ armedWin p (vecWin (p.x (4 : BitVec 7).toNat)) = none) (.arrPopc 4 8) user ∧
    Met (fun p => vecBad (p.x (4 : BitVec 7).toNat) = false ∧ vecFn (p.x (4 : BitVec 7).toNat) = 0 ∧ armedWin p (vecWin (p.x (4 : BitVec 7).toNat)) = none) (.arrBcast 4) user :=
  ⟨met (by decide +kernel) (by delta State.inGlobal; decide +kernel),
   met (by decide +kernel) (by decide +kernel),
   met (by decide +kernel) (by decide +kernel),
   met (by decide +kernel) (by delta State.inGlobal; decide +kernel),
   met (by decide +kernel) (by delta State.inGlobal; decide +kernel),
   met (by decide +kernel) (by decide +kernel),
   met (by decide +kernel) (by decide +kernel),
   met (by decide +kernel) (by decide +kernel),
   met (by decide +kernel) (by decide +kernel),
   met (by decide +kernel) (by delta ArrSource; decide +kernel),
   met (by decide +kernel) (by delta ArrSource; decide +kernel),
   met (by decide +kernel) (by delta ArrSource; decide +kernel),
   met (by decide +kernel) (by delta ArrSource; decide +kernel),
   met (by decide +kernel) (by delta ArrSource; decide +kernel),
   met (by decide +kernel) (by delta ArrSource; decide +kernel),
   met (by decide +kernel) (by delta ArrSource; decide +kernel),
   met (by decide +kernel) (by delta ArrSource; decide +kernel),
   met (by decide +kernel) (by delta ArrSource; decide +kernel),
   met (by decide +kernel) (by delta ArrSource; decide +kernel),
   met (by decide +kernel) (by delta ArrSource; decide +kernel),
   met (by decide +kernel) (by delta ArrSource; decide +kernel),
   met (by decide +kernel) (by delta ArrSource; decide +kernel),
   met (by decide +kernel) (by decide +kernel),
   met (by decide +kernel) (by delta ArrSource; decide +kernel),
   met (by decide +kernel) (by decide +kernel)⟩

/-- States that meet the hypotheses of conjuncts of BranchInstructions. -/
theorem witness_BranchInstructions :
    Met (fun p => p.sq.cur.active = 0 ∨ (branchTarget p (8388607 : BitVec 24)).toNat < addressTop p) (.bra 8388607) user ∧
    Met (fun p => p.sq.cur.active = 0 ∨ (branchTarget p (16777215 : BitVec 24)).toNat < addressTop p) (.call 16777215) user ∧
    Met (fun p => p.sq.cur.active &&& p.source (1 : BitVec 3) (1 : BitVec 1) = 0 ∨ (branchTarget p (1 : BitVec 20)).toNat < addressTop p) (.brp 1 1 1) user ∧
    Met (fun p => p.x (5 : BitVec 6).toNat ≠ 0 ∨ (branchTarget p (1 : BitVec 18)).toNat < addressTop p) (.bsz 5 1) user ∧
    Met (fun p => p.x (5 : BitVec 6).toNat = 0 ∨ (branchTarget p (1 : BitVec 18)).toNat < addressTop p) (.bsnz 5 1) user ∧
    Met (fun p => ∀ l ∈ laneList p.sq.cur.active, (returnTarget p l).getLsbD 0 = false) .ret user ∧
    Met (fun p => p.sq.cur.active ≠ 0 ∧ addressTop p ≤ (branchTarget p (8388608 : BitVec 24)).toNat) (.bra 8388608) user ∧
    Met (fun p => p.sq.cur.active ≠ 0 ∧ addressTop p ≤ (branchTarget p (8388608 : BitVec 24)).toNat) (.call 8388608) user ∧
    Met (fun p => p.sq.cur.active &&& p.source (0 : BitVec 3) (0 : BitVec 1) ≠ 0 ∧ addressTop p ≤ (branchTarget p (524288 : BitVec 20)).toNat) (.brp 0 0 524288) user ∧
    Met (fun p => p.sq.cur.active ≠ 0 ∧ p.x (5 : BitVec 6).toNat = 0 ∧ addressTop p ≤ (branchTarget p (131072 : BitVec 18)).toNat) (.bsz 5 131072) user ∧
    Met (fun p => p.sq.cur.active ≠ 0 ∧ p.x (5 : BitVec 6).toNat ≠ 0 ∧ addressTop p ≤ (branchTarget p (131072 : BitVec 18)).toNat) (.bsnz 5 131072) (user.setX 5 1) ∧
    Met (fun p => (laneList p.sq.cur.active).filter (fun k => (returnTarget p k).getLsbD 0) = 0 :: (List.range' 1 31)) .ret (user.setV 126 allLanes fun _ => 1) ∧
    Met (fun p => ∃ u tg, TableFound p 8 6 u tg) (.brx 8 6) tabled ∧
    Met (fun p => ∃ u tg, TableFound p 8 6 u tg) (.callx 8 6) tabled :=
  ⟨met (by decide +kernel) (by decide +kernel),
   met (by decide +kernel) (by decide +kernel),
   met (by decide +kernel) (by decide +kernel),
   met (by decide +kernel) (by decide +kernel),
   met (by decide +kernel) (by decide +kernel),
   met (by decide +kernel) (by decide +kernel),
   met (by decide +kernel) (by decide +kernel),
   met (by decide +kernel) (by decide +kernel),
   met (by decide +kernel) (by decide +kernel),
   met (by decide +kernel) (by decide +kernel),
   met (by decide +kernel) (by decide +kernel),
   met (by decide +kernel) (by decide +kernel),
   met (by decide +kernel) (tableFound_of [1, 0, 0, 0] (by decide +kernel) (by decide +kernel) (by decide +kernel) (by decide +kernel) (by decide +kernel)),
   met (by decide +kernel) (tableFound_of [1, 0, 0, 0] (by decide +kernel) (by decide +kernel) (by decide +kernel) (by decide +kernel) (by decide +kernel))⟩

/-- States that meet the hypotheses of conjuncts of ControlInstructions. -/
theorem witness_ControlInstructions_waits :
    Met (fun p => Below p (waitTo (30 : BitVec 5) (31 : BitVec 5) (1 : BitVec 5) (6 : BitVec 5) (0 : BitVec 4)) ∧ NoError p (waitTo (30 : BitVec 5) (31 : BitVec 5) (1 : BitVec 5) (6 : BitVec 5) (0 : BitVec 4)) ∧ waitsOn (waitTo (30 : BitVec 5) (31 : BitVec 5) (1 : BitVec 5) (6 : BitVec 5) (0 : BitVec 4)) .st = none) (.wait 30 31 1 6 0) user ∧
    Met (fun p => Below p (waitTo (1 : BitVec 5) (0 : BitVec 5) (1 : BitVec 5) (6 : BitVec 5) (0 : BitVec 4)) ∧ waitsOn (waitTo (1 : BitVec 5) (0 : BitVec 5) (1 : BitVec 5) (6 : BitVec 5) (0 : BitVec 4)) .st ≠ none ∧ (deferredFaults (retried p)).2 = false ∧ NoError (deferredFaults (retried p)).1 (waitTo (1 : BitVec 5) (0 : BitVec 5) (1 : BitVec 5) (6 : BitVec 5) (0 : BitVec 4))) (.wait 1 0 1 6 0) user ∧
    Met (fun p => ∃ o n, waitsOn (waitTo (0 : BitVec 5) (1 : BitVec 5) (1 : BitVec 5) (6 : BitVec 5) (0 : BitVec 4)) o = some n ∧ n < p.sq.count o) (.wait 0 1 1 6 0) loading1 ∧
    Met (fun p => Below p (wait0To (1 : BitVec 5)) ∧ NoError p (wait0To (1 : BitVec 5)) ∧ waitsOn (wait0To (1 : BitVec 5)) .st = none) (.wait0 1) user ∧
    Met (fun p => Below p (wait0To (2 : BitVec 5)) ∧ waitsOn (wait0To (2 : BitVec 5)) .st ≠ none ∧ (deferredFaults (retried p)).2 = false ∧ NoError (deferredFaults (retried p)).1 (wait0To (2 : BitVec 5))) (.wait0 2) user ∧
    Met (fun p => ∃ o n, waitsOn (wait0To (1 : BitVec 5)) o = some n ∧ n < p.sq.count o) (.wait0 1) loading1 :=
  ⟨met (by decide +kernel) (⟨below_of (by decide +kernel), by delta NoError; decide +kernel, by decide +kernel⟩),
   met (by decide +kernel) (⟨below_of (by decide +kernel), by decide +kernel, by decide +kernel, by delta NoError; decide +kernel⟩),
   met (by decide +kernel) (⟨.ld, 0, by decide +kernel, by decide +kernel⟩),
   met (by decide +kernel) (⟨below_of (by decide +kernel), by delta NoError; decide +kernel, by decide +kernel⟩),
   met (by decide +kernel) (⟨below_of (by decide +kernel), by decide +kernel, by decide +kernel, by delta NoError; decide +kernel⟩),
   met (by decide +kernel) (⟨.ld, 0, by decide +kernel, by decide +kernel⟩)⟩

/-- States that meet the hypotheses of conjuncts of TrapInstructions. -/
theorem witness_TrapInstructions :
    Met (fun p => inHandler p.sq = false ∧ trapEntry p = some 0x1800) (.trap 8) user ∧
    Met (fun p => inHandler p.sq = false ∧ trapEntry p = some 0x1800) (.brk 1) user ∧
    Met (fun p => p.sq.cur.active &&& ~~~p.sq.thr.handlerMark = 0) .rett handling ∧
    Met (fun p => p.sq.cur.active &&& ~~~p.sq.thr.handlerMark ≠ 0) .rett user ∧
    Met (fun p => p.sq.cur.active &&& ~~~p.sq.thr.sysMark = 0) .sret sysHandling ∧
    Met (fun p => p.sq.cur.active &&& ~~~p.sq.thr.sysMark ≠ 0) .sret system :=
  ⟨met (by decide +kernel) (by decide +kernel),
   met (by decide +kernel) (by decide +kernel),
   met (by decide +kernel) (by decide +kernel),
   met (by decide +kernel) (by decide +kernel),
   met (by decide +kernel) (by decide +kernel),
   met (by decide +kernel) (by decide +kernel)⟩

/-- The span queue in memory is found. -/
theorem span_found (t : Nat) (h : t = 0 ∨ t = 1 ∨ t = 2) :
    SpanFound (begun (spanned t)) 0x8000 (fetched (begun (spanned t)) 0x8000 64 needRW 0x8000) (spanDesc 0x8000 0x8000 (spanBytes t)) := by
  have one : ∀ t : Fin 3, SpanFound (begun (spanned t)) 0x8000 (fetched (begun (spanned t)) 0x8000 64 needRW 0x8000)
      (spanDesc 0x8000 0x8000 (spanBytes t)) := fun t =>
    ⟨homed (begun (spanned t)) 0x8000 64 needRW, 0x8000, spanBytes t,
     homes _ (by revert t; decide +kernel) (by revert t; decide +kernel) (by revert t; decide +kernel) (by revert t; decide +kernel), by decide +kernel,
     fetched_of (by revert t; decide +kernel), rfl, by revert t; decide +kernel, by revert t; decide +kernel⟩
  rcases h with rfl | rfl | rfl
  · exact one 0
  · exact one 1
  · exact one 2

/-- The queue as found, and the entries that it may take or give. -/
def spanNow (t : Nat) : State := fetched (begun (spanned t)) 0x8000 64 needRW 0x8000
def spanQ (t : Nat) : SpanDesc := spanDesc 0x8000 0x8000 (spanBytes t)

theorem span_pushed : ∃ r, SpanPushed (spanNow 1) (spanQ 1) 0 r :=
  ⟨_, by decide +kernel, homed (releaseAction (spanNow 1) (spanNow 1).sq.ident.core 2) 0x9010 16 needRW, 0x9010, _,
   homes _ (by decide +kernel) (by decide +kernel) (by decide +kernel) (by decide +kernel), Prod.ext rfl (by decide +kernel), Prod.ext rfl (by decide +kernel)⟩

theorem span_popped : ∃ r, SpanPopped (spanNow 1) (spanQ 1) 4 r :=
  ⟨_, homed (spanNow 1) 0x9000 16 needRW, 0x9000, _, List.replicate 16 0, _,
   homes _ (by decide +kernel) (by decide +kernel) (by decide +kernel) (by decide +kernel), Prod.ext rfl (by decide +kernel),
   Prod.ext rfl (by decide +kernel), rfl⟩

/-- States that meet the hypotheses about span queues: one entry of two, empty, and full. -/
theorem witness_QueuesAndSemaphores_span :
    (∃ u e r, Issues (.qpushSpan 4 8) (spanned 1) ∧ SpanFound (begun (spanned 1)) ((begun (spanned 1)).num 8) u e ∧
      maySpan u e true (begun (spanned 1)).serial = true ∧ SpanPushed u e (u.x 4) r) ∧
    (∃ u e r, Issues (.qpopSpan 4 8) (spanned 1) ∧ SpanFound (begun (spanned 1)) ((begun (spanned 1)).num 8) u e ∧
      maySpan u e false (begun (spanned 1)).serial = true ∧ SpanPopped u e 4 r) ∧
    (∃ u e r, Issues (.qpushSpanTry 4 8 12) (spanned 1) ∧ SpanFound (begun (spanned 1)) ((begun (spanned 1)).num 8) u e ∧
      maySpan u e true u.serial = true ∧ SpanPushed u e (u.x 4) r) ∧
    (∃ u e, Issues (.qpushSpanTry 4 8 12) (spanned 2) ∧ SpanFound (begun (spanned 2)) ((begun (spanned 2)).num 8) u e ∧
      maySpan u e true u.serial = false) ∧
    (∃ u e r, Issues (.qpopSpanTry 4 8 12) (spanned 1) ∧ SpanFound (begun (spanned 1)) ((begun (spanned 1)).num 8) u e ∧
      maySpan u e false u.serial = true ∧ SpanPopped u e 4 r) ∧
    (∃ u e, Issues (.qpopSpanTry 4 8 12) (spanned 0) ∧ SpanFound (begun (spanned 0)) ((begun (spanned 0)).num 8) u e ∧
      maySpan u e false u.serial = false) ∧
    (∃ u e, Issues (.qpushSpan 4 8) (spanned 2) ∧ SpanFound (begun (spanned 2)) ((begun (spanned 2)).num 8) u e ∧
      maySpan u e true (begun (spanned 2)).serial = false) ∧
    (∃ u e, Issues (.qpopSpan 4 8) (spanned 0) ∧ SpanFound (begun (spanned 0)) ((begun (spanned 0)).num 8) u e ∧
      maySpan u e false (begun (spanned 0)).serial = false) := by
  have n0 : (begun (spanned 0)).num 8 = 0x8000 := by decide +kernel
  have n1 : (begun (spanned 1)).num 8 = 0x8000 := by decide +kernel
  have n2 : (begun (spanned 2)).num 8 = 0x8000 := by decide +kernel
  have x1 : (spanNow 1).x 4 = 0 := by decide +kernel
  rw [n0, n1, n2]
  obtain ⟨p, hp⟩ := span_pushed
  obtain ⟨r, hr⟩ := span_popped
  exact ⟨⟨spanNow 1, spanQ 1, p, issues_iff (by decide +kernel), span_found 1 (by decide), by decide +kernel, x1 ▸ hp⟩,
    ⟨spanNow 1, spanQ 1, r, issues_iff (by decide +kernel), span_found 1 (by decide), by decide +kernel, hr⟩,
    ⟨spanNow 1, spanQ 1, p, issues_iff (by decide +kernel), span_found 1 (by decide), by decide +kernel, x1 ▸ hp⟩,
    ⟨spanNow 2, spanQ 2, issues_iff (by decide +kernel), span_found 2 (by decide), by decide +kernel⟩,
    ⟨spanNow 1, spanQ 1, r, issues_iff (by decide +kernel), span_found 1 (by decide), by decide +kernel, hr⟩,
    ⟨spanNow 0, spanQ 0, issues_iff (by decide +kernel), span_found 0 (by decide), by decide +kernel⟩,
    ⟨spanNow 2, spanQ 2, issues_iff (by decide +kernel), span_found 2 (by decide), by decide +kernel⟩,
    ⟨spanNow 0, spanQ 0, issues_iff (by decide +kernel), span_found 0 (by decide), by decide +kernel⟩⟩

/-- A semaphore of value 5 is found, for a read and for an update. -/
theorem sem_found (need : Need) (h : need = needRW ∨ need = needR) :
    SemFound (begun semed) 0x8000 need (fetched (begun semed) 0x8000 16 need 0x8000) 0x8000 5 5 := by
  rcases h with rfl | rfl <;>
  exact ⟨homed (begun semed) 0x8000 16 _, leBytes 8 5 ++ leBytes 8 5, homes _ (by decide +kernel) (by decide +kernel) (by decide +kernel) (by decide +kernel),
    by decide +kernel, fetched_of (by decide +kernel), by decide +kernel, by decide, by decide, by decide +kernel⟩

/-- The same with 9 in s4, which a wait then waits for. -/
def semed9 : State := semed.setX 4 9
theorem sem_found9 : SemFound (begun semed9) 0x8000 needRW (fetched (begun semed9) 0x8000 16 needRW 0x8000) 0x8000 5 5 :=
  ⟨homed (begun semed9) 0x8000 16 _, leBytes 8 5 ++ leBytes 8 5, homes _ (by decide +kernel) (by decide +kernel) (by decide +kernel) (by decide +kernel),
    by decide +kernel, fetched_of (by decide +kernel), by decide +kernel, by decide, by decide, by decide +kernel⟩

/-- States that meet the hypotheses about semaphores. -/
theorem witness_QueuesAndSemaphores_sem :
    (∃ u key v scope r, Issues (.semAdd 4 8) semed ∧ SemFound (begun semed) ((begun semed).num 8) needRW u key v scope ∧
      releaseWaits u u.sq.ident.core scope = false ∧ homeWrite (releaseAction u u.sq.ident.core scope) (releaseAction u u.sq.ident.core scope).sq.ident.ctx key
        (leBytes 8 (v + u.num 4)) = (r, false)) ∧
    (∃ u key v scope, Issues (.semWait 4 8 12) semed ∧ SemFound (begun semed) ((begun semed).num 8) needRW u key v scope ∧
      u.num 4 ≤ v) ∧
    (∃ u key v scope, Issues (.semRead 8 12) semed ∧ SemFound (begun semed) ((begun semed).num 8) needR u key v scope) ∧
    (∃ u key v scope, Issues (.semWait 4 8 12) semed9 ∧ SemFound (begun semed9) ((begun semed9).num 8) needRW u key v scope ∧
      v < u.num 4) := by
  have n : (begun semed).num 8 = 0x8000 := by decide +kernel
  have n9 : (begun semed9).num 8 = 0x8000 := by decide +kernel
  rw [n, n9]
  exact ⟨⟨_, _, _, _, _, issues_iff (by decide +kernel), sem_found needRW (.inl rfl), by decide +kernel, Prod.ext rfl (by decide +kernel)⟩,
    ⟨_, _, _, _, issues_iff (by decide +kernel), sem_found needRW (.inl rfl), by decide +kernel⟩,
    ⟨_, _, _, _, issues_iff (by decide +kernel), sem_found needR (.inr rfl)⟩,
    ⟨_, _, _, _, issues_iff (by decide +kernel), sem_found9, by decide +kernel⟩⟩

/-- States that meet the hypotheses of conjuncts of SystemRegisterAndTlbInstructions. -/
theorem witness_SystemRegisterAndTlbInstructions :
    Met (fun _ => squadHeld (6 : BitVec 7).toNat = true) (.mfsr 4 6) mc ∧
    Met (fun p => squadHeld (7 : BitVec 7).toNat = false ∧ FencePasses p) (.mfsr 4 7) mc ∧
    Met (fun _ => squadHeld (64 : BitVec 7).toNat = true) (.mtsr 64 8) mc ∧
    Met (fun p => squadHeld (67 : BitVec 7).toNat = false ∧ FencePasses p) (.mtsr 67 8) mc ∧
    Met (fun p => p.x (8 : BitVec 7).toNat = 0 ∧ FencePasses p ∧ translating (sysFenced p) .all = false) (.tlbinvAll 8) mc ∧
    Met (fun p => p.num (8 : BitVec 7).toNat < 64 ∧ FencePasses p ∧ translating (sysFenced p) (.ctx (p.num (8 : BitVec 7).toNat)) = false) (.tlbinvCtx 8) (mc.setX 8 63) ∧
    Met (fun p => field (p.x (8 : BitVec 7).toNat) 6 10 = 0 ∧ p.num (8 : BitVec 7).toNat < 36028797018963968 ∧ FencePasses p ∧ translating (sysFenced p) (.page (p.num (8 : BitVec 7).toNat % 64) (p.num (8 : BitVec 7).toNat / 65536 * 65536)) = false) (.tlbinvPage 8) (mc.setX 8 0x7FFFFFFFFF003F) :=
  ⟨met (by decide +kernel) (by decide +kernel),
   met (by decide +kernel) (by delta FencePasses; decide +kernel),
   met (by decide +kernel) (by decide +kernel),
   met (by decide +kernel) (by delta FencePasses; decide +kernel),
   met (by decide +kernel) (by delta FencePasses; decide +kernel),
   met (by decide +kernel) (by delta FencePasses; decide +kernel),
   met (by decide +kernel) (by delta FencePasses; decide +kernel)⟩

/-- States that meet the hypotheses of conjuncts of CacheAndMemoryControl. -/
theorem witness_CacheAndMemoryControl :
    Met (fun p => ChopOk p (p.num (8 : BitVec 7).toNat) (p.num ((8 : BitVec 7).toNat + 1)) ∧ FencePasses p ∧ cleanWaits (sysFenced p) (p.num (8 : BitVec 7).toNat) (p.num ((8 : BitVec 7).toNat + 1)) = false) (.cchopWb 4 8) ((mc.setX 8 512).setX 9 0) ∧
    Met (fun p => ChopOk p (p.num (8 : BitVec 7).toNat) (p.num ((8 : BitVec 7).toNat + 1)) ∧ FencePasses p ∧ cleanWaits (sysFenced p) (p.num (8 : BitVec 7).toNat) (p.num ((8 : BitVec 7).toNat + 1)) = false) (.cchopWbinv 4 8) ((mc.setX 8 512).setX 9 512) ∧
    Met (fun p => ChopOk p (p.num (8 : BitVec 7).toNat) (p.num ((8 : BitVec 7).toNat + 1)) ∧ FencePasses p) (.cchopInv 4 8) ((mc.setX 8 512).setX 9 1024) ∧
    Met (fun p => ChopOk p (p.num (8 : BitVec 7).toNat) (p.num ((8 : BitVec 7).toNat + 1)) ∧ FencePasses p) (.cchopUnkeep 4 8) ((mc.setX 8 512).setX 9 0xFFFFFFFE00) ∧
    Met (fun p => p.num (8 : BitVec 7).toNat % 512 = 0 ∧ p.num (8 : BitVec 7).toNat < paSpace ∧ FencePasses p) (.errrd 4 8) (mc.setX 8 (BitVec.ofNat 64 (paSpace - 512))) ∧
    Met (fun p => p.num (8 : BitVec 7).toNat % 512 = 0 ∧ p.num (8 : BitVec 7).toNat < paSpace ∧ FencePasses p) (.mcctlMetard 4 8) (mc.setX 8 512) ∧
    Met (fun p => (p.num (8 : BitVec 7).toNat % 16 = 0 ∨ p.num (8 : BitVec 7).toNat % 16 = 15) ∧ p.num (8 : BitVec 7).toNat / 16 * 16 % 512 = 0 ∧ p.num (8 : BitVec 7).toNat < paSpace ∧ FencePasses p ∧ inWindow (sysFenced p) (p.num (8 : BitVec 7).toNat / 16 * 16) = true) (.mcctlMetawr 4 8) (windowed.setX 8 15) ∧
    Met (fun p => (p.num (8 : BitVec 7).toNat % 16 = 0 ∨ p.num (8 : BitVec 7).toNat % 16 = 15) ∧ p.num (8 : BitVec 7).toNat / 16 * 16 % 512 = 0 ∧ p.num (8 : BitVec 7).toNat < paSpace ∧ FencePasses p ∧ inWindow (sysFenced p) (p.num (8 : BitVec 7).toNat / 16 * 16) = false) (.mcctlMetawr 4 8) (mc.setX 8 527) ∧
    Met (fun p => p.num (8 : BitVec 7).toNat % 65536 = 0 ∧ p.num (8 : BitVec 7).toNat < paSpace ∧ FencePasses p) (.mcctlRetire 4 8) (mc.setX 8 65536) ∧
    Met FencePasses (.wayctlQuar 4) mc ∧
    Met FencePasses (.wayctlRelease 4) mc ∧
    Met FencePasses (.wayctlDiscard 4) mc :=
  ⟨met (by decide +kernel) (by delta FencePasses; delta ChopOk; decide +kernel),
   met (by decide +kernel) (by delta FencePasses; delta ChopOk; decide +kernel),
   met (by decide +kernel) (by delta FencePasses; delta ChopOk; decide +kernel),
   met (by decide +kernel) (by delta FencePasses; delta ChopOk; decide +kernel),
   met (by decide +kernel) (by delta FencePasses; decide +kernel),
   met (by decide +kernel) (by delta FencePasses; decide +kernel),
   met (by decide +kernel) (by delta FencePasses; decide +kernel),
   met (by decide +kernel) (by delta FencePasses; decide +kernel),
   met (by decide +kernel) (by delta FencePasses; decide +kernel),
   met (by decide +kernel) (by delta FencePasses; decide +kernel),
   met (by decide +kernel) (by delta FencePasses; decide +kernel),
   met (by decide +kernel) (by delta FencePasses; decide +kernel)⟩

/-- States that meet the hypotheses of conjuncts of LongSystemInstructions. -/
theorem witness_LongSystemInstructions :
    Met (fun p => myAnswer p = some (7 : DWord)) (.survey 4 8) answered ∧
    Met (fun p => myAnswer p = none ∧ (p.dev.surveyWait.any fun w => w.1 == p.sq.ident.id) = false ∧ FencePasses p) (.survey 4 8) mc ∧
    Met (fun p => p.num ((8 : BitVec 7).toNat + 1) % 4096 = 0 ∧ p.num ((8 : BitVec 7).toNat + 1) < paSpace ∧ myAnswer p = some (7 : DWord)) (.cxsave 4 8) answered ∧
    Met (fun p => p.num ((8 : BitVec 7).toNat + 1) % 4096 = 0 ∧ p.num ((8 : BitVec 7).toNat + 1) < paSpace ∧ myAnswer p = none ∧ moving p = false ∧ FencePasses p ∧ startSave (sysFenced p) (sysFenced p).sq.ident.id ((sysFenced p).x (8 : BitVec 7).toNat) (p.num ((8 : BitVec 7).toNat + 1)) (4 : BitVec 7).toNat = ((startSave (sysFenced (begun mc)) (sysFenced (begun mc)).sq.ident.id ((sysFenced (begun mc)).x (8 : BitVec 7).toNat) ((begun mc).num ((8 : BitVec 7).toNat + 1)) (4 : BitVec 7).toNat).1, some ((startSave (sysFenced (begun mc)) (sysFenced (begun mc)).sq.ident.id ((sysFenced (begun mc)).x (8 : BitVec 7).toNat) ((begun mc).num ((8 : BitVec 7).toNat + 1)) (4 : BitVec 7).toNat).2.getD 99))) (.cxsave 4 8) mc ∧
    Met (fun p => p.num ((8 : BitVec 7).toNat + 1) % 4096 = 0 ∧ p.num ((8 : BitVec 7).toNat + 1) < paSpace ∧ myAnswer p = none ∧ moving p = false ∧ FencePasses p ∧ startSave (sysFenced p) (sysFenced p).sq.ident.id ((sysFenced p).x (8 : BitVec 7).toNat) (p.num ((8 : BitVec 7).toNat + 1)) (4 : BitVec 7).toNat = ((startSave (sysFenced (begun saving)) (sysFenced (begun saving)).sq.ident.id ((sysFenced (begun saving)).x (8 : BitVec 7).toNat) ((begun saving).num ((8 : BitVec 7).toNat + 1)) (4 : BitVec 7).toNat).1, none)) (.cxsave 4 8) saving ∧
    Met (fun p => p.num (8 : BitVec 7).toNat < paSpace ∧ myAnswer p = some (7 : DWord)) (.cxrest 4 8) answered ∧
    Met (fun p => p.num (8 : BitVec 7).toNat < paSpace ∧ myAnswer p = none ∧ moving p = false ∧ FencePasses p ∧ deviceWaits (sysFenced p) true 0 (p.num (8 : BitVec 7).toNat) 72 needR = false ∧ startRest (sysFenced p) (sysFenced p).sq.ident.id (p.num (8 : BitVec 7).toNat) ((sysFenced p).x ((8 : BitVec 7).toNat + 1)) (4 : BitVec 7).toNat = ((startRest (sysFenced (begun mc)) (sysFenced (begun mc)).sq.ident.id ((begun mc).num (8 : BitVec 7).toNat) ((sysFenced (begun mc)).x ((8 : BitVec 7).toNat + 1)) (4 : BitVec 7).toNat).1, some ((startRest (sysFenced (begun mc)) (sysFenced (begun mc)).sq.ident.id ((begun mc).num (8 : BitVec 7).toNat) ((sysFenced (begun mc)).x ((8 : BitVec 7).toNat + 1)) (4 : BitVec 7).toNat).2.getD 99))) (.cxrest 4 8) mc ∧
    Met (fun p => p.num (8 : BitVec 7).toNat < paSpace ∧ myAnswer p = none ∧ moving p = false ∧ FencePasses p ∧ deviceWaits (sysFenced p) true 0 (p.num (8 : BitVec 7).toNat) 72 needR = false ∧ startRest (sysFenced p) (sysFenced p).sq.ident.id (p.num (8 : BitVec 7).toNat) ((sysFenced p).x ((8 : BitVec 7).toNat + 1)) (4 : BitVec 7).toNat = ((startRest (sysFenced (begun resting)) (sysFenced (begun resting)).sq.ident.id ((begun resting).num (8 : BitVec 7).toNat) ((sysFenced (begun resting)).x ((8 : BitVec 7).toNat + 1)) (4 : BitVec 7).toNat).1, none)) (.cxrest 4 8) resting ∧
    Met (fun p => p.sq.ident.core = Config.mcCore ∧ p.num (8 : BitVec 7).toNat ≠ 0 ∧ p.num (8 : BitVec 7).toNat % 65536 = 0 ∧ p.num (8 : BitVec 7).toNat < 8388608 ∧ FencePasses p ∧ (sysFenced p).dev.evpend &&& BitVec.ofNat 7 ((sysFenced p).num (8 : BitVec 7).toNat / 65536) ≠ 0) (.halt 8) pending :=
  ⟨met (by decide +kernel) (by decide +kernel),
   met (by decide +kernel) (by delta FencePasses; decide +kernel),
   met (by decide +kernel) (by decide +kernel),
   met (by decide +kernel) (⟨by decide +kernel, by decide +kernel, by decide +kernel, by decide +kernel, by delta FencePasses; decide +kernel, Prod.ext rfl (by decide +kernel)⟩),
   met (by decide +kernel) (⟨by decide +kernel, by decide +kernel, by decide +kernel, by decide +kernel, by delta FencePasses; decide +kernel, Prod.ext rfl (by decide +kernel)⟩),
   met (by decide +kernel) (by decide +kernel),
   met (by decide +kernel) (⟨by decide +kernel, by decide +kernel, by decide +kernel, by delta FencePasses; decide +kernel, by decide +kernel, Prod.ext rfl (by decide +kernel)⟩),
   met (by decide +kernel) (⟨by decide +kernel, by decide +kernel, by decide +kernel, by delta FencePasses; decide +kernel, by decide +kernel, Prod.ext rfl (by decide +kernel)⟩),
   met (by decide +kernel) (by delta FencePasses; decide +kernel)⟩

/-- States that meet the hypotheses of conjuncts of LinkControlInstructions. -/
theorem witness_LinkControlInstructions :
    Met (fun p => selLink p.sq = some 0 ∧ p.x (8 : BitVec 7).toNat = 0 ∧ FencePasses p) (.lnkctlPause 4 8) mc ∧
    Met (fun p => selLink p.sq = some 87 ∧ p.x (8 : BitVec 7).toNat = 0 ∧ FencePasses p ∧ ((sysFenced p).link 87).paused = true) (.lnkctlResume 4 8) pausedLink ∧
    Met (fun p => selLink p.sq = some 0 ∧ p.x (8 : BitVec 7).toNat = 0 ∧ FencePasses p ∧ ((sysFenced p).link 0).paused = false) (.lnkctlResume 4 8) mc ∧
    Met (fun p => selLink p.sq = some 0 ∧ p.num (8 : BitVec 7).toNat < 512 ∧ FencePasses p) (.lnkctlSpare 4 8) (mc.setX 8 511) ∧
    Met (fun p => selLink p.sq = some 0 ∧ field (p.x (8 : BitVec 7).toNat) 5 3 = 0 ∧ p.num (8 : BitVec 7).toNat < 1024 ∧ field (p.x (8 : BitVec 7).toNat) 8 2 ≠ 3 ∧ FencePasses p ∧ (vget ((sysFenced p).link 0).groups (field (p.x (8 : BitVec 7).toNat) 0 5)).train = none ∧ ((sysFenced p).link 0).paused = false) (.lnkctlWidth 4 8) (mc.setX 8 543) ∧
    Met (fun p => selLink p.sq = some 87 ∧ field (p.x (8 : BitVec 7).toNat) 5 3 = 0 ∧ p.num (8 : BitVec 7).toNat < 1024 ∧ field (p.x (8 : BitVec 7).toNat) 8 2 ≠ 3 ∧ FencePasses p ∧ (vget ((sysFenced p).link 87).groups (field (p.x (8 : BitVec 7).toNat) 0 5)).train = some (sysFenced p).sq.ident.id) (.lnkctlWidth 4 8) trainingLink ∧
    Met (fun p => selLink p.sq = some 87 ∧ field (p.x (8 : BitVec 7).toNat) 5 3 = 0 ∧ p.num (8 : BitVec 7).toNat < 1024 ∧ field (p.x (8 : BitVec 7).toNat) 8 2 ≠ 3 ∧ FencePasses p ∧ (vget ((sysFenced p).link 87).groups (field (p.x (8 : BitVec 7).toNat) 0 5)).train = none ∧ ((sysFenced p).link 87).paused = true) (.lnkctlWidth 4 8) pausedLink ∧
    Met (fun p => selLink p.sq = some 0 ∧ p.x (8 : BitVec 7).toNat = 0 ∧ FencePasses p) (.lnkctlClrretry 4 8) mc :=
  ⟨met (by decide +kernel) (by delta FencePasses; decide +kernel),
   met (by decide +kernel) (by delta FencePasses; decide +kernel),
   met (by decide +kernel) (by delta FencePasses; decide +kernel),
   met (by decide +kernel) (by delta FencePasses; decide +kernel),
   met (by decide +kernel) (by delta FencePasses; decide +kernel),
   met (by decide +kernel) (by delta FencePasses; decide +kernel),
   met (by decide +kernel) (by delta FencePasses; decide +kernel),
   met (by decide +kernel) (by delta FencePasses; decide +kernel)⟩

/-- States that meet the hypotheses of conjuncts of ResidenciesAndLaunch. -/
theorem witness_ResidenciesAndLaunch :
    Met (fun p => p.num (8 : BitVec 7).toNat % 32 = 0 ∧ p.num (8 : BitVec 7).toNat < paSpace ∧ FencePasses p ∧ linksOpen (sysFenced p) (sysFenced p).sq.ident.core (p.num (8 : BitVec 7).toNat) none = true ∧ homeRead (sysFenced p) (sysFenced p).sq.ident.ctx (p.num (8 : BitVec 7).toNat) 32 = ((homeRead (sysFenced (begun mc)) (sysFenced (begun mc)).sq.ident.ctx ((begun mc).num (8 : BitVec 7).toNat) 32).1, (List.replicate 32 0), false)) (.retainCreate 4 8) mc ∧
    Met (fun p => field (p.x (8 : BitVec 7).toNat) 6 10 = 0 ∧ p.num (8 : BitVec 7).toNat < 4294967296 ∧ FencePasses p) (.retainDestroy 4 8) (mc.setX 8 0xFFFF003F) ∧
    Met (fun p => field (p.x (8 : BitVec 7).toNat) 6 10 = 0 ∧ p.num (8 : BitVec 7).toNat < 4294967296 ∧ FencePasses p ∧ resid? (sysFenced p) (field (p.x (8 : BitVec 7).toNat) 0 6) (field (p.x (8 : BitVec 7).toNat) 16 16) = some resid1) (.retainQuery 4 8) resident ∧
    Met (fun p => field (p.x (8 : BitVec 7).toNat) 6 10 = 0 ∧ p.num (8 : BitVec 7).toNat < 4294967296 ∧ FencePasses p ∧ resid? (sysFenced p) (field (p.x (8 : BitVec 7).toNat) 0 6) (field (p.x (8 : BitVec 7).toNat) 16 16) = none) (.retainQuery 4 8) (mc.setX 8 0xFFFF003F) ∧
    Met (fun p => addressTop p ≤ p.num (8 : BitVec 7).toNat) (.launch 4 8) (mc.setX 8 (BitVec.ofNat 64 paSpace)) ∧
    Met (fun p => p.num (8 : BitVec 7).toNat < addressTop p ∧ p.num (8 : BitVec 7).toNat % 256 ≠ 0) (.launch 4 8) (mc.setX 8 255) :=
  ⟨met (by decide +kernel) (⟨by decide +kernel, by decide +kernel, by delta FencePasses; decide +kernel, by decide +kernel, Prod.ext rfl (by decide +kernel)⟩),
   met (by decide +kernel) (by delta FencePasses; decide +kernel),
   met (by decide +kernel) (by delta FencePasses; decide +kernel),
   met (by decide +kernel) (by delta FencePasses; decide +kernel),
   met (by decide +kernel) (by decide +kernel),
   met (by decide +kernel) (by decide +kernel)⟩

/-- The user squad in a partition that ends a context. -/
def userEnding : State := user.setPart 0 { user.part 0 with state := 3 }

/-- States that meet the hypotheses about `launch`: a record that passes, one that does not, and one that cannot be read. -/
theorem witness_ResidenciesAndLaunch_records :
    (Issues (.launch 4 8) launching ∧ unflushed (begun launching) (begun launching).sq.ident.core = false ∧ submitWaits (begun launching) (launcher (begun launching)) ((begun launching).num 8) = false ∧ (deviceRead (flushL1 (begun launching) (begun launching).sq.ident.core) (launcher (begun launching)).priv (launcher (begun launching)).ctx ((begun launching).num 8) 256).2 = .inl recBytes ∧
      (checkRecord (deviceRead (flushL1 (begun launching) (begun launching).sq.ident.core) (launcher (begun launching)).priv (launcher (begun launching)).ctx ((begun launching).num 8) 256).1 (launcher (begun launching)) (recordOf ((begun launching).num 8) recBytes) recBytes).2 = (0, [])) ∧
    (Issues (.launch 4 8) system ∧ unflushed (begun system) (begun system).sq.ident.core = false ∧ submitWaits (begun system) (launcher (begun system)) ((begun system).num 8) = false ∧ (deviceRead (flushL1 (begun system) (begun system).sq.ident.core) (launcher (begun system)).priv (launcher (begun system)).ctx ((begun system).num 8) 256).2 = .inl (List.replicate 256 0) ∧
      (checkRecord (deviceRead (flushL1 (begun system) (begun system).sq.ident.core) (launcher (begun system)).priv (launcher (begun system)).ctx ((begun system).num 8) 256).1 (launcher (begun system)) (recordOf ((begun system).num 8) (List.replicate 256 0)) (List.replicate 256 0)).2 = (1, [])) ∧
    (Issues (.launch 4 8) user ∧ unflushed (begun user) (begun user).sq.ident.core = false ∧ submitWaits (begun user) (launcher (begun user)) ((begun user).num 8) = false ∧ (deviceRead (flushL1 (begun user) (begun user).sq.ident.core) (launcher (begun user)).priv (launcher (begun user)).ctx ((begun user).num 8) 256).2 = .inr 0x45 ∧ ((deviceRead (flushL1 (begun user) (begun user).sq.ident.core) (launcher (begun user)).priv (launcher (begun user)).ctx ((begun user).num 8) 256).1.part (launcher (begun user)).part).state ≠ 3) ∧
    (Issues (.launch 4 8) userEnding ∧ unflushed (begun userEnding) (begun userEnding).sq.ident.core = false ∧ submitWaits (begun userEnding) (launcher (begun userEnding)) ((begun userEnding).num 8) = false ∧ (deviceRead (flushL1 (begun userEnding) (begun userEnding).sq.ident.core) (launcher (begun userEnding)).priv (launcher (begun userEnding)).ctx ((begun userEnding).num 8) 256).2 = .inr 0x45 ∧ ((deviceRead (flushL1 (begun userEnding) (begun userEnding).sq.ident.core) (launcher (begun userEnding)).priv (launcher (begun userEnding)).ctx ((begun userEnding).num 8) 256).1.part (launcher (begun userEnding)).part).state = 3 ∧
      (launcher (begun userEnding)).mcSquad = false) := by
  refine ⟨⟨issues_iff ?_, ?_, ?_, ?_, ?_⟩, ⟨issues_iff ?_, ?_, ?_, ?_, ?_⟩, ⟨issues_iff ?_, ?_, ?_, ?_, ?_⟩, issues_iff ?_, ?_, ?_, ?_, ?_, ?_⟩ <;> decide +kernel

/-! ### Device steps -/

/-- An event that squad 0 takes is pending. -/
def evented : State := { mc.onSq (fun q => { q with sys := { q.sys with evena := 1 } }) with dev := { mc.dev with evpend := 1 } }

/-- The user squad at the end of its quantum. -/
def tired : State := user.onSq fun q => { q with thr := { q.thr with quantum := Config.quantum } }

/-- The user squad blocked on generation 0 of barrier 3, which has completed. -/
def released : State :=
  { user.onSq (fun q => { q with thr := { q.thr with waits := [⟨allLanes, .bar false 3 0, 4, 5⟩] } }) with
    crews := [{ crew7 with bars := Vector.replicate 16 ⟨1, none, []⟩ }, crew8] }

/-- The same while generation 0 goes on. -/
def held3 : State := { released with crews := [crew7, crew8] }

/-- The user squad after its `exit`, and with an error. -/
def leaving_ : State := user.onSq fun q => { q with status := .exiting }
def failing : State := leaving_.onSq fun q => { q with errs := [(.ld, ⟨0x4D, 0, 0, 1, 0, 2⟩)] }

/-- A system squad waits for a page that a `tlbinv` has covered, and a user squad for one that another walk looks for. -/
def page1 : Awaited := ⟨0x10000, 1, true⟩
def covered : State := system.onSq fun q => { q with replay := some ⟨0, 0, [page1]⟩ }
def joining : State := { user.onSq (fun q => { q with replay := some ⟨1, 0, [page1]⟩ }) with walks := [⟨1, 1, 1, 0x44, 2, 0, 1000⟩] }

/-- Threads blocked on a full queue, whose operand s4 has a poison mark. -/
def wait3 : Wait := ⟨allLanes, .bar false 3 0, 4, 5⟩
def wait4 : Wait := ⟨allLanes, .qpush 1 4, 4, 5⟩
def wait6 : Wait := ⟨allLanes, .qpop 1 40, 4, 5⟩
def marked4 : State := user.onSq fun q => { q with thr := { q.thr with waits := [wait4] }, poisonS := [(4, 0x7000)] }

/-- Threads blocked on a pop into s40, which a copy that is outstanding has as its token. -/
def tokened : State := copying.onSq fun q => { q with thr := { q.thr with waits := [wait6] }, ops := q.ops.map fun o => { o with token := 40 } }

/-- The user squad with one operation outstanding. -/
def having (o : Op) : State := user.onSq fun q => { q with ops := [o] }
def waiting1 : Op := { load1 with page := some (0x10000, true) }

/-- States that meet the hypotheses about steps of a squad. -/
theorem witness_SquadSteps :
    ((evented.squads.find? fun q => q.isMc0) = some evented.sq ∧ evented.checkout evented.sq.ident.id = some evented ∧
      eventDue evented evented.sq = true ∧ eventGroup evented.sq.thr = some (allLanes, 0)) ∧
    (tired.checkout 11 = some tired ∧ Config.quantum ≤ tired.sq.thr.quantum) ∧
    (user.checkout 11 = some user ∧ user.sq.thr.quantum < Config.quantum) ∧
    (released.checkout 11 = some released ∧ BlockedAt released 5 wait3 ∧
      interlocked (resumed released wait3).sq ⟨[], [], wait3.what.reads, wait3.what.writes, true⟩ = false ∧
      checkPoison (resumed released wait3) ⟨[], [], wait3.what.reads, wait3.what.writes, true⟩ = none ∧
      barGen (resumed released wait3) false 3 ≠ 0 ∧ ∃ u, tryBlocked (resumed released wait3) 5 wait3.what = .done u) ∧
    (held3.checkout 11 = some held3 ∧ BlockedAt held3 5 wait3 ∧ barGen (resumed held3 wait3) false 3 = 0) ∧
    (marked4.checkout 11 = some marked4 ∧ BlockedAt marked4 5 wait4 ∧
      interlocked (resumed marked4 wait4).sq ⟨[], [], wait4.what.reads, wait4.what.writes, true⟩ = false ∧
      ∃ f, checkPoison (resumed marked4 wait4) ⟨[], [], wait4.what.reads, wait4.what.writes, true⟩ = some f) ∧
    (tokened.checkout 11 = some tokened ∧ BlockedAt tokened 5 wait6 ∧
      interlocked (resumed tokened wait6).sq ⟨[], [], wait6.what.reads, wait6.what.writes, true⟩ = true) ∧
    (leaving_.checkout 11 = some leaving_ ∧ inUnit leaving_ leaving_.sq = false ∧ endWaits leaving_ = false ∧ leaving_.sq.status = .exiting ∧
      leaving_.sq.ops = [] ∧ firstError leaving_.sq (fun _ => true) = none) ∧
    (failing.checkout 11 = some failing ∧ inUnit failing failing.sq = false ∧ endWaits failing = false ∧ failing.sq.status = .exiting ∧
      failing.sq.ops = [] ∧ firstError failing.sq (fun _ => true) = some (.ld, ⟨0x4D, 0, 0, 1, 0, 2⟩)) ∧
    (covered.checkout 11 = some covered ∧ covered.sq.replay = some ⟨0, 0, [page1]⟩ ∧ page1.seen = true ∧
      ∃ u key, resolve covered covered.sq.ident.priv covered.sq.ident.core covered.sq.ident.ctx page1.va needLeaf = (u, .inl key)) ∧
    (joining.checkout 11 = some joining ∧ joining.sq.replay = some ⟨1, 0, [page1]⟩ ∧
      ∃ u f, resolve joining joining.sq.ident.priv joining.sq.ident.core joining.sq.ident.ctx page1.va needLeaf = (u, .inr f) ∧
        (f.cause == 0x44 && f.joined) = true) ∧
    ((having waiting1).checkout 11 = some (having waiting1) ∧ findOp (having waiting1) 20 = some waiting1 ∧
      waiting1.page = some (0x10000, true)) ∧ user.sq.present = true := by
  refine ⟨⟨rfl, rfl, ?_, ?_⟩, ⟨rfl, ?_⟩, ⟨rfl, ?_⟩, ⟨rfl, ?_, ?_, ?_, ?_, _, rfl⟩, ⟨rfl, ?_, ?_⟩, ⟨rfl, ?_, ?_, Option.isSome_iff_exists.1 ?_⟩,
    ⟨rfl, ?_, ?_⟩, ⟨rfl, ?_, ?_, rfl, rfl, ?_⟩, ⟨rfl, ?_, ?_, rfl, rfl, ?_⟩, ⟨rfl, rfl, rfl, of_inl ?_⟩, ⟨rfl, rfl, of_inr ?_⟩, ⟨rfl, rfl, rfl⟩, rfl⟩
  all_goals first | decide +kernel | (delta BlockedAt; decide +kernel)

def store1 : Op := { load1 with cls := .st, act := .store .scratch [⟨0, 0, bankKey 160 0, 4, 7, 0, none⟩] }
def atomic1 : Op := { load1 with act := .atomic .scratch .add 40 false [⟨0, 0, bankKey 160 0, 4, 7, 0, none⟩] }
def copy1 : Op := { load1 with cls := .cp, act := .engine .cpyPin 4 0 0 0 0 (Vector.replicate 32 0) }
def marked1 : Op := { load1 with done := true, last := some (1, 0x8000) }

/-- States that meet the hypotheses about steps of an operation. -/
theorem witness_OperationSteps :
    ((having load1).checkout 11 = some (having load1) ∧ findOp (having load1) 20 = some load1 ∧ mayComplete (having load1) load1 = true) ∧
    ((having store1).checkout 11 = some (having store1) ∧ findOp (having store1) 20 = some store1 ∧ mayComplete (having store1) store1 = true) ∧
    ((having atomic1).checkout 11 = some (having atomic1) ∧ findOp (having atomic1) 20 = some atomic1 ∧
      mayComplete (having atomic1) atomic1 = true) ∧
    ((having copy1).checkout 11 = some (having copy1) ∧ findOp (having copy1) 20 = some copy1 ∧ mayRun (having copy1).sq copy1 = true) ∧
    ((having marked1).checkout 11 = some (having marked1) ∧ findOp (having marked1) 20 = some marked1 ∧ marked1.done = true ∧
      marked1.last.isSome = true) := by
  refine ⟨⟨rfl, rfl, ?_⟩, ⟨rfl, rfl, ?_⟩, ⟨rfl, rfl, ?_⟩, ⟨rfl, rfl, ?_⟩, rfl, rfl, rfl, rfl⟩ <;> decide +kernel

/-- The conditions of FrameOfCompletions and ScratchpadAccessesLand on the accesses of those operations. -/
theorem witness_FrameOfCompletions :
    Legible user ∧ Settled user ∧ ([⟨0, 0, bankKey 160 0, 4, 7, 0, none⟩] : List Access).filter (goneBank (having store1) .scratch) = [] ∧
    anyPoison (having atomic1) (bankKey 160 0) 4 = false ∧
    (∃ r, exec (.loadComplete 11 20) (having load1) = .next r) ∧ (∃ r, exec (.storeComplete 11 20) (having store1) = .next r) ∧
    ∃ r, exec (.atomicComplete 11 20) (having atomic1) = .next r :=
  ⟨⟨by simp [user, State.reset], by simp [user, State.reset], by simp [user, State.reset]⟩, by simp [Settled, user, State.reset], by decide +kernel, by decide +kernel, ⟨_, rfl⟩, ⟨_, rfl⟩, _, rfl⟩

/-- Queue 0 of a running partition has an entry that points at address 0. -/
def queueing : State := (running mc).setQueue 0 { (running mc).queue 0 with base := 0x8000, cfg := 0x80000010, w := 1, rd := 0 }

/-- A grid with a crew to place, and a timed grid past its budget. -/
def placing : State := running { mc with grids := [{ grid9 with toPlace := [(0, 1)] }] }
def grid9late : Grid := { grid9 with r := { rec9 with flags := 64, budget := 5 }, used := 6 }
def late : State := { mc with grids := [grid9late] }

/-- States that meet the hypotheses about scheduling. -/
theorem witness_SchedulingSteps :
    (QueueReady queueing 0 ∧ deviceWaits queueing true 0 0x8000 8 needR = false ∧
      submitWaits (deviceRead queueing true 0 0x8000 8).1 (queueSubmitter queueing 0) 0 = false ∧ (deviceRead queueing true 0 0x8000 8).2 = .inl (List.replicate 8 0) ∧
      (deviceRead (deviceRead queueing true 0 0x8000 8).1 true 0 0 256).2 = .inl (List.replicate 256 0)) ∧
    (placing.grid? 9 = some { grid9 with toPlace := [(0, 1)] } ∧ unitBefore placing { grid9 with toPlace := [(0, 1)] } = false ∧
      ∃ t, tryPlace placing { grid9 with toPlace := [(0, 1)] } 0 [127] = some t) ∧
    (late.grid? 9 = some grid9late ∧ grid9late.timed = true ∧ grid9late.demoted = false ∧ grid9late.r.budget < grid9late.used) := by
  refine ⟨⟨by delta QueueReady; decide +kernel, ?_, ?_, by decide +kernel, by decide +kernel⟩, ⟨rfl, ?_, Option.isSome_iff_exists.1 ?_⟩, rfl, ?_, rfl, ?_⟩ <;>
  decide +kernel

/-- Units in each phase. -/
def unitIn (p : UnitPhase) (c : UnitCause) : PreUnit := ⟨30, p, c, 0, 1, [7], [0], [], [], []⟩
def preempting (u : PreUnit) : State := running { mc with crews := [mcCrew, crew7], grids := [grid9], units := [u] }
def keeping : State := let s := preempting (unitIn .saving .distributor); s.setPart 0 { s.part 0 with keep := 0x800000000 }
def unitKept : PreUnit := { unit30 with cause := .distributor }
def kept : State := running { mc with grids := [grid9], units := [unitKept] }

/-- States that meet the hypotheses about pre-emption. -/
theorem witness_PreemptionSteps :
    unit? (preempting (unitIn .stopping .distributor)) 30 = some (unitIn .stopping .distributor) ∧
    (unit? (preempting (unitIn .draining .distributor)) 30 = some (unitIn .draining .distributor) ∧
      (squadsOf (preempting (unitIn .draining .distributor)) [7]).all drained = true) ∧
    (unit? keeping 30 = some (unitIn .saving .distributor) ∧ savingWaits keeping (unitIn .saving .distributor) = false ∧
      (writeImages ((coresWith keeping [7]).foldl flushL1 keeping) (unitIn .saving .distributor)).2 = none) ∧
    (unit? (preempting (unitIn .saving (.cxsave 0 4 0x8000))) 30 = some (unitIn .saving (.cxsave 0 4 0x8000)) ∧
      savingWaits (preempting (unitIn .saving (.cxsave 0 4 0x8000))) (unitIn .saving (.cxsave 0 4 0x8000)) = false ∧
      (writeImages ((coresWith (preempting (unitIn .saving (.cxsave 0 4 0x8000))) [7]).foldl flushL1 (preempting (unitIn .saving (.cxsave 0 4 0x8000)))) (unitIn .saving (.cxsave 0 4 0x8000))).2 = none) ∧
    (unit? kept 30 = some unitKept ∧ unitGrid kept unitKept = some grid9 ∧ grid9.r.pinned = false ∧ mayRestore kept unitKept = true ∧
      unitTurn kept unitKept = true ∧ (startRestoring kept unitKept [5] .distributor).isSome = true) ∧
    (unit? (preempting (unitIn .restoring .distributor)) 30 = some (unitIn .restoring .distributor) ∧
      (squadsOf (preempting (unitIn .restoring .distributor)) [7]).all (fun q => q.ops.isEmpty) = true) := by
  refine ⟨rfl, ⟨rfl, ?_⟩, ⟨rfl, ?_, ?_⟩, ⟨rfl, ?_, ?_⟩, ⟨rfl, rfl, ?_, ?_, ?_, ?_⟩, rfl, ?_⟩ <;> decide +kernel

/-- A partition with fields of its own. -/
def parted (p : Nat) (f : Partition → Partition) : State :=
  let s := { State.reset with sq := system.sq, dev := { State.reset.dev with ready0 := 0xFFFFFFFFFFFFFFFF } }
  s.setPart p (f (s.part p))

/-- A partition of which a command is the next, and one that waits for none. -/
def Commanded (s : State) (p : Nat) (c : Nat) (P : State → Prop) : Prop := nextCommand s p [c] = some (s.part p).cmds[0]! ∧ P (takeCommand s p)

/-- States that meet the hypotheses about partitions, the last partition among them. -/
theorem witness_PartitionSteps :
    Commanded (parted 7 fun x => { x with target := 0xF, cmds := [16] }) 7 1
      (fun s => (s.part 7).state = 0 ∧ (s.part 7).target ≠ 0 ∧ chipsTaken s 7 (s.part 7).target = false) ∧
    Commanded (parted 0 fun x => { x with state := 3, cmds := [16] }) 0 1 (fun s => (s.part 0).state ≠ 0) ∧
    (let s := parted 7 fun x => { x with phase := .starting, chips := 1 }
     (s.part 7).phase = .starting ∧ (s.part 7).chips &&& ~~~(s.dev.ready0.truncate 32) = 0 ∧ field s.dev.ready0 32 12 = 0xFFF) ∧
    Commanded (parted 7 fun x => { x with state := 1, chips := 3, target := 6, rcores := 4, cmds := [32] }) 7 2 (fun s => ResizePasses s 7) ∧
    Commanded (parted 7 fun x => { x with cmds := [32, 16] }) 7 2 (fun s => (s.part 7).state ≠ 1) ∧
    (let s := parted 7 fun x => { x with phase := .evacuate, chips := 3, aim := 1 }
     (s.part 7).phase = .evacuate ∧ onLeaving s 7 ((s.part 7).chips &&& ~~~(s.part 7).aim) = []) ∧
    (let s := parted 7 fun x => { x with phase := .release }; (s.part 7).phase = .release ∧ resuming s 7 = false) ∧
    Commanded (parted 7 fun x => { x with state := 1, cmds := [48] }) 7 3
      (fun s => (s.part 7).state = 1 ∧ (s.grids.any fun g => g.part == 7 && !g.mc) = false) ∧
    Commanded { (parted 0 fun x => { x with state := 1, cmds := [48] }) with grids := [grid9] } 0 3
      (fun s => (s.part 0).state = 1 ∧ (s.grids.any fun g => g.part == 0 && !g.mc) = true) ∧
    (let s := parted 7 fun x => { x with state := 1, cmds := [0x3F40] }
     nextCommand s 7 [4] = some 0x3F40 ∧ field (0x3F40 : DWord) 8 6 = 63 ∧ endWaitsFor s 7 63 = false ∧ (s.part 7).state = 1) ∧
    (let s := parted 7 fun x => { x with phase := .ending 63 }; (s.part 7).phase = .ending 63) ∧
    (let s := parted 7 fun x => { x with cmds := [112] }; nextCommand s 7 [5, 6, 7] = some 112) ∧
    (let s := parted 7 fun x => { x with chips := 3 }; BySystem s ∧ reserves (s.part 7) 0x08080000 = true ∧ reserveBad s 7 0x08080000 = false) ∧
    (let s := parted 7 fun x => { x with chips := 1 }; BySystem s ∧ reserves (s.part 7) 0xFF0000 = true ∧ reserveBad s 7 0xFF0000 = true) ∧
    reserves ((parted 7 id).part 7) 16 = false ∧ nextCommand (parted 7 id) 7 [1] = none := by
  delta Commanded ResizePasses BySystem; decide +kernel

/-- States that meet the hypotheses about links and ports. -/
theorem witness_LinkSteps :
    (let s := mc.setLink 87 { mc.link 87 with turns := [28, 4] }; mayTurn s 87 = true ∧ (s.link 87).turns = 28 :: [4]) ∧
    (let s := mc.setLink 0 { mc.link 0 with turning := some (4, 0) }; (s.link 0).turning = some (4, 0) ∧ 0 ≤ s.now.toNat) ∧
    (let s := { mc with dev := { mc.dev with ready1 := 0x800000 } }; s.dev.ready1.getLsbD 23 = true ∧ s.dev.ready1.getLsbD 0 = false ∧
      (running s).dev.ready0.getLsbD 49 = true) ∧
    (let s := { mc with meridian := 1000000, dev := { mc.dev with routes := Vector.replicate 256 0x8000000000000001 } }
     peerTimedOut s 255 = true ∧ peerPorts s 255 ≠ 0) := by
  decide +kernel

/-- States that meet the hypotheses about the host, peers and registers. -/
theorem witness_HostAndRegisterSteps :
    (let s := running mc; hostReady s = true ∧ reachable 0 64 = true ∧ reachable (Config.controlBase - 1) 1 = true ∧
      outsideOpen s 0 64 true = true ∧ outsideOpen s (Config.controlBase - 1) 1 false = true ∧ s.dev.powered = true ∧
      BySystem s ∧ (vget s.dev.mcwin 0).en = false ∧ windowBad s 0 (windowOf 1) = false ∧ (s.part (selPart s.sq)).state = 1) ∧
    (((mc.part (selPart mc.sq)).state = 0 ∧ selLink mc.sq = some 0) ∧ (vget windowed.dev.mcwin 0).en = true) ∧
    (let s := { mc with dev := { mc.dev with ready1 := 1, armedAt := some 0, outs := [(0x10000, 3)] } }
     s.dev.ready1.toNat % 16777216 ≠ 0 ∧ s.dev.armedAt = some 0 ∧ 0 ≤ s.meridian.toNat ∧ s.dev.outs = (0x10000, 3) :: [] ∧
       outsideOpen s 0 64 true = true ∧ outsideOpen s 0 64 false = true ∧ deviceWaits s true 0 (0x10000 + 64 * 3) (64 * (285 - 3)) needW = false) ∧
    inControl 0x1000 = false := by
  delta BySystem; decide +kernel

/-- The LLC holds the line at 0, dirty or not. -/
def line0 (d : BitVec 8) : LlcLine := ⟨0, 0, 3, 1, false, [], d, 0, 0, 0⟩
def lined (d : BitVec 8) : State := { mc with llc := [line0 d] }

/-- The device with power, the meridian locked, before its firmware is checked. -/
def booting (b : Board) : State := { State.reset with dev := { Device.reset with ready0 := 0x1000000000000 }, board := b }

/-- States that meet the hypotheses about health and reset. -/
theorem witness_HealthAndResetSteps :
    (inCompute user 162 = true ∧ user.bankRet.contains 162 = false) ∧
    (llcFind (lined 0) 0 = some (line0 0) ∧ llcFind (lined 255) (7 * 64) = some (line0 255) ∧ (255 : BitVec 8) ≠ 0 ∧ llcFind mc 0 = none) ∧
    (let s := { mc with meridian := 1000, dev := { mc.dev with ready1 := 0x300000000 }, ways := (List.range 16).map fun w => ⟨31, w, true, 0⟩ }
     s.dev.ready1.getLsbD 32 = true ∧ bankIdle s 4095 = true ∧ idleLong s 4095 = true ∧ s.bankRet.contains 4095 = false ∧
     s.dev.ready1.getLsbD 33 = true ∧ ((List.range 4).all fun i => quarantined s 31 (4 * 3 + i)) = true ∧ s.wayRet.contains (31, 3) = false) ∧
    (retentionEnds mc 4095 = true ∧ mc.dev.ready1.getLsbD 32 = false ∧ mc.dev.ready1.getLsbD 33 = false) ∧
    (State.reset.dev.powered = true ∧ State.reset.dev.ready0.getLsbD 48 = false) ∧
    (let s := booting Board.reset
     s.dev.powered = true ∧ s.dev.booted = false ∧ s.dev.ready0.getLsbD 48 = true ∧ bootStatus s.board = (4 : BitVec 3).toNat) ∧
    (let b := { Board.reset with flash := some ⟨[], 0, [], [], 0⟩ }
     (booting b).dev.booted = false ∧ bootStatus b = 2) ∧
    (let s := running mc; s.dev.ready0.getLsbD 50 = true ∧ s.dev.ready0.getLsbD 49 = true ∧ field s.dev.ready0 32 12 = 0xFFF) ∧
    (let s := { mc with dev := { mc.dev with ready0 := 0x6000000000000 } }
     s.dev.ready0.getLsbD 50 = true ∧ s.dev.ready0.getLsbD (32 + 11) = false ∧ regionOk s 0x20000000 0x10000 512 = true ∧
     s.dev.ready0.getLsbD 49 = true ∧ ({ s with board := { Board.reset with flash := some ⟨[], 0, [], [], 0⟩ } }).board.flash = some ⟨[], 0, [], [], 0⟩) := by
  decide +kernel

/-! ### Words and what they decode to (the words and their assembly are the spec's worked examples) -/

/-- R146, R138, R147 (ord), R174, R185 (brk), R168 (exit), R179 (nop), R173 (ret), R141: halfwords of the miscellaneous and 16-bit lane forms. -/
theorem test_decode_halfwords :
    decode 0x0A86 0 = .ok (.guard 2 1 2) ∧ decode 0x030A 0 = .ok (.ord 4 1) ∧ decode 0x015A 0 = .ok (.brk 5) ∧
    decode 0x0012 0 = .ok .exit ∧ decode 0x0002 0 = .ok .nop ∧ decode 0x0016 0 = .ok .ret ∧
    decode (0x0004 + 3 * 64 + 7 * 2048) 0 = .ok (.add16 3 7) := by decide +kernel

/-- Class R: integer, floating-point, conversion, scalar, predicate and special-register instructions. -/
theorem test_decode_class_R :
    decode32 0x121C3119 = .ok (.madS 6 7 9) ∧ decode32 0x3C505361 = .ok (.dot2 10 20 30) ∧
    decode32 0x18304399 = .ok (.cvtpk 8 12 12) ∧ decode32 0x08304399 = .ok (.cvtpk 8 12 4) ∧
    decode32 0x02204BB1 = .ok (.mxq 9 8 1) ∧ decode32 0x002C2CD1 = .ok (.rdsr 5 0x0B) ∧
    decode32 0x16080D01 = .ok (.pand 1 2 0 3 1) := by decide +kernel

/-- Class I: immediates, `setpi`, `movi`, `tlu`. -/
theorem test_decode_class_I :
    decode32 0x0402C943 = .ok (.setpi 1 9 5 16) ∧ decode32 0x9E00034B = .ok (.movi 3 0x278) ∧
    decode32 0x2A030553 = .ok (.tlu 5 6 40 1) ∧ decode32 0xFE020463 = .ok (.saddi 4 4 0x3F8) ∧
    decode32 0x1900034B = .ok (.movi 3 100) := by decide +kernel

/-- Class L: branches, `li`, `ext`, `wait`, barriers, `setmode`. -/
theorem test_decode_class_L :
    decode32 0x00000A05 = .ok (.bra 10) ∧ decode32 0x0001C52D = .ok (.li 5 7) ∧ decode32 0x0000852D = .ok (.li 5 2) ∧
    decode32 0x80009135 = .ok (.ext 0x800091) ∧ decode32 0x00030245 = .ok (.brx 2 6) ∧
    decode32 0xFFFFE03D = .ok (.wait 0 31 31 31 15) ∧ decode32 0x00000355 = .ok (.barSync 3 0) ∧
    decode32 0x00021355 = .ok (.barArrive 3 8) ∧ decode32 0x0002815D = .ok (.tbarSync 1 40) ∧
    decode32 0x00050B65 = .ok (.setmode 3 0 1 1 0 1) := by decide +kernel

/-- Class M: loads, stores, atomics, fences, queues, semaphores, launch, engines. -/
theorem test_decode_class_M :
    decode32 0x0C08240F = .ok (.st 4 4 2 6) ∧ decode32 0x0A102537 = .ok (.sld 5 4 4 5) ∧
    decode32 0x0C082847 = .ok (.atomAdd 5 2 6) ∧ decode32 0x0620285F = .ok (.atoms 0 5 8 3) ∧
    decode32 0x00001467 = .ok (.fence 4 2 0) ∧ decode32 0x00004067 = .ok (.fence 0 0 1) ∧
    decode32 0x00044877 = .ok (.qpush 9 1) ∧ decode32 0x14004A7F = .ok (.qpopTry 9 0 10) ∧
    decode32 0x00304977 = .ok (.qpushSpan 9 12) ∧ decode32 0x0C302987 = .ok (.semWait 5 12 6) ∧
    decode32 0x001C508F = .ok (.launch 10 7) ∧ decode32 0x2A5044B7 = .ok (.tdrain 4 8 20 21) ∧
    decode32 0x182C51D7 = .ok (.arrAddsub 10 11 12) ∧ decode32 0x001828EF = .ok (.lnkTurn 5 6) := by decide +kernel

/-- The system instructions (R323). -/
theorem test_decode_system :
    decode32 0x00082E01 = .ok (.mfsr 5 2) ∧ decode32 0x001C3609 = .ok (.mtsr 6 7) ∧ decode32 0x001DCE09 = .ok (.mtsr 0x39 7) ∧
    decode32 0x04280611 = .ok (.tlbinvPage 10) ∧ decode32 0x00002E69 = .ok (.wayctlQuar 5) ∧ decode32 0x00182E51 = .ok (.errrd 5 6) ∧
    decode32 0x06182E49 = .ok (.lnkctlWidth 5 6) ∧ decode32 0x00000641 = .ok .sret := by decide +kernel

/-- A word of the table is read as two halfwords, low first, and a 16-bit form leaves what follows it. -/
theorem test_decodeTableWord :
    decodeTableWord 32 0x121C3119 = some (.madS 6 7 9) ∧ decodeTableWord 16 0x0A86 = some (.guard 2 1 2) ∧
    decodeBytes [0x86, 0x0A, 0x19, 0x31] = some (.ok (.guard 2 1 2), 2) := by decide +kernel

/-- Unassigned words and halfwords decode to no instruction (R150, step 1). -/
theorem test_decode_illegal :
    decode32 (3 + 23 * 8) = .illegal ∧ decode32 (5 + 13 * 8) = .illegal ∧ decode32 (7 + 30 * 8) = .illegal ∧
    decode 0xFFFE 0 = .illegal := by decide +kernel

/-! ### Ill-formed terms (R144, R150, step 4) -/

/-- A scalar register number of 64 or more, as a source, a destination, an address or the second of a pair. -/
theorem smoke_scalar_numbers : ([.sadd 64 1 2, .sadd 1 64 2, .sadd 1 2 64, .addS 1 2 64, .movs 1 64, .rdlane 64 1 2, .wrlane 1 2 64, .pmask 0 64 0,
    .mtsr 6 64, .tlbinvAll 64, .ld 4 1 2 65, .sld 4 64 2 3, .sst 4 1 2 64, .qpush 64 1, .semAdd 1 64, .launch 64 1, .arrMul 64 1 2,
    .lnkTurn 1 64, .dotv 0 1 62 64] : List Instr).all (fun i => !i.wellFormed) = true := by decide +kernel

/-- Pairs and runs that start at a wrong register, or pass the last. -/
theorem smoke_pairs_and_runs : ([.dot2 1 2 3, .dot2 2 1 3, .dot2S 1 2 3, .cvtpk 1 2 4, .cvtpk 1 1 1, .cvtup 2 1 4, .cvtup 1 1 1, .ld 5 1 2 3, .ld 6 2 2 3,
    .st 5 1 2 3, .lds 6 2 2 3, .sts 5 1 2 3, .ldt 5 1 2 3, .stt 6 2 2 3, .atom2Cas 1 2 3, .atom2AddI64 1 2 3, .atom2ExchB64 1 2 3, .atom2CasB64 2 2 3,
    .qpopSpan 1 2, .qpopSpanTry 1 2 3, .cpyGs 1 3 2, .cpySg 1 3 2, .cpyGg 1 3 2, .cpySp 1 3 2, .cpyGs2 1 3 2, .cpySg2 1 3 2, .cpyPin 1 3 2,
    .tdrain 0 3 4 5, .dotv 0 1 3 2, .cchopWb 1 3, .cchopWbinv 1 3, .cchopInv 1 3, .cchopUnkeep 1 3, .cxsave 1 3, .cxrest 1 3] : List Instr).all
    (fun i => !i.wellFormed) = true := by decide +kernel

/-- Selectors, conditions, widths, counts and numbers out of their range. -/
theorem smoke_selectors : ([.setp 1 10 2 3, .setpS 1 10 2 3, .setpi 1 10 2 3, .sext 1 2 0, .sext 1 2 33, .fsetp 1 12 2 3, .fsetpS 1 12 2 3, .frnd 1 2 5,
    .cvtfi 1 2 3, .cvtfi 1 2 24, .cvtif 1 2 6, .cvtif 1 2 24, .cvtif 1 2 64, .cvtff 1 2 6, .cvtff 1 2 48, .cvtpk 4 4 0, .cvtpk 4 4 6, .cvtpk 4 4 17,
    .cvtup 4 4 0, .cvtup 4 4 9, .redsq 1 2 11, .scan 1 2 11, .rdsr 1 0x1E, .wrsr 0x0B 1, .mfsr 1 0x7F, .mtsr 2 1, .mtsr 0x30 1, .shli 1 2 32, .shri 1 2 32,
    .sari 1 2 32, .sshli 1 2 64, .sshri 1 2 64, .ssari 1 2 64, .barSync 0 33, .barArrive 0 33, .setmode 1 0 0 0 0 0, .setmode 0 1 0 0 0 0,
    .setmode 0 0 1 0 0 0, .ld 7 4 2 3, .st 0 4 2 3, .st 7 4 2 3, .lds 7 4 2 3, .sts 2 4 2 3, .sld 6 4 2 3, .sst 6 4 2 3, .fence 6 1 0, .fence 0 0 0,
    .fence 0 5 1, .bload 3 1 2 3, .tmac 4 1 2 3, .tdrain 7 2 4 5, .dotv 4 1 2 3] : List Instr).all (fun i => !i.wellFormed) = true := by decide +kernel

/-- A device step is no instruction word. -/
theorem smoke_device_steps : ([.doorbell, .powerOnReset] : List Instr).all (fun i => !i.wellFormed) = true := by decide +kernel

/-! ### Single steps with results from the rules -/

/-- The state after an instruction. -/
def after (i : Instr) (s : State) : State := match exec i s with
  | .next t => t
  | _ => s

/-- Registers v8 and v12 of every lane. -/
def two (x y : Word) : State := (user.setV 8 allLanes fun _ => x).setV 12 allLanes fun _ => y

/-- Sums wrap; a negative quotient of `mulhi` rounds down (R194). -/
theorem test_add : (after (.add 4 8 12) (two 0xFFFFFFFF 2)).v 4 31 = 1 := by decide +kernel
theorem test_mulhi : (after (.mulhiI32 4 8 12) (two 0xFFFFFFFF 1)).v 4 0 = 0xFFFFFFFF := by decide +kernel

/-- A shift by 32 or more gives 0, and an arithmetic one the sign (R195). -/
theorem test_shl : (after (.shl 4 8 12) (two 1 32)).v 4 0 = 0 := by decide +kernel
theorem test_sar : (after (.sar 4 8 12) (two 0x80000000 40)).v 4 0 = 0xFFFFFFFF := by decide +kernel

/-- Saturating sums. -/
theorem test_addsat : (after (.addsatI32 4 8 12) (two 0x7FFFFFFF 1)).v 4 0 = 0x7FFFFFFF := by decide +kernel
theorem test_subsat : (after (.subsatI32 4 8 12) (two 0x80000000 1)).v 4 0 = 0x80000000 := by decide +kernel

/-- The example of `prmt` (08_lane_arithmetic_instructions.md). -/
theorem test_prmt : (after (.prmt 4 8 12) (two 0x88442211 0x8123)).v 4 5 = 0x00224488 := by decide +kernel

/-- The four products of signed bytes -1, 2, -128 and 127 by 1, 2, 1 and 1 add 2 (R207). -/
theorem test_idot4 : (after (.idot4 4 8 12) ((two 0x7F8002FF 0x01010201).setV 4 allLanes fun _ => 10)).v 4 0 = 12 := by decide +kernel

/-- The example of `tlu`, with its `ext` of 0xEE as the fill. -/
theorem test_tlu : (after (.tlu 5 6 40 1) ((((user.setV 40 allLanes fun _ => 0x13121110).setV 41 allLanes fun _ => 0x17161514).setV 6 allLanes
    fun _ => 0x09000705).onSq fun q => { q with cur := { q.cur with ext := some 0xEE } })).v 5 0 = 0xEE101715 := by decide +kernel

/-- The example of `movi v3, 0x1234_5678`. -/
theorem test_movi : (after (.movi 3 0x278) (user.onSq fun q => { q with cur := { q.cur with ext := some 0x48D15 } })).v 3 0 = 0x12345678 := by
  decide +kernel

/-- `setp` compares as signed numbers in the enabled lanes (R196). -/
theorem test_setp : ((after (.setp 1 2 8 12) (two 0x80000000 1)).sq.regs.pred 1) = allLanes := by decide +kernel

/-- 2^24 + 1 ties to even (R70); a division of finite numbers by zero gives infinity and its flag (R58). -/
theorem test_fadd : (after (.fadd 4 8 12) (two 0x4B800000 0x3F800000)).v 4 0 = 0x4B800000 ∧
    (after (.fadd 4 8 12) (two 0x4B800000 0x3F800000)).sq.flags = 0x10 := by decide +kernel
theorem test_fmul_overflow : (after (.fmul 4 8 12) (two 0x7F000000 0x40000000)).v 4 0 = 0x7F800000 ∧
    (after (.fmul 4 8 12) (two 0x7F000000 0x40000000)).sq.flags = 0x14 := by decide +kernel

/-- 2 times 3 plus 1, by the accumulating form. -/
theorem test_ffma : (after (.ffma 4 8 12) ((two 0x40000000 0x40400000).setV 4 allLanes fun _ => 0x3F800000)).v 4 0 = 0x40E00000 := by decide +kernel

/-- The example of `dot2`. -/
def dotted : State := ((((user.setV 20 allLanes fun _ => 0xC0003FC0).setV 21 allLanes fun _ => 0x40403F00).setV 30 allLanes fun _ => 0x3E804080).setV 10
  allLanes fun _ => 0x3F800000).setV 11 allLanes fun _ => 0
theorem test_dot2 : (after (.dot2 10 20 30) dotted).v 10 0 = 0x40D00000 ∧ (after (.dot2 10 20 30) dotted).v 11 0 = 0x40300000 ∧
    (after (.dot2 10 20 30) dotted).sq.flags = 0 := by decide +kernel

/-- The example of `cvtpk` without its tag, saturating and not, under version 2. -/
def packing : State := ({ user with grids := [{ grid9 with nbv := 2 }] }.setV 12 allLanes fun _ => 0x43E80000).setV 13 allLanes (fun _ => 0x43EB0000)
  |>.setV 14 allLanes (fun _ => 0xC47A0000) |>.setV 15 allLanes fun _ => 0x7FC00000
theorem test_cvtpk_sat : (after (.cvtpk 8 12 12) packing).v 8 0 = 0x7FFE7E7E ∧ (after (.cvtpk 8 12 12) packing).sq.flags = 0x14 := by decide +kernel
theorem test_cvtpk : (after (.cvtpk 8 12 4) packing).v 8 0 = 0x7F7F7F7E := by decide +kernel

/-- The example of `mxq`: 10.0, 1.25 and -2.6. -/
def quantised : State := after (.mxq 9 8 1) (user.setV 8 allLanes fun l => if l = 0 then 0x41200000 else if l = 1 then 0x3FA00000
  else if l = 2 then 0xC0266666 else 0)
theorem test_mxq : quantised.v 9 0 = 0x8006 ∧ quantised.v 9 1 = 0x8001 ∧ quantised.v 9 2 = 0x800B ∧ quantised.v 9 3 = 0x8000 := by decide +kernel

/-- The example of `shfl.xor`: lanes 0 to 15 run, and receive lanes 16 to 31. -/
theorem test_shfl_xor : let s := ((user.setV 2 allLanes fun l => BitVec.ofNat 32 (100 + l)).setX 4 16).onSq fun q =>
      { q with cur := { q.cur with active := 0xFFFF, enabled := 0xFFFF } }
    (after (.shflXor 3 2 4) s).v 3 5 = 121 ∧ (after (.shflXor 3 2 4) s).v 3 21 = 0 := by decide +kernel

/-- A mark on v8 in lane 3: `rdlane` and the shuffles fault on it where lane 3 is enabled or is the lane read, and nowhere else (R225). -/
def markedV : State := user.onSq fun q => { q with poisonV := [(8, 3, 0x7000)] }
def lane0 (s : State) : State := s.onSq fun q => { q with cur := { q.cur with active := 1, enabled := 1 } }
theorem test_rdlane_marked : (after (.rdlane 4 8 12) (lane0 (markedV.setX 12 2))).sq.status = .ready ∧
    (after (.rdlane 4 8 12) (lane0 (markedV.setX 12 3))).sq.status = .stopped ∧
    (after (.rdlane 4 8 12) (markedV.setX 12 2)).sq.status = .stopped := by decide +kernel
theorem test_shfl_marked : (after (.shflXor 4 8 12) (lane0 (markedV.setX 12 3))).sq.status = .stopped ∧
    (after (.shflXor 4 8 12) markedV).sq.status = .stopped ∧ (after (.shflUp 4 8 12) (lane0 (markedV.setX 12 29))).sq.status = .ready := by
  decide +kernel

/-- A butterfly sum of the lane numbers (R75), and a vote. -/
theorem test_redsq : (after (.redsq 4 8 0) (user.setV 8 allLanes fun l => BitVec.ofNat 32 l)).v 4 7 = 496 := by decide +kernel
theorem test_scan : (after (.scan 4 8 0) (user.setV 8 allLanes fun l => BitVec.ofNat 32 l)).v 4 7 = 28 := by decide +kernel
theorem test_ballot : (after (.voteBallot 4 1 1) (user.setP 1 allLanes 0xF)).x 4 = 0xFFFFFFF0 := by decide +kernel

/-- The examples of `li`, `saddi` and `rdsr`; s0 reads 0 after a write (R54). -/
theorem test_li : (after (.li 5 7) user).x 5 = 7 ∧ (after (.li 0 7) user).x 0 = 0 := by decide +kernel
theorem test_saddi : (after (.saddi 4 4 0x3F8) user).x 4 = 0xFFFFFFFFFFFFFFF8 := by decide +kernel
theorem test_rdsr : (after (.rdsr 5 0x0B) user).x 5 = 0x20 := by decide +kernel
theorem test_setmode : (after (.setmode 3 0 1 1 0 1) user).sq.mode = 0x103 := by decide +kernel

/-- `brp` at 0x1000 sends the threads with p1 on, and the others fall through. -/
theorem test_brp : let t := after (.brp 1 0 6) (user.setP 1 allLanes 0xFFFF)
    vget t.sq.thr.pc 0 = 0x100C ∧ vget t.sq.thr.pc 16 = 0x1004 := by decide +kernel

/-- The example of `brx`: the table 2, 6, 10 and lanes mod 3, in a grid whose code begins at 0x1000. -/
noncomputable def branched : State := after (.brx 2 6) (({ system with mem := memPut [] 0x8000 (leBytes 4 3 ++ leBytes 4 2 ++ leBytes 4 6 ++ leBytes 4 10) }.setX 6 0x8000).setV 2
  allLanes fun l => BitVec.ofNat 32 (l % 3))
theorem test_brx : vget branched.sq.thr.pc 0 = 0x1004 ∧ vget branched.sq.thr.pc 4 = 0x100C ∧ vget branched.sq.thr.pc 8 = 0x1014 := by decide +kernel

/-- The example of atomics: lanes 0 to 3 add 1 to 4 to a word that holds 10 (09_memory_atomic_sync_instructions.md). -/
noncomputable def adding (op : AtomOp) (m : Nat) (xs : List Nat) : State :=
  let s := { user with mem := memPut [] (bankKey 160 0) (leBytes 4 m) }
  let o : Op := { load1 with act := .atomic .scratch op 40 false (xs.zipIdx.map fun (x, l) => ⟨l, 0, bankKey 160 0, 4, x, 0, none⟩) }
  after (.atomicComplete 11 20) (s.onSq fun q => { q with ops := [o] })
theorem test_atom_add : let t := adding .add 10 [1, 2, 3, 4]
    (List.range 4).map (fun l => (t.v 40 l).toNat) = [10, 11, 13, 16] ∧ memNat t.mem (bankKey 160 0) 4 = 20 := by decide +kernel
theorem test_atom2_fadd : let t := adding .fadd 0x3F800000 [0x4B800000, 0x40000000, 0x3F800000]
    (List.range 3).map (fun l => (t.v 40 l).toNat) = [0x3F800000, 0x4B800000, 0x4B800002] ∧ memNat t.mem (bankKey 160 0) 4 = 0x4B800002 := by
  decide +kernel

/-- The compression example (04_memory_hierarchy.md): code 1 and its sector. -/
def line3 : List Byte := leBytes 8 0x3F800000 ++ leBytes 8 0x4000000000000000 ++ List.replicate 24 0 ++ leBytes 8 0x100000000 ++ List.replicate 464 0
theorem test_compress : compressLine line3 = (1, leBytes 8 0x23 ++ leBytes 8 0x3F800000 ++ leBytes 8 0x4000000000000000 ++ leBytes 8 0x100000000 ++
    List.replicate 32 0) := by decide +kernel

/-- The words of the record in the example of 17_translation_faults_errors.md. -/
theorem test_record_words : recWord8 0x44 3 true false 2 1 0x200 = 0x0000020001024344 ∧ recWord10 0x003100020008 41 = 0x1480003100020008 ∧
    recWord18 { user.sq with ident := { user.sq.ident with slot := 5, quad := 2 } } 0xA00000040 2 = 0x5280000A00000040 := by decide +kernel

/-- CTXID keeps bits 5:0 (R318). -/
theorem test_mtsr : (after (.mtsr 6 7) (mc.setX 7 0x1C3)).sq.sys.ctxid = 3 := by decide +kernel

/-- `sret` sends a marked group to SYSPC and clears its marks; a group with an unmarked lane takes 0x41 (R322). -/
def returning (m : Mask) : State := mc.onSq fun q => { q with thr := { q.thr with sysMark := m }, sys := { q.sys with syspc := 0x4000 } }
theorem test_sret : (after .sret (returning allLanes)).sq.thr.sysMark = 0 ∧ vget (after .sret (returning allLanes)).sq.thr.pc 9 = 0x4000 ∧
    (after .sret (returning 0xFF)).sq.status = .stopped := by decide +kernel

/-- A privileged instruction of a user squad stops it with 0x42 (R322): its record is lost while the ring is disabled. -/
theorem test_privilege : (after (.mfsr 4 6) user).sq.status = .stopped ∧ (after (.mfsr 4 6) user).dev.errLost = 1 := by decide +kernel

/-- A load of the scratchpad takes the bytes of the lane's address when it completes (R222, R223). -/
theorem test_load : ((match exec (.loadComplete 11 20) { (having load1) with mem := memPut [] (bankKey 160 0) (leBytes 4 0x12345678) } with
    | .next t => t
    | _ => user).v 40 0) = 0x12345678 := by decide +kernel

/-- `mfsr` reads PARTSEL of its squad. -/
theorem test_mfsr : (after (.mfsr 5 0x40) (mc.onSq fun q => { q with sys := { q.sys with partsel := 5 } })).x 5 = 5 := by decide +kernel


/-- `brk 5`: cause 2 with the code, the running group, and the handler at code base + 2 x 0x400 (R279, R282, R283). -/
theorem test_brk : let t := after (.brk 5) user
    t.sq.trap.cause = 2 ∧ t.sq.trap.info = 5 ∧ t.sq.trap.pc = 0x1000 ∧ t.sq.trap.mask = 0xFFFFFFFF ∧ vget t.sq.thr.pc 7 = 0x1800 ∧
    t.sq.thr.handlerMark = allLanes := by decide +kernel

/-- An enabled exception traps after its result is written (R281): invalid is cause 0x10, its destination v4 in FP32. -/
theorem test_fp_trap : let t := after (.fadd 4 8 12) ((two 0x7F800000 0xFF800000).onSq fun q => { q with mode := 0x100 })
    t.sq.trap.cause = 0x10 ∧ t.sq.trap.lanes = 0xFFFFFFFF ∧ t.v 4 0 = 0x7FC00000 ∧ t.sq.flags = 1 ∧ vget t.sq.thr.pc 0 = 0x1800 := by
  decide +kernel

/-- A trap in a handler stops the squad with 0x41 (R285). -/
theorem test_trap_in_handler : (after (.brk 5) handling).sq.status = .stopped := by decide +kernel

/-- A queue gives what was pushed, oldest first, and a try form of a full queue answers 0. -/
theorem test_queue : (after (.qpopTry 4 1 5) queued).x 4 = 5 ∧ (after (.qpopTry 4 1 5) queued).x 5 = 1 ∧
    (after (.qpushTry 4 1 5) queueFull).x 5 = 0 := by decide +kernel

/-- A semaphore reads 5, and 6 after an addition of 1. -/
theorem test_sem_read : (after (.semRead 8 12) semed).x 12 = 5 := by decide +kernel
theorem test_sem_add : (after (.semRead 8 12) ((after (.semAdd 4 8) (semed.setX 4 1)).onSq (atPc 0x2000))).x 12 = 6 := by decide +kernel

/-- A quotient by zero is all ones and the remainder the dividend; the signed minimum by -1 wraps (R184). -/
theorem test_sdiv : (after (.sdivn 4 8 12) (user.setX 8 7)).x 4 = 0xFFFFFFFFFFFFFFFF ∧ (after (.sremn 4 8 12) (user.setX 8 7)).x 4 = 7 := by
  decide +kernel

/-! ### States that meet the hypotheses of the remaining statements -/

/-- Nothing traps while MODE enables no exception: the condition of the floating-point statements. -/
theorem witness_Untrapped : ∀ fx : Nat → Fx, Untrapped (begun user) fx := by
  intro fx
  refine .inl ?_
  have : (begun user).sq.mode = 0 := by decide +kernel
  simp [enabledFx, this]

/-- The user squad has a running group, whose lanes are all enabled. -/
theorem witness_GuardsAndRunningGroups : (∃ u, user.sq.thr.select = some (allLanes, 0x1000, u)) ∧ (begun user).sq.cur.enabled = allLanes ∧
    { user.sq.thr with live := 0 }.eligible = 0 := ⟨⟨_, rfl⟩, by decide +kernel, by decide +kernel⟩

/-- A system squad with a handler, outside it and in it, and without one. -/
theorem witness_SystemHandlerEntry : let s := system.onSq fun q => { q with sys := { q.sys with sysvec := 2 } }
    (s.sq.thr.sysMark = 0 ∧ 2 ≤ s.sq.sys.sysvec.toNat) ∧ sysHandling.sq.thr.sysMark ≠ 0 ∧ system.sq.sys.sysvec.toNat < 2 ∧
    system.sq.ident.priv = true := by decide +kernel

/-- A user squad with the ring enabled, disabled, and full. -/
theorem witness_UserFaultStopsAndIsRecorded : let f : FaultInfo := { cause := 0x41 }
    let s := { user with dev := { user.dev with errEn := true, errWr := 65535 } }
    (user.sq.ident.priv = false ∧ f.cause ≠ 0x44) ∧ (s.sq.isMc0 = false ∧ s.dev.errEn = true ∧ (s.dev.errWr - s.dev.errRd).toNat ≠ 65536) ∧
    user.dev.errEn = false ∧ ({ s with dev := { s.dev with errWr := 65536 } }.dev.errWr - s.dev.errRd).toNat = 65536 := by decide +kernel

/-- A privileged instruction of a user squad, an illegal register, a counter that is full, and a marked register. -/
theorem witness_IssueChecksInOrder :
    ((traitsOf (.mfsr 4 6)).device = false ∧ prefixRank (.mfsr 4 6) = none ∧ (traitsOf (.mfsr 4 6)).priv = true ∧ user.sq.ident.priv = false ∧
      (checkForm user (traitsOf (.mfsr 4 6))).isSome = true) ∧
    (checkForm user (traitsOf (.sadd 64 1 2)) = none ∧ (checkOperands user (traitsOf (.sadd 64 1 2)) (usesNow user (.sadd 64 1 2))).isSome = true) ∧
    (checkForm loading1 (traitsOf (.add 40 8 12)) = none ∧ checkOperands loading1 (traitsOf (.add 40 8 12)) (usesNow loading1 (.add 40 8 12)) = none ∧
      mustWait loading1 (traitsOf (.add 40 8 12)) (usesNow loading1 (.add 40 8 12)) = true) ∧
    (checkForm markedV (traitsOf (.add 4 8 12)) = none ∧ checkOperands markedV (traitsOf (.add 4 8 12)) (usesNow markedV (.add 4 8 12)) = none ∧
      mustWait markedV (traitsOf (.add 4 8 12)) (usesNow markedV (.add 4 8 12)) = false ∧
      (checkPoison (begun markedV) (usesNow markedV (.add 4 8 12))).isSome = true) ∧
    ((traitsOf (.add 4 8 12)).priv = false ∧ (checkForm (user.onSq fun q => { q with cur := { q.cur with ext := some 5 } })
      (traitsOf (.add 4 8 12))).isSome = true) := by decide +kernel

/-- The word of `idot4 v4, v8, v12` stands at the entry of the management core, whose group is chosen. -/
def fetching : State := { mc with plan := [(0, .squad 0)], mem := memPut [] 0 (leBytes 4 (1 + 0x6E * 8 + 4 * 2048 + 8 * 262144 + 12 * 33554432)) }

/-- What a fetch gives, as plain data. -/
def fetched2 : Code (Nat × Nat × DWord) → Option (Nat × Nat × DWord)
  | .got x => some x
  | _ => none
theorem fetched2_iff {c : State × Code (Nat × Nat × DWord)} {x : Nat × Nat × DWord} (h : fetched2 c.2 = some x) : c = (c.1, .got x) := by
  obtain ⟨u, c⟩ := c
  cases c <;> simp [fetched2] at h ⊢
  exact h

/-- The hypotheses of StepRunsTheFetchedInstruction. -/
theorem witness_StepRunsTheFetchedInstruction :
    ∃ e t g pc thr u h0 h1 next, fetching.plan = (0, .squad 0) :: [] ∧ e = elapse { fetching with plan := [] } 0 (.squad 0) ∧
      e.checkout 0 = some t ∧ eventDue t t.sq = false ∧ canIssue t.sq = true ∧ t.sq.thr.quantum < Config.quantum ∧
      (turn t).sq.thr.select = some (g, pc, thr) ∧
      fetchOne ((turn t).onSq fun q => { q with thr := thr, cur := ⟨pc, pc, pc, g, g, none, none, none⟩ }) pc = (u, .got (h0, h1, next)) ∧
      decode h0 h1 = .ok (.idot4 4 8 12) ∧ prefixRank (.idot4 4 8 12) = none ∧ (traitsOf (.idot4 4 8 12)).priv = false := by
  refine ⟨_, _, allLanes, 0, _, _, 0x2371, 0x1820, 4, rfl, rfl, rfl, by decide +kernel, by decide +kernel, by decide +kernel, rfl, fetched2_iff ?_,
    by decide +kernel, by decide +kernel, by decide +kernel⟩
  decide +kernel

/-- Well-formed instructions of each class. -/
theorem witness_DecodeInvertsEncode : ([.add16 3 7, .guard 2 1 2, .dot2 10 20 30, .mtsr 6 7, .setpi 1 9 5 16, .bra 10, .st 4 4 2 6, .atoms 0 5 8 3] :
    List Instr).all (·.wellFormed) = true := by decide +kernel

/-- A squad that writes MODE and FLAGS. -/
theorem witness_RegistersReadBack : issues (.wrsr 0x0D 8) user = true ∧ issues (.wrsr 0x0E 8) user = true ∧
    (∃ t, exec (.wrsr 0x0D 8) user = .next t) ∧ ∃ t, exec (.wrsr 0x0E 8) user = .next t :=
  ⟨by decide +kernel, by decide +kernel, ⟨_, rfl⟩, _, rfl⟩

/-- Bytes at both ends of a sector, of an L1 that holds the sector, and of one with room for it. -/
theorem witness_WeakStoreReadsBack : (0 < ([1] : List Byte).length ∧ 63 % 64 + ([1] : List Byte).length ≤ 64) ∧
    (0 < (List.replicate 64 (0 : Byte)).length ∧ 64 % 64 + (List.replicate 64 (0 : Byte)).length ≤ 64) ∧
    (l1Find { user with l1 := [sector 5 0] } 5 63).isSome = true ∧ (l1SetLines user 5 64).length < l1Ways 5 := by decide +kernel

/-- A line of 512 bytes. -/
theorem witness_CompressionRoundTrip : line3.length = 512 := by decide +kernel

/-- The memory of reset has the canonical form, and a step answers from a state that has it. -/
theorem witness_StepKeepsMemoryForm : Memory.wf fetching.mem ∧ ∃ t, step fetching = .next t := by
  refine ⟨by decide +kernel, ?_⟩
  have h : (match step fetching with
    | .next _ => true
    | _ => false) = true := by decide +kernel
  revert h
  cases step fetching <;> simp

/-- The last bounds of RegistersReadBack, ResetAndEntryValues and GuardsAndRunningGroups. -/
theorem witness_bounds : (127 < 128 ∧ 63 < 64 ∧ 7 < 8 ∧ 31 < 32 ∧ 87 < 88) := by decide

/-- An operand that MatchInstructions calls reserved, and a squad that issues the two forms. -/
theorem witness_MatchInstructions : 2 ≤ (127 : BitVec 7).toNat ∧ issues (.matchAny 4 8) user = true ∧ issues (.matchFirst 4 8) user = true ∧
    checkForm user (traitsOf (.matchAny 4 8)) = none := by decide +kernel

/-- FramedIssue: a load that begins its operation. -/
theorem witness_FrameOfIssuedOperations : issues (.lds 4 4 8 12) user = true ∧
    (after (.lds 4 4 8 12) user).sq.ops.length = 1 ∧ user.sq.ops.length = 0 := by decide +kernel

/-- FramedSystem: a system instruction whose squad is not gone after it. -/
theorem witness_FrameOfSystemInstructions : issues (.mfsr 4 6) mc = true ∧ (after (.mfsr 4 6) mc).sq.status ≠ .absent := by decide +kernel

/-- FramedEntry and FramedSync: a barrier that completes, and `exit`. -/
theorem witness_FrameOfControl : issues (.barSync 0 1) user = true ∧ issues .exit user = true ∧ issues (.wrsr 0x0E 8) user = true := by decide +kernel

/-- DeviceStepsSpareSquads: device steps that answer. -/
theorem witness_DeviceStepsSpareSquads : (∃ t, exec .doorbell user = .next t) ∧ ∃ t, exec (.qcfgWrite 0 0) user = .next t := ⟨⟨_, rfl⟩, _, rfl⟩

/-- An invalid sum of the enabled lanes that MODE lets trap, with a trap entry and in a grid without one (R281, R285). -/
def trapping : State := (two 0x7F800000 0xFF800000).onSq fun q => { q with mode := 0x100 }
def trapless : State := { trapping with grids := [{ grid9 with r := { rec9 with trap := 0xFFFFFFFF } }] }
theorem witness_FloatingPointTraps :
    (issues (.fadd 4 8 12) trapping = true ∧ enabledFx (begun trapping) (raisedIn (begun trapping) fun l =>
        ((fadd2 (begun trapping) ((begun trapping).v 8 l) ((begun trapping).v 12 l)).lane).fx) ≠ 0 ∧
      inHandler (begun trapping).sq = false ∧ trapEntry (begun trapping) = some 0x1800) ∧
    issues (.fadd 4 8 12) trapless = true ∧ trapEntry (begun trapless) = none := by decide +kernel

/-- Waits that find an error, and a wait on ST that finds a pinned sector of its context (R178, R226, R370). -/
theorem witness_ControlInstructions_errors :
    (Issues (.wait 0 31 31 31 15) (erring .ld) ∧ Below (begun (erring .ld)) (waitTo 0 31 31 31 15) ∧ waitsOn (waitTo 0 31 31 31 15) .st = none ∧
      (firstError (begun (erring .ld)).sq (fun y => (waitsOn (waitTo 0 31 31 31 15) y).isSome)).isSome = true) ∧
    (Issues (.wait 31 0 31 31 15) (erring .st) ∧ Below (begun (erring .st)) (waitTo 31 0 31 31 15) ∧ waitsOn (waitTo 31 0 31 31 15) .st ≠ none ∧
      (deferredFaults (retried (begun (erring .st)))).2 = false ∧
      (firstError (deferredFaults (retried (begun (erring .st)))).1.sq (fun y => (waitsOn (waitTo 31 0 31 31 15) y).isSome)).isSome = true) ∧
    (Issues (.wait 31 0 31 31 15) pinning ∧ Below (begun pinning) (waitTo 31 0 31 31 15) ∧ (deferredFaults (retried (begun pinning))).2 = true) ∧
    (Issues (.wait0 1) (erring .ld) ∧ Below (begun (erring .ld)) (wait0To 1) ∧ waitsOn (wait0To 1) .st = none ∧
      (firstError (begun (erring .ld)).sq (fun y => (waitsOn (wait0To 1) y).isSome)).isSome = true) ∧
    (Issues (.wait0 2) (erring .st) ∧ Below (begun (erring .st)) (wait0To 2) ∧ waitsOn (wait0To 2) .st ≠ none ∧
      (deferredFaults (retried (begun (erring .st)))).2 = false ∧
      (firstError (deferredFaults (retried (begun (erring .st)))).1.sq (fun y => (waitsOn (wait0To 2) y).isSome)).isSome = true) ∧
    (Issues (.wait0 2) pinning ∧ Below (begun pinning) (wait0To 2) ∧ (deferredFaults (retried (begun pinning))).2 = true) := by
  refine ⟨⟨issues_iff ?_, below_of ?_, ?_, ?_⟩, ⟨issues_iff ?_, below_of ?_, ?_, ?_, ?_⟩, ⟨issues_iff ?_, below_of ?_, ?_⟩,
    ⟨issues_iff ?_, below_of ?_, ?_, ?_⟩, ⟨issues_iff ?_, below_of ?_, ?_, ?_, ?_⟩, issues_iff ?_, below_of ?_, ?_⟩ <;> decide +kernel

/-- A guard opens a window of two instructions, its own the first, and the next instruction counts it down (R146). -/
theorem test_guard_window : let s := user.onSq fun q => { q with cur := { q.cur with guard := some (1, false, 2) } }
    vget (after (.add 4 8 12) s).sq.thr.win 7 = ⟨1, false, 1⟩ ∧ vget (after (.add 4 8 12) (after (.add 4 8 12) s)).sq.thr.win 7 = ⟨1, false, 0⟩ ∧
    (begun s).sq.cur.enabled = 0 := by decide +kernel

/-- The system squad with an access of global memory outstanding: strong at device scope, or weak. -/
def acc8 (l va : Nat) : Access := ⟨l, va, va, 4, 0x11223344, 0, none⟩
def far (a : Act) (c : OpClass) : Op := { load1 with cls := c, act := a, strong := true, scope := 4 }
def near (a : Act) (c : OpClass) : Op := { load1 with cls := c, act := a }
def holding (o : Op) : State := system.onSq fun q => { q with ops := [o] }
def storeFar : Op := far (.store .global [acc8 0 0x8000, acc8 1 0x8004]) .st
def storeNear : Op := near (.store .global [acc8 0 0x8000, acc8 1 0x8004]) .st
def cached : State := { holding storeNear with l1 := [sector 5 0x8000] }
def loadFar : Op := far (.load .global 4 40 false [acc8 0 0x8000, acc8 1 0x8004]) .ld
def atomFar (sc : Bool) : Op := far (.atomic .global .add 40 sc [acc8 0 0x8000]) .ld

/-- Reset memory is legible, sound and settled. -/
theorem plain (o : Op) : Legible (holding o) ∧ Sound (holding o) ∧ Settled (holding o) :=
  ⟨⟨by simp [holding, system, user, State.onSq, State.reset], by simp [holding, system, user, State.onSq, State.reset],
    by simp [holding, system, user, State.onSq, State.reset]⟩,
   ⟨by simp [holding, system, user, State.onSq, State.reset], by simp [holding, system, user, State.onSq, State.reset]⟩,
   by simp [Settled, holding, system, user, State.onSq, State.reset]⟩

/-- States that meet the hypotheses of GlobalAccessesLand. -/
theorem witness_GlobalAccessesLand :
    ((holding storeFar).checkout 11 = some (holding storeFar) ∧ findOp (holding storeFar) 20 = some storeFar ∧
      mayComplete (holding storeFar) storeFar = true ∧ atHome (holding storeFar) storeFar.strong storeFar.scope = true ∧
      (∀ b ∈ [acc8 0 0x8000, acc8 1 0x8004], toControl (holding storeFar) b.pa = false ∧ 0 < b.n ∧ b.pa % 512 + b.n ≤ 512 ∧ b.via = none) ∧
      ∀ b ∈ [acc8 1 0x8004], (acc8 0 0x8000).pa + (acc8 0 0x8000).n ≤ b.pa) ∧
    (cached.checkout 11 = some cached ∧ findOp cached 20 = some storeNear ∧ mayComplete cached storeNear = true ∧
      (∀ b ∈ [acc8 0 0x8000, acc8 1 0x8004], toControl cached b.pa = false ∧ b.pa < paSpace ∧ inWindow cached b.pa = false ∧ b.pa % 64 + b.n ≤ 64 ∧
        (l1Find cached cached.sq.ident.core b.pa).isSome = true) ∧
      atHome cached storeNear.strong storeNear.scope = false ∧ storeNear.releases = false) ∧
    ((holding loadFar).checkout 11 = some (holding loadFar) ∧ findOp (holding loadFar) 20 = some loadFar ∧
      mayComplete (holding loadFar) loadFar = true ∧ atHome (holding loadFar) loadFar.strong loadFar.scope = true) ∧
    (∀ sc, (holding (atomFar sc)).checkout 11 = some (holding (atomFar sc)) ∧ findOp (holding (atomFar sc)) 20 = some (atomFar sc) ∧
      mayComplete (holding (atomFar sc)) (atomFar sc) = true ∧ inBacking (holding (atomFar sc)) (holding (atomFar sc)).sq.ident.ctx 0x8000 0x8000 4 = false ∧
      anyBad (holding (atomFar sc)) 0x8000 4 = false ∧ atHome (holding (atomFar sc)) true (atomFar sc).scope = true) ∧
    ∀ o, Legible (holding o) ∧ Sound (holding o) ∧ Settled (holding o) := by
  refine ⟨⟨rfl, rfl, ?_, ?_, ?_, ?_⟩, ⟨rfl, rfl, ?_, ?_, ?_, ?_⟩, ⟨rfl, rfl, ?_, ?_⟩, fun sc => ⟨rfl, rfl, ?_, ?_, ?_, ?_⟩, plain⟩
  all_goals first | decide +kernel | (cases sc <;> decide +kernel)

/-- A store and a load at the home, four bytes each (R223). -/
theorem test_global_store : (match exec (.storeComplete 11 20) (holding storeFar) with
    | .next t => memNat t.mem 0x8000 8
    | _ => 0) = 0x1122334411223344 := by decide +kernel
theorem test_global_load : (match exec (.loadComplete 11 20) { holding loadFar with mem := memPut [] 0x8000 (leBytes 8 0x5566778811223344) } with
    | .next t => ((t.v 40 0).toNat, (t.v 40 1).toNat)
    | _ => (0, 0)) = (0x11223344, 0x55667788) := by decide +kernel

/-- The user squad with engine operations: tacc.zero of two rows, a copy of one sector from global memory to the scratchpad, one back,
one between global ranges and one to the peer's scratchpad. -/
def engine1 (e : Engine) (x y z : Nat) : Op :=
  { load1 with cls := .cp, act := .engine e 4 (BitVec.ofNat 64 x) (BitVec.ofNat 64 y) (BitVec.ofNat 64 z) 0 (Vector.replicate 32 0) }
def tile1 (e : Engine) : Op := { engine1 e 0 2 0 with cls := .tl }
def sourced : State := { system with mem := memPut [] 0x8000 (List.replicate 64 7) }

/-- A chunk of one sector read at 0x8000, its pieces, and the pieces of one to write at 0x9000. -/
def keysAt (a : Nat) : List (Nat × Nat × Nat) := [(a, a, 64)]
def isKeys (ks : List (Nat × Nat × Nat)) : Reached → Bool
  | .keys k => k == ks
  | _ => false
theorem paired (x : State × Reached) {k : List (Nat × Nat × Nat)} (h : isKeys k x.2 = true) : ∃ u, x = (u, .keys k) := by
  obtain ⟨a, b⟩ := x
  cases b <;> simp_all [isKeys]
theorem reached {need : Need} (a : Nat) (h : a = 0x8000 ∨ a = 0x9000) (w : need = needR ∨ need = needW) :
    ∃ u, reachRanges sourced (engine1 .cpyGG 0x8000 0x9000 64) need ((plainShape 64).runs a (64 / 64 + 2) 0 64) = (u, .keys (keysAt a)) := by
  rcases h with rfl | rfl <;> rcases w with rfl | rfl <;> exact paired _ (by decide +kernel)

/-- States that meet the hypotheses of EngineOperationsMoveTheirBytes. -/
theorem witness_EngineOperationsMoveTheirBytes :
    ((having (tile1 .taccZero)).checkout 11 = some (having (tile1 .taccZero)) ∧ findOp (having (tile1 .taccZero)) 20 = some (tile1 .taccZero) ∧
      mayRun (having (tile1 .taccZero)).sq (tile1 .taccZero) = true ∧ (having (tile1 .taccZero)).myCrew = some crew7 ∧ crew7.rows ≤ 3072 ∧
      (having (tile1 .taccZero)).latent = [] ∧ (∀ x ∈ (having (tile1 .taccZero)).l1, x.dirty = 0 ∧ x.pinned = false) ∧
      ∃ r, exec (.engineOperationComplete 11 20) (having (tile1 .taccZero)) = .next r) ∧
    (∀ need a, a = 0x8000 ∨ a = 0x9000 → need = needR ∨ need = needW →
      ∃ u, reachRanges sourced (engine1 .cpyGG 0x8000 0x9000 64) need ((plainShape 64).runs a (64 / 64 + 2) 0 64) = (u, .keys (keysAt a))) ∧
    (chunkLen (plainShape 64) none 0 = 64 ∧ chunkLen (plainShape 64) (some 0x9000) 0 = 64 ∧ 0x100 + 0 + 64 ≤ crew7.spadBytes ∧
      0x100 + 0 + 64 ≤ crew8.spadBytes ∧ sourced.myCrew = some crew7 ∧ sourced.peerCrew = some crew8 ∧
      spadPoison sourced crew7.storage 0x100 64 = false) ∧
    ((readKeys sourced (keysAt 0x8000)).2 = (List.replicate 64 7, none) ∧
      (writeKeys sourced true load1 (keysAt 0x9000) (List.replicate 64 7)).2 = none ∧ (∀ p ∈ keysAt 0x9000, toControl sourced p.2.1 = false) ∧
      (keysAt 0x9000).Pairwise (fun p q => p.2.1 + p.2.2 ≤ q.2.1) ∧ (List.replicate 64 (7 : Byte)).length = ((keysAt 0x9000).map fun p => p.2.2).sum) ∧
    (crew7.storage.Nodup ∧ crew7.storage.length ≤ 32 ∧ 0x1FFC0 + (List.replicate 64 (7 : Byte)).length ≤ 65536 * crew7.storage.length) ∧
    (slotCount 1 = 12 ∧ slotCount 2 = 8 ∧ -(2 ^ (slotPlanes 1 - 1) : Nat) ≤ (-16 : Int) ∧ (15 : Int) < (2 ^ (slotPlanes 1 - 1) : Nat)) := by
  refine ⟨⟨rfl, rfl, ?_, ?_, ?_, ?_, ?_, _, rfl⟩, fun _ a h w => reached a h w, ?_, ?_, ?_, ?_⟩ <;> decide +kernel

/-- Values of RoundingIsExact: a tie of FP16, which goes to the even neighbour, and operands of the quotient and the root. -/
theorem witness_RoundingIsExact :
    (fp16 ∈ [fp32, fp16, bf16, e5m2, e4m3, e2m1] ∧ 0 < 2049 ∧ (fp16.round 0 false 2049 0 false).beyond = false ∧
      (0 : Int) ≤ (fp16.round 0 false 2049 0 false).q ∧ (fp16.round 0 false 2049 0 false).n = 1024) ∧
    (0 < 1 ∧ 3 < 16777216 ∧ (fp32.round 0 false (18446744073709551616 / 3) (-64) true).beyond = false) ∧ ((-149 : Int) ≤ 0 ∧ (0 : Int) ≤ 104) := by
  decide +kernel

/-- A crew of two roles is placed: its three squads, with s2 the launch record, and the third at the second role's entry (R30, R31). -/
def rec2 : Record := { rec9 with roles := [⟨0, 2, 128⟩, ⟨0x20, 1, 128⟩], args := 0x5000, priv := 64, privBase := 0x100000, resid := 0xFFFF }
def placed : State := (placeCrew (running mc) { grid9 with r := rec2 } 1 5).1
theorem witness_ResetAndEntryValues : placed.parked.length = (running mc).parked.length + 3 ∧
    (placed.parked.map fun q => ((q.regs.sreg 2).toNat, (q.regs.sreg 3).toNat, (vget q.thr.pc 0).toNat)) =
      [(0x10000, 0x100000 + 96 * 64, 0x1000), (0x10000, 0x100000 + 96 * 64, 0x1000), (0x10000, 0x100000 + 96 * 64, 0x1040)] := by decide +kernel

/-- FramedHome and FramedBank: a grid of the queue's context waits for nothing, and no operation touches the crew's banks. -/
theorem witness_FrameOfHomesAndBankModes : (∀ g ∈ (begun semed).grids, g.pend0 = false ∧ g.pend1 = false) ∧
    (begun user).myCrew = some crew7 ∧ ((begun user).squads.any fun q => q.ident.crew == crew7.id && q.ops.any Op.touchesBanks) = false ∧
    (∃ t, exec .bankCompute user = .next t) ∧ ∃ t, exec (.semRead 8 12) semed = .next t :=
  ⟨by decide +kernel, by decide +kernel, by decide +kernel, ⟨_, rfl⟩, _, rfl⟩

/-- ScratchpadAccessesLand and FrameOfCompletions: two accesses that lie apart, of lanes of their own. -/
theorem witness_ScratchpadAccessesLand : let a : Access := ⟨0, 0, bankKey 160 0, 4, 7, 0, none⟩
    let b : Access := ⟨1, 4, bankKey 160 4, 4, 8, 0, none⟩
    [a, b] = [] ++ a :: [b] ∧ a.pa + a.n ≤ b.pa ∧ ([a, b].map (·.lane)).Nodup ∧ [a, b].filter (goneBank user .scratch) = [] ∧
    (∀ c ∈ [a, b], anyPoison user c.pa c.n = false ∧ c.lane < 32 ∧ 4 ≤ c.n ∧ c.n ≤ 8) := by decide +kernel

/-! ### States that meet the hypotheses of the statements about values and engines -/

/-- Numbers for the clauses of BitfieldStatements: a field from position 31 of width 32, signed, and the last bit. -/
theorem witness_bits : (31 < 32 ∧ (0xFF < 256 ∧ 3 < 4)) ∧ (11 ≤ 11 ∧ (Machine.Num.nan true).isNan = true) := by decide +kernel

/-- Operands of every kind for the clauses on `f32`, `frnd`, `cvtfi`, `mxq` and `mxscale`. -/
theorem witness_operands :
    (f32 user 0x7FC00000 = .nan false ∧ f32 user 0x7F800001 = .nan true ∧ f32 user 0xFF800000 = .inf true ∧ f32 user 0x40200000 = .fin false 10485760 (-22)) ∧
    (fp32.operand (ftzOn user) 0x7FC00000 = .nan false ∧ fp16.operand (ftzOn user) 0x7C00 = .inf false ∧
      bf16.operand (ftzOn user) 0xBF80 = .fin true 128 (-7) ∧ 95 < 128 ∧ 95 % 4 ≤ 3 ∧ 94 % 4 ≤ 2 ∧ 94 / 4 % 8 = 7 ∧ 118 < 128 ∧ 118 % 4 ≤ 2 ∧ 118 / 4 % 8 ≤ 5) ∧
    (53 < 64 ∧ 53 % 8 ≤ 5 ∧ 53 / 8 % 4 ≤ 2) ∧ 254 < 255 ∧
    (let xs : List Machine.Num := [.fin true 3 (-1), .fin false 5 (-2), .fin false 0 7]
     (xs.all fun x => match x with
       | .fin _ m q => decide (units (min q (-1)) q m ≤ units (min q (-1)) (-1) 3)
       | _ => false) = true ∧ Machine.Num.fin true 3 (-1) ∈ xs ∧ units (min (-1) 0) 0 1 ≤ units (min (-1) 0) (-1) 3 ∧
       units (min (-1) 0) (-1) 3 < 2 * units (min (-1) 0) 0 1) := by decide +kernel

/-- A range that an engine reads, as plain data. -/
def readsAll (s : State) (o : Op) (rs : List (Nat × Nat)) : Bool := match reachRanges s o needR rs with
  | (u, .keys ks) => (readKeys u ks).2.2 == none
  | _ => false
theorem reads_all {s : State} {o : Op} {rs : List (Nat × Nat)} (h : readsAll s o rs = true) :
    ∃ u ks t bs, reachRanges s o needR rs = (u, .keys ks) ∧ readKeys u ks = (t, bs, none) := by
  unfold readsAll at h
  split at h
  · next u ks e => exact ⟨u, ks, _, _, e, Prod.ext rfl (Prod.ext rfl (by simpa using h))⟩
  · simp at h

/-- And ranges that it writes. -/
def reachesAll (s : State) (o : Op) (rs : List (Nat × Nat)) (P : State → List (Nat × Nat × Nat) → Bool) : Bool :=
  match reachRanges s o needW rs with
  | (u, .keys ks) => P u ks
  | _ => false
theorem reaches_all {s : State} {o : Op} {rs : List (Nat × Nat)} {P : State → List (Nat × Nat × Nat) → Bool} (h : reachesAll s o rs P = true) :
    ∃ u ks, reachRanges s o needW rs = (u, .keys ks) ∧ P u ks = true := by
  unfold reachesAll at h
  split at h
  · next u ks e => exact ⟨u, ks, e, h⟩
  · simp at h

/-- The system squad with window 0 armed, and 64 bytes at 0x8000 whose line the LLC holds. -/
def armedSys : State := { sourced.setCtx 0 { sourced.ctx 0 with wins := [win3] } with llc := [⟨0x8000, 0, 3, 0, false, [], 0, 0, 0, 0⟩] }

/-- States that meet the hypotheses on bank loads and transforms: the crew's first compute bank and a residency bank, an image in memory, and
the last slot of FP4. -/
theorem witness_EngineOperationsMoveTheirBytes_banks :
    (crew7.mapped 0 = some 163 ∧ crew7.mapped 1 = some 162 ∧ crew7.storage[1]? = some 161 ∧ sourced.myCrew = some crew7) ∧
    (∃ u ks t bs, reachRanges sourced load1 needR [(0x8000 + 0 * imageBytes 1, imageBytes 1)] = (u, .keys ks) ∧ readKeys u ks = (t, bs, none)) ∧
    (2 < 3 ∧ 11 < slotCount 1 ∧ (List.replicate (imageBytes 1) (0 : Byte)).length = imageBytes 1 ∧ sourced.latent = []) := by
  refine ⟨by decide +kernel, reads_all (by decide +kernel), by decide +kernel⟩

/-- The steps of a drain of one row to 0x8000 that write its line. -/
def drained1 (u : State) (ks : List (Nat × Nat × Nat)) : Bool :=
  let outs := drainOutputs u 0 0x8000 0 0 0 ((List.range (drainRows 0)).map fun i => rowRead u 7 (accRow 0 + i))
  let w := writeLines (noteWritten u 20 ks) (placeOutputs ks outs.1)
  w.2 == none && (poisonOutputs w.1 0 0 0 crew7 outs.1 ks).2 == none

/-- States that meet the hypotheses of TileInstructions on results: one row by one bank, an activation tile in the scratchpad, and rows to
drain, read, write, add and scale at both ends of the crew's. -/
theorem witness_TileInstructions_results :
    (accRow 0 + actRows 0 * bankCount 0 ≤ crew7.rows ∧ crew7.mapped (bankFirst 0 + 0) = some 163 ∧ slotBad sourced 163 (weightFmt 0) (bankSlot 0) = false ∧
      bankCount 0 ≤ 0 + 1 ∧ actOff 0 + tileBytes (actFmt 0) (actRows 0) ≤ crew7.spadBytes ∧ tilePoison sourced crew7 (actFmt 0) 0 = false ∧
      0 + 1 < bankCount 32) ∧
    (∃ u ks, reachRanges sourced load1 needW (drainRanges 0 0x8000 0 0) = (u, .keys ks) ∧ drained1 u ks = true) ∧
    (drainRows 3 % 4 = 0 ∧ drainRows 0 = 1 ∧ (rowRead sourced 7 0).length = 128) ∧
    (crew7.rows = 192 ∧ accRow 191 + (1 : DWord).toNat ≤ crew7.rows ∧ (96 : DWord).toNat ≤ 96) ∧
    (∃ u ks t bs, reachRanges sourced load1 needR [(0x8000, 16 * dotBytes 0)] = (u, .keys ks) ∧ readKeys u ks = (t, bs, none)) ∧
    ((64 = 0 ∨ 0x1FFC0 + 64 ≤ crew7.spadBytes) ∧ spadPoison sourced crew7.storage 0x1FFC0 64 = false) := by
  refine ⟨by decide +kernel, reaches_all (by decide +kernel), by decide +kernel, by decide +kernel, reads_all (by decide +kernel), by decide +kernel⟩

/-- Two rows that lie apart are written as whole pieces. -/
theorem witness_TileInstructions_lines : Legible (holding load1) ∧ Sound (holding load1) ∧
    (writeLines (holding load1) [(0, 0x8000, List.replicate 512 5), (1, 0x8200, List.replicate 64 6)]).2 = none ∧ apart 0x8000 512 0x8200 64 :=
  ⟨(plain load1).1, (plain load1).2.1, by decide +kernel, by delta apart; decide +kernel⟩

/-- States that meet the hypotheses of ArrayInstructions on results: an armed window, its last elements, and a range to load and to store. -/
theorem witness_ArrayInstructions_results :
    armedWin armedSys (vecWin 0) = some win3 ∧ win3.size - 1 + 1 ≤ win3.size ∧ 0 < win3.size ∧
    (∃ u ks t bs, reachRanges armedSys load1 needR [(0x8000, 1 * 16)] = (u, .keys ks) ∧ readKeys u ks = (t, bs, none)) ∧
    ∃ u ks, reachRanges armedSys load1 needW [(0x8000, 1 * 16)] = (u, .keys ks) ∧
      ((writeKeys u false load1 ks (List.replicate 16 0)).2 == none) = true := by
  refine ⟨by decide +kernel, by decide +kernel, by decide +kernel, reads_all (by decide +kernel), reaches_all (by decide +kernel)⟩

/-- The system squad beside one stack of four pages. -/
def stacked : State := { system with dev := { system.dev with regions := [(3, 0x20000, 0x40000, 512)] } }
def isAt (k : Nat) : Nat ⊕ TrFault → Bool
  | .inl a => a == k
  | _ => false

/-- States that meet the hypotheses of InStackInstructions: two pages of a stack, a page of none, and an address beyond memory. -/
theorem witness_InStackInstructions :
    isAt 0x20000 (resolve stacked true 5 0 0x20000 needLeaf).2 = true ∧ isAt 0x50000 (resolve stacked true 5 0 0x50000 needW).2 = true ∧
    stackPage stacked 0x20000 = some (3, 512) ∧ stackPage stacked 0x50000 = some (3, 515) ∧ stackPage stacked 0x60000 = none ∧
    inBacking stacked 0 0x20000 0x20000 65536 = false ∧ rowWaits stacked 0x20000 (some 0x50000) = false ∧
    (match (resolve stacked true 5 0 paSpace needLeaf).2 with
      | .inr f => f.cause = 0x45
      | _ => False) := by
  refine ⟨by decide +kernel, by decide +kernel, by decide +kernel, by decide +kernel, by decide +kernel, by decide +kernel, by decide +kernel, ?_⟩
  show (0x45 : Nat) = 0x45
  rfl

/-- A register number of at most 127 outside the squad's allotment of 64 registers (R198), and descriptors that `retain` refuses (R333). -/
def small64 : State := (user.onSq fun q => { q with ident := { q.ident with allot := 64 } }).setX 12 100
theorem witness_outside_allotment : small64.sq.ident.allot < 100 + 5 ∧ 100 < 124 ∧ issues (.movx 4 12) small64 = true ∧
    (createResid mc (List.replicate 32 0)).2 = 3 ∧ (destroyResid mc 63 65535).2 = 1 ∧ (spareLane mc 87 31 15).2 = 1 := by decide +kernel

/-! ### Results worked out from the rules -/

/-- `bfe` of a signed field of width 4 at position 28, `bfi` of width 16 at 24, and the lookup above the table (R195, R200). -/
theorem test_bfe : (after (.bfe 4 8 12) (two 0x9ABCDEF0 0x1041C)).v 4 0 = 0xFFFFFFF9 := by decide +kernel
theorem test_frnd : (after (.frnd 4 8 0) (user.setV 8 allLanes fun _ => 0x40200000)).v 4 0 = 0x40000000 := by decide +kernel
theorem test_fclass : (after (.fclass 4 8) (user.setV 8 allLanes fun _ => 0x80000001)).v 4 0 = 0x10 := by decide +kernel

/-- A line of zeros has code 8 and no sector, and one of 56 words that are not 0 is stored raw (R102). -/
theorem test_compress_ends : compressLine (List.replicate 512 0) = (8, []) ∧
    (compressLine ((List.replicate 55 ([1, 0, 0, 0, 0, 0, 0, 0] : List Byte)).flatten ++ List.replicate 72 0)).1 = 7 ∧
    (compressLine ((List.replicate 56 ([1, 0, 0, 0, 0, 0, 0, 0] : List Byte)).flatten ++ List.replicate 64 0)).1 = 0 := by decide +kernel

/-- The digest of the message abc begins with these bytes: the published example of FIPS 202, outside the spec (log 111). -/
theorem test_sha3 : (sha3_256 [0x61, 0x62, 0x63]).take 4 = [0x3A, 0x98, 0x5D, 0xA7] := by decide +kernel

end Sys2Proof.Tests
end

section
/-! SUPPORT. Decoding inverts encoding (R17, R138, R141 to R155): a word as a base and fields in their places, what the decoder reads
of such a word, and one lemma per instruction. -/

namespace Sys2Proof.Laws

namespace RoundTrip

/-! ### Words as fields in their places -/

/-- A field of an instruction: its width, its value, and its lowest bit in the word. -/
structure Field where
  n  : Nat
  x  : BitVec n
  lo : Nat

/-- The word that a base and fields make; `encode` writes its words so. -/
def word (base : Nat) (fs : List Field) : Nat := fs.foldl (fun w f => w + put f.x f.lo) base

@[simp] theorem word_nil (base : Nat) : word base [] = base := by rw [word, List.foldl_nil]

@[simp] theorem word_cons {n : Nat} (base lo : Nat) (x : BitVec n) (fs : List Field) :
    word base (⟨n, x, lo⟩ :: fs) = word (base + put x lo) fs := by rw [word, List.foldl_cons, word]

/-- The fields D, A and B of classes R and M (R143). -/
abbrev dab (d a b : BitVec 7) : List Field := [⟨7, d, 11⟩, ⟨7, a, 18⟩, ⟨7, b, 25⟩]

theorem word3_eq (base : Nat) (d a b : BitVec 7) : word3 base d a b = word base (dab d a b) := by
  rw [word_cons, word_cons, word_cons, word_nil, word3]

/-- Do m bits from lo lie outside every field? -/
def clear (lo m : Nat) : List Field → Bool
  | [] => true
  | ⟨n, _, k⟩ :: fs => (decide (lo + m ≤ k) || decide (k + n ≤ lo)) && clear lo m fs

/-- Do the fields lie in a word of k bits, apart from each other, where the base holds zeros? -/
def placed (k base : Nat) : List Field → Bool
  | [] => base / 2 ^ k == 0
  | ⟨n, _, lo⟩ :: fs => bits base lo n == 0 && decide (lo + n ≤ k) && clear lo n fs && placed k base fs

/-- Every field reads as its value. -/
def Reads (w : Nat) : List Field → Prop
  | [] => True
  | ⟨n, x, lo⟩ :: fs => fld w lo n = x ∧ Reads w fs

theorem toNat_fld (w lo n : Nat) : (fld w lo n).toNat = bits w lo n := BitVec.toNat_ofNat _ _

theorem bits_add_below {w k lo m : Nat} (y : Nat) (h : lo + m ≤ k) : bits (w + y * 2 ^ k) lo m = bits w lo m := by
  obtain ⟨j, rfl⟩ := Nat.exists_eq_add_of_le h
  unfold bits
  rw [show y * 2 ^ (lo + m + j) = 2 ^ lo * (2 ^ m * (y * 2 ^ j)) by ring, Nat.add_mul_div_left _ _ (Nat.two_pow_pos lo),
    Nat.add_mul_mod_self_left]

/-- Where a word holds zeros, a value put there carries nowhere. -/
theorem put_zeros {w k n : Nat} (y : BitVec n) (z : bits w k n = 0) :
    bits (w + put y k) k n = y.toNat ∧ (w + put y k) / 2 ^ (k + n) = w / 2 ^ (k + n) := by
  have split : w / 2 ^ k = 2 ^ n * (w / 2 ^ (k + n)) := by
    rw [pow_add, ← Nat.div_div_eq_div_mul]
    exact (Nat.mul_div_cancel' (Nat.dvd_of_mod_eq_zero z)).symm
  have sum : (w + put y k) / 2 ^ k = y.toNat + 2 ^ n * (w / 2 ^ (k + n)) := by
    rw [put, Nat.add_mul_div_right _ _ (Nat.two_pow_pos k), split, Nat.add_comm]
  constructor
  · rw [bits, sum, Nat.add_mul_mod_self_left, Nat.mod_eq_of_lt y.isLt]
  · rw [pow_add, ← Nat.div_div_eq_div_mul, sum, Nat.add_mul_div_left _ _ (Nat.two_pow_pos n), Nat.div_eq_of_lt y.isLt, Nat.zero_add,
      pow_add]

/-- Bits outside a field put where the word held zeros. -/
theorem bits_put_apart {w k n lo m : Nat} (y : BitVec n) (z : bits w k n = 0) (h : lo + m ≤ k ∨ k + n ≤ lo) :
    bits (w + put y k) lo m = bits w lo m := by
  rcases h with h | h
  · exact bits_add_below _ h
  · obtain ⟨j, rfl⟩ := Nat.exists_eq_add_of_le h
    rw [bits, bits, pow_add, ← Nat.div_div_eq_div_mul, ← Nat.div_div_eq_div_mul, (put_zeros y z).2]

theorem placed_put {k base : Nat} {f : Field} (zero : bits base f.lo f.n = 0) (fits : f.lo + f.n ≤ k) :
    ∀ {gs : List Field}, clear f.lo f.n gs = true → placed k base gs = true → placed k (base + put f.x f.lo) gs = true
  | [], _, h => by
    obtain ⟨j, rfl⟩ := Nat.exists_eq_add_of_le fits
    simp only [placed, beq_iff_eq] at h ⊢
    rw [pow_add, ← Nat.div_div_eq_div_mul] at h ⊢
    rw [(put_zeros f.x zero).2, h]
  | g :: gs, c, h => by
    simp only [placed, clear, Bool.and_eq_true, Bool.or_eq_true, decide_eq_true_eq, beq_iff_eq] at h c ⊢
    obtain ⟨⟨⟨zero', fits'⟩, apart⟩, rest⟩ := h
    exact ⟨⟨⟨(bits_put_apart f.x zero c.1.symm).trans zero', fits'⟩, apart⟩, placed_put zero fits c.2 rest⟩

/-- Bits outside every field are the base's. -/
theorem bits_word {lo m k : Nat} : ∀ {fs : List Field} {base : Nat}, placed k base fs = true → clear lo m fs = true →
    bits (word base fs) lo m = bits base lo m
  | [], _, _, _ => rfl
  | f :: fs, base, p, c => by
    simp only [placed, clear, Bool.and_eq_true, Bool.or_eq_true, decide_eq_true_eq, beq_iff_eq] at p c
    obtain ⟨⟨⟨zero, fits⟩, apart⟩, rest⟩ := p
    exact (bits_word (placed_put zero fits apart rest) c.2).trans (bits_put_apart f.x zero c.1)

theorem reads_word {k : Nat} : ∀ {fs : List Field} {base : Nat}, placed k base fs = true → Reads (word base fs) fs
  | [], _, _ => trivial
  | f :: fs, base, p => by
    simp only [placed, Bool.and_eq_true, decide_eq_true_eq, beq_iff_eq] at p
    obtain ⟨⟨⟨zero, fits⟩, apart⟩, rest⟩ := p
    have after := placed_put (f := f) zero fits apart rest
    refine ⟨BitVec.eq_of_toNat_eq ?_, reads_word after⟩
    rw [toNat_fld]
    exact (bits_word after apart).trans (put_zeros f.x zero).1

theorem word_lt {k : Nat} : ∀ {fs : List Field} {base : Nat}, placed k base fs = true → word base fs < 2 ^ k
  | [], _, p => (Nat.div_eq_zero_iff_lt (Nat.two_pow_pos k)).1 (by simpa only [placed, word, List.foldl_nil, beq_iff_eq] using p)
  | f :: fs, base, p => by
    simp only [placed, Bool.and_eq_true, decide_eq_true_eq, beq_iff_eq] at p
    obtain ⟨⟨⟨zero, fits⟩, apart⟩, rest⟩ := p
    exact word_lt (base := base + put f.x f.lo) (placed_put zero fits apart rest)

/-! ### From words to bytes -/

/-- The word of an instruction, of 16 bits with bit 0 clear or of 32 bits with bit 0 set, decodes to the instruction (R138). -/
def ReadsBack (i : Instr) : Prop :=
  (∃ w, encode i = some (16, w) ∧ w < 2 ^ 16 ∧ w % 2 = 0 ∧ decode16 w = .ok i) ∨
    ∃ w, encode i = some (32, w) ∧ w < 2 ^ 32 ∧ w % 2 = 1 ∧ decode32 w = .ok i

theorem decodeBytes_halfword {w : Nat} (rest : List Byte) (lt : w < 2 ^ 16) (e : w % 2 = 0) :
    decodeBytes (wordBytes 2 w ++ rest) = some (decode16 w, 2) := by
  have value : w % 256 + 256 * (w / 256 % 256) = w := by omega
  have whole : w % 65536 = w := Nat.mod_eq_of_lt lt
  simp only [wordBytes, List.cons_append, List.nil_append, decodeBytes, BitVec.toNat_ofNat, Nat.reducePow, value, e, if_true, decode, whole]

theorem decodeBytes_word {w : Nat} (rest : List Byte) (lt : w < 2 ^ 32) (e : w % 2 = 1) :
    decodeBytes (wordBytes 4 w ++ rest) = some (decode32 w, 4) := by
  have low : w % 256 + 256 * (w / 256 % 256) = w % 65536 := by omega
  have high : w / 256 / 256 % 256 + 256 * (w / 256 / 256 / 256 % 256) = w / 65536 := by omega
  have odd : w % 65536 % 2 = 1 := by omega
  have value : w % 65536 % 65536 + 65536 * (w / 65536 % 65536) = w := by omega
  simp only [wordBytes, List.cons_append, List.nil_append, decodeBytes, BitVec.toNat_ofNat, Nat.reducePow, low, high, odd, value, decode,
    Nat.one_ne_zero, if_false]

theorem ReadsBack.bytes {i : Instr} (h : ReadsBack i) (rest : List Byte) :
    ∃ bs, encodeBytes i = some bs ∧ (bs.length = 2 ∨ bs.length = 4) ∧ decodeBytes (bs ++ rest) = some (.ok i, bs.length) := by
  unfold encodeBytes
  obtain ⟨w, e, lt, even, dec⟩ | ⟨w, e, lt, odd, dec⟩ := h
  · exact ⟨wordBytes 2 w, by simp only [e, Option.map_some], .inl rfl, by rw [decodeBytes_halfword rest lt even, dec]; rfl⟩
  · exact ⟨wordBytes 4 w, by simp only [e, Option.map_some], .inr rfl, by rw [decodeBytes_word rest lt odd, dec]; rfl⟩

/-! ### By class (R141 to R143): it is enough to decode any word whose fields read as the instruction's and whose other bits are
the base's. -/

/-- Does the word of a base and fields have n bits, and k in its low bits? -/
def formed (n k : Nat) (base : Nat) (fs : List Field) : Bool := placed n base fs && clear 0 3 fs && bits base 0 3 == k

/-- The claim about one word that is left for each instruction. -/
def Decodes (dec : Nat → Decoded) (i : Instr) (base : Nat) (fs : List Field) : Prop :=
  ∀ w, (∀ lo m, clear lo m fs = true → bits w lo m = bits base lo m) → Reads w fs → dec w = .ok i

theorem Decodes.word {dec : Nat → Decoded} {i : Instr} {base n k : Nat} {fs : List Field} (f : formed n k base fs = true)
    (d : Decodes dec i base fs) : word base fs < 2 ^ n ∧ bits (word base fs) 0 3 = k ∧ dec (word base fs) = .ok i := by
  simp only [formed, Bool.and_eq_true, beq_iff_eq] at f
  obtain ⟨⟨p, c⟩, low⟩ := f
  exact ⟨word_lt p, (bits_word p c).trans low, d _ (fun _ _ => bits_word p) (reads_word p)⟩

theorem of_R {i : Instr} {w : Nat} (base : Nat) (fs : List Field) (e : encode i = some (32, w)) (m : w = word base fs)
    (f : formed 32 1 base fs = true) (d : Decodes decodeR i base fs) : ReadsBack i := by
  subst m
  obtain ⟨lt, low, dec⟩ := d.word f
  have cls : bits (word base fs) 1 2 = 0 := by simp only [bits] at low ⊢; omega
  exact .inr ⟨_, e, lt, by simp only [bits] at low; omega, by simpa only [decode32, cls] using dec⟩

theorem of_I {i : Instr} {w : Nat} (base : Nat) (fs : List Field) (e : encode i = some (32, w)) (m : w = word base fs)
    (f : formed 32 3 base fs = true) (d : Decodes decodeI i base fs) : ReadsBack i := by
  subst m
  obtain ⟨lt, low, dec⟩ := d.word f
  have cls : bits (word base fs) 1 2 = 1 := by simp only [bits] at low ⊢; omega
  exact .inr ⟨_, e, lt, by simp only [bits] at low; omega, by simpa only [decode32, cls] using dec⟩

theorem of_L {i : Instr} {w : Nat} (base : Nat) (fs : List Field) (e : encode i = some (32, w)) (m : w = word base fs)
    (f : formed 32 5 base fs = true) (d : Decodes decodeL i base fs) : ReadsBack i := by
  subst m
  obtain ⟨lt, low, dec⟩ := d.word f
  have cls : bits (word base fs) 1 2 = 2 := by simp only [bits] at low ⊢; omega
  exact .inr ⟨_, e, lt, by simp only [bits] at low; omega, by simpa only [decode32, cls] using dec⟩

theorem of_M {i : Instr} {w : Nat} (base : Nat) (fs : List Field) (e : encode i = some (32, w)) (m : w = word base fs)
    (f : formed 32 7 base fs = true) (d : Decodes decodeM i base fs) : ReadsBack i := by
  subst m
  obtain ⟨lt, low, dec⟩ := d.word f
  have cls : bits (word base fs) 1 2 = 3 := by simp only [bits] at low ⊢; omega
  exact .inr ⟨_, e, lt, by simp only [bits] at low; omega, by simpa only [decode32, cls] using dec⟩

theorem of_halfword {i : Instr} {w : Nat} (base : Nat) (fs : List Field) (e : encode i = some (16, w)) (m : w = word base fs)
    (f : (placed 16 base fs && clear 0 1 fs && base % 2 == 0) = true) (d : Decodes decode16 i base fs) : ReadsBack i := by
  subst m
  simp only [Bool.and_eq_true, beq_iff_eq] at f
  obtain ⟨⟨p, c⟩, even⟩ := f
  have low := bits_word p c
  exact .inl ⟨_, e, word_lt p, by simp only [bits] at low; omega, d _ (fun _ _ => bits_word p) (reads_word p)⟩

/-! ### Forms that many instructions share -/
theorem of_half2 {i : BitVec 5 → BitVec 5 → Instr} {d a : BitVec 5} {base : Nat}
    (e : encode (i d a) = some (16, base + put d 6 + put a 11))
    (f : (placed 16 base [⟨5, d, 6⟩, ⟨5, a, 11⟩] && clear 0 1 [⟨5, d, 6⟩, ⟨5, a, 11⟩] && base % 2 == 0) = true)
    (dec : ∀ w, bits w 1 5 = bits base 1 5 → decode16 w = .ok (i (fld w 6 5) (fld w 11 5))) : ReadsBack (i d a) :=
  of_halfword base [⟨5, d, 6⟩, ⟨5, a, 11⟩] e (by simp) f fun w g ⟨ed, ea, _⟩ => by rw [dec w (g 1 5 rfl), ed, ea]

theorem of_dab {i : BitVec 7 → BitVec 7 → BitVec 7 → Instr} {d a b : BitVec 7} {base : Nat}
    (e : encode (i d a b) = some (32, word3 base d a b)) (f : formed 32 1 base (dab d a b) = true)
    (dec : ∀ w, bits w 3 8 = bits base 3 8 → decodeR w = .ok (i (fld w 11 7) (fld w 18 7) (fld w 25 7))) : ReadsBack (i d a b) :=
  of_R base (dab d a b) e (word3_eq base d a b) f fun w g ⟨ed, ea, eb, _⟩ => by rw [dec w (g 3 8 rfl), ed, ea, eb]

theorem of_da {i : BitVec 7 → BitVec 7 → Instr} {d a : BitVec 7} {base : Nat}
    (e : encode (i d a) = some (32, base + put d 11 + put a 18)) (f : formed 32 1 base [⟨7, d, 11⟩, ⟨7, a, 18⟩] = true)
    (dec : ∀ w, bits w 3 8 = bits base 3 8 → bits w 25 7 = bits base 25 7 → decodeR w = .ok (i (fld w 11 7) (fld w 18 7))) :
    ReadsBack (i d a) :=
  of_R base [⟨7, d, 11⟩, ⟨7, a, 18⟩] e (by simp) f fun w g ⟨ed, ea, _⟩ => by rw [dec w (g 3 8 rfl) (g 25 7 rfl), ed, ea]

theorem of_imm {i : BitVec 7 → BitVec 7 → BitVec 10 → Instr} {d a : BitVec 7} {imm : BitVec 10} {base : Nat}
    (e : encode (i d a imm) = some (32, base + put d 8 + put a 15 + put imm 22))
    (f : formed 32 3 base [⟨7, d, 8⟩, ⟨7, a, 15⟩, ⟨10, imm, 22⟩] = true)
    (dec : ∀ w, bits w 3 5 = bits base 3 5 → decodeI w = .ok (i (fld w 8 7) (fld w 15 7) (fld w 22 10))) : ReadsBack (i d a imm) :=
  of_I base [⟨7, d, 8⟩, ⟨7, a, 15⟩, ⟨10, imm, 22⟩] e (by simp) f fun w g ⟨ed, ea, eb, _⟩ => by rw [dec w (g 3 5 rfl), ed, ea, eb]

theorem of_subDab {i : BitVec 7 → BitVec 7 → BitVec 7 → Instr} {d a b : BitVec 7} {base : Nat}
    (e : encode (i d a b) = some (32, word3 base d a b)) (f : formed 32 7 base (dab d a b) = true)
    (dec : ∀ w, bits w 3 5 = bits base 3 5 → bits w 8 3 = bits base 8 3 →
      decodeM w = .ok (i (fld w 11 7) (fld w 18 7) (fld w 25 7))) : ReadsBack (i d a b) :=
  of_M base (dab d a b) e (word3_eq base d a b) f fun w g ⟨ed, ea, eb, _⟩ => by rw [dec w (g 3 5 rfl) (g 8 3 rfl), ed, ea, eb]

theorem of_subDa {i : BitVec 7 → BitVec 7 → Instr} {d a : BitVec 7} {base : Nat}
    (e : encode (i d a) = some (32, base + put d 11 + put a 18)) (f : formed 32 7 base [⟨7, d, 11⟩, ⟨7, a, 18⟩] = true)
    (dec : ∀ w, bits w 3 5 = bits base 3 5 → bits w 8 3 = bits base 8 3 → bits w 25 7 = bits base 25 7 →
      decodeM w = .ok (i (fld w 11 7) (fld w 18 7))) : ReadsBack (i d a) :=
  of_M base [⟨7, d, 11⟩, ⟨7, a, 18⟩] e (by simp) f fun w g ⟨ed, ea, _⟩ => by
    rw [dec w (g 3 5 rfl) (g 8 3 rfl) (g 25 7 rfl), ed, ea]

/-- The forms whose SUB is a field of the instruction: what is left is that SUB's values are assigned ones. -/
theorem of_sub {i : BitVec 3 → BitVec 7 → BitVec 7 → BitVec 7 → Instr} {u : BitVec 3} {d a b : BitVec 7} (base : Nat)
    (e : encode (i u d a b) = some (32, base + put u 8 + put d 11 + put a 18 + put b 25))
    (f : formed 32 7 base [⟨3, u, 8⟩, ⟨7, d, 11⟩, ⟨7, a, 18⟩, ⟨7, b, 25⟩] = true)
    (dec : ∀ w, bits w 3 5 = bits base 3 5 → bits w 8 3 = u.toNat →
      decodeM w = .ok (i (fld w 8 3) (fld w 11 7) (fld w 18 7) (fld w 25 7))) : ReadsBack (i u d a b) :=
  of_M base [⟨3, u, 8⟩, ⟨7, d, 11⟩, ⟨7, a, 18⟩, ⟨7, b, 25⟩] e (by simp) f fun w g ⟨eu, ed, ea, eb, _⟩ => by
    rw [dec w (g 3 5 rfl) (by rw [← toNat_fld, eu]), eu, ed, ea, eb]

/-! ### Conditions of well-formed instructions -/
theorem cases_of_storeWidth {u : BitVec 3} (h : Machine.storeWidth u = true) :
    u.toNat = 1 ∨ u.toNat = 3 ∨ u.toNat = 4 ∨ u.toNat = 5 ∨ u.toNat = 6 := by
  revert u; decide

theorem ok_of_wellFormed {i : Instr} (h : i.wellFormed = true) : ∃ x, (Machine.usesOf x i).ok = true := by
  simp only [Instr.wellFormed, Machine.fieldsOk, Machine.Uses.legal, Bool.and_eq_true, Bool.or_eq_true] at h
  obtain ⟨_, ⟨ok, _⟩ | ⟨ok, _⟩⟩ := h
  · exact ⟨_, ok⟩
  · exact ⟨_, ok⟩

/-- The steps of the device stand after the instructions. -/
theorem ctorIdx_lt_iff (i : Instr) : decide (i.ctorIdx < 339) = !(Machine.traitsOf i).device := by cases i <;> rfl

theorem ctorIdx_of_wellFormed {i : Instr} (ok : i.wellFormed = true) : i.ctorIdx < 339 := by
  rw [Instr.wellFormed, Bool.and_eq_true, ← ctorIdx_lt_iff, decide_eq_true_eq] at ok
  exact ok.1

/-! ### Memory instructions whose SUB is a field -/
theorem ld {u : BitVec 3} {d a b : BitVec 7} (ok : (Machine.usesLd u d a b).ok = true) : ReadsBack (.ld u d a b) :=
  of_sub 0x7 rfl rfl fun w op sub => by
    have top : u.toNat ≤ 6 := by simp only [Machine.usesLd, Bool.and_eq_true, decide_eq_true_eq] at ok; omega
    delta decodeM; rewrite [op, sub]; interval_cases u.toNat <;> rfl

theorem lds {u : BitVec 3} {d a b : BitVec 7} (ok : (Machine.usesLds u d a b).ok = true) : ReadsBack (.lds u d a b) :=
  of_sub 0x17 rfl rfl fun w op sub => by
    have top : u.toNat ≤ 6 := by simp only [Machine.usesLds, Bool.and_eq_true, decide_eq_true_eq] at ok; omega
    delta decodeM; rewrite [op, sub]; interval_cases u.toNat <;> rfl

theorem ldt {u : BitVec 3} {d a b : BitVec 7} (ok : (Machine.usesLdt u d a b).ok = true) : ReadsBack (.ldt u d a b) :=
  of_sub 0x27 rfl rfl fun w op sub => by
    have top : u.toNat ≤ 6 := by simp only [Machine.usesLdt, Bool.and_eq_true, decide_eq_true_eq] at ok; omega
    delta decodeM; rewrite [op, sub]; interval_cases u.toNat <;> rfl

theorem sld {u : BitVec 3} {d a b : BitVec 7} (ok : (Machine.usesSld u d a b).ok = true) : ReadsBack (.sld u d a b) :=
  of_sub 0x37 rfl rfl fun w op sub => by
    have top : u.toNat ≤ 5 := by simpa only [Machine.usesSld, decide_eq_true_eq] using ok
    delta decodeM; rewrite [op, sub]; interval_cases u.toNat <;> rfl

theorem bload {u : BitVec 3} {d a b : BitVec 7} (ok : (Machine.usesBload u d a b).ok = true) : ReadsBack (.bload u d a b) :=
  of_sub 0x9f rfl rfl fun w op sub => by
    have top : u.toNat ≤ 2 := by simpa only [Machine.usesBload, decide_eq_true_eq] using ok
    delta decodeM; rewrite [op, sub]; interval_cases u.toNat <;> rfl

theorem tmac {u : BitVec 3} {d a b : BitVec 7} (ok : (Machine.usesTmac u d a b).ok = true) : ReadsBack (.tmac u d a b) :=
  of_sub 0xaf rfl rfl fun w op sub => by
    have top : u.toNat ≤ 3 := by simpa only [Machine.usesTmac, decide_eq_true_eq] using ok
    delta decodeM; rewrite [op, sub]; interval_cases u.toNat <;> rfl

theorem tdrain {u : BitVec 3} {d a b : BitVec 7} (ok : (Machine.usesTdrain u d a b).ok = true) : ReadsBack (.tdrain u d a b) :=
  of_sub 0xb7 rfl rfl fun w op sub => by
    have top : u.toNat ≤ 6 := by simp only [Machine.usesTdrain, Bool.and_eq_true, decide_eq_true_eq] at ok; omega
    delta decodeM; rewrite [op, sub]; interval_cases u.toNat <;> rfl

theorem dotv {u : BitVec 3} {d a b : BitVec 7} (ok : (Machine.usesDotv u d a b).ok = true) : ReadsBack (.dotv u d a b) :=
  of_sub 0xcf rfl rfl fun w op sub => by
    have top : u.toNat ≤ 3 := by simp only [Machine.usesDotv, Bool.and_eq_true, decide_eq_true_eq] at ok; omega
    delta decodeM; rewrite [op, sub]; interval_cases u.toNat <;> rfl

theorem st {u : BitVec 3} {d a b : BitVec 7} (ok : (Machine.usesSt u d a b).ok = true) : ReadsBack (.st u d a b) :=
  of_sub 0xf rfl rfl fun w op sub => by
    obtain ⟨⟨_, width⟩, _⟩ : (_ ∧ Machine.storeWidth u = true) ∧ _ := by simpa only [Machine.usesSt, Bool.and_eq_true] using ok
    delta decodeM; rewrite [op, sub]
    obtain h | h | h | h | h := cases_of_storeWidth width
    all_goals rewrite [h]; rfl

theorem sts {u : BitVec 3} {d a b : BitVec 7} (ok : (Machine.usesSts u d a b).ok = true) : ReadsBack (.sts u d a b) :=
  of_sub 0x1f rfl rfl fun w op sub => by
    obtain ⟨width, _⟩ : Machine.storeWidth u = true ∧ _ := by
      simpa only [Machine.usesSts, Bool.and_eq_true, decide_eq_true_eq] using ok
    delta decodeM; rewrite [op, sub]
    obtain h | h | h | h | h := cases_of_storeWidth width
    all_goals rewrite [h]; rfl

theorem stt {u : BitVec 3} {d a b : BitVec 7} (ok : (Machine.usesStt u d a b).ok = true) : ReadsBack (.stt u d a b) :=
  of_sub 0x2f rfl rfl fun w op sub => by
    obtain ⟨width, _⟩ : Machine.storeWidth u = true ∧ _ := by
      simpa only [Machine.usesStt, Bool.and_eq_true, decide_eq_true_eq] using ok
    delta decodeM; rewrite [op, sub]
    obtain h | h | h | h | h := cases_of_storeWidth width
    all_goals rewrite [h]; rfl

theorem sst {u : BitVec 3} {d a b : BitVec 7} (ok : (Machine.usesSst u d a b).ok = true) : ReadsBack (.sst u d a b) :=
  of_sub 0x3f rfl rfl fun w op sub => by
    obtain ⟨width, five⟩ : Machine.storeWidth u = true ∧ u.toNat ≤ 5 := by
      simpa only [Machine.usesSst, Bool.and_eq_true, decide_eq_true_eq] using ok
    delta decodeM; rewrite [op, sub]
    have below : u.toNat = 1 ∨ u.toNat = 3 ∨ u.toNat = 4 ∨ u.toNat = 5 := by
      have := cases_of_storeWidth width; omega
    obtain h | h | h | h := below
    all_goals rewrite [h]; rfl

/-- SUB of `pref` is its field L with zeros above it. -/
theorem pref (l : BitVec 1) (a b : BitVec 7) : ReadsBack (.pref l a b) :=
  of_M 0x6f [⟨1, l, 8⟩, ⟨7, a, 18⟩, ⟨7, b, 25⟩] rfl (by simp) rfl fun w g ⟨el, rfl, rfl, _⟩ => by
    have sub : bits w 8 3 = l.toNat := by
      have low : bits w 8 1 = l.toNat := by rw [← toNat_fld, el]
      have high : bits w 9 2 = 0 := g 9 2 rfl
      simp only [bits] at low high ⊢
      omega
    have one := l.isLt
    delta decodeM; rewrite [g 3 5 rfl, sub, g 11 7 rfl, el]
    interval_cases l.toNat <;> rfl

/-! ### Every instruction, class by class: the range of constructors, then its instructions by the form of their words -/

/-- The 16-bit forms (R141, R142). -/
theorem readsBack_halfword {i : Instr} (range : (decide (0 ≤ i.ctorIdx) && decide (i.ctorIdx < 24)) = true) : ReadsBack i := by
  cases i
  case mov16 d a | add16 d a | sub16 d a | mul16 d a | and16 d a | or16 d a | xor16 d a | shl16 d a | shr16 d a | sar16 d a
      | fadd16 d a | fsub16 d a | fmul16 d a | fmin16 d a | fmax16 d a | fneg16 d a =>
    exact of_half2 rfl rfl fun w op => by delta decode16; rewrite [op]; exact rfl
  case nop =>
    exact of_halfword 0x2 [] rfl (word_nil _).symm rfl fun w g _ => by delta decode16; rewrite [g 1 5 rfl, g 6 10 rfl]; exact rfl
  case guard p n c =>
    exact of_halfword 0x6 [⟨3, p, 6⟩, ⟨1, n, 9⟩, ⟨2, c, 10⟩] rfl (by simp) rfl fun w g ⟨rfl, rfl, rfl, _⟩ => by
      delta decode16; rewrite [g 1 5 rfl, g 12 4 rfl]; exact rfl
  case ord sc o =>
    exact of_halfword 0xa [⟨3, sc, 6⟩, ⟨3, o, 9⟩] rfl (by simp) rfl fun w g ⟨rfl, rfl, _⟩ => by
      delta decode16; rewrite [g 1 5 rfl, g 12 4 rfl]; exact rfl
  case yield =>
    exact of_halfword 0xe [] rfl (word_nil _).symm rfl fun w g _ => by delta decode16; rewrite [g 1 5 rfl, g 6 10 rfl]; exact rfl
  case exit =>
    exact of_halfword 0x12 [] rfl (word_nil _).symm rfl fun w g _ => by delta decode16; rewrite [g 1 5 rfl, g 6 10 rfl]; exact rfl
  case ret =>
    exact of_halfword 0x16 [] rfl (word_nil _).symm rfl fun w g _ => by delta decode16; rewrite [g 1 5 rfl, g 6 10 rfl]; exact rfl
  case brk c =>
    exact of_halfword 0x1a [⟨10, c, 6⟩] rfl (by simp) rfl fun w g ⟨rfl, _⟩ => by delta decode16; rewrite [g 1 5 rfl]; exact rfl
  case wait0 m =>
    exact of_halfword 0x1e [⟨5, m, 6⟩] rfl (by simp) rfl fun w g ⟨rfl, _⟩ => by
      delta decode16; rewrite [g 1 5 rfl, g 11 5 rfl]; exact rfl
  all_goals exact (Bool.false_ne_true range).elim

/-- Class R up to the cross-lane forms (R151, R152, R190). -/
theorem readsBack_R_lane {i : Instr} (range : (decide (24 ≤ i.ctorIdx) && decide (i.ctorIdx < 146)) = true) : ReadsBack i := by
  cases i
  case add d a b | addS d a b | sub d a b | subS d a b | mul d a b | mulS d a b | mulhiI32 d a b | mulhiI32S d a b | mulhiN32 d a b
      | mulhiN32S d a b | and d a b | andS d a b | or d a b | orS d a b | xor d a b | xorS d a b | shl d a b | shlS d a b
      | shr d a b | shrS d a b | sar d a b | sarS d a b | minI32 d a b | minI32S d a b | maxI32 d a b | maxI32S d a b
      | minN32 d a b | minN32S d a b | maxN32 d a b | maxN32S d a b | addsatI32 d a b | addsatI32S d a b | subsatI32 d a b
      | subsatI32S d a b | mad d a b | madS d a b | prmt d a b | prmtS d a b | bfe d a b | bfeS d a b | bfi d a b | bfiS d a b
      | sext d a w | fadd d a b | faddS d a b | fsub d a b | fsubS d a b | fmul d a b | fmulS d a b | ffma d a b | ffmaS d a b
      | fnma d a b | fnmaS d a b | fmin d a b | fminS d a b | fmax d a b | fmaxS d a b | fdiv d a b | fdivS d a b | hadd2 d a b
      | hadd2S d a b | hmul2 d a b | hmul2S d a b | hfma2 d a b | hfma2S d a b | badd2 d a b | badd2S d a b | bmul2 d a b
      | bmul2S d a b | bfma2 d a b | bfma2S d a b | dot2 d a b | dot2S d a b | idot4 d a b | idot4S d a b | cvtfi d a sc
      | cvtif d a sc | cvtff d a sc | cvtpk d a sc | cvtup d a sc | shflIdx d a b | shflXor d a b | shflUp d a b | shflDn d a b
      | redsq d a o | scan d a o =>
    exact of_dab rfl rfl fun w op => by delta decodeR; rewrite [op]; exact rfl
  case popc d a | clz d a | brev d a | abs d a | neg d a | not d a | mov d a | movs d a | movx d a | movxr d a | fabs d a
      | fneg d a | frcp d a | frsq d a | fsqrt d a | fex2 d a | flg2 d a | fsin d a | fcos d a | ftanh d a | fclass d a
      | matchAny d a | matchFirst d a =>
    exact of_da rfl rfl fun w op b => by delta decodeR; rewrite [op, b]; exact rfl
  case setp p c a b =>
    exact of_R 0x151 [⟨3, p, 11⟩, ⟨4, c, 14⟩, ⟨7, a, 18⟩, ⟨7, b, 25⟩] rfl (by simp) rfl fun w g ⟨rfl, rfl, rfl, rfl, _⟩ => by
      delta decodeR; rewrite [g 3 8 rfl]; exact rfl
  case setpS p c a b =>
    exact of_R 0x159 [⟨3, p, 11⟩, ⟨4, c, 14⟩, ⟨7, a, 18⟩, ⟨7, b, 25⟩] rfl (by simp) rfl fun w g ⟨rfl, rfl, rfl, rfl, _⟩ => by
      delta decodeR; rewrite [g 3 8 rfl]; exact rfl
  case selp d a p n =>
    exact of_R 0x161 [⟨7, d, 11⟩, ⟨7, a, 18⟩, ⟨3, p, 25⟩, ⟨1, n, 28⟩] rfl (by simp) rfl fun w g ⟨rfl, rfl, rfl, rfl, _⟩ => by
      delta decodeR; rewrite [g 3 8 rfl, g 29 3 rfl]; exact rfl
  case fsetp p c a b =>
    exact of_R 0x271 [⟨3, p, 11⟩, ⟨4, c, 14⟩, ⟨7, a, 18⟩, ⟨7, b, 25⟩] rfl (by simp) rfl fun w g ⟨rfl, rfl, rfl, rfl, _⟩ => by
      delta decodeR; rewrite [g 3 8 rfl]; exact rfl
  case fsetpS p c a b =>
    exact of_R 0x279 [⟨3, p, 11⟩, ⟨4, c, 14⟩, ⟨7, a, 18⟩, ⟨7, b, 25⟩] rfl (by simp) rfl fun w g ⟨rfl, rfl, rfl, rfl, _⟩ => by
      delta decodeR; rewrite [g 3 8 rfl]; exact rfl
  case frnd d a m =>
    exact of_R 0x2e1 [⟨7, d, 11⟩, ⟨7, a, 18⟩, ⟨3, m, 25⟩] rfl (by simp) rfl fun w g ⟨rfl, rfl, rfl, _⟩ => by
      delta decodeR; rewrite [g 3 8 rfl, g 28 4 rfl]; exact rfl
  case mxscale d a fm =>
    exact of_R 0x3a9 [⟨7, d, 11⟩, ⟨7, a, 18⟩, ⟨1, fm, 25⟩] rfl (by simp) rfl fun w g ⟨rfl, rfl, rfl, _⟩ => by
      delta decodeR; rewrite [g 3 8 rfl, g 26 6 rfl]; exact rfl
  case mxq d a fm =>
    exact of_R 0x3b1 [⟨7, d, 11⟩, ⟨7, a, 18⟩, ⟨1, fm, 25⟩] rfl (by simp) rfl fun w g ⟨rfl, rfl, rfl, _⟩ => by
      delta decodeR; rewrite [g 3 8 rfl, g 26 6 rfl]; exact rfl
  case voteBallot d a n =>
    exact of_R 0x3f1 [⟨7, d, 11⟩, ⟨3, a, 18⟩, ⟨1, n, 21⟩] rfl (by simp) rfl fun w g ⟨rfl, rfl, rfl, _⟩ => by
      delta decodeR; rewrite [g 3 8 rfl, g 25 7 rfl, g 22 3 rfl]; exact rfl
  case voteAll d a n =>
    exact of_R 0x20003f1 [⟨3, d, 11⟩, ⟨3, a, 18⟩, ⟨1, n, 21⟩] rfl (by simp) rfl fun w g ⟨rfl, rfl, rfl, _⟩ => by
      delta decodeR; rewrite [g 3 8 rfl, g 25 7 rfl, g 14 4 rfl, g 22 3 rfl]; exact rfl
  case voteAny d a n =>
    exact of_R 0x40003f1 [⟨3, d, 11⟩, ⟨3, a, 18⟩, ⟨1, n, 21⟩] rfl (by simp) rfl fun w g ⟨rfl, rfl, rfl, _⟩ => by
      delta decodeR; rewrite [g 3 8 rfl, g 25 7 rfl, g 14 4 rfl, g 22 3 rfl]; exact rfl
  case voteUni d a n =>
    exact of_R 0x60003f1 [⟨3, d, 11⟩, ⟨3, a, 18⟩, ⟨1, n, 21⟩] rfl (by simp) rfl fun w g ⟨rfl, rfl, rfl, _⟩ => by
      delta decodeR; rewrite [g 3 8 rfl, g 25 7 rfl, g 14 4 rfl, g 22 3 rfl]; exact rfl
  case voteBallotHi d a n =>
    exact of_R 0x80003f1 [⟨7, d, 11⟩, ⟨3, a, 18⟩, ⟨1, n, 21⟩] rfl (by simp) rfl fun w g ⟨rfl, rfl, rfl, _⟩ => by
      delta decodeR; rewrite [g 3 8 rfl, g 25 7 rfl, g 22 3 rfl]; exact rfl
  all_goals exact (Bool.false_ne_true range).elim

/-- Class R from the scalar forms on (R151, R152). -/
theorem readsBack_R_scalar {i : Instr} (range : (decide (146 ≤ i.ctorIdx) && decide (i.ctorIdx < 214)) = true) : ReadsBack i := by
  cases i
  case sadd d a b | ssub d a b | smul d a b | smulhi d a b | sand d a b | sor d a b | sxor d a b | sshl d a b | sshr d a b
      | ssar d a b | smin d a b | smax d a b | sminn d a b | smaxn d a b | seq d a b | sne d a b | slt d a b | sle d a b
      | sltn d a b | slen d a b | sdivn d a b | sremn d a b | ssel d a b | rdlane d a b | wrlane d a b =>
    exact of_dab rfl rfl fun w op => by delta decodeR; rewrite [op]; exact rfl
  case smov d a | sclz d a | spopc d a | rdsr d n | wrsr n a | mfsr d n | mtsr n a | cchopWb d a | cchopWbinv d a | cchopInv d a
      | cchopUnkeep d a | survey d a | cxsave d a | cxrest d a | lnkctlPause d a | lnkctlResume d a | lnkctlSpare d a
      | lnkctlWidth d a | lnkctlClrretry d a | errrd d a | retainCreate d a | retainDestroy d a | retainQuery d a | mcctlMetard d a
      | mcctlMetawr d a | mcctlRetire d a =>
    exact of_da rfl rfl fun w op b => by delta decodeR; rewrite [op, b]; exact rfl
  case time d =>
    exact of_R 0x4e1 [⟨7, d, 11⟩] rfl (by simp) rfl fun w g ⟨rfl, _⟩ => by
      delta decodeR; rewrite [g 3 8 rfl, g 18 14 rfl]; exact rfl
  case pand d a x b y =>
    exact of_R 0x501 [⟨3, d, 11⟩, ⟨3, a, 18⟩, ⟨1, x, 21⟩, ⟨3, b, 25⟩, ⟨1, y, 28⟩] rfl (by simp) rfl
      fun w g ⟨rfl, rfl, rfl, rfl, rfl, _⟩ => by delta decodeR; rewrite [g 3 8 rfl, g 14 4 rfl, g 22 3 rfl, g 29 3 rfl]; exact rfl
  case por d a x b y =>
    exact of_R 0x509 [⟨3, d, 11⟩, ⟨3, a, 18⟩, ⟨1, x, 21⟩, ⟨3, b, 25⟩, ⟨1, y, 28⟩] rfl (by simp) rfl
      fun w g ⟨rfl, rfl, rfl, rfl, rfl, _⟩ => by delta decodeR; rewrite [g 3 8 rfl, g 14 4 rfl, g 22 3 rfl, g 29 3 rfl]; exact rfl
  case pxor d a x b y =>
    exact of_R 0x511 [⟨3, d, 11⟩, ⟨3, a, 18⟩, ⟨1, x, 21⟩, ⟨3, b, 25⟩, ⟨1, y, 28⟩] rfl (by simp) rfl
      fun w g ⟨rfl, rfl, rfl, rfl, rfl, _⟩ => by delta decodeR; rewrite [g 3 8 rfl, g 14 4 rfl, g 22 3 rfl, g 29 3 rfl]; exact rfl
  case pset d a =>
    exact of_R 0x519 [⟨3, d, 11⟩, ⟨7, a, 18⟩] rfl (by simp) rfl fun w g ⟨rfl, rfl, _⟩ => by
      delta decodeR; rewrite [g 3 8 rfl, g 14 4 rfl, g 25 7 rfl]; exact rfl
  case pget d a n =>
    exact of_R 0x521 [⟨7, d, 11⟩, ⟨3, a, 18⟩, ⟨1, n, 21⟩] rfl (by simp) rfl fun w g ⟨rfl, rfl, rfl, _⟩ => by
      delta decodeR; rewrite [g 3 8 rfl, g 22 10 rfl]; exact rfl
  case pmask d a h =>
    exact of_R 0x529 [⟨3, d, 11⟩, ⟨7, a, 18⟩, ⟨1, h, 25⟩] rfl (by simp) rfl fun w g ⟨rfl, rfl, rfl, _⟩ => by
      delta decodeR; rewrite [g 3 8 rfl, g 14 4 rfl, g 26 6 rfl]; exact rfl
  case tlbinvAll a =>
    exact of_R 0x611 [⟨7, a, 18⟩] rfl (by simp) rfl fun w g ⟨rfl, _⟩ => by
      delta decodeR; rewrite [g 3 8 rfl, g 25 7 rfl, g 11 7 rfl]; exact rfl
  case tlbinvCtx a =>
    exact of_R 0x2000611 [⟨7, a, 18⟩] rfl (by simp) rfl fun w g ⟨rfl, _⟩ => by
      delta decodeR; rewrite [g 3 8 rfl, g 25 7 rfl, g 11 7 rfl]; exact rfl
  case tlbinvPage a =>
    exact of_R 0x4000611 [⟨7, a, 18⟩] rfl (by simp) rfl fun w g ⟨rfl, _⟩ => by
      delta decodeR; rewrite [g 3 8 rfl, g 25 7 rfl, g 11 7 rfl]; exact rfl
  case halt a =>
    exact of_R 0x629 [⟨7, a, 18⟩] rfl (by simp) rfl fun w g ⟨rfl, _⟩ => by
      delta decodeR; rewrite [g 3 8 rfl, g 11 7 rfl, g 25 7 rfl]; exact rfl
  case sret =>
    exact of_R 0x641 [] rfl (word_nil _).symm rfl fun w g _ => by delta decodeR; rewrite [g 3 8 rfl, g 11 21 rfl]; exact rfl
  case wayctlQuar d =>
    exact of_R 0x669 [⟨7, d, 11⟩] rfl (by simp) rfl fun w g ⟨rfl, _⟩ => by
      delta decodeR; rewrite [g 3 8 rfl, g 25 7 rfl, g 18 7 rfl]; exact rfl
  case wayctlRelease d =>
    exact of_R 0x2000669 [⟨7, d, 11⟩] rfl (by simp) rfl fun w g ⟨rfl, _⟩ => by
      delta decodeR; rewrite [g 3 8 rfl, g 25 7 rfl, g 18 7 rfl]; exact rfl
  case wayctlDiscard d =>
    exact of_R 0x4000669 [⟨7, d, 11⟩] rfl (by simp) rfl fun w g ⟨rfl, _⟩ => by
      delta decodeR; rewrite [g 3 8 rfl, g 25 7 rfl, g 18 7 rfl]; exact rfl
  case trap a =>
    exact of_R 0x681 [⟨7, a, 18⟩] rfl (by simp) rfl fun w g ⟨rfl, _⟩ => by
      delta decodeR; rewrite [g 3 8 rfl, g 11 7 rfl, g 25 7 rfl]; exact rfl
  case rett =>
    exact of_R 0x689 [] rfl (word_nil _).symm rfl fun w g _ => by delta decodeR; rewrite [g 3 8 rfl, g 11 21 rfl]; exact rfl
  all_goals exact (Bool.false_ne_true range).elim

/-- Class I (R153). -/
theorem readsBack_I {i : Instr} (range : (decide (214 ≤ i.ctorIdx) && decide (i.ctorIdx < 237)) = true) : ReadsBack i := by
  cases i
  case addi d a imm | andi d a imm | ori d a imm | xori d a imm | shli d a imm | shri d a imm | sari d a imm | muli d a imm
      | lidx d a imm | saddi d a imm | sandi d a imm | sori d a imm | sxori d a imm | sshli d a imm | sshri d a imm | ssari d a imm
      | smuli d a imm | seqi d a imm | slti d a imm | sltni d a imm =>
    exact of_imm rfl rfl fun w op => by delta decodeI; rewrite [op]; exact rfl
  case setpi p c a imm =>
    exact of_I 0x43 [⟨3, p, 8⟩, ⟨4, c, 11⟩, ⟨7, a, 15⟩, ⟨10, imm, 22⟩] rfl (by simp) rfl fun w g ⟨rfl, rfl, rfl, rfl, _⟩ => by
      delta decodeI; rewrite [g 3 5 rfl]; exact rfl
  case movi d imm =>
    exact of_I 0x4b [⟨7, d, 8⟩, ⟨10, imm, 22⟩] rfl (by simp) rfl fun w g ⟨rfl, rfl, _⟩ => by
      delta decodeI; rewrite [g 3 5 rfl, g 15 7 rfl]; exact rfl
  case tlu d a t n =>
    exact of_I 0x53 [⟨7, d, 8⟩, ⟨7, a, 15⟩, ⟨7, t, 22⟩, ⟨3, n, 29⟩] rfl (by simp) rfl fun w g ⟨rfl, rfl, rfl, rfl, _⟩ => by
      delta decodeI; rewrite [g 3 5 rfl]; exact rfl
  all_goals exact (Bool.false_ne_true range).elim

/-- Class L (R154). -/
theorem readsBack_L {i : Instr} (range : (decide (237 ≤ i.ctorIdx) && decide (i.ctorIdx < 254)) = true) : ReadsBack i := by
  cases i
  case bra x =>
    exact of_L 0x5 [⟨24, x, 8⟩] rfl (by simp) rfl fun w g ⟨rfl, _⟩ => by delta decodeL; rewrite [g 3 5 rfl]; exact rfl
  case call x =>
    exact of_L 0xd [⟨24, x, 8⟩] rfl (by simp) rfl fun w g ⟨rfl, _⟩ => by delta decodeL; rewrite [g 3 5 rfl]; exact rfl
  case brp p n x =>
    exact of_L 0x15 [⟨3, p, 8⟩, ⟨1, n, 11⟩, ⟨20, x, 12⟩] rfl (by simp) rfl fun w g ⟨rfl, rfl, rfl, _⟩ => by
      delta decodeL; rewrite [g 3 5 rfl]; exact rfl
  case bsz r x =>
    exact of_L 0x1d [⟨6, r, 8⟩, ⟨18, x, 14⟩] rfl (by simp) rfl fun w g ⟨rfl, rfl, _⟩ => by
      delta decodeL; rewrite [g 3 5 rfl]; exact rfl
  case bsnz r x =>
    exact of_L 0x25 [⟨6, r, 8⟩, ⟨18, x, 14⟩] rfl (by simp) rfl fun w g ⟨rfl, rfl, _⟩ => by
      delta decodeL; rewrite [g 3 5 rfl]; exact rfl
  case li r imm =>
    exact of_L 0x2d [⟨6, r, 8⟩, ⟨18, imm, 14⟩] rfl (by simp) rfl fun w g ⟨rfl, rfl, _⟩ => by
      delta decodeL; rewrite [g 3 5 rfl]; exact rfl
  case ext x =>
    exact of_L 0x35 [⟨24, x, 8⟩] rfl (by simp) rfl fun w g ⟨rfl, _⟩ => by delta decodeL; rewrite [g 3 5 rfl]; exact rfl
  case wait l sc c t a =>
    exact of_L 0x3d [⟨5, l, 8⟩, ⟨5, sc, 13⟩, ⟨5, c, 18⟩, ⟨5, t, 23⟩, ⟨4, a, 28⟩] rfl (by simp) rfl
      fun w g ⟨rfl, rfl, rfl, rfl, rfl, _⟩ => by delta decodeL; rewrite [g 3 5 rfl]; exact rfl
  case brx x t =>
    exact of_L 0x45 [⟨7, x, 8⟩, ⟨6, t, 15⟩] rfl (by simp) rfl fun w g ⟨rfl, rfl, _⟩ => by
      delta decodeL; rewrite [g 3 5 rfl, g 21 11 rfl]; exact rfl
  case callx x t =>
    exact of_L 0x4d [⟨7, x, 8⟩, ⟨6, t, 15⟩] rfl (by simp) rfl fun w g ⟨rfl, rfl, _⟩ => by
      delta decodeL; rewrite [g 3 5 rfl, g 21 11 rfl]; exact rfl
  case barSync b n =>
    exact of_L 0x55 [⟨4, b, 8⟩, ⟨6, n, 14⟩] rfl (by simp) rfl fun w g ⟨rfl, rfl, _⟩ => by
      delta decodeL; rewrite [g 3 5 rfl, g 12 2 rfl, g 20 12 rfl]; exact rfl
  case barArrive b n =>
    exact of_L 0x1055 [⟨4, b, 8⟩, ⟨6, n, 14⟩] rfl (by simp) rfl fun w g ⟨rfl, rfl, _⟩ => by
      delta decodeL; rewrite [g 3 5 rfl, g 12 2 rfl, g 20 12 rfl]; exact rfl
  case barWait b =>
    exact of_L 0x2055 [⟨4, b, 8⟩] rfl (by simp) rfl fun w g ⟨rfl, _⟩ => by
      delta decodeL; rewrite [g 3 5 rfl, g 12 2 rfl, g 14 18 rfl]; exact rfl
  case tbarSync b n =>
    exact of_L 0x5d [⟨2, b, 8⟩, ⟨6, n, 12⟩] rfl (by simp) rfl fun w g ⟨rfl, rfl, _⟩ => by
      delta decodeL; rewrite [g 3 5 rfl, g 10 2 rfl, g 18 14 rfl]; exact rfl
  case tbarArrive b n =>
    exact of_L 0x45d [⟨2, b, 8⟩, ⟨6, n, 12⟩] rfl (by simp) rfl fun w g ⟨rfl, rfl, _⟩ => by
      delta decodeL; rewrite [g 3 5 rfl, g 10 2 rfl, g 18 14 rfl]; exact rfl
  case tbarWait b =>
    exact of_L 0x85d [⟨2, b, 8⟩] rfl (by simp) rfl fun w g ⟨rfl, _⟩ => by
      delta decodeL; rewrite [g 3 5 rfl, g 10 2 rfl, g 12 20 rfl]; exact rfl
  case setmode r z t w fm en =>
    exact of_L 0x65 [⟨2, r, 8⟩, ⟨1, z, 10⟩, ⟨5, t, 11⟩, ⟨1, w, 16⟩, ⟨1, fm, 17⟩, ⟨5, en, 18⟩] rfl (by simp) rfl
      fun w g ⟨rfl, rfl, rfl, rfl, rfl, rfl, _⟩ => by delta decodeL; rewrite [g 3 5 rfl, g 23 9 rfl]; exact rfl
  all_goals exact (Bool.false_ne_true range).elim

/-- Class M (R155); where SUB is a field, the conditions on fields leave its assigned values (R150, step 4). -/
theorem readsBack_M {i : Instr} (ok : i.wellFormed = true)
    (range : (decide (254 ≤ i.ctorIdx) && decide (i.ctorIdx < 339)) = true) : ReadsBack i := by
  cases i
  case atomAdd d a b | atomMinI32 d a b | atomMaxI32 d a b | atomMinN32 d a b | atomMaxN32 d a b | atomAnd d a b | atomOr d a b
      | atomXor d a b | atom2Exch d a b | atom2Cas d a b | atom2FaddF32 d a b | atom2FminF32 d a b | atom2FmaxF32 d a b
      | atom2AddI64 d a b | atom2ExchB64 d a b | atom2CasB64 d a b | qpushSpanTry d a b | qpopSpanTry d a b | semWait d a b
      | cpyGs d a b | cpySg d a b | cpyGg d a b | cpySp d a b | cpyGs2 d a b | cpySg2 d a b | cpyPin d a b | xformToplanes d a b
      | xformFromplanes d a b | xformFill d a b | xformZero d a b | xformChecksum d a b | taccRead d a b | taccWrite d a b
      | taccAdd d a b | taccScale d a b | arrLogic d a b | arrAddsub d a b | arrMul d a b | arrCmp d a b | arrSel d a b
      | arrShift d a b | arrxArm d a b | arrxLoad d a b | arrxStore d a b | stkRowcopy d a b =>
    exact of_subDab rfl rfl fun w op sub => by delta decodeM; rewrite [op, sub]; exact rfl
  case qpushSpan d a | qpopSpan d a | semAdd d a | launch d a | bankQuery d a | arrPopc d a | arrxDisarm d a | arrxFill d a
      | arrxQuery d a | stkRowzero d a | stkProbe d a | lnkTurn d a | lnkStatus d a =>
    exact of_subDa rfl rfl fun w op sub b => by delta decodeM; rewrite [op, sub, b]; exact rfl
  case ld => exact (ok_of_wellFormed ok).elim fun _ => ld
  case st => exact (ok_of_wellFormed ok).elim fun _ => st
  case lds => exact (ok_of_wellFormed ok).elim fun _ => lds
  case sts => exact (ok_of_wellFormed ok).elim fun _ => sts
  case ldt => exact (ok_of_wellFormed ok).elim fun _ => ldt
  case stt => exact (ok_of_wellFormed ok).elim fun _ => stt
  case sld => exact (ok_of_wellFormed ok).elim fun _ => sld
  case sst => exact (ok_of_wellFormed ok).elim fun _ => sst
  case satom fm d a b =>
    exact of_M 0x57 [⟨3, fm, 8⟩, ⟨7, d, 11⟩, ⟨7, a, 18⟩, ⟨7, b, 25⟩] rfl (by simp) rfl fun w g ⟨rfl, rfl, rfl, rfl, _⟩ => by
      delta decodeM; rewrite [g 3 5 rfl]; exact rfl
  case atoms fm d a b =>
    exact of_M 0x5f [⟨3, fm, 8⟩, ⟨7, d, 11⟩, ⟨7, a, 18⟩, ⟨7, b, 25⟩] rfl (by simp) rfl fun w g ⟨rfl, rfl, rfl, rfl, _⟩ => by
      delta decodeM; rewrite [g 3 5 rfl]; exact rfl
  case fence sc o y =>
    exact of_M 0x67 [⟨3, sc, 8⟩, ⟨3, o, 11⟩, ⟨1, y, 14⟩] rfl (by simp) rfl fun w g ⟨rfl, rfl, rfl, _⟩ => by
      delta decodeM; rewrite [g 3 5 rfl, g 15 17 rfl]; exact rfl
  case pref l a b => exact pref l a b
  case qpush d q =>
    exact of_M 0x77 [⟨7, d, 11⟩, ⟨4, q, 18⟩] rfl (by simp) rfl fun w g ⟨rfl, rfl, _⟩ => by
      delta decodeM; rewrite [g 3 5 rfl, g 8 3 rfl, g 22 10 rfl]; exact rfl
  case qpushTry d q b =>
    exact of_M 0x277 [⟨7, d, 11⟩, ⟨4, q, 18⟩, ⟨7, b, 25⟩] rfl (by simp) rfl fun w g ⟨rfl, rfl, rfl, _⟩ => by
      delta decodeM; rewrite [g 3 5 rfl, g 8 3 rfl, g 22 3 rfl]; exact rfl
  case qpop d q =>
    exact of_M 0x7f [⟨7, d, 11⟩, ⟨4, q, 18⟩] rfl (by simp) rfl fun w g ⟨rfl, rfl, _⟩ => by
      delta decodeM; rewrite [g 3 5 rfl, g 8 3 rfl, g 22 10 rfl]; exact rfl
  case qpopTry d q b =>
    exact of_M 0x27f [⟨7, d, 11⟩, ⟨4, q, 18⟩, ⟨7, b, 25⟩] rfl (by simp) rfl fun w g ⟨rfl, rfl, rfl, _⟩ => by
      delta decodeM; rewrite [g 3 5 rfl, g 8 3 rfl, g 22 3 rfl]; exact rfl
  case semRead a b =>
    exact of_M 0x287 [⟨7, a, 18⟩, ⟨7, b, 25⟩] rfl (by simp) rfl fun w g ⟨rfl, rfl, _⟩ => by
      delta decodeM; rewrite [g 3 5 rfl, g 8 3 rfl, g 11 7 rfl]; exact rfl
  case bload => exact (ok_of_wellFormed ok).elim fun _ => bload
  case tmac => exact (ok_of_wellFormed ok).elim fun _ => tmac
  case tdrain => exact (ok_of_wellFormed ok).elim fun _ => tdrain
  case taccZero a b =>
    exact of_M 0xbf [⟨7, a, 18⟩, ⟨7, b, 25⟩] rfl (by simp) rfl fun w g ⟨rfl, rfl, _⟩ => by
      delta decodeM; rewrite [g 3 5 rfl, g 8 3 rfl, g 11 7 rfl]; exact rfl
  case bankCompute =>
    exact of_M 0xc7 [] rfl (word_nil _).symm rfl fun w g _ => by
      delta decodeM; rewrite [g 3 5 rfl, g 8 3 rfl, g 11 21 rfl]; exact rfl
  case bankStorage =>
    exact of_M 0x1c7 [] rfl (word_nil _).symm rfl fun w g _ => by
      delta decodeM; rewrite [g 3 5 rfl, g 8 3 rfl, g 11 21 rfl]; exact rfl
  case bankAttach =>
    exact of_M 0x2c7 [] rfl (word_nil _).symm rfl fun w g _ => by
      delta decodeM; rewrite [g 3 5 rfl, g 8 3 rfl, g 11 21 rfl]; exact rfl
  case bankDetach =>
    exact of_M 0x3c7 [] rfl (word_nil _).symm rfl fun w g _ => by
      delta decodeM; rewrite [g 3 5 rfl, g 8 3 rfl, g 11 21 rfl]; exact rfl
  case dotv => exact (ok_of_wellFormed ok).elim fun _ => dotv
  case arrBcast d =>
    exact of_M 0x7d7 [⟨7, d, 11⟩] rfl (by simp) rfl fun w g ⟨rfl, _⟩ => by
      delta decodeM; rewrite [g 3 5 rfl, g 8 3 rfl, g 18 14 rfl]; exact rfl
  all_goals exact (Bool.false_ne_true range).elim

/-- The constructors stand in the order of the classes, and the steps of the device, which are not well-formed, after them. -/
theorem readsBack {i : Instr} (ok : i.wellFormed = true) : ReadsBack i := by
  have instr : i.ctorIdx < 339 := ctorIdx_of_wellFormed ok
  have range {a b : Nat} (h : a ≤ i.ctorIdx ∧ i.ctorIdx < b) : (decide (a ≤ i.ctorIdx) && decide (i.ctorIdx < b)) = true := by
    simpa using h
  obtain h | h | h | h | h | h : i.ctorIdx < 24 ∨ (24 ≤ i.ctorIdx ∧ i.ctorIdx < 146) ∨ (146 ≤ i.ctorIdx ∧ i.ctorIdx < 214) ∨
      (214 ≤ i.ctorIdx ∧ i.ctorIdx < 237) ∨ (237 ≤ i.ctorIdx ∧ i.ctorIdx < 254) ∨ (254 ≤ i.ctorIdx ∧ i.ctorIdx < 339) := by omega
  · exact readsBack_halfword (range ⟨Nat.zero_le _, h⟩)
  · exact readsBack_R_lane (range h)
  · exact readsBack_R_scalar (range h)
  · exact readsBack_I (range h)
  · exact readsBack_L (range h)
  · exact readsBack_M ok (range h)

end RoundTrip

/-- Settles O57: the word of each instruction is a base and fields in their places, which every arm of the decoder reads back. -/
theorem decodeInvertsEncode : Obligations.DecodeInvertsEncode := by
  unfold Obligations.DecodeInvertsEncode
  exact fun i rest ok => (RoundTrip.readsBack ok).bytes rest

end Sys2Proof.Laws
end

section
namespace Sys2Proof.Machine

/-! The canonical form of memory is kept (O58). Memory changes only where bytes are put, cleared or moved, and the laws of
`memPut`, `memClear`, `rawWrite`, `rowWrite`, `spadWrite` and `moveBank` say that each of these keeps the form.
Every other function of the model that hands a state on threads it through these. So each has one rule, in the model's order:
`f_wf` says that `f` answers a state whose memory is in the form if it is given one. Functions that take the rest of an
instruction as an argument keep the form if that argument does. An instruction's body answers an `Eff`, an engine a `Ran`,
a fetch a `Fetched` and a step a `Res`: each of these has its own reading of the form. -/

/-- The memory of every state that an answer carries is in the canonical form. -/
def Eff.wf : Eff → Prop
  | .done s | .switch s | .after _ s | .faultIn _ s | .halted s | .block _ s => Memory.wf s.mem
  | .fault _ | .consume _ _ | .stall | .hold => True

/-- The same for what a part of an engine's operation answers. -/
def Ran.wf : Ran → Prop
  | .ended s _ _ | .word s _ | .failed s _ | .part s _ _ | .waits s _ _ _ _ | .later s => Memory.wf s.mem

/-- The same for what a fetch answers. -/
def Fetched.wf : Fetched → Prop
  | .wait s | .fault _ s | .illegal s | .reserved _ _ s | .run _ _ s => Memory.wf s.mem
  | .idle => True

/-- The same for the next state of a step. -/
def Res.wf : Res → Prop
  | .next s => Memory.wf s.mem
  | .fault _ | .refused _ => True

/-- A state that is the first part of an answer. -/
theorem wf_of_eq {α : Type} {p : State × α} {t : State} {x : α} (e : p = (t, x)) (h : Memory.wf p.1.mem) : Memory.wf t.mem := by
  subst e
  exact h

theorem wf_mk {α : Type} {t : State} {x : α} (h : Memory.wf t.mem) : Memory.wf (t, x).1.mem := h

theorem wf_ite {α : Type} {c : Prop} [Decidable c] {p q : State × α} (h : Memory.wf p.1.mem) (k : Memory.wf q.1.mem) :
    Memory.wf (if c then p else q).1.mem := by
  split
  · exact h
  · exact k

theorem foldl_wf {α : Type} {f : State → α → State} (step : ∀ t a, Memory.wf t.mem → Memory.wf (f t a).mem) {s : State}
    {l : List α} (h : Memory.wf s.mem) : Memory.wf (l.foldl f s).mem :=
  foldl_keeps (P := fun t : State => Memory.wf t.mem) step l s h

theorem foldl_prod_wf {α β : Type} {f : State × β → α → State × β}
    (step : ∀ t a, Memory.wf t.1.mem → Memory.wf (f t a).1.mem) {p : State × β} {l : List α}
    (h : Memory.wf p.1.mem) : Memory.wf (l.foldl f p).1.mem :=
  foldl_keeps (P := fun t : State × β => Memory.wf t.1.mem) step l p h

theorem foldl_fst_wf {α β : Type} {f : State × β → α → State × β}
    (step : ∀ t a, Memory.wf t.1.mem → Memory.wf (f t a).1.mem) {s : State} {b : β} {l : List α}
    (h : Memory.wf s.mem) : Memory.wf (l.foldl f (s, b)).1.mem :=
  foldl_prod_wf step h

/-! The last-level cache, the lines of memory and the error ring. -/

theorem State.setPart_wf {s : State} {p : Nat} {x : Partition} (h : Memory.wf s.mem) : Memory.wf (s.setPart p x).mem :=
  h

theorem State.setQueue_wf {s : State} {q : Nat} {x : WorkQueue} (h : Memory.wf s.mem) : Memory.wf (s.setQueue q x).mem :=
  h

theorem State.setLink_wf {s : State} {n : Nat} {x : Link} (h : Memory.wf s.mem) : Memory.wf (s.setLink n x).mem :=
  h

theorem State.ticket_wf {s : State} (h : Memory.wf s.mem) : Memory.wf s.ticket.mem :=
  h

theorem State.countSurvey_wf {s : State} {record k n : Nat} (h : Memory.wf s.mem) : Memory.wf (s.countSurvey record k n).mem :=
  h

theorem llcSet_wf {s : State} {l : LlcLine} (h : Memory.wf s.mem) : Memory.wf (llcSet s l).mem :=
  h

theorem setMeta_wf {s : State} {line code : Nat} (h : Memory.wf s.mem) : Memory.wf (setMeta s line code).mem := by
  simp only [setMeta]
  split <;> exact h

theorem llcClean_wf {s : State} {a : Nat} (h : Memory.wf s.mem) : Memory.wf (llcClean s a).mem := by
  simp only [llcClean]
  repeat' split
  all_goals exact h

theorem llcShow_wf {s : State} {l : LlcLine} (h : Memory.wf s.mem) : Memory.wf (llcShow s l).mem := by
  simp only [llcShow]
  repeat' split
  all_goals exact h

theorem llcEvict_wf {s : State} {a : Nat} (h : Memory.wf s.mem) : Memory.wf (llcEvict s a).mem := by
  simp only [llcEvict]
  split
  · exact llcClean_wf h
  · exact llcShow_wf (llcClean_wf h)

theorem llcDiscard_wf {s : State} {a : Nat} (h : Memory.wf s.mem) : Memory.wf (llcDiscard s a).mem := by
  simp only [llcDiscard]
  split
  · exact h
  · exact llcShow_wf (by
      split
      · exact h
      · exact memPut_wf _ _ h)

theorem llcRoom_wf {s : State} {a : Nat} {ws : List Nat} (h : Memory.wf s.mem) : Memory.wf (llcRoom s a ws).mem := by
  simp only [llcRoom]
  split
  · exact h
  split
  · exact h
  split
  · exact h
  · exact llcEvict_wf h

theorem llcFill_wf {s : State} {ctx a : Nat} (h : Memory.wf s.mem) : Memory.wf (llcFill s ctx a).mem := by
  simp only [llcFill]
  split
  · exact h
  split
  · exact State.countSurvey_wf h
  split
  · exact State.countSurvey_wf h
  · exact llcSet_wf (State.ticket_wf (llcRoom_wf (State.countSurvey_wf h)))

theorem llcWrite_wf {s : State} {ctx line a n : Nat} (h : Memory.wf s.mem) : Memory.wf (llcWrite s ctx line a n).mem := by
  simp only [llcWrite]
  split <;> exact llcFill_wf h

theorem noteOld_wf {s : State} {a : Nat} {old : List Byte} (h : Memory.wf s.mem) : Memory.wf (noteOld s a old).mem := by
  simp only [noteOld]
  split <;> exact h

theorem homePut_wf {s : State} {ctx a : Nat} {bs : List Byte} (h : Memory.wf s.mem) : Memory.wf (homePut s ctx a bs).mem :=
  rawWrite_wf _ _ (foldl_wf (fun _ _ k => llcWrite_wf k) h)

theorem raiseEvent_wf {s : State} {k : Nat} (h : Memory.wf s.mem) : Memory.wf (raiseEvent s k).mem :=
  h

theorem countCorrected_wf {s : State} (h : Memory.wf s.mem) : Memory.wf (countCorrected s).mem :=
  h

theorem storeRecord_wf {s : State} {words : List Byte} (h : Memory.wf s.mem) : Memory.wf (storeRecord s words).mem :=
  homePut_wf h

theorem pushRecord_wf {s : State} {isFault : Bool} {w8 w10 w18 : Nat} (h : Memory.wf s.mem) :
    Memory.wf (pushRecord s isFault w8 w10 w18).mem := by
  simp only [pushRecord]
  refine raiseEvent_wf ?_
  split
  · exact storeRecord_wf h
  · exact h

theorem errorRecord_wf {s : State} {kind : Nat} {ctx : Option Nat} {structure_ aux unit addr info core : Nat}
    (h : Memory.wf s.mem) : Memory.wf (errorRecord s kind ctx structure_ aux unit addr info core).mem :=
  pushRecord_wf h

theorem metaRecord_wf {s : State} {line code : Nat} (h : Memory.wf s.mem) : Memory.wf (metaRecord s line code).mem :=
  errorRecord_wf h

theorem loseMeta_wf {s : State} {line : Nat} (h : Memory.wf s.mem) : Memory.wf (loseMeta s line).mem :=
  setMeta_wf h

theorem fetchMeta_wf {s : State} {line : Nat} (h : Memory.wf s.mem) : Memory.wf (fetchMeta s line).mem := by
  simp only [fetchMeta]
  split
  · exact metaRecord_wf (loseMeta_wf h)
  · exact h

theorem noteCode_wf {s : State} {line : Nat} (h : Memory.wf s.mem) : Memory.wf (noteCode s line).mem := by
  simp only [noteCode]
  split
  · exact metaRecord_wf (setMeta_wf h)
  · exact h

theorem reachLine_wf {s : State} {line : Nat} (h : Memory.wf s.mem) : Memory.wf (reachLine s line).mem :=
  noteCode_wf (fetchMeta_wf h)

theorem homeRead_wf {s : State} {ctx a n : Nat} (h : Memory.wf s.mem) : Memory.wf (homeRead s ctx a n).1.mem := by
  simp only [homeRead]
  split
  · exact foldl_wf (fun _ _ k => llcFill_wf (fetchMeta_wf k)) h
  · exact foldl_wf (fun _ _ k => noteCode_wf k) (foldl_wf (fun _ _ k => llcFill_wf (fetchMeta_wf k)) h)

theorem refuseWrite_wf {s : State} {line code : Nat} (h : Memory.wf s.mem) : Memory.wf (refuseWrite s line code).1.mem :=
  metaRecord_wf (setMeta_wf h)

theorem homeWritePart_wf {s : State} {ctx line a : Nat} {bs : List Byte} (h : Memory.wf s.mem) :
    Memory.wf (homeWritePart s ctx line a bs).1.mem := by
  simp only [homeWritePart]
  split
  · split
    · exact refuseWrite_wf (loseMeta_wf h)
    · split
      · exact homePut_wf (noteOld_wf (loseMeta_wf h))
      · split
        · exact refuseWrite_wf (loseMeta_wf h)
        · exact homePut_wf (noteOld_wf (loseMeta_wf h))
  split
  · exact refuseWrite_wf h
  split
  · exact homePut_wf (noteOld_wf h)
  split
  · exact refuseWrite_wf h
  · exact homePut_wf (noteOld_wf h)

theorem homeWrite_wf {s : State} {ctx a : Nat} {bs : List Byte} (h : Memory.wf s.mem) :
    Memory.wf (homeWrite s ctx a bs).1.mem := by
  simp only [homeWrite]
  split
  · exact homePut_wf (noteOld_wf h)
  · exact foldl_fst_wf (fun _ _ k => by exact homeWritePart_wf k) h

theorem homeWriteLine_wf {s : State} {ctx line : Nat} {bs : List Byte} (h : Memory.wf s.mem) :
    Memory.wf (homeWriteLine s ctx line bs).mem := by
  simp only [homeWriteLine]
  split
  · exact rawWrite_wf _ _ (llcWrite_wf (by
      split <;> exact noteOld_wf h))
  · exact homePut_wf (noteOld_wf h)

theorem homeMerge_wf {s : State} {ctx a : Nat} {data : BitVec 512} {mask : BitVec 64} (h : Memory.wf s.mem) :
    Memory.wf (homeMerge s ctx a data mask).1.mem := by
  simp only [homeMerge]
  split <;> exact homeWritePart_wf h

/-! Translation, and the device's own accesses by address. -/

theorem contigLeaf_wf {s : State} {table va e : Nat} (h : Memory.wf s.mem) : Memory.wf (contigLeaf s table va e).1.mem := by
  have k := homeRead_wf (ctx := 0) (a := table + 8 * (va / 65536 % 8192 / 32 * 32)) (n := 256) h
  unfold contigLeaf
  dsimp only
  repeat' split
  all_goals exact k

theorem readEntry_wf {s : State} {core level a : Nat} (h : Memory.wf s.mem) : Memory.wf (readEntry s core level a).1.mem := by
  simp only [readEntry]
  split
  · exact homeRead_wf h
  · exact h

theorem walk_wf {s : State} {core ctx va : Nat} (h : Memory.wf s.mem) : Memory.wf (walk s core ctx va).1.mem :=
  walk_keeps (Q := fun t => Memory.wf t.mem) (fun _ _ _ k => readEntry_wf k) (fun _ _ _ _ k => contigLeaf_wf k) h ctx va

theorem holdL1_wf {s : State} {core : Nat} {t : TlbEntry} (h : Memory.wf s.mem) : Memory.wf (holdL1 s core t).mem :=
  h

theorem holdL2_wf {s : State} {core : Nat} {t : TlbEntry} (h : Memory.wf s.mem) : Memory.wf (holdL2 s core t).mem :=
  h

theorem missWalk_wf {s : State} {core ctx va : Nat} (h : Memory.wf s.mem) : Memory.wf (missWalk s core ctx va).1.mem := by
  simp only [missWalk]
  split
  · exact h
  split
  · next e1 =>
      have r1 := wf_of_eq e1 (walk_wf h)
      split <;> exact r1
  · next e1 => exact (wf_of_eq e1 (walk_wf h) :)

theorem translate_wf {s : State} {core ctx va : Nat} {need : Need} (h : Memory.wf s.mem) :
    Memory.wf (translate s core ctx va need).1.mem := by
  unfold translate
  split
  · exact h
  split
  · exact wf_mk (holdL1_wf h)
  split
  · next e => exact (wf_of_eq e (missWalk_wf h) :)
  · next e => exact wf_mk (holdL1_wf (holdL2_wf (wf_of_eq e (missWalk_wf h))))

theorem resolve_wf {s : State} {priv : Bool} {core ctx va : Nat} {need : Need} (h : Memory.wf s.mem) :
    Memory.wf (resolve s priv core ctx va need).1.mem := by
  simp only [resolve]
  split
  · split <;> exact h
  split
  · exact h
  · exact translate_wf h

theorem resolveRange_wf {s : State} {priv : Bool} {core ctx va n : Nat} {need : Need} (h : Memory.wf s.mem) :
    Memory.wf (resolveRange s priv core ctx va n need).1.mem :=
  foldl_fst_wf (fun _ _ k => by
    split
    · exact k
    split
    · next e1 => exact (wf_of_eq e1 (resolve_wf k) :)
    · next e1 => exact (wf_of_eq e1 (resolve_wf k) :)) h

theorem deviceRead_wf {s : State} {priv : Bool} {ctx va n : Nat} (h : Memory.wf s.mem) :
    Memory.wf (deviceRead s priv ctx va n).1.mem := by
  simp only [deviceRead]
  split
  · exact h
  · next e =>
      have r := wf_of_eq e (resolveRange_wf h)
      exact foldl_fst_wf (fun _ _ k => by
        split
        · exact homeRead_wf k
        · exact k) r

theorem deviceWrite_wf {s : State} {priv : Bool} {ctx va : Nat} {bs : List Byte} (h : Memory.wf s.mem) :
    Memory.wf (deviceWrite s priv ctx va bs).1.mem := by
  simp only [deviceWrite]
  split
  · exact h
  · next e =>
      have r := wf_of_eq e (resolveRange_wf h)
      split
      · exact r
      · exact foldl_fst_wf (fun _ _ k => by
          split
          · exact homeWrite_wf k
          · exact k) r

/-! Squads: registers, traps, faults, and what `issue` does around an instruction's body. -/

theorem State.onSq_wf {s : State} {f : Squad → Squad} (h : Memory.wf s.mem) : Memory.wf (s.onSq f).mem :=
  h

theorem State.putV_wf {s : State} {n : Nat} {f : Nat → Word} (h : Memory.wf s.mem) : Memory.wf (s.putV n f).mem :=
  h

theorem State.setX_wf {s : State} {n : Nat} {x : DWord} (h : Memory.wf s.mem) : Memory.wf (s.setX n x).mem :=
  h

theorem State.setPc_wf {s : State} {m : Mask} {f : Nat → DWord} (h : Memory.wf s.mem) : Memory.wf (s.setPc m f).mem := by
  simp only [State.setPc]
  exact State.onSq_wf h

/-- A squad taken from the parked ones leaves memory as it is. -/
theorem State.checkout_mem {s : State} {id : Nat} {u : State} (e : s.checkout id = some u) : u.mem = s.mem := by
  simp only [State.checkout] at e
  split at e
  · cases e
    rfl
  · split at e
    · cases e
      rfl
    · cases e

theorem State.checkout_wf {s : State} {id : Nat} {u : State} (h : Memory.wf s.mem) (e : s.checkout id = some u) :
    Memory.wf u.mem :=
  State.checkout_mem e ▸ h

theorem State.setCrew_wf {s : State} {c : Crew} (h : Memory.wf s.mem) : Memory.wf (s.setCrew c).mem :=
  h

theorem State.setGrid_wf {s : State} {g : Grid} (h : Memory.wf s.mem) : Memory.wf (s.setGrid g).mem :=
  h

theorem faultRecord_wf {s : State} {f : FaultInfo} (h : Memory.wf s.mem) : Memory.wf (faultRecord s f).mem :=
  pushRecord_wf h

theorem setReady0_wf {s : State} {k : Nat} {b : Bool} (h : Memory.wf s.mem) : Memory.wf (setReady0 s k b).mem := by
  simp only [setReady0]
  split <;> exact h

theorem setReady1_wf {s : State} {k : Nat} {b : Bool} (h : Memory.wf s.mem) : Memory.wf (setReady1 s k b).mem := by
  simp only [setReady1]
  split <;> exact h

theorem stopMc_wf {s : State} (h : Memory.wf s.mem) : Memory.wf (stopMc s).mem :=
  setReady0_wf h

theorem stopSquad_wf {s : State} (h : Memory.wf s.mem) : Memory.wf (stopSquad s).mem := by
  simp only [stopSquad]
  split
  · exact stopMc_wf h
  · exact h

theorem enterSystem_wf {s : State} {group : Mask} {ret : DWord} {cause info0 info1 : Nat} (h : Memory.wf s.mem) :
    Memory.wf (enterSystem s group ret cause info0 info1).mem := by
  unfold enterSystem
  dsimp only
  split
  · exact stopSquad_wf (errorRecord_wf h)
  · exact State.onSq_wf h

theorem absentRecords_wf {s : State} {f : FaultInfo} (h : Memory.wf s.mem) : Memory.wf (absentRecords s f).mem :=
  foldl_wf (fun _ _ k => by
    split
    · exact k
    · exact faultRecord_wf k) h

theorem takeFault_wf {s : State} {f : FaultInfo} (h : Memory.wf s.mem) : Memory.wf (takeFault s f).mem := by
  simp only [takeFault]
  split
  · exact enterSystem_wf h
  split
  · exact absentRecords_wf h
  · exact stopSquad_wf (faultRecord_wf h)

theorem deliverTrap_wf {s : State} {cause : Nat} {lanes : Mask} {info : DWord} (h : Memory.wf s.mem) :
    Eff.wf (deliverTrap s cause lanes info) := by
  unfold deliverTrap
  dsimp only
  split
  · exact h
  split
  · exact h
  · exact State.onSq_wf h

theorem returnTrap_wf {s : State} (h : Memory.wf s.mem) : Eff.wf (returnTrap s) := by
  unfold returnTrap
  dsimp only
  split
  · trivial
  · exact State.onSq_wf h

theorem returnSystem_wf {s : State} (h : Memory.wf s.mem) : Eff.wf (returnSystem s) := by
  unfold returnSystem
  dsimp only
  split
  · trivial
  · exact State.onSq_wf h

theorem prepare_wf {s : State} (h : Memory.wf s.mem) : Memory.wf (prepare s).mem := by
  simp only [prepare]
  exact h

theorem endSequence_wf {s : State} (h : Memory.wf s.mem) : Memory.wf (endSequence s).mem :=
  h

theorem noteBegin_wf {s : State} (h : Memory.wf s.mem) : Memory.wf (noteBegin s).mem := by
  simp only [noteBegin]
  repeat' split
  all_goals exact h

theorem noteStart_wf {s : State} (h : Memory.wf s.mem) : Memory.wf (noteStart s).mem := by
  simp only [noteStart]
  split
  · exact noteBegin_wf h
  split
  · exact noteBegin_wf h
  · exact deviceWrite_wf (noteBegin_wf h)

theorem issued_wf {s : State} (h : Memory.wf s.mem) : Memory.wf (issued s).mem := by
  simp only [issued]
  split <;> exact h

theorem blockGroup_wf {s : State} {w : Blocked} (h : Memory.wf s.mem) : Memory.wf (blockGroup s w).mem :=
  h

theorem restoreThreads_wf {s u : State} (h : Memory.wf u.mem) : Memory.wf (restoreThreads s u).mem := h

theorem faultPoint_wf {s : State} {f : FaultInfo} {u : State} (h : Memory.wf u.mem) : Memory.wf (faultPoint s f u).mem := by
  simp only [faultPoint]
  split <;> exact h

theorem holdGroup_wf {s : State} (h : Memory.wf s.mem) : Memory.wf (holdGroup s).mem :=
  h

theorem FaultInfo.orStall_wf {f : FaultInfo} {s : State} (h : Memory.wf s.mem) : Eff.wf (FaultInfo.orStall f s) := by
  simp only [FaultInfo.orStall]
  split
  · exact trivial
  · exact h

theorem settle_wf {s : State} {e : Eff} (h : Memory.wf s.mem) (he : Eff.wf e) : Memory.wf (settle s e).mem := by
  cases e with
  | done u => exact endSequence_wf (issued_wf he)
  | switch u => exact endSequence_wf (State.onSq_wf (issued_wf he))
  | fault f => exact endSequence_wf (takeFault_wf h)
  | after f u => exact endSequence_wf (takeFault_wf (issued_wf he))
  | consume c f => exact endSequence_wf (takeFault_wf (State.onSq_wf h))
  | faultIn f u => exact endSequence_wf (takeFault_wf (faultPoint_wf he))
  | halted u => exact endSequence_wf he
  | stall => exact endSequence_wf h
  | hold => exact endSequence_wf (holdGroup_wf h)
  | block w u => exact endSequence_wf (blockGroup_wf (issued_wf (restoreThreads_wf he)))

theorem settleOwn_wf {s n : State} {e : Eff} (h : Memory.wf s.mem) (hn : Memory.wf n.mem) (he : Eff.wf e) :
    Memory.wf (settleOwn s n e).mem := by
  simp only [settleOwn]
  split
  · exact settle_wf h he
  · exact settle_wf h he
  · exact settle_wf hn he

theorem issue_wf {t : Traits} {u : Uses} {s : State} {body : State → Eff} (h : Memory.wf s.mem)
    (h2 : ∀ t, Memory.wf t.mem → Eff.wf (body t)) : Res.wf (issue t u s body) := by
  simp only [issue]
  split
  · exact settle_wf h trivial
  split
  · exact settle_wf h trivial
  split
  · exact settle_wf h trivial
  split
  · exact settle_wf (noteStart_wf h) trivial
  · exact settleOwn_wf h (noteStart_wf h) (h2 _ (prepare_wf (noteStart_wf h)))

theorem issueReserved_wf {t : Traits} {s : State} (h : Memory.wf s.mem) : Memory.wf (issueReserved t s).mem := by
  simp only [issueReserved]
  split <;> exact settle_wf h trivial

/-! The L1 caches, and the actions of release and acquire. -/

theorem l1Set_wf {s : State} {x : L1Sector} (h : Memory.wf s.mem) : Memory.wf (l1Set s x).mem :=
  h

theorem l1Drop_wf {s : State} {x : L1Sector} (h : Memory.wf s.mem) : Memory.wf (l1Drop s x).mem :=
  h

theorem stillWritable_wf {s : State} {x : L1Sector} (h : Memory.wf s.mem) : Memory.wf (stillWritable s x).1.mem := by
  simp only [stillWritable]
  split
  · exact h
  split
  · next e1 => exact (wf_of_eq e1 (walk_wf h) :)
  · next e1 => exact (wf_of_eq e1 (walk_wf h) :)

theorem writeBack_wf {s : State} {x : L1Sector} (h : Memory.wf s.mem) : Memory.wf (writeBack s x).mem := by
  simp only [writeBack]
  split
  · exact h
  split
  · next e1 => exact (wf_of_eq e1 (stillWritable_wf h) :)
  · next e1 =>
      have r1 := wf_of_eq e1 (stillWritable_wf h)
      split <;> exact homeMerge_wf r1

theorem evictSector_wf {s : State} {x : L1Sector} (h : Memory.wf s.mem) : Memory.wf (evictSector s x).mem := by
  simp only [evictSector]
  repeat' split
  all_goals exact writeBack_wf h

theorem evictL1Line_wf {s : State} {c line : Nat} (h : Memory.wf s.mem) : Memory.wf (evictL1Line s c line).1.mem :=
  foldl_wf (fun _ _ k => evictSector_wf k) h

theorem makeRoom_wf {c n : Nat} {s : State} {lines : List Nat} (h : Memory.wf s.mem) :
    Memory.wf (makeRoom c n s lines).1.mem := by
  induction n generalizing s lines with
  | zero => exact h
  | succ n ih =>
    simp only [makeRoom]
    split
    · exact h
    split
    · next e => exact wf_of_eq e (evictL1Line_wf h)
    · next e => exact ih (wf_of_eq e (evictL1Line_wf h))

theorem l1Room_wf {s : State} {core a : Nat} (h : Memory.wf s.mem) : Memory.wf (l1Room s core a).1.mem := by
  simp only [l1Room]
  split
  · exact h
  split
  · exact h
  · exact makeRoom_wf h

theorem fillAround_wf {s : State} {ctx : Nat} {x : L1Sector} (h : Memory.wf s.mem) : Memory.wf (fillAround s ctx x).mem := by
  simp only [fillAround]
  split
  · exact h
  · exact homeRead_wf h

theorem fillNew_wf {s : State} {core ctx a : Nat} (h : Memory.wf s.mem) : Memory.wf (fillNew s core ctx a).mem := by
  simp only [fillNew]
  refine l1Set_wf ?_
  split
  · exact State.countSurvey_wf (homeRead_wf h)
  · exact homeRead_wf h

theorem l1Fill_wf {s : State} {core ctx a : Nat} (h : Memory.wf s.mem) : Memory.wf (l1Fill s core ctx a).mem := by
  simp only [l1Fill]
  split
  · exact fillAround_wf h
  split
  · next e1 => exact fillNew_wf (wf_of_eq e1 (l1Room_wf h) :)
  · next e1 => exact (wf_of_eq e1 (l1Room_wf h) :)

theorem l1Load_wf {s : State} {core ctx a n : Nat} (h : Memory.wf s.mem) : Memory.wf (l1Load s core ctx a n).1.mem := by
  simp only [l1Load]
  split
  · split
    · exact h
    · exact l1Fill_wf h
  · exact homeRead_wf (by
      split
      · exact h
      · exact l1Fill_wf h)

theorem l1Store_wf {s : State} {core ctx va a : Nat} {bs : List Byte} (h : Memory.wf s.mem) :
    Memory.wf (l1Store s core ctx va a bs).mem := by
  simp only [l1Store]
  split
  · exact h
  split
  · next e1 => exact (wf_of_eq e1 (l1Room_wf h) :)
  · next e1 => exact homeWrite_wf (wf_of_eq e1 (l1Room_wf h) :)

theorem l1Forget_wf {s : State} {core a n : Nat} (h : Memory.wf s.mem) : Memory.wf (l1Forget s core a n).mem := by
  simp only [l1Forget]
  repeat' split
  all_goals exact h

theorem flushL1_wf {s : State} {core : Nat} (h : Memory.wf s.mem) : Memory.wf (flushL1 s core).mem :=
  foldl_wf (fun _ _ k => writeBack_wf k) h

theorem invalidateClean_wf {s : State} {core : Nat} (h : Memory.wf s.mem) : Memory.wf (invalidateClean s core).mem :=
  h

theorem evictRange_wf {s : State} {core a n : Nat} (h : Memory.wf s.mem) : Memory.wf (evictRange s core a n).mem :=
  foldl_wf (fun _ _ k => evictSector_wf k) h

theorem writeBackRange_wf {s : State} {core a n : Nat} (h : Memory.wf s.mem) : Memory.wf (writeBackRange s core a n).mem :=
  foldl_wf (fun _ _ k => writeBack_wf k) h

theorem dropRange_wf {s : State} {core a n : Nat} (h : Memory.wf s.mem) : Memory.wf (dropRange s core a n).mem :=
  h

theorem releaseAction_wf {s : State} {core scope : Nat} (h : Memory.wf s.mem) : Memory.wf (releaseAction s core scope).mem := by
  simp only [releaseAction]
  split
  · exact h
  · exact flushL1_wf h

theorem acquireAction_wf {s : State} {core scope : Nat} (h : Memory.wf s.mem) : Memory.wf (acquireAction s core scope).mem := by
  simp only [acquireAction]
  split <;> exact h

theorem deferredFaults_wf {s : State} (h : Memory.wf s.mem) : Memory.wf (deferredFaults s).1.mem := by
  simp only [deferredFaults]
  exact foldl_wf (fun _ _ k => l1Set_wf (pushRecord_wf k)) h

theorem withDeferred_wf {s : State} {k : State → Eff} (h : Memory.wf s.mem) (h2 : ∀ t, Memory.wf t.mem → Eff.wf (k t)) :
    Eff.wf (withDeferred s k) := by
  simp only [withDeferred]
  split
  · exact stopSquad_wf (State.setPc_wf (deferredFaults_wf (foldl_wf (fun _ _ k1 => by
      split
      · exact writeBack_wf k1
      · exact k1) h)))
  · exact h2 _ (deferredFaults_wf (foldl_wf (fun _ _ k1 => by
      split
      · exact writeBack_wf k1
      · exact k1) h))

/-! Accesses that pass the caches, and the registers of BAR0. -/

theorem writeQcfg_wf {s : State} {q : Nat} {v : DWord} (h : Memory.wf s.mem) : Memory.wf (writeQcfg s q v).mem := by
  simp only [writeQcfg]
  repeat' split
  all_goals exact h

theorem writeQbase_wf {s : State} {q : Nat} {v : DWord} (h : Memory.wf s.mem) : Memory.wf (writeQbase s q v).mem := by
  simp only [writeQbase]
  split <;> exact h

theorem barWriteWord_wf {s : State} {host : Bool} {off v mask : Nat} (h : Memory.wf s.mem) :
    Memory.wf (barWriteWord s host off v mask).mem := by
  simp only [barWriteWord]
  split
  · split <;> exact h
  split
  · exact h
  split
  · exact h
  split
  · split
    · exact h
    · split
      · exact writeQbase_wf h
      · exact writeQcfg_wf h
      · exact h
      · exact h
  · split <;> exact h

theorem barWrite_wf {s : State} {host : Bool} {off n v : Nat} (h : Memory.wf s.mem) :
    Memory.wf (barWrite s host off n v).mem := by
  simp only [barWrite]
  split
  · exact barWriteWord_wf h
  · exact h

theorem readPiece_wf {s : State} {home : Bool} {key n : Nat} {via : Option Nat} (h : Memory.wf s.mem) :
    Memory.wf (readPiece s home key n via).1.mem := by
  simp only [readPiece]
  split
  · exact h
  split
  · exact h
  split
  · exact homeRead_wf (evictRange_wf h)
  · exact l1Load_wf h

theorem writeThrough_wf {s : State} {key : Nat} {bs : List Byte} (h : Memory.wf s.mem) :
    Memory.wf (writeThrough s key bs).1.mem := by
  simp only [writeThrough]
  split
  · exact l1Forget_wf (homeWrite_wf h)
  · split <;> exact homeWrite_wf h

theorem writePiece_wf {s : State} {home : Bool} {va key : Nat} {bs : List Byte} {via : Option Nat} (h : Memory.wf s.mem) :
    Memory.wf (writePiece s home va key bs via).1.mem := by
  simp only [writePiece]
  split
  · exact barWrite_wf h
  split
  · exact h
  split
  · exact homeWrite_wf (evictRange_wf h)
  split
  · exact writeThrough_wf h
  · exact l1Store_wf h

theorem readWeak_wf {s : State} {va n : Nat} {lanes : Mask} (h : Memory.wf s.mem) :
    Memory.wf (readWeak s va n lanes).1.mem := by
  simp only [readWeak]
  split
  · next e => exact (wf_of_eq e (resolve_wf h) :)
  · next e =>
      have r := wf_of_eq e (resolve_wf h)
      split
      · exact r
      split
      · exact r
      · exact readPiece_wf r

theorem oldOrNew_wf {s : State} {key x : Nat} (h : Memory.wf s.mem) : Memory.wf (oldOrNew s key x).1.mem := by
  simp only [oldOrNew]
  split <;> exact h

/-! Fetching a sequence, and control. -/

theorem fetchHalf_wf {s : State} {pc : DWord} (h : Memory.wf s.mem) : Memory.wf (fetchHalf s pc).1.mem := by
  simp only [fetchHalf]
  split
  · exact h
  split
  · next e1 => exact (wf_of_eq e1 (resolve_wf h) :)
  · next e1 =>
      have r1 := wf_of_eq e1 (resolve_wf h)
      split
      · exact r1
      · exact r1
      split
      · exact r1
      split
      · exact homeRead_wf r1
      · exact oldOrNew_wf (homeRead_wf r1)

theorem fetchOne_wf {s : State} {pc : DWord} (h : Memory.wf s.mem) : Memory.wf (fetchOne s pc).1.mem := by
  simp only [fetchOne]
  split
  · next e => exact (wf_of_eq e (fetchHalf_wf h) :)
  · next e => exact (wf_of_eq e (fetchHalf_wf h) :)
  · next e =>
      have r := wf_of_eq e (fetchHalf_wf h)
      split
      · exact r
      split
      · next e2 => exact (wf_of_eq e2 (fetchHalf_wf r) :)
      · next e2 => exact (wf_of_eq e2 (fetchHalf_wf r) :)
      · next e2 => exact (wf_of_eq e2 (fetchHalf_wf r) :)

theorem fetchSeq_wf {n : Nat} {s : State} {pc : DWord} {ps : List Instr} {resv : Bool} (h : Memory.wf s.mem) :
    Fetched.wf (fetchSeq n s pc ps resv) := by
  induction n using Nat.strong_induction_on generalizing s pc ps resv with
  | _ n ih =>
    unfold fetchSeq
    split
    · next e => exact (wf_of_eq e (fetchOne_wf h) :)
    · next e => exact (wf_of_eq e (fetchOne_wf h) :)
    · next e =>
      have k := wf_of_eq e (fetchOne_wf h)
      dsimp only
      split
      · exact k
      · split
        · exact k
        · exact ih _ (Nat.lt_succ_self _) k
        · repeat' split
          all_goals exact k
      split
      · exact k
      · exact ih _ (Nat.lt_succ_self _) k
      · repeat' split
        all_goals exact k

theorem fetch_wf {s : State} (h : Memory.wf s.mem) : Fetched.wf (fetch s) := by
  simp only [fetch]
  split
  · exact trivial
  · exact fetchSeq_wf h

theorem setGuard_wf {p : BitVec 3} {neg : Bool} {n : Nat} {s : State} (h : Memory.wf s.mem) :
    Memory.wf (setGuard p neg n s).mem :=
  h

theorem branchTo_wf {s : State} {taken : Mask} {target : DWord} (h : Memory.wf s.mem) : Eff.wf (branchTo s taken target) := by
  simp only [branchTo]
  split
  · exact trivial
  · exact State.setPc_wf h

theorem link_wf {s : State} (h : Memory.wf s.mem) : Memory.wf (link s).mem :=
  h

theorem tableTarget_wf {s : State} {t n i l : Nat} (h : Memory.wf s.mem) : Memory.wf (tableTarget s t n i l).1.mem := by
  simp only [tableTarget]
  split
  · exact h
  split
  · next e1 => exact (wf_of_eq e1 (readWeak_wf h) :)
  · next e1 => exact (wf_of_eq e1 (readWeak_wf h) :)
  · next e1 =>
      have r1 := wf_of_eq e1 (readWeak_wf h)
      split
      · exact r1
      · repeat' split
        all_goals exact r1

theorem tableTargets_wf {s : State} {x a n : Nat} {g : Mask} (h : Memory.wf s.mem) : Memory.wf (tableTargets s x a n g).1.mem :=
  foldl_fst_wf (fun _ _ k => by
    split
    · next e => exact (wf_of_eq e (tableTarget_wf k) :)
    · next e => exact (wf_of_eq e (tableTarget_wf k) :)
    · next e => exact (wf_of_eq e (tableTarget_wf k) :)) h

theorem branchTable_wf {s : State} {x t : Nat} {call : Bool} (h : Memory.wf s.mem) : Eff.wf (branchTable s x t call) := by
  simp only [branchTable]
  split
  · exact trivial
  split
  · exact trivial
  split
  · next e2 => exact (wf_of_eq e2 (readWeak_wf h) :)
  · exact trivial
  · next e2 =>
      have r2 := wf_of_eq e2 (readWeak_wf h)
      split
      · exact r2
      split
      · exact trivial
      split
      · exact tableTargets_wf r2
      split
      · exact link_wf (State.setPc_wf (tableTargets_wf r2))
      · exact State.setPc_wf (tableTargets_wf r2)

theorem checkErrors_wf {s : State} {waited : OpClass → Bool} (h : Memory.wf s.mem) : Eff.wf (checkErrors s waited) := by
  simp only [checkErrors]
  split
  · exact trivial
  · exact h

theorem waitBody_wf {thr : List Nat} {s : State} (h : Memory.wf s.mem) : Eff.wf (waitBody thr s) := by
  simp only [waitBody]
  split
  · exact h
  split
  · exact withDeferred_wf h (fun _ k => checkErrors_wf k)
  · exact checkErrors_wf h

theorem addStats_wf {s : State} {tag sat flush nan : Nat} (h : Memory.wf s.mem) :
    Memory.wf (addStats s tag sat flush nan).mem := by
  simp only [addStats]
  repeat' split
  all_goals exact h

/-! The lanes' operations. -/

theorem finishFp_wf {s : State} {dreg dcnt : Nat} {pred : Bool} {fmt : Nat} {raised : List (Nat × Fx)} (h : Memory.wf s.mem) :
    Eff.wf (finishFp s dreg dcnt pred fmt raised) := by
  simp only [finishFp]
  split
  · exact h
  · exact deliverTrap_wf h

theorem putResults_wf {s : State} {d n : Nat} {rs : List (Nat × LaneRes)} (h : Memory.wf s.mem) :
    Memory.wf (putResults s d n rs).mem := by
  simp only [putResults]
  exact foldl_wf (fun _ _ k => State.putV_wf k) h

theorem fpLanes_wf {s : State} {d n fmt : Nat} {f : Nat → LaneRes} (h : Memory.wf s.mem) : Eff.wf (fpLanes s d n fmt f) :=
  finishFp_wf (putResults_wf h)

theorem fpTagged_wf {s : State} {d fmt : Nat} {f : Nat → LaneRes} (h : Memory.wf s.mem) : Eff.wf (fpTagged s d fmt f) :=
  finishFp_wf (addStats_wf (putResults_wf h))

theorem fp1_wf {s : State} {d : Nat} {f : Nat → FRes} (h : Memory.wf s.mem) : Eff.wf (fp1 s d f) :=
  fpLanes_wf h

theorem namedRegister_wf {t : State} {n : Nat} {k : Eff} (h : Eff.wf k) : Eff.wf (namedRegister t n k) := by
  simp only [namedRegister]
  split
  · exact trivial
  split
  · exact trivial
  · exact h

theorem fpLane2_wf {t : State} {d a : Nat} {b : Nat → Word} {f : Word → Word → FRes} (h : Memory.wf t.mem) :
    Eff.wf (fpLane2 t d a b f) :=
  fp1_wf h

theorem fpLane3_wf {t : State} {d a : Nat} {b : Nat → Word} {f : Word → Word → Word → FRes} (h : Memory.wf t.mem) :
    Eff.wf (fpLane3 t d a b f) :=
  fp1_wf h

theorem fpLane1_wf {t : State} {d a : Nat} {f : Word → FRes} (h : Memory.wf t.mem) : Eff.wf (fpLane1 t d a f) :=
  fp1_wf h

theorem compareFloat_wf {t : State} {p c a : Nat} {b : Nat → Word} (h : Memory.wf t.mem) : Eff.wf (compareFloat t p c a b) :=
  finishFp_wf h

theorem packedLanes_wf {t : State} {d fmt : Nat} {f : Nat → Nat → FRes} (h : Memory.wf t.mem) :
    Eff.wf (packedLanes t d fmt f) :=
  fpLanes_wf h

theorem packedAdd_wf {f : Fmt} {t : State} {d fmt a : Nat} {b : Nat → Word} (h : Memory.wf t.mem) :
    Eff.wf (packedAdd f t d fmt a b) :=
  packedLanes_wf h

theorem packedMul_wf {f : Fmt} {t : State} {d fmt a : Nat} {b : Nat → Word} (h : Memory.wf t.mem) :
    Eff.wf (packedMul f t d fmt a b) :=
  packedLanes_wf h

theorem packedFma_wf {f : Fmt} {t : State} {d fmt a : Nat} {b : Nat → Word} (h : Memory.wf t.mem) :
    Eff.wf (packedFma f t d fmt a b) :=
  packedLanes_wf h

theorem dotPair_wf {t : State} {d a : Nat} {b : Nat → Word} (h : Memory.wf t.mem) : Eff.wf (dotPair t d a b) :=
  fpLanes_wf h

theorem shuffle_wf {t : State} {d a : Nat} {src : Nat → Nat} (h : Memory.wf t.mem) : Eff.wf (shuffle t d a src) := by
  simp only [shuffle]
  split
  · exact trivial
  · exact h

theorem shuffleBy_wf {t : State} {d a b : Nat} {src : Nat → Nat → Nat} (h : Memory.wf t.mem) :
    Eff.wf (shuffleBy t d a b src) := by
  simp only [shuffleBy]
  split
  · exact trivial
  · exact shuffle_wf h

theorem putCombined_wf {t : State} {d : Nat} {rs : List Contrib} (h : Memory.wf t.mem) : Eff.wf (putCombined t d rs) :=
  fpLanes_wf h

/-! Loads, stores and atomics: their issue and their completion. -/

theorem raceWrite_wf {s : State} {crew o n : Nat} {strong : Bool} (h : Memory.wf s.mem) :
    Memory.wf (raceWrite s crew o n strong).mem := by
  simp only [raceWrite]
  repeat' split
  all_goals exact h

theorem reachGlobal_wf {s : State} {w : Want} {va : Nat} {lanes : Mask} (h : Memory.wf s.mem) :
    Memory.wf (reachGlobal s w va lanes).1.mem := by
  simp only [reachGlobal]
  split
  · exact h
  split
  · exact h
  split
  · next e2 => exact (wf_of_eq e2 (resolve_wf h) :)
  · next e2 =>
      have r2 := wf_of_eq e2 (resolve_wf h)
      split <;> exact r2

theorem reachScratch_wf {s : State} {c : Option Crew} {w : Want} {o : Nat} {lanes : Mask} (h : Memory.wf s.mem) :
    Memory.wf (reachScratch s c w o lanes).1.mem := by
  simp only [reachScratch]
  split
  · exact h
  split
  · exact h
  · repeat' split
    all_goals exact h

theorem reach_wf {s : State} {sp : Space} {w : Want} {va : Nat} {lanes : Mask} (h : Memory.wf s.mem) :
    Memory.wf (reach s sp w va lanes).1.mem := by
  simp only [reach]
  split
  · exact reachGlobal_wf h
  · exact reachScratch_wf h
  · exact reachScratch_wf h

theorem gather_wf {s : State} {sp : Space} {w : Want} {ls : List Nat} {va x y : Nat → Nat} (h : Memory.wf s.mem) :
    Memory.wf (gather s sp w ls va x y).1.mem :=
  foldl_fst_wf (fun _ _ k => by
    split
    · next e => exact (wf_of_eq e (reach_wf k) :)
    · next e => exact (wf_of_eq e (reach_wf k) :)) h

theorem orFault_wf {r : State × List Access × List FaultInfo} {k : State → List Access → Eff} (h : Memory.wf r.1.mem)
    (h2 : ∀ t x1, Memory.wf t.mem → Eff.wf (k t x1)) : Eff.wf (orFault r k) := by
  simp only [orFault]
  split
  · exact FaultInfo.orStall_wf h
  · exact h2 _ _ h

theorem raceWrites_wf {s : State} {sp : Space} {va : List (Nat × Nat)} {strong : Bool} (h : Memory.wf s.mem) :
    Memory.wf (raceWrites s sp va strong).mem := by
  simp only [raceWrites]
  split
  · exact h
  split
  · exact h
  · exact foldl_wf (fun _ _ k => raceWrite_wf k) h

theorem withLast_wf {s : State} {k : Option (Nat × Word) → Eff} (h : ∀ x0, Eff.wf (k x0)) : Eff.wf (withLast s k) := by
  simp only [withLast]
  split
  · exact h _
  split
  · exact trivial
  split
  · exact trivial
  split
  · exact trivial
  split
  · exact trivial
  · exact h _

theorem issueLoad_wf {s : State} {sp : Space} {w d : Nat} {va : Nat → Nat} {last : Option (Nat × Word)} (h : Memory.wf s.mem) :
    Eff.wf (issueLoad s sp w d va last) := by
  simp only [issueLoad]
  exact orFault_wf (gather_wf h) (fun _ _ k => k)

theorem issueStore_wf {s : State} {sp : Space} {w d : Nat} {va : Nat → Nat} (h : Memory.wf s.mem) :
    Eff.wf (issueStore s sp w d va) := by
  simp only [issueStore]
  exact orFault_wf (gather_wf h) (fun _ _ k => raceWrites_wf k)

theorem issueScalarLoad_wf {s : State} {w d va : Nat} (h : Memory.wf s.mem) : Eff.wf (issueScalarLoad s w d va) :=
  orFault_wf (gather_wf h) (fun _ _ k => k)

theorem issueScalarStore_wf {s : State} {w d va : Nat} (h : Memory.wf s.mem) : Eff.wf (issueScalarStore s w d va) := by
  simp only [issueScalarStore]
  exact orFault_wf (gather_wf h) (fun _ _ k => k)

theorem issueAtomic_wf {s : State} {sp : Space} {op : AtomOp} {n d : Nat} {va : Nat → Nat} (h : Memory.wf s.mem) :
    Eff.wf (issueAtomic s sp op n d va) := by
  simp only [issueAtomic]
  exact orFault_wf (gather_wf h) (fun _ _ k => raceWrites_wf k)

theorem issueScalarAtomic_wf {s : State} {op : AtomOp} {n d va : Nat} (h : Memory.wf s.mem) :
    Eff.wf (issueScalarAtomic s op n d va) := by
  simp only [issueScalarAtomic]
  exact orFault_wf (gather_wf h) (fun _ _ k => k)

theorem countDropped_wf {s : State} {ctx va key : Nat} (h : Memory.wf s.mem) : Memory.wf (countDropped s ctx va key).mem := by
  simp only [countDropped]
  exact h

theorem prefetch_wf {s : State} {llc : Bool} {va : Nat} (h : Memory.wf s.mem) : Memory.wf (prefetch s llc va).mem := by
  simp only [prefetch]
  split
  · exact h
  · next e =>
      have r := wf_of_eq e (resolve_wf h)
      split
      · exact countDropped_wf r
      split
      · exact r
      split
      · exact llcFill_wf (reachLine_wf r)
      · exact l1Fill_wf r

theorem finishOp_wf {s : State} {o : Op} {err : Option OpError} (h : Memory.wf s.mem) : Memory.wf (finishOp s o err).mem :=
  h

theorem readAccess_wf {s : State} {sp : Space} {home : Bool} {a : Access} (h : Memory.wf s.mem) :
    Memory.wf (readAccess s sp home a).1.mem := by
  simp only [readAccess]
  split
  · exact readPiece_wf h
  · exact h

theorem writeAccess_wf {s : State} {sp : Space} {home : Bool} {a : Access} {bs : List Byte} (h : Memory.wf s.mem) :
    Memory.wf (writeAccess s sp home a bs).1.mem := by
  simp only [writeAccess]
  split
  · exact writePiece_wf h
  · exact rawWrite_wf _ _ h

theorem landLane_wf {s : State} {d k l x : Nat} {first : Word} {poison : Bool} {va : Nat} (h : Memory.wf s.mem) :
    Memory.wf (landLane s d k l x first poison va).mem :=
  foldl_wf (fun _ _ k1 => by
    repeat' split
    all_goals exact k1) h

theorem landLoad_wf {s : State} {sp : Space} {home : Bool} {w d : Nat} {scalar : Bool} {a : Access} (h : Memory.wf s.mem) :
    Memory.wf (landLoad s sp home w d scalar a).mem := by
  simp only [landLoad]
  split
  · split <;> exact readAccess_wf h
  · exact landLane_wf (readAccess_wf h)

theorem acquireAfter_wf {s : State} {o : Op} {sp : Space} (h : Memory.wf s.mem) : Memory.wf (acquireAfter s o sp).mem := by
  simp only [acquireAfter]
  split
  · exact acquireAction_wf h
  · exact h

theorem releaseBefore_wf {s : State} {o : Op} {sp : Space} (h : Memory.wf s.mem) : Memory.wf (releaseBefore s o sp).mem := by
  simp only [releaseBefore]
  split
  · exact releaseAction_wf h
  · exact h

theorem unlessGone_wf {s : State} {o : Op} {sp : Space} {acc : List Access} {aux : Nat} {k : State} (h : Memory.wf s.mem)
    (h2 : Memory.wf k.mem) : Memory.wf (unlessGone s o sp acc aux k).mem := by
  simp only [unlessGone]
  split
  · exact h2
  · exact h

theorem completeLoad_wf {s : State} {o : Op} {sp : Space} {w d : Nat} {scalar : Bool} {acc : List Access}
    (h : Memory.wf s.mem) : Memory.wf (completeLoad s o sp w d scalar acc).mem :=
  unlessGone_wf h (acquireAfter_wf (foldl_wf (fun _ _ k => landLoad_wf k) h))

theorem completeStore_wf {s : State} {o : Op} {sp : Space} {acc : List Access} (h : Memory.wf s.mem) :
    Memory.wf (completeStore s o sp acc).mem := by
  simp only [completeStore]
  exact unlessGone_wf h (finishOp_wf (foldl_fst_wf (fun _ _ k => by exact writeAccess_wf k) (releaseBefore_wf h)))

theorem atomLocation_wf {s : State} {sp : Space} {home : Bool} {op : AtomOp} {ls : List Access} (h : Memory.wf s.mem) :
    Memory.wf (atomLocation s sp home op ls).1.mem := by
  simp only [atomLocation]
  split
  · exact h
  split
  · exact h
  split
  · exact h
  split
  · exact readAccess_wf h
  · repeat' split
    all_goals exact writeAccess_wf (readAccess_wf h)

theorem landOld_wf {s : State} {d n : Nat} {scalar : Bool} {olds : List (Nat × Nat)} (h : Memory.wf s.mem) :
    Memory.wf (landOld s d n scalar olds).mem :=
  foldl_wf (fun _ _ k => by
    split
    · exact k
    · exact landLane_wf k) h

theorem completeAtomic_wf {s : State} {o : Op} {sp : Space} {op : AtomOp} {d : Nat} {scalar : Bool} {acc : List Access}
    (h : Memory.wf s.mem) : Memory.wf (completeAtomic s o sp op d scalar acc).mem := by
  simp only [completeAtomic]
  exact unlessGone_wf h (acquireAfter_wf (foldl_fst_wf (fun _ _ k => by
    split
    · next e => exact landOld_wf (wf_of_eq e (atomLocation_wf k) :)
    · next e => exact (wf_of_eq e (atomLocation_wf k) :)) (releaseBefore_wf h)))

theorem setEntries_wf {s : State} {queue : Nat} {es : List Word} (h : Memory.wf s.mem) :
    Memory.wf (setEntries s queue es).mem := by
  simp only [setEntries]
  split <;> exact h

theorem retireOp_wf {s : State} {o : Op} (h : Memory.wf s.mem) : Memory.wf (retireOp s o).mem := by
  simp only [retireOp]
  exact foldl_wf (fun _ _ k => dropRange_wf k) (State.onSq_wf h)

theorem retireOldest_wf {s : State} {c : OpClass} (h : Memory.wf s.mem) : Memory.wf (retireOldest s c).1.mem := by
  simp only [retireOldest]
  split
  · exact h
  split
  · exact h
  split
  · exact retireOp_wf h
  split
  · exact h
  split
  · split
    · exact retireOp_wf (setEntries_wf h)
    · exact h
  split
  · exact retireOp_wf (setEntries_wf h)
  · exact h

theorem retireClass_wf {n : Nat} {s : State} {c : OpClass} (h : Memory.wf s.mem) : Memory.wf (retireClass n s c).mem := by
  induction n generalizing s with
  | zero => exact h
  | succ n ih =>
    simp only [retireClass]
    split
    · next e => exact ih (wf_of_eq e (retireOldest_wf h))
    · next e => exact (wf_of_eq e (retireOldest_wf h) :)

theorem fenceAction_wf {s : State} {order scope : Nat} (h : Memory.wf s.mem) : Memory.wf (fenceAction s order scope).mem := by
  simp only [fenceAction]
  split
  · exact acquireAction_wf (by
      split
      · exact releaseAction_wf h
      · exact h)
  split
  · exact releaseAction_wf h
  · exact h

theorem retireOps_wf {s : State} (h : Memory.wf s.mem) : Memory.wf (retireOps s).mem :=
  foldl_wf (fun _ _ k => retireClass_wf k) h

/-! What completes operations, and what engines share: ranges, keys and tokens. -/

theorem onOp_wf {s : State} {sq id : Nat} {k : State → Op → State} (h : Memory.wf s.mem)
    (h2 : ∀ t x1, Memory.wf t.mem → Memory.wf (k t x1).mem) : Memory.wf (onOp s sq id k).mem := by
  simp only [onOp]
  split
  · exact h
  · next e =>
      split
      · exact h
      · exact h2 _ _ (State.checkout_wf h e)

/-- Marking granules leaves the cells as they are. -/
theorem setPoison_wf {s : State} {p : List Nat} (h : Memory.wf s.mem) : Memory.wf ({ s with poison := p } : State).mem := h

theorem poisonPlane_wf {s : State} {bank i : Nat} (h : Memory.wf s.mem) : Memory.wf (poisonPlane s bank i).mem := by
  unfold poisonPlane
  exact setPoison_wf h

theorem planeRecord_wf {s : State} {bank : Nat} {scrub : Bool} (h : Memory.wf s.mem) :
    Memory.wf (planeRecord s bank scrub).mem := by
  simp only [planeRecord]
  split <;> exact errorRecord_wf h

theorem verifyPlanes_wf {s : State} {bank : Nat} {planes : List Nat} {scrub : Bool} (h : Memory.wf s.mem) :
    Memory.wf (verifyPlanes s bank planes scrub).mem := by
  simp only [verifyPlanes]
  split
  · split
    · exact h
    · exact planeRecord_wf (foldl_wf (fun _ _ k => poisonPlane_wf k) h)
  split
  · exact h
  · exact planeRecord_wf (foldl_wf (fun _ _ k => poisonPlane_wf k) h)

theorem writeSlot_wf {s : State} {bank fmt slot : Nat} {f : Nat → Nat → ℤ} (h : Memory.wf s.mem) :
    Memory.wf (writeSlot s bank fmt slot f).mem :=
  foldl_wf (fun _ _ k => rawWrite_wf _ _ k) h

theorem failIf_wf {bad : Bool} {f : FaultInfo} {k : Eff} (h : Eff.wf k) : Eff.wf (failIf bad f k) := by
  simp only [failIf]
  split
  · exact trivial
  · exact h

theorem aligned_wf {s : State} {a n : Nat} {write : Bool} {k : Eff} (h : Eff.wf k) : Eff.wf (aligned s a n write k) :=
  failIf_wf h

theorem globalRange_wf {s : State} {a n : Nat} {write : Bool} {k : Eff} (h : Eff.wf k) : Eff.wf (globalRange s a n write k) :=
  failIf_wf h

theorem scratchRange_wf {s : State} {c : Option Crew} {o n : Nat} {write : Bool} {k : State → Eff} (h : Memory.wf s.mem)
    (h2 : ∀ t, Memory.wf t.mem → Eff.wf (k t)) : Eff.wf (scratchRange s c o n write k) := by
  simp only [scratchRange]
  split
  · exact trivial
  split
  · exact h2 _ h
  split
  · exact trivial
  split
  · exact trivial
  · exact h2 _ (by
      split
      · exact raceWrite_wf h
      · exact h)

theorem withCrew_wf {s : State} {k : Crew → Eff} (h : ∀ x0, Eff.wf (k x0)) : Eff.wf (withCrew s k) := by
  simp only [withCrew]
  split
  · exact trivial
  · exact h _

theorem bankRange_wf {s : State} {c : Crew} {first n : Nat} {k : Eff} (h : Eff.wf k) : Eff.wf (bankRange s c first n k) :=
  failIf_wf h

theorem settleRange_wf {s : State} {va n : Nat} {write : Bool} (h : Memory.wf s.mem) :
    Memory.wf (settleRange s va n write).mem :=
  foldl_wf (fun _ _ k => by
    split
    · next e =>
        have r := wf_of_eq e (resolve_wf k)
        split
        · exact evictRange_wf r
        · exact writeBackRange_wf r
    · exact k) h

theorem countEngine_wf {s : State} {cls : OpClass} {len : Nat} (h : Memory.wf s.mem) :
    Memory.wf (countEngine s cls len).mem := by
  simp only [countEngine]
  repeat' split
  all_goals exact h

theorem engineOut_wf {s : State} {cls : OpClass} {act : Act} {tag token len : Nat} {last : Option (Nat × Word)}
    {reads writes : List (Nat × Nat)} (h : Memory.wf s.mem) :
    Memory.wf (engineOut s cls act tag token len last reads writes).mem :=
  countEngine_wf (by
    split <;> exact foldl_wf (fun _ _ k => settleRange_wf k) (foldl_wf (fun _ _ k => settleRange_wf k) h))

theorem startEngine_wf {s : State} {cls : OpClass} {act : Act} {tag token len : Nat} {last : Option (Nat × Word)}
    {reads writes : List (Nat × Nat)} (h : Memory.wf s.mem) :
    Eff.wf (startEngine s cls act tag token len last reads writes) := by
  simp only [startEngine]
  split
  · exact trivial
  · exact engineOut_wf h

theorem reachPiece_wf {s : State} {o : Op} {va n : Nat} {need : Need} (h : Memory.wf s.mem) :
    Memory.wf (reachPiece s o va n need).1.mem := by
  simp only [reachPiece]
  split
  · next e => exact (wf_of_eq e (resolve_wf h) :)
  · next e =>
      have r := wf_of_eq e (resolve_wf h)
      repeat' split
      all_goals exact r

theorem reachRanges_wf {s : State} {o : Op} {need : Need} {rs : List (Nat × Nat)} (h : Memory.wf s.mem) :
    Memory.wf (reachRanges s o need rs).1.mem :=
  foldl_fst_wf (fun _ _ k => by
    split
    · split
      · next e1 => exact (wf_of_eq e1 (reachPiece_wf k) :)
      · exact reachPiece_wf k
    · exact k) h

theorem readKey_wf {s : State} {va key n : Nat} (h : Memory.wf s.mem) : Memory.wf (readKey s va key n).1.mem := by
  simp only [readKey]
  split
  · exact h
  · exact homeRead_wf (foldl_wf (fun _ _ k => fetchMeta_wf k) h)

theorem readKeys_wf {s : State} {ks : List (Nat × Nat × Nat)} (h : Memory.wf s.mem) : Memory.wf (readKeys s ks).1.mem := by
  simp only [readKeys]
  exact foldl_fst_wf (fun _ _ k => by exact readKey_wf k) h

theorem writeKey_wf {s : State} {whole : Bool} {va key : Nat} {bs : List Byte} (h : Memory.wf s.mem) :
    Memory.wf (writeKey s whole va key bs).1.mem := by
  simp only [writeKey]
  split
  · exact h
  · exact foldl_fst_wf (fun _ _ k => by
      split
      · exact homeWriteLine_wf k
      · exact homeWritePart_wf k) h

theorem noteWritten_wf {s : State} {id : Nat} {ks : List (Nat × Nat × Nat)} (h : Memory.wf s.mem) :
    Memory.wf (noteWritten s id ks).mem :=
  h

theorem writeKeys_wf {s : State} {whole : Bool} {o : Op} {ks : List (Nat × Nat × Nat)} {bs : List Byte} (h : Memory.wf s.mem) :
    Memory.wf (writeKeys s whole o ks bs).1.mem := by
  simp only [writeKeys]
  exact foldl_fst_wf (fun _ _ k => by exact writeKey_wf k) (noteWritten_wf h)

theorem withRanges_wf {s : State} {o : Op} {need : Need} {rs : List (Nat × Nat)} {k : State → List (Nat × Nat × Nat) → Ran}
    (h : Memory.wf s.mem) (h2 : ∀ t x1, Memory.wf t.mem → Ran.wf (k t x1)) : Ran.wf (withRanges s o need rs k) := by
  simp only [withRanges]
  split
  · next e => exact h2 _ _ (wf_of_eq e (reachRanges_wf h) :)
  · next e => exact (wf_of_eq e (reachRanges_wf h) :)
  · next e => exact (wf_of_eq e (reachRanges_wf h) :)
  · next e => exact (wf_of_eq e (reachRanges_wf h) :)

theorem withBytes_wf {s : State} {o : Op} {rs : List (Nat × Nat)} {k : State → List Byte → Ran} (h : Memory.wf s.mem)
    (h2 : ∀ t x1, Memory.wf t.mem → Ran.wf (k t x1)) : Ran.wf (withBytes s o rs k) :=
  withRanges_wf h (fun _ _ k1 => by
    split
    · next e => exact (wf_of_eq e (readKeys_wf k1) :)
    · next e => exact h2 _ _ (wf_of_eq e (readKeys_wf k1) :))

theorem putToken_wf {s : State} {o : Op} {status detail : Nat} (h : Memory.wf s.mem) :
    Memory.wf (putToken s o status detail).mem := by
  simp only [putToken]
  split <;> exact h

theorem endEngine_wf {s : State} {o : Op} {err : Option OpError} (h : Memory.wf s.mem) : Memory.wf (endEngine s o err).mem := by
  simp only [endEngine]
  split <;> exact h

theorem absentRecord_wf {s : State} {o : Op} {page detail : Nat} {joined write : Bool} (h : Memory.wf s.mem) :
    Memory.wf (absentRecord s o page detail joined write).mem := by
  simp only [absentRecord]
  split
  · exact h
  · exact pushRecord_wf h

theorem settleEngine_wf {o : Op} {x1 : Ran} (h : Ran.wf x1) : Memory.wf (settleEngine o x1).mem := by
  simp only [settleEngine]
  split
  · exact endEngine_wf (putToken_wf h)
  · exact endEngine_wf (by split <;> exact h)
  · exact endEngine_wf (putToken_wf h)
  · split <;> exact h
  · split
    · exact h
    · exact absentRecord_wf h
  · exact h

theorem runCrew_wf {s : State} {o : Op} {k : Crew → Ran} (h : Memory.wf s.mem) (h2 : ∀ x0, Ran.wf (k x0)) :
    Ran.wf (runCrew s o k) := by
  simp only [runCrew]
  split
  · exact h
  · exact h2 _

/-! The engines: copies, transforms, tiles and banks. -/

theorem issueCopy_wf {s : State} {e : Engine} {d a b : Nat} {rg wg peer : Bool} {last : Option (Nat × Word)}
    (h : Memory.wf s.mem) : Eff.wf (issueCopy s e d a b rg wg peer last) :=
  failIf_wf (aligned_wf (aligned_wf (aligned_wf (by
    split
    · exact globalRange_wf (by
        split
        · exact globalRange_wf (startEngine_wf h)
        · exact scratchRange_wf h (fun _ k => startEngine_wf k))
    · exact scratchRange_wf h (fun _ k => by
        split
        · exact globalRange_wf (startEngine_wf k)
        · exact scratchRange_wf k (fun _ k1 => startEngine_wf k1))))))

theorem issueCopy2_wf {s : State} {e : Engine} {d a b : Nat} {toGlobal : Bool} {last : Option (Nat × Word)}
    (h : Memory.wf s.mem) : Eff.wf (issueCopy2 s e d a b toGlobal last) :=
  failIf_wf (aligned_wf (aligned_wf (aligned_wf (globalRange_wf (scratchRange_wf h (fun _ k => startEngine_wf k))))))

theorem withScratch_wf {s : State} {o : Op} {c : Crew} {off n : Nat} {k : List Byte → Ran} (h : Memory.wf s.mem)
    (h2 : ∀ x0, Ran.wf (k x0)) : Ran.wf (withScratch s o c off n k) := by
  simp only [withScratch]
  split
  · exact h
  split
  · exact h
  · exact h2 _

theorem chunkDone_wf {s : State} {o : Op} {refused : Option Nat} {p total : Nat} (h : Memory.wf s.mem) :
    Ran.wf (chunkDone s o refused p total) := by
  simp only [chunkDone]
  repeat' split
  all_goals exact h

theorem runCopy_wf {s : State} {o : Op} {c : CopyShape} {src dst : Nat} {rg wg peer : Bool} (h : Memory.wf s.mem) :
    Ran.wf (runCopy s o c src dst rg wg peer) := by
  simp only [runCopy]
  exact runCrew_wf h (fun _ => by
    split
    · exact withRanges_wf h (fun _ _ k => by
        split
        · exact withBytes_wf k (fun _ _ k1 => withRanges_wf k1 (fun _ _ k2 => chunkDone_wf (writeKeys_wf k2)))
        · exact withScratch_wf k (fun _ => withRanges_wf k (fun _ _ k1 => chunkDone_wf (writeKeys_wf k1))))
    split
    · exact withBytes_wf h (fun _ _ k => by
        split
        · exact k
        split
        · exact k
        · exact chunkDone_wf (spadWrite_wf _ _ _ k))
    · exact withScratch_wf h (fun _ => by
        split
        · exact h
        split
        · exact h
        · exact chunkDone_wf (spadWrite_wf _ _ _ h)))

theorem pinLine_wf {s : State} {ctx grid line : Nat} (h : Memory.wf s.mem) : Memory.wf (pinLine s ctx grid line).1.mem := by
  simp only [pinLine]
  split
  · exact llcFill_wf h
  · repeat' split
    all_goals exact llcFill_wf h

theorem runPin_wf {s : State} {o : Op} {x n : Nat} (h : Memory.wf s.mem) : Ran.wf (runPin s o x n) := by
  simp only [runPin]
  exact withRanges_wf h (fun _ _ k => by split <;> exact foldl_fst_wf (fun _ _ k1 => by exact pinLine_wf k1) k)

theorem writeScales_wf {s : State} {bank fmt slot : Nat} {bs : List Byte} (h : Memory.wf s.mem) :
    Memory.wf (writeScales s bank fmt slot bs).mem :=
  rawWrite_wf _ _ h

theorem loadSlot_wf {s : State} {bank fmt slot : Nat} {img : List Byte} (h : Memory.wf s.mem) :
    Memory.wf (loadSlot s bank fmt slot img).mem :=
  verifyPlanes_wf (by
    split
    · exact writeSlot_wf h
    · exact writeScales_wf (writeSlot_wf h))

theorem runBload_wf {s : State} {o : Op} {fmt x : Nat} {z : DWord} (h : Memory.wf s.mem) : Ran.wf (runBload s o fmt x z) := by
  simp only [runBload]
  exact runCrew_wf h (fun _ => by
    split
    · exact h
    · exact withBytes_wf h (fun _ _ k => by split <;> exact loadSlot_wf k))

theorem issueXform_wf {s : State} {e : Engine} {d a b : Nat} {slots scales : Bool} {compute : Option Bool} {len : DWord → Nat}
    (h : Memory.wf s.mem) : Eff.wf (issueXform s e d a b slots scales compute len) :=
  withCrew_wf (fun _ => failIf_wf (failIf_wf (failIf_wf (failIf_wf (by
    split
    · exact startEngine_wf h
    · exact scratchRange_wf h (fun _ k => startEngine_wf k))))))

theorem xfTarget_wf {s : State} {o : Op} {x : DWord} {k : Nat → Ran} (h : Memory.wf s.mem) (h2 : ∀ x0, Ran.wf (k x0)) :
    Ran.wf (xfTarget s o x k) :=
  runCrew_wf h (fun _ => by
    split
    · exact h
    · exact h2 _)

theorem toPlanes_wf {s : State} {bank fmt slot : Nat} (h : Memory.wf s.mem) : Memory.wf (toPlanes s bank fmt slot).mem := by
  simp only [toPlanes]
  split
  · exact foldl_wf (fun _ _ k => poisonPlane_wf k) (writeSlot_wf h)
  · exact writeSlot_wf h

theorem fromPlanes_wf {s : State} {bank fmt slot : Nat} (h : Memory.wf s.mem) : Memory.wf (fromPlanes s bank fmt slot).mem := by
  simp only [fromPlanes]
  split
  · exact foldl_wf (fun _ _ k => poisonPlane_wf k) (rawWrite_wf _ _ h)
  · exact rawWrite_wf _ _ h

theorem fillBank_wf {s : State} {bank : Nat} {w : Word} (h : Memory.wf s.mem) : Memory.wf (fillBank s bank w).mem :=
  rawWrite_wf _ _ h

theorem runXform_wf {s : State} {o : Op} {e : Engine} {x z : DWord} (h : Memory.wf s.mem) : Ran.wf (runXform s o e x z) :=
  xfTarget_wf h (fun _ => by
    split
    · exact toPlanes_wf h
    · exact fromPlanes_wf h
    · split
      · exact writeScales_wf h
      · exact fillBank_wf h
    · exact fillBank_wf h
    · exact verifyPlanes_wf h)

theorem changeBanks_wf {s : State} {k : Crew → Eff} (h : ∀ x0, Eff.wf (k x0)) : Eff.wf (changeBanks s k) :=
  withCrew_wf (fun _ => by
    split
    · exact trivial
    · exact h _)

theorem toCompute_wf {s : State} {c : Crew} (h : Memory.wf s.mem) : Memory.wf (toCompute s c).mem := by
  simp only [toCompute, State.setCrew_mem]
  refine foldl_wf (fun _ _ k => ?_) ?_
  · split
    · exact poisonPlane_wf k
    · exact k
  · exact memClear_wf _ _ h

theorem toStorage_wf {s : State} {c : Crew} (h : Memory.wf s.mem) : Memory.wf (toStorage s c).mem :=
  memClear_wf _ _ h

theorem withRows_wf {s : State} {o : Op} {r n : Nat} {k : Crew → Ran} (h : Memory.wf s.mem) (h2 : ∀ x0, Ran.wf (k x0)) :
    Ran.wf (withRows s o r n k) :=
  runCrew_wf h (fun _ => by
    split
    · exact h
    · exact h2 _)

theorem countResults_wf {s : State} {tag : Nat} {rs : List FRes} (h : Memory.wf s.mem) :
    Memory.wf (countResults s tag rs).mem :=
  addStats_wf h

theorem withTile_wf {s : State} {o : Op} {c : Crew} {fmt : Nat} {x : DWord} {k : List Byte → Ran} (h : Memory.wf s.mem)
    (h2 : ∀ x0, Ran.wf (k x0)) : Ran.wf (withTile s o c fmt x k) := by
  simp only [withTile]
  split
  · exact h
  split
  · exact h
  · exact h2 _

theorem runTmac_wf {s : State} {o : Op} {p : Nat} {x y z : DWord} (h : Memory.wf s.mem) : Ran.wf (runTmac s o p x y z) :=
  withRows_wf h (fun _ => by
    split
    · exact h
    split
    · exact h
    split
    · exact h
    · exact withTile_wf h (fun _ => countResults_wf (foldl_fst_wf (fun _ _ k =>
        foldl_fst_wf (fun _ _ k1 => rowWrite_wf _ _ _ _ k1) k) h)))

theorem writeLines_wf {s : State} {ps : List (Nat × Nat × List Byte)} (h : Memory.wf s.mem) :
    Memory.wf (writeLines s ps).1.mem := by
  unfold writeLines
  exact foldl_fst_wf (fun _ _ k => foldl_prod_wf (fun _ _ k => by exact writeKey_wf k) k) h

theorem zeroRows_wf {s : State} {c : Crew} {r n : Nat} (h : Memory.wf s.mem) : Memory.wf (zeroRows s c r n).mem :=
  memClear_wf _ _ h

theorem storeRaw_wf {s : State} {line : Nat} (h : Memory.wf s.mem) : Memory.wf (storeRaw s line).mem := by
  simp only [storeRaw]
  split
  · exact h
  · exact rawWrite_wf _ _ h

theorem poisonOutputs_wf {s : State} {fm : Nat} {y z : DWord} {c : Crew} {outs : List (Nat × List Byte)}
    {ks : List (Nat × Nat × Nat)} (h : Memory.wf s.mem) : Memory.wf (poisonOutputs s fm y z c outs ks).1.mem := by
  delta poisonOutputs
  extract_lets rows places hit secs t
  have k : Memory.wf t.mem := foldl_wf (fun _ _ k => storeRaw_wf k) h
  clear_value t
  exact k

theorem runDrain_wf {s : State} {o : Op} {fm : Nat} {x y z x2 : DWord} (h : Memory.wf s.mem) :
    Ran.wf (runDrain s o fm x y z x2) := by
  simp only [runDrain]
  exact withRows_wf h (fun _ => by
    split
    · next e => exact (wf_of_eq e (reachRanges_wf h) :)
    · next e => exact (wf_of_eq e (reachRanges_wf h) :)
    · next e =>
        have r := wf_of_eq e (reachRanges_wf h)
        split
        · split
          · exact zeroRows_wf r
          · exact r
        · exact r
    · next e =>
        have r := wf_of_eq e (reachRanges_wf h)
        split
        · split
          · exact zeroRows_wf (poisonOutputs_wf (writeLines_wf r))
          · exact poisonOutputs_wf (writeLines_wf r)
        · split
          · exact zeroRows_wf (poisonOutputs_wf (writeLines_wf r))
          · exact poisonOutputs_wf (writeLines_wf r)
        · exact countResults_wf (by
            split
            · exact zeroRows_wf (poisonOutputs_wf (writeLines_wf r))
            · exact poisonOutputs_wf (writeLines_wf r)))

theorem issueTacc_wf {s : State} {e : Engine} {d : Nat} {y x : DWord} {n : Nat} {bad : Crew → Bool} {v : Vector Word 32}
    (h : Memory.wf s.mem) : Eff.wf (issueTacc s e d y x n bad v) :=
  withCrew_wf (fun _ => failIf_wf (startEngine_wf h))

theorem readColumn_wf {s : State} {c : Crew} {o : Op} {int : Bool} {d row c0 : Nat} (h : Memory.wf s.mem) :
    Memory.wf (readColumn s c o int d row c0).mem :=
  foldl_wf (fun _ _ k => by split <;> exact k) h

theorem writeColumn_wf {s : State} {c : Crew} {o : Op} {row c0 : Nat} {v : Vector Word 32} (h : Memory.wf s.mem) :
    Memory.wf (writeColumn s c o row c0 v).mem :=
  foldl_wf (fun _ _ k => rowWrite_wf _ _ _ _ k) h

theorem runTacc_wf {s : State} {o : Op} {e : Engine} {d : Nat} {x y : DWord} {n : Nat} {v : Vector Word 32}
    (h : Memory.wf s.mem) : Ran.wf (runTacc s o e d x y n v) :=
  withRows_wf h (fun _ => by
    split
    · exact zeroRows_wf h
    · exact readColumn_wf h
    · exact writeColumn_wf h
    · split
      · exact h
      · exact countResults_wf (foldl_fst_wf (fun _ _ k => rowWrite_wf _ _ _ _ k) h)
    · exact countResults_wf (foldl_fst_wf (fun _ _ k => rowWrite_wf _ _ _ _ k) h))

theorem dotRange_wf {s : State} {scratch : Bool} {a n : Nat} {k : State → Eff} (h : Memory.wf s.mem)
    (h2 : ∀ t, Memory.wf t.mem → Eff.wf (k t)) : Eff.wf (dotRange s scratch a n k) := by
  simp only [dotRange]
  split
  · exact scratchRange_wf h (fun _ k1 => h2 _ k1)
  · exact globalRange_wf (h2 _ h)

theorem dotBytesOf_wf {s : State} {o : Op} {scratch : Bool} {a n : Nat} {k : State → List Byte → Ran} (h : Memory.wf s.mem)
    (h2 : ∀ t x1, Memory.wf t.mem → Ran.wf (k t x1)) : Ran.wf (dotBytesOf s o scratch a n k) := by
  simp only [dotBytesOf]
  split
  · exact runCrew_wf h (fun _ => withScratch_wf h (fun _ => h2 _ _ h))
  · exact withBytes_wf h (fun _ _ k1 => h2 _ _ k1)

theorem runDot_wf {s : State} {o : Op} {fm d : Nat} {x y z : DWord} (h : Memory.wf s.mem) : Ran.wf (runDot s o fm d x y z) :=
  dotBytesOf_wf h (fun _ _ k => dotBytesOf_wf k (fun _ _ k1 => k1))

/-! The array windows. -/

theorem setWin_wf {s : State} {ctx : Nat} {w : ArrWindow} (h : Memory.wf s.mem) : Memory.wf (setWin s ctx w).mem :=
  h

theorem purgeRange_wf {s : State} {key n : Nat} (h : Memory.wf s.mem) : Memory.wf (purgeRange s key n).mem :=
  foldl_wf (fun _ _ k => llcEvict_wf k) (foldl_wf (fun _ _ k => evictSector_wf k) h)

theorem purgeGroup_wf {s : State} {slices : List Nat} {g : Nat} (h : Memory.wf s.mem) : Memory.wf (purgeGroup s slices g).mem :=
  foldl_wf (fun _ _ k => llcEvict_wf k) h

theorem loadWindow_wf {s : State} {va : Nat} {ks : List (Nat × Nat × Nat)} (h : Memory.wf s.mem) :
    Memory.wf (loadWindow s va ks).1.mem :=
  foldl_fst_wf (fun _ _ k => by
    split
    · exact k
    · exact foldl_wf (fun _ _ k1 => reachLine_wf k1) k) h

theorem failResult_wf {d : Nat} {x1 : Ran} (h : Ran.wf x1) : Ran.wf (failResult d x1) := by
  simp only [failResult]
  split <;> exact h

theorem runArm_wf {s : State} {o : Op} {d : Nat} {x : DWord} {va : Nat} (h : Memory.wf s.mem) : Ran.wf (runArm s o d x va) := by
  simp only [runArm]
  split
  · exact h
  · exact failResult_wf (withRanges_wf h (fun _ _ k => by
      split
      · exact k
      split
      · exact purgeGroup_wf (foldl_wf (fun _ _ k1 => purgeRange_wf k1) k)
      split
      · next e3 => exact (wf_of_eq e3 (loadWindow_wf (purgeGroup_wf (foldl_wf (fun _ _ k1 => purgeRange_wf k1) k))) :)
      · next e3 => exact (wf_of_eq e3 (loadWindow_wf (purgeGroup_wf (foldl_wf (fun _ _ k1 => purgeRange_wf k1) k))) :)))

theorem storeWindow_wf {s : State} {o : Op} {w : ArrWindow} (h : Memory.wf s.mem) : Memory.wf (storeWindow s o w).1.mem :=
  foldl_fst_wf (fun _ _ k => by
    split
    · exact k
    · next e =>
        have r := wf_of_eq e (resolve_wf k)
        split
        · exact r
        · exact writeKey_wf r) h

theorem runDisarm_wf {s : State} {o : Op} {d num : Nat} (h : Memory.wf s.mem) : Ran.wf (runDisarm s o d num) := by
  simp only [runDisarm]
  split
  · exact h
  split
  · exact h
  split
  · exact h
  split
  · next e3 => exact (wf_of_eq e3 (storeWindow_wf h) :)
  · next e3 => exact (wf_of_eq e3 (storeWindow_wf h) :)

theorem startArray_wf {s : State} {e : Engine} {d : Nat} {x y z : DWord} {reads writes : List (Nat × Nat)}
    (h : Memory.wf s.mem) : Eff.wf (startArray s e d x y z reads writes) :=
  startEngine_wf h

theorem withWin_wf {s : State} {num : Nat} {k : ArrWindow → Eff} (h : ∀ x0, Eff.wf (k x0)) : Eff.wf (withWin s num k) := by
  simp only [withWin]
  split
  · exact trivial
  · exact h _

theorem issueRange_wf {s : State} {e : Engine} {d a b : Nat} {mem : Option Bool} {fns : List Nat} (h : Memory.wf s.mem) :
    Eff.wf (issueRange s e d a b mem fns) :=
  failIf_wf (withWin_wf (fun _ => failIf_wf (by
    split
    · exact startArray_wf h
    · exact aligned_wf (globalRange_wf (startArray_wf h)))))

theorem issueArr_wf {s : State} {e : Engine} {y x z : DWord} {srcs : List DWord} {fns : List Nat} (h : Memory.wf s.mem) :
    Eff.wf (issueArr s e y x z srcs fns) :=
  failIf_wf (withWin_wf (fun _ => startArray_wf h))

theorem runWin_wf {s : State} {o : Op} {num : Nat} {k : ArrWindow → Ran} (h : Memory.wf s.mem) (h2 : ∀ x0, Ran.wf (k x0)) :
    Ran.wf (runWin s o num k) := by
  simp only [runWin]
  split
  · exact h
  · exact h2 _

theorem runArr_wf {s : State} {o : Op} {e : Engine} {y x z : DWord} (h : Memory.wf s.mem) : Ran.wf (runArr s o e y x z) :=
  runWin_wf h (fun _ => h)

theorem runRange_wf {s : State} {o : Op} {x y : DWord} {k : ArrWindow → Ran} (h : Memory.wf s.mem) (h2 : ∀ x0, Ran.wf (k x0)) :
    Ran.wf (runRange s o x y k) :=
  runWin_wf h (fun _ => by
    split
    · exact h
    · exact h2 _)

theorem runMove_wf {s : State} {o : Op} {e : Engine} {x y : DWord} {va : Nat} (h : Memory.wf s.mem) :
    Ran.wf (runMove s o e x y va) := by
  unfold runMove
  refine runRange_wf h fun _ => ?_
  split
  · exact withBytes_wf h fun _ _ k => k
  · refine withRanges_wf h fun _ _ k => ?_
    dsimp only
    split
    · next e => exact (wf_of_eq e (writeKeys_wf k) :)
    · next e => exact (wf_of_eq e (writeKeys_wf k) :)
  · exact h

theorem runQuery_wf {s : State} {d num : Nat} (h : Memory.wf s.mem) : Ran.wf (runQuery s d num) := by
  simp only [runQuery]
  split <;> exact h

/-! Grids and their dependences, and the operations on stacks. -/

theorem demote_wf {s : State} {g : Nat} (h : Memory.wf s.mem) : Memory.wf (demote s g).mem := by
  simp only [demote]
  split
  · exact h
  split
  · exact errorRecord_wf h
  · exact h

theorem recordWrite_wf {s : State} {g : Grid} {off n x : Nat} (h : Memory.wf s.mem) : Memory.wf (recordWrite s g off n x).mem :=
  deviceWrite_wf h

theorem endGrid_wf {s : State} {g : Grid} {code : Nat} {stats : Option (Nat × Nat)} (h : Memory.wf s.mem) :
    Memory.wf (endGrid s g code stats).mem := by
  simp only [endGrid, pruneOlds, unkeepGrid]
  exact recordWrite_wf (recordWrite_wf h)

theorem evalDep_wf {s : State} {g : Grid} {pend : Bool} {d : Nat × Nat} (h : Memory.wf s.mem) :
    Memory.wf (evalDep s g pend d).1.mem := by
  simp only [evalDep]
  split
  · exact h
  split
  · exact h
  split
  · next e2 => exact (wf_of_eq e2 (deviceRead_wf h) :)
  · next e2 => exact (wf_of_eq e2 (deviceRead_wf h) :)

theorem setPending_wf {s : State} {g : Grid} {p0 p1 : Bool} (h : Memory.wf s.mem) : Memory.wf (setPending s g p0 p1).mem := by
  simp only [setPending]
  split <;> exact h

theorem evalGrid_wf {s : State} {g : Grid} (h : Memory.wf s.mem) : Memory.wf (evalGrid s g).mem := by
  simp only [evalGrid]
  split
  · next e => exact endGrid_wf (wf_of_eq e (evalDep_wf h) :)
  · next e =>
      have r := wf_of_eq e (evalDep_wf h)
      split
      · next e1 => exact endGrid_wf (wf_of_eq e1 (evalDep_wf r :))
      · next e1 =>
          split
          · exact (wf_of_eq e1 (evalDep_wf r) :)
          · exact setPending_wf (wf_of_eq e1 (evalDep_wf r :))

theorem evalDeps_wf {s : State} (h : Memory.wf s.mem) : Memory.wf (evalDeps s).mem :=
  foldl_wf (fun _ _ k => by
    split
    · exact evalGrid_wf k
    · exact k) h

theorem issueStk_wf {s : State} {e : Engine} {d a b len : Nat} {reads writes : List (Nat × Nat)} (h : Memory.wf s.mem) :
    Eff.wf (issueStk s e d a b len reads writes) :=
  aligned_wf (aligned_wf (globalRange_wf (globalRange_wf (startEngine_wf h))))

theorem withPage_wf {s : State} {o : Op} {va : Nat} {need : Need} {k : State → Nat → Ran} (h : Memory.wf s.mem)
    (h2 : ∀ t x1, Memory.wf t.mem → Ran.wf (k t x1)) : Ran.wf (withPage s o va need k) := by
  simp only [withPage]
  split
  · next e => exact h2 _ _ (wf_of_eq e (resolve_wf h) :)
  · next e =>
      have r := wf_of_eq e (resolve_wf h)
      split
      · exact r
      split
      · exact r
      · exact h

theorem withOpenPage_wf {s : State} {o : Op} {va : Nat} {need : Need} {k : State → Nat → Ran} (h : Memory.wf s.mem)
    (h2 : ∀ t x1, Memory.wf t.mem → Ran.wf (k t x1)) : Ran.wf (withOpenPage s o va need k) :=
  withPage_wf h (fun _ _ k1 => by
    split
    · exact k1
    · exact h2 _ _ k1)

theorem rowLine_wf {s : State} {dst : Nat} {pick : Nat → Bool} {new : Array Byte} {l : LlcLine} (h : Memory.wf s.mem) :
    Memory.wf (rowLine s dst pick new l).mem := by
  simp only [rowLine]
  split
  · exact llcShow_wf h
  · exact h

theorem rowSectors_wf {s : State} {dst : Nat} {pick : Nat → Bool} {bytes : List Byte} {bad : Nat → Bool} (h : Memory.wf s.mem) :
    Memory.wf (rowSectors s dst pick bytes bad).mem := by
  simp only [rowSectors]
  refine foldl_wf (fun _ _ k => rowLine_wf k) ?_
  dsimp only
  refine rawWrite_wf _ _ (noteOld_wf ?_)
  exact h

theorem copyPage_wf {s : State} {dst src : Nat} {pick : Nat → Bool} (h : Memory.wf s.mem) :
    Memory.wf (copyPage s dst src pick).mem :=
  rowSectors_wf (foldl_wf (fun _ _ k => llcClean_wf k) (foldl_wf (fun _ _ k => writeBack_wf k) h))

theorem zeroPage_wf {s : State} {dst : Nat} {pick : Nat → Bool} (h : Memory.wf s.mem) : Memory.wf (zeroPage s dst pick).mem :=
  rowSectors_wf h

theorem runRow_wf {s : State} {o : Op} {va dst : Nat} {src : Option Nat} {status : Nat} {f : State → (Nat → Bool) → State}
    (h : Memory.wf s.mem) (h2 : ∀ t x1, Memory.wf t.mem → Memory.wf (f t x1).mem) :
    Ran.wf (runRow s o va dst src status f) := by
  simp only [runRow]
  split
  · exact h
  · repeat' split
    all_goals exact h2 _ _ h

theorem runStk_wf {s : State} {o : Op} {e : Engine} {x z : Nat} (h : Memory.wf s.mem) : Ran.wf (runStk s o e x z) :=
  withPage_wf h (fun _ _ k => by
    split
    · exact k
    · split
      · exact k
      · exact withOpenPage_wf k (fun _ _ k1 => runRow_wf k1 (fun _ _ k2 => zeroPage_wf k2))
    · exact withPage_wf k (fun _ _ k1 => by
        split
        · exact withOpenPage_wf k1 (fun _ _ k2 => withOpenPage_wf k2 (fun _ _ k3 => by
            split
            · exact k3
            · exact runRow_wf k3 (fun _ _ k4 => copyPage_wf k4)))
        · exact k1))

theorem runEngine_wf {s : State} {o : Op} {e : Engine} {d : Nat} {x y z x2 : DWord} {v : Vector Word 32} (h : Memory.wf s.mem) :
    Ran.wf (runEngine s o e d x y z x2 v) := by
  unfold runEngine
  cases e
  case cpyGS | cpySG | cpyGG | cpySP | cpyGS2 | cpySG2 => exact runCopy_wf h
  case cpyPin => exact runPin_wf h
  case bload _ => exact runBload_wf h
  case xformToplanes | xformFromplanes | xformZero | xformFill | xformChecksum => exact runXform_wf h
  case tmac _ => exact runTmac_wf h
  case tdrain _ => exact runDrain_wf h
  case taccZero | taccRead | taccWrite | taccAdd | taccScale => exact runTacc_wf h
  case dotv _ => exact runDot_wf h
  case arrxArm => exact runArm_wf h
  case arrxDisarm => exact runDisarm_wf h
  case arrxQuery => exact runQuery_wf h
  case arrxLoad | arrxStore | arrxFill => exact runMove_wf h
  case stkRowcopy | stkRowzero | stkProbe => exact runStk_wf h
  all_goals exact runArr_wf h

theorem completeEngine_wf {s : State} {o : Op} (h : Memory.wf s.mem) : Memory.wf (completeEngine s o).mem := by
  simp only [completeEngine]
  split
  · split
    · exact retireOps_wf (settleEngine_wf (runEngine_wf h))
    · exact h
  · exact h

/-! Links and ports. -/

theorem linkRecord_wf {s : State} {n kind group lane retry : Nat} (h : Memory.wf s.mem) :
    Memory.wf (linkRecord s n kind group lane retry).mem :=
  errorRecord_wf h

theorem noteDown_wf {s : State} {n : Nat} (h : Memory.wf s.mem) : Memory.wf (noteDown s n).mem := by
  simp only [noteDown]
  split
  · exact linkRecord_wf h
  · exact h

theorem setSplit_wf {s : State} {n outa : Nat} (h : Memory.wf s.mem) : Memory.wf (setSplit s n outa).mem :=
  noteDown_wf h

theorem startTurn_wf {s : State} {n outa start : Nat} (h : Memory.wf s.mem) : Memory.wf (startTurn s n outa start).mem := by
  simp only [startTurn]
  split
  · exact h
  · exact setSplit_wf h

theorem settleLost_wf {s : State} {n : Nat} (h : Memory.wf s.mem) : Memory.wf (settleLost s n).mem := by
  simp only [settleLost]
  split
  · split
    · exact h
    · exact startTurn_wf h
  · exact h

theorem loseLink_wf {s : State} {n : Nat} (h : Memory.wf s.mem) : Memory.wf (loseLink s n).mem :=
  settleLost_wf (linkRecord_wf h)

theorem ownLinks_wf {s : State} (h : Memory.wf s.mem) : Memory.wf (ownLinks s).mem := by
  simp only [ownLinks]
  exact foldl_wf (fun _ _ k => by
    split
    · exact k
    split
    · exact loseLink_wf k
    · exact k) h

theorem takeTurn_wf {s : State} {n : Nat} (h : Memory.wf s.mem) : Memory.wf (takeTurn s n).mem := by
  simp only [takeTurn]
  split
  · exact h
  · exact startTurn_wf h

theorem endTurn_wf {s : State} {n : Nat} (h : Memory.wf s.mem) : Memory.wf (endTurn s n).mem := by
  simp only [endTurn]
  split
  · exact settleLost_wf (setSplit_wf h)
  · exact h

theorem queueTurn_wf {s : State} {a : DWord} (h : Memory.wf s.mem) : Memory.wf (queueTurn s a).1.mem := by
  simp only [queueTurn]
  split
  · exact h
  · repeat' split
    all_goals exact h

theorem setGroup_wf {s : State} {n k : Nat} {f : LaneGroup → LaneGroup} (h : Memory.wf s.mem) :
    Memory.wf (setGroup s n k f).mem :=
  h

theorem writeLanes_wf {s : State} {v : DWord} (h : Memory.wf s.mem) : Memory.wf (writeLanes s v).mem := by
  simp only [writeLanes]
  split <;> exact h

theorem noteThresh_wf {s : State} {n : Nat} (h : Memory.wf s.mem) : Memory.wf (noteThresh s n).mem := by
  simp only [noteThresh]
  split
  · exact linkRecord_wf h
  · exact h

theorem freshWindow_wf {s : State} {n : Nat} (h : Memory.wf s.mem) : Memory.wf (freshWindow s n).mem := by
  simp only [freshWindow]
  split
  · exact h
  · exact noteThresh_wf h

theorem replayFlit_wf {s : State} {n g lane : Nat} (h : Memory.wf s.mem) : Memory.wf (replayFlit s n g lane).mem := by
  simp only [replayFlit]
  exact noteThresh_wf (setGroup_wf (State.setLink_wf (State.countSurvey_wf (freshWindow_wf h))))

theorem writeThresh_wf {s : State} {v : DWord} (h : Memory.wf s.mem) : Memory.wf (writeThresh s v).mem := by
  simp only [writeThresh]
  split
  · exact h
  · exact noteThresh_wf (freshWindow_wf h)

theorem spareLane_wf {s : State} {n g lane : Nat} (h : Memory.wf s.mem) : Memory.wf (spareLane s n g lane).1.mem := by
  simp only [spareLane]
  split
  · exact h
  split
  · exact h
  · exact linkRecord_wf h

theorem trainGroup_wf {s : State} {n g width : Nat} (h : Memory.wf s.mem) : Memory.wf (trainGroup s n g width).1.mem :=
  noteDown_wf (linkRecord_wf h)

theorem portDown_wf {s : State} {p : Nat} (h : Memory.wf s.mem) : Memory.wf (portDown s p).mem :=
  linkRecord_wf (setReady1_wf h)

theorem portUp_wf {s : State} {p : Nat} (h : Memory.wf s.mem) : Memory.wf (portUp s p).mem :=
  setReady1_wf h

theorem evictLine_wf {s : State} {a : Nat} (h : Memory.wf s.mem) : Memory.wf (evictLine s a).mem := by
  simp only [evictLine]
  split
  · exact h
  split
  · exact llcEvict_wf h
  · exact h

/-! Placing crews. -/

theorem readTable_wf {s : State} {part : Nat} {sites : List Nat} (h : Memory.wf s.mem) :
    Memory.wf (readTable s part sites).mem :=
  foldl_wf (fun _ _ k => homeRead_wf k) h

theorem freshBank_wf {s : State} {bank : Nat} (h : Memory.wf s.mem) : Memory.wf (freshBank s bank).mem :=
  memClear_wf _ _ h

theorem refuse_wf {s : State} {pair : Nat} (h : Memory.wf s.mem) : Memory.wf (refuse s pair).mem := by
  simp only [refuse]
  split
  · exact h
  · split <;> exact foldl_wf (fun _ _ k => evictSector_wf k) h

theorem fusedAsAsked_wf {s u : State} {pair : Nat} (h : Memory.wf s.mem) (e : fusedAsAsked s pair = some u) :
    Memory.wf u.mem := by
  simp only [fusedAsAsked] at e
  split at e
  · cases e
  · cases e
    exact h

theorem noteIdle_wf {s : State} {banks : List Nat} (h : Memory.wf s.mem) : Memory.wf (noteIdle s banks).mem :=
  h

theorem leaveRetention_wf {s : State} {bank : Nat} (h : Memory.wf s.mem) : Memory.wf (leaveRetention s bank).mem := by
  simp only [leaveRetention]
  split
  · exact h
  · exact verifyPlanes_wf (foldl_wf (fun _ _ k => by exact errorRecord_wf k) h)

/-- New crews and parked squads leave the cells as they are. -/
theorem addCrew_wf {s : State} {n : Nat} {cs : List Crew} {qs : List Squad} (h : Memory.wf s.mem) :
    Memory.wf ({ s with serial := n, crews := cs, parked := qs } : State).mem := h

theorem placeCrew_wf {s : State} {g : Grid} {linear core : Nat} (h : Memory.wf s.mem) :
    Memory.wf (placeCrew s g linear core).1.mem := by
  delta placeCrew
  extract_lets free mine res t u id c slots sqs v
  have kt : Memory.wf t.mem := foldl_wf (fun _ _ k => leaveRetention_wf k) h
  clear_value t
  have ku : Memory.wf u.mem := invalidateClean_wf (foldl_wf (fun _ _ k => freshBank_wf k) kt)
  clear_value u
  have kv : Memory.wf v.mem := addCrew_wf ku
  clear_value v
  refine wf_mk ?_
  split
  · exact State.setGrid_wf kv
  · exact kv

theorem joinTeam_wf {s : State} {a b : Nat} (h : Memory.wf s.mem) : Memory.wf (joinTeam s a b).mem := by
  simp only [joinTeam]
  split
  · exact refuse_wf h
  · exact h

theorem placeTeam_wf {s u : State} {g : Grid} {ks cores : List Nat} (h : Memory.wf s.mem)
    (e : placeTeam s g ks cores = some u) : Memory.wf u.mem := by
  unfold placeTeam at e
  split at e
  · split at e
    · cases e
      exact placeCrew_wf h
    · cases e
  · split at e
    · exact fusedAsAsked_wf (joinTeam_wf (placeCrew_wf (placeCrew_wf h))) e
    · cases e
  · cases e

theorem placeBatch_wf {g : Grid} {s u : State} {ts : List (List Nat)} {cores : List Nat} (h : Memory.wf s.mem)
    (e : placeBatch g s ts cores = some u) : Memory.wf u.mem := by
  induction ts generalizing s cores with
  | nil =>
    simp only [placeBatch] at e
    split at e
    · cases e
      exact h
    · cases e
  | cons t ts ih =>
    simp only [placeBatch] at e
    split at e
    · cases e
    · next p => exact ih (placeTeam_wf h p) e

theorem tryPlace_wf {s u : State} {g : Grid} {k : Nat} {cores : List Nat} (h : Memory.wf s.mem)
    (e : tryPlace s g k cores = some u) : Memory.wf u.mem := by
  have r : Memory.wf (if g.r.pinned then readTable s g.part ((batch g k).filterMap (siteOf g.sites)) else s).mem := by
    split
    · exact readTable_wf h
    · exact h
  simp only [tryPlace] at e
  generalize (if g.r.pinned then readTable s g.part ((batch g k).filterMap (siteOf g.sites)) else s) = t at r e
  split at e
  · cases e
  · split at e
    · split at e
      · cases e
      · exact placeBatch_wf (State.setGrid_wf r) e
    · cases e

/-! Barriers, queues and semaphores. -/

theorem setBar_wf {s : State} {c : Crew} {team : Bool} {n : Nat} {b : Barrier} (h : Memory.wf s.mem) :
    Memory.wf (setBar s c team n b).mem := by
  simp only [setBar]
  split <;> exact h

theorem barSettle_wf {s : State} {crew : Nat} {team : Bool} {n : Nat} (h : Memory.wf s.mem) :
    Memory.wf (barSettle s crew team n).mem := by
  simp only [barSettle]
  split
  · exact h
  split
  · exact foldl_wf (fun _ _ k => by split <;> exact k) (setBar_wf h)
  · exact h

theorem barArrive_wf {s : State} {team : Bool} {n count : Nat} (h : Memory.wf s.mem) :
    Memory.wf (barArrive s team n count).1.mem := by
  simp only [barArrive]
  split
  · exact h
  split
  · exact h
  · exact barSettle_wf (setBar_wf h)

theorem pastBar_wf {s : State} {team : Bool} (h : Memory.wf s.mem) : Memory.wf (pastBar s team).mem := by
  simp only [pastBar]
  split
  · exact acquireAction_wf h
  · exact h

theorem awaitBar_wf {s : State} {team : Bool} {n gen : Nat} (h : Memory.wf s.mem) : Eff.wf (awaitBar s team n gen) := by
  simp only [awaitBar]
  split
  · exact pastBar_wf h
  · exact h

theorem arriveThen_wf {s : State} {team : Bool} {n count : Nat} {k : State → Eff} (h : Memory.wf s.mem)
    (h2 : ∀ t, Memory.wf t.mem → Eff.wf (k t)) : Eff.wf (arriveThen s team n count k) := by
  simp only [arriveThen]
  split
  · exact trivial
  split
  · exact trivial
  · exact h2 _ (by
      split
      · exact releaseAction_wf (barArrive_wf h)
      · exact barArrive_wf h)

theorem syncBar_wf {s : State} {team : Bool} {n count : Nat} (h : Memory.wf s.mem) : Eff.wf (syncBar s team n count) :=
  arriveThen_wf h (fun _ k => awaitBar_wf k)

theorem withQueue_wf {s : State} {q : Nat} {k : Eff} (h : Eff.wf k) : Eff.wf (withQueue s q k) := by
  simp only [withQueue]
  split
  · exact trivial
  · exact h

theorem pushEntry_wf {s : State} {q d : Nat} (h : Memory.wf s.mem) : Memory.wf (pushEntry s q d).mem :=
  setEntries_wf h

theorem adopt_wf {s : State} {h' : Word} (h : Memory.wf s.mem) : Memory.wf (adopt s h').mem := by
  simp only [adopt]
  repeat' split
  all_goals exact h

theorem popEntry_wf {s : State} {q d : Nat} (h : Memory.wf s.mem) : Memory.wf (popEntry s q d).mem := by
  simp only [popEntry]
  split
  · exact h
  · exact adopt_wf (setEntries_wf h)

theorem tryPush_wf {s : State} {stamp q d : Nat} (h : Memory.wf s.mem) : Eff.wf (tryPush s stamp q d) := by
  simp only [tryPush]
  split
  · exact pushEntry_wf h
  · exact h

theorem tryPop_wf {s : State} {stamp q d : Nat} (h : Memory.wf s.mem) : Eff.wf (tryPop s stamp q d) := by
  simp only [tryPop]
  split
  · exact popEntry_wf h
  · exact h

theorem homeAccess_wf {s : State} {va n : Nat} {need : Need} {k : State → Nat → Eff} (h : Memory.wf s.mem)
    (h2 : ∀ t x1, Memory.wf t.mem → Eff.wf (k t x1)) : Eff.wf (homeAccess s va n need k) := by
  simp only [homeAccess]
  split
  · next e => exact FaultInfo.orStall_wf (wf_of_eq e (reachGlobal_wf h) :)
  · next e =>
      have r := wf_of_eq e (reachGlobal_wf h)
      split
      · exact r
      split
      · exact h2 _ _ r
      · exact r
      · exact trivial

theorem homeFetch_wf {s : State} {va key n aux : Nat} {k : State → List Byte → Eff} (h : Memory.wf s.mem)
    (h2 : ∀ t x1, Memory.wf t.mem → Eff.wf (k t x1)) : Eff.wf (homeFetch s va key n aux k) := by
  simp only [homeFetch]
  split
  · exact homeRead_wf h
  · exact h2 _ _ (homeRead_wf h)

theorem homeStore_wf {s : State} {va key : Nat} {bs : List Byte} {k : State → Eff} (h : Memory.wf s.mem)
    (h2 : ∀ t, Memory.wf t.mem → Eff.wf (k t)) : Eff.wf (homeStore s va key bs k) := by
  simp only [homeStore]
  split
  · exact homeWrite_wf h
  · exact h2 _ (homeWrite_wf h)

theorem withSpan_wf {s : State} {va : Nat} {k : State → SpanDesc → Eff} (h : Memory.wf s.mem)
    (h2 : ∀ t x1, Memory.wf t.mem → Eff.wf (k t x1)) : Eff.wf (withSpan s va k) := by
  simp only [withSpan]
  exact homeAccess_wf h (fun _ _ k1 => by
    split
    · exact k1
    · exact homeFetch_wf k1 (fun _ _ k2 => by
        split
        · exact k2
        split
        · exact k2
        · exact h2 _ _ k2))

theorem spanPush_wf {s : State} {d : SpanDesc} {x : DWord} {k : State → Eff} (h : Memory.wf s.mem)
    (h2 : ∀ t, Memory.wf t.mem → Eff.wf (k t)) : Eff.wf (spanPush s d x k) := by
  simp only [spanPush]
  split
  · exact trivial
  · exact homeAccess_wf (releaseAction_wf h) (fun _ _ k1 => homeStore_wf k1 (fun _ k2 => homeStore_wf k2 (fun _ k3 => h2 _ k3)))

theorem spanPop_wf {s : State} {d : SpanDesc} {r : Nat} {k : State → Eff} (h : Memory.wf s.mem)
    (h2 : ∀ t, Memory.wf t.mem → Eff.wf (k t)) : Eff.wf (spanPop s d r k) := by
  simp only [spanPop]
  exact homeAccess_wf h (fun _ _ k1 => homeFetch_wf k1 (fun _ _ k2 => homeStore_wf k2 (fun _ k3 => h2 _ (acquireAction_wf k3))))

theorem trySpanPush_wf {s : State} {stamp a d : Nat} (h : Memory.wf s.mem) : Eff.wf (trySpanPush s stamp a d) :=
  withSpan_wf h (fun _ _ k => by
    split
    · exact spanPush_wf k (fun _ k1 => k1)
    · exact k)

theorem trySpanPop_wf {s : State} {stamp a d : Nat} (h : Memory.wf s.mem) : Eff.wf (trySpanPop s stamp a d) :=
  withSpan_wf h (fun _ _ k => by
    split
    · exact spanPop_wf k (fun _ k1 => k1)
    · exact k)

theorem withSem_wf {s : State} {va : Nat} {need : Need} {k : State → Nat → Nat → Nat → Eff} (h : Memory.wf s.mem)
    (h2 : ∀ t x1 x2 x3, Memory.wf t.mem → Eff.wf (k t x1 x2 x3)) : Eff.wf (withSem s va need k) := by
  simp only [withSem]
  exact homeAccess_wf h (fun _ _ k1 => by
    split
    · exact k1
    · exact homeFetch_wf k1 (fun _ _ k2 => by
        split
        · exact k2
        · exact h2 _ _ _ _ k2))

theorem semAdd_wf {s : State} {a d : Nat} (h : Memory.wf s.mem) : Eff.wf (semAdd s a d) := by
  simp only [semAdd]
  exact withSem_wf h (fun _ _ _ _ k => by
    split
    · exact trivial
    · exact homeStore_wf (releaseAction_wf k) (fun _ k1 => evalDeps_wf k1))

theorem semWait_wf {s : State} {a d b : Nat} (h : Memory.wf s.mem) : Eff.wf (semWait s a d b) :=
  withSem_wf h (fun _ _ _ _ k => by
    split
    · exact acquireAction_wf k
    · exact k)

theorem semRead_wf {s : State} {a b : Nat} (h : Memory.wf s.mem) : Eff.wf (semRead s a b) :=
  withSem_wf h (fun _ _ _ _ k => k)

theorem halted_wf {s : State} {a : Nat} (h : Memory.wf s.mem) : Eff.wf (halted s a) := by
  simp only [halted]
  split <;> exact h

theorem tryBlocked_wf {s : State} {stamp : Nat} {w : Blocked} (h : Memory.wf s.mem) : Eff.wf (tryBlocked s stamp w) := by
  simp only [tryBlocked]
  split
  · exact waitBody_wf h
  · exact awaitBar_wf h
  · exact tryPush_wf h
  · exact tryPop_wf h
  · exact trySpanPush_wf h
  · exact trySpanPop_wf h
  · exact semWait_wf h
  · exact halted_wf h

theorem fenceBody_wf {order scope : Nat} {async : Bool} {s : State} (h : Memory.wf s.mem) :
    Eff.wf (fenceBody order scope async s) := by
  simp only [fenceBody]
  split
  · exact trivial
  split
  · split
    · exact trivial
    · split
      · exact withDeferred_wf h (fun _ k => fenceAction_wf k)
      · exact fenceAction_wf h
  split
  · exact withDeferred_wf h (fun _ k => fenceAction_wf k)
  · exact fenceAction_wf h

/-! How grids, crews and squads end, and how records are submitted. -/

theorem writeStats_wf {s : State} {g : Grid} (h : Memory.wf s.mem) : Memory.wf (writeStats s g).1.mem := by
  simp only [writeStats]
  split
  · exact h
  · exact foldl_fst_wf (fun _ _ k => by
      split
      · exact k
      split
      · next e2 => exact (wf_of_eq e2 (deviceWrite_wf k) :)
      · next e2 => exact (wf_of_eq e2 (deviceWrite_wf k) :)) h

theorem completionAdd_wf {s : State} {g : Grid} (h : Memory.wf s.mem) : Memory.wf (completionAdd s g).mem := by
  simp only [completionAdd]
  split
  · exact h
  split
  · next e1 => exact errorRecord_wf (wf_of_eq e1 (deviceRead_wf h) :)
  · next e1 =>
      have r1 := wf_of_eq e1 (deviceRead_wf h)
      split
      · next e2 => exact errorRecord_wf (wf_of_eq e2 (deviceWrite_wf r1 :))
      · next e2 => exact evalDeps_wf (wf_of_eq e2 (deviceWrite_wf r1 :))

theorem completeGrid_wf {s : State} {g : Grid} (h : Memory.wf s.mem) : Memory.wf (completeGrid s g).mem :=
  completionAdd_wf (endGrid_wf (writeStats_wf h))

theorem dropCrew_wf {s : State} {c : Crew} (h : Memory.wf s.mem) : Memory.wf (dropCrew s c).mem :=
  refuse_wf (memClear_wf _ _ h)

theorem retireCrew_wf {s : State} {c : Crew} (h : Memory.wf s.mem) : Memory.wf (retireCrew s c).mem := by
  simp only [retireCrew]
  split
  · exact dropCrew_wf (flushL1_wf h)
  split
  · exact completeGrid_wf (dropCrew_wf (flushL1_wf h))
  · exact dropCrew_wf (flushL1_wf h)

theorem settleBars_wf {s : State} {crew : Nat} (h : Memory.wf s.mem) : Memory.wf (settleBars s crew).mem :=
  foldl_wf (fun _ _ k => barSettle_wf k) (foldl_wf (fun _ _ k => barSettle_wf k) h)

theorem retireSquad_wf {s : State} (h : Memory.wf s.mem) : Memory.wf (retireSquad s).mem := by
  simp only [retireSquad]
  split
  · exact stopMc_wf (settleBars_wf h)
  split
  · exact h
  split
  · exact retireCrew_wf (settleBars_wf h)
  · exact settleBars_wf h

theorem backToExit_wf {s : State} (h : Memory.wf s.mem) : Memory.wf (backToExit s).mem :=
  State.setPc_wf h

theorem endSquad_wf {s : State} (h : Memory.wf s.mem) : Memory.wf (endSquad s).mem := by
  simp only [endSquad]
  split
  · split
    · exact settle_wf (backToExit_wf h) trivial
    · exact retireSquad_wf h
  · exact h

theorem readSites_wf {s : State} {w : Submitter} {r : Record} (h : Memory.wf s.mem) : Memory.wf (readSites s w r).1.mem := by
  simp only [readSites]
  split
  · exact h
  split
  · next e1 => exact (wf_of_eq e1 (deviceRead_wf h) :)
  · next e1 =>
      have r1 := wf_of_eq e1 (deviceRead_wf h)
      split
      · exact r1
      split
      · next e3 => exact (wf_of_eq e3 (deviceRead_wf r1) :)
      · next e3 => exact readTable_wf (wf_of_eq e3 (deviceRead_wf r1 :))

theorem checkRecord_wf {s : State} {w : Submitter} {r : Record} {bs : List Byte} (h : Memory.wf s.mem) :
    Memory.wf (checkRecord s w r bs).1.mem := by
  delta checkRecord
  extract_lets m
  have k : Memory.wf m.1.mem := wf_ite (readSites_wf h) h
  clear_value m
  iterate 8 refine wf_ite (wf_mk h) ?_
  split
  · exact k
  · iterate 5 refine wf_ite (wf_mk k) ?_
    exact k

theorem accept_wf {s : State} {g : Grid} (h : Memory.wf s.mem) : Memory.wf (accept s g).mem :=
  evalGrid_wf (recordWrite_wf (recordWrite_wf h))

theorem submit_wf {s : State} {w : Submitter} {va : Nat} {bs : List Byte} (h : Memory.wf s.mem) :
    Memory.wf (submit s w va bs).1.mem := by
  simp only [submit]
  split
  · exact accept_wf (checkRecord_wf h)
  split
  · exact recordWrite_wf (recordWrite_wf (checkRecord_wf h))
  · exact checkRecord_wf h

theorem queueError_wf {s : State} {q code : Nat} (h : Memory.wf s.mem) : Memory.wf (queueError s q code).mem :=
  h

theorem takeEntry_wf {s : State} {q : Nat} (h : Memory.wf s.mem) : Memory.wf (takeEntry s q).mem := by
  delta takeEntry
  extract_lets w cfg part st ahead priv ctx entry
  clear_value ctx
  split
  · exact h
  split
  · exact queueError_wf h
  split
  · exact h
  split
  · next e => exact queueError_wf (wf_of_eq e (deviceRead_wf h))
  · next e =>
    have k := wf_of_eq e (deviceRead_wf h)
    extract_lets va
    split
    · exact queueError_wf k
    split
    · exact h
    split
    · next e => exact queueError_wf (wf_of_eq e (deviceRead_wf k))
    · next e => exact State.setQueue_wf (submit_wf (wf_of_eq e (deviceRead_wf k)))

theorem launchAt_wf {s : State} {va : Nat} (h : Memory.wf s.mem) : Memory.wf (launchAt s va).1.mem := by
  simp only [launchAt]
  split
  · next e => exact (wf_of_eq e (deviceRead_wf (flushL1_wf h)) :)
  · next e => exact submit_wf (wf_of_eq e (deviceRead_wf (flushL1_wf h)) :)

/-! Preemption: saving and restoring units. -/

theorem setUnit_wf {s : State} {u : PreUnit} (h : Memory.wf s.mem) : Memory.wf (setUnit s u).mem :=
  h

theorem mapCrewSquads_wf {s : State} {crews : List Nat} {f : Squad → Squad} (h : Memory.wf s.mem) :
    Memory.wf (mapCrewSquads s crews f).mem :=
  h

theorem requestUnit_wf {s u : State} {c : Crew} {cause : UnitCause} {keep : Bool} (h : Memory.wf s.mem)
    (e : requestUnit s c cause keep = some u) : Memory.wf u.mem := by
  simp only [requestUnit, Option.ite_none_left_eq_some, Option.some.injEq] at e
  obtain ⟨-, rfl⟩ := e
  exact mapCrewSquads_wf h

theorem requestUnit_getD_wf {s : State} {c : Crew} {cause : UnitCause} {keep : Bool} (h : Memory.wf s.mem) :
    Memory.wf ((requestUnit s c cause keep).getD s).mem := by
  cases e : requestUnit s c cause keep with
  | none => exact h
  | some u => exact requestUnit_wf h e

theorem startDraining_wf {s : State} {u : PreUnit} (h : Memory.wf s.mem) : Memory.wf (startDraining s u).mem := by
  simp only [startDraining]
  split <;> exact h

theorem startSaving_wf {s : State} {u : PreUnit} (h : Memory.wf s.mem) : Memory.wf (startSaving s u).mem := by
  simp only [startSaving]
  split
  · exact foldl_wf (fun _ _ k => flushL1_wf k) h
  · exact h

theorem writeImage_wf {s : State} {u : PreUnit} {a crews : Nat} (h : Memory.wf s.mem) :
    Memory.wf (writeImage s u a crews).1.mem := by
  unfold writeImage
  split
  · exact h
  split
  · next e => exact (wf_of_eq e (deviceWrite_wf h) :)
  · next e => exact (wf_of_eq e (deviceWrite_wf h) :)

theorem writeImages_wf {s : State} {u : PreUnit} (h : Memory.wf s.mem) : Memory.wf (writeImages s u).1.mem := by
  unfold writeImages
  split
  · exact wf_mk (writeImage_wf h)
  · refine foldl_fst_wf (fun _ _ k => ?_) h
    split
    · exact k
    · exact wf_mk (writeImage_wf k)

theorem moveBanks_wf {s : State} {c : Crew} {dest : List Nat} (h : Memory.wf s.mem) : Memory.wf (moveBanks s c dest).1.mem :=
  foldl_wf (fun _ _ k => moveBank_wf _ _ k) h

theorem removeSquads_wf {s : State} {crews : List Nat} (h : Memory.wf s.mem) : Memory.wf (removeSquads s crews).mem :=
  h

theorem holdUnit_wf {s : State} {u : PreUnit} {cause : UnitCause} (h : Memory.wf s.mem) :
    Memory.wf (holdUnit s u cause).mem := by
  delta holdUnit
  extract_lets crews moved sqs t t2 t3
  have k : Memory.wf moved.1.mem := foldl_fst_wf (fun _ _ k => by exact wf_mk (moveBanks_wf k)) h
  clear_value moved
  have kt : Memory.wf t.mem := removeSquads_wf k
  clear_value t
  have k2 : Memory.wf t2.mem := noteIdle_wf kt
  clear_value t2
  exact setUnit_wf (foldl_wf (fun _ _ k => refuse_wf k) k2)

theorem answer_wf {s : State} {squad x : Nat} (h : Memory.wf s.mem) : Memory.wf (answer s squad x).mem :=
  h

theorem answerSave_wf {s : State} {u : PreUnit} {squad x : Nat} (h : Memory.wf s.mem) :
    Memory.wf (answerSave s u squad x).mem := by
  simp only [answerSave]
  exact foldl_wf (fun _ _ k => answer_wf k) h

theorem endSaving_wf {s : State} {u : PreUnit} (h : Memory.wf s.mem) : Memory.wf (endSaving s u).mem := by
  simp only [endSaving]
  split
  · exact h
  split
  · exact answerSave_wf (holdUnit_wf (writeImages_wf (foldl_wf (fun _ _ k => flushL1_wf k) h)))
  · exact answerSave_wf (writeImages_wf (foldl_wf (fun _ _ k => flushL1_wf k) h))
  · exact holdUnit_wf (writeImages_wf (foldl_wf (fun _ _ k => flushL1_wf k) h))
  · exact errorRecord_wf (writeImages_wf (foldl_wf (fun _ _ k => flushL1_wf k) h))

theorem resumeCrew_wf {s : State} {u : PreUnit} {c : Crew} {core : Nat} (h : Memory.wf s.mem) :
    Memory.wf (resumeCrew s u c core).mem :=
  moveBanks_wf (foldl_wf (fun _ _ k => leaveRetention_wf k) h)

theorem resumeTeam_wf {s v : State} {u : PreUnit} {t : List Crew} {cores : List Nat} (h : Memory.wf s.mem)
    (e : resumeTeam s u t cores = some v) : Memory.wf v.mem := by
  unfold resumeTeam at e
  split at e
  · split at e
    · exact fusedAsAsked_wf (refuse_wf (resumeCrew_wf h)) e
    · cases e
  · split at e
    · exact fusedAsAsked_wf (refuse_wf (resumeCrew_wf (resumeCrew_wf h))) e
    · cases e
  · cases e

theorem resumeTeams_wf {u : PreUnit} {s v : State} {ts : List (List Crew)} {cores : List Nat} (h : Memory.wf s.mem)
    (e : resumeTeams u s ts cores = some v) : Memory.wf v.mem := by
  induction ts generalizing s cores with
  | nil =>
    simp only [resumeTeams] at e
    split at e
    · cases e
      exact h
    · cases e
  | cons t ts ih =>
    simp only [resumeTeams] at e
    split at e
    · cases e
    · next p => exact ih (resumeTeam_wf h p) e

theorem startRestoring_wf {s v : State} {u : PreUnit} {cores : List Nat} {cause : UnitCause} (h : Memory.wf s.mem)
    (e : startRestoring s u cores cause = some v) : Memory.wf v.mem := by
  simp only [startRestoring] at e
  split at e
  · cases e
  · next p =>
    cases e
    exact setUnit_wf (resumeTeams_wf h p)

theorem endRestoring_wf {s : State} {u : PreUnit} (h : Memory.wf s.mem) : Memory.wf (endRestoring s u).mem := by
  simp only [endRestoring]
  repeat' split
  all_goals exact h

theorem preemptOn_wf {s : State} {g : Grid} {cores : List Nat} (h : Memory.wf s.mem) : Memory.wf (preemptOn s g cores).mem := by
  unfold preemptOn
  split
  · exact h
  split
  · exact h
  · exact requestUnit_getD_wf h

theorem preemptFor_wf {s : State} {g : Grid} {k : Nat} (h : Memory.wf s.mem) : Memory.wf (preemptFor s g k).mem := by
  simp only [preemptFor]
  split
  · exact preemptOn_wf h
  · exact h

theorem restoreOn_wf {s : State} {u : PreUnit} {cores : List Nat} (h : Memory.wf s.mem) :
    Memory.wf (restoreOn s u cores).mem := by
  delta restoreOn
  extract_lets t
  have r : Memory.wf t.mem := by
    unfold t
    split
    · split
      · exact readTable_wf h
      · exact h
    · exact h
  clear_value t
  split
  · exact h
  split
  · split
    · next e => exact startRestoring_wf r e
    · split
      · exact preemptOn_wf r
      · exact r
  · exact r

theorem startSave_wf {s : State} {squad : Nat} {w : DWord} {keep dst : Nat} (h : Memory.wf s.mem) :
    Memory.wf (startSave s squad w keep dst).1.mem := by
  simp only [startSave]
  split
  · exact h
  split
  · repeat' split
    all_goals exact h
  · exact h

theorem startRest_wf {s : State} {squad a : Nat} {w : DWord} {dst : Nat} (h : Memory.wf s.mem) :
    Memory.wf (startRest s squad a w dst).1.mem := by
  unfold startRest
  split
  · next e => exact (wf_of_eq e (deviceRead_wf h) :)
  · next e =>
    have k := wf_of_eq e (deviceRead_wf h)
    extract_lets found named
    refine wf_ite k ?_
    clear_value found
    split
    · exact k
    · extract_lets first breaks
      refine wf_ite k ?_
      split
      · exact k
      split
      · exact k
      · next p => exact startRestoring_wf (setUnit_wf k) p

/-! Partitions and contexts. -/

theorem reserve_wf {s : State} {p : Nat} {v : DWord} (h : Memory.wf s.mem) : Memory.wf (reserve s p v).1.mem := by
  simp only [reserve]
  split <;> exact h

theorem endCommand_wf {s : State} {p err : Nat} (h : Memory.wf s.mem) : Memory.wf (endCommand s p err).mem :=
  h

theorem startPart_wf {s : State} {p : Nat} (h : Memory.wf s.mem) : Memory.wf (startPart s p).mem := by
  simp only [startPart]
  split
  · exact h
  split
  · exact h
  split
  · exact h
  · exact ownLinks_wf h

theorem finishStart_wf {s : State} {p : Nat} (h : Memory.wf s.mem) : Memory.wf (finishStart s p).mem := by
  simp only [finishStart]
  split <;> exact h

theorem stopPart_wf {s : State} {p : Nat} (h : Memory.wf s.mem) : Memory.wf (stopPart s p).mem := by
  simp only [stopPart]
  split
  · exact endCommand_wf h
  split
  · exact endCommand_wf h
  · exact endCommand_wf (ownLinks_wf (State.setPart_wf h))

theorem evacuate_wf {s : State} {p : Nat} (h : Memory.wf s.mem) : Memory.wf (evacuate s p).mem := by
  refine foldl_wf (fun _ _ k => ?_) h
  split
  · exact k
  · exact requestUnit_getD_wf k

theorem resizePart_wf {s : State} {p : Nat} (h : Memory.wf s.mem) : Memory.wf (resizePart s p).mem := by
  simp only [resizePart]
  split
  · exact h
  split
  · exact h
  split
  · exact h
  split
  · exact h
  split
  · exact h
  split
  · exact h
  · exact evacuate_wf (ownLinks_wf h)

theorem releasePart_wf {s : State} {p : Nat} (h : Memory.wf s.mem) : Memory.wf (releasePart s p).mem := by
  simp only [releasePart]
  split
  · exact h
  split
  · exact ownLinks_wf h
  · exact evacuate_wf h

theorem finishResize_wf {s : State} {p : Nat} (h : Memory.wf s.mem) : Memory.wf (finishResize s p).mem := by
  simp only [finishResize]
  split <;> exact h

theorem storeFor_wf {s : State} {ctx : Nat} {w : ArrWindow} (h : Memory.wf s.mem) : Memory.wf (storeFor s ctx w).mem :=
  foldl_wf (fun _ _ k => by
    split
    · exact k
    · next e =>
        have r := wf_of_eq e (resolve_wf k)
        split
        · exact homeWrite_wf r
        · exact r) h

theorem disarmFor_wf {s : State} {p ctx : Nat} (h : Memory.wf s.mem) : Memory.wf (disarmFor s p ctx).mem := by
  simp only [disarmFor]
  exact foldl_wf (fun _ _ k => setWin_wf (storeFor_wf k)) h

theorem discardPinned_wf {s : State} {p ctx : Nat} (h : Memory.wf s.mem) : Memory.wf (discardPinned s p ctx).mem := by
  simp only [discardPinned]
  exact foldl_wf (fun _ _ k => errorRecord_wf (l1Drop_wf k)) h

theorem clearContext_wf {s : State} {p ctx : Nat} (h : Memory.wf s.mem) : Memory.wf (clearContext s p ctx).mem :=
  foldl_wf (fun _ _ k => endGrid_wf k) (disarmFor_wf (foldl_wf (fun _ _ k => dropCrew_wf k) (discardPinned_wf h)))

theorem endContext_wf {s : State} {p ctx : Nat} (h : Memory.wf s.mem) : Memory.wf (endContext s p ctx).mem := by
  simp only [endContext]
  split
  · exact h
  · exact clearContext_wf h

theorem finishEnding_wf {s : State} {p : Nat} (h : Memory.wf s.mem) : Memory.wf (finishEnding s p).mem := by
  simp only [finishEnding]
  split <;> exact h

theorem postCommand_wf {s : State} {p : Nat} {v : DWord} (h : Memory.wf s.mem) : Memory.wf (postCommand s p v).mem := by
  simp only [postCommand]
  split <;> exact h

theorem writePartctl_wf {s : State} {p : Nat} {v : DWord} (h : Memory.wf s.mem) : Memory.wf (writePartctl s p v).mem := by
  simp only [writePartctl]
  split
  · split
    · next e1 => exact postCommand_wf (wf_of_eq e1 (reserve_wf h) :)
    · next e1 =>
        have r1 := wf_of_eq e1 (reserve_wf h)
        split <;> exact r1
  · exact postCommand_wf h

theorem writeKeep_wf {s : State} {p : Nat} {v : DWord} (h : Memory.wf s.mem) : Memory.wf (writeKeep s p v).mem := by
  simp only [writeKeep]
  split <;> exact h

/-! The survey, the windows of compressed memory and the system registers. -/

theorem gainOpen_wf {s : State} (h : Memory.wf s.mem) : Memory.wf (gainOpen s).mem :=
  h

theorem putRecords_wf {s : State} {area r n : Nat} (h : Memory.wf s.mem) : Memory.wf (putRecords s area r n).mem :=
  deviceWrite_wf h

theorem overtake_wf {s : State} {o : Nat × Nat} (h : Memory.wf s.mem) : Memory.wf (overtake s o).mem := by
  simp only [overtake]
  exact putRecords_wf (State.ticket_wf h)

theorem latch_wf {s : State} {t : Nat} (h : Memory.wf s.mem) : Memory.wf (latch s t).mem := by
  delta latch
  extract_lets _ u v _ w
  have ku : Memory.wf u.mem := foldl_wf (fun _ _ k => overtake_wf k) h
  clear_value u
  have kv : Memory.wf v.mem := gainOpen_wf ku
  clear_value v
  have kw : Memory.wf w.mem := kv
  clear_value w
  split
  · exact h
  split
  · exact raiseEvent_wf kw
  · exact kw

theorem rearm_wf {s : State} {t : Nat} (h : Memory.wf s.mem) : Memory.wf (rearm s t).mem := by
  simp only [rearm]
  split <;> exact h

theorem latchTick_wf {s : State} {t : Nat} (h : Memory.wf s.mem) : Memory.wf (latchTick s t).mem := by
  simp only [latchTick]
  split
  · exact rearm_wf (foldl_wf (fun _ _ k => answer_wf k) (latch_wf h))
  · exact foldl_wf (fun _ _ k => answer_wf k) (latch_wf h)

theorem latchDue_wf {n : Nat} {s : State} (h : Memory.wf s.mem) : Memory.wf (latchDue n s).mem := by
  induction n generalizing s with
  | zero => exact h
  | succ n ih =>
    simp only [latchDue]
    split
    · exact h
    · exact ih (latchTick_wf h)

theorem compareLatch_wf {s : State} (h : Memory.wf s.mem) : Memory.wf (compareLatch s).mem := by
  simp only [compareLatch]
  split
  · exact h
  split
  · exact latchTick_wf h
  · exact h

theorem writeSurvey_wf {s : State} (h : Memory.wf s.mem) : Memory.wf (writeSurvey s).mem := by
  simp only [writeSurvey]
  split
  · exact h
  split
  · exact h
  · exact raiseEvent_wf (putRecords_wf h)

theorem enableWindow_wf {s : State} {n : Nat} {v : DWord} (h : Memory.wf s.mem) : Memory.wf (enableWindow s n v).mem := by
  simp only [enableWindow]
  split <;> exact h

theorem disableWindow_wf {s : State} {n : Nat} {v : DWord} (h : Memory.wf s.mem) : Memory.wf (disableWindow s n v).mem := by
  simp only [disableWindow]
  split <;> exact h

theorem expandLine_wf {s : State} {line : Nat} (h : Memory.wf s.mem) : Memory.wf (expandLine s line).mem := by
  simp only [expandLine]
  split <;> exact memPut_wf _ _ (llcClean_wf h)

theorem expandWindow_wf {s : State} {n : Nat} (h : Memory.wf s.mem) : Memory.wf (expandWindow s n).mem := by
  simp only [expandWindow]
  split
  · exact h
  · exact foldl_wf (fun _ _ k => expandLine_wf k) h

theorem writeWindow_wf {s : State} {n : Nat} {v : DWord} (h : Memory.wf s.mem) : Memory.wf (writeWindow s n v).mem := by
  simp only [writeWindow]
  split
  · exact enableWindow_wf h
  · exact disableWindow_wf h

theorem writeSysstat_wf {s : State} {v : DWord} (h : Memory.wf s.mem) : Memory.wf (writeSysstat s v).mem := by
  simp only [writeSysstat]
  repeat' split
  all_goals exact h

theorem writeNbv_wf {s : State} {c : Nat} {v : DWord} (h : Memory.wf s.mem) : Memory.wf (writeNbv s c v).mem := by
  simp only [writeNbv]
  split <;> exact h

theorem sysWrite_wf {s : State} {n : Nat} {v : DWord} (h : Memory.wf s.mem) : Memory.wf (sysWrite s n v).mem := by
  simp only [sysWrite]
  split
  · exact writeSysstat_wf h
  · exact h
  · exact h
  · exact h
  · exact h
  · exact writeNbv_wf h
  · exact h
  · exact h
  · exact h
  · exact writeThresh_wf h
  · exact writeLanes_wf h
  · exact h
  · exact writeWindow_wf h
  · exact h
  · exact h
  · exact h
  · exact h
  · exact h
  · exact h
  · exact writePartctl_wf h
  · exact writeKeep_wf h
  · exact h

/-! The system instructions. -/

theorem afterFence_wf {s : State} {k : State → Eff} (h : Memory.wf s.mem) (h2 : ∀ t, Memory.wf t.mem → Eff.wf (k t)) :
    Eff.wf (afterFence s k) := by
  simp only [afterFence]
  split
  · exact trivial
  split
  · exact trivial
  · exact withDeferred_wf h (fun _ k1 => h2 _ (acquireAction_wf (releaseAction_wf k1)))

theorem stay_wf {s : State} (h : Memory.wf s.mem) : Eff.wf (stay s) :=
  State.setPc_wf h

theorem longEffect_wf {s : State} {d : Nat} {running : Bool} {begin_ : State → Eff} (h : Memory.wf s.mem)
    (h2 : ∀ t, Memory.wf t.mem → Eff.wf (begin_ t)) : Eff.wf (longEffect s d running begin_) := by
  simp only [longEffect]
  split
  · exact h
  split
  · exact trivial
  · exact afterFence_wf h (fun _ k => h2 _ k)

theorem giveX_wf {s : State} {d n : Nat} (h : Memory.wf s.mem) : Eff.wf (giveX s d n) :=
  h

theorem physical_wf {s : State} {a : Nat} {k : Eff} (h : Eff.wf k) : Eff.wf (physical s a k) :=
  failIf_wf h

theorem alignedAt_wf {s : State} {a n : Nat} {k : Eff} (h : Eff.wf k) : Eff.wf (alignedAt s a n k) :=
  failIf_wf h

theorem illegalIf_wf {s : State} {bad : Bool} {k : Eff} (h : Eff.wf k) : Eff.wf (illegalIf s bad k) :=
  failIf_wf h

theorem invalidate_wf {s : State} {sel : TlbSel} (h : Memory.wf s.mem) : Eff.wf (invalidate s sel) :=
  afterFence_wf h (fun _ k => by
    split
    · exact trivial
    · exact k)

theorem cleanRange_wf {s : State} {a n : Nat} (h : Memory.wf s.mem) : Memory.wf (cleanRange s a n).mem :=
  foldl_wf (fun _ _ k => llcClean_wf k) (foldl_wf (fun _ _ k => writeBack_wf k) h)

theorem purgeClean_wf {s : State} {a n : Nat} (h : Memory.wf s.mem) : Memory.wf (purgeClean s a n).mem :=
  foldl_wf (fun _ _ k => llcEvict_wf k) h

theorem discardRange_wf {s : State} {a n : Nat} (h : Memory.wf s.mem) : Memory.wf (discardRange s a n).mem :=
  foldl_wf (fun _ _ k => llcDiscard_wf k) h

theorem chop_wf {s : State} {d a : Nat} {wb : Bool} {f : State → Nat → Nat → State} (h : Memory.wf s.mem)
    (h2 : ∀ t x1 x2, Memory.wf t.mem → Memory.wf (f t x1 x2).mem) : Eff.wf (chop s d a wb f) :=
  illegalIf_wf (alignedAt_wf (alignedAt_wf (physical_wf (physical_wf (afterFence_wf h (fun _ k => by
    split
    · exact trivial
    · exact h2 _ _ _ k))))))

theorem statusOrStay_wf {d : Nat} {r : State × Option Nat} (h : Memory.wf r.1.mem) : Eff.wf (statusOrStay d r) := by
  simp only [statusOrStay]
  split
  · exact h
  · exact stay_wf h

theorem withLink_wf {s : State} {k : Nat → Eff} (h : ∀ x0, Eff.wf (k x0)) : Eff.wf (withLink s k) := by
  simp only [withLink]
  split
  · exact trivial
  · exact h _

theorem linkPlain_wf {s : State} {a : Nat} {k : State → Nat → Eff} (h : Memory.wf s.mem)
    (h2 : ∀ t x1, Memory.wf t.mem → Eff.wf (k t x1)) : Eff.wf (linkPlain s a k) :=
  withLink_wf (fun _ => illegalIf_wf (afterFence_wf h (fun _ k1 => h2 _ _ k1)))

theorem createResid_wf {s : State} {bs : List Byte} (h : Memory.wf s.mem) : Memory.wf (createResid s bs).1.mem := by
  simp only [createResid]
  split
  · exact h
  split
  · exact h
  split
  · exact h
  split
  · exact h
  · exact foldl_wf (fun _ _ k => freshBank_wf (leaveRetention_wf k)) h

theorem destroyResid_wf {s : State} {ctx id : Nat} (h : Memory.wf s.mem) : Memory.wf (destroyResid s ctx id).1.mem := by
  simp only [destroyResid]
  split
  · exact h
  split
  · exact h
  · exact foldl_wf (fun _ _ k => freshBank_wf (leaveRetention_wf k)) h

theorem withResid_wf {s : State} {a : Nat} {k : State → Nat → Nat → Eff} (h : Memory.wf s.mem)
    (h2 : ∀ t x1 x2, Memory.wf t.mem → Eff.wf (k t x1 x2)) : Eff.wf (withResid s a k) :=
  illegalIf_wf (afterFence_wf h (fun _ k1 => h2 _ _ _ k1))

theorem retirePage_wf {s : State} {page : Nat} (h : Memory.wf s.mem) : Memory.wf (retirePage s page).1.mem := by
  simp only [retirePage]
  repeat' split
  all_goals exact h

theorem quarantine_wf {s : State} {k w : Nat} (h : Memory.wf s.mem) : Memory.wf (quarantine s k w).1.mem := by
  simp only [quarantine]
  split
  · exact h
  split
  · exact h
  · exact foldl_wf (fun _ _ k1 => llcEvict_wf k1) h

theorem releaseWay_wf {s : State} {k w : Nat} (h : Memory.wf s.mem) : Memory.wf (releaseWay s k w).1.mem := by
  simp only [releaseWay]
  split <;> exact h

theorem discardWay_wf {s : State} {k w : Nat} (h : Memory.wf s.mem) : Memory.wf (discardWay s k w).1.mem := by
  simp only [discardWay]
  split
  · exact h
  · exact foldl_wf (fun _ _ k1 => llcDiscard_wf k1) h

theorem onWay_wf {s : State} {d : Nat} {f : State → Nat → Nat → State × Nat} (h : Memory.wf s.mem)
    (h2 : ∀ t x1 x2, Memory.wf t.mem → Memory.wf (f t x1 x2).1.mem) : Eff.wf (onWay s d f) :=
  afterFence_wf h (fun _ k => h2 _ _ _ k)

/-! The steps of the device outside the squads. -/

theorem whenever_wf {b : Bool} {s t : State} (h : Memory.wf s.mem) (h2 : Memory.wf t.mem) : Res.wf (whenever b s t) := by
  simp only [whenever]
  split
  · exact h2
  · exact h

theorem onSquad_wf {s : State} {sq : Nat} {k : State → State} (h : Memory.wf s.mem)
    (h2 : ∀ t, Memory.wf t.mem → Memory.wf (k t).mem) : Res.wf (onSquad s sq k) := by
  simp only [onSquad]
  split
  · exact h
  · next e => exact h2 _ (State.checkout_wf h e)

theorem deliverEvent_wf {s : State} (h : Memory.wf s.mem) : Memory.wf (deliverEvent s).mem := by
  simp only [deliverEvent]
  split
  · split
    · exact h
    · exact enterSystem_wf h
  · exact h

theorem expire_wf {s : State} (h : Memory.wf s.mem) : Memory.wf (expire s).mem := by
  simp only [expire]
  split <;> exact h

theorem dropWait_wf {s : State} {k : Nat} (h : Memory.wf s.mem) : Memory.wf (dropWait s k).mem :=
  h

theorem blockedState_wf {s : State} {w : Wait} (h : Memory.wf s.mem) : Memory.wf (blockedState s w).mem :=
  h

theorem settleBlocked_wf {s u : State} {k : Nat} {x : Eff} (h : Memory.wf s.mem) (hx : Eff.wf x)
    (e : settleBlocked s k x = some u) : Memory.wf u.mem := by
  cases x <;> cases e
  case done | switch | halted => exact dropWait_wf hx
  case after => exact takeFault_wf (dropWait_wf hx)
  case fault => exact takeFault_wf (dropWait_wf h)
  case consume => exact takeFault_wf (State.onSq_wf (dropWait_wf h))
  case faultIn => exact takeFault_wf (dropWait_wf (faultPoint_wf hx))

theorem tryAgain_wf {s : State} {w : Wait} (h : Memory.wf s.mem) : Eff.wf (tryAgain s w) := by
  simp only [tryAgain]
  split
  · exact trivial
  split
  · exact trivial
  · exact tryBlocked_wf h

theorem unblock_wf {s t : State} {k : Nat} (h : Memory.wf s.mem) (ht : Memory.wf t.mem) : Memory.wf (unblock s t k).mem := by
  unfold unblock
  split
  · exact h
  · next w _ =>
    split
    · exact h
    · extract_lets u v
      cases e : settleBlocked u k (tryAgain v w) with
      | none => exact h
      | some x => exact settleBlocked_wf (blockedState_wf ht) (tryAgain_wf (State.setPc_wf (blockedState_wf ht))) e

theorem completeOp_wf {s : State} {o : Op} (h : Memory.wf s.mem) : Memory.wf (completeOp s o).mem := by
  simp only [completeOp]
  split
  · split
    · exact retireOps_wf (completeLoad_wf h)
    · exact h
  · split
    · exact retireOps_wf (completeStore_wf h)
    · exact h
  · split
    · exact retireOps_wf (completeAtomic_wf h)
    · exact h
  · exact completeEngine_wf h

theorem againRecord_wf {s : State} {r : Replay} {p : Awaited} {f : TrFault} (h : Memory.wf s.mem) :
    Memory.wf (againRecord s r p f).mem := by
  simp only [againRecord]
  split
  · exact h
  · exact faultRecord_wf h

theorem walkAgain_wf {r : Replay} {st : State × List Awaited} {p : Awaited} (h : Memory.wf st.1.mem) :
    Memory.wf (walkAgain r st p).1.mem := by
  simp only [walkAgain]
  split
  · exact h
  split
  · next e1 =>
      have r1 := wf_of_eq e1 (resolve_wf h)
      split
      · exact r1
      split
      · exact againRecord_wf r1
      · exact r1
  · next e1 => exact (wf_of_eq e1 (resolve_wf h) :)

theorem replaySquad_wf {s : State} (h : Memory.wf s.mem) : Memory.wf (replaySquad s).mem := by
  simp only [replaySquad]
  split
  · exact h
  · exact foldl_fst_wf (fun _ _ k => walkAgain_wf k) h

theorem replayNow_wf {s : State} {k : Nat} (h : Memory.wf s.mem) : Memory.wf (replayNow s k).mem := by
  simp only [replayNow]
  split
  · exact replaySquad_wf h
  · repeat' split
    all_goals exact h

theorem timeOutPeer_wf {s : State} {peer : Nat} (h : Memory.wf s.mem) : Memory.wf (timeOutPeer s peer).mem := by
  simp only [timeOutPeer]
  split
  · exact foldl_wf (fun _ _ k => onOp_wf k (fun _ _ k1 => by
      split
      · exact completeOp_wf k1
      · exact k1)) h
  · exact h

theorem distribute_wf {s : State} {g n : Nat} {cores : List Nat} (h : Memory.wf s.mem) :
    Memory.wf (distribute s g n cores).mem := by
  simp only [distribute]
  split
  · exact h
  split
  · exact h
  split
  · next e2 => exact tryPlace_wf h e2
  · exact preemptFor_wf h

theorem onUnit_wf {s : State} {u : Nat} {k : PreUnit → State} (h : Memory.wf s.mem) (h2 : ∀ x0, Memory.wf (k x0).mem) :
    Res.wf (onUnit s u k) := by
  simp only [onUnit]
  split
  · exact h
  · exact h2 _

theorem runCommand_wf {s : State} {p : Nat} {cmds : List Nat} {k : State → DWord → State} (h : Memory.wf s.mem)
    (h2 : ∀ t x1, Memory.wf t.mem → Memory.wf (k t x1).mem) : Res.wf (runCommand s p cmds k) := by
  simp only [runCommand]
  split
  · exact h
  · exact whenever_wf h (h2 _ _ h)

theorem outsideWrite_wf {s : State} {pa : Nat} {bytes : List Byte} {bad : Bool} (h : Memory.wf s.mem) :
    Memory.wf (outsideWrite s pa bytes bad).mem := by
  simp only [outsideWrite]
  split <;> exact homeWrite_wf h

theorem outsideRead_wf {s : State} {pa n : Nat} (h : Memory.wf s.mem) : Memory.wf (outsideRead s pa n).mem :=
  homeRead_wf h

theorem bySystem_wf {s t : State} (h : Memory.wf s.mem) (h2 : Memory.wf t.mem) : Res.wf (bySystem s t) :=
  whenever_wf h h2

theorem dataRecord_wf {s : State} {ctx : Option Nat} {structure_ aux unit addr core : Nat} (h : Memory.wf s.mem) :
    Memory.wf (dataRecord s ctx structure_ aux unit addr core).mem :=
  errorRecord_wf h

theorem poisonSector_wf {s : State} {sec : Nat} (h : Memory.wf s.mem) : Memory.wf (poisonSector s sec).mem :=
  h

theorem llcDataError_wf {s : State} {l : LlcLine} {sec : Nat} (h : Memory.wf s.mem) : Memory.wf (llcDataError s l sec).mem := by
  simp only [llcDataError]
  split
  · exact llcShow_wf h
  · exact dataRecord_wf h

theorem llcTagError_wf {s : State} {l : LlcLine} (h : Memory.wf s.mem) : Memory.wf (llcTagError s l).mem :=
  errorRecord_wf (llcDiscard_wf h)

theorem scrubLlc_wf {s : State} {sec : Nat} {f : Finding} (h : Memory.wf s.mem) : Memory.wf (scrubLlc s sec f).mem := by
  simp only [scrubLlc]
  split
  · exact h
  split
  · exact h
  · exact h
  · exact llcDataError_wf h
  · exact llcTagError_wf h
  · exact h

theorem poisonHbm_wf {s : State} {sec : Nat} (h : Memory.wf s.mem) : Memory.wf (poisonHbm s sec).mem := by
  simp only [poisonHbm]
  split <;> exact h

theorem spoilMeta_wf {s : State} {line : Nat} (h : Memory.wf s.mem) : Memory.wf (spoilMeta s line).mem := by
  simp only [spoilMeta]
  split <;> exact h

theorem scrubHbm_wf {s : State} {sec : Nat} {f : Finding} (h : Memory.wf s.mem) : Memory.wf (scrubHbm s sec f).mem := by
  simp only [scrubHbm]
  split
  · exact h
  · exact h
  · exact dataRecord_wf (poisonHbm_wf h)
  · exact h
  split
  · exact metaRecord_wf (spoilMeta_wf h)
  · exact h

theorem dropTlb_wf {s : State} {n : Nat} (h : Memory.wf s.mem) : Memory.wf (dropTlb s n).mem := by
  simp only [dropTlb]
  split <;> exact h

theorem applyUpset_wf {s : State} {u : Upset} (h : Memory.wf s.mem) : Memory.wf (applyUpset s u).mem := by
  simp only [applyUpset]
  split
  · exact countCorrected_wf h
  · exact dataRecord_wf (poisonSector_wf h)
  · exact h
  · split
    · exact h
    · exact dataRecord_wf (State.setCrew_wf h)
  · split
    · exact h
    · next e1 => exact dataRecord_wf (State.onSq_wf (State.checkout_wf h e1))
  · split
    · exact h
    · next e1 =>
        split
        · exact h
        · exact dataRecord_wf (State.onSq_wf (State.checkout_wf h e1))
  · split
    · exact h
    · split
      · exact countCorrected_wf (l1Drop_wf h)
      · exact dataRecord_wf (l1Set_wf h)
  · exact countCorrected_wf (dropTlb_wf h)
  · exact setGroup_wf h

theorem restart_wf {s : State} (h : Memory.wf s.mem) : Memory.wf (restart s).mem :=
  wf_filter _ (foldl_wf (fun _ _ k => llcDiscard_wf k) h)

theorem verify_wf {s : State} {status : Nat} {entry : DWord} (h : Memory.wf s.mem) : Memory.wf (verify s status entry).mem := by
  simp only [verify]
  split
  · exact setReady0_wf (setReady0_wf h)
  · exact h

theorem stackReady_wf {s : State} {k base size row : Nat} (h : Memory.wf s.mem) :
    Memory.wf (stackReady s k base size row).mem := by
  simp only [stackReady]
  split
  · exact setReady0_wf h
  · exact h

theorem establishIde_wf {s : State} (h : Memory.wf s.mem) : Memory.wf (establishIde s).mem :=
  setReady1_wf h

theorem deriveKey_wf {s : State} (h : Memory.wf s.mem) : Memory.wf (deriveKey s).mem := by
  simp only [deriveKey]
  split
  · exact h
  · exact setReady1_wf h

theorem functionReady_wf {s : State} {fn : ReadyFunction} (h : Memory.wf s.mem) : Memory.wf (functionReady s fn).mem := by
  simp only [functionReady]
  split
  · split
    · exact setReady0_wf h
    · exact h
  · exact stackReady_wf h
  · split
    · exact setReady0_wf h
    · exact h
  · split
    · exact setReady0_wf h
    · exact h
  · split
    · exact portUp_wf h
    · exact h
  · exact establishIde_wf h
  · exact deriveKey_wf h

theorem returnReport_wf {s : State} {pa : Nat} (h : Memory.wf s.mem) : Memory.wf (returnReport s pa).mem := by
  simp only [returnReport]
  split
  · exact h
  split
  · exact homeWrite_wf h
  · exact h

theorem countUsed_wf {s : State} (h : Memory.wf s.mem) : Memory.wf (countUsed s).mem :=
  foldl_wf (fun _ _ k => demote_wf k) h

theorem elapse_wf {s : State} {dt : Nat} {m : Move} (h : Memory.wf s.mem) : Memory.wf (elapse s dt m).mem := by
  simp only [elapse]
  split
  · exact foldl_wf (fun _ _ k => refuse_wf k) (countUsed_wf h)
  · exact latchDue_wf (foldl_wf (fun _ _ k => refuse_wf k) (countUsed_wf (by split <;> exact h)))

/-! The instructions, the steps of the device, and the step of the machine. -/

theorem execRet_wf {s : State} (h : Memory.wf s.mem) : Res.wf (execRet s) := by
  simp only [execRet]
  exact issue_wf h (fun _ k => by
    split
    · exact trivial
    · exact State.setPc_wf k)

theorem execMovxr_wf {d a : BitVec 7} {s : State} (h : Memory.wf s.mem) : Res.wf (execMovxr d a s) :=
  issue_wf h (fun _ k => namedRegister_wf (by
    split
    · exact trivial
    · exact k))

theorem execRdlane_wf {d a b : BitVec 7} {s : State} (h : Memory.wf s.mem) : Res.wf (execRdlane d a b s) := by
  simp only [execRdlane]
  exact issue_wf h (fun _ k => by
    split
    · exact trivial
    split
    · exact trivial
    · exact k)

theorem execWrlane_wf {d a b : BitVec 7} {s : State} (h : Memory.wf s.mem) : Res.wf (execWrlane d a b s) := by
  simp only [execWrlane]
  exact issue_wf h (fun _ k => by
    split
    · exact trivial
    · exact k)

theorem execPmask_wf {d : BitVec 3} {a : BitVec 7} {h' : BitVec 1} {s : State} (h : Memory.wf s.mem) :
    Res.wf (execPmask d a h' s) :=
  issue_wf h (fun _ k => by split <;> exact k)

theorem execMfsr_wf {d n : BitVec 7} {s : State} (h : Memory.wf s.mem) : Res.wf (execMfsr d n s) :=
  issue_wf h (fun _ k => by
    split
    · exact k
    · exact afterFence_wf k (fun _ k1 => k1))

theorem execMtsr_wf {n a : BitVec 7} {s : State} (h : Memory.wf s.mem) : Res.wf (execMtsr n a s) :=
  issue_wf h (fun _ k => by
    split
    · exact sysWrite_wf k
    · exact afterFence_wf k (fun _ k1 => sysWrite_wf k1))

theorem execCxrest_wf {d a : BitVec 7} {s : State} (h : Memory.wf s.mem) : Res.wf (execCxrest d a s) :=
  issue_wf h (fun _ k => physical_wf (longEffect_wf k (fun _ k1 => by
    split
    · exact trivial
    · exact statusOrStay_wf (startRest_wf k1))))

theorem execLnkctlWidth_wf {d a : BitVec 7} {s : State} (h : Memory.wf s.mem) : Res.wf (execLnkctlWidth d a s) :=
  issue_wf h (fun _ k => withLink_wf (fun _ => illegalIf_wf (afterFence_wf k (fun _ k1 => by
    split
    · split
      · exact trainGroup_wf k1
      · exact trivial
    split
    · exact k1
    · exact stay_wf (setGroup_wf k1)))))

theorem execRetainCreate_wf {d a : BitVec 7} {s : State} (h : Memory.wf s.mem) : Res.wf (execRetainCreate d a s) := by
  unfold execRetainCreate
  refine issue_wf h fun _ k => ?_
  extract_lets x
  refine alignedAt_wf (physical_wf (afterFence_wf k fun _ k1 => ?_))
  split
  · trivial
  · extract_lets r c
    split
    · exact homeRead_wf k1
    · exact giveX_wf (createResid_wf (homeRead_wf k1))

theorem execMcctlMetawr_wf {d a : BitVec 7} {s : State} (h : Memory.wf s.mem) : Res.wf (execMcctlMetawr d a s) :=
  issue_wf h (fun _ k => illegalIf_wf (alignedAt_wf (physical_wf (afterFence_wf k (fun _ k1 => by
    split
    · exact setMeta_wf k1
    · exact k1)))))

theorem execPref_wf {l : BitVec 1} {a b : BitVec 7} {s : State} (h : Memory.wf s.mem) : Res.wf (execPref l a b s) := by
  simp only [execPref]
  exact issue_wf h (fun _ k => by
    split
    · exact foldl_wf (fun _ _ k1 => prefetch_wf k1) k
    · exact trivial)

theorem execQpushTry_wf {d : BitVec 7} {q : BitVec 4} {b : BitVec 7} {s : State} (h : Memory.wf s.mem) :
    Res.wf (execQpushTry d q b s) :=
  issue_wf h (fun _ k => withQueue_wf (by
    split
    · exact pushEntry_wf k
    · exact k))

theorem execQpushSpanTry_wf {d a b : BitVec 7} {s : State} (h : Memory.wf s.mem) : Res.wf (execQpushSpanTry d a b s) :=
  issue_wf h (fun _ k => withSpan_wf k (fun _ _ k1 => by
    split
    · exact spanPush_wf k1 (fun _ k2 => k2)
    · exact k1))

theorem execQpopTry_wf {d : BitVec 7} {q : BitVec 4} {b : BitVec 7} {s : State} (h : Memory.wf s.mem) :
    Res.wf (execQpopTry d q b s) :=
  issue_wf h (fun _ k => withQueue_wf (by
    split
    · exact popEntry_wf k
    · exact k))

theorem execQpopSpanTry_wf {d a b : BitVec 7} {s : State} (h : Memory.wf s.mem) : Res.wf (execQpopSpanTry d a b s) :=
  issue_wf h (fun _ k => withSpan_wf k (fun _ _ k1 => by
    split
    · exact spanPop_wf k1 (fun _ k2 => k2)
    · exact k1))

theorem execLaunch_wf {d a : BitVec 7} {s : State} (h : Memory.wf s.mem) : Res.wf (execLaunch d a s) := by
  unfold execLaunch
  refine issue_wf h fun _ k => failIf_wf (failIf_wf ?_)
  split
  · trivial
  · exact State.setX_wf (launchAt_wf k)

theorem execBankQuery_wf {d a : BitVec 7} {s : State} (h : Memory.wf s.mem) : Res.wf (execBankQuery d a s) :=
  issue_wf h (fun _ k => withCrew_wf (fun _ => by
    split
    · split
      · exact trivial
      · exact failIf_wf k
    · exact failIf_wf k))

theorem execSystemEventDelivery_wf {s : State} (h : Memory.wf s.mem) : Res.wf (execSystemEventDelivery s) := by
  simp only [execSystemEventDelivery]
  split
  · exact h
  · exact onSquad_wf h (fun _ k => deliverEvent_wf k)

theorem execLoadComplete_wf {sq k : Nat} {s : State} (h : Memory.wf s.mem) : Res.wf (execLoadComplete sq k s) :=
  onOp_wf h (fun _ _ k1 => by
    split
    · exact completeOp_wf k1
    · exact h)

theorem execStoreComplete_wf {sq k : Nat} {s : State} (h : Memory.wf s.mem) : Res.wf (execStoreComplete sq k s) :=
  onOp_wf h (fun _ _ k1 => by
    split
    · exact completeOp_wf k1
    · exact h)

theorem execAtomicComplete_wf {sq k : Nat} {s : State} (h : Memory.wf s.mem) : Res.wf (execAtomicComplete sq k s) :=
  onOp_wf h (fun _ _ k1 => by
    split
    · exact completeOp_wf k1
    · exact h)

theorem execEngineOperationComplete_wf {sq k : Nat} {s : State} (h : Memory.wf s.mem) :
    Res.wf (execEngineOperationComplete sq k s) :=
  onOp_wf h (fun _ _ k1 => by
    split
    · exact completeOp_wf k1
    · exact h)

theorem execLastPush_wf {sq k : Nat} {s : State} (h : Memory.wf s.mem) : Res.wf (execLastPush sq k s) :=
  onOp_wf h (fun _ _ k1 => by
    split
    · exact retireOps_wf k1
    · exact h)

theorem execSquadRetire_wf {sq : Nat} {s : State} (h : Memory.wf s.mem) : Res.wf (execSquadRetire sq s) :=
  onSquad_wf h (fun _ k => by
    split
    · exact h
    · exact endSquad_wf k)

theorem execEndContext_wf {p ctx : Nat} {s : State} (h : Memory.wf s.mem) : Res.wf (execEndContext p ctx s) := by
  simp only [execEndContext]
  split
  · exact h
  · exact runCommand_wf h (fun _ _ k => by
      split
      · exact endContext_wf k
      · exact h)

theorem execPeerRequest_wf {rq : OutsideRequest} {s : State} (h : Memory.wf s.mem) : Res.wf (execPeerRequest rq s) := by
  simp only [execPeerRequest]
  split
  · exact h
  split
  · exact whenever_wf h (outsideRead_wf h)
  · exact whenever_wf h (outsideWrite_wf h)

theorem execHostHdmRead_wf {pa n : Nat} {s : State} (h : Memory.wf s.mem) : Res.wf (execHostHdmRead pa n s) := by
  simp only [execHostHdmRead]
  split
  · exact whenever_wf h h
  · exact whenever_wf h (outsideRead_wf h)

theorem execSysstatWrite_wf {v : BitVec 64} {s : State} (h : Memory.wf s.mem) : Res.wf (execSysstatWrite v s) :=
  bySystem_wf h (writeSysstat_wf h)

theorem execErrpopWrite_wf {v : BitVec 64} {s : State} (h : Memory.wf s.mem) : Res.wf (execErrpopWrite v s) :=
  bySystem_wf h h

theorem execMcwinEnable_wf {v : BitVec 64} {s : State} (h : Memory.wf s.mem) : Res.wf (execMcwinEnable v s) :=
  bySystem_wf h (enableWindow_wf h)

theorem execMcwinDisable_wf {v : BitVec 64} {s : State} (h : Memory.wf s.mem) : Res.wf (execMcwinDisable v s) :=
  bySystem_wf h (disableWindow_wf h)

theorem execSurveyctlWrite_wf {v : BitVec 64} {s : State} (h : Memory.wf s.mem) : Res.wf (execSurveyctlWrite v s) :=
  bySystem_wf h h

theorem execLnklanesWrite_wf {v : BitVec 64} {s : State} (h : Memory.wf s.mem) : Res.wf (execLnklanesWrite v s) :=
  bySystem_wf h (writeLanes_wf h)

theorem execKeepbaseWrite_wf {v : BitVec 64} {s : State} (h : Memory.wf s.mem) : Res.wf (execKeepbaseWrite v s) :=
  bySystem_wf h (writeKeep_wf h)

theorem execSystemRegisterWrite_wf {n : BitVec 7} {v : BitVec 64} {s : State} (h : Memory.wf s.mem) :
    Res.wf (execSystemRegisterWrite n v s) :=
  bySystem_wf h (sysWrite_wf h)

/-- The canonical form is kept by the halfword instructions (numbers 0 to 23 in the table's order). -/
theorem exec_wf_halfword {i : Instr} {s : State} (range : (decide (0 ≤ i.ctorIdx) && decide (i.ctorIdx < 24)) = true)
    (h : Memory.wf s.mem) : Res.wf (exec i s) := by
  delta exec
  cases i
  case mov16 | add16 | sub16 | mul16 | and16 | or16 | xor16 | shl16 | shr16 | sar16 | fneg16 | nop | yield | exit =>
    dsimp only
    exact issue_wf h (fun _ k => k)
  case fadd16 | fsub16 | fmul16 | fmin16 | fmax16 =>
    dsimp only
    exact issue_wf h (fun _ k => fpLane2_wf k)
  case guard =>
    dsimp only
    exact setGuard_wf h
  case ord =>
    dsimp only
    exact h
  case ret => exact execRet_wf h
  case brk =>
    dsimp only
    exact issue_wf h (fun _ k => deliverTrap_wf k)
  case wait0 =>
    dsimp only
    exact issue_wf h (fun _ k => waitBody_wf k)
  all_goals exact (Bool.false_ne_true range).elim

/-- The canonical form is kept by the lane instructions of format R (numbers 24 to 145 in the table's order). -/
theorem exec_wf_lane {i : Instr} {s : State} (range : (decide (24 ≤ i.ctorIdx) && decide (i.ctorIdx < 146)) = true)
    (h : Memory.wf s.mem) : Res.wf (exec i s) := by
  delta exec
  cases i
  case add | addS | sub | subS | mul | mulS | mulhiI32 | mulhiI32S | mulhiN32 | mulhiN32S | and | andS | or | orS | xor | xorS |
      shl | shlS | shr | shrS | sar | sarS | minI32 | minI32S | maxI32 | maxI32S | minN32 | minN32S | maxN32 | maxN32S |
      addsatI32 | addsatI32S | subsatI32 | subsatI32S | mad | madS | prmt | prmtS | bfe | bfeS | bfi | bfiS | setp | setpS |
      selp | popc | clz | brev | abs | neg | not | mov | movs | sext | fabs | fneg | fclass | idot4 | idot4S | mxscale |
      voteBallot | voteAll | voteAny | voteUni | voteBallotHi | matchAny | matchFirst =>
    dsimp only
    exact issue_wf h (fun _ k => k)
  case movx =>
    dsimp only
    exact issue_wf h (fun _ k => namedRegister_wf k)
  case movxr => exact execMovxr_wf h
  case fadd | faddS | fsub | fsubS | fmul | fmulS | fmin | fminS | fmax | fmaxS | fdiv | fdivS =>
    dsimp only
    exact issue_wf h (fun _ k => fpLane2_wf k)
  case ffma | ffmaS | fnma | fnmaS =>
    dsimp only
    exact issue_wf h (fun _ k => fpLane3_wf k)
  case fsetp | fsetpS =>
    dsimp only
    exact issue_wf h (fun _ k => compareFloat_wf k)
  case frcp | frsq | fsqrt | fex2 | flg2 | fsin | fcos | ftanh | frnd =>
    dsimp only
    exact issue_wf h (fun _ k => fpLane1_wf k)
  case hadd2 | hadd2S | badd2 | badd2S =>
    dsimp only
    exact issue_wf h (fun _ k => packedAdd_wf k)
  case hmul2 | hmul2S | bmul2 | bmul2S =>
    dsimp only
    exact issue_wf h (fun _ k => packedMul_wf k)
  case hfma2 | hfma2S | bfma2 | bfma2S =>
    dsimp only
    exact issue_wf h (fun _ k => packedFma_wf k)
  case dot2 | dot2S =>
    dsimp only
    exact issue_wf h (fun _ k => dotPair_wf k)
  case cvtfi | cvtif | cvtff | cvtpk | mxq =>
    dsimp only
    exact issue_wf h (fun _ k => fpTagged_wf k)
  case cvtup =>
    dsimp only
    exact issue_wf h (fun _ k => fpLanes_wf k)
  case shflIdx =>
    dsimp only
    exact issue_wf h (fun _ k => shuffle_wf k)
  case shflXor | shflUp | shflDn =>
    dsimp only
    exact issue_wf h (fun _ k => shuffleBy_wf k)
  case redsq | scan =>
    dsimp only
    exact issue_wf h (fun _ k => putCombined_wf k)
  all_goals exact (Bool.false_ne_true range).elim

/-- The canonical form is kept by the scalar, predicate and system instructions of format R (numbers 146 to 213 in the
table's order). -/
theorem exec_wf_scalar {i : Instr} {s : State} (range : (decide (146 ≤ i.ctorIdx) && decide (i.ctorIdx < 214)) = true)
    (h : Memory.wf s.mem) : Res.wf (exec i s) := by
  delta exec
  cases i
  case sadd | ssub | smul | smulhi | sand | sor | sxor | sshl | sshr | ssar | smin | smax | sminn | smaxn | seq | sne | slt |
      sle | sltn | slen | smov | sdivn | sremn | sclz | spopc | ssel | rdsr | wrsr | time | pand | por | pxor | pset | pget =>
    dsimp only
    exact issue_wf h (fun _ k => k)
  case rdlane => exact execRdlane_wf h
  case wrlane => exact execWrlane_wf h
  case pmask => exact execPmask_wf h
  case mfsr => exact execMfsr_wf h
  case mtsr => exact execMtsr_wf h
  case tlbinvAll | tlbinvCtx | tlbinvPage =>
    dsimp only
    exact issue_wf h (fun _ k => illegalIf_wf (invalidate_wf k))
  case cchopWb =>
    dsimp only
    exact issue_wf h (fun _ k => chop_wf k (fun _ _ _ k1 => cleanRange_wf k1))
  case cchopWbinv =>
    dsimp only
    exact issue_wf h (fun _ k => chop_wf k (fun _ _ _ k1 => purgeClean_wf (cleanRange_wf k1)))
  case cchopInv =>
    dsimp only
    exact issue_wf h (fun _ k => chop_wf k (fun _ _ _ k1 => discardRange_wf k1))
  case cchopUnkeep =>
    dsimp only
    exact issue_wf h (fun _ k => chop_wf k (fun _ _ _ k1 => k1))
  case survey =>
    dsimp only
    exact issue_wf h (fun _ k => longEffect_wf k (fun _ k1 => stay_wf k1))
  case halt =>
    dsimp only
    exact issue_wf h (fun _ k => illegalIf_wf (afterFence_wf k (fun _ k1 => halted_wf k1)))
  case cxsave =>
    dsimp only
    exact issue_wf h (fun _ k => alignedAt_wf (physical_wf (longEffect_wf k (fun _ k1 => statusOrStay_wf (startSave_wf k1)))))
  case cxrest => exact execCxrest_wf h
  case sret =>
    dsimp only
    exact issue_wf h (fun _ k => returnSystem_wf k)
  case lnkctlPause | lnkctlResume | lnkctlClrretry =>
    dsimp only
    exact issue_wf h (fun _ k => linkPlain_wf k (fun _ _ k1 => k1))
  case lnkctlSpare =>
    dsimp only
    exact issue_wf h (fun _ k => withLink_wf (fun _ => illegalIf_wf (afterFence_wf k (fun _ k1 => spareLane_wf k1))))
  case lnkctlWidth => exact execLnkctlWidth_wf h
  case errrd | mcctlMetard =>
    dsimp only
    exact issue_wf h (fun _ k => alignedAt_wf (physical_wf (afterFence_wf k (fun _ k1 => k1))))
  case retainCreate => exact execRetainCreate_wf h
  case retainDestroy =>
    dsimp only
    exact issue_wf h (fun _ k => withResid_wf k (fun _ _ _ k1 => destroyResid_wf k1))
  case retainQuery =>
    dsimp only
    exact issue_wf h (fun _ k => withResid_wf k (fun _ _ _ k1 => k1))
  case mcctlMetawr => exact execMcctlMetawr_wf h
  case mcctlRetire =>
    dsimp only
    exact issue_wf h (fun _ k => alignedAt_wf (physical_wf (afterFence_wf k (fun _ k1 => retirePage_wf k1))))
  case wayctlQuar =>
    dsimp only
    exact issue_wf h (fun _ k => onWay_wf k (fun _ _ _ k1 => quarantine_wf k1))
  case wayctlRelease =>
    dsimp only
    exact issue_wf h (fun _ k => onWay_wf k (fun _ _ _ k1 => releaseWay_wf k1))
  case wayctlDiscard =>
    dsimp only
    exact issue_wf h (fun _ k => onWay_wf k (fun _ _ _ k1 => discardWay_wf k1))
  case trap =>
    dsimp only
    exact issue_wf h (fun _ k => deliverTrap_wf k)
  case rett =>
    dsimp only
    exact issue_wf h (fun _ k => returnTrap_wf k)
  all_goals exact (Bool.false_ne_true range).elim

/-- The canonical form is kept by the instructions of the other register and immediate formats, and of format L (numbers 214
to 253 in the table's order). -/
theorem exec_wf_immediate {i : Instr} {s : State} (range : (decide (214 ≤ i.ctorIdx) && decide (i.ctorIdx < 254)) = true)
    (h : Memory.wf s.mem) : Res.wf (exec i s) := by
  delta exec
  cases i
  case addi | andi | ori | xori | shli | shri | sari | muli | setpi | movi | tlu | lidx | saddi | sandi | sori | sxori | sshli |
      sshri | ssari | smuli | seqi | slti | sltni | li | setmode =>
    dsimp only
    exact issue_wf h (fun _ k => k)
  case bra | call | brp | bsz | bsnz =>
    dsimp only
    exact issue_wf h (fun _ k => branchTo_wf k)
  case ext =>
    dsimp only
    exact h
  case wait =>
    dsimp only
    exact issue_wf h (fun _ k => waitBody_wf k)
  case brx | callx =>
    dsimp only
    exact issue_wf h (fun _ k => branchTable_wf k)
  case barSync | tbarSync =>
    dsimp only
    exact issue_wf h (fun _ k => syncBar_wf k)
  case barArrive | tbarArrive =>
    dsimp only
    exact issue_wf h (fun _ k => arriveThen_wf k (fun _ k1 => k1))
  case barWait | tbarWait =>
    dsimp only
    exact issue_wf h (fun _ k => awaitBar_wf k)
  all_goals exact (Bool.false_ne_true range).elim

/-- The canonical form is kept by the memory, synchronisation, engine and array instructions (numbers 254 to 338 in the
table's order). -/
theorem exec_wf_memory {i : Instr} {s : State} (range : (decide (254 ≤ i.ctorIdx) && decide (i.ctorIdx < 339)) = true)
    (h : Memory.wf s.mem) : Res.wf (exec i s) := by
  delta exec
  cases i
  case ld | ldt =>
    dsimp only
    exact issue_wf h (fun _ k => issueLoad_wf k)
  case st | sts | stt =>
    dsimp only
    exact issue_wf h (fun _ k => issueStore_wf k)
  case lds =>
    dsimp only
    exact issue_wf h (fun _ k => withLast_wf (fun _ => issueLoad_wf k))
  case sld =>
    dsimp only
    exact issue_wf h (fun _ k => issueScalarLoad_wf k)
  case sst =>
    dsimp only
    exact issue_wf h (fun _ k => issueScalarStore_wf k)
  case atomAdd | atomMinI32 | atomMaxI32 | atomMinN32 | atomMaxN32 | atomAnd | atomOr | atomXor | atom2Exch | atom2Cas |
      atom2FaddF32 | atom2FminF32 | atom2FmaxF32 | atom2AddI64 | atom2ExchB64 | atom2CasB64 | atoms =>
    dsimp only
    exact issue_wf h (fun _ k => issueAtomic_wf k)
  case satom =>
    dsimp only
    exact issue_wf h (fun _ k => issueScalarAtomic_wf k)
  case fence =>
    dsimp only
    exact issue_wf h (fun _ k => fenceBody_wf k)
  case pref => exact execPref_wf h
  case qpush =>
    dsimp only
    exact issue_wf h (fun _ k => withQueue_wf (tryPush_wf k))
  case qpushSpan =>
    dsimp only
    exact issue_wf h (fun _ k => trySpanPush_wf k)
  case qpushTry => exact execQpushTry_wf h
  case qpushSpanTry => exact execQpushSpanTry_wf h
  case qpop =>
    dsimp only
    exact issue_wf h (fun _ k => withQueue_wf (tryPop_wf k))
  case qpopSpan =>
    dsimp only
    exact issue_wf h (fun _ k => trySpanPop_wf k)
  case qpopTry => exact execQpopTry_wf h
  case qpopSpanTry => exact execQpopSpanTry_wf h
  case semAdd =>
    dsimp only
    exact issue_wf h (fun _ k => semAdd_wf k)
  case semWait =>
    dsimp only
    exact issue_wf h (fun _ k => semWait_wf k)
  case semRead =>
    dsimp only
    exact issue_wf h (fun _ k => semRead_wf k)
  case launch => exact execLaunch_wf h
  case cpyGs | cpyGg =>
    dsimp only
    exact issue_wf h (fun _ k => issueCopy_wf k)
  case cpySg | cpySp =>
    dsimp only
    exact issue_wf h (fun _ k => withLast_wf (fun _ => issueCopy_wf k))
  case cpyGs2 =>
    dsimp only
    exact issue_wf h (fun _ k => issueCopy2_wf k)
  case cpySg2 =>
    dsimp only
    exact issue_wf h (fun _ k => withLast_wf (fun _ => issueCopy2_wf k))
  case cpyPin =>
    dsimp only
    exact issue_wf h (fun _ k => failIf_wf (aligned_wf (aligned_wf (globalRange_wf (startEngine_wf k)))))
  case bload =>
    dsimp only
    exact issue_wf h fun _ k =>
      withCrew_wf (fun _ => failIf_wf (aligned_wf (globalRange_wf (bankRange_wf (startEngine_wf k)))))
  case xformToplanes | xformFromplanes | xformFill | xformZero | xformChecksum =>
    dsimp only
    exact issue_wf h (fun _ k => issueXform_wf k)
  case tmac =>
    dsimp only
    exact issue_wf h fun _ k =>
      withLast_wf (fun _ => withCrew_wf (fun _ => failIf_wf (aligned_wf (scratchRange_wf k
        (fun _ k1 => bankRange_wf (startEngine_wf k1))))))
  case tdrain =>
    dsimp only
    exact issue_wf h fun _ k =>
      withCrew_wf (fun _ => failIf_wf (aligned_wf (aligned_wf (failIf_wf (globalRange_wf (globalRange_wf (startEngine_wf k)))))))
  case taccZero | taccRead | taccWrite | taccAdd | taccScale =>
    dsimp only
    exact issue_wf h (fun _ k => issueTacc_wf k)
  case bankCompute =>
    dsimp only
    exact issue_wf h (fun _ k => withCrew_wf (fun _ => failIf_wf (changeBanks_wf (fun _ => toCompute_wf k))))
  case bankStorage =>
    dsimp only
    exact issue_wf h (fun _ k => withCrew_wf (fun _ => failIf_wf (changeBanks_wf (fun _ => toStorage_wf k))))
  case bankAttach | bankDetach =>
    dsimp only
    exact issue_wf h (fun _ k => withCrew_wf (fun _ => failIf_wf (changeBanks_wf (fun _ => k))))
  case bankQuery => exact execBankQuery_wf h
  case dotv =>
    dsimp only
    exact issue_wf h fun _ k =>
      failIf_wf (aligned_wf (aligned_wf (dotRange_wf k (fun _ k1 => dotRange_wf k1 (fun _ k2 => startEngine_wf k2)))))
  case arrLogic | arrAddsub | arrMul | arrCmp | arrSel | arrShift | arrPopc | arrBcast =>
    dsimp only
    exact issue_wf h (fun _ k => issueArr_wf k)
  case arrxArm =>
    dsimp only
    exact issue_wf h (fun _ k => failIf_wf (aligned_wf (globalRange_wf (startArray_wf k))))
  case arrxDisarm | arrxQuery =>
    dsimp only
    exact issue_wf h (fun _ k => failIf_wf (startArray_wf k))
  case arrxLoad | arrxStore | arrxFill =>
    dsimp only
    exact issue_wf h (fun _ k => issueRange_wf k)
  case stkRowcopy | stkRowzero | stkProbe =>
    dsimp only
    exact issue_wf h (fun _ k => issueStk_wf k)
  case lnkTurn =>
    dsimp only
    exact issue_wf h (fun _ k => failIf_wf (queueTurn_wf k))
  case lnkStatus =>
    dsimp only
    exact issue_wf h (fun _ k => failIf_wf k)
  all_goals exact (Bool.false_ne_true range).elim

/-- The canonical form is kept by the steps of the device (numbers 339 to 408 in the table's order). -/
theorem exec_wf_device {i : Instr} {s : State} (range : decide (339 ≤ i.ctorIdx) = true) (h : Memory.wf s.mem) :
    Res.wf (exec i s) := by
  delta exec
  cases i
  case systemEventDelivery => exact execSystemEventDelivery_wf h
  case quantumExpiry =>
    dsimp only
    exact onSquad_wf h (fun _ k => expire_wf k)
  case blockedInstructionComplete =>
    dsimp only
    exact onSquad_wf h (fun _ k1 => unblock_wf h k1)
  case loadComplete => exact execLoadComplete_wf h
  case storeComplete => exact execStoreComplete_wf h
  case atomicComplete => exact execAtomicComplete_wf h
  case engineOperationComplete => exact execEngineOperationComplete_wf h
  case lastPush => exact execLastPush_wf h
  case squadRetire => exact execSquadRetire_wf h
  case notPresentReplay =>
    dsimp only
    exact onSquad_wf h (fun _ k1 => replayNow_wf k1)
  case workQueueEntryTake =>
    dsimp only
    exact whenever_wf h (takeEntry_wf h)
  case dependencePoll =>
    dsimp only
    exact evalDeps_wf h
  case crewPlacement =>
    dsimp only
    exact distribute_wf h
  case timedBudgetExceeded =>
    dsimp only
    exact demote_wf h
  case preemptDraining =>
    dsimp only
    exact onUnit_wf h (fun _ => startDraining_wf h)
  case preemptSaving =>
    dsimp only
    exact onUnit_wf h (fun _ => startSaving_wf h)
  case preemptSaved =>
    dsimp only
    exact onUnit_wf h (fun _ => endSaving_wf h)
  case preemptRestoring =>
    dsimp only
    exact onUnit_wf h (fun _ => restoreOn_wf h)
  case preemptResumed =>
    dsimp only
    exact onUnit_wf h (fun _ => endRestoring_wf h)
  case partitionStart =>
    dsimp only
    exact runCommand_wf h (fun _ _ k => startPart_wf k)
  case partitionStartComplete =>
    dsimp only
    exact whenever_wf h (finishStart_wf h)
  case partitionResize =>
    dsimp only
    exact runCommand_wf h (fun _ _ k => resizePart_wf k)
  case resizeRelease =>
    dsimp only
    exact whenever_wf h (releasePart_wf h)
  case resizeDone =>
    dsimp only
    exact whenever_wf h (finishResize_wf h)
  case partitionStop =>
    dsimp only
    exact runCommand_wf h (fun _ _ k => stopPart_wf k)
  case endContext => exact execEndContext_wf h
  case endContextComplete =>
    dsimp only
    exact whenever_wf h (finishEnding_wf h)
  case partctlInvalidCmd =>
    dsimp only
    exact runCommand_wf h (fun _ _ k => k)
  case reservationWrite =>
    dsimp only
    exact whenever_wf h (reserve_wf h)
  case linkTurnStart =>
    dsimp only
    exact whenever_wf h (takeTurn_wf h)
  case turnDeadTimeEnd =>
    dsimp only
    exact whenever_wf h (endTurn_wf h)
  case flitReplay =>
    dsimp only
    exact whenever_wf h (replayFlit_wf h)
  case retryWindowExpiry =>
    dsimp only
    exact foldl_wf (fun _ _ k => freshWindow_wf k) h
  case spanPortDown =>
    dsimp only
    exact whenever_wf h (portDown_wf h)
  case spanPortTrained =>
    dsimp only
    exact whenever_wf h (portUp_wf h)
  case peerAccessTimeout =>
    dsimp only
    exact timeOutPeer_wf h
  case peerRequest => exact execPeerRequest_wf h
  case hostHdmWrite =>
    dsimp only
    exact whenever_wf h (outsideWrite_wf h)
  case hostHdmRead => exact execHostHdmRead_wf h
  case doorbell | qwriteWrite | bankRetentionEntry | wayGroupRetentionEntry | wayGroupRetentionExit | overcurrentWarning =>
    dsimp only
    exact whenever_wf h h
  case qcfgWrite =>
    dsimp only
    exact whenever_wf h (writeQcfg_wf h)
  case bar0Write =>
    dsimp only
    exact whenever_wf h (barWrite_wf h)
  case sysstatWrite => exact execSysstatWrite_wf h
  case errpopWrite => exact execErrpopWrite_wf h
  case mcwinEnable => exact execMcwinEnable_wf h
  case mcwinDisable => exact execMcwinDisable_wf h
  case mcwinExpansionDone =>
    dsimp only
    exact whenever_wf h (expandWindow_wf h)
  case surveyctlWrite => exact execSurveyctlWrite_wf h
  case surveyCompareLatch =>
    dsimp only
    exact compareLatch_wf h
  case surveyWriteOutDone =>
    dsimp only
    exact writeSurvey_wf h
  case lnklanesWrite => exact execLnklanesWrite_wf h
  case keepbaseWrite => exact execKeepbaseWrite_wf h
  case systemRegisterWrite => exact execSystemRegisterWrite_wf h
  case planeScrub =>
    dsimp only
    exact whenever_wf h (verifyPlanes_wf h)
  case llcScrub =>
    dsimp only
    exact scrubLlc_wf h
  case hbmScrub =>
    dsimp only
    exact scrubHbm_wf h
  case bankRetentionExit =>
    dsimp only
    exact whenever_wf h (leaveRetention_wf h)
  case overcurrentClear =>
    dsimp only
    exact h
  case thermalTrip | cxlConventionalReset =>
    dsimp only
    exact whenever_wf h (restart_wf h)
  case powerOnReset =>
    dsimp only
    exact restart_wf h
  case meridianLock =>
    dsimp only
    exact whenever_wf h (setReady0_wf h)
  case firmwareVerify =>
    dsimp only
    exact whenever_wf h (verify_wf h)
  case functionReady =>
    dsimp only
    exact whenever_wf h (functionReady_wf h)
  case illegalInstructionFault =>
    dsimp only
    exact whenever_wf h (settle_wf h trivial)
  all_goals exact (Bool.false_ne_true range).elim

/-- Every instruction and every step of the device keeps the canonical form. -/
theorem exec_wf {i : Instr} {s : State} (h : Memory.wf s.mem) : Res.wf (exec i s) := by
  have range {a b : Nat} (k : a ≤ i.ctorIdx ∧ i.ctorIdx < b) : (decide (a ≤ i.ctorIdx) && decide (i.ctorIdx < b)) = true := by
    simpa using k
  obtain k | k | k | k | k | k : i.ctorIdx < 24 ∨ (24 ≤ i.ctorIdx ∧ i.ctorIdx < 146) ∨
      (146 ≤ i.ctorIdx ∧ i.ctorIdx < 214) ∨ (214 ≤ i.ctorIdx ∧ i.ctorIdx < 254) ∨
      (254 ≤ i.ctorIdx ∧ i.ctorIdx < 339) ∨ 339 ≤ i.ctorIdx := by omega
  · exact exec_wf_halfword (range ⟨Nat.zero_le _, k⟩) h
  · exact exec_wf_lane (range k) h
  · exact exec_wf_scalar (range k) h
  · exact exec_wf_immediate (range k) h
  · exact exec_wf_memory (range k) h
  · exact exec_wf_device (decide_eq_true k) h

theorem Res.stateOr_wf {r : Res} {s : State} (hr : Res.wf r) (h : Memory.wf s.mem) : Memory.wf (Res.stateOr r s).mem := by
  cases r with
  | next t => exact hr
  | fault f => exact h
  | refused f => exact h

theorem runPrefixes_wf {ps : List Instr} {s : State} (h : Memory.wf s.mem) : Memory.wf (runPrefixes ps s).mem :=
  foldl_wf (fun _ _ k => Res.stateOr_wf (exec_wf k) k) h

theorem stepSquad_wf {s : State} (h : Memory.wf s.mem) : Res.wf (stepSquad s) := by
  have f := fetch_wf h
  unfold stepSquad
  split
  · exact h
  · next e => rw [e] at f; exact f
  · next e => rw [e] at f; exact settle_wf f trivial
  · next e => rw [e] at f; exact exec_wf f
  · next e => rw [e] at f; exact issueReserved_wf (runPrefixes_wf f)
  · next e => rw [e] at f; exact exec_wf (runPrefixes_wf f)

theorem turn_wf {s : State} (h : Memory.wf s.mem) : Memory.wf (turn s).mem := by
  unfold turn
  split
  · exact h
  split
  · exact h
  · extract_lets first
    cases e : s.checkout first.ident.id with
    | none => exact h
    | some t => exact State.checkout_wf h e

theorem moveSquad_wf {s : State} {id : Nat} (h : Memory.wf s.mem) : Res.wf (moveSquad s id) := by
  unfold moveSquad
  split
  · exact h
  · next e =>
    have k := State.checkout_wf h e
    split
    · exact exec_wf k
    split
    · exact k
    split
    · exact exec_wf k
    · exact stepSquad_wf (turn_wf k)

theorem renewAges_wf {s t : State} {m : Move} (h : Memory.wf t.mem) : Memory.wf (renewAges s t m).mem := by
  unfold renewAges
  split <;> exact h

theorem moveOnce_wf {s : State} {m : Move} (h : Memory.wf s.mem) : Res.wf (moveOnce s m) := by
  unfold moveOnce
  split
  · exact moveSquad_wf h
  · split
    · exact exec_wf h
    · exact h
  · exact applyUpset_wf h
  · exact evictRange_wf h
  · exact evictLine_wf h
  · exact dropTlb_wf h
  · exact returnReport_wf h
  · exact h

theorem moveDevice_wf {s : State} {m : Move} (h : Memory.wf s.mem) : Res.wf (moveDevice s m) := by
  have k := moveOnce_wf (m := m) h
  unfold moveDevice
  split
  · next e => rw [e] at k; exact renewAges_wf k
  · exact k

/-- A step keeps the canonical form: time passes, and one move is made. -/
theorem step_wf {s : State} (h : Memory.wf s.mem) : Res.wf (step s) := by
  unfold step
  split
  · exact moveDevice_wf (elapse_wf h)
  split
  · trivial
  · exact moveDevice_wf (elapse_wf h)

end Sys2Proof.Machine

namespace Sys2Proof.Laws

/-- Settles O58: the canonical form is kept by every function that hands the state on, so by every instruction and every
step of the device, and a step of the machine is the passing of time and one of them. -/
theorem stepKeepsMemoryForm : Obligations.StepKeepsMemoryForm := by
  unfold Obligations.StepKeepsMemoryForm
  intro s t h e
  have k := Machine.step_wf h
  rw [e] at k
  exact k

end Sys2Proof.Laws
end

section
/-! What one instruction answers, when its arm is known to be the issue of some own part. -/

namespace Sys2Proof.Machine

/-- An instruction that issues answers what its own part settles to. -/
theorem exec_settleOwn {i : Instr} {body : State → Eff}
    (arm : ∀ s, exec i s = issue (traitsOf i) (usesOf (extSet s.sq.cur) i) s body) {s : State} (h : Issues i s) :
    exec i s = .next (settleOwn s (noteStart s) (body (begun s))) :=
  exec_own_set (exec i) (fun e => usesOf e i) (fun _ => rfl) arm rfl (fun _ => rfl) h

/-- An own part that completes on a condition. -/
theorem givesWhen_of_done {P : State → Prop} {i : Instr} {body : State → Eff} {f : State → State}
    (arm : ∀ s, exec i s = issue (traitsOf i) (usesOf (extSet s.sq.cur) i) s body)
    (done : ∀ p, P p → body p = .done (f p)) : GivesWhen P i f := fun s h hp => by
  rw [exec_settleOwn arm h, done _ hp, settleOwn_done]

/-- An own part that completes in any state. -/
theorem gives_of_done {i : Instr} {f : State → State}
    (arm : ∀ s, exec i s = issue (traitsOf i) (usesOf (extSet s.sq.cur) i) s fun p => .done (f p)) : Gives i f :=
  fun s h => by rw [exec_settleOwn arm h, settleOwn_done]

/-- An own part that completes with a forced switch (R41). -/
theorem switches_of_switch {i : Instr} {f : State → State}
    (arm : ∀ s, exec i s = issue (traitsOf i) (usesOf (extSet s.sq.cur) i) s fun p => .switch (f p)) : Switches i f :=
  fun s h => by rw [exec_settleOwn arm h, settleOwn_switch]

/-- An own part that faults on a condition. -/
theorem faultsWhen_of_fault {P : State → Prop} {i : Instr} {body : State → Eff} {f : State → FaultInfo}
    (arm : ∀ s, exec i s = issue (traitsOf i) (usesOf (extSet s.sq.cur) i) s body)
    (fault : ∀ p, P p → body p = .fault (f p)) : FaultsWhen P i f := fun s h hp => by
  rw [exec_settleOwn arm h, fault _ hp, settleOwn_fault]

/-- An own part that blocks on a condition (R39). -/
theorem blocksWhen_of_block {P : State → Prop} {i : Instr} {body : State → Eff} {w : State → Blocked}
    (arm : ∀ s, exec i s = issue (traitsOf i) (usesOf (extSet s.sq.cur) i) s body)
    (block : ∀ p, P p → body p = .block (w p) p) : BlocksWhen P i w := fun s h hp => by
  rw [exec_settleOwn arm h, block _ hp, settleOwn_block]

/-- An own part that holds its group on a condition (R233). -/
theorem stallsWhen_of_hold {P : State → Prop} {i : Instr} {body : State → Eff}
    (arm : ∀ s, exec i s = issue (traitsOf i) (usesOf (extSet s.sq.cur) i) s body)
    (hold : ∀ p, P p → body p = .hold) : StallsWhen P i := fun s h hp => by
  rw [exec_settleOwn arm h, hold _ hp]
  rfl

/-- An own part that consumes a class's error answers its fault (R178). -/
theorem settleOwn_consume (s n : State) (c : OpClass) (f : FaultInfo) : settleOwn s n (.consume c f) =
    endSequence (takeFault (n.onSq fun q => { q with errs := q.errs.filter fun e => e.1 != c }) f) := rfl

end Sys2Proof.Machine
end

section
/-! The class I lane operations, the registers that a scalar names, the comparisons and the table lookup (R196 to R200). -/

namespace Sys2Proof.Machine

/-! ### A vector register that a scalar names (R198) -/

theorem namedRegister_pass {t : State} {n : Nat} {k : Eff} (low : n < 128) (own : inAllotment t.sq.ident.allot n = true)
    (free : interlocked t.sq ⟨[n], [n], [], [], true⟩ = false) : namedRegister t n k = k := by
  simp [namedRegister, Nat.not_le.2 low, own, free]

theorem inAllotment_outside {allot n : Nat} (h : allot < n + 5 ∧ n < 124) : inAllotment allot n = false := by
  simp only [inAllotment, Bool.or_eq_false_iff, Bool.and_eq_false_iff, decide_eq_false_iff_not]
  omega

theorem namedRegister_outside {t : State} {n : Nat} {k : Eff} (h : 128 ≤ n ∨ (t.sq.ident.allot < n + 5 ∧ n < 124)) :
    namedRegister t n k = .fault { cause := 0x41, lanes := t.sq.cur.enabled } := by
  unfold namedRegister
  rw [if_pos]
  rcases h with h | h
  · simp [h]
  · simp [inAllotment_outside h]

/-- What `movxr` does with the register that it names, once that may be read: a marked one is a fault (R225). -/
def moveNamed (t : State) (d n : Nat) : Eff :=
  match markFault (poisonedV t.sq [n] t.sq.cur.enabled) with
  | some f => .fault f
  | none => lane1 t d n fun x => x

theorem moveNamed_unmarked {t : State} {d n : Nat} (h : t.unmarked n t.sq.cur.enabled) :
    moveNamed t d n = .done (t.putV d fun l => t.v n l) := by
  have none_ : markFault (poisonedV t.sq [n] t.sq.cur.enabled) = none := by
    rw [show poisonedV t.sq [n] t.sq.cur.enabled = [] from h]
    rfl
  simp only [moveNamed, none_]
  rfl

theorem exec_movx (d a : BitVec 7) (s : State) : exec (.movx d a) s =
    issue (traitsOf (.movx d a)) (usesOf (extSet s.sq.cur) (.movx d a)) s fun t =>
      namedRegister t (t.x d.toNat).toNat (.done (t.putV (t.x d.toNat).toNat fun l => t.v a.toNat l)) := rfl

theorem exec_movxr (d a : BitVec 7) (s : State) : exec (.movxr d a) s =
    issue (traitsOf (.movxr d a)) (usesOf (extSet s.sq.cur) (.movxr d a)) s fun t =>
      namedRegister t (t.x a.toNat).toNat (moveNamed t d.toNat (t.x a.toNat).toNat) := rfl

/-! ### Comparisons (R196) -/

theorem intCond_all (x y : Word) : (List.range 10).map (fun c => intCond c x y) =
    [decide (x = y), decide (x ≠ y), decide (x.toInt < y.toInt), decide (x.toInt ≤ y.toInt), decide (y.toInt < x.toInt),
      decide (y.toInt ≤ x.toInt), decide (x.toNat < y.toNat), decide (x.toNat ≤ y.toNat), decide (y.toNat < x.toNat),
      decide (y.toNat ≤ x.toNat)] := by
  have ne : (x != y) = decide (x ≠ y) := by rw [bne, decide_not]; rfl
  show [x == y, x != y, x.slt y, x.sle y, y.slt x, y.sle x, x.ult y, x.ule y, y.ult x, y.ule x] = _
  rw [ne]
  rfl

/-! ### The table lookup (R200) -/

theorem byteOf_eq (a : Word) (k : Nat) : byteOf a k = a.toNat / 256 ^ k % 256 := by
  rw [byteOf, Nat.pow_mul]

theorem byteOf_lt (a : Word) (k : Nat) : byteOf a k < 256 := Nat.mod_lt _ (by decide)

/-- Each byte of a register that is put together from four. -/
theorem ofBytes_byte {f : Nat → Nat} (small : ∀ k, f k < 256) {i : Nat} (hi : i < 4) : (ofBytes f).toNat / 256 ^ i % 256 = f i := by
  have h0 := small 0
  have h1 := small 1
  have h2 := small 2
  have h3 := small 3
  rw [ofBytes, BitVec.toNat_ofNat]
  match i, hi with
  | 0, _ => omega
  | 1, _ => omega
  | 2, _ => omega
  | 3, _ => omega

theorem lookUp_byte (s : State) (x : Word) (t n : Nat) {fill : Nat} (l : Nat) {i : Nat} (hf : fill < 256) (hi : i < 4) :
    (lookUp s x t n fill l).toNat / 256 ^ i % 256 =
      if byteOf x i < 4 * n then byteOf (s.v (t + byteOf x i / 4) l) (byteOf x i % 4) else fill :=
  ofBytes_byte (f := fun i => if byteOf x i < 4 * n then byteOf (s.v (t + byteOf x i / 4) l) (byteOf x i % 4) else fill)
    (fun k => by
      split
      · exact byteOf_lt _ _
      · exact hf) hi

end Sys2Proof.Machine

namespace Sys2Proof.Laws

open Sys2Proof.Machine

/-- Settles O4: each arm is the issue of one write of registers; a register that a scalar names is checked before it. -/
theorem immediateNamedAndCompareLanes : Obligations.ImmediateNamedAndCompareLanes := by
  unfold Obligations.ImmediateNamedAndCompareLanes
  refine ⟨fun d a => ⟨?addi, ?andi, ?ori, ?xori, ?muli, ?shli, ?shri, ?sari, ?movi, ?lidx, ?tlu, ?movx, ?movxr, ?movxOut,
    ?movxrOut, ?setp, ?setpS, ?setpi⟩, intCond_all, ?bytes⟩
  case addi => exact fun _ => gives_of_done fun _ => rfl
  case andi => exact fun _ => gives_of_done fun _ => rfl
  case ori => exact fun _ => gives_of_done fun _ => rfl
  case xori => exact fun _ => gives_of_done fun _ => rfl
  case muli => exact fun _ => gives_of_done fun _ => rfl
  case shli => exact fun _ => gives_of_done fun _ => rfl
  case shri => exact fun _ => gives_of_done fun _ => rfl
  case sari => exact fun _ => gives_of_done fun _ => rfl
  case movi => exact fun _ => gives_of_done fun _ => rfl
  case lidx => exact fun _ => gives_of_done fun _ => rfl
  case tlu => exact fun _ _ => gives_of_done fun _ => rfl
  case movx => exact givesWhen_of_done (exec_movx d a) fun _ ⟨low, own, free⟩ => namedRegister_pass low own free
  case movxr =>
    exact givesWhen_of_done (exec_movxr d a) fun _ ⟨low, own, free, unmarked⟩ =>
      (namedRegister_pass low own free).trans (moveNamed_unmarked unmarked)
  case movxOut => exact faultsWhen_of_fault (exec_movx d a) fun _ h => namedRegister_outside h
  case movxrOut => exact faultsWhen_of_fault (exec_movxr d a) fun _ h => namedRegister_outside h
  case setp => exact fun _ _ _ => gives_of_done fun _ => rfl
  case setpS => exact fun _ _ _ => gives_of_done fun _ => rfl
  case setpi => exact fun _ _ _ => gives_of_done fun _ => rfl
  case bytes =>
    intro p x t n fill l i hf hi
    dsimp only
    rw [lookUp_byte p x t n l hf hi]
    simp only [byteOf_eq]

end Sys2Proof.Laws
end

section
/-! Guard windows and the running group (R39, R40, R146, R233). -/

namespace Sys2Proof.Machine

/-! ### Masks -/

theorem exists_lane {m : Mask} (h : m ≠ 0) : ∃ l, l < 32 ∧ m.getLsbD l = true := by
  by_contra none_
  simp only [not_exists, not_and, Bool.not_eq_true] at none_
  exact h (BitVec.eq_of_getLsbD_eq fun l hl => by rw [none_ l hl]; exact BitVec.getLsbD_zero.symm)

theorem ne_zero_of_lane {m : Mask} {l : Nat} (h : m.getLsbD l = true) : m ≠ 0 := by
  rintro rfl
  simp at h

theorem getLsbD_without (a b : Mask) {l : Nat} (hl : l < 32) :
    (a &&& ~~~b).getLsbD l = (a.getLsbD l && !b.getLsbD l) := by simp [hl]

theorem without_ne_zero {a b : Mask} : a &&& ~~~b ≠ 0 ↔ ∃ l, l < 32 ∧ a.getLsbD l = true ∧ b.getLsbD l = false := by
  constructor
  · intro h
    obtain ⟨l, hl, e⟩ := exists_lane h
    rw [getLsbD_without a b hl] at e
    exact ⟨l, hl, by simpa using e⟩
  · rintro ⟨l, hl, ha, hb⟩
    exact ne_zero_of_lane (l := l) (by rw [getLsbD_without a b hl, ha, hb]; rfl)

/-! ### The lowest pc of a mask -/

/-- The lower of the best address so far and another. -/
def lower (best : Option DWord) (x : DWord) : Option DWord :=
  match best with
  | none => some x
  | some b => if x.toNat < b.toNat then some x else some b

theorem lowest_eq (t : Threads) (m : Mask) : t.lowest m = ((laneList m).map (vget t.pc)).foldl lower none :=
  (List.foldl_map (f := vget t.pc) (g := lower)).symm

/-- The lowest of a list that begins with b stands in it and is below every other. -/
theorem foldl_lower (xs : List DWord) (b : DWord) :
    ∃ c ∈ b :: xs, xs.foldl lower (some b) = some c ∧ ∀ x ∈ b :: xs, c.toNat ≤ x.toNat := by
  induction xs generalizing b with
  | nil => exact ⟨b, by simp⟩
  | cons x xs ih =>
    by_cases lt : x.toNat < b.toNat
    · obtain ⟨c, hc, e, le⟩ := ih x
      have low := le x (by simp)
      refine ⟨c, List.mem_cons_of_mem _ hc, by simpa [lower, lt] using e, ?_⟩
      rintro y (_ | ⟨_, hy⟩)
      · omega
      · exact le y hy
    · obtain ⟨c, hc, e, le⟩ := ih b
      have low := le b (by simp)
      have hc' : c ∈ b :: x :: xs := (List.mem_cons.1 hc).elim (· ▸ by simp) fun h => by simp [h]
      refine ⟨c, hc', by simpa [lower, lt] using e, ?_⟩
      rintro y (_ | ⟨_, _ | ⟨_, hy⟩⟩)
      · exact low
      · omega
      · exact le y (List.mem_cons_of_mem _ hy)

/-- A mask that is not empty has a lowest pc: one of its lanes stands there, and none stands lower. -/
theorem lowest_some (t : Threads) {m : Mask} (h : m ≠ 0) : ∃ pc, t.lowest m = some pc ∧
    (∃ l, l < 32 ∧ m.getLsbD l = true ∧ vget t.pc l = pc) ∧
    ∀ l, l < 32 → m.getLsbD l = true → pc.toNat ≤ (vget t.pc l).toNat := by
  rw [lowest_eq]
  obtain ⟨k, hk, e⟩ := exists_lane h
  have mem : k ∈ laneList m := mem_laneList.2 ⟨hk, e⟩
  cases ls : laneList m with
  | nil => simp [ls] at mem
  | cons a as =>
    obtain ⟨c, hc, eq, le⟩ := foldl_lower (as.map (vget t.pc)) (vget t.pc a)
    rw [← List.map_cons, ← ls] at hc le
    refine ⟨c, eq, ?_, fun l hl hm => le _ (List.mem_map_of_mem (mem_laneList.2 ⟨hl, hm⟩))⟩
    obtain ⟨l, hl, rfl⟩ := List.mem_map.1 hc
    exact ⟨l, (mem_laneList.1 hl).1, (mem_laneList.1 hl).2, rfl⟩

theorem getLsbD_standAt (t : Threads) (m : Mask) (pc : DWord) {l : Nat} (hl : l < 32) :
    (t.standAt m pc).getLsbD l = true ↔ m.getLsbD l = true ∧ vget t.pc l = pc := by
  rw [Threads.standAt, getLsbD_maskOf _ _ hl]
  simp [mem_laneList, hl]

/-! ### The choice of a running group -/

/-- The set-aside marks that the choice goes by: those of the eligible threads end when all of them have one (R40). -/
def Threads.asideNow (t : Threads) : Mask :=
  if t.eligible &&& ~~~t.aside == 0 then t.aside &&& ~~~t.eligible else t.aside

/-- A thread is a candidate when it is not set aside, or when every eligible thread is. -/
theorem candidate_iff (t : Threads) {l : Nat} (hl : l < 32) : (t.eligible &&& ~~~t.asideNow).getLsbD l = true ↔
    t.eligible.getLsbD l = true ∧ (t.aside.getLsbD l = false ∨ t.eligible &&& ~~~t.aside = 0) := by
  rw [getLsbD_without _ _ hl, Threads.asideNow]
  by_cases all : t.eligible &&& ~~~t.aside = 0
  · rw [if_pos (beq_iff_eq.2 all), getLsbD_without _ _ hl]
    cases t.eligible.getLsbD l <;> simp [all]
  · rw [if_neg (mt beq_iff_eq.1 all)]
    simp only [all, or_false, Bool.and_eq_true, Bool.not_eq_true']

theorem candidates_ne_zero {t : Threads} (h : t.eligible ≠ 0) : t.eligible &&& ~~~t.asideNow ≠ 0 := by
  by_cases all : t.eligible &&& ~~~t.aside = 0
  · obtain ⟨l, hl, e⟩ := exists_lane h
    exact ne_zero_of_lane ((candidate_iff t hl).2 ⟨e, .inr all⟩)
  · obtain ⟨l, hl, e, a⟩ := without_ne_zero.1 all
    exact ne_zero_of_lane ((candidate_iff t hl).2 ⟨e, .inl a⟩)

theorem select_idle {t : Threads} (h : t.eligible = 0) : t.select = none := by simp [Threads.select, h]

/-- A group that stalls stays the running group while its threads are eligible (R233). -/
theorem select_held {t : Threads} (h : t.held ≠ 0) (own : t.held &&& ~~~t.eligible = 0) :
    ∃ pc, t.select = some (t.held, pc, t) := by
  obtain ⟨l, hl, on⟩ := exists_lane h
  have some_ : t.eligible ≠ 0 := fun none_ => without_ne_zero.2 ⟨l, hl, on, by rw [none_]; exact BitVec.getLsbD_zero⟩ own
  obtain ⟨pc, e, _⟩ := lowest_some t h
  have stay : (t.held != 0 && t.held &&& ~~~t.eligible == 0) = true := by rw [own, bne_iff_ne.2 h]; rfl
  refine ⟨pc, ?_⟩
  unfold Threads.select
  simp only [beq_eq_false_iff_ne.2 some_, stay, Bool.false_eq_true, if_false, if_true, e, Option.map_some]

/-- Otherwise the threads at the lowest pc of the candidates run. -/
theorem select_free {t : Threads} (h : t.eligible ≠ 0) (free : t.held = 0 ∨ t.held &&& ~~~t.eligible ≠ 0) :
    ∃ pc, t.lowest (t.eligible &&& ~~~t.asideNow) = some pc ∧
      t.select = some (t.standAt t.eligible pc, pc, { t with aside := t.asideNow &&& ~~~t.standAt t.eligible pc }) := by
  obtain ⟨pc, e, _⟩ := lowest_some t (candidates_ne_zero h)
  refine ⟨pc, e, ?_⟩
  have go : (t.held != 0 && t.held &&& ~~~t.eligible == 0) = false := by
    rcases free with free | free
    · rw [free]; rfl
    · rw [beq_eq_false_iff_ne.2 free, Bool.and_false]
  unfold Threads.asideNow at e ⊢
  unfold Threads.select
  simp only [beq_eq_false_iff_ne.2 h, go, Bool.false_eq_true, if_false, e]

theorem select_none_iff (t : Threads) : t.select = none ↔ t.eligible = 0 := by
  refine ⟨fun e => by_contra fun h => ?_, select_idle⟩
  by_cases free : t.held = 0 ∨ t.held &&& ~~~t.eligible ≠ 0
  · obtain ⟨pc, _, e'⟩ := select_free h free
    rw [e'] at e
    cases e
  · obtain ⟨held, own⟩ := not_or.1 free
    obtain ⟨pc, e'⟩ := select_held held (not_not.1 own)
    rw [e'] at e
    cases e

/-- What is chosen where no group stalls (R39, R40). -/
theorem select_spec {t u : Threads} {g : Mask} {pc : DWord} (free : t.held = 0 ∨ t.held &&& ~~~t.eligible ≠ 0)
    (e : t.select = some (g, pc, u)) :
    g ≠ 0 ∧ (∀ l, l < 32 → (g.getLsbD l = true ↔ t.eligible.getLsbD l = true ∧ vget t.pc l = pc)) ∧
    (∀ l, l < 32 → t.eligible.getLsbD l = true → t.aside.getLsbD l = false ∨ t.eligible &&& ~~~t.aside = 0 →
      pc.toNat ≤ (vget t.pc l).toNat) ∧
    u.aside &&& g = 0 := by
  have some_ : t.eligible ≠ 0 := fun h => by
    rw [select_idle h] at e
    cases e
  obtain ⟨pc', low, e'⟩ := select_free some_ free
  rw [e'] at e
  cases e
  obtain ⟨pc', low', ⟨k, hk, cand, at_⟩, le⟩ := lowest_some t (candidates_ne_zero some_)
  obtain rfl : pc' = pc := Option.some.inj (low'.symm.trans low)
  refine ⟨ne_zero_of_lane ((getLsbD_standAt t _ _ hk).2 ⟨((candidate_iff t hk).1 cand).1, at_⟩),
    fun l hl => getLsbD_standAt t _ _ hl, fun l hl own out => le l hl ((candidate_iff t hl).2 ⟨own, out⟩), ?_⟩
  rw [BitVec.and_assoc, BitVec.and_comm (~~~_), BitVec.and_not_self]
  exact BitVec.and_zero

/-! ### Guard windows (R146) -/

theorem getLsbD_enabledLanes (q : Squad) (win : Vector Window 32) {l : Nat} (hl : l < 32) :
    (enabledLanes q win).getLsbD l = (q.cur.active.getLsbD l &&
      ((vget win l).left == 0 || (q.regs.pred (vget win l).pred.toNat).getLsbD l != (vget win l).neg)) := by
  rw [enabledLanes, getLsbD_maskOf _ _ hl, Bool.eq_iff_iff]
  simp [mem_laneList, hl]

theorem begun_enabled (s : State) : (begun s).sq.cur.enabled = enabledLanes (noteStart s).sq (windowsFor (noteStart s).sq) := by
  unfold begun prepare
  rfl

/-- The window of a thread when an instruction begins: that of the instruction's own guard, else the one in force. -/
def windowAt (q : Squad) (l : Nat) : Window :=
  match q.cur.guard with
  | some (p, neg, n) => ⟨p, neg, n⟩
  | none => vget q.thr.win l

theorem vget_windowsFor (q : Squad) {l : Nat} (hl : l < 32) :
    vget (windowsFor q) l = if q.cur.active.getLsbD l = true then windowAt q l else vget q.thr.win l := by
  unfold windowsFor windowAt
  cases q.cur.guard with
  | none => simp
  | some g => rw [vget_ofFn _ _ hl]

theorem begun_win (s : State) {l : Nat} (hl : l < 32) : vget (begun s).sq.thr.win l =
    if (noteStart s).sq.cur.active.getLsbD l = true then
      { windowAt (noteStart s).sq l with left := (windowAt (noteStart s).sq l).left - 1 }
    else vget (noteStart s).sq.thr.win l := by
  unfold begun prepare
  dsimp only
  rw [vget_ofFn _ _ hl]
  dsimp only
  rw [vget_windowsFor _ hl]
  split <;> rfl

theorem ended_win (u : State) : (ended u).sq.thr.win = u.sq.thr.win := by
  unfold ended
  rcases issued_cases u with e | e <;> rw [e] <;> rfl

theorem ended_guard (u : State) : (ended u).sq.cur.guard = none := rfl

end Sys2Proof.Machine

namespace Sys2Proof.Laws

open Sys2Proof.Machine

/-- Settles O47: windows and enabled lanes are read off the state in which the own part runs; the group is the threads at the lowest
pc of the candidates, or the one that stalls. -/
theorem guardsAndRunningGroups : Obligations.GuardsAndRunningGroups := by
  unfold Obligations.GuardsAndRunningGroups
  refine ⟨?enabled, ?windows, ?counted, ?guard, fun t => select_held, fun t u g pc => select_spec, select_none_iff⟩
  case enabled =>
    intro s l hl
    dsimp only
    rw [begun_enabled, getLsbD_enabledLanes _ _ hl]
  case windows =>
    intro s l hl
    dsimp only
    rw [begun_win s hl]
    rfl
  case counted =>
    intro s t l _ h e
    have nop : exec .nop s = .next (ended (begun s)) := gives_of_done (f := fun p => p) (fun _ => rfl) s h
    obtain rfl : ended (begun s) = t := Host.Outcome.next.inj (nop.symm.trans e)
    exact ⟨by rw [ended_win], ended_guard _⟩
  case guard => exact fun _ _ _ _ => rfl

end Sys2Proof.Laws
end

section
/-! What the checks of a `wait` and a `fence` answer beside going on (R178, R226, R233, R370), barriers (R236, R237), and a blocked
instruction that is tried again (R42). -/

namespace Sys2Proof.Machine

/-! ### Deferred faults leave the squad as it is (R226, R370) -/

@[simp] theorem stillWritable_sq (s : State) (x : L1Sector) : (stillWritable s x).1.sq = s.sq := by
  have k := walk_sq s x.core x.ctx x.va
  unfold stillWritable
  split
  · rfl
  split <;> next e => rw [e] at k; exact k

@[simp] theorem writeBack_sq (s : State) (x : L1Sector) : (writeBack s x).sq = s.sq := by
  have k := stillWritable_sq s x
  unfold writeBack
  split
  · rfl
  split
  · next e => rw [e] at k; exact k
  · next t e =>
    rw [e] at k
    have merged := (homeMerge_sq t x.ctx x.addr x.data x.dirty).trans k
    dsimp only
    split <;> exact merged

@[simp] theorem retried_sq (s : State) : (retried s).sq = s.sq :=
  foldl_same (fun t : State => t.sq) (fun t x => by
    split
    · exact writeBack_sq t x
    · rfl) _ s

@[simp] theorem deferredFaults_sq (s : State) : (deferredFaults s).1.sq = s.sq :=
  foldl_same (fun t : State => t.sq) (fun t _ => (l1Set_sq _ _).trans (pushRecord_sq t _ _ _ _)) _ s

/-- A pinned sector of the squad's own context stops it at its instruction. -/
theorem withDeferred_stops {s : State} {k : State → Eff} (h : (deferredFaults (retried s)).2 = true) :
    withDeferred s k = .halted (stopSquad ((deferredFaults (retried s)).1.setPc (deferredFaults (retried s)).1.sq.cur.active
      fun _ => (deferredFaults (retried s)).1.sq.cur.first)) := by
  rw [deferredFaults_sq, retried_sq]
  unfold retried at h ⊢
  simp [withDeferred, h]

/-! ### The errors of the waited classes (R178) -/

theorem checkErrors_none {s : State} {waited : OpClass → Bool} (h : firstError s.sq waited = none) :
    checkErrors s waited = .done s := by
  simp only [checkErrors, h]

theorem checkErrors_some {s : State} {waited : OpClass → Bool} {c : OpClass} {e : OpError}
    (h : firstError s.sq waited = some (c, e)) : checkErrors s waited = .consume c e.raise := by
  simp only [checkErrors, h]

/-! ### Fences (R123, R125, R233) -/

theorem fenceWaits_eq_false (s : State) (order scope : Nat) (async : Bool) :
    fenceWaits s order scope async = false ↔ (async = true → s.sq.ops = []) ∧ FenceFree s order scope := by
  simp only [fenceWaits, FenceFree, Bool.or_eq_false_iff, Bool.and_eq_false_iff, Bool.not_eq_false', List.isEmpty_iff,
    bne_eq_false_iff_eq, List.any_eq_false, Bool.not_eq_true, and_assoc]
  refine and_congr ?_ (and_congr Iff.rfl ?_)
  · cases async <;> simp
  · cases fenceReleases order <;> simp

theorem fenceBody_holds {s : State} {order scope : Nat} {async : Bool} (h : ¬((async = true → s.sq.ops = []) ∧ FenceFree s order scope)) :
    fenceBody order scope async s = .hold := by
  rw [← fenceWaits_eq_false, Bool.not_eq_false] at h
  simp [fenceBody, h]

theorem fenceBody_consumes {s : State} {order scope : Nat} {c : OpClass} {e : OpError} (ops : s.sq.ops = [])
    (free : FenceFree s order scope) (err : firstError s.sq (fun _ => true) = some (c, e)) :
    fenceBody order scope true s = .consume c e.raise := by
  simp [fenceBody, (fenceWaits_eq_false s order scope true).2 ⟨fun _ => ops, free⟩, err]

/-- A fence that nothing keeps and whose async wait finds no error acts, after the deferred faults where it releases at die scope or
wider. -/
theorem fenceBody_acts {s : State} {order scope : Nat} {async : Bool}
    (quiet : async = true → s.sq.ops = [] ∧ firstError s.sq (fun _ => true) = none) (free : FenceFree s order scope) :
    fenceBody order scope async s = if fenceReleases order && 3 ≤ scope then withDeferred s fun t => .done (fenceAction t order scope)
      else .done (fenceAction s order scope) := by
  have go := (fenceWaits_eq_false s order scope async).2 ⟨fun a => (quiet a).1, free⟩
  unfold fenceBody
  cases async with
  | false => simp [go]
  | true => simp [go, (quiet rfl).2]

theorem fence_narrow {order scope : Nat} (h : scope < 3 ∨ order < 2 ∨ 4 < order) :
    (fenceReleases order && decide (3 ≤ scope)) = false := by
  simp only [fenceReleases, Bool.and_eq_false_iff, Bool.or_eq_false_iff, beq_eq_false_iff_ne, decide_eq_false_iff_not]
  omega

theorem fence_wide {order scope : Nat} (s : 3 ≤ scope) (l : 2 ≤ order) (u : order ≤ 4) :
    (fenceReleases order && decide (3 ≤ scope)) = true := by
  simp only [fenceReleases, Bool.and_eq_true, Bool.or_eq_true, beq_iff_eq, decide_eq_true_eq]
  omega

theorem exec_fence (sc o : BitVec 3) (y : BitVec 1) (s : State) : exec (.fence sc o y) s =
    issue (traitsOf (.fence sc o y)) (usesOf (extSet s.sq.cur) (.fence sc o y)) s (fenceBody o.toNat sc.toNat (y == 1)) := rfl

/-- A fence that stalls holds its group: it is the next that is selected (R233). -/
theorem holdGroup_select {s : State} (some_ : s.sq.cur.active ≠ 0) (own : s.sq.cur.active &&& ~~~s.sq.thr.eligible = 0) :
    ∃ pc, (endSequence (holdGroup s)).sq.thr.select = some (s.sq.cur.active, pc, (endSequence (holdGroup s)).sq.thr) :=
  select_held (t := (endSequence (holdGroup s)).sq.thr) some_ own

/-! ### Barriers (R236, R237) -/

theorem syncBar_past {s : State} {team : Bool} {b n : Nat} (h : BarTakes s team b n)
    (passed : barGen (arrivedAt s team b n) team b ≠ barGen s team b) :
    syncBar s team b n = .done (pastBar (arrivedAt s team b n) team) :=
  (arriveThen_takes h).trans (awaitBar_past passed)

theorem syncBar_blocks {s : State} {team : Bool} {b n : Nat} (h : BarTakes s team b n)
    (same : barGen (arrivedAt s team b n) team b = barGen s team b) :
    syncBar s team b n = .block (.bar team b (barGen s team b)) (arrivedAt s team b n) :=
  (arriveThen_takes h).trans (awaitBar_blocks same)

theorem exec_barSync (e : BitVec 4) (n : BitVec 6) (s : State) : exec (.barSync e n) s =
    issue (traitsOf (.barSync e n)) (usesOf (extSet s.sq.cur) (.barSync e n)) s fun t => syncBar t false e.toNat n.toNat := rfl

theorem exec_tbarSync (e : BitVec 2) (n : BitVec 6) (s : State) : exec (.tbarSync e n) s =
    issue (traitsOf (.tbarSync e n)) (usesOf (extSet s.sq.cur) (.tbarSync e n)) s fun t => syncBar t true e.toNat n.toNat := rfl

/-! ### A blocked instruction that is tried again (R42) -/

theorem onSquad_found {s t : State} {sq : Nat} (k : State → State) (h : s.checkout sq = some t) : onSquad s sq k = .next (k t) := by
  simp only [onSquad, h]

theorem BlockedAt.stamp {s : State} {k : Nat} {w : Wait} (h : BlockedAt s k w) : w.stamp = k := by
  simpa using List.find?_some h.1

/-- Where nothing else keeps its threads, the instruction is tried on the squad that they make up. -/
theorem exec_blocked {s t : State} {sq k : Nat} {w : Wait} (found : s.checkout sq = some t) (h : BlockedAt t k w) :
    exec (.blockedInstructionComplete sq k) s =
      .next ((settleBlocked (blockedState t w) k (tryAgain (resumed t w) w)).getD s) := by
  obtain ⟨find, ready, replay, system, on⟩ := h
  refine (onSquad_found (fun t => unblock s t k) found).trans ?_
  simp only [unblock, find, ready, replay, system, on, bne_self_eq_false, Option.isSome_none, Bool.not_true, Bool.or_self,
    Bool.false_eq_true, if_false]
  rfl

theorem interlocked_none (q : Squad) : interlocked q ⟨[], [], [], [], true⟩ = false := by
  simp [interlocked]

theorem checkPoison_none (s : State) : checkPoison s ⟨[], [], [], [], true⟩ = none := by
  have marks : poisonedV s.sq [] s.sq.cur.enabled = [] := by simp [poisonedV]
  have scalars : (s.sq.poisonS.find? fun t => ([] : List Nat).contains t.1) = none := by simp
  unfold checkPoison
  simp only [marks, scalars]
  split <;> rfl

theorem tryAgain_bar {s : State} {w : Wait} {team : Bool} {n g : Nat} (what : w.what = .bar team n g) :
    tryAgain s w = awaitBar s team n g := by
  unfold tryAgain
  simp only [what, Blocked.reads, Blocked.writes, interlocked_none, checkPoison_none, Bool.false_eq_true, if_false]
  rfl

end Sys2Proof.Machine

namespace Sys2Proof.Laws

open Sys2Proof.Machine

/-- Settles O13: a fence acts, consumes an error or holds its group by what keeps it; a barrier passes or blocks by the generation
that its arrival leaves, and a blocked one by the generation that is current when it is tried again. -/
theorem fencesAndBarriers : Obligations.FencesAndBarriers := by
  unfold Obligations.FencesAndBarriers
  refine ⟨⟨?acts, ?stalls, ?actsAsync, ?stallsAsync, ?actsWide, ?stops, ?consumes, ?held, ?arrive, ?sync, ?syncBlocks, ?wait,
    ?tarrive, ?tsync, ?tsyncBlocks, ?twait⟩, ?passed, ?current⟩
  case acts =>
    refine fun sc o => givesWhen_of_done (exec_fence sc o 0) fun p ⟨narrow, free⟩ => ?_
    rw [fenceBody_acts (by simp) free, fence_narrow narrow]
    rfl
  case stalls => exact fun sc o => stallsWhen_of_hold (exec_fence sc o 0) fun p kept => fenceBody_holds fun h => kept h.2
  case actsAsync =>
    refine fun sc o => givesWhen_of_done (exec_fence sc o 1) fun p ⟨narrow, ops, free, err⟩ => ?_
    rw [fenceBody_acts (fun _ => ⟨ops, err⟩) free, fence_narrow narrow]
    rfl
  case stallsAsync =>
    refine fun sc o => stallsWhen_of_hold (exec_fence sc o 1) fun p kept => fenceBody_holds fun ⟨ops, free⟩ => ?_
    exact kept.elim (· (ops rfl)) (· free)
  case actsWide =>
    refine fun sc o y => givesWhen_of_done (exec_fence sc o y) fun p ⟨told, wide, lo, hi, quiet, free⟩ => ?_
    rw [fenceBody_acts (fun a => quiet (by simpa using a)) free, fence_wide wide lo hi, if_pos rfl, withDeferred_none told]
  case stops =>
    intro sc o y s h told wide lo hi quiet free
    rw [exec_settleOwn (exec_fence sc o y) h, fenceBody_acts (fun a => quiet (by simpa using a)) free, fence_wide wide lo hi,
      if_pos rfl, withDeferred_stops told, settleOwn_halted]
  case consumes =>
    intro sc o s k e h ops free err
    rw [exec_settleOwn (exec_fence sc o 1) h, show ((1 : BitVec 1) == 1) = true from rfl, fenceBody_consumes ops free err,
      settleOwn_consume]
  case held =>
    intro sc o s h kept some_ own
    obtain ⟨pc, e⟩ := holdGroup_select some_ own
    exact ⟨_, pc, stallsWhen_of_hold (P := fun p => ¬FenceFree p o.toNat sc.toNat) (exec_fence sc o 0)
      (fun p kept => fenceBody_holds fun h => kept h.2) s h kept, e⟩
  case arrive => exact fun _ _ => givesWhen_of_done (fun _ => rfl) fun _ h => arriveThen_takes h
  case sync => exact fun e n => givesWhen_of_done (exec_barSync e n) fun _ h => syncBar_past h.1 h.2
  case syncBlocks =>
    intro e n s h takes same
    rw [exec_settleOwn (exec_barSync e n) h, syncBar_blocks takes same, settleOwn_block]
  case wait => exact fun _ => blocksWhen_of_block (fun _ => rfl) fun _ _ => awaitBar_blocks rfl
  case tarrive => exact fun _ _ => givesWhen_of_done (fun _ => rfl) fun _ h => arriveThen_takes h
  case tsync => exact fun e n => givesWhen_of_done (exec_tbarSync e n) fun _ h => syncBar_past h.1 h.2
  case tsyncBlocks =>
    intro e n s h takes same
    rw [exec_settleOwn (exec_tbarSync e n) h, syncBar_blocks takes same, settleOwn_block]
  case twait => exact fun _ => blocksWhen_of_block (fun _ => rfl) fun _ _ => awaitBar_blocks rfl
  case passed =>
    intro sq k w team n g s t found ⟨h, what, passed⟩
    rw [exec_blocked found h, tryAgain_bar what, awaitBar_past passed]
    rfl
  case current =>
    intro s t sq k w team n g found h what same
    rw [exec_blocked found h, tryAgain_bar what, awaitBar_blocks same]
    rfl

end Sys2Proof.Laws
end

section
/-! The waits (R176 to R178, R226) and the other instructions that steer the squad. -/

namespace Sys2Proof.Machine

/-- A wait that does not wait on ST and finds no error passes. -/
theorem waitBody_passes {s : State} {thr : List Nat} (low : Below s thr) (none_ : NoError s thr) (st : waitsOn thr .st = none) :
    waitBody thr s = .done s := by
  rw [waitBody_below low, st]
  exact checkErrors_none none_

/-- One that waits on ST passes the deferred faults first (R226). -/
theorem waitBody_passes_deferred {s : State} {thr : List Nat} (low : Below s thr) (st : waitsOn thr .st ≠ none)
    (told : (deferredFaults (retried s)).2 = false) (none_ : NoError (deferredFaults (retried s)).1 thr) :
    waitBody thr s = .done (deferredFaults (retried s)).1 := by
  rw [waitBody_below low, if_pos (Option.isSome_iff_ne_none.2 st), withDeferred_none told]
  exact checkErrors_none none_

theorem waitBody_consumes {s : State} {thr : List Nat} {o : OpClass} {e : OpError} (low : Below s thr) (st : waitsOn thr .st = none)
    (err : firstError s.sq (fun y => (waitsOn thr y).isSome) = some (o, e)) : waitBody thr s = .consume o e.raise := by
  rw [waitBody_below low, st]
  exact checkErrors_some err

theorem waitBody_consumes_deferred {s : State} {thr : List Nat} {o : OpClass} {e : OpError} (low : Below s thr)
    (st : waitsOn thr .st ≠ none) (told : (deferredFaults (retried s)).2 = false)
    (err : firstError (deferredFaults (retried s)).1.sq (fun y => (waitsOn thr y).isSome) = some (o, e)) :
    waitBody thr s = .consume o e.raise := by
  rw [waitBody_below low, if_pos (Option.isSome_iff_ne_none.2 st), withDeferred_none told]
  exact checkErrors_some err

theorem waitBody_stops {s : State} {thr : List Nat} (low : Below s thr) (st : waitsOn thr .st ≠ none)
    (told : (deferredFaults (retried s)).2 = true) :
    waitBody thr s = .halted (stopSquad ((deferredFaults (retried s)).1.setPc (deferredFaults (retried s)).1.sq.cur.active
      fun _ => (deferredFaults (retried s)).1.sq.cur.first)) := by
  rw [waitBody_below low, if_pos (Option.isSome_iff_ne_none.2 st), withDeferred_stops told]

theorem exec_wait (l c k t : BitVec 5) (m : BitVec 4) (s : State) : exec (.wait l c k t m) s =
    issue (traitsOf (.wait l c k t m)) (usesOf (extSet s.sq.cur) (.wait l c k t m)) s (waitBody (waitTo l c k t m)) := rfl

theorem exec_wait0 (m : BitVec 5) (s : State) : exec (.wait0 m) s =
    issue (traitsOf (.wait0 m)) (usesOf (extSet s.sq.cur) (.wait0 m)) s (waitBody (wait0To m)) := rfl

theorem exec_setmode (r : BitVec 2) (z : BitVec 1) (t : BitVec 5) (w f : BitVec 1) (e : BitVec 5) (s : State) :
    exec (.setmode r z t w f e) s = issue (traitsOf (.setmode r z t w f e)) (usesOf (extSet s.sq.cur) (.setmode r z t w f e)) s
      fun p => .done (p.onSq fun q => { q with mode := modeAfter q.mode r z t w f e }) := by
  have arm : exec (.setmode r z t w f e) s = execSetmode r z t w f e s := rfl
  simp only [arm, execSetmode, modeAfter, beq_iff_eq]
  rfl

end Sys2Proof.Machine

namespace Sys2Proof.Laws

open Sys2Proof.Machine

/-- Settles O19: each arm but the prefixes is the issue of its effect; the two waits have one own part, which passes, consumes an
error, blocks or stops. -/
theorem controlInstructions : Obligations.ControlInstructions := by
  unfold Obligations.ControlInstructions
  refine fun d a => ⟨?nop, ?yield, ?exit, ?guard, ?ord, ?ext, ?time, ?rdsr, ?wrsr, ?setmode, ?wait, ?waitSt, ?waitBlocks,
    ?wait0, ?wait0St, ?wait0Blocks, ?waitErr, ?waitStErr, ?waitStops, ?wait0Err, ?wait0StErr, ?wait0Stops⟩
  case nop => exact gives_of_done fun _ => rfl
  case yield => exact switches_of_switch fun _ => rfl
  case exit => exact switches_of_switch fun _ => rfl
  case guard => exact fun _ _ _ _ => rfl
  case ord => exact fun _ _ _ => rfl
  case ext => exact fun _ _ => rfl
  case time => exact gives_of_done fun _ => rfl
  case rdsr => exact fun _ => gives_of_done fun _ => rfl
  case wrsr => exact fun _ => gives_of_done fun _ => rfl
  case setmode => exact fun r z t w f e => gives_of_done (exec_setmode r z t w f e)
  case wait => exact fun l c k t m => givesWhen_of_done (exec_wait l c k t m) fun _ ⟨low, none_, st⟩ => waitBody_passes low none_ st
  case waitSt =>
    exact fun l c k t m => givesWhen_of_done (exec_wait l c k t m) fun _ ⟨low, st, told, none_⟩ =>
      waitBody_passes_deferred low st told none_
  case waitBlocks => exact fun l c k t m => blocksWhen_of_block (exec_wait l c k t m) fun _ h => waitBody_blocks h
  case wait0 => exact fun m => givesWhen_of_done (exec_wait0 m) fun _ ⟨low, none_, st⟩ => waitBody_passes low none_ st
  case wait0St =>
    exact fun m => givesWhen_of_done (exec_wait0 m) fun _ ⟨low, st, told, none_⟩ => waitBody_passes_deferred low st told none_
  case wait0Blocks => exact fun m => blocksWhen_of_block (exec_wait0 m) fun _ h => waitBody_blocks h
  case waitErr =>
    intro l c k t m s o e h low st err
    rw [exec_settleOwn (exec_wait l c k t m) h, waitBody_consumes low st err, settleOwn_consume]
  case waitStErr =>
    intro l c k t m s o e h low st told err
    rw [exec_settleOwn (exec_wait l c k t m) h, waitBody_consumes_deferred low st told err, settleOwn_consume]
  case waitStops =>
    intro l c k t m s h low st told
    rw [exec_settleOwn (exec_wait l c k t m) h, waitBody_stops low st told, settleOwn_halted]
  case wait0Err =>
    intro m s o e h low st err
    rw [exec_settleOwn (exec_wait0 m) h, waitBody_consumes low st err, settleOwn_consume]
  case wait0StErr =>
    intro m s o e h low st told err
    rw [exec_settleOwn (exec_wait0 m) h, waitBody_consumes_deferred low st told err, settleOwn_consume]
  case wait0Stops =>
    intro m s h low st told
    rw [exec_settleOwn (exec_wait0 m) h, waitBody_stops low st told, settleOwn_halted]

end Sys2Proof.Laws
end

section
/-! The device's steps of one squad (R41, R42, R46, R321, R369). -/

namespace Sys2Proof.Machine

theorem deliverEvent_due {t : State} {g : Mask} {pc : DWord} (due : eventDue t t.sq = true)
    (group : eventGroup t.sq.thr = some (g, pc)) : deliverEvent t = enterSystem t g pc (0x80 + lowestEvent t) 0 g.toNat := by
  simp only [deliverEvent, due, group, if_true]

theorem expire_due {t : State} (h : Config.quantum ≤ t.sq.thr.quantum) :
    expire t = t.onSq fun q => { q with thr := { q.thr with aside := q.thr.aside ||| (q.thr.ran &&& q.thr.live), quantum := 0 } } :=
  if_pos h

theorem expire_early {t : State} (h : t.sq.thr.quantum < Config.quantum) : expire t = t := if_neg (Nat.not_le.2 h)

/-! ### A blocked instruction that is tried again (R42) -/

/-- The registers that a blocked instruction uses when it is tried again. -/
def Blocked.uses (w : Blocked) : Uses := ⟨[], [], w.reads, w.writes, true⟩

theorem tryAgain_runs {t : State} {w : Wait} (free : interlocked t.sq w.what.uses = false)
    (sound : checkPoison t w.what.uses = none) : tryAgain t w = tryBlocked t w.stamp w.what := by
  unfold Blocked.uses at free sound
  simp only [tryAgain, free, sound, Bool.false_eq_true, if_false]

theorem tryAgain_marked {t : State} {w : Wait} {f : FaultInfo} (free : interlocked t.sq w.what.uses = false)
    (marked : checkPoison t w.what.uses = some f) : tryAgain t w = .fault f := by
  unfold Blocked.uses at free marked
  simp only [tryAgain, free, marked, Bool.false_eq_true, if_false]

theorem tryAgain_waits {t : State} {w : Wait} (held : interlocked t.sq w.what.uses = true) : tryAgain t w = .stall := by
  unfold Blocked.uses at held
  simp only [tryAgain, held, if_true]

/-! ### The end of a squad (R46) -/

theorem exec_squadRetire {s t : State} {sq : Nat} (found : s.checkout sq = some t) (unit_ : inUnit t t.sq = false)
    (open_ : endWaits t = false) : exec (.squadRetire sq) s = .next (endSquad t) :=
  (onSquad_found (fun t => if inUnit t t.sq || endWaits t then s else endSquad t) found).trans
    (by simp only [unit_, open_, Bool.or_self, Bool.false_eq_true, if_false])

theorem endSquad_retires {t : State} (exiting : t.sq.status = .exiting) (ops : t.sq.ops = [])
    (err : firstError t.sq (fun _ => true) = none) : endSquad t = retireSquad t := by
  simp [endSquad, exiting, ops, err]

theorem endSquad_faults {t : State} {c : OpClass} {e : OpError} (exiting : t.sq.status = .exiting) (ops : t.sq.ops = [])
    (err : firstError t.sq (fun _ => true) = some (c, e)) :
    endSquad t = endSequence (takeFault ((backToExit t).onSq fun q => { q with errs := q.errs.filter fun x => x.1 != c }) e.raise) := by
  simp only [endSquad, exiting, ops, err, beq_self_eq_true, List.isEmpty_nil, Bool.and_self, if_true]
  rfl

/-! ### Replay (R369) -/

theorem walkAgain_found {r : Replay} {s u : State} {p : Awaited} {key : Nat} {ps : List Awaited} (seen : p.seen = true)
    (e : resolve s s.sq.ident.priv s.sq.ident.core s.sq.ident.ctx p.va needLeaf = (u, .inl key)) :
    walkAgain r (s, ps) p = (u, ps) := by
  simp only [walkAgain, seen, Bool.not_true, Bool.false_eq_true, if_false, e]

/-- A page that is not present again, found by another request's walk, is waited for without a record. -/
theorem walkAgain_absent {r : Replay} {s u : State} {p : Awaited} {f : TrFault} {ps : List Awaited} (seen : p.seen = true)
    (cause : f.cause = 0x44) (joined : f.joined = true)
    (e : resolve s s.sq.ident.priv s.sq.ident.core s.sq.ident.ctx p.va needLeaf = (u, .inr f)) :
    walkAgain r (s, ps) p = (u, ps ++ [{ p with seen := false }]) := by
  simp [walkAgain, seen, e, cause, againRecord, joined]

theorem replaySquad_one {t : State} {r : Replay} {p : Awaited} (wait : t.sq.replay = some r) (one : r.pages = [p]) :
    replaySquad t = (walkAgain r (t, []) p).1.onSq fun q =>
      { q with replay := if (walkAgain r (t, []) p).2.isEmpty then none else some { r with pages := (walkAgain r (t, []) p).2 } } := by
  simp only [replaySquad, wait, one, List.foldl_cons, List.foldl_nil]

theorem replayNow_op {t : State} {k : Nat} {o : Op} {va : Nat} (op : k ≠ 0) (found : findOp t k = some o)
    (page : o.page = some (va, true)) : replayNow t k = setOp t { o with page := none } := by
  simp only [replayNow, op, found, page, if_false]

end Sys2Proof.Machine

namespace Sys2Proof.Laws

open Sys2Proof.Machine

/-- Settles O24: each step is one function of the squad that is checked out, read in the case that its conditions leave. -/
theorem squadSteps : Obligations.SquadSteps := by
  unfold Obligations.SquadSteps
  refine ⟨?event, ?quantum, ?early, ?runs, ?marked, ?waits, ?retires, ?faults, ?found, ?absent, ?op, ?illegal⟩
  case event =>
    intro s q t g pc mc found due group
    show execSystemEventDelivery s = _
    simp only [execSystemEventDelivery, mc]
    rw [onSquad_found _ found, deliverEvent_due due group]
  case quantum => exact fun _ _ _ found h => (onSquad_found expire found).trans (congrArg _ (expire_due h))
  case early => exact fun _ _ _ found h => (onSquad_found expire found).trans (congrArg _ (expire_early h))
  case runs =>
    intro sq k w u s t found ⟨h, free, sound, done⟩
    rw [exec_blocked found h, tryAgain_runs free sound, h.stamp, done]
    rfl
  case marked =>
    intro sq k w f s t found ⟨h, free, marked⟩
    rw [exec_blocked found h, tryAgain_marked free marked]
    rfl
  case waits =>
    intro s t sq k w found h held
    rw [exec_blocked found h, tryAgain_waits held]
    rfl
  case retires =>
    intro sq s t found ⟨unit_, open_, exiting, ops, err⟩
    rw [exec_squadRetire found unit_ open_, endSquad_retires exiting ops err]
  case faults =>
    intro sq c e s t found ⟨unit_, open_, exiting, ops, err⟩
    rw [exec_squadRetire found unit_ open_, endSquad_faults exiting ops err]
  case found =>
    intro sq r p u key s t found ⟨wait, one, seen, e⟩
    refine (onSquad_found (fun t => replayNow t 0) found).trans (congrArg _ ?_)
    exact (replaySquad_one wait one).trans (by rw [walkAgain_found seen e]; rfl)
  case absent =>
    intro sq r p u f s t found ⟨wait, one, seen, cause, joined, e⟩
    refine (onSquad_found (fun t => replayNow t 0) found).trans (congrArg _ ?_)
    exact (replaySquad_one wait one).trans (by rw [walkAgain_absent seen cause joined e]; rfl)
  case op =>
    intro sq k o va s t found ⟨op, fo, page⟩
    exact (onSquad_found (fun t => replayNow t k) found).trans (congrArg _ (replayNow_op op fo page))
  case illegal =>
    intro s present
    show execIllegalInstructionFault s = _
    simp only [execIllegalInstructionFault, whenever, present, if_true]
    rfl

end Sys2Proof.Laws
end

section
/-! The step in which a squad issues (R39, R138, R145, R149, R351). -/

namespace Sys2Proof.Machine

theorem moveDevice_renewed (e : State) (m : Move) : moveDevice e m = renewed e m (moveOnce e m) := by
  unfold moveDevice renewed
  cases moveOnce e m <;> rfl

/-- The move that the plan, or where it is empty the default, gives is made once its time has passed (log 3, log 4). -/
theorem step_moves {s e : State} {m : Move} {dt : Nat} {rest : List (Nat × Move)}
    (h : (s.plan = (dt, m) :: rest ∧ e = elapse { s with plan := rest } dt m) ∨
      (s.plan = [] ∧ s.dev.powered = true ∧ defaultMove s = m ∧ e = elapse s (Config.freeNs s.tickets) m)) :
    step s = renewed e m (moveOnce e m) := by
  rw [← moveDevice_renewed]
  unfold step
  obtain ⟨plan, rfl⟩ | ⟨plan, on, rfl, rfl⟩ := h
  · simp only [plan]
  · simp only [plan, on, Bool.not_true, Bool.false_eq_true, if_false]

/-- A squad without a due event that may issue within its quantum makes its quadrant issue. -/
theorem moveSquad_issues {e t : State} {id : Nat} (found : e.checkout id = some t) (event : eventDue t t.sq = false)
    (may : canIssue t.sq = true) (quantum : t.sq.thr.quantum < Config.quantum) : moveSquad e id = stepSquad (turn t) := by
  simp only [moveSquad, found, event, may, Nat.not_le.2 quantum, Bool.not_true, Bool.false_eq_true, if_false]

/-- A sequence without prefixes is the instruction that its halfwords decode to. -/
theorem fetchSeq_instruction {fuel : Nat} {s u : State} {pc next : DWord} {h0 h1 : Nat} {i : Instr}
    (code : fetchOne s pc = (u, .got (h0, h1, next))) (dec : decode h0 h1 = .ok i) (plain : prefixRank i = none)
    (priv : (traitsOf i).priv = true → u.sq.ident.priv = true) :
    fetchSeq fuel s pc [] false = .run [] i (setCursor u pc next) := by
  have allowed : ((traitsOf i).priv && !u.sq.ident.priv) = false := by
    cases p : (traitsOf i).priv with
    | false => rfl
    | true => rw [priv p]; rfl
  unfold fetchSeq
  simp only [code, dec, plain, allowed, prefixesOrdered, Bool.not_true, Bool.false_eq_true, if_false]

theorem stepSquad_run {s u : State} {ps : List Instr} {i : Instr} (e : fetch s = .run ps i u) :
    stepSquad s = exec i (runPrefixes ps u) := by
  simp only [stepSquad, e]

theorem turn_alone {t : State} (h : rivals t = []) : turn t = t := by
  simp only [turn, h, List.isEmpty_nil, if_true]

theorem renewAges_sparse {s t : State} {m : Move} (h : crowded t = false) : renewAges s t m = t := by
  simp only [renewAges, h, Bool.not_false, if_true]

end Sys2Proof.Machine

namespace Sys2Proof.Laws

open Sys2Proof.Machine

/-- Settles O55: the step is the squad's move, which issues what the fetch of its turn finds. -/
theorem stepRunsTheFetchedInstruction : Obligations.StepRunsTheFetchedInstruction := by
  unfold Obligations.StepRunsTheFetchedInstruction
  refine ⟨fun s e t id dt rest move found event may quantum => ?_, fun t => turn_alone, fun s t m h => ?_⟩
  · have issues : ∀ {ps i u}, fetch (turn t) = .run ps i u → step s = renewed e (.squad id) (exec i (runPrefixes ps u)) := by
      intro ps i u run
      rw [step_moves move, moveOnce, moveSquad_issues found event may quantum, stepSquad_run run]
    refine ⟨fun g pc thr u h0 h1 next i select code dec plain priv => issues (ps := []) ?_, fun ps i u => issues⟩
    simp only [fetch, select]
    exact fetchSeq_instruction code dec plain priv
  · exact congrArg _ (renewAges_sparse h)

end Sys2Proof.Laws
end

section
/-! What squads begin with (R30, R31, R424), and the resident squads that placing a crew leaves as they are. -/

namespace Sys2Proof.Machine

/-! ### The parked squads -/

theorem foldl_parked {α : Type} {f : State → α → State} (same : ∀ t a, (f t a).parked = t.parked) (l : List α) (s : State) :
    (l.foldl f s).parked = s.parked := foldl_same (fun t : State => t.parked) same l s

@[simp] theorem rawWrite_parked (s : State) (a : Nat) (bs : List Byte) : (rawWrite s a bs).parked = s.parked := rfl

@[simp] theorem llcClean_parked (s : State) (a : Nat) : (llcClean s a).parked = s.parked := by
  simp only [llcClean]
  repeat' split
  all_goals rfl

@[simp] theorem llcShow_parked (s : State) (l : LlcLine) : (llcShow s l).parked = s.parked := by
  simp only [llcShow]
  repeat' split
  all_goals rfl

@[simp] theorem llcEvict_parked (s : State) (a : Nat) : (llcEvict s a).parked = s.parked := by
  simp only [llcEvict]
  split
  · exact llcClean_parked s a
  · exact (llcShow_parked _ _).trans (llcClean_parked s a)

@[simp] theorem llcRoom_parked (s : State) (a : Nat) (ws : List Nat) : (llcRoom s a ws).parked = s.parked := by
  simp only [llcRoom]
  repeat' split
  · rfl
  · rfl
  · rfl
  · exact llcEvict_parked _ _

@[simp] theorem llcFill_parked (s : State) (ctx a : Nat) : (llcFill s ctx a).parked = s.parked := by
  simp only [llcFill]
  repeat' split
  · rfl
  · rfl
  · rfl
  · exact llcRoom_parked _ _ _

@[simp] theorem llcWrite_parked (s : State) (ctx line a n : Nat) : (llcWrite s ctx line a n).parked = s.parked := by
  simp only [llcWrite]
  split
  · exact llcFill_parked s ctx line
  · exact llcFill_parked s ctx line

@[simp] theorem homePut_parked (s : State) (ctx a : Nat) (bs : List Byte) : (homePut s ctx a bs).parked = s.parked := by
  unfold homePut
  rw [rawWrite_parked]
  exact foldl_parked (fun t line => llcWrite_parked t ctx line a bs.length) _ s

@[simp] theorem raiseEvent_parked (s : State) (k : Nat) : (raiseEvent s k).parked = s.parked := rfl

@[simp] theorem storeRecord_parked (s : State) (words : List Byte) : (storeRecord s words).parked = s.parked :=
  homePut_parked s 0 _ _

@[simp] theorem pushRecord_parked (s : State) (f : Bool) (a b c : Nat) : (pushRecord s f a b c).parked = s.parked := by
  unfold pushRecord
  rw [raiseEvent_parked]
  split
  · exact storeRecord_parked s _
  · rfl

theorem errorRecord_parked (s : State) (kind : Nat) (ctx : Option Nat) (a b c d e f : Nat) :
    (errorRecord s kind ctx a b c d e f).parked = s.parked := pushRecord_parked _ _ _ _ _

@[simp] theorem planeRecord_parked (s : State) (bank : Nat) (scrub : Bool) : (planeRecord s bank scrub).parked = s.parked := by
  simp only [planeRecord]
  split <;> exact errorRecord_parked _ _ _ _ _ _ _ _ _

@[simp] theorem verifyPlanes_parked (s : State) (bank : Nat) (planes : List Nat) (scrub : Bool) :
    (verifyPlanes s bank planes scrub).parked = s.parked := by
  have poisoned : ∀ all : List Nat, (all.foldl (fun u i => poisonPlane u bank i) s).parked = s.parked := fun all =>
    foldl_parked (f := fun u i => poisonPlane u bank i) (fun _ _ => rfl) all s
  unfold verifyPlanes
  dsimp only
  refine (apply_ite State.parked _ _ _).trans ?_
  rw [planeRecord_parked, poisoned, ite_self]

@[simp] theorem leaveRetention_parked (s : State) (bank : Nat) : (leaveRetention s bank).parked = s.parked := by
  unfold leaveRetention
  split
  · rfl
  · dsimp only
    rw [verifyPlanes_parked, foldl_parked]
    exact fun _ _ => errorRecord_parked _ _ _ _ _ _ _ _ _

/-! ### The squads of a new crew -/

/-- The squads of a crew at entry, in the order of their roles. -/
def newSquads (g : Grid) (crew core linear : Nat) (slots : List (Nat × Nat)) : List Squad :=
  (roleList g.r).zipIdx.map fun e => entrySquad g crew core linear e.2 (slots.getD e.2 (0, 0)) e.1 (crew + 1 + e.2)

/-- The device as a new crew finds it: its banks out of retention and fresh, and the core's L1 invalidated (R84, R133). -/
def readied (s : State) (g : Grid) (core : Nat) : State :=
  let mine := (freeBanks s core).take g.r.own
  let res := ((boundTo s g.ctx g.r).map fun x => (assocGet x.banks core []).take g.r.residN).getD []
  invalidateClean (mine.foldl freshBank ((mine ++ res).foldl leaveRetention s)) core

theorem readied_parked (s : State) (g : Grid) (core : Nat) : (readied s g core).parked = s.parked :=
  (foldl_parked (f := freshBank) (fun _ _ => rfl) _ _).trans (foldl_parked leaveRetention_parked _ s)

theorem placeCrew_parked (s : State) (g : Grid) (linear core : Nat) : (placeCrew s g linear core).1.parked =
    s.parked ++ newSquads g (readied s g core).serial core linear (freeSlots s core) := by
  rw [← readied_parked s g core]
  unfold placeCrew
  dsimp only
  split <;> rfl

theorem roleList_length (r : Record) : (roleList r).length = (r.roles.map Role.squads).sum := by
  have sizes : (r.roles.zipIdx.map fun e => e.1.squads) = r.roles.map Role.squads := by
    rw [← List.zipIdx_map_fst 0 r.roles, List.map_map, List.zipIdx_map_fst 0 r.roles]
    rfl
  simp only [roleList, List.length_flatMap, List.length_map, List.length_range, sizes]

theorem newSquads_length (g : Grid) (crew core linear : Nat) (slots : List (Nat × Nat)) :
    (newSquads g crew core linear slots).length = (g.r.roles.map Role.squads).sum := by
  rw [newSquads, List.length_map, List.length_zipIdx, roleList_length]

/-- Each entry of the list of roles names a role of the record by its number (R25). -/
theorem roleList_role {r : Record} {e : Nat × Role × Nat} (h : e ∈ roleList r) : r.roles[e.1]? = some e.2.1 := by
  obtain ⟨p, hp, hk⟩ := List.mem_flatMap.1 h
  obtain ⟨k, _, rfl⟩ := List.mem_map.1 hk
  exact List.mem_zipIdx_iff_getElem?.1 hp

theorem mem_newSquads {g : Grid} {crew core linear : Nat} {slots : List (Nat × Nat)} {q : Squad}
    (h : q ∈ newSquads g crew core linear slots) : ∃ index place e id, q = entrySquad g crew core linear index place e id ∧
      g.r.roles[e.1]? = some e.2.1 := by
  obtain ⟨⟨e, index⟩, he, rfl⟩ := List.mem_map.1 h
  refine ⟨index, _, e, _, rfl, roleList_role ?_⟩
  exact List.mem_of_getElem? (List.mem_zipIdx_iff_getElem?.1 he)

/-! ### The device at step 1 of the reset sequence (R401) -/

theorem vget_replicate {α : Type} (n : Nat) [NeZero n] (x : α) (i : Nat) : vget (Vector.replicate n x) i = x :=
  Vector.getElem_replicate _

theorem reset_part (p : Nat) : State.reset.part p = Partition.reset := vget_replicate 8 _ p

theorem reset_queue (n : Nat) : State.reset.queue n = WorkQueue.reset := vget_replicate 64 _ n

theorem reset_link (n : Nat) : State.reset.link n = Link.reset := vget_replicate 88 _ n

/-! ### Registers and threads at entry -/

theorem reset_lane (n l : Nat) : Regs.reset.lane n l = 0 := by simp [Regs.lane, Regs.reset, vget_replicate]

theorem reset_sreg (n : Nat) : Regs.reset.sreg n = 0 := by simp [Regs.sreg, Regs.reset, vget_replicate]

theorem reset_pred {n : Nat} (pos : 0 < n) (h : n < 8) : Regs.reset.pred n = 0 := by
  have : ∀ n, n < 8 → 0 < n → Regs.reset.pred n = 0 := by decide
  exact this n h pos

theorem allLanes_all {l : Nat} (h : l < 32) : allLanes.getLsbD l = true := by
  have : ∀ l, l < 32 → allLanes.getLsbD l = true := by decide
  exact this l h

/-- A squad at entry whose other files are loaded stands at its entry as one that is not. -/
theorem entersAt_entry (ident : Ident) {pc : DWord} {r : Regs} {P : DWord → Prop} (preds : ∀ n, r.pred n = Regs.reset.pred n)
    (at_ : P pc) : EntersAt { Squad.entry ident pc with regs := r } P where
  pc l _ := by
    have : vget (Threads.reset pc).pc l = pc := by simp [Threads.reset, vget]
    exact this.symm ▸ at_
  eligible := by simp [Squad.entry, Threads.reset, Threads.eligible, Threads.blocked]
  aside := rfl
  windows l _ := by simp [Squad.entry, Threads.reset, vget]
  p0 := (preds 0).trans rfl
  preds n pos h := (preds n).trans (reset_pred pos h)
  mode := rfl
  flags := rfl
  trap := rfl
  quantum := rfl
  ops := rfl

/-- The register files that a squad of a crew begins with (R30, R31). -/
def entryRegs (g : Grid) (linear index : Nat) : Regs :=
  (((Regs.reset.setV 127 allLanes fun l => BitVec.ofNat 32 ((index * 32 + l + 1) * g.r.priv)).setS 1
    (BitVec.ofNat 64 g.r.args)).setS 2 (BitVec.ofNat 64 g.r.va)).setS 3
      (BitVec.ofNat 64 (g.r.privBase + linear * (32 * g.r.squads) * g.r.priv))

theorem entryRegs_lane (g : Grid) (linear index : Nat) {n l : Nat} (hn : n < 128) (hl : l < 32) :
    (entryRegs g linear index).lane n l = if n = 127 then BitVec.ofNat 32 ((index * 32 + l + 1) * g.r.priv) else 0 := by
  simp only [entryRegs, setS_lane, setV_lane _ 127 n l _ _ hl (by decide) hn, allLanes_all hl, and_true, reset_lane]

theorem entryRegs_sreg (g : Grid) (linear index : Nat) {n : Nat} (hn : n < 64) : (entryRegs g linear index).sreg n =
    if n = 1 then BitVec.ofNat 64 g.r.args else if n = 2 then BitVec.ofNat 64 g.r.va else
      if n = 3 then BitVec.ofNat 64 (g.r.privBase + linear * (32 * g.r.squads) * g.r.priv) else 0 := by
  rw [entryRegs, setS_sreg _ 3 n _ (by decide) hn, setS_sreg _ 2 n _ (by decide) hn, setS_sreg _ 1 n _ (by decide) hn, setV_sreg,
    reset_sreg]
  by_cases h1 : n = 1
  · subst h1; rfl
  by_cases h2 : n = 2
  · subst h2; rfl
  simp [h1, h2]

theorem entryRegs_pred (g : Grid) (linear index n : Nat) : (entryRegs g linear index).pred n = Regs.reset.pred n := by
  simp only [entryRegs, setS_pred, setV_pred]

end Sys2Proof.Machine

namespace Sys2Proof.Laws

open Sys2Proof.Machine

/-- Settles O60: the reset values stand in the definitions; a crew's squads are appended to the parked ones, each an entry with its
registers loaded, and squad 0 of the management core is such an entry too. -/
theorem resetAndEntryValues : Obligations.ResetAndEntryValues := by
  unfold Obligations.ResetAndEntryValues
  refine ⟨⟨rfl, rfl, rfl, rfl, rfl, rfl, rfl, rfl⟩, ?parts, ?queues, ?links, ?crew, ?mc⟩
  case parts =>
    intro p _
    rw [reset_part]
    exact ⟨rfl, rfl, rfl⟩
  case queues =>
    intro n _
    rw [reset_queue]
    rfl
  case links =>
    intro n _
    rw [reset_link]
    exact ⟨rfl, rfl, rfl⟩
  case crew =>
    intro s g linear core
    dsimp only
    rw [placeCrew_parked]
    refine ⟨by rw [List.length_append, newSquads_length], fun q hq new => ?_⟩
    obtain ⟨index, place, r, id, rfl, role⟩ := mem_newSquads ((List.mem_append.1 hq).resolve_left new)
    refine ⟨fun l hl => (entryRegs_lane g linear index (by decide) hl).trans (if_pos rfl),
      fun n l hn hl => (entryRegs_lane g linear index (by omega) hl).trans (if_neg (by omega)),
      fun n hn => entryRegs_sreg g linear index hn, ?_, rfl, rfl, rfl, rfl⟩
    exact entersAt_entry _ (entryRegs_pred g linear index) ⟨r.2.1, role, rfl, rfl⟩
  case mc =>
    intro s e
    refine ⟨fun n l hn hl => ?_, fun n _ => (setV_sreg Regs.reset 127 n allLanes fun _ => 0).trans (reset_sreg n),
      entersAt_entry _ (fun n => setV_pred Regs.reset 127 n allLanes fun _ => 0) rfl, rfl, rfl⟩
    refine (setV_lane Regs.reset 127 n l allLanes (fun _ => 0) hl (by decide) hn).trans ?_
    rw [reset_lane, ite_self]

end Sys2Proof.Laws
end

section
/-! Frames of the instructions that write one register: integer lanes, shuffles, scalars, predicates and votes (R54, R141, R182 to
R200, R216, R218). -/

namespace Sys2Proof.Machine

/-! ### The scalar registers that an instruction names are below 64 (R144) -/

theorem Issues.legal {i : Instr} {s : State} (h : Issues i s) : (usesNow s i).legal = true := by
  have operands := h.operands
  unfold checkOperands at operands
  by_contra illegal
  rw [Bool.not_eq_true] at illegal
  simp [illegal] at operands

theorem Issues.write_low {i : Instr} {s : State} (h : Issues i s) {r : Nat} (hr : r ∈ (usesNow s i).sw) : r < 64 := by
  have legal := h.legal
  simp only [Uses.legal, Bool.and_eq_true, List.all_eq_true, decide_eq_true_eq] at legal
  exact legal.2 r (List.mem_append_right _ hr)

/-! ### Frames from what an arm does -/

/-- An instruction that writes a vector register in its enabled lanes, on a condition. -/
theorem framed_putV {P : State → Prop} {i : Instr} {body : State → Eff} {d : Nat} {f : State → Nat → Word} (hd : d < 128)
    (arm : ∀ s, exec i s = issue (traitsOf i) (usesOf (extSet s.sq.cur) i) s body) (done : ∀ p, P p → body p = .done (p.putV d (f p))) :
    Framed P i [d] [] [] inEnabled := framed_setV hd (givesWhen_of_done arm done)

/-- A lane instruction that completes in any state. -/
theorem framed_lane {i : Instr} {body : State → Eff} {d : Nat} {f : State → Nat → Word} (hd : d < 128)
    (arm : ∀ s, exec i s = issue (traitsOf i) (usesOf (extSet s.sq.cur) i) s body) (done : ∀ p, body p = .done (p.putV d (f p))) :
    Framed always i [d] [] [] inEnabled := framed_putV hd arm fun p _ => done p

/-- An instruction that writes a predicate in the lanes of m. -/
theorem framed_pred {i : Instr} {body : State → Eff} {d : Nat} {m f : State → Mask} (hd : d < 8)
    (arm : ∀ s, exec i s = issue (traitsOf i) (usesOf (extSet s.sq.cur) i) s body)
    (done : ∀ p, body p = .done (p.setP d (m p) (f p))) : Framed always i [] [] [d] m :=
  framed_setP hd (givesWhen_of_done arm fun p _ => done p)

/-- An instruction that issues only below a bound on a field is framed when it is framed there. -/
theorem framed_of_low {P : State → Prop} {i : Instr} {vs ss ps : List Nat} {m : State → Mask} {d : Nat}
    (names : ∀ s, d ∈ (usesNow s i).sw) (low : d < 64 → Framed P i vs ss ps m) : Framed P i vs ss ps m :=
  fun s t h => low (h.write_low (names s)) s t h

/-- An instruction that writes a scalar register, on a condition. -/
theorem framed_scalarWhen {P : State → Prop} {i : Instr} {body : State → Eff} {d : Nat} {f : State → DWord}
    (names : ∀ s, d ∈ (usesNow s i).sw)
    (arm : ∀ s, exec i s = issue (traitsOf i) (usesOf (extSet s.sq.cur) i) s body) (done : ∀ p, P p → body p = .done (p.setX d (f p))) :
    Framed P i [] [d] [] inEnabled := framed_of_low names fun low => framed_setX low (givesWhen_of_done arm done)

/-- One that writes a scalar register in any state. -/
theorem framed_scalar {i : Instr} {body : State → Eff} {d : Nat} {f : State → DWord} (names : ∀ s, d ∈ (usesNow s i).sw)
    (arm : ∀ s, exec i s = issue (traitsOf i) (usesOf (extSet s.sq.cur) i) s body) (done : ∀ p, body p = .done (p.setX d (f p))) :
    Framed always i [] [d] [] inEnabled := framed_scalarWhen names arm fun p _ => done p

/-- An instruction that changes nothing. -/
theorem framed_nothing {i : Instr} (arm : ∀ s, exec i s = issue (traitsOf i) (usesOf (extSet s.sq.cur) i) s .done) :
    Framed always i [] [] [] inEnabled :=
  framed_of (givesWhen_of_done (f := id) arm fun _ _ => rfl) (fun _ => ⟨fun _ _ _ _ _ => rfl, fun _ _ _ => rfl, fun _ _ _ _ _ => rfl⟩)
    (fun _ => ⟨⟨rfl, rfl, rfl, rfl, rfl, rfl, rfl, rfl⟩, rfl, rfl⟩) (fun _ => rfl) fun _ => rfl

/-! ### Shuffles, and lanes that a scalar names -/

theorem shuffleBy_done {t : State} {d a b : Nat} {src : Nat → Nat → Nat} (near : (t.x b).toNat < 32)
    (unmarked : t.unmarked a (t.sourceLanes (src (t.x b).toNat))) :
    shuffleBy t d a b src = .done (t.putV d fun l => t.v a (src (t.x b).toNat l)) := by
  unfold shuffleBy
  simp only [if_neg (Nat.not_le.2 near)]
  exact shuffle_done t d a _ unmarked

/-- What `rdlane` does. -/
def readLane (d a b : Nat) (t : State) : Eff :=
  if 32 ≤ (t.x b).toNat then .fault { cause := 0x41, lanes := t.sq.cur.active }
  else match markFault (poisonedV t.sq [a] (maskOf [(t.x b).toNat])) with
    | some f => .fault f
    | none => .done (t.setX d ((t.v a (t.x b).toNat).zeroExtend 64))

theorem exec_rdlane (d a b : BitVec 7) (s : State) : exec (.rdlane d a b) s =
    issue (traitsOf (.rdlane d a b)) (usesOf (extSet s.sq.cur) (.rdlane d a b)) s (readLane d.toNat a.toNat b.toNat) := rfl

theorem readLane_unmarked {d a b : Nat} {t : State} (near : (t.x b).toNat < 32) (unmarked : t.unmarked a (maskOf [(t.x b).toNat])) :
    readLane d a b t = .done (t.setX d ((t.v a (t.x b).toNat).zeroExtend 64)) := by
  have none_ : markFault (poisonedV t.sq [a] (maskOf [(t.x b).toNat])) = none := by
    rw [show poisonedV t.sq [a] (maskOf [(t.x b).toNat]) = [] from unmarked]
    rfl
  simp only [readLane, if_neg (Nat.not_le.2 near), none_]

theorem exec_wrlane (d a b : BitVec 7) (s : State) : exec (.wrlane d a b) s =
    issue (traitsOf (.wrlane d a b)) (usesOf (extSet s.sq.cur) (.wrlane d a b)) s fun t =>
      if 32 ≤ (t.x b.toNat).toNat then .fault { cause := 0x41, lanes := t.sq.cur.active }
      else .done (t.setV d.toNat (maskOf [(t.x b.toNat).toNat]) fun _ => (t.x a.toNat).truncate 32) := rfl

end Sys2Proof.Machine

namespace Sys2Proof.Laws

open Sys2Proof.Machine

/-- Settles O31: each arm is the issue of one write of a vector register in the enabled lanes, or of a predicate. -/
theorem frameOfIntegerLanes : Obligations.FrameOfIntegerLanes := by
  unfold Obligations.FrameOfIntegerLanes
  refine ⟨fun d a => ?short, fun d a b => ?wide⟩
  case short =>
    iterate 9 refine ⟨framed_lane (lt_trans d.isLt (by decide)) (fun _ => by delta exec; exact rfl) fun _ => rfl, ?_⟩
    exact framed_lane (lt_trans d.isLt (by decide)) (fun _ => by delta exec; exact rfl) fun _ => rfl
  case wide =>
    iterate 51 refine ⟨framed_lane d.isLt (fun _ => by delta exec; exact rfl) fun _ => rfl, ?_⟩
    refine ⟨fun _ => framed_lane d.isLt (fun _ => by delta exec; exact rfl) fun _ => rfl, fun _ _ => framed_lane d.isLt (fun _ => by delta exec; exact rfl) fun _ => rfl, ?_⟩
    iterate 10 refine ⟨fun _ => framed_lane d.isLt (fun _ => by delta exec; exact rfl) fun _ => rfl, ?_⟩
    refine ⟨fun _ _ => framed_lane d.isLt (fun _ => by delta exec; exact rfl) fun _ => rfl, ?_⟩
    iterate 3 refine ⟨fun q _ _ => framed_pred q.isLt (fun _ => by delta exec; exact rfl) fun _ => rfl, ?_⟩
    refine ⟨?shflIdx, ?shflXor, ?shflUp, ?shflDn, ?movx, ?movxr⟩
    case shflIdx => exact framed_putV d.isLt (fun _ => by delta exec; exact rfl) fun p unmarked => shuffle_done p _ _ _ unmarked
    case shflXor =>
      exact framed_putV d.isLt (fun _ => by delta exec; exact rfl) fun _ ⟨near, unmarked⟩ =>
        shuffleBy_done (src := fun k l => l ^^^ k) near unmarked
    case shflUp =>
      exact framed_putV d.isLt (fun _ => by delta exec; exact rfl) fun _ ⟨near, unmarked⟩ =>
        shuffleBy_done (src := fun k l => if l < k then l else l - k) near unmarked
    case shflDn =>
      exact framed_putV d.isLt (fun _ => by delta exec; exact rfl) fun _ ⟨near, unmarked⟩ =>
        shuffleBy_done (src := fun k l => if 32 ≤ l + k then l else l + k) near unmarked
    case movx =>
      intro n s t issues ⟨named, low, own, free⟩
      refine framed_putV (P := fun p => (p.x d.toNat).toNat = n ∧ inAllotment p.sq.ident.allot n = true ∧
        interlocked p.sq ⟨[n], [n], [], [], true⟩ = false) (f := fun p l => p.v a.toNat l) low (exec_movx d a) ?_ s t issues ⟨named, own, free⟩
      rintro p ⟨rfl, own, free⟩
      exact namedRegister_pass low own free
    case movxr =>
      intro n
      refine framed_putV d.isLt (f := fun p l => p.v n l) (exec_movxr d a) ?_
      rintro p ⟨rfl, low, own, free, unmarked⟩
      exact (namedRegister_pass low own free).trans (moveNamed_unmarked unmarked)

/-- Settles O32: each arm is the issue of one write of a register. -/
theorem frameOfScalarAndPredicate : Obligations.FrameOfScalarAndPredicate := by
  unfold Obligations.FrameOfScalarAndPredicate
  intro d a b e
  have names (r : Nat) : r ∈ [r] := List.mem_singleton.2 rfl
  iterate 26 refine ⟨framed_scalar (fun _ => names _) (fun _ => by delta exec; exact rfl) fun _ => rfl, ?_⟩
  iterate 11 refine ⟨fun _ => framed_scalar (fun _ => names _) (fun _ => by delta exec; exact rfl) fun _ => rfl, ?_⟩
  refine ⟨fun _ _ => framed_scalar (fun _ => names _) (fun _ => by delta exec; exact rfl) fun _ => rfl, framed_lane d.isLt (fun _ => by delta exec; exact rfl) fun _ => rfl, ?rdlane, ?wrlane, ?_⟩
  case rdlane => exact framed_scalarWhen (fun _ => names _) (exec_rdlane d a b) fun _ ⟨near, unmarked⟩ => readLane_unmarked near unmarked
  case wrlane => exact framed_setV d.isLt (givesWhen_of_done (exec_wrlane d a b) fun _ near => if_neg (Nat.not_le.2 near))
  iterate 3 refine ⟨fun _ _ _ _ => framed_pred (BitVec.isLt _) (fun _ => by delta exec; exact rfl) fun _ => rfl, ?_⟩
  exact ⟨fun _ => framed_pred (BitVec.isLt _) (fun _ => by delta exec; exact rfl) fun _ => rfl, fun d _ _ => framed_setV d.isLt (givesWhen_of_done (by delta exec; exact fun _ => rfl) fun _ _ => rfl),
    fun _ => framed_pred (BitVec.isLt _) (fun _ => by delta exec; exact rfl) fun _ => rfl, fun _ => framed_nothing fun _ => rfl,
    fun _ _ => framed_pred (BitVec.isLt _) (fun _ => by delta exec; exact rfl) fun _ => rfl, fun _ _ => framed_pred (BitVec.isLt _) (fun _ => by delta exec; exact rfl) fun _ => rfl, fun _ _ => framed_pred (BitVec.isLt _) (fun _ => by delta exec; exact rfl) fun _ => rfl,
    fun _ _ _ => framed_scalar (fun _ => names _) (fun _ => by delta exec; exact rfl) fun _ => rfl, fun _ _ _ => framed_scalar (fun _ => names _) (fun _ => by delta exec; exact rfl) fun _ => rfl⟩

end Sys2Proof.Laws
end

section
/-! The checks at issue (R150, R225). -/

namespace Sys2Proof.Machine

/-! ### Steps 2 to 4 of R150 -/

/-- Every instruction of the table but the prefixes and the device steps is the issue of an own part. -/
theorem exec_issue {i : Instr} (fetched : (traitsOf i).device = false) (plain : prefixRank i = none) (s : State) :
    ∃ body, exec i s = issue (traitsOf i) (usesOf (extSet s.sq.cur) i) s body := by
  delta exec
  cases i
  case guard | ord | ext => exact nomatch plain
  case systemEventDelivery | quantumExpiry | blockedInstructionComplete | loadComplete | storeComplete | atomicComplete |
      engineOperationComplete | lastPush | squadRetire | notPresentReplay | workQueueEntryTake | dependencePoll | crewPlacement |
      timedBudgetExceeded | preemptDraining | preemptSaving | preemptSaved | preemptRestoring | preemptResumed | partitionStart |
      partitionStartComplete | partitionResize | resizeRelease | resizeDone | partitionStop | endContext | endContextComplete |
      partctlInvalidCmd | reservationWrite | linkTurnStart | turnDeadTimeEnd | flitReplay | retryWindowExpiry | spanPortDown |
      spanPortTrained | peerAccessTimeout | peerRequest | hostHdmWrite | hostHdmRead | doorbell | qcfgWrite | qwriteWrite | bar0Write |
      sysstatWrite | errpopWrite | mcwinEnable | mcwinDisable | mcwinExpansionDone | surveyctlWrite | surveyCompareLatch |
      surveyWriteOutDone | lnklanesWrite | keepbaseWrite | systemRegisterWrite | planeScrub | llcScrub | hbmScrub | bankRetentionEntry |
      bankRetentionExit | wayGroupRetentionEntry | wayGroupRetentionExit | overcurrentWarning | overcurrentClear | thermalTrip |
      powerOnReset | cxlConventionalReset | meridianLock | firmwareVerify | functionReady | illegalInstructionFault =>
    exact nomatch fetched
  all_goals exact ⟨_, rfl⟩

/-- No word that only alters the next is privileged (R314). -/
theorem prefixRank_of_priv {i : Instr} (h : (traitsOf i).priv = true) : prefixRank i = none := by
  unfold prefixRank
  split
  · exact nomatch h
  · exact nomatch h
  · exact nomatch h
  · rfl

theorem checkForm_user {s : State} {t : Traits} (h : t.priv = true) (user : s.sq.ident.priv = false) :
    checkForm s t = some { cause := 0x42, lanes := s.sq.cur.active } := by simp [checkForm, h, user]

/-- Beyond the privilege, a misplaced word of that kind comes first, then what the management core refuses (R150, R316). -/
theorem checkForm_granted {s : State} {t : Traits} (h : t.priv = true → s.sq.ident.priv = true) :
    checkForm s t = if prefixMisplaced s.sq t = true then some { cause := 0x41, detail := 1, lanes := s.sq.cur.active }
      else if (t.mcStop && s.sq.ident.core == Config.mcCore) = true then some { cause := 0x4C, lanes := s.sq.cur.active } else none := by
  have granted : (t.priv && !s.sq.ident.priv) = false := by
    cases priv : t.priv
    · rfl
    · rw [h priv]; rfl
  simp only [checkForm, granted, Bool.false_eq_true, if_false]

/-- Step 4 passes, or it names the lanes that guards enable (log 19). -/
theorem checkOperands_cases (s : State) (t : Traits) (u : Uses) : checkOperands s t u = none ∨
    checkOperands s t u = some { cause := 0x41, lanes := enabledLanes s.sq (windowsFor s.sq) } := by
  unfold checkOperands
  extract_lets
  split
  · exact .inl rfl
  · exact .inr rfl

theorem checkOperands_pass {s : State} {t : Traits} {u : Uses} (legal : u.legal = true) (ord : s.sq.cur.ord = none)
    (ext : s.sq.cur.ext = none) (own : ∀ r ∈ u.vr ++ u.vw, r + 5 ≤ s.sq.ident.allot ∨ (124 ≤ r ∧ r < 128)) :
    checkOperands s t u = none := by
  have all : (u.vr ++ u.vw).all (inAllotment s.sq.ident.allot) = true :=
    List.all_eq_true.2 fun r hr => by simpa [inAllotment] using own r hr
  simp [checkOperands, legal, ord, ext, all]

/-! ### Marks (R225) -/

theorem mem_poisonedV {q : Squad} {rs : List Nat} {m : Mask} {l a : Nat} :
    (l, a) ∈ poisonedV q rs m ↔ m.getLsbD l = true ∧ ∃ r, r ∈ rs ∧ (r, l, a) ∈ q.poisonV := by
  simp only [poisonedV, List.mem_map, List.mem_filter, Prod.exists, Prod.mk.injEq, Bool.and_eq_true, List.contains_iff_mem]
  constructor
  · rintro ⟨r, _, _, ⟨hp, hr, hm⟩, rfl, rfl⟩
    exact ⟨hm, r, hr, hp⟩
  · rintro ⟨hm, r, hr, hp⟩
    exact ⟨r, l, a, ⟨hp, hr, hm⟩, rfl, rfl⟩

theorem lane_lt {m : Mask} {l : Nat} (h : m.getLsbD l = true) : l < 32 := BitVec.lt_of_getLsbD h

/-- The first of the lanes of a mask is its lowest. -/
theorem laneList_head {m : Mask} {l : Nat} (h : m.getLsbD l = true) :
    m.getLsbD ((laneList m).headD 0) = true ∧ ∀ k, k < (laneList m).headD 0 → m.getLsbD k = false := by
  have mem : l ∈ laneList m := mem_laneList.2 ⟨lane_lt h, h⟩
  have rising : (laneList m).Pairwise (· < ·) := List.pairwise_lt_range.filter _
  cases e : laneList m with
  | nil => simp [e] at mem
  | cons a as =>
    have first : a ∈ laneList m := e ▸ List.mem_cons_self
    refine ⟨(mem_laneList.1 first).2, fun k hk => ?_⟩
    rw [e] at rising
    by_contra on
    rw [Bool.not_eq_false] at on
    have hk' : k ∈ a :: as := e ▸ mem_laneList.2 ⟨lane_lt on, on⟩
    simp only [List.headD_cons] at hk
    rcases List.mem_cons.1 hk' with rfl | later
    · exact lt_irrefl _ hk
    · exact lt_asymm hk ((List.pairwise_cons.1 rising).1 k later)

/-- The fault of some marks: its lanes are theirs, and its address is that of a mark in the lowest. -/
theorem markFault_spec {vs : List (Nat × Nat)} (low : ∀ v ∈ vs, v.1 < 32) : (vs = [] ∧ markFault vs = none) ∨
    ∃ v ∈ vs, markFault vs = some { cause := 0x4A, lanes := maskOf (vs.map (·.1)), addr := v.2, aux := 1 } ∧
      ∀ k, k < v.1 → (maskOf (vs.map (·.1))).getLsbD k = false := by
  cases e : vs with
  | nil => exact .inl ⟨rfl, rfl⟩
  | cons w ws =>
    rw [← e]
    have on {v : Nat × Nat} (hv : v ∈ vs) : (maskOf (vs.map (·.1))).getLsbD v.1 = true := by
      rw [getLsbD_maskOf _ _ (low v hv)]
      exact List.contains_iff_mem.2 (List.mem_map_of_mem hv)
    obtain ⟨first, least⟩ := laneList_head (on (e ▸ List.mem_cons_self : w ∈ vs))
    rw [getLsbD_maskOf _ _ (lane_lt first), List.contains_iff_mem] at first
    obtain ⟨v, hv, at_⟩ := List.mem_map.1 first
    obtain ⟨x, hx⟩ : ∃ x, vs.find? (fun t => t.1 == (laneList (maskOf (vs.map (·.1)))).headD 0) = some x :=
      Option.isSome_iff_exists.1 (List.find?_isSome.2 ⟨v, hv, beq_iff_eq.2 at_⟩)
    refine .inr ⟨x, List.mem_of_find?_eq_some hx, ?_, fun k hk => least k ?_⟩
    · simp only [markFault, markAddr, hx, Option.map_some]
    · have at_ := List.find?_some hx
      rwa [beq_iff_eq.1 at_] at hk

/-- The check of R225 in its two cases: a marked scalar register is a fault of every enabled lane, and otherwise the marks on vector
registers in the enabled lanes are. -/
theorem checkPoison_cases (s : State) (u : Uses) :
    ((∃ r a, r ∈ u.sr ∧ (r, a) ∈ s.sq.poisonS) ∧
      ∃ x, checkPoison s u = some { cause := 0x4A, lanes := s.sq.cur.enabled, addr := x, aux := 1 }) ∨
    ((∀ r ∈ u.sr, ∀ a, (r, a) ∉ s.sq.poisonS) ∧ checkPoison s u = markFault (poisonedV s.sq u.vr s.sq.cur.enabled)) := by
  unfold checkPoison
  extract_lets q vs
  cases e : q.poisonS.find? fun t => u.sr.contains t.1 with
  | some t =>
    have mem := List.mem_of_find?_eq_some e
    have marked : (q.poisonV.isEmpty && q.poisonS.isEmpty) = false := by
      cases h : q.poisonS with
      | nil => rw [h] at mem; simp at mem
      | cons => simp
    have named := List.find?_some e
    refine .inl ⟨⟨t.1, t.2, List.contains_iff_mem.1 named, mem⟩, (markAddr vs q.cur.enabled).getD t.2, ?_⟩
    simp only [marked, Bool.false_eq_true, if_false]
    rfl
  | none =>
    refine .inr ⟨fun r hr a ha => List.find?_eq_none.1 e (r, a) ha (List.contains_iff_mem.2 hr), ?_⟩
    split
    · next clean =>
      have none_ : q.poisonV = [] := by
        rw [Bool.and_eq_true, List.isEmpty_iff] at clean
        exact clean.1
      rw [show poisonedV s.sq u.vr s.sq.cur.enabled = [] by simp [poisonedV, show s.sq.poisonV = [] from none_]]
      rfl
    · rfl

theorem poisonedV_low {q : Squad} {rs : List Nat} {m : Mask} : ∀ v ∈ poisonedV q rs m, v.1 < 32 :=
  fun _ hv => lane_lt (mem_poisonedV.1 hv).1

theorem poisonedV_lanes {q : Squad} {rs : List Nat} {m : Mask} {l : Nat} (hl : l < 32) :
    (maskOf ((poisonedV q rs m).map (·.1))).getLsbD l = true ↔ m.getLsbD l = true ∧ ∃ r a, r ∈ rs ∧ (r, l, a) ∈ q.poisonV := by
  rw [getLsbD_maskOf _ _ hl, List.contains_iff_mem, List.mem_map]
  constructor
  · rintro ⟨⟨l, a⟩, hv, rfl⟩
    obtain ⟨on, r, hr, hp⟩ := mem_poisonedV.1 hv
    exact ⟨on, r, a, hr, hp⟩
  · rintro ⟨on, r, a, hr, hp⟩
    exact ⟨(l, a), mem_poisonedV.2 ⟨on, r, hr, hp⟩, rfl⟩

theorem checkPoison_none_iff (s : State) (u : Uses) : checkPoison s u = none ↔
    (∀ r ∈ u.vr, ∀ l a, (r, l, a) ∈ s.sq.poisonV → s.sq.cur.enabled.getLsbD l = false) ∧ ∀ r ∈ u.sr, ∀ a, (r, a) ∉ s.sq.poisonS := by
  rcases checkPoison_cases s u with ⟨⟨r, a, hr, ha⟩, x, e⟩ | ⟨scalar, e⟩
  · rw [e]
    exact ⟨nofun, fun h => absurd ha (h.2 r hr a)⟩
  · rw [e]
    rcases markFault_spec poisonedV_low with ⟨none_, e'⟩ | ⟨⟨l, a⟩, hv, e', _⟩
    · refine ⟨fun _ => ⟨fun r hr l a hp => ?_, scalar⟩, fun _ => e'⟩
      by_contra on
      have mem := mem_poisonedV.2 ⟨Bool.not_eq_false _ ▸ on, r, hr, hp⟩
      rw [none_] at mem
      exact List.not_mem_nil mem
    · obtain ⟨on, r, hr, hp⟩ := mem_poisonedV.1 hv
      rw [e']
      refine ⟨nofun, fun h => ?_⟩
      rw [h.1 r hr l a hp] at on
      exact nomatch on

end Sys2Proof.Machine

namespace Sys2Proof.Laws

open Sys2Proof.Machine

/-- Settles O46: every instruction that is fetched is the issue of its own part, whose checks are read in their order; marks are read
off the squad's lists. -/
theorem issueChecksInOrder : Obligations.IssueChecksInOrder := by
  unfold Obligations.IssueChecksInOrder
  refine ⟨?order, ?privileged, ?form, ?operands, fun s t u => checkOperands_pass, ?marks, checkPoison_none_iff, fun _ _ _ => rfl, ?user⟩
  case order =>
    intro i s fetched plain
    obtain ⟨body, e⟩ := exec_issue fetched plain s
    rw [e]
    exact ⟨fun f => issue_form, fun f => issue_operands, issue_wait, fun f => issue_poison⟩
  case privileged =>
    intro i s priv fetched user
    obtain ⟨body, e⟩ := exec_issue fetched (prefixRank_of_priv priv) s
    rw [e, issue_form (checkForm_user priv user)]
  case form =>
    intro s t granted
    rw [checkForm_granted granted]
    refine ⟨fun h => if_pos h, fun h stop core => ?_, fun h free => ?_⟩
    · simp [h, stop, core]
    · rw [if_neg (by simp [h]), if_neg]
      rw [Bool.and_eq_true, beq_iff_eq]
      exact fun ⟨stop, core⟩ => free stop core
  case operands =>
    intro s t u f e
    rcases checkOperands_cases s t u with h | h
    · rw [h] at e; cases e
    · rw [h] at e; cases e
      exact ⟨rfl, rfl, rfl⟩
  case marks =>
    intro s u f e
    rcases checkPoison_cases s u with ⟨⟨r, a, hr, ha⟩, x, e'⟩ | ⟨scalar, e'⟩
    · rw [e'] at e; cases e
      exact ⟨rfl, rfl, rfl, fun none_ => absurd ha (none_ r hr a), fun _ => rfl⟩
    · rcases markFault_spec (poisonedV_low (q := s.sq) (rs := u.vr) (m := s.sq.cur.enabled)) with ⟨_, none_⟩ | ⟨⟨l, a⟩, hv, some_, least⟩
      · rw [e', none_] at e; cases e
      · rw [e', some_] at e; cases e
        obtain ⟨on, r, hr, hp⟩ := mem_poisonedV.1 hv
        refine ⟨rfl, rfl, rfl, fun _ => ⟨fun k hk => poisonedV_lanes hk, r, l, hr, hp, ?_, least⟩, fun ⟨r, a, hr, ha⟩ => absurd ha (scalar r hr a)⟩
        exact (poisonedV_lanes (lane_lt on)).2 ⟨on, r, a, hr, hp⟩
  case user =>
    intro i s f user e
    rw [checkForm_granted fun h => absurd h (by simp [user])] at e
    split at e
    · cases e; exact nofun
    · split at e
      · cases e; exact nofun
      · cases e

end Sys2Proof.Laws
end

section
/-! The completion of outstanding operations (R61, R88, R224, R232, R249), and registers that read back (R54, R57, R58, R318). -/

namespace Sys2Proof.Machine

/-- A step of an operation that is found. -/
theorem onOp_found {s t : State} {sq id : Nat} {o : Op} (k : State → Op → State) (squad : s.checkout sq = some t)
    (op : findOp t id = some o) : onOp s sq id k = k t o := by simp only [onOp, squad, op]

theorem completeEngine_runs {t : State} {o : Op} {e : Engine} {d : Nat} {x y z x2 : DWord} {v : Vector Word 32}
    (act : o.act = .engine e d x y z x2 v) (may : mayRun t.sq o = true) :
    completeOp t o = retireOps (settleEngine o (runEngine t o e d x y z x2 v)) := by
  simp only [completeOp, completeEngine, act, may, if_true]

/-- What an instruction with an effect leaves of MODE and FLAGS is what its own part left. -/
theorem ended_mode (u : State) : (ended u).sq.mode = u.sq.mode := (ended_like u).2.1

theorem exec_wrsr (n a : BitVec 7) (s : State) : exec (.wrsr n a) s =
    issue (traitsOf (.wrsr n a)) (usesOf (extSet s.sq.cur) (.wrsr n a)) s fun t => .done (t.onSq fun q =>
      if n.toNat = 0x0D then { q with mode := t.x a.toNat &&& modeBits } else { q with flags := t.x a.toNat &&& flagBits }) := rfl

/-- PTBASE of the context that CTXID names (R320). -/
theorem ctx_setCtx (s : State) (c : Nat) (x : Context) : (s.setCtx c x).ctx c = x := vget_vset_same _ _ _ _ rfl

end Sys2Proof.Machine

namespace Sys2Proof.Laws

open Sys2Proof.Machine

/-- Settles O25: each step completes the operation that it finds, and then retires what can. -/
theorem operationSteps : Obligations.OperationSteps := by
  unfold Obligations.OperationSteps
  refine ⟨?load, ?store, ?atomic, ?engine, ?push⟩
  case load =>
    intro sq k sp w d sc acc s t o squad op ⟨act, may⟩
    refine congrArg _ ((onOp_found _ squad op).trans ?_)
    simp only [act, completeOp, may, if_true]
  case store =>
    intro sq k sp acc s t o squad op ⟨act, may⟩
    refine congrArg _ ((onOp_found _ squad op).trans ?_)
    simp only [act, completeOp, may, if_true]
  case atomic =>
    intro sq k sp f d sc acc s t o squad op ⟨act, may⟩
    refine congrArg _ ((onOp_found _ squad op).trans ?_)
    simp only [act, completeOp, may, if_true]
  case engine =>
    intro sq k e d x y z x2 v s t o squad op ⟨act, may⟩
    refine congrArg _ ((onOp_found _ squad op).trans ?_)
    simp only [completeEngine_runs act may]
    simp only [act]
  case push =>
    intro sq k s t o squad op ⟨done, last⟩
    refine congrArg _ ((onOp_found _ squad op).trans ?_)
    simp only [done, last, Bool.and_self, if_true]

/-- Settles O45: a register is read from the file that its write changed; a write of MODE or FLAGS is the effect of `wrsr`. -/
theorem registersReadBack : Obligations.RegistersReadBack := by
  unfold Obligations.RegistersReadBack
  refine ⟨?vector, ?scalar, ?predicate, fun s => ⟨rfl, rfl⟩, ?system, ?mode, ?flags⟩
  case vector => exact fun s n k l m f hn hk hl => setV_lane s.sq.regs n k l m f hl hn hk
  case scalar => exact fun s n k x hn hk => setS_sreg s.sq.regs n k x hn hk
  case predicate => exact fun s n k l m x hn hk hl => setP_pred s.sq.regs n k l m x hn hk hl
  case system =>
    exact fun s v => ⟨rfl, rfl, rfl, congrArg Context.ptbase (ctx_setCtx s (selCtx s.sq) _), rfl, rfl, rfl, rfl, rfl⟩
  case mode =>
    intro a s t h e
    rw [gives_of_done (exec_wrsr 0x0D a) s h] at e
    cases e
    rw [ended_mode, ← begun_x]
    rfl
  case flags =>
    intro a s t h e
    rw [gives_of_done (exec_wrsr 0x0E a) s h] at e
    cases e
    rw [ended_flags, ← begun_x]
    rfl

end Sys2Proof.Laws
end

section
/-! Instructions that raise floating-point exceptions: what they complete with, how they trap, and their frames (R57, R58, R77, R192,
R281 to R286). -/

namespace Sys2Proof.Machine

/-! ### Results and statistics -/

/-- t is s but for vector registers and their marks. -/
def VectorsOnly (s t : State) : Prop := ∃ r marks, t = s.onSq fun q => { q with regs := { q.regs with v := r }, poisonV := marks }

theorem putV_vectorsOnly (s : State) (n : Nat) (f : Nat → Word) : VectorsOnly s (s.putV n f) := ⟨_, _, rfl⟩

theorem VectorsOnly.trans {s t u : State} (h : VectorsOnly s t) (g : VectorsOnly t u) : VectorsOnly s u := by
  obtain ⟨r, marks, rfl⟩ := h
  obtain ⟨r', marks', rfl⟩ := g
  exact ⟨r', marks', rfl⟩

theorem putLanes_zero (s : State) (d : Nat) (r : Nat → LaneRes) : s.putLanes d 0 r = s := rfl

theorem putLanes_succ (s : State) (d n : Nat) (r : Nat → LaneRes) :
    s.putLanes d (n + 1) r = (s.putLanes d n r).putV (d + n) fun l => (r l).words.getD n 0 := by
  simp only [State.putLanes, List.range_succ, List.foldl_append, List.foldl_cons, List.foldl_nil]

theorem putLanes_vectorsOnly (s : State) (d n : Nat) (r : Nat → LaneRes) : VectorsOnly s (s.putLanes d n r) := by
  induction n with
  | zero => exact ⟨_, _, rfl⟩
  | succ n ih =>
    rw [putLanes_succ]
    exact ih.trans (putV_vectorsOnly _ _ _)

theorem VectorsOnly.cur {s t : State} (h : VectorsOnly s t) : t.sq.cur = s.sq.cur := by
  obtain ⟨_, _, rfl⟩ := h
  rfl

theorem VectorsOnly.like {s t : State} (h : VectorsOnly s t) : SquadLike s t := by
  obtain ⟨_, _, rfl⟩ := h
  exact ⟨⟨rfl, rfl, rfl, rfl, rfl, rfl, rfl, rfl⟩, rfl, rfl⟩

theorem SquadLike.of_sq {s t : State} (e : t.sq = s.sq) : SquadLike s t := by
  refine ⟨⟨?_, ?_, ?_, ?_, ?_, ?_, ?_, ?_⟩, ?_, ?_⟩ <;> rw [e]

theorem gain_like (s : State) (fx : Fx) : SquadLike s (s.gain fx) := ⟨⟨rfl, rfl, rfl, rfl, rfl, rfl, rfl, rfl⟩, rfl, rfl⟩

/-- A vector register after a write in the enabled lanes. -/
theorem putV_lane (s : State) {n k l : Nat} (f : Nat → Word) (hn : n < 128) (hk : k < 128) (hl : l < 32) :
    (s.putV n f).v k l = if k = n ∧ s.sq.cur.enabled.getLsbD l = true then f l else s.v k l :=
  setV_lane s.sq.regs n k l s.sq.cur.enabled f hl hn hk

/-- Registers outside the destinations, and lanes that are not enabled, stay. -/
theorem putLanes_other (s : State) {d n : Nat} (r : Nat → LaneRes) (fits : d + n ≤ 128) {k l : Nat} (hk : k < 128) (hl : l < 32)
    (h : k ∉ regRun d n ∨ s.sq.cur.enabled.getLsbD l = false) : (s.putLanes d n r).v k l = s.v k l := by
  induction n with
  | zero => rfl
  | succ n ih =>
    have before := ih (by omega) (h.imp_left fun out in_ => out (by simp only [regRun, List.range_succ, List.map_append] at in_ ⊢; simp [in_]))
    rw [putLanes_succ, putV_lane _ _ (by omega) hk hl, (putLanes_vectorsOnly s d n r).cur, if_neg, before]
    rintro ⟨rfl, on⟩
    rcases h with h | h
    · exact h (by simp [regRun])
    · rw [h] at on
      exact nomatch on

/-- A change of an element that the new one is like, for what f tells. -/
theorem map_putFirst {α β : Type} {p : α → Bool} {x : α} {f : α → β} (l : List α) {y : α} (first : l.find? p = some y) (same : f x = f y) :
    (putFirst p x l).map f = l.map f := by
  induction l with
  | nil => rfl
  | cons a l ih =>
    cases e : p a with
    | true =>
      rw [List.find?_cons_of_pos e] at first
      cases first
      simp [putFirst, e, same]
    | false =>
      rw [List.find?_cons_of_neg (by simp [e])] at first
      simp [putFirst, e, ih first]

theorem find_putFirst {α : Type} {p : α → Bool} {x : α} (l : List α) {y : α} (first : l.find? p = some y) (hx : p x = true) :
    (putFirst p x l).find? p = some x := by
  induction l with
  | nil => exact nomatch first
  | cons a l ih =>
    cases e : p a with
    | true => simp [putFirst, e, hx]
    | false =>
      rw [List.find?_cons_of_neg (by simp [e])] at first
      simp [putFirst, e, ih first]

/-- Statistics are those of the grid that runs: everything else stays (R77). -/
theorem addStats_cases (s : State) (tag sat flush nan : Nat) : addStats s tag sat flush nan = s ∨
    ∃ g c, s.myGrid = some g ∧ addStats s tag sat flush nan = s.setGrid { g with stats := c } := by
  unfold addStats
  split
  · exact .inl rfl
  · next g e =>
    dsimp only
    split
    · exact .inl rfl
    · exact .inr ⟨g, _, e, rfl⟩

theorem myGrid_id {s : State} {g : Grid} (h : s.myGrid = some g) : g.id = s.sq.ident.grid := by
  have first : s.grids.find? (fun k => k.id == s.sq.ident.grid) = some g := h
  have named := List.find?_some first
  exact beq_iff_eq.1 named

theorem myGrid_first {s : State} {g : Grid} (h : s.myGrid = some g) : s.grids.find? (fun k => k.id == g.id) = some g := by
  rw [myGrid_id h]
  exact h

theorem addStats_grids (s : State) (tag sat flush nan : Nat) : SameGrids s (addStats s tag sat flush nan) := by
  rcases addStats_cases s tag sat flush nan with e | ⟨g, c, h, e⟩
  · rw [e]
    exact rfl
  · rw [e]
    exact map_putFirst (y := g) _ (myGrid_first h) rfl

theorem addStats_rest (s : State) (tag sat flush nan : Nat) : { addStats s tag sat flush nan with grids := s.grids } = s := by
  rcases addStats_cases s tag sat flush nan with e | ⟨g, c, h, e⟩
  · rw [e]
  · rw [e]
    rfl

theorem addStats_trapEntry (s : State) (tag sat flush nan : Nat) : trapEntry (addStats s tag sat flush nan) = trapEntry s := by
  rcases addStats_cases s tag sat flush nan with e | ⟨g, c, h, e⟩
  · rw [e]
  · have found : (s.setGrid { g with stats := c }).myGrid = some { g with stats := c } := by
      have first := find_putFirst (y := g) (x := { g with stats := c }) _ (myGrid_first h) (beq_self_eq_true g.id)
      rw [← first]
      show State.grid? _ s.sq.ident.grid = _
      rw [← myGrid_id h]
      rfl
    rw [e]
    simp only [trapEntry, found, h]

theorem VectorsOnly.trapEntry {s t : State} (h : VectorsOnly s t) : Machine.trapEntry t = Machine.trapEntry s := by
  obtain ⟨_, _, rfl⟩ := h
  rfl

/-! ### Completion without a trap -/

section
variable {i : Instr} {body : State → Eff} (arm : ∀ s, exec i s = issue (traitsOf i) (usesOf (extSet s.sq.cur) i) s body)
include arm

theorem lanesGive_of_own {d n fmt : Nat} {r : State → Nat → LaneRes} (own : ∀ p, body p = fpLanes p d n fmt (r p)) :
    LanesGive i d n r :=
  fun s h quiet => by rw [exec_settleOwn arm h, own, fpLanes_quiet _ _ _ _ _ quiet, settleOwn_done]

theorem taggedGives_of_own {d fmt : Nat} {r : State → Nat → LaneRes} (own : ∀ p, body p = fpTagged p d fmt (r p)) :
    TaggedGives i d r :=
  fun s h quiet => by rw [exec_settleOwn arm h, own, fpTagged_quiet _ _ _ _ quiet, settleOwn_done]

theorem compareGives_of_own {e : BitVec 3} {c a : Nat} {b : State → Nat → Word}
    (own : ∀ p, body p = compareFloat p e.toNat c a (b p)) :
    CompareGives i e fun p l => floatCond c (f32 p (p.v a l)) (f32 p (b p l)) :=
  fun s h quiet => by rw [exec_settleOwn arm h, own, compareFloat_quiet _ _ _ _ _ quiet, settleOwn_done]

/-! ### Traps -/

/-- The end of a floating-point instruction whose written state is w: the trap is delivered after FLAGS gained what was raised. -/
theorem traps_of_own {d n fmt : Nat} {pred : Bool} {w : State → State} {fx : State → Nat → Fx}
    (own : ∀ p, body p = finishFp (w p) d (n - 1) pred fmt ((laneList p.sq.cur.enabled).map fun l => (l, fx p l)))
    (mode : ∀ p, (w p).sq.mode = p.sq.mode) (thr : ∀ p, (w p).sq.thr = p.sq.thr) (entry : ∀ p, trapEntry (w p) = trapEntry p) :
    Traps i d n pred fmt w fx := by
  intro s h raised free
  have sum : ((laneList (begun s).sq.cur.enabled).map fun l => (l, fx (begun s) l)).foldl (fun x r => x ||| r.2) 0
      = raisedIn (begun s) (fx (begun s)) := by simp only [raisedIn, List.foldl_map]
  have lanes : maskOf (((((laneList (begun s).sq.cur.enabled).map fun l => (l, fx (begun s) l)).filter fun r =>
      enabledFx (w (begun s)) r.2 != 0).map (·.1))) = trapLanes (begun s) (fx (begun s)) := by
    simp only [trapLanes, enabledFx, mode, List.filter_map, List.map_map, Function.comp_def, List.map_id']
  have on : enabledFx (w (begun s)) = enabledFx (begun s) := by
    funext x
    simp only [enabledFx, mode]
  have outside : inHandler (w (begun s)).sq = false := by
    rw [← free]
    simp only [inHandler, thr]
  have trap : body (begun s) = deliverTrap ((w (begun s)).gain (raisedIn (begun s) (fx (begun s))))
      (0x10 + lowestFx (enabledFx (begun s) (raisedIn (begun s) (fx (begun s))))) (trapLanes (begun s) (fx (begun s)))
      (trapInfo d n pred fmt (enabledFx (begun s) (raisedIn (begun s) (fx (begun s))))) := by
    rw [own]
    unfold finishFp
    dsimp only
    rw [lanes, sum, on, outside, if_neg (by simp [raised])]
    rfl
  have outside' : inHandler ((w (begun s)).gain (raisedIn (begun s) (fx (begun s)))).sq = false := outside
  have same : trapEntry ((w (begun s)).gain (raisedIn (begun s) (fx (begun s)))) = trapEntry (begun s) := entry (begun s)
  refine ⟨fun handler found => ?_, fun none_ => ?_⟩
  · rw [exec_settleOwn arm h, trap, deliverTrap_handler outside' (same.trans found), settleOwn_done]
  · rw [exec_settleOwn arm h, trap]
    unfold deliverTrap
    rw [outside', same, none_]
    rfl

theorem lanesTrap_of_own {d n fmt : Nat} {r : State → Nat → LaneRes} (own : ∀ p, body p = fpLanes p d n fmt (r p)) :
    LanesTrap i d n fmt r := by
  refine traps_of_own arm (fun p => ?_) (fun p => (putLanes_keeps p d n (r p)).1) (fun p => (putLanes_keeps p d n (r p)).2.1)
    fun p => (putLanes_vectorsOnly p d n (r p)).trapEntry
  rw [own]
  simp only [fpLanes, putResults_eq, laneResults_fx]

theorem taggedTraps_of_own {d fmt : Nat} {r : State → Nat → LaneRes} (own : ∀ p, body p = fpTagged p d fmt (r p)) :
    TaggedTraps i d fmt r := by
  refine traps_of_own arm (fun p => ?_) (fun p => ?_) (fun p => ?_)
    fun p => (addStats_trapEntry _ _ _ _ _).trans (putLanes_vectorsOnly p d 1 (r p)).trapEntry
  · rw [own]
    simp only [fpTagged, putResults_eq, laneResults_fx, laneResults_sum, State.counted]
  · rw [State.counted, addStats_sq, (putLanes_keeps p d 1 (r p)).1]
  · rw [State.counted, addStats_sq, (putLanes_keeps p d 1 (r p)).2.1]

theorem compareTraps_of_own {e : BitVec 3} {c a : Nat} {b : State → Nat → Word} (own : ∀ p, body p = compareFloat p e.toNat c a (b p)) :
    CompareTraps i e fun p l => floatCond c (f32 p (p.v a l)) (f32 p (b p l)) := by
  refine traps_of_own arm (fun p => ?_) (fun _ => rfl) (fun _ => rfl) fun _ => rfl
  rw [own]
  simp only [compareFloat, List.filter_map, List.map_map, Function.comp_def, List.map_id']

end

/-! ### Frames -/

theorem gained_flags (f : DWord) (x : Nat) : (f ||| BitVec.ofNat 64 (x % 32)) &&& f = f ∧ (f ||| BitVec.ofNat 64 (x % 32)) >>> 5 = f >>> 5 := by
  constructor
  · ext k hk
    simp only [BitVec.getElem_and, BitVec.getElem_or]
    cases f[k] <;> simp
  · have small : BitVec.ofNat 64 (x % 32) >>> 5 = 0 := by
      apply BitVec.eq_of_toNat_eq
      rw [BitVec.toNat_ushiftRight, BitVec.toNat_ofNat, Nat.shiftRight_eq_div_pow, Nat.mod_eq_of_lt (by omega)]
      exact Nat.div_eq_of_lt (Nat.mod_lt _ (by decide))
    rw [BitVec.ushiftRight_or_distrib, small]
    exact BitVec.or_zero

/-- What an own part did outside the squad and the grids is what the instruction did. -/
theorem prepared_rest_grids (n u b : State) (hb : b = prepare n) (h : { u with grids := b.grids, sq := b.sq } = b) :
    { u with sq := n.sq, survey := n.survey, grids := n.grids } = n := prepared_rest n { u with grids := b.grids } b hb h

/-- The frame of a floating-point instruction from its completion: its own part changed files, flags and statistics. -/
theorem framedFloat_of {P : State → Prop} {i : Instr} {f : State → State} {vs ps : List Nat} (gives : GivesWhen P i f)
    (files : ∀ s, Issues i s → KeepsFiles (begun s) (f (begun s)) vs [] ps (begun s).sq.cur.enabled)
    (like : ∀ p, SquadLike p (f p)) (flags : ∀ p, ∃ x, (f p).sq.flags = p.sq.flags ||| BitVec.ofNat 64 (x % 32))
    (rest : ∀ p : State, { f p with grids := p.grids, sq := p.sq } = p) (grids : ∀ p, SameGrids p (f p)) : FramedFloat P i vs ps := by
  intro s t hi hp e
  rw [gives s hi hp] at e
  cases e
  obtain ⟨v, x, q⟩ := files s hi
  obtain ⟨special, mode, ops⟩ := ((begun_like s).trans (like (begun s))).trans (ended_like (f (begun s)))
  refine ⟨⟨fun n l hn hl h => ?_, fun n hn h => ?_, fun n l hn hl h => ?_⟩, special, mode, ?_, ops, ended_device ?_, ?_⟩
  · rw [← begun_v s, ← v n l hn hl h]
    simp only [State.v, ended_regs]
  · rw [← begun_x s, ← x n hn h]
    simp only [State.x, ended_regs]
  · rw [← begun_regs s, ← q n l hn hl h, ended_regs]
  · obtain ⟨x, e⟩ := flags (begun s)
    rw [ended_flags, e, begun_flags]
    exact gained_flags _ _
  · exact prepared_rest_grids (noteStart s) (f (begun s)) (begun s) rfl (rest (begun s))
  · rw [SameGrids, ended_grids]
    exact (grids (begun s)).trans (congrArg (List.map fun g : Grid => { g with stats := [] }) (prepare_grids (noteStart s)))

/-- Reading the files after results in the enabled lanes. -/
theorem putLanes_files {s : State} {d n : Nat} (r : Nat → LaneRes) (fits : d + n ≤ 128) (t : State) (regs : t.sq.regs = (s.putLanes d n r).sq.regs) :
    KeepsFiles s t (regRun d n) [] [] s.sq.cur.enabled := by
  have v (k l : Nat) : t.v k l = (s.putLanes d n r).v k l := by simp only [State.v, regs]
  refine ⟨fun k l hk hl h => (v k l).trans (putLanes_other s r fits hk hl h), fun k _ _ => ?_, fun k l _ _ _ => ?_⟩
  · rw [State.x, regs]
    obtain ⟨_, _, e⟩ := putLanes_vectorsOnly s d n r
    rw [e]
    rfl
  · rw [regs]
    obtain ⟨_, _, e⟩ := putLanes_vectorsOnly s d n r
    rw [e]
    rfl

theorem framedFloat_lanes {i : Instr} {d n : Nat} {r : State → Nat → LaneRes} (fits : ∀ s, Issues i s → d + n ≤ 128) (gives : LanesGive i d n r) :
    FramedFloat (fun p => Untrapped p fun l => (r p l).fx) i (regRun d n) [] := by
  refine framedFloat_of (f := fun p => (p.putLanes d n (r p)).gain (raisedIn p fun l => (r p l).fx)) gives
    (fun s h => putLanes_files (r (begun s)) (fits s h) _ rfl)
    (fun p => (putLanes_vectorsOnly p d n (r p)).like.trans (gain_like _ _)) (fun p => ⟨raisedIn p fun l => (r p l).fx, ?_⟩)
    (fun p => ?_) fun p => ?_
  all_goals
    obtain ⟨_, _, e⟩ := putLanes_vectorsOnly p d n (r p)
    rw [e]
    rfl

theorem framedFloat_tagged {i : Instr} {d : Nat} {r : State → Nat → LaneRes} (fits : d < 128) (gives : TaggedGives i d r) :
    FramedFloat (fun p => Untrapped p fun l => (r p l).fx) i [d] [] := by
  refine framedFloat_of (f := fun p => ((p.putLanes d 1 (r p)).counted (r p) p).gain (raisedIn p fun l => (r p l).fx)) gives
    (fun s h => putLanes_files (n := 1) (r (begun s)) fits _ ?_)
    (fun p => ((putLanes_vectorsOnly p d 1 (r p)).like.trans (SquadLike.of_sq (addStats_sq _ _ _ _ _))).trans (gain_like _ _))
    (fun p => ⟨raisedIn p fun l => (r p l).fx, ?_⟩) (fun p => ?_) fun p => ?_
  · simp only [State.gain, State.onSq, State.counted, addStats_sq]
  · simp only [State.gain, State.onSq, State.counted, addStats_sq, (putLanes_keeps p d 1 (r p)).2.2]
  · obtain ⟨_, _, e⟩ := putLanes_vectorsOnly p d 1 (r p)
    have grids : (p.putLanes d 1 (r p)).grids = p.grids := by rw [e]; rfl
    have stats := addStats_rest (p.putLanes d 1 (r p)) (tagOf p) (sumIn p fun l => (r p l).sat) (sumIn p fun l => (r p l).flush)
      (sumIn p fun l => (r p l).nan)
    rw [grids] at stats
    refine Eq.trans (congrArg (fun t : State => { t with sq := p.sq }) stats :) ?_
    rw [e]
    rfl
  · obtain ⟨_, _, e⟩ := putLanes_vectorsOnly p d 1 (r p)
    have grids : (p.putLanes d 1 (r p)).grids = p.grids := by rw [e]; rfl
    exact (addStats_grids (p.putLanes d 1 (r p)) _ _ _ _).trans (congrArg _ grids)

theorem framedFloat_compare {i : Instr} {e : BitVec 3} {c : State → Nat → Bool × Bool} (gives : CompareGives i e c) :
    FramedFloat (fun p => Untrapped p fun l => if (c p l).2 then 1 else 0) i [] [e.toNat] := by
  refine framedFloat_of (f := fun p => (p.setP e.toNat p.sq.cur.enabled (maskOf ((laneList p.sq.cur.enabled).filter fun l => (c p l).1))).gain
    (raisedIn p fun l => if (c p l).2 then 1 else 0)) gives (fun s _ => ⟨fun k l _ _ _ => ?_, fun k _ _ => ?_, fun k l hk hl h => ?_⟩)
    (fun p => ⟨⟨rfl, rfl, rfl, rfl, rfl, rfl, rfl, rfl⟩, rfl, rfl⟩) (fun p => ⟨raisedIn p fun l => if (c p l).2 then 1 else 0, rfl⟩)
    (fun p => rfl) fun p => rfl
  · exact setP_lane _ _ _ _ _ _
  · exact setP_sreg _ _ _ _ _
  · refine (setP_pred _ _ _ _ _ _ e.isLt hk hl).trans (if_neg ?_)
    rintro ⟨rfl, _, on⟩
    rcases h with h | h
    · exact h (List.mem_singleton.2 rfl)
    · rw [h] at on
      exact nomatch on

/-- A floating-point instruction with one destination. -/
theorem framedFloat_lane {i : Instr} {body : State → Eff} {d fmt : Nat} {r : State → Nat → LaneRes} (hd : d < 128)
    (arm : ∀ s, exec i s = issue (traitsOf i) (usesOf (extSet s.sq.cur) i) s body) (own : ∀ p, body p = fpLanes p d 1 fmt (r p)) :
    FramedFloat (fun p => Untrapped p fun l => (r p l).fx) i [d] [] := framedFloat_lanes (fun _ _ => hd) (lanesGive_of_own arm own)

/-- A comparison into a predicate. -/
theorem framedFloat_setp {i : Instr} {body : State → Eff} {e : BitVec 3} {c a : Nat} {b : State → Nat → Word}
    (arm : ∀ s, exec i s = issue (traitsOf i) (usesOf (extSet s.sq.cur) i) s body) (own : ∀ p, body p = compareFloat p e.toNat c a (b p)) :
    FramedFloat (fun p => Untrapped p fun l => if (floatCond c (f32 p (p.v a l)) (f32 p (b p l))).2 then 1 else 0) i [] [e.toNat] :=
  framedFloat_compare (compareGives_of_own arm own)

/-- The registers of a pair or of a packed format's elements stand below 128 (R206, R213). -/
theorem Issues.dot2_fits {d a b : BitVec 7} {s : State} (h : Issues (.dot2 d a b) s) : d.toNat + 2 ≤ 128 := by
  have legal : (usesDot2 d a b).legal = true := h.legal
  have := d.isLt
  simp [Uses.legal, usesDot2, even] at legal
  omega

theorem Issues.dot2S_fits {d a b : BitVec 7} {s : State} (h : Issues (.dot2S d a b) s) : d.toNat + 2 ≤ 128 := by
  have legal : (usesDot2S d a b).legal = true := h.legal
  have := d.isLt
  simp [Uses.legal, usesDot2S, even] at legal
  omega

theorem packCount_cases (k : Nat) : packCount k = 2 ∨ packCount k = 4 ∨ packCount k = 8 := by
  unfold packCount
  split
  · exact .inr (.inr rfl)
  · split
    · exact .inr (.inl rfl)
    · exact .inl rfl

theorem Issues.cvtup_fits {d a c : BitVec 7} {s : State} (h : Issues (.cvtup d a c) s) : d.toNat + packCount (c.toNat % 8) ≤ 128 := by
  have legal : (usesCvtup d a c).legal = true := h.legal
  have := d.isLt
  simp only [Uses.legal, usesCvtup, Bool.and_eq_true, beq_iff_eq] at legal
  have multiple := legal.1.2
  rcases packCount_cases (c.toNat % 8) with e | e | e <;> rw [e] at multiple ⊢ <;> omega

end Sys2Proof.Machine
end

section
namespace Sys2Proof.Laws

open Sys2Proof.Machine

/-- Settles O9: each arm writes its results and ends as every floating-point instruction does. -/
theorem floatingPointTraps : Obligations.FloatingPointTraps := by
  unfold Obligations.FloatingPointTraps
  refine ⟨fun d a b c => ?wide, fun d a => ?short⟩
  case wide =>
    iterate 24 refine ⟨lanesTrap_of_own (fun _ => by delta exec; exact rfl) fun _ => rfl, ?_⟩
    refine ⟨fun _ => lanesTrap_of_own (fun _ => by delta exec; exact rfl) fun _ => rfl, ?_⟩
    iterate 2 refine ⟨fun _ _ _ _ => compareTraps_of_own (fun _ => by delta exec; exact rfl) fun _ => rfl, ?_⟩
    iterate 14 refine ⟨lanesTrap_of_own (fun _ => by delta exec; exact rfl) fun _ => rfl, ?_⟩
    iterate 4 refine ⟨taggedTraps_of_own (fun _ => by delta exec; exact rfl) fun _ => rfl, ?_⟩
    exact ⟨lanesTrap_of_own (fun _ => by delta exec; exact rfl) fun _ => rfl,
      fun _ => lanesTrap_of_own (fun _ => by delta exec; exact rfl) fun _ => rfl,
      fun _ => lanesTrap_of_own (fun _ => by delta exec; exact rfl) fun _ => rfl⟩
  case short =>
    iterate 4 refine ⟨lanesTrap_of_own (fun _ => by delta exec; exact rfl) fun _ => rfl, ?_⟩
    exact lanesTrap_of_own (fun _ => by delta exec; exact rfl) fun _ => rfl

/-- Settles O33: the frame follows from what each instruction completes with. -/
theorem frameOfFloatingPoint : Obligations.FrameOfFloatingPoint := by
  unfold Obligations.FrameOfFloatingPoint
  refine ⟨fun d a => ?short, fun d a b c => ?wide⟩
  case short =>
    have low : d.toNat < 128 := lt_trans d.isLt (by decide)
    iterate 5 refine ⟨framedFloat_lane low (fun _ => by delta exec; exact rfl) fun _ => rfl, ?_⟩
    exact framed_lane low (fun _ => by delta exec; exact rfl) fun _ => rfl
  case wide =>
    iterate 24 refine ⟨framedFloat_lane d.isLt (fun _ => by delta exec; exact rfl) fun _ => rfl, ?_⟩
    refine ⟨fun _ => framedFloat_lane d.isLt (fun _ => by delta exec; exact rfl) fun _ => rfl, ?_⟩
    iterate 3 refine ⟨framed_lane d.isLt (fun _ => by delta exec; exact rfl) fun _ => rfl, ?_⟩
    iterate 2 refine ⟨fun _ _ _ _ => framedFloat_setp (fun _ => by delta exec; exact rfl) fun _ => rfl, ?_⟩
    iterate 12 refine ⟨framedFloat_lane d.isLt (fun _ => by delta exec; exact rfl) fun _ => rfl, ?_⟩
    refine ⟨framedFloat_lanes (n := 2) (fun _ h => h.dot2_fits) (lanesGive_of_own (fun _ => by delta exec; exact rfl) fun _ => rfl),
      framedFloat_lanes (n := 2) (fun _ h => h.dot2S_fits) (lanesGive_of_own (fun _ => by delta exec; exact rfl) fun _ => rfl), ?_⟩
    iterate 4 refine ⟨framedFloat_tagged d.isLt (taggedGives_of_own (fun _ => by delta exec; exact rfl) fun _ => rfl), ?_⟩
    exact ⟨framedFloat_lanes (fun _ h => h.cvtup_fits) (lanesGive_of_own (fun _ => by delta exec; exact rfl) fun _ => rfl),
      fun _ => framed_lane d.isLt (fun _ => by delta exec; exact rfl) fun _ => rfl,
      fun _ => framedFloat_tagged d.isLt (taggedGives_of_own (fun _ => by delta exec; exact rfl) fun _ => rfl),
      fun _ => framedFloat_lane d.isLt (fun _ => by delta exec; exact rfl) fun _ => rfl,
      fun _ => framedFloat_lane d.isLt (fun _ => by delta exec; exact rfl) fun _ => rfl,
      framed_lane d.isLt (fun _ => by delta exec; exact rfl) fun _ => rfl,
      framed_lane d.isLt (fun _ => by delta exec; exact rfl) fun _ => rfl⟩

end Sys2Proof.Laws
end

section
/-! Memory instructions (R221 to R234): an own part that checks accesses and then leaves an operation. -/

namespace Sys2Proof.Machine

section
variable {i : Instr} {body : State → Eff} {acc : State → State × List Access × List FaultInfo}
  {f : State → List Access → State}

/-- One use of an instruction whose accesses pass. -/
theorem exec_orFault_pass {s : State} {k : State → List Access → State}
    (arm : ∀ s, exec i s = issue (traitsOf i) (usesOf (extSet s.sq.cur) i) s body) (h : Issues i s)
    (own : body (begun s) = orFault (acc (begun s)) fun t a => .done (k t a)) (pass : (acc (begun s)).2.2 = []) :
    exec i s = .next (ended (k (acc (begun s)).1 (acc (begun s)).2.1)) := by
  rw [exec_settleOwn arm h, own, orFault_pass pass, settleOwn_done]

/-- One use of an instruction with an access that fails. -/
theorem exec_orFault_fault {s : State} {g : FaultInfo} {k : State → List Access → State}
    (arm : ∀ s, exec i s = issue (traitsOf i) (usesOf (extSet s.sq.cur) i) s body) (h : Issues i s)
    (own : body (begun s) = orFault (acc (begun s)) fun t a => .done (k t a))
    (lowest : lowestFault (acc (begun s)).2.2 = some g) (real : g.cause ≠ 0) :
    exec i s = .next (endSequence (takeFault (faultPoint (noteStart s) g (acc (begun s)).1) g)) := by
  rw [exec_settleOwn arm h, own, orFault_fault lowest real, settleOwn_faultIn]

theorem leaves_of_orFault (arm : ∀ s, exec i s = issue (traitsOf i) (usesOf (extSet s.sq.cur) i) s body)
    (own : ∀ p, body p = orFault (acc p) fun t a => .done (f t a)) : Leaves i acc f :=
  fun _ h pass => exec_orFault_pass arm h (own _) pass

theorem faultsAt_of_orFault (arm : ∀ s, exec i s = issue (traitsOf i) (usesOf (extSet s.sq.cur) i) s body)
    (own : ∀ p, body p = orFault (acc p) fun t a => .done (f t a)) : FaultsAt i acc :=
  fun _ _ h lowest real => exec_orFault_fault arm h (own _) lowest real

/-- An own part that checks its accesses leaves the operation where they pass, and faults where one does not. -/
theorem leaves_and_faults (arm : ∀ s, exec i s = issue (traitsOf i) (usesOf (extSet s.sq.cur) i) s body)
    (own : ∀ p, body p = orFault (acc p) fun t a => .done (f t a)) : Leaves i acc f ∧ FaultsAt i acc :=
  ⟨leaves_of_orFault arm own, faultsAt_of_orFault arm own⟩

end

/-- The own part of `atoms` (R228): the operation of the set that the sequence's `ext` selects. -/
theorem atoms_own (p : State) (f : BitVec 3) (d a b : BitVec 7) :
    issueAtomic p .scratch (atomOf (extSet p.sq.cur) f.toNat).1 (atomOf (extSet p.sq.cur) f.toNat).2 d.toNat
        (scratchOffset p a.toNat b.toNat) =
      orFault (atomsOf .scratch (atomOf (extSet p.sq.cur) f.toNat).2 d (fun q => scratchOffset q a.toNat b.toNat) p)
        fun t acc => .done (updating .scratch (atomOf (extSet p.sq.cur) f.toNat).1 d t acc) :=
  issueAtomic_eq p .scratch _ _ d fun q => scratchOffset q a.toNat b.toNat

/-- The own part of `satom` (R231). -/
theorem satom_own (p : State) (f : BitVec 3) (d a b : BitVec 7) :
    issueScalarAtomic p (atomOf (extSet p.sq.cur) f.toNat).1 (atomOf (extSet p.sq.cur) f.toNat).2 d.toNat
        ((p.x b.toNat + p.x a.toNat).toNat) =
      orFault (scalarAtomOf (atomOf (extSet p.sq.cur) f.toNat).1 (atomOf (extSet p.sq.cur) f.toNat).2 d
          (fun q => (q.x b.toNat + q.x a.toNat).toNat) p)
        fun t acc => .done (pushOp t .ld (.atomic .global (atomOf (extSet p.sq.cur) f.toNat).1 d.toNat true acc)
          t.sq.cur.active (orderOf t (0, 4)) true none 0 0 []) :=
  issueScalarAtomic_eq p _ _ d fun q => (q.x b.toNat + q.x a.toNat).toNat

/-- The own part of `lds`, where its mark passes (R88). -/
theorem lds_own (p : State) (w : BitVec 3) (d a b : BitVec 7) (h : LastOk p) :
    (withLast p fun last => issueLoad p .scratch w.toNat d.toNat (scratchOffset p a.toNat b.toNat) last) =
      orFault (loadsOf .scratch w (fun q => scratchOffset q a.toNat b.toNat) p)
        fun t acc => .done (loading (markOf p) .scratch w d t acc) :=
  (withLast_ok h).trans (issueLoad_eq p .scratch w d (fun q => scratchOffset q a.toNat b.toNat) _)

/-- Addresses below the top leave `pref` no lane to fault (R221, R234). -/
theorem pref_lanes_pass {p : State} {va : Nat → Nat} (h : ∀ n ∈ laneList p.sq.cur.enabled, va n < addressTop p) :
    (laneList p.sq.cur.enabled).filter (fun n => addressTop p ≤ va n) = [] := by
  simp only [List.filter_eq_nil_iff, decide_eq_true_eq, Nat.not_le]
  exact h

end Sys2Proof.Machine
end

section
/-! The issue of loads, stores, atomics and prefetches. -/

namespace Sys2Proof.Laws

open Sys2Proof.Machine

/-- Settles O12: each atomic checks its accesses through the one operation for accesses. -/
theorem atomicsIssue : Obligations.AtomicsIssue := by
  intro d a b
  iterate 16
    refine ⟨leaves_of_orFault (fun _ => by delta exec; exact rfl) fun _ => rfl,
      faultsAt_of_orFault (f := updating _ _ d) (fun _ => by delta exec; exact rfl) fun _ => rfl, ?_⟩
  refine ⟨fun f s g h lowest real => ?_, fun f s g h lowest real => ?_, fun f s h pass => ?_, fun f s h pass => ?_⟩
  · exact exec_orFault_fault (fun _ => by delta exec; exact rfl) h (atoms_own _ f d a b) lowest real
  · exact exec_orFault_fault (fun _ => by delta exec; exact rfl) h (satom_own _ f d a b) lowest real
  · have own := atoms_own (begun s) f d a b
    have next := exec_orFault_pass (fun _ => by delta exec; exact rfl) h own pass
    exact next
  · have own := satom_own (begun s) f d a b
    have next := exec_orFault_pass (fun _ => by delta exec; exact rfl) h own pass
    exact next

/-- Settles O11: each load and store checks its accesses through the one operation for accesses; `lds` checks its
mark first, and `pref` its addresses alone. -/
theorem loadsAndStoresIssue : Obligations.LoadsAndStoresIssue := by
  intro d a b w
  refine ⟨leaves_of_orFault (fun _ => by delta exec; exact rfl) fun _ => rfl,
    leaves_of_orFault (fun _ => by delta exec; exact rfl) fun _ => rfl,
    fun s h last pass => ?_, fun s f h last lowest real => ?_,
    faultsAt_of_orFault (f := loading none .global w d) (fun _ => by delta exec; exact rfl) fun _ => rfl,
    faultsAt_of_orFault (f := loading none .peer w d) (fun _ => by delta exec; exact rfl) fun _ => rfl, ?_⟩
  · have own := lds_own (begun s) w d a b last
    have next := exec_orFault_pass (fun _ => by delta exec; exact rfl) h own pass
    exact next
  · have own := lds_own (begun s) w d a b last
    exact exec_orFault_fault (fun _ => by delta exec; exact rfl) h own lowest real
  iterate 3 refine ⟨leaves_of_orFault (fun _ => by delta exec; exact rfl) fun _ => rfl, ?_⟩
  iterate 3
    refine ⟨faultsAt_of_orFault (f := storing _) (fun _ => by delta exec; exact rfl) fun _ => rfl, ?_⟩
  refine ⟨leaves_of_orFault (fun _ => by delta exec; exact rfl) fun p =>
      issueScalarLoad_eq p w d fun p => (p.x b.toNat + p.x a.toNat).toNat,
    leaves_of_orFault (fun _ => by delta exec; exact rfl) fun p =>
      issueScalarStore_eq p w d fun p => (p.x b.toNat + p.x a.toNat).toNat,
    faultsAt_of_orFault (fun _ => by delta exec; exact rfl) fun p =>
      issueScalarLoad_eq p w d fun p => (p.x b.toNat + p.x a.toNat).toNat,
    faultsAt_of_orFault (fun _ => by delta exec; exact rfl) fun p =>
      issueScalarStore_eq p w d fun p => (p.x b.toNat + p.x a.toNat).toNat,
    fun l => givesWhen_of_done (fun _ => by delta exec; exact rfl) fun p low => ?_,
    fun l n rest => faultsWhen_of_fault (fun _ => by delta exec; exact rfl) fun p high => ?_⟩
  · simp [pref_lanes_pass low]
  · simp [high]

end Sys2Proof.Laws
end

section
/-! Rounding (R57, R60, R70): exact values in units of a power of two, and the multiple that a rounding gives. -/

namespace Sys2Proof.Machine

/-! ### Exact values in units -/

theorem units_pos {lo e : Int} {m : Nat} (h : 0 < m) : 0 < units lo e m := Nat.mul_pos h (Nat.two_pow_pos _)

theorem units_zero (lo e : Int) : units lo e 0 = 0 := Nat.zero_mul _

theorem units_self (e : Int) (m : Nat) : units e e m = m := by simp [units]

/-- A value as a number of finer units of its own. -/
theorem units_rebase {lo e q : Int} (h : lo ≤ e) (h' : e ≤ q) (n : Nat) : units lo q n = units lo e (n * 2 ^ (q - e).toNat) := by
  have split : (q - lo).toNat = (q - e).toNat + (e - lo).toNat := by omega
  rw [units, units, split, Nat.pow_add, Nat.mul_assoc]

/-- A value in finer units. -/
theorem units_finer {lo' lo e : Int} (h : lo' ≤ lo) (h' : lo ≤ e) (m : Nat) :
    units lo' e m = units lo e m * 2 ^ (lo - lo').toNat := by
  have split : (e - lo').toNat = (e - lo).toNat + (lo - lo').toNat := by omega
  rw [units, units, split, Nat.pow_add, Nat.mul_assoc]

theorem units_le_iff_finer {lo' lo e q : Int} (h : lo' ≤ lo) (he : lo ≤ e) (hq : lo ≤ q) (m n : Nat) :
    units lo' e m ≤ units lo' q n ↔ units lo e m ≤ units lo q n := by
  rw [units_finer h he, units_finer h hq, Nat.mul_le_mul_right_iff (Nat.two_pow_pos _)]

/-- Two values compare alike in any units. -/
theorem units_le_iff {lo lo' e q : Int} (h : lo ≤ e) (h' : lo ≤ q) (k : lo' ≤ e) (k' : lo' ≤ q) (m n : Nat) :
    units lo e m ≤ units lo q n ↔ units lo' e m ≤ units lo' q n :=
  (units_le_iff_finer (Int.min_le_left lo lo') h h' m n).symm.trans (units_le_iff_finer (Int.min_le_right lo lo') k k' m n)

theorem units_eq_iff {lo lo' e q : Int} (h : lo ≤ e) (h' : lo ≤ q) (k : lo' ≤ e) (k' : lo' ≤ q) (m n : Nat) :
    units lo e m = units lo q n ↔ units lo' e m = units lo' q n := by
  simp only [Nat.le_antisymm_iff, units_le_iff h h' k k', units_le_iff h' h k' k]

/-! ### The multiple that a rounding gives -/

/-- x, which is n of the units u, is y rounded in a mode of R57; neg is the sign of what they are magnitudes of. -/
structure RoundsTo (mode : Nat) (neg : Bool) (x y u : Int) (n : Nat) : Prop where
  nearest : mode = 0 → 2 * (x - y) ≤ u ∧ 2 * (y - x) ≤ u ∧ (2 * (x - y) = u ∨ 2 * (y - x) = u → n % 2 = 0)
  inward : mode = 1 ∨ (mode = 2 ∧ neg = false) ∨ (mode = 3 ∧ neg = true) → x ≤ y ∧ y < x + u
  outward : (mode = 2 ∧ neg = true) ∨ (mode = 3 ∧ neg = false) → y ≤ x ∧ x < y + u

theorem RoundsTo.refl {mode : Nat} {neg : Bool} {x u : Int} {n : Nat} (h : 0 < u) : RoundsTo mode neg x x u n :=
  ⟨fun _ => by omega, fun _ => by omega, fun _ => by omega⟩

/-- Units do not matter. -/
theorem RoundsTo.scale {mode : Nat} {neg : Bool} {x y u : Int} {n : Nat} (h : RoundsTo mode neg x y u n) {p : Int} (pos : 0 < p) :
    RoundsTo mode neg (x * p) (y * p) (u * p) n where
  nearest mode0 := by
    obtain ⟨above, below, tie⟩ := h.nearest mode0
    rw [← Int.sub_mul, ← Int.sub_mul, ← Int.mul_assoc, ← Int.mul_assoc]
    refine ⟨Int.mul_le_mul_of_nonneg_right above pos.le, Int.mul_le_mul_of_nonneg_right below pos.le, fun half => tie ?_⟩
    exact half.imp (Int.eq_of_mul_eq_mul_right pos.ne') (Int.eq_of_mul_eq_mul_right pos.ne')
  inward toward := by
    obtain ⟨low, high⟩ := h.inward toward
    rw [← Int.add_mul]
    exact ⟨Int.mul_le_mul_of_nonneg_right low pos.le, Int.mul_lt_mul_of_pos_right high pos⟩
  outward away := by
    obtain ⟨low, high⟩ := h.outward away
    rw [← Int.add_mul]
    exact ⟨Int.mul_le_mul_of_nonneg_right low pos.le, Int.mul_lt_mul_of_pos_right high pos⟩

theorem roundAt_of_le {mode : Nat} {neg sticky : Bool} {m : Nat} {e q : Int} (h : q ≤ e) :
    roundAt mode neg m e q sticky = (m * 2 ^ (e - q).toNat, sticky) := by simp [roundAt, h]

/-- How a discarded part compares with one half of 2h. -/
def halfOf (r h : Nat) (sticky : Bool) : Ordering :=
  if r < h then .lt else if r = h then (if sticky then .gt else .eq) else .gt

/-- What is discarded below 2^q: a remainder r of 2h. -/
theorem roundAt_of_lt (mode : Nat) (neg sticky : Bool) (m : Nat) {e q : Int} (h : e < q) : ∃ n r w,
    m = n * (2 * w) + r ∧ r < 2 * w ∧ 2 ^ (q - e).toNat = 2 * w ∧
    roundAt mode neg m e q sticky =
      (if roundsUp mode neg (n % 2 == 1) (r != 0 || sticky) (halfOf r w sticky) then n + 1 else n, r != 0 || sticky) := by
  obtain ⟨k, hk⟩ : ∃ k, (q - e).toNat = k + 1 := ⟨(q - e).toNat - 1, by omega⟩
  have pow : 2 ^ (q - e).toNat = 2 * 2 ^ k := by rw [hk, Nat.pow_succ]; omega
  refine ⟨m / 2 ^ (q - e).toNat, m % 2 ^ (q - e).toNat, 2 ^ k, ?_, ?_, pow, ?_⟩
  · rw [← pow]
    exact (Nat.div_add_mod' _ _).symm
  · rw [← pow]
    exact Nat.mod_lt _ (Nat.two_pow_pos _)
  · simp only [roundAt, Int.not_le.2 h, if_false, halfOf, hk, Nat.add_sub_cancel]

theorem roundsUp_inward {mode : Nat} {neg odd low : Bool} {half : Ordering}
    (h : mode = 1 ∨ (mode = 2 ∧ neg = false) ∨ (mode = 3 ∧ neg = true)) : roundsUp mode neg odd low half = false := by
  rcases h with rfl | ⟨rfl, rfl⟩ | ⟨rfl, rfl⟩ <;> simp [roundsUp]

theorem roundsUp_outward {mode : Nat} {neg odd low : Bool} {half : Ordering}
    (h : (mode = 2 ∧ neg = true) ∨ (mode = 3 ∧ neg = false)) : roundsUp mode neg odd low half = low := by
  rcases h with ⟨rfl, rfl⟩ | ⟨rfl, rfl⟩ <;> simp [roundsUp]

/-- Where nothing is discarded nothing is rounded up. -/
theorem roundsUp_nothing (mode : Nat) (neg odd : Bool) : roundsUp mode neg odd false .lt = false := by
  rcases mode with _ | _ | _ | mode <;> simp [roundsUp]

/-- To nearest, the sticky part counts as less than one unit. -/
theorem roundAt_nearest (neg sticky : Bool) (m : Nat) {e q : Int} (h : e < q) :
    2 * ((roundAt 0 neg m e q sticky).1 * 2 ^ (q - e).toNat) ≤ 2 * m + 2 ^ (q - e).toNat ∧
    2 * (m + b2n sticky) ≤ 2 * ((roundAt 0 neg m e q sticky).1 * 2 ^ (q - e).toNat) + 2 ^ (q - e).toNat := by
  obtain ⟨n, r, w, rfl, small, pow, eq⟩ := roundAt_of_lt 0 neg sticky m h
  rw [pow, eq]
  have up : (n + 1) * (2 * w) = n * (2 * w) + 2 * w := Nat.succ_mul _ _
  rcases Nat.lt_trichotomy r w with below | rfl | above
  · simp only [roundsUp, halfOf, below, if_true, Bool.false_eq_true, if_false]
    cases sticky <;> simp only [b2n, Bool.false_eq_true, if_true, if_false] <;> omega
  · cases sticky <;> simp only [roundsUp, halfOf, Nat.lt_irrefl, b2n, Bool.false_eq_true, if_true, if_false]
    · split <;> omega
    · omega
  · simp only [roundsUp, halfOf, Nat.not_lt.2 above.le, Nat.ne_of_gt above, if_true, if_false]
    cases sticky <;> simp only [b2n, Bool.false_eq_true, if_true, if_false] <;> omega

/-- The multiple that a rounding gives, in units of the exact value's own. -/
theorem roundAt_roundsTo_fine (mode : Nat) (neg : Bool) (m : Nat) {e q : Int} (h : e < q) :
    let R := roundAt mode neg m e q false
    RoundsTo mode neg ((R.1 * 2 ^ (q - e).toNat : Nat) : Int) m ((2 ^ (q - e).toNat : Nat) : Int) R.1 ∧
      (R.2 = true ↔ R.1 * 2 ^ (q - e).toNat ≠ m) := by
  obtain ⟨n, r, w, rfl, small, pow, eq⟩ := roundAt_of_lt mode neg false m h
  simp only [pow, eq]
  have up : (n + 1) * (2 * w) = n * (2 * w) + 2 * w := Nat.succ_mul _ _
  refine ⟨⟨?_, ?_, ?_⟩, ?_⟩
  · rintro rfl
    rcases Nat.lt_trichotomy r w with below | rfl | above
    · simp only [roundsUp, halfOf, below, if_true, Bool.false_eq_true, if_false]
      omega
    · simp only [roundsUp, halfOf, Nat.lt_irrefl, Bool.false_eq_true, if_true, if_false, beq_iff_eq]
      split <;> omega
    · simp only [roundsUp, halfOf, Nat.not_lt.2 above.le, Nat.ne_of_gt above, if_true, if_false]
      omega
  · intro toward
    simp only [roundsUp_inward toward, Bool.false_eq_true, if_false]
    omega
  · intro away
    simp only [roundsUp_outward away, Bool.or_false, bne_iff_ne]
    split <;> omega
  · rcases Nat.eq_zero_or_pos r with rfl | more
    · have half : halfOf 0 w false = .lt := by simp [halfOf, show 0 < w by omega]
      simp [half, roundsUp_nothing]
    · simp only [Bool.or_false, bne_iff_ne]
      split <;> omega

/-- The multiple that a rounding gives, in any units: rounded in the mode, and inexact exactly when it differs. -/
theorem roundAt_roundsTo (mode : Nat) (neg : Bool) (m : Nat) {e q lo : Int} (he : lo ≤ e) (hq : lo ≤ q) :
    let R := roundAt mode neg m e q false
    RoundsTo mode neg (units lo q R.1) (units lo e m) (units lo q 1) R.1 ∧
      (R.2 = true ↔ (units lo q R.1 : Int) ≠ units lo e m) := by
  by_cases h : q ≤ e
  · have same : units lo q (roundAt mode neg m e q false).1 = units lo e m := by
      rw [roundAt_of_le h, units_rebase hq h]
    have pos : (0 : Int) < units lo q 1 := Int.natCast_pos.2 (units_pos Nat.one_pos)
    intro R
    rw [show units lo q R.1 = units lo e m from same]
    exact ⟨RoundsTo.refl pos, by simp [R, roundAt_of_le h]⟩
  · have h : e < q := Int.not_le.1 h
    obtain ⟨rounds, exact⟩ := roundAt_roundsTo_fine mode neg m h
    have pos : (0 : Int) < ((2 ^ (e - lo).toNat : Nat) : Int) := Int.natCast_pos.2 (Nat.two_pow_pos _)
    have scaled := rounds.scale pos
    simp only [units_rebase he h.le, Nat.one_mul] at *
    refine ⟨by simpa only [units, Int.natCast_mul] using scaled, exact.trans ?_⟩
    simp only [units, ne_eq, Int.natCast_inj, Nat.mul_left_inj (Nat.two_pow_pos _).ne']

end Sys2Proof.Machine
end

section
/-! Rounding to a format (R60, R70): bounds of the multiple, exact values in other units, and codes that decode to it. -/

namespace Sys2Proof.Machine

/-- The exponent of the multiples of a format's subnormals. -/
def Fmt.lowest (f : Fmt) : Int := 1 - (f.bias : Int) - f.mb

/-- The exponent at which m × 2^e keeps a format's precision. -/
def Fmt.precise (f : Fmt) (m : Nat) (e : Int) : Int := e + (Nat.log2 m : Int) - f.mb

theorem round_n (f : Fmt) (mode : Nat) (neg : Bool) (m : Nat) (e : Int) (sticky : Bool) :
    (f.round mode neg m e sticky).n = (roundAt mode neg m e (f.round mode neg m e sticky).q sticky).1 := rfl

theorem round_inx (f : Fmt) (mode : Nat) (neg : Bool) (m : Nat) (e : Int) (sticky : Bool) :
    (f.round mode neg m e sticky).inx = (roundAt mode neg m e (f.round mode neg m e sticky).q sticky).2 := rfl

theorem round_q (f : Fmt) (mode : Nat) (neg : Bool) {m : Nat} (e : Int) (sticky : Bool) (h : 0 < m) :
    (f.round mode neg m e sticky).q = max (f.precise m e) f.lowest := by
  simp only [Fmt.round, Fmt.precise, Fmt.lowest, Nat.ne_of_gt h, decide_false, Bool.false_or, decide_eq_true_eq, if_false]
  split <;> omega

/-- A rounding is the multiple below, or the next. -/
theorem roundAt_floor (mode : Nat) (neg sticky : Bool) (m : Nat) {e q : Int} (h : e < q) :
    m / 2 ^ (q - e).toNat ≤ (roundAt mode neg m e q sticky).1 ∧
      (roundAt mode neg m e q sticky).1 ≤ m / 2 ^ (q - e).toNat + 1 := by
  simp only [roundAt, Int.not_le.2 h, if_false]
  generalize roundsUp mode neg _ _ _ = up
  cases up <;> simp

/-- A rounded value has the precision of its format, and no more. -/
theorem round_bounds (f : Fmt) (mode : Nat) (neg : Bool) {m : Nat} (e : Int) (sticky : Bool) (h : 0 < m) :
    (f.round mode neg m e sticky).n ≤ 2 ^ (f.mb + 1) ∧ f.lowest ≤ (f.round mode neg m e sticky).q ∧
      (f.lowest < (f.round mode neg m e sticky).q → 2 ^ f.mb ≤ (f.round mode neg m e sticky).n) := by
  have hq := round_q f mode neg e sticky h
  rw [round_n]
  generalize (f.round mode neg m e sticky).q = q at hq
  have low : 2 ^ Nat.log2 m ≤ m := Nat.log2_self_le h.ne'
  have high : m < 2 ^ (Nat.log2 m + 1) := Nat.lt_log2_self
  unfold Fmt.precise at hq
  refine ⟨?_, by omega, fun above => ?_⟩
  · by_cases le : q ≤ e
    · rw [roundAt_of_le le]
      calc m * 2 ^ (e - q).toNat ≤ 2 ^ (Nat.log2 m + 1) * 2 ^ (e - q).toNat := Nat.mul_le_mul_right _ high.le
        _ = 2 ^ (Nat.log2 m + 1 + (e - q).toNat) := (Nat.pow_add _ _ _).symm
        _ ≤ 2 ^ (f.mb + 1) := Nat.pow_le_pow_right (by omega) (by omega)
    · refine (roundAt_floor mode neg sticky m (Int.not_le.1 le)).2.trans (Nat.div_lt_of_lt_mul ?_)
      calc m < 2 ^ (Nat.log2 m + 1) := high
        _ ≤ 2 ^ ((q - e).toNat + (f.mb + 1)) := Nat.pow_le_pow_right (by omega) (by omega)
        _ = 2 ^ (q - e).toNat * 2 ^ (f.mb + 1) := Nat.pow_add _ _ _
  · by_cases le : q ≤ e
    · rw [roundAt_of_le le]
      calc 2 ^ f.mb ≤ 2 ^ (Nat.log2 m + (e - q).toNat) := Nat.pow_le_pow_right (by omega) (by omega)
        _ = 2 ^ Nat.log2 m * 2 ^ (e - q).toNat := Nat.pow_add _ _ _
        _ ≤ m * 2 ^ (e - q).toNat := Nat.mul_le_mul_right _ low
    · refine le_trans ?_ (roundAt_floor mode neg sticky m (Int.not_le.1 le)).1
      rw [Nat.le_div_iff_mul_le (Nat.two_pow_pos _), ← Nat.pow_add]
      exact (Nat.pow_le_pow_right (by omega) (by omega)).trans low

/-! ### The same value in other units -/

theorem roundAt_double (mode : Nat) (neg : Bool) (m : Nat) (e q : Int) :
    roundAt mode neg (2 * m) (e - 1) q false = roundAt mode neg m e q false := by
  rcases Int.lt_trichotomy q e with below | rfl | above
  · have split : (e - q).toNat = (e - 1 - q).toNat + 1 := by omega
    rw [roundAt_of_le (by omega), roundAt_of_le below.le, split, Nat.pow_succ]
    simp only [Prod.mk.injEq, and_true]
    ring
  · simp [roundAt, roundsUp_nothing]
  · have split : (q - (e - 1)).toNat = (q - e).toNat + 1 := by omega
    obtain ⟨k, hk⟩ : ∃ k, (q - e).toNat = k + 1 := ⟨(q - e).toNat - 1, by omega⟩
    simp only [roundAt, Int.not_le.2 above, Int.not_le.2 (show e - 1 < q by omega), if_false, split, hk, Nat.add_sub_cancel]
    rw [Nat.pow_succ 2 (k + 1), Nat.mul_comm (2 ^ (k + 1)) 2, Nat.mul_div_mul_left _ _ Nat.two_pos,
      Nat.mul_mod_mul_left]
    have pow : 2 ^ (k + 1) = 2 * 2 ^ k := by rw [Nat.pow_succ]; omega
    have lt : (2 * (m % 2 ^ (k + 1)) < 2 ^ (k + 1)) = (m % 2 ^ (k + 1) < 2 ^ k) := by rw [eq_iff_iff]; omega
    have eq : (2 * (m % 2 ^ (k + 1)) = 2 ^ (k + 1)) = (m % 2 ^ (k + 1) = 2 ^ k) := by rw [eq_iff_iff]; omega
    have ne : (2 * (m % 2 ^ (k + 1)) != 0) = (m % 2 ^ (k + 1) != 0) := by rw [Bool.eq_iff_iff]; simp
    simp only [lt, eq, ne]

theorem log2_double {m : Nat} (h : 0 < m) : Nat.log2 (2 * m) = Nat.log2 m + 1 := Nat.log2_two_mul h.ne'

theorem log2_mul_pow {m : Nat} (pos : 0 < m) (k : Nat) : Nat.log2 (m * 2 ^ k) = Nat.log2 m + k := by
  refine (Nat.log2_eq_iff (Nat.mul_pos pos (Nat.two_pow_pos _)).ne').2 ⟨?_, ?_⟩
  · rw [Nat.pow_add]
    exact Nat.mul_le_mul_right _ (Nat.log2_self_le pos.ne')
  · rw [Nat.add_right_comm, Nat.pow_add]
    exact Nat.mul_lt_mul_of_pos_right Nat.lt_log2_self (Nat.two_pow_pos _)

theorem round_double (f : Fmt) (mode : Nat) (neg : Bool) {m : Nat} (e : Int) (h : 0 < m) :
    f.round mode neg (2 * m) (e - 1) false = f.round mode neg m e false := by
  have len : e - 1 + (((Nat.log2 m + 1 : Nat) : Int) + 1) = e + ((Nat.log2 m : Int) + 1) := by omega
  have pos : 2 * m ≠ 0 := by omega
  simp only [Fmt.round, log2_double h, h.ne', pos, if_false, len, roundAt_double]

theorem finite_double (f : Fmt) (mode : Nat) (ftz sat neg : Bool) (m : Nat) (e : Int) :
    f.finite mode ftz sat neg (2 * m) (e - 1) false = f.finite mode ftz sat neg m e false := by
  rcases Nat.eq_zero_or_pos m with rfl | pos
  · rfl
  · simp only [Fmt.finite, round_double f mode neg e pos, Nat.mul_eq_zero, show (2 : Nat) ≠ 0 by omega, false_or]

/-- A result is that of the exact value, in whatever units the value is given. -/
theorem finite_units (f : Fmt) (mode : Nat) (ftz sat neg : Bool) (m : Nat) {lo e : Int} (h : lo ≤ e) :
    f.finite mode ftz sat neg (units lo e m) lo false = f.finite mode ftz sat neg m e false := by
  obtain ⟨k, rfl⟩ : ∃ k : Nat, e = lo + k := ⟨(e - lo).toNat, by omega⟩
  clear h
  induction k generalizing m with
  | zero => simp [units]
  | succ k ih =>
    have shorter : units lo (lo + (k + 1 : Nat)) m = units lo (lo + k) (2 * m) := by
      rw [units_rebase (by omega : lo ≤ lo + k) (by omega)]
      congr 1
      rw [show (lo + ((k + 1 : Nat) : Int) - (lo + k)).toNat = 1 by omega]
      omega
    rw [shorter, ih, ← finite_double f mode ftz sat neg m]
    congr 1
    omega

theorem finite_same (f : Fmt) (mode : Nat) (ftz sat neg : Bool) {m m' : Nat} {lo e e' : Int} (h : lo ≤ e) (h' : lo ≤ e')
    (same : units lo e m = units lo e' m') :
    f.finite mode ftz sat neg m e false = f.finite mode ftz sat neg m' e' false := by
  rw [← finite_units f mode ftz sat neg m h, same, finite_units f mode ftz sat neg m' h']

/-! ### Codes -/

/-- The value of a sign, an exponent field and a fraction field (R63). -/
def Fmt.ofFields (f : Fmt) (neg : Bool) (E F : Nat) : Num :=
  let top := E == 2 ^ f.eb - 1
  let isNan := match f.top with
    | .ieee => top && F != 0
    | .nanOnly => top && F == 2 ^ f.mb - 1
    | .normal => false
  if isNan then .nan (f.top == .ieee && F < 2 ^ (f.mb - 1))
  else if f.top == .ieee && top then .inf neg
  else if E = 0 then .fin neg F (1 - f.bias - f.mb)
  else .fin neg (F + 2 ^ f.mb) ((E : Int) - f.bias - f.mb)

theorem fields_lt {f : Fmt} {E F : Nat} (hE : E < 2 ^ f.eb) (hF : F < 2 ^ f.mb) : E * 2 ^ f.mb + F < 2 ^ (f.eb + f.mb) := by
  calc E * 2 ^ f.mb + F < E * 2 ^ f.mb + 2 ^ f.mb := Nat.add_lt_add_left hF _
    _ = (E + 1) * 2 ^ f.mb := (Nat.succ_mul _ _).symm
    _ ≤ 2 ^ f.eb * 2 ^ f.mb := Nat.mul_le_mul_right _ hE
    _ = 2 ^ (f.eb + f.mb) := (Nat.pow_add _ _ _).symm

/-- A code decodes by its fields. -/
theorem decode_signed (f : Fmt) (neg : Bool) {E F : Nat} (hE : E < 2 ^ f.eb) (hF : F < 2 ^ f.mb) :
    f.decode (f.signed neg (E * 2 ^ f.mb + F)) = f.ofFields neg E F := by
  have small := fields_lt hE hF
  have wide : 2 ^ f.width = 2 * 2 ^ (f.eb + f.mb) := by
    rw [Fmt.width, Nat.add_assoc, Nat.add_comm 1, Nat.pow_succ, Nat.mul_comm]
  have split : f.signed neg (E * 2 ^ f.mb + F) = (E + b2n neg * 2 ^ f.eb) * 2 ^ f.mb + F := by
    cases neg <;> simp [Fmt.signed, b2n, Nat.pow_add]
    ring
  have whole : f.signed neg (E * 2 ^ f.mb + F) % 2 ^ f.width = f.signed neg (E * 2 ^ f.mb + F) := by
    refine Nat.mod_eq_of_lt ?_
    rw [wide, Fmt.signed]
    split <;> omega
  have sign : (f.signed neg (E * 2 ^ f.mb + F) / 2 ^ (f.eb + f.mb) == 1) = neg := by
    cases neg
    · simp [Fmt.signed, Nat.div_eq_of_lt small]
    · simp [Fmt.signed, Nat.add_div_right _ (Nat.two_pow_pos _), Nat.div_eq_of_lt small]
  have upper : f.signed neg (E * 2 ^ f.mb + F) / 2 ^ f.mb % 2 ^ f.eb = E := by
    rw [split, Nat.mul_comm, Nat.mul_add_div (Nat.two_pow_pos _), Nat.div_eq_of_lt hF, Nat.add_zero, Nat.add_mul_mod_self_right,
      Nat.mod_eq_of_lt hE]
  have lower : f.signed neg (E * 2 ^ f.mb + F) % 2 ^ f.mb = F := by
    rw [split, Nat.mul_comm, Nat.mul_add_mod, Nat.mod_eq_of_lt hF]
  simp only [Fmt.decode, Fmt.ofFields, whole, sign, upper, lower] <;> rfl

end Sys2Proof.Machine
end

section
/-! The codes of rounded values decode to them, and sums are exact before they are rounded (R63, R70, R192). -/

namespace Sys2Proof.Machine

/-- Is n × 2^q beyond a format's largest finite value (R70)? -/
def Fmt.past (f : Fmt) (n : Nat) (q : Int) : Bool :=
  let topExp : Int := (match f.top with
    | .ieee => (2 ^ f.eb - 2 : Nat)
    | _ => (2 ^ f.eb - 1 : Nat)) - (f.bias : Int)
  let topFrac := match f.top with
    | .nanOnly => 2 ^ (f.mb + 1) - 2
    | _ => 2 ^ (f.mb + 1) - 1
  if n = 0 then false
  else
    let ex := q + (Nat.log2 n : Int)
    ex > topExp || (ex = topExp && topExp - f.mb ≤ q && n * 2 ^ (q - (topExp - f.mb)).toNat > topFrac)

theorem round_beyond (f : Fmt) (mode : Nat) (neg : Bool) (m : Nat) (e : Int) (sticky : Bool) :
    (f.round mode neg m e sticky).beyond = f.past (f.round mode neg m e sticky).n (f.round mode neg m e sticky).q := rfl

/-- A finite value in the terms of its rounding, where FTZ does not act. -/
theorem finite_in_range {f : Fmt} {mode : Nat} {sat neg : Bool} {m : Nat} {e : Int} {sticky : Bool} (h : 0 < m)
    (range : (f.round mode neg m e sticky).beyond = false) :
    f.finite mode false sat neg m e sticky =
      let r := f.round mode neg m e sticky
      { bits := f.signed neg (f.encode r.n r.q)
        fx := (if r.tiny && r.inx then 8 else 0) + (if r.inx then 16 else 0), flush := f.encode r.n r.q == 0 } := by
  simp [Fmt.finite, h.ne', range]

theorem log2_of_bounds {n k : Nat} (low : 2 ^ k ≤ n) (high : n < 2 ^ (k + 1)) : Nat.log2 n = k :=
  (Nat.log2_eq_iff (by have := Nat.two_pow_pos k; omega)).2 ⟨low, high⟩

/-- The fields of a rounded value's code. -/
theorem encode_fields (f : Fmt) {n : Nat} (q : Int) (hn : n ≤ 2 ^ (f.mb + 1)) :
    (n < 2 ^ f.mb ∧ f.encode n q = 0 * 2 ^ f.mb + n) ∨
    (2 ^ f.mb ≤ n ∧ n < 2 ^ (f.mb + 1) ∧ Nat.log2 n = f.mb ∧
      f.encode n q = (q + f.bias + f.mb).toNat * 2 ^ f.mb + (n - 2 ^ f.mb)) ∨
    (n = 2 ^ (f.mb + 1) ∧ Nat.log2 n = f.mb + 1 ∧ f.encode n q = (q + 1 + f.bias + f.mb).toNat * 2 ^ f.mb + 0) := by
  rcases Nat.lt_or_ge n (2 ^ f.mb) with sub | norm
  · exact .inl ⟨sub, by simp [Fmt.encode, sub]⟩
  rcases Nat.lt_or_ge n (2 ^ (f.mb + 1)) with one | two
  · have len := log2_of_bounds norm one
    exact .inr (.inl ⟨norm, one, len, by simp [Fmt.encode, Nat.not_lt.2 norm, len]⟩)
  · obtain rfl : n = 2 ^ (f.mb + 1) := Nat.le_antisymm hn two
    have half : 2 ^ (f.mb + 1) / 2 ^ 1 - 2 ^ f.mb = 0 := by rw [Nat.pow_succ]; omega
    refine .inr (.inr ⟨rfl, Nat.log2_two_pow, ?_⟩)
    simp only [Fmt.encode, Nat.not_lt.2 norm, if_false, Nat.log2_two_pow, Nat.add_sub_cancel_left, half, Nat.add_zero]
    rfl

/-- The fields that are neither an infinity nor a NaN. -/
theorem ofFields_finite {f : Fmt} {neg : Bool} {E F : Nat} (noInf : f.top = .ieee → E ≠ 2 ^ f.eb - 1)
    (noNan : f.top = .nanOnly → E = 2 ^ f.eb - 1 → F ≠ 2 ^ f.mb - 1) :
    f.ofFields neg E F = if E = 0 then .fin neg F (1 - f.bias - f.mb)
      else .fin neg (F + 2 ^ f.mb) ((E : Int) - f.bias - f.mb) := by
  unfold Fmt.ofFields
  cases top : f.top with
  | ieee => simp [noInf top]
  | nanOnly => simp; exact fun h h' => absurd h' (noNan top h)
  | normal => simp

/-- A value in range has an exponent field of finite values. -/
theorem past_false {f : Fmt} {n : Nat} {q : Int} (pos : 0 < n) (range : f.past n q = false) :
    (f.top = .ieee → q + (Nat.log2 n : Int) ≤ (2 ^ f.eb - 2 : Nat) - (f.bias : Int)) ∧
    q + (Nat.log2 n : Int) ≤ (2 ^ f.eb - 1 : Nat) - (f.bias : Int) ∧
    (f.top = .nanOnly → q + (Nat.log2 n : Int) = (2 ^ f.eb - 1 : Nat) - (f.bias : Int) →
      q = (2 ^ f.eb - 1 : Nat) - (f.bias : Int) - f.mb → n ≤ 2 ^ (f.mb + 1) - 2) := by
  simp only [Fmt.past, pos.ne', if_false, gt_iff_lt, Bool.or_eq_false_iff, decide_eq_false_iff_not, Int.not_lt] at range
  obtain ⟨exp, frac⟩ := range
  cases top : f.top <;> simp only [top] at exp frac
  · exact ⟨fun _ => exp, by omega, nofun⟩
  · refine ⟨nofun, exp, fun _ here unit => ?_⟩
    simp [unit] at frac
    omega
  · exact ⟨nofun, exp, nofun⟩

/-- The value of a rounded value's code: the same multiple, or half of it of twice the unit. -/
theorem decode_encode {f : Fmt} (hmb : 1 ≤ f.mb) (heb : 1 ≤ f.eb) (neg : Bool) {n : Nat} {q : Int} (hn : n ≤ 2 ^ (f.mb + 1))
    (hq : f.lowest ≤ q) (hlow : f.lowest < q → 2 ^ f.mb ≤ n) (range : f.past n q = false) :
    ∃ n' q', f.decode (f.signed neg (f.encode n q)) = .fin neg n' q' ∧ (n' = n ∧ q' = q ∨ n = 2 * n' ∧ q' = q + 1) := by
  have two : 2 ^ (f.mb + 1) = 2 * 2 ^ f.mb := by rw [Nat.pow_succ, Nat.mul_comm]
  have one : 2 ≤ 2 ^ f.mb := (Nat.pow_le_pow_right Nat.two_pos hmb : 2 ^ 1 ≤ 2 ^ f.mb)
  have some : 2 ≤ 2 ^ f.eb := (Nat.pow_le_pow_right Nat.two_pos heb : 2 ^ 1 ≤ 2 ^ f.eb)
  unfold Fmt.lowest at hq hlow
  rcases encode_fields f q hn with ⟨sub, code⟩ | ⟨norm, below, len, code⟩ | ⟨rfl, len, code⟩
  · rw [code, decode_signed f neg (by omega) sub, ofFields_finite (fun _ => by omega) fun _ _ => by omega]
    exact ⟨n, q, by simp; omega, .inl ⟨rfl, rfl⟩⟩
  · obtain ⟨ieee, high, nanOnly⟩ := past_false (by omega) range
    rw [len] at ieee high nanOnly
    rw [code, decode_signed f neg (by omega) (by omega), ofFields_finite (fun h => by have := ieee h; omega)
      fun h _ => by have := nanOnly h (by omega) (by omega); omega]
    exact ⟨n, q, by rw [if_neg (by omega)]; congr 1 <;> omega, .inl ⟨rfl, rfl⟩⟩
  · obtain ⟨ieee, high, -⟩ := past_false (by omega) range
    rw [len] at ieee high
    rw [code, decode_signed f neg (by omega) (by omega), ofFields_finite (fun h => by have := ieee h; omega) fun _ _ => by omega]
    exact ⟨2 ^ f.mb, q + 1, by rw [if_neg (by omega)]; congr 1 <;> omega, .inr ⟨two, rfl⟩⟩

/-! ### Exact sums (R192) -/

/-- The sum of terms in units of 2^lo. -/
def sumUnits (lo : Int) (ts : List Term) : Int := (ts.map fun t => signedUnits lo t.neg t.m t.e).sum

/-- Every term that is not 0 is a multiple of 2^lo. -/
def Above (lo : Int) (ts : List Term) : Prop := ∀ t ∈ ts, t.m = 0 ∨ lo ≤ t.e

theorem signedUnits_zero (lo : Int) (neg : Bool) (e : Int) : signedUnits lo neg 0 e = 0 := by
  cases neg <;> simp [signedUnits, units_zero]

theorem signedUnits_finer {lo' lo : Int} {t : Term} (h : lo' ≤ lo) (above : t.m = 0 ∨ lo ≤ t.e) :
    signedUnits lo' t.neg t.m t.e = signedUnits lo t.neg t.m t.e * (2 ^ (lo - lo').toNat : Nat) := by
  rcases above with zero | above
  · simp [zero, signedUnits_zero]
  · cases neg : t.neg <;> simp [signedUnits, units_finer h above]

theorem sumUnits_cons (lo : Int) (t : Term) (ts : List Term) :
    sumUnits lo (t :: ts) = signedUnits lo t.neg t.m t.e + sumUnits lo ts := rfl

theorem sumUnits_finer {lo' lo : Int} {ts : List Term} (h : lo' ≤ lo) (above : Above lo ts) :
    sumUnits lo' ts = sumUnits lo ts * (2 ^ (lo - lo').toNat : Nat) := by
  induction ts with
  | nil => simp [sumUnits]
  | cons t ts ih =>
    rw [sumUnits_cons, sumUnits_cons, Int.add_mul, ih fun t' h' => above t' (List.mem_cons_of_mem t h'),
      signedUnits_finer h (above t List.mem_cons_self)]

/-- The lowest exponent among the terms that are not 0. -/
def lowestOf (lo : Int) (ts : List Term) : Int := ts.foldl (fun lo t => if t.m = 0 then lo else if t.e < lo then t.e else lo) lo

theorem lowestOf_le (lo : Int) (ts : List Term) : lowestOf lo ts ≤ lo := by
  induction ts generalizing lo with
  | nil => exact le_refl _
  | cons t ts ih =>
    refine (ih _).trans ?_
    dsimp only
    split
    · exact le_refl _
    · split <;> omega

theorem above_lowestOf (lo : Int) (ts : List Term) : Above (lowestOf lo ts) ts := by
  induction ts generalizing lo with
  | nil => exact fun _ h => absurd h List.not_mem_nil
  | cons t ts ih =>
    intro t' h
    rcases List.mem_cons.1 h with rfl | h
    · by_cases zero : t'.m = 0
      · exact .inl zero
      · refine .inr ((lowestOf_le _ ts).trans ?_)
        simp only [zero, if_false]
        split <;> omega
    · exact ih _ t' h

theorem sumTerms_eq (ts : List Term) : sumTerms ts = (sumUnits (lowestOf 4096 ts) ts, lowestOf 4096 ts) := by
  have sums (e : Int) (us : List Term) (acc : Int) : us.foldl (fun (acc : Int) t =>
      if t.m = 0 then acc
      else
        let x : Int := (t.m * 2 ^ (t.e - e).toNat : Nat)
        if t.neg then acc - x else acc + x) acc = acc + sumUnits e us := by
    induction us generalizing acc with
    | nil => simp [sumUnits]
    | cons t us ih =>
      rw [List.foldl_cons, ih, sumUnits_cons, ← Int.add_assoc]
      congr 1
      by_cases zero : t.m = 0
      · simp [zero, signedUnits_zero]
      · cases neg : t.neg <;> simp [zero, signedUnits, units, Int.sub_eq_add_neg]
  exact Prod.ext ((sums _ ts 0).trans (Int.zero_add _)) rfl

/-- The sign of a sum does not depend on its units. -/
theorem sumUnits_sign {lo lo' : Int} {ts : List Term} (h : Above lo ts) (h' : Above lo' ts) :
    (sumUnits lo ts < 0 ↔ sumUnits lo' ts < 0) ∧ (sumUnits lo ts = 0 ↔ sumUnits lo' ts = 0) := by
  have finer {lo : Int} (h : Above lo ts) {a : Int} (ha : a ≤ lo) :
      (sumUnits a ts < 0 ↔ sumUnits lo ts < 0) ∧ (sumUnits a ts = 0 ↔ sumUnits lo ts = 0) := by
    have pos : (0 : Int) < (2 ^ (lo - a).toNat : Nat) := Int.natCast_pos.2 (Nat.two_pow_pos _)
    rw [sumUnits_finer ha h]
    exact ⟨by rw [mul_neg_iff]; omega, by rw [Int.mul_eq_zero]; omega⟩
  have one := finer h (Int.min_le_left lo lo')
  have two := finer h' (Int.min_le_right lo lo')
  exact ⟨one.1.symm.trans two.1, one.2.symm.trans two.2⟩

/-- A sum that is not 0 is rounded once, in whatever units it is given. -/
theorem sum_eq_finite {f : Fmt} {mode : Nat} {ftz : Bool} {ts : List Term} {lo : Int} (above : Above lo ts)
    (some : sumUnits lo ts ≠ 0) :
    f.sum mode ftz ts = f.finite mode ftz false (decide (sumUnits lo ts < 0)) (sumUnits lo ts).natAbs lo false := by
  obtain ⟨neg, zero⟩ := sumUnits_sign above (above_lowestOf 4096 ts)
  simp only [Fmt.sum, sumTerms_eq, ← zero, some, if_false, ← neg]
  have same {a b : Int} (ha : a ≤ b) (h : Above b ts) (m : Int) (hm : m = sumUnits a ts) :
      units a b (sumUnits b ts).natAbs = m.natAbs := by
    rw [hm, sumUnits_finer ha h, Int.natAbs_mul, Int.natAbs_natCast, units]
  refine finite_same f mode ftz false _ (Int.min_le_right lo (lowestOf 4096 ts)) (Int.min_le_left lo (lowestOf 4096 ts)) ?_
  rw [same (Int.min_le_right _ _) (above_lowestOf 4096 ts) _ rfl, same (Int.min_le_left _ _) above _ rfl]

end Sys2Proof.Machine
end

section
/-! Results of addition, fused multiply-add, division and square root (R57, R66, R192, R201, R203). -/

namespace Sys2Proof.Machine

/-- What the rounding of a value to a format is (R57, R60): the multiple that the mode names, with the format's precision. -/
theorem round_roundsTo (f : Fmt) (mode : Nat) (neg : Bool) (m : Nat) (e lo : Int) (he : lo ≤ e)
    (hq : lo ≤ (f.round mode neg m e false).q) :
    let r := f.round mode neg m e false
    RoundsTo mode neg (units lo r.q r.n) (units lo e m) (units lo r.q 1) r.n ∧
      (r.inx = true ↔ (units lo r.q r.n : Int) ≠ units lo e m) :=
  roundAt_roundsTo mode neg m he hq

/-- The code of a rounded value in range decodes to it (R63, R70). -/
theorem decode_finite {f : Fmt} (hmb : 1 ≤ f.mb) (heb : 1 ≤ f.eb) {mode : Nat} {sat neg : Bool} {m : Nat} {e : Int}
    {sticky : Bool} (pos : 0 < m) (range : (f.round mode neg m e sticky).beyond = false) :
    let r := f.round mode neg m e sticky
    ∃ n q, f.decode (f.finite mode false sat neg m e sticky).bits = .fin neg n q ∧
      (n = r.n ∧ q = r.q ∨ r.n = 2 * n ∧ q = r.q + 1) := by
  obtain ⟨hn, hq, hlow⟩ := round_bounds f mode neg e sticky pos
  rw [finite_in_range pos range]
  exact decode_encode hmb heb neg hn hq hlow range

/-- Half of a multiple of twice the unit is the same value. -/
theorem units_halved {n n' : Nat} {q q' : Int} (h : n = n' ∧ q = q' ∨ n' = 2 * n ∧ q = q' + 1) :
    units (min q q') q n = units (min q q') q' n' := by
  rcases h with ⟨rfl, rfl⟩ | ⟨rfl, rfl⟩
  · rfl
  · rw [Int.min_eq_right (by omega), units_self, units_rebase (le_refl q') (by omega), units_self,
      show (q' + 1 - q').toNat = 1 by omega, Nat.pow_one, Nat.mul_comm]

theorem decode_finite_units {f : Fmt} (hmb : 1 ≤ f.mb) (heb : 1 ≤ f.eb) {mode : Nat} {sat neg : Bool} {m : Nat} {e : Int}
    {sticky : Bool} (pos : 0 < m) (range : (f.round mode neg m e sticky).beyond = false) :
    let r := f.round mode neg m e sticky
    ∃ n q, f.decode (f.finite mode false sat neg m e sticky).bits = .fin neg n q ∧
      units (min q r.q) q n = units (min q r.q) r.q r.n := by
  obtain ⟨n, q, code, value⟩ := decode_finite hmb heb (sat := sat) pos range
  exact ⟨n, q, code, units_halved value⟩

/-- The formats of R63 have a fraction and an exponent. -/
theorem format_widths {f : Fmt} (h : f ∈ [fp32, fp16, bf16, e5m2, e4m3, e2m1]) : 1 ≤ f.mb ∧ 1 ≤ f.eb := by
  revert f
  decide

theorem above_pair {lo : Int} {t u : Term} (ht : lo ≤ t.e) (hu : lo ≤ u.e) : Above lo [t, u] := by
  intro x h
  rcases List.mem_cons.1 h with rfl | h
  · exact .inr ht
  · exact List.mem_singleton.1 h ▸ .inr hu

/-- A sum of two values is rounded once (R192). -/
theorem add_eq_finite {f : Fmt} {mode : Nat} {ftz na nb : Bool} {ma mb : Nat} {ea eb lo : Int} (ha : lo ≤ ea) (hb : lo ≤ eb)
    (some : signedUnits lo na ma ea + signedUnits lo nb mb eb ≠ 0) :
    f.add mode ftz (.fin na ma ea) (.fin nb mb eb) = f.finite mode ftz false
      (decide (signedUnits lo na ma ea + signedUnits lo nb mb eb < 0))
      (signedUnits lo na ma ea + signedUnits lo nb mb eb).natAbs lo false := by
  have total : sumUnits lo [⟨na, ma, ea⟩, ⟨nb, mb, eb⟩] = signedUnits lo na ma ea + signedUnits lo nb mb eb := by
    simp [sumUnits]
  rw [← total] at some ⊢
  exact sum_eq_finite (above_pair ha hb) some

/-- A product and an addend are a sum of two terms (R201). -/
theorem fma_eq_sum (f : Fmt) (mode : Nat) (ftz na nb nc : Bool) (ma mb mc : Nat) (ea eb ec : Int) :
    f.fma mode ftz (.fin na ma ea) (.fin nb mb eb) (.fin nc mc ec) =
      f.sum mode ftz [⟨nc, mc, ec⟩, ⟨na != nb, ma * mb, ea + eb⟩] := by
  simp [Fmt.fma, Fmt.dot, Num.isSnan, Num.isNan, Num.isInf, Num.mul]

theorem fma_eq_finite {f : Fmt} {mode : Nat} {ftz na nb nc : Bool} {ma mb mc : Nat} {ea eb ec lo : Int} (hp : lo ≤ ea + eb)
    (hc : lo ≤ ec) {x : Int} (value : x = signedUnits lo (na != nb) (ma * mb) (ea + eb) + signedUnits lo nc mc ec) (some : x ≠ 0) :
    f.fma mode ftz (.fin na ma ea) (.fin nb mb eb) (.fin nc mc ec) =
      f.finite mode ftz false (decide (x < 0)) x.natAbs lo false := by
  have total : sumUnits lo [⟨nc, mc, ec⟩, ⟨na != nb, ma * mb, ea + eb⟩] = x := by
    simp [sumUnits, value, Int.add_comm (signedUnits lo nc mc ec)]
  rw [fma_eq_sum, ← total, sum_eq_finite (above_pair hc hp) (total ▸ some)]

/-! ### Square root (R203) -/

theorem isqrtFrom_bounds (k n r : Nat) (low : r * r ≤ n) (high : n < (r + 2 ^ k) * (r + 2 ^ k)) :
    isqrtFrom k n r * isqrtFrom k n r ≤ n ∧ n < (isqrtFrom k n r + 1) * (isqrtFrom k n r + 1) := by
  induction k generalizing r with
  | zero => exact ⟨low, high⟩
  | succ k ih =>
    simp only [isqrtFrom]
    split
    case isTrue h => exact ih _ h (by rwa [Nat.add_assoc, ← Nat.two_mul, Nat.mul_comm 2, ← Nat.pow_succ])
    case isFalse h => exact ih _ low (Nat.not_le.1 h)

theorem isqrt_bounds (n : Nat) : isqrt n * isqrt n ≤ n ∧ n < (isqrt n + 1) * (isqrt n + 1) := by
  refine isqrtFrom_bounds _ n 0 (Nat.zero_le _) ?_
  rw [Nat.zero_add, ← Nat.pow_add]
  exact Nat.lt_log2_self.trans_le (Nat.pow_le_pow_right Nat.two_pos (by omega))

/-- A rounded root is within half a unit of the exact one: N multiples of D, where r is the integer root of x. -/
theorem root_within_half {x r N D : Nat} (low : r * r ≤ x) (high : x < (r + 1) * (r + 1)) (below : (2 * N - 1) * D ≤ 2 * r)
    (above : 2 * (r + b2n (r * r != x)) ≤ (2 * N + 1) * D) :
    (2 * N - 1) * (2 * N - 1) * (D * D) ≤ 4 * x ∧ 4 * x ≤ (2 * N + 1) * (2 * N + 1) * (D * D) := by
  constructor
  · calc (2 * N - 1) * (2 * N - 1) * (D * D) = ((2 * N - 1) * D) * ((2 * N - 1) * D) := by ring
      _ ≤ (2 * r) * (2 * r) := Nat.mul_le_mul below below
      _ = 4 * (r * r) := by ring
      _ ≤ 4 * x := Nat.mul_le_mul_left 4 low
  · have square : 4 * x ≤ (2 * (r + b2n (r * r != x))) * (2 * (r + b2n (r * r != x))) := by
      by_cases exact : r * r = x
      · simp only [exact, bne_self_eq_false, b2n, Bool.false_eq_true, if_false, Nat.add_zero]
        rw [← exact]
        exact le_of_eq (by ring)
      · have : (r * r != x) = true := by simpa using exact
        simp only [this, b2n, if_true]
        calc 4 * x ≤ 4 * ((r + 1) * (r + 1)) := Nat.mul_le_mul_left 4 high.le
          _ = _ := by ring
    calc 4 * x ≤ _ := square
      _ ≤ ((2 * N + 1) * D) * ((2 * N + 1) * D) := Nat.mul_le_mul above above
      _ = _ := by ring

theorem isqrt_ge {k n : Nat} (h : 2 ^ (2 * k) ≤ n) : 2 ^ k ≤ isqrt n := by
  refine Nat.not_lt.1 fun less => absurd (isqrt_bounds n).2 (Nat.not_lt.2 ?_)
  calc (isqrt n + 1) * (isqrt n + 1) ≤ 2 ^ k * 2 ^ k := Nat.mul_le_mul less less
    _ = 2 ^ (2 * k) := by rw [Nat.two_mul, Nat.pow_add]
    _ ≤ n := h

theorem isqrt_lt {k n : Nat} (h : n < 2 ^ (2 * k)) : isqrt n < 2 ^ k := by
  refine Nat.not_le.1 fun more => absurd (isqrt_bounds n).1 (Nat.not_le.2 ?_)
  calc n < 2 ^ (2 * k) := h
    _ = 2 ^ k * 2 ^ k := by rw [Nat.two_mul, Nat.pow_add]
    _ ≤ isqrt n * isqrt n := Nat.mul_le_mul more more

/-- A decoded multiple is as near as the one that was encoded. -/
theorem halved_within {n N : Nat} {q Q E : Int} (h : n = N ∧ q = Q ∨ N = 2 * n ∧ q = Q + 1) (fine : E ≤ Q) {r s : Nat}
    (below : 2 * (N * 2 ^ (Q - E).toNat) ≤ 2 * r + 2 ^ (Q - E).toNat)
    (above : 2 * (r + s) ≤ 2 * (N * 2 ^ (Q - E).toNat) + 2 ^ (Q - E).toNat) :
    (2 * n - 1) * 2 ^ (q - E).toNat ≤ 2 * r ∧ 2 * (r + s) ≤ (2 * n + 1) * 2 ^ (q - E).toNat := by
  rcases h with ⟨rfl, rfl⟩ | ⟨rfl, rfl⟩
  · rw [Nat.sub_mul, Nat.add_mul, Nat.mul_assoc, Nat.one_mul]
    omega
  · have twice : 2 ^ (Q + 1 - E).toNat = 2 * 2 ^ (Q - E).toNat := by
      rw [show (Q + 1 - E).toNat = (Q - E).toNat + 1 by omega, Nat.pow_succ, Nat.mul_comm]
    rw [twice, Nat.sub_mul, Nat.add_mul, Nat.one_mul]
    have product : 2 * n * (2 * 2 ^ (Q - E).toNat) = 2 * (2 * n * 2 ^ (Q - E).toNat) := by ring
    omega

/-- A rounded value well below the highest exponent is in range. -/
theorem past_small {f : Fmt} {n : Nat} {q : Int} (ieee : f.top = .ieee) (hn : n ≤ 2 ^ (f.mb + 1))
    (small : q + f.mb + 1 < (2 ^ f.eb - 2 : Nat) - (f.bias : Int)) : f.past n q = false := by
  rcases Nat.eq_zero_or_pos n with rfl | pos
  · simp [Fmt.past]
  · have len : Nat.log2 n ≤ f.mb + 1 := by
      rw [← Nat.lt_add_one_iff, Nat.log2_lt pos.ne']
      exact hn.trans_lt (Nat.pow_lt_pow_right (by omega) (by omega))
    simp only [Fmt.past, ieee, pos.ne', if_false, Bool.or_eq_false_iff, decide_eq_false_iff_not, Bool.and_eq_false_iff]
    omega

/-- The square root of a value of FP32's range: the root of the scaled value, rounded to nearest (R203). -/
theorem sqrt_within {m : Nat} {e : Int} (pos : 0 < m) (small : m < 16777216) (he : -149 ≤ e) (he' : e ≤ 104) :
    ∃ n q, 0 < n ∧ fp32.decode (fp32.sqrt false (.fin false m e)).bits = .fin false n q ∧
      (e - e % 2 - 64) / 2 ≤ q ∧
      (2 * n - 1) * (2 * n - 1) * (2 ^ (q - (e - e % 2 - 64) / 2).toNat * 2 ^ (q - (e - e % 2 - 64) / 2).toNat) ≤
        4 * (m * 2 ^ (64 + (e % 2).toNat)) ∧
      4 * (m * 2 ^ (64 + (e % 2).toNat)) ≤
        (2 * n + 1) * (2 * n + 1) * (2 ^ (q - (e - e % 2 - 64) / 2).toNat * 2 ^ (q - (e - e % 2 - 64) / 2).toNat) := by
  have odd : (e % 2).toNat ≤ 1 := by omega
  have scaledLow : 2 ^ 64 ≤ m * 2 ^ (64 + (e % 2).toNat) := by
    calc 2 ^ 64 ≤ 1 * 2 ^ (64 + (e % 2).toNat) := by rw [Nat.one_mul]; exact Nat.pow_le_pow_right Nat.two_pos (by omega)
      _ ≤ _ := Nat.mul_le_mul_right _ pos
  have scaledHigh : m * 2 ^ (64 + (e % 2).toNat) < 2 ^ 90 := by
    calc m * 2 ^ (64 + (e % 2).toNat) < 2 ^ 24 * 2 ^ (64 + (e % 2).toNat) := Nat.mul_lt_mul_of_pos_right small (Nat.two_pow_pos _)
      _ ≤ 2 ^ 24 * 2 ^ 66 := Nat.mul_le_mul_left _ (Nat.pow_le_pow_right Nat.two_pos (by omega))
      _ = 2 ^ 90 := by norm_num
  have sqrt : fp32.sqrt false (.fin false m e) = fp32.finite 0 false false false (isqrt (m * 2 ^ (64 + (e % 2).toNat)))
      ((e - e % 2 - 64) / 2) (isqrt (m * 2 ^ (64 + (e % 2).toNat)) * isqrt (m * 2 ^ (64 + (e % 2).toNat)) !=
        m * 2 ^ (64 + (e % 2).toNat)) := by
    simp [Fmt.sqrt, pos.ne']
  generalize m * 2 ^ (64 + (e % 2).toNat) = x at *
  have rootLow : 2 ^ 32 ≤ isqrt x := isqrt_ge scaledLow
  have rootHigh : isqrt x < 2 ^ 45 := isqrt_lt scaledHigh
  obtain ⟨square, next⟩ := isqrt_bounds x
  generalize isqrt x = r at *
  generalize hE : (e - e % 2 - 64) / 2 = E at *
  have rpos : 0 < r := by omega
  have logLow : 32 ≤ Nat.log2 r := (Nat.le_log2 rpos.ne').2 rootLow
  have logHigh : Nat.log2 r < 45 := (Nat.log2_lt rpos.ne').2 rootHigh
  have hq := round_q fp32 0 false E (r * r != x) rpos
  obtain ⟨hn, hlow, norm⟩ := round_bounds fp32 0 false E (r * r != x) rpos
  have near := roundAt_nearest false (r * r != x) r (show E < (fp32.round 0 false r E (r * r != x)).q by
    rw [hq]; simp only [Fmt.precise, Fmt.lowest]; omega)
  rw [← round_n] at near
  have range : (fp32.round 0 false r E (r * r != x)).beyond = false := by
    rw [round_beyond]
    refine past_small rfl hn ?_
    rw [hq]
    simp only [Fmt.precise, Fmt.lowest]
    omega
  obtain ⟨n, q, code, value⟩ := decode_finite (f := fp32) (by decide) (by decide) (sat := false) rpos range
  simp only [Fmt.precise, Fmt.lowest] at hq norm
  have fine : E ≤ (fp32.round 0 false r E (r * r != x)).q := by omega
  have full := norm (by omega)
  obtain ⟨below, above⟩ := halved_within value fine near.1 near.2
  obtain ⟨lower, upper⟩ := root_within_half square next below above
  exact ⟨n, q, by omega, sqrt ▸ code, by omega, lower, upper⟩

end Sys2Proof.Machine
end

section
/-! Division (R66, R201), and the laws of rounding. -/

namespace Sys2Proof.Machine

/-- A quotient of two values that are not 0 (R201). -/
theorem div_eq_finite {f : Fmt} {ftz na nb : Bool} {ma mb : Nat} {ea eb : Int} (ha : 0 < ma) (hb : 0 < mb) :
    f.div ftz (.fin na ma ea) (.fin nb mb eb) = f.finite 0 ftz false (na != nb) (ma * 18446744073709551616 / mb) (ea - eb - 64)
      (ma * 18446744073709551616 % mb != 0) := by
  simp [Fmt.div, Num.isSnan, Num.isNan, Num.neg, ha.ne', hb.ne']

/-- A rounded quotient is within half a unit of the exact one: N multiples of D, where a is the integer quotient of X by b. -/
theorem quotient_within_half {X b N D : Nat} (hb : 0 < b) (below : 2 * (N * D) ≤ 2 * (X / b) + D)
    (above : 2 * (X / b + b2n (X % b != 0)) ≤ 2 * (N * D) + D) :
    2 * (N * b * D) ≤ 2 * X + b * D ∧ 2 * X ≤ 2 * (N * b * D) + b * D := by
  have parts : X / b * b + X % b = X := Nat.div_add_mod' X b
  have low : X / b * b ≤ X := Nat.div_mul_le_self X b
  have high : X ≤ (X / b + b2n (X % b != 0)) * b := by
    have := Nat.mod_lt X hb
    by_cases exact : X % b = 0
    · simp only [exact, bne_self_eq_false, b2n, Bool.false_eq_true, if_false, Nat.add_zero]
      omega
    · have : (X % b != 0) = true := by simpa using exact
      simp only [this, b2n, if_true, Nat.add_mul, Nat.one_mul]
      omega
  constructor
  · calc 2 * (N * b * D) = 2 * (N * D) * b := by ring
      _ ≤ (2 * (X / b) + D) * b := Nat.mul_le_mul_right b below
      _ = 2 * (X / b * b) + b * D := by ring
      _ ≤ 2 * X + b * D := by omega
  · calc 2 * X ≤ 2 * ((X / b + b2n (X % b != 0)) * b) := Nat.mul_le_mul_left 2 high
      _ = 2 * (X / b + b2n (X % b != 0)) * b := by ring
      _ ≤ (2 * (N * D) + D) * b := Nat.mul_le_mul_right b above
      _ = 2 * (N * b * D) + b * D := by ring

/-- The integer quotient that division rounds has more bits than FP32 keeps. -/
theorem quotient_long {ma mb : Nat} (ha : 0 < ma) (hb : 0 < mb) (small : mb < 16777216) :
    40 ≤ Nat.log2 (ma * 18446744073709551616 / mb) := by
  have long : 2 ^ 40 ≤ ma * 18446744073709551616 / mb := by
    rw [Nat.le_div_iff_mul_le hb]
    calc 2 ^ 40 * mb ≤ 2 ^ 40 * 16777216 := Nat.mul_le_mul_left _ small.le
      _ = 1 * 18446744073709551616 := by norm_num
      _ ≤ ma * 18446744073709551616 := Nat.mul_le_mul_right _ ha
  exact (Nat.le_log2 (by omega)).2 long

/-- That a value lies within half of u of another does not depend on the units. -/
theorem units_within {lo lo' q e : Int} {x y u : Nat} (hq : lo ≤ q) (he : lo ≤ e) (hq' : lo' ≤ q) (he' : lo' ≤ e)
    (below : 2 * units lo' q x ≤ 2 * units lo' e y + units lo' q u) (above : 2 * units lo' e y ≤ 2 * units lo' q x + units lo' q u) :
    2 * ((units lo q x : Int) - units lo e y) ≤ units lo q u ∧ 2 * ((units lo e y : Int) - units lo q x) ≤ units lo q u := by
  have lower := (units_le_iff hq he hq' he' (2 * x - u) (2 * y)).2
  have upper := (units_le_iff he hq he' hq' (2 * y) (2 * x + u)).2
  simp only [units, Nat.sub_mul, Nat.add_mul, Nat.mul_assoc] at *
  have := lower (by omega)
  have := upper (by omega)
  omega

/-- A multiple near the integer quotient that division forms is as near the exact quotient. -/
theorem quotient_units {ma mb n : Nat} {ea eb q lo : Int} (hb : 0 < mb) (fine : ea - eb - 64 < q)
    (near : 2 * (n * 2 ^ (q - (ea - eb - 64)).toNat) ≤ 2 * (ma * 18446744073709551616 / mb) + 2 ^ (q - (ea - eb - 64)).toNat ∧
      2 * (ma * 18446744073709551616 / mb + b2n (ma * 18446744073709551616 % mb != 0)) ≤
        2 * (n * 2 ^ (q - (ea - eb - 64)).toNat) + 2 ^ (q - (ea - eb - 64)).toNat)
    (hea : lo ≤ ea) (hqb : lo ≤ q + eb) :
    2 * ((units lo (q + eb) (n * mb) : Int) - units lo ea ma) ≤ units lo (q + eb) mb ∧
      2 * ((units lo ea ma : Int) - units lo (q + eb) (n * mb)) ≤ units lo (q + eb) mb := by
  obtain ⟨lower, upper⟩ := quotient_within_half hb near.1 near.2
  have exponent : (q - (ea - eb - 64)).toNat = (q + eb - (ea - 64)).toNat := by omega
  have scale : (ea - (ea - 64)).toNat = 64 := by omega
  refine units_within (lo' := ea - 64) hqb hea (by omega) (by omega) ?_ ?_
  · rw [units, units, units, scale, ← exponent]
    exact lower
  · rw [units, units, units, scale, ← exponent]
    exact upper

/-- A quotient rounded to FP32 lies within half a unit of the exact one. -/
theorem div_within {na nb : Bool} {ma mb : Nat} {ea eb lo : Int} (ha : 0 < ma) (hb : 0 < mb) (small : mb < 16777216) :
    let r := fp32.round 0 (na != nb) (ma * 18446744073709551616 / mb) (ea - eb - 64) (ma * 18446744073709551616 % mb != 0)
    lo ≤ ea → lo ≤ r.q + eb →
      2 * ((units lo (r.q + eb) (r.n * mb) : Int) - units lo ea ma) ≤ units lo (r.q + eb) mb ∧
      2 * ((units lo ea ma : Int) - units lo (r.q + eb) (r.n * mb)) ≤ units lo (r.q + eb) mb := by
  have long := quotient_long ha hb small
  have pos : 0 < ma * 18446744073709551616 / mb := by
    refine Nat.pos_of_ne_zero fun zero => ?_
    simp [zero] at long
  have hq := round_q fp32 0 (na != nb) (ea - eb - 64) (ma * 18446744073709551616 % mb != 0) pos
  have fine : ea - eb - 64 < max (fp32.precise (ma * 18446744073709551616 / mb) (ea - eb - 64)) fp32.lowest := by
    simp only [Fmt.precise, Fmt.lowest]
    omega
  rw [← hq] at fine
  exact quotient_units hb fine (roundAt_nearest (na != nb) _ _ fine)

end Sys2Proof.Machine

namespace Sys2Proof.Laws

open Sys2Proof.Machine

/-- Settles O43: `roundAt` gives the multiple that the mode names, codes decode to it, and sums, quotients and roots reach it with
what they discard. -/
theorem roundingIsExact : Obligations.RoundingIsExact := by
  refine ⟨?_, ?_, ?_, ?_, ?_, ?_, by decide +kernel, by decide +kernel, by decide +kernel,
    by decide +kernel, by decide +kernel, by decide +kernel⟩
  · intro f mode neg m e lo _ pos r x y u he hq
    obtain ⟨⟨nearest, inward, outward⟩, exact⟩ := round_roundsTo f mode neg m e lo he hq
    exact ⟨nearest, inward, outward, exact, round_bounds f mode neg e false pos⟩
  · intro f mode neg sat m e hf pos r range
    obtain ⟨hmb, heb⟩ := format_widths hf
    refine ⟨decode_finite_units hmb heb pos range, ?_⟩
    rw [finite_in_range pos range]
    simp only [Bool.and_eq_true]
    rfl
  · intro f mode ftz na nb ma mb ea eb lo _ ha hb x some
    exact add_eq_finite ha hb some
  · intro f mode ftz na nb nc ma mb mc ea eb ec lo _ hp hc x some
    refine fma_eq_finite hp hc ?_ some
    cases na <;> cases nb <;> rfl
  · intro na nb ma mb ea eb lo ha _ hb small r
    refine ⟨fun range => ?_, div_within ha hb small⟩
    rw [div_eq_finite ha hb]
    refine decode_finite_units (by decide) (by decide) (Nat.pos_of_ne_zero fun zero => ?_) range
    have := quotient_long ha hb small
    simp [zero] at this
  · intro m e pos small he he'
    obtain ⟨n, q, hn, code, fine, lower, upper⟩ := sqrt_within pos small he he'
    refine ⟨n, q, hn, code, fun lo hlo hq => ?_⟩
    have double : (2 * q - (e - e % 2 - 64)).toNat = (q - (e - e % 2 - 64) / 2).toNat + (q - (e - e % 2 - 64) / 2).toNat := by omega
    have whole : (e - (e - e % 2 - 64)).toNat = 64 + (e % 2).toNat := by omega
    rw [units_le_iff (lo' := e - e % 2 - 64) hq hlo (by omega) (by omega), units_le_iff (lo' := e - e % 2 - 64) hlo hq (by omega) (by omega)]
    simp only [units, double, whole, Nat.pow_add 2 (q - (e - e % 2 - 64) / 2).toNat, Nat.mul_assoc 4]
    exact ⟨lower, upper⟩

end Sys2Proof.Laws
end

section
/-! FP32 operands by their bits, comparisons, classes and integral values (R63, R65, R202, R204). -/

namespace Sys2Proof.Machine

theorem getLsbD_eq_decide {w : Nat} (x : BitVec w) (k : Nat) : x.getLsbD k = decide (x.toNat / 2 ^ k % 2 = 1) :=
  Nat.testBit_eq_decide_div_mod_eq

/-- An FP32 word by its sign and fields. -/
theorem word_signed (x : Word) :
    x.toNat = fp32.signed (x.getLsbD 31) (x.toNat / 8388608 % 256 * 2 ^ fp32.mb + x.toNat % 8388608) := by
  have := x.isLt
  rw [getLsbD_eq_decide]
  simp only [Fmt.signed, decide_eq_true_eq]
  split <;> omega

/-- An FP32 operand by its sign and fields, under FTZ. -/
theorem f32_fields (p : State) (x : Word) :
    f32 p x = match fp32.ofFields (x.getLsbD 31) (x.toNat / 8388608 % 256) (x.toNat % 8388608) with
      | .fin neg m e => if ftzOn p && fp32.subnormal x.toNat then .fin neg 0 e else .fin neg m e
      | n => n := by
  have code : fp32.decode x.toNat = fp32.ofFields (x.getLsbD 31) (x.toNat / 8388608 % 256) (x.toNat % 8388608) := by
    conv_lhs => rw [word_signed]
    exact decode_signed fp32 _ (Nat.mod_lt _ (by decide)) (Nat.mod_lt _ (by decide))
  rw [f32, Fmt.operand, code]
  have flushes : fp32.flushes = true := rfl
  simp only [flushes, Bool.and_true] <;> rfl

/-- The fields of FP32 as values (R63). -/
theorem fp32_ofFields (neg : Bool) (E F : Nat) :
    fp32.ofFields neg E F = if E = 255 then (if F = 0 then .inf neg else .nan (decide (F < 4194304)))
      else if E = 0 then .fin neg F (-149) else .fin neg (F + 8388608) ((E : Int) - 150) := by
  by_cases top : E = 255
  · by_cases zero : F = 0 <;> simp [Fmt.ofFields, top, zero]
  · by_cases sub : E = 0
    · simp [Fmt.ofFields, sub]
    · simp [Fmt.ofFields, top, sub]
      omega

theorem subnormal_fields (x : Word) :
    fp32.subnormal x.toNat = true ↔ x.toNat / 8388608 % 256 = 0 ∧ x.toNat % 8388608 ≠ 0 := by
  simp [Fmt.subnormal]

/-- An FP32 operand by its bits, after FTZ (R63, R65). -/
theorem f32_bits (p : State) (x : Word) :
    f32 p x = if x.toNat / 8388608 % 256 = 255 then
        (if x.toNat % 8388608 = 0 then .inf (x.getLsbD 31) else .nan (!x.getLsbD 22))
      else if x.toNat / 8388608 % 256 = 0 then .fin (x.getLsbD 31) (if ftzOn p = true then 0 else x.toNat % 8388608) (-149)
      else .fin (x.getLsbD 31) (x.toNat % 8388608 + 8388608) ((x.toNat / 8388608 % 256 : Nat) - 150) := by
  have quiet : decide (x.toNat % 8388608 < 4194304) = !x.getLsbD 22 := by
    rw [getLsbD_eq_decide, Bool.eq_iff_iff]
    simp only [decide_eq_true_eq, Bool.not_eq_true', decide_eq_false_iff_not]
    omega
  rw [f32_fields, fp32_ofFields, quiet]
  have sub := subnormal_fields x
  generalize x.toNat / 8388608 % 256 = E at *
  generalize x.toNat % 8388608 = F at *
  by_cases top : E = 255
  · by_cases zero : F = 0 <;> simp [top, zero]
  · by_cases low : E = 0
    · by_cases zero : F = 0
      · simp [low, zero]
      · simp [low, sub.2 ⟨low, zero⟩]
        split <;> rfl
    · have normal : fp32.subnormal x.toNat = false := Bool.eq_false_iff.2 fun h => low (sub.1 h).1
      simp [top, low, normal]

/-! ### Comparisons (R202) -/

/-- How two finite values compare, in common units. -/
theorem compare_finite {ma mb : Nat} {na nb : Bool} {ea eb lo : Int} (ha : lo ≤ ea) (hb : lo ≤ eb) :
    (Num.fin na ma ea).compare (.fin nb mb eb) =
      if signedUnits lo na ma ea < signedUnits lo nb mb eb then .lt
      else if signedUnits lo na ma ea = signedUnits lo nb mb eb then .eq else .gt := by
  have opposite : signedUnits lo (!nb) mb eb = -signedUnits lo nb mb eb := by cases nb <;> simp [signedUnits]
  have total : sumUnits lo [⟨na, ma, ea⟩, ⟨!nb, mb, eb⟩] = signedUnits lo na ma ea - signedUnits lo nb mb eb := by
    simp [sumUnits, opposite, Int.sub_eq_add_neg]
  obtain ⟨neg, zero⟩ := sumUnits_sign (above_pair (t := ⟨na, ma, ea⟩) (u := ⟨!nb, mb, eb⟩) ha hb) (above_lowestOf 4096 _)
  simp only [Num.compare, sumTerms_eq, ← neg, ← zero, total, sub_neg, sub_eq_zero]

/-- The relation that each code of fsetp names, of values that compare as o. -/
theorem floatCond_numbers {c : Nat} {a b : Num} (hc : c ≤ 11) (ha : a.isNan = false) (hb : b.isNan = false)
    (sa : a.isSnan = false) (sb : b.isSnan = false) :
    floatCond c a b = ([a.compare b == .eq, a.compare b != .eq, a.compare b == .lt, a.compare b != .gt, a.compare b == .gt,
      a.compare b != .lt, false, true, a.compare b == .lt, a.compare b != .gt, a.compare b == .gt,
      a.compare b != .lt].getD c false, false) := by
  interval_cases c <;> simp [floatCond, ha, hb, sa, sb]

theorem floatCond_finite {c ma mb : Nat} {na nb : Bool} {ea eb : Int} (hc : c ≤ 11) :
    let x := signedUnits (min ea eb) na ma ea
    let y := signedUnits (min ea eb) nb mb eb
    floatCond c (.fin na ma ea) (.fin nb mb eb) =
      ([decide (x = y), decide (x ≠ y), decide (x < y), decide (x ≤ y), decide (y < x), decide (y ≤ x), false, true,
        decide (x < y), decide (x ≤ y), decide (y < x), decide (y ≤ x)].getD c false, false) := by
  intro x y
  rw [floatCond_numbers hc rfl rfl rfl rfl, compare_finite (Int.min_le_left ea eb) (Int.min_le_right ea eb)]
  rcases Int.lt_trichotomy x y with lt | eq | gt
  · simp [x, y] at lt
    simp [x, y, lt, lt.le, lt.ne, Int.not_lt.2 lt.le, Int.not_le.2 lt]
    rfl
  · simp [x, y] at eq
    simp [x, y, eq]
    rfl
  · simp [x, y] at gt
    simp [x, y, gt, gt.le, gt.ne', Int.not_lt.2 gt.le, Int.not_le.2 gt]
    rfl

/-- A comparison with a NaN (R202). -/
theorem floatCond_nan {c : Nat} {x y : Num} (hc : c ≤ 11) (h : (x.isNan || y.isNan) = true) :
    floatCond c x y = (decide (c = 1 ∨ c = 6), decide (8 ≤ c) || x.isSnan || y.isSnan) := by
  interval_cases c <;> simp [floatCond, h]

/-- An infinity compares as a value beyond every finite one. -/
theorem floatCond_infinite (c m : Nat) (n k : Bool) (e : Int) :
    floatCond c (.inf n) (.fin k m e) = floatCond c (.fin n 1 0) (.fin false 0 0) ∧
      floatCond c (.fin k m e) (.inf n) = floatCond c (.fin false 0 0) (.fin n 1 0) ∧
      floatCond c (.inf n) (.inf k) = floatCond c (.fin n 1 0) (.fin k 1 0) := by
  have left : (Num.inf n).compare (.fin k m e) = (Num.fin n 1 0).compare (.fin false 0 0) := by cases n <;> rfl
  have right : (Num.fin k m e).compare (.inf n) = (Num.fin false 0 0).compare (.fin n 1 0) := by cases n <;> rfl
  have both : (Num.inf n).compare (.inf k) = (Num.fin n 1 0).compare (.fin k 1 0) := by cases n <;> cases k <;> rfl
  simp only [floatCond, left, right, both]
  exact ⟨rfl, rfl, rfl⟩

/-! ### Classes (R204) -/

theorem classOf_bits (p : State) (x : Word) :
    classOf p x = if x.toNat / 8388608 % 256 = 255 then
        (if x.toNat % 8388608 = 0 then (if x.getLsbD 31 = true then 4 else 0x200) else if x.toNat % 8388608 < 4194304 then 1 else 2)
      else if x.toNat / 8388608 % 256 ≠ 0 then (if x.getLsbD 31 = true then 8 else 0x100)
      else if x.toNat % 8388608 = 0 ∨ ftzOn p = true then (if x.getLsbD 31 = true then 0x20 else 0x40)
      else (if x.getLsbD 31 = true then 0x10 else 0x80) := by
  have sub := subnormal_fields x
  rw [classOf, f32_fields, fp32_ofFields]
  generalize x.toNat / 8388608 % 256 = E at *
  generalize x.toNat % 8388608 = F at *
  generalize x.getLsbD 31 = n at *
  by_cases top : E = 255
  · by_cases zero : F = 0
    · cases n <;> simp [top, zero]
    · by_cases quiet : F < 4194304 <;> simp [top, zero, quiet]
  · by_cases low : E = 0
    · by_cases zero : F = 0
      · cases ftzOn p <;> simp [low, zero, Bool.eq_false_iff.2 fun h => (sub.1 h).2 zero]
      · obtain ⟨k, rfl⟩ := Nat.exists_eq_succ_of_ne_zero zero
        cases h : ftzOn p <;> simp [low, sub.2 ⟨low, zero⟩]
    · have normal : fp32.subnormal x.toNat = false := Bool.eq_false_iff.2 fun h => low (sub.1 h).1
      obtain ⟨k, hk⟩ : ∃ k, F + 8388608 = k + 1 := ⟨F + 8388607, by omega⟩
      cases n <;> simp only [top, low, normal, hk, if_false, Bool.and_false, Bool.false_eq_true, ne_eq, not_false_eq_true, if_true]

/-! ### Values rounded to integers (R204, R209) -/

theorem units_mul (lo e : Int) (m : Nat) : (units lo e m : Int) = m * units lo e 1 := by simp [units]

/-- An exact value rounded to an integer, and whether it is inexact. -/
theorem toInteger_rounds (mode : Nat) (neg : Bool) (m : Nat) (e : Int) :
    Rounds mode (signedUnits (min e 0) neg m e) (units (min e 0) 0 1) (toInteger mode neg m e).1 ∧
      ((toInteger mode neg m e).2 = true ↔
        (toInteger mode neg m e).1 * units (min e 0) 0 1 ≠ signedUnits (min e 0) neg m e) := by
  obtain ⟨⟨nearest, inward, outward⟩, exact⟩ := roundAt_roundsTo mode neg m (Int.min_le_left e 0) (Int.min_le_right e 0)
  simp only [toInteger]
  generalize roundAt mode neg m e 0 false = R at *
  rw [units_mul _ 0 R.1] at nearest inward outward exact
  have positive : (0 : Int) ≤ units (min e 0) 0 1 := Int.natCast_nonneg _
  generalize (units (min e 0) 0 1 : Int) = one at *
  have nonneg : 0 ≤ (R.1 : Int) * one := Int.mul_nonneg (Int.natCast_nonneg _) positive
  have opposite : -(R.1 : Int) * one = -(R.1 * one) := Int.neg_mul _ _
  cases neg
  · simp only [signedUnits, Bool.false_eq_true, if_false]
    refine ⟨⟨fun h => ?_, fun h => inward (h.elim (fun h => .inr (.inl ⟨h, rfl⟩)) fun h => .inl h.1), fun h => ?_⟩, exact⟩
    · have := nearest h
      omega
    · rcases h with h | ⟨h, neg⟩
      · exact outward (.inr ⟨h, rfl⟩)
      · omega
  · simp only [signedUnits, if_true]
    refine ⟨⟨fun h => ?_, fun h => ?_, fun h => ?_⟩, exact.trans (by omega)⟩
    · have := nearest h
      omega
    · rcases h with h | ⟨h, pos⟩
      · have := outward (.inl ⟨h, rfl⟩)
        omega
      · have := inward (.inl h)
        omega
    · have := inward (h.elim (fun h => .inr (.inr ⟨h, rfl⟩)) fun h => .inl h.1)
      omega

/-- The magnitude that a value has as a rounded integer. -/
theorem toInteger_natAbs (mode : Nat) (neg : Bool) (m : Nat) (e : Int) :
    (toInteger mode neg m e).1.natAbs = (roundAt mode neg m e 0 false).1 ∧
      (toInteger mode neg m e).1 = if neg = true then -((toInteger mode neg m e).1.natAbs : Int) else (toInteger mode neg m e).1.natAbs := by
  cases neg <;> simp [toInteger]

/-- Equal values in some units, and in others. -/
theorem units_trans {lo lo' lo'' a b c : Int} {x y z : Nat} (ha : lo ≤ a) (hb : lo ≤ b) (hb' : lo' ≤ b) (hc' : lo' ≤ c)
    (ha'' : lo'' ≤ a) (hc'' : lo'' ≤ c) (one : units lo a x = units lo b y) (two : units lo' b y = units lo' c z) :
    units lo'' a x = units lo'' c z := by
  have low : min lo (min lo' lo'') ≤ lo ∧ min lo (min lo' lo'') ≤ lo' ∧ min lo (min lo' lo'') ≤ lo'' := by omega
  rw [units_eq_iff (lo' := min lo (min lo' lo'')) ha'' hc'' (by omega) (by omega)]
  exact ((units_eq_iff ha hb (by omega) (by omega) x y).1 one).trans ((units_eq_iff hb' hc' (by omega) (by omega) y z).1 two)

/-- A value of the precision of a format with infinities, not above its highest exponent, is in range. -/
theorem past_normal {f : Fmt} {n : Nat} {q : Int} (ieee : f.top = .ieee) (hn : n < 2 ^ (f.mb + 1))
    (exp : q + (Nat.log2 n : Int) ≤ (2 ^ f.eb - 2 : Nat) - (f.bias : Int)) : f.past n q = false := by
  rcases Nat.eq_zero_or_pos n with rfl | pos
  · simp [Fmt.past]
  · simp only [Fmt.past, ieee, pos.ne', if_false, Bool.or_eq_false_iff, decide_eq_false_iff_not, Bool.and_eq_false_iff, gt_iff_lt,
      Int.not_lt, Nat.not_lt]
    refine ⟨exp, or_iff_not_imp_left.2 fun top => Nat.le_sub_one_of_lt ?_⟩
    have long : Nat.log2 n < f.mb + 1 := (Nat.log2_lt pos.ne').2 hn
    simp only [not_or, not_not] at top
    calc n * _ < 2 ^ (Nat.log2 n + 1) * _ := Nat.mul_lt_mul_of_pos_right Nat.lt_log2_self (Nat.two_pow_pos _)
      _ = _ := (Nat.pow_add _ _ _).symm
      _ ≤ 2 ^ (f.mb + 1) := Nat.pow_le_pow_right Nat.two_pos (by omega)

/-- A value of FP32's precision and range keeps its value (R63). -/
theorem decode_exact {M : Nat} {E : Int} (neg : Bool) (pos : 0 < M) (small : M < 16777216) (low : -149 ≤ E) (high : E ≤ 104) :
    ∃ n q, fp32.decode (fp32.finite 0 false false neg M E false).bits = .fin neg n q ∧
      units (min q E) q n = units (min q E) E M := by
  have hq := round_q fp32 0 neg E false pos
  have long : Nat.log2 M < 24 := (Nat.log2_lt pos.ne').2 small
  have coarse : (fp32.round 0 neg M E false).q ≤ E := by
    rw [hq]
    simp only [Fmt.precise, Fmt.lowest]
    omega
  have hn : (fp32.round 0 neg M E false).n = M * 2 ^ (E - (fp32.round 0 neg M E false).q).toNat := by
    rw [round_n, roundAt_of_le coarse]
  have range : (fp32.round 0 neg M E false).beyond = false := by
    rw [round_beyond]
    refine past_normal rfl ?_ ?_
    · rw [hn, ← Nat.log2_lt (Nat.mul_pos pos (Nat.two_pow_pos _)).ne', log2_mul_pow pos, hq]
      simp only [Fmt.precise, Fmt.lowest]
      omega
    · rw [hn, log2_mul_pow pos]
      simp only [show (2 ^ fp32.eb - 2 : Nat) = 254 by decide]
      omega
  obtain ⟨n, q, code, value⟩ := decode_finite_units (f := fp32) (by decide) (by decide) (sat := false) pos range
  refine ⟨n, q, code, ?_⟩
  have same : units (fp32.round 0 neg M E false).q (fp32.round 0 neg M E false).q (fp32.round 0 neg M E false).n =
      units (fp32.round 0 neg M E false).q E M := by
    rw [units_self, hn]
    rfl
  exact units_trans (Int.min_le_left _ _) (Int.min_le_right _ _) (le_refl _) coarse (Int.min_le_left _ _) (Int.min_le_right _ _) value same

/-- The bounds of an FP32 operand. -/
theorem f32_bounds {p : State} {x : Word} {neg : Bool} {m : Nat} {e : Int} (h : f32 p x = .fin neg m e) :
    m < 16777216 ∧ -149 ≤ e ∧ e ≤ 104 := by
  rw [f32_bits] at h
  have exp : x.toNat / 8388608 % 256 < 256 := Nat.mod_lt _ (by decide)
  have frac : x.toNat % 8388608 < 8388608 := Nat.mod_lt _ (by decide)
  generalize x.toNat / 8388608 % 256 = E at *
  generalize x.toNat % 8388608 = F at *
  split at h
  · split at h <;> cases h
  · split at h <;> cases h
    · split <;> omega
    · omega

/-- The magnitude of an FP32 operand rounded to an integer has FP32's precision. -/
theorem integer_precise {mode : Nat} {neg : Bool} {m : Nat} {e : Int} (small : m < 16777216) (low : -149 ≤ e) (high : e ≤ 104) :
    ∃ M E, M < 16777216 ∧ 0 ≤ E ∧ E ≤ 104 ∧ (roundAt mode neg m e 0 false).1 = units 0 E M := by
  by_cases whole : 0 ≤ e
  · exact ⟨m, e, small, whole, high, by rw [roundAt_of_le whole]; rfl⟩
  · refine ⟨_, 0, ?_, le_refl _, by omega, (units_self 0 _).symm⟩
    refine (roundAt_floor mode neg false m (Int.not_le.1 whole)).2.trans_lt ?_
    have half : m / 2 ^ (0 - e).toNat ≤ m / 2 := Nat.div_le_div_left (Nat.le_self_pow (by omega) 2) Nat.two_pos
    omega

/-- The integral value of a finite operand is encoded exactly (R204). -/
theorem roundIntegral_finite {p : State} {m : Nat} {x : Word} {n : Bool} {k : Nat} {e : Int} (h : f32 p x = .fin n k e) :
    ∃ (v : Int) (i : Nat) (q : Int),
      Rounds (if m = 4 then roundMode p else m) (signedUnits (min e 0) n k e) (units (min e 0) 0 1) v ∧
      (roundIntegral p m x).fx = 0 ∧ fp32.decode (roundIntegral p m x).bits = .fin n i q ∧
      signedUnits (min q 0) n i q = v * units (min q 0) 0 1 := by
  obtain ⟨small, low, high⟩ := f32_bounds h
  have result : roundIntegral p m x = { bits := (fp32.finite 0 false false n
      (toInteger (if m = 4 then roundMode p else m) n k e).1.natAbs 0 false).bits } := by
    simp only [roundIntegral, h]
  rw [result]
  generalize (if m = 4 then roundMode p else m) = mode
  obtain ⟨M, E, hM, hE, hE', value⟩ := integer_precise (mode := mode) (neg := n) small low high
  obtain ⟨magnitude, signed⟩ := toInteger_natAbs mode n k e
  have encoded : ∃ i q, fp32.decode (fp32.finite 0 false false n (toInteger mode n k e).1.natAbs 0 false).bits = .fin n i q ∧
      units (min q 0) q i = units (min q 0) 0 (toInteger mode n k e).1.natAbs := by
    rw [magnitude, value, finite_units fp32 0 false false n M hE]
    rcases Nat.eq_zero_or_pos M with rfl | pos
    · have zero : fp32.finite 0 false false n 0 E false = { bits := fp32.signed n 0 } := rfl
      exact ⟨0, -149, by rw [zero]; cases n <;> decide, by simp [units_zero]⟩
    · obtain ⟨i, q, code, same⟩ := decode_exact n pos hM (by omega) hE'
      exact ⟨i, q, code, units_trans (Int.min_le_left q E) (Int.min_le_right q E) hE (le_refl 0) (Int.min_le_left q 0)
        (Int.min_le_right q 0) same (units_self 0 _).symm⟩
  obtain ⟨i, q, code, same⟩ := encoded
  refine ⟨_, i, q, (toInteger_rounds mode n k e).1, rfl, code, ?_⟩
  rw [signed, signedUnits, same, units_mul _ 0 (toInteger mode n k e).1.natAbs]
  split
  · rw [Int.neg_mul]
  · rfl

end Sys2Proof.Machine
end

section
/-! The FP32 lane instructions. -/

namespace Sys2Proof.Laws

open Sys2Proof.Machine

/-- Settles O7: each arm writes its results and gathers what its lanes raise; operands, comparisons, classes and integral values
follow from the fields of the format. -/
theorem floatingPointLanes : Obligations.FloatingPointLanes := by
  refine ⟨fun d a b => ?wide, fun d a => ?short, fun d a => ?unary, f32_bits, fun _ _ _ _ _ _ _ => floatCond_finite,
    fun _ _ _ => floatCond_nan, floatCond_infinite, classOf_bits, fun p m x _ => ⟨fun g h => ?nan, fun n h => ?inf, fun n k e h => ?fin⟩⟩
  case wide =>
    iterate 15 refine ⟨lanesGive_of_own (fun _ => by delta exec; exact rfl) fun _ => rfl, ?_⟩
    exact lanesGive_of_own (fun _ => by delta exec; exact rfl) fun _ => rfl
  case short =>
    iterate 5 refine ⟨lanesGive_of_own (fun _ => by delta exec; exact rfl) fun _ => rfl, ?_⟩
    exact gives_of_done fun _ => rfl
  case unary =>
    iterate 8 refine ⟨lanesGive_of_own (fun _ => by delta exec; exact rfl) fun _ => rfl, ?_⟩
    refine ⟨fun _ => lanesGive_of_own (fun _ => by delta exec; exact rfl) fun _ => rfl, ?_⟩
    iterate 3 refine ⟨gives_of_done fun _ => rfl, ?_⟩
    exact ⟨fun _ _ _ _ => compareGives_of_own (fun _ => by delta exec; exact rfl) fun _ => rfl,
      fun _ _ _ _ => compareGives_of_own (fun _ => by delta exec; exact rfl) fun _ => rfl⟩
  case nan =>
    simp only [roundIntegral, h]
    rfl
  case inf =>
    simp only [roundIntegral, h]
    cases n <;> rfl
  case fin => exact roundIntegral_finite h

end Sys2Proof.Laws
end

section
/-! Conversions to and from integers, and the scales and elements of MX blocks (R209, R210, R214, R215). -/

namespace Sys2Proof.Machine

/-! ### Selectors (R208) -/

theorem intRange_eq {c : Nat} (h : c ≤ 5) :
    intRange c = ([-2147483648, 0, -32768, 0, -128, 0].getD c 0, [2147483647, 4294967295, 32767, 65535, 127, 255].getD c 0) := by
  interval_cases c <;> rfl

/-- Every integer code's range holds 0. -/
theorem intRange_zero (c : Nat) : (intRange c).1 ≤ 0 ∧ 0 ≤ (intRange c).2 := by
  unfold intRange
  split <;> decide

theorem fmtOf_wide {c : Nat} (h : c ≤ 2) : fmtOf c = [fp32, fp16, bf16].getD c fp32 := by interval_cases c <;> rfl

theorem intRounding_eq (p : State) {r : Nat} (h : r < 4) : intRounding p r = [1, 0, roundMode p, 2].getD r 0 := by
  interval_cases r <;> rfl

theorem intValue_eq (x : Word) {c : Nat} (h : c ≤ 5) :
    intValue c x = [x.toInt, (x.toNat : Int), (x.extractLsb' 0 16).toInt, (x.toNat % 65536 : Nat), (x.extractLsb' 0 8).toInt,
      (x.toNat % 256 : Nat)].getD c 0 := by
  have low (w : Nat) (hw : w ≤ 32) : x.truncate w = x.extractLsb' 0 w := by
    ext k
    simp
  interval_cases c
  · rfl
  · rfl
  · exact congrArg BitVec.toInt (low 16 (by decide))
  · exact congrArg Int.ofNat (BitVec.toNat_setWidth 16 x)
  · exact congrArg BitVec.toInt (low 8 (by decide))
  · exact congrArg Int.ofNat (BitVec.toNat_setWidth 8 x)

/-! ### Float to integer (R209) -/

/-- A value rounded to an integer keeps its sign. -/
theorem toInteger_sign (mode : Nat) (neg : Bool) (m : Nat) (e : Int) :
    ((toInteger mode neg m e).1 < 0 → neg = true) ∧ (0 < (toInteger mode neg m e).1 → neg = false) := by
  cases neg <;> simp [toInteger]

theorem floatToInt_finite {p : State} {c : Nat} {x : Word} {n : Bool} {k : Nat} {e : Int}
    (h : (fmtOf (c % 4)).operand (ftzOn p) x.toNat = .fin n k e) :
    let v := (toInteger (intRounding p (c / 32)) n k e).1
    floatToInt p c x = if v < (intRange (c / 4 % 8)).1 then { words := [BitVec.ofInt 32 (intRange (c / 4 % 8)).1], fx := 1, sat := 1 }
      else if (intRange (c / 4 % 8)).2 < v then { words := [BitVec.ofInt 32 (intRange (c / 4 % 8)).2], fx := 1, sat := 1 }
      else { words := [BitVec.ofInt 32 v], fx := if v * units (min e 0) 0 1 = signedUnits (min e 0) n k e then 0 else 16
             flush := if k ≠ 0 ∧ v = 0 then 1 else 0 } := by
  obtain ⟨low, high⟩ := intRange_zero (c / 4 % 8)
  obtain ⟨negative, positive⟩ := toInteger_sign (intRounding p (c / 32)) n k e
  have exact := (toInteger_rounds (intRounding p (c / 32)) n k e).2
  simp only [floatToInt, h]
  generalize toInteger (intRounding p (c / 32)) n k e = r at *
  generalize intRange (c / 4 % 8) = range at *
  rcases lt_or_ge r.1 range.1 with below | notBelow
  · simp [below, negative (by omega)]
  · rcases lt_or_ge range.2 r.1 with above | notAbove
    · simp [Int.not_lt.2 notBelow, above, positive (by omega)]
    · have inexact : (if r.2 = true then 16 else 0) =
          if r.1 * (units (min e 0) 0 1 : Int) = signedUnits (min e 0) n k e then 0 else 16 := by
        simp only [exact, ite_not]
      simp [Int.not_lt.2 notBelow, Int.not_lt.2 notAbove, inexact, b2n]

/-! ### Scales of blocks (R214) -/

theorem mxScale_nan {g : Int} {xs : List Num} (h : ∃ x ∈ xs, (x.isNan || x.isInf) = true) : mxScale g xs = 255 := by
  simp only [mxScale, List.any_eq_true.2 h, if_true]

/-- What a value that is not 0 adds to the choice of a block's scale. -/
def topOf (x : Num) : Option Int :=
  match x with
  | .fin _ m e => if m = 0 then none else some (floorLog2 m e)
  | _ => none

theorem mxScale_finite {g : Int} {xs : List Num} (h : ∀ x ∈ xs, ∃ n m e, x = .fin n m e) :
    mxScale g xs = match xs.filterMap topOf with
      | [] => 0x7F
      | k :: ks => (satInt (ks.foldl (fun x y => if x < y then y else x) k - g + 127) 0 254).toNat := by
  have finite : xs.any (fun x => x.isNan || x.isInf) = false := by
    rw [List.any_eq_false]
    intro x hx
    obtain ⟨n, m, e, rfl⟩ := h x hx
    exact Bool.false_ne_true
  simp only [mxScale, finite, Bool.false_eq_true, if_false]
  rfl

theorem mxScale_zeros {g : Int} {xs : List Num} (h : ∀ x ∈ xs, ∃ n e, x = .fin n 0 e) : mxScale g xs = 127 := by
  have none_ : xs.filterMap topOf = [] := by
    rw [List.filterMap_eq_nil_iff]
    intro x hx
    obtain ⟨n, e, rfl⟩ := h x hx
    rfl
  rw [mxScale_finite fun x hx => (h x hx).imp fun n ⟨e, eq⟩ => ⟨0, e, eq⟩, none_]

/-- The largest of a list, kept by the fold of `mxScale`. -/
theorem foldl_largest (k : Int) (ks : List Int) :
    let top := ks.foldl (fun x y => if x < y then y else x) k
    top ∈ k :: ks ∧ ∀ y ∈ k :: ks, y ≤ top := by
  induction ks generalizing k with
  | nil => simp
  | cons y ys ih =>
    obtain ⟨mem, largest⟩ := ih (if k < y then y else k)
    have step : k ≤ (if k < y then y else k) ∧ y ≤ (if k < y then y else k) := by split <;> omega
    have first := largest _ List.mem_cons_self
    refine ⟨?_, fun z hz => ?_⟩
    · rcases List.mem_cons.1 mem with eq | mem
      · rw [List.foldl_cons, eq]
        split <;> simp
      · exact List.mem_cons_of_mem _ (List.mem_cons_of_mem _ mem)
    · rcases List.mem_cons.1 hz with rfl | hz
      · exact step.1.trans first
      · rcases List.mem_cons.1 hz with rfl | hz
        · exact step.2.trans first
        · exact largest z (List.mem_cons_of_mem _ hz)

/-- ⌊log2⌋ of a value, from its number of units. -/
theorem floorLog2_units {lo e : Int} {m : Nat} (pos : 0 < m) (h : lo ≤ e) :
    floorLog2 m e = lo + (Nat.log2 (units lo e m) : Int) := by
  rw [units, log2_mul_pow pos, floorLog2]
  omega

theorem floorLog2_mono {m k : Nat} {q e : Int} (pos : 0 < m) (h : units (min q e) q m ≤ units (min q e) e k) :
    floorLog2 m q ≤ floorLog2 k e := by
  have some : 0 < units (min q e) q m := units_pos pos
  have kpos : 0 < k := Nat.pos_of_ne_zero fun zero => by
    rw [zero, units_zero] at h
    omega
  rw [floorLog2_units pos (Int.min_le_left q e), floorLog2_units kpos (Int.min_le_right q e)]
  have log : Nat.log2 (units (min q e) q m) ≤ Nat.log2 (units (min q e) e k) :=
    (Nat.le_log2 (some.trans_le h).ne').2 ((Nat.log2_self_le some.ne').trans h)
  omega

theorem floorLog2_eq {k : Nat} {e i : Int} (low : units (min i e) i 1 ≤ units (min i e) e k)
    (high : units (min i e) e k < 2 * units (min i e) i 1) : 0 < k ∧ floorLog2 k e = i := by
  have pos : 0 < k := Nat.pos_of_ne_zero fun zero => by
    have := units_pos (lo := min i e) (e := i) Nat.one_pos
    rw [zero, units_zero] at low
    omega
  refine ⟨pos, ?_⟩
  have one : units (min i e) i 1 = 2 ^ (i - min i e).toNat := Nat.one_mul _
  rw [one] at low high
  rw [floorLog2_units pos (Int.min_le_right i e), log2_of_bounds low (by rw [Nat.pow_succ]; omega)]
  omega

/-- The scale of a block whose largest element has exponent i. -/
theorem mxScale_largest {g : Int} {xs : List Num} {n : Bool} {k : Nat} {e i : Int}
    (bound : ∀ x ∈ xs, ∃ n m q, x = .fin n m q ∧ units (min q e) q m ≤ units (min q e) e k) (mem : Num.fin n k e ∈ xs)
    (low : units (min i e) i 1 ≤ units (min i e) e k) (high : units (min i e) e k < 2 * units (min i e) i 1) :
    mxScale g xs = (max 0 (min 254 (i - g + 127))).toNat := by
  obtain ⟨pos, exp⟩ := floorLog2_eq low high
  have all : ∀ y ∈ xs.filterMap topOf, y ≤ i := by
    intro y hy
    obtain ⟨x, hx, top⟩ := List.mem_filterMap.1 hy
    obtain ⟨n', m, q, rfl, le⟩ := bound x hx
    simp only [topOf] at top
    split at top
    · cases top
    · cases top
      exact exp ▸ floorLog2_mono (by omega) le
  have here : i ∈ xs.filterMap topOf := List.mem_filterMap.2 ⟨_, mem, by simp [topOf, pos.ne', exp]⟩
  rw [mxScale_finite fun x hx => by obtain ⟨n, m, q, eq, -⟩ := bound x hx; exact ⟨n, m, q, eq⟩]
  cases tops : xs.filterMap topOf with
  | nil =>
    rw [tops] at here
    exact absurd here List.not_mem_nil
  | cons y ys =>
    obtain ⟨mem, largest⟩ := foldl_largest y ys
    rw [tops] at all here
    have eq := Int.le_antisymm (all _ mem) (largest i here)
    simp only [eq, satInt]
    congr 1
    split
    · omega
    · split <;> omega

theorem blockElements_getElem (p : State) (r : Nat) {l : Nat} (h : l < 32) :
    (blockElements p r)[l]? = some (if p.sq.cur.enabled.getLsbD l = true then f32 p (p.v r l) else .fin false 0 0) := by
  simp [blockElements, List.getElem?_range h]

/-! ### MXINT8 elements (R215) -/

theorem mxLane_nan {f : BitVec 1} {X : Nat} {x : Num} (h : X = 255 ∨ x.isNan = true) :
    mxLane f X x = { words := [BitVec.ofNat 32 (X * 256)], fx := 0, nan := 1 } := by
  have int8 : mxInt8 X x = (0, 0, 0, 1) := by
    rcases h with rfl | h <;> cases x <;> simp_all [mxInt8, Num.isNan]
  have fp4 : mxFp4 X x = (0, 0, 0, 1) := by
    rcases h with rfl | h <;> cases x <;> simp_all [mxFp4, Num.isNan]
  simp [mxLane, int8, fp4]

theorem mxLane_int8 {X : Nat} (k : Nat) (n : Bool) (e : Int) (h : X < 255) :
    let v := (toInteger 0 n k (e + 133 - (X : Int))).1
    let u := max (-128) (min 127 v)
    mxLane 0 X (.fin n k e) = { words := [BitVec.ofNat 32 ((BitVec.ofInt 8 u).toNat + X * 256)], fx := 0
                                sat := if u = v then 0 else 1, flush := if k ≠ 0 ∧ u = 0 then 1 else 0 } := by
  intro v u
  have cap : satInt v (-128) 127 = u := by
    simp only [satInt, u]
    split
    · omega
    · split <;> omega
  have code : mxInt8 X (.fin n k e) = ((BitVec.ofInt 8 u).toNat, b2n (u != v), b2n (k != 0 && u == 0), 0) := by
    simp only [mxInt8, h.ne, if_false]
    rw [show (toInteger 0 n k (e + 133 - (X : Int))).1 = v from rfl, cap]
  simp [mxLane, code, b2n]

end Sys2Proof.Machine
end

section
/-! MXFP4 elements: the nearest E2M1 magnitude (R215). -/

namespace Sys2Proof.Machine

/-- Code i is the nearest of E2M1's magnitudes to z, where o is one half, ties to even codes. -/
def NearestFp4 (o z : Int) (i : Nat) : Prop :=
  i < 8 ∧ ∀ j, j < 8 →
    (([0, 1, 2, 3, 4, 6, 8, 12].getD i 0 : Int) * o - z).natAbs ≤ (([0, 1, 2, 3, 4, 6, 8, 12].getD j 0 : Int) * o - z).natAbs ∧
    ((([0, 1, 2, 3, 4, 6, 8, 12].getD i 0 : Int) * o - z).natAbs = (([0, 1, 2, 3, 4, 6, 8, 12].getD j 0 : Int) * o - z).natAbs →
      j = i ∨ i % 2 = 0)

/-- Twice the midpoint of E2M1's magnitudes i and i + 1, in halves. -/
def fp4Mid (i : Nat) : Int := [1, 3, 5, 7, 10, 14, 20].getD i 0

/-- A magnitude is nearest when its midpoints with its neighbours are not passed, nor met by an odd code. -/
theorem nearestFp4_of_mids {o z : Int} {i : Nat} (hi : i < 8) (some : 0 < o)
    (below : 0 < i → fp4Mid (i - 1) * o ≤ 2 * z ∧ (fp4Mid (i - 1) * o = 2 * z → i % 2 = 0))
    (above : i < 7 → 2 * z ≤ fp4Mid i * o ∧ (2 * z = fp4Mid i * o → i % 2 = 0)) (zero : 0 ≤ z) : NearestFp4 o z i := by
  refine ⟨hi, fun j hj => ?_⟩
  interval_cases i <;> simp [fp4Mid] at below above ⊢ <;> interval_cases j <;> simp <;> omega

/-- The code of a rounded E2M1 magnitude, as the multiple that it is rounded to. -/
theorem e2m1_code {N : Nat} {q : Int} (hq : -1 ≤ q) (hn : N ≤ 4) (norm : -1 < q → 2 ≤ N) :
    (q = -1 ∧ e2m1.past N q = false ∧ e2m1.encode N q = N) ∨
    (q = 0 ∧ e2m1.past N q = false ∧ e2m1.encode N q = N + 2) ∨
    (q = 1 ∧ N ≤ 3 ∧ e2m1.past N q = false ∧ e2m1.encode N q = N + 4) ∨
    ((q = 1 ∧ N = 4 ∨ 2 ≤ q) ∧ e2m1.past N q = true) := by
  rcases lt_or_ge q 2 with small | large
  · interval_cases q
    · exact .inl (by interval_cases N <;> decide)
    · have := norm (by decide)
      exact .inr (.inl (by interval_cases N <;> decide))
    · have := norm (by decide)
      exact .inr (.inr (by interval_cases N <;> decide))
  · have len : 1 ≤ Nat.log2 N := (Nat.le_log2 (by have := norm (by omega); omega)).2 (norm (by omega))
    have pos : N ≠ 0 := by have := norm (by omega); omega
    refine .inr (.inr (.inr ⟨.inr large, ?_⟩))
    simp only [Fmt.past, pos, if_false, Bool.or_eq_true, decide_eq_true_eq]
    exact .inl (by simp; omega)

/-- A value of more than a format's subnormals is at least its precision's power of two. -/
theorem units_precise (f : Fmt) {m : Nat} {e lo : Int} (pos : 0 < m) (he : lo ≤ e) (hq : lo ≤ f.precise m e) :
    units lo (f.precise m e) (2 ^ f.mb) ≤ units lo e m := by
  have top : lo + (Nat.log2 (units lo e m) : Int) = e + (Nat.log2 m : Int) := by
    have := floorLog2_units pos he
    rw [floorLog2] at this
    omega
  refine le_trans ?_ (Nat.log2_self_le (units_pos pos).ne')
  rw [units, ← Nat.pow_add]
  exact Nat.pow_le_pow_right Nat.two_pos (by unfold Fmt.precise at *; omega)

/-- A value that is not 0 as E2M1, in the terms of its rounding. -/
theorem e2m1_finite_eq (n : Bool) {k : Nat} (q : Int) (pos : 0 < k) :
    let r := e2m1.round 0 n k q false
    (e2m1.past r.n r.q = true → (e2m1.finite 0 false true n k q false).bits = (if n = true then 7 + 8 else 7) ∧
      (e2m1.finite 0 false true n k q false).sat = true ∧ (e2m1.finite 0 false true n k q false).flush = false) ∧
    (e2m1.past r.n r.q = false →
      (e2m1.finite 0 false true n k q false).bits = (if n = true then e2m1.encode r.n r.q + 8 else e2m1.encode r.n r.q) ∧
      (e2m1.finite 0 false true n k q false).sat = false ∧
      (e2m1.finite 0 false true n k q false).flush = (e2m1.encode r.n r.q == 0)) := by
  intro r
  constructor
  · intro past
    have beyond : (e2m1.round 0 n k q false).beyond = true := past
    simp [Fmt.finite, pos.ne', beyond, Fmt.signed, Fmt.largest]
  · intro past
    have beyond : (e2m1.round 0 n k q false).beyond = false := past
    simp [Fmt.finite, pos.ne', beyond, Fmt.signed, r]

/-- A rounded E2M1 magnitude in halves, and the midpoints it lies between. -/
theorem fp4_halves {lo Q : Int} (hlo : lo ≤ -1) (hQ : -1 ≤ Q) (N : Nat) :
    (units lo Q N : Int) = N * 2 ^ (Q + 1).toNat * units lo (-1) 1 := by
  rw [units_rebase hlo hQ, units_mul]
  push_cast
  rw [show (Q - -1).toNat = (Q + 1).toNat by omega]

/-- An MXFP4 element is the nearest E2M1 code, and saturates from 7 (R215). -/
theorem e2m1_finite (n : Bool) (k : Nat) (q : Int) :
    ∃ i, NearestFp4 (units (min q (-1)) (-1) 1) (units (min q (-1)) q k) i ∧
      (e2m1.finite 0 false true n k q false).bits = (if n = true then i + 8 else i) ∧
      (e2m1.finite 0 false true n k q false).sat =
        decide (14 * (units (min q (-1)) (-1) 1 : Int) ≤ (units (min q (-1)) q k : Int)) ∧
      (e2m1.finite 0 false true n k q false).flush = decide (k ≠ 0 ∧ i = 0) := by
  have half : (0 : Int) < units (min q (-1)) (-1) 1 := Int.natCast_pos.2 (units_pos Nat.one_pos)
  have zero : (0 : Int) ≤ units (min q (-1)) q k := Int.natCast_nonneg _
  rcases Nat.eq_zero_or_pos k with rfl | pos
  · refine ⟨0, nearestFp4_of_mids (by decide) half (by simp) (by simp [units_zero, fp4Mid]) zero, ?_⟩
    simp [Fmt.finite, Fmt.signed, units_zero]
    omega
  obtain ⟨hn, hlow, norm⟩ := round_bounds e2m1 0 n q false pos
  have hq := round_q e2m1 0 n q false pos
  obtain ⟨outside, within⟩ := e2m1_finite_eq n q pos
  have low : (-1 : Int) ≤ (e2m1.round 0 n k q false).q := hlow
  have most : (e2m1.round 0 n k q false).n ≤ 4 := hn
  have lo : min q (-1) ≤ (e2m1.round 0 n k q false).q := (Int.min_le_right _ _).trans low
  obtain ⟨⟨nearest, -, -⟩, -⟩ := round_roundsTo e2m1 0 n k q (min q (-1)) (Int.min_le_left _ _) lo
  have precise : -1 < (e2m1.round 0 n k q false).q →
      (units (min q (-1)) (e2m1.round 0 n k q false).q 2 : Int) ≤ units (min q (-1)) q k := fun above => by
    have eq : (e2m1.round 0 n k q false).q = e2m1.precise k q := by
      rw [hq] at above ⊢
      simp only [Fmt.lowest] at above ⊢
      omega
    rw [eq] at lo ⊢
    exact Int.ofNat_le.2 (units_precise e2m1 pos (Int.min_le_left _ _) lo)
  have near := nearest rfl
  rw [fp4_halves (Int.min_le_right _ _) low, fp4_halves (Int.min_le_right _ _) low] at near
  rw [fp4_halves (Int.min_le_right _ _) low] at precise
  generalize (e2m1.round 0 n k q false).q = Q at *
  generalize (e2m1.round 0 n k q false).n = N at *
  generalize (units (min q (-1)) (-1) 1 : Int) = o at *
  generalize (units (min q (-1)) q k : Int) = z at *
  have some : k ≠ 0 := pos.ne'
  rcases e2m1_code low hn norm with ⟨rfl, past, code⟩ | ⟨rfl, past, code⟩ | ⟨rfl, three, past, code⟩ | ⟨large, past⟩
  · obtain ⟨bits, sat, flush⟩ := within past
    rw [code] at bits flush
    refine ⟨N, nearestFp4_of_mids (by omega) half (fun _ => ?_) (fun _ => ?_) zero, bits, ?_, ?_⟩
    · interval_cases N <;> simp [fp4Mid] at * <;> omega
    · interval_cases N <;> simp [fp4Mid] at * <;> omega
    · rw [sat, eq_comm, decide_eq_false_iff_not]
      interval_cases N <;> simp at near <;> omega
    · rw [flush, Bool.eq_iff_iff]
      simp [some]
  · obtain ⟨bits, sat, flush⟩ := within past
    have two : 2 ≤ N := norm (by decide)
    rw [code] at bits flush
    refine ⟨N + 2, nearestFp4_of_mids (by omega) half (fun _ => ?_) (fun _ => ?_) zero, bits, ?_, ?_⟩
    · interval_cases N <;> simp [fp4Mid] at * <;> omega
    · interval_cases N <;> simp [fp4Mid] at * <;> omega
    · rw [sat, eq_comm, decide_eq_false_iff_not]
      interval_cases N <;> simp at near <;> omega
    · rw [flush]
      simp
  · obtain ⟨bits, sat, flush⟩ := within past
    have two : 2 ≤ N := norm (by decide)
    rw [code] at bits flush
    refine ⟨N + 4, nearestFp4_of_mids (by omega) half (fun _ => ?_) (fun _ => ?_) zero, bits, ?_, ?_⟩
    · interval_cases N <;> simp [fp4Mid] at * <;> omega
    · interval_cases N <;> simp [fp4Mid] at * <;> omega
    · rw [sat, eq_comm, decide_eq_false_iff_not]
      interval_cases N <;> simp at near <;> omega
    · rw [flush]
      simp
  · obtain ⟨bits, sat, flush⟩ := outside past
    have seven : 14 * o ≤ z := by
      rcases large with ⟨rfl, rfl⟩ | large
      · simp at near
        omega
      · have steep : (8 : Int) ≤ 2 ^ (Q + 1).toNat := by
          exact_mod_cast (Nat.pow_le_pow_right Nat.two_pos (show 3 ≤ (Q + 1).toNat by omega) : 2 ^ 3 ≤ 2 ^ (Q + 1).toNat)
        have full := precise (by omega)
        have scaled := mul_le_mul_of_nonneg_right steep half.le
        push_cast at full
        linarith
    refine ⟨7, nearestFp4_of_mids (by decide) half (fun _ => ?_) (fun h => absurd h (by decide)) zero, bits, ?_, ?_⟩
    · simp [fp4Mid]
      omega
    · rw [sat, eq_comm, decide_eq_true_iff]
      exact seven
    · rw [flush]
      simp

end Sys2Proof.Machine
end

section
/-! The packed, converting and quantising instructions. -/

namespace Sys2Proof.Laws

open Sys2Proof.Machine

/-- Settles O8: each arm writes its elements and counts them; integers, scales and codes follow from the exact values. -/
theorem packedAndConversions : Obligations.PackedAndConversions := by
  refine ⟨fun d a b c => ?arms, fun p c x hc src dst => ⟨fun g h => ?nan, fun n h => ?inf, fun n k e h => ?fin⟩,
    fun p c x _ src dst => ?ofInt, ⟨rfl, rfl⟩, fun p r l hl => blockElements_getElem p r hl, fun _ _ => mxScale_nan,
    fun _ _ => mxScale_zeros, fun _ _ _ _ _ _ => mxScale_largest, fun _ _ _ => mxLane_nan,
    fun X k n e h => ⟨_, (toInteger_rounds 0 n k _).1, mxLane_int8 k n e h⟩, fun X k n e h => ?fp4⟩
  case arms =>
    iterate 14 refine ⟨lanesGive_of_own (fun _ => by delta exec; exact rfl) fun _ => rfl, ?_⟩
    iterate 4 refine ⟨taggedGives_of_own (fun _ => by delta exec; exact rfl) fun _ => rfl, ?_⟩
    exact ⟨lanesGive_of_own (fun _ => by delta exec; exact rfl) fun _ => rfl, fun _ => gives_of_done fun _ => rfl,
      fun _ => taggedGives_of_own (fun _ => by delta exec; exact rfl) fun _ => rfl⟩
  case nan =>
    have operand : (fmtOf (c % 4)).operand (ftzOn p) x.toNat = .nan g := fmtOf_wide src ▸ h
    simp only [floatToInt, operand]
  case inf =>
    have operand : (fmtOf (c % 4)).operand (ftzOn p) x.toNat = .inf n := fmtOf_wide src ▸ h
    simp only [floatToInt, operand, intRange_eq dst]
  case fin =>
    have operand : (fmtOf (c % 4)).operand (ftzOn p) x.toNat = .fin n k e := fmtOf_wide src ▸ h
    have result := floatToInt_finite operand
    rw [intRange_eq dst, intRounding_eq p (show c / 32 < 4 by omega)] at result
    exact ⟨_, (toInteger_rounds _ n k e).1, result⟩
  case ofInt =>
    rw [intToFloat, intValue_eq x src, fmtOf_wide dst]
    rfl
  case fp4 =>
    obtain ⟨i, ⟨hi, nearest⟩, bits, sat, flush⟩ := e2m1_finite n k (e + 127 - (X : Int))
    refine ⟨i, hi, nearest, ?_⟩
    simp only [mxLane, mxFp4, h.ne, if_false, beq_self_eq_true, if_true]
    rw [bits, sat, flush]
    simp only [b2n, decide_eq_true_eq]

end Sys2Proof.Laws
end

section
/-! What the issue of memory and engine instructions leaves unchanged (R61, R127, R223, R249). -/

namespace Sys2Proof.Machine

/-! ### Steps of a check: they leave the squad, and where nothing waits to be written back, memory -/

/-- A step that leaves the squad, and every byte at its home where lines are legible and L1s hold nothing to write back. -/
structure Untouched (b t : State) : Prop where
  squad : t.sq = b.sq
  home  : Legible b → Settled b → SameMemory b t ∧ Legible t ∧ Settled t

theorem Untouched.refl (b : State) : Untouched b b := ⟨rfl, fun h k => ⟨fun _ => rfl, h, k⟩⟩

theorem Untouched.trans {b t u : State} (h : Untouched b t) (g : Untouched t u) : Untouched b u := by
  refine ⟨g.squad.trans h.squad, fun legible settled => ?_⟩
  obtain ⟨m, l, c⟩ := h.home legible settled
  obtain ⟨m', l', c'⟩ := g.home l c
  exact ⟨fun a => (m' a).trans (m a), l', c'⟩

theorem Untouched.of_calm {b t : State} (squad : t.sq = b.sq) (calm : Legible b → Calm b t) : Untouched b t :=
  ⟨squad, fun legible settled => ⟨(calm legible).quiet.memory, (calm legible).legible, fun x hx =>
    settled x ((calm legible).quiet.l1 ▸ hx)⟩⟩

theorem Untouched.foldl {α : Type} {f : State → α → State} (step : ∀ t a, Untouched t (f t a)) (l : List α) (b : State) :
    Untouched b (l.foldl f b) := by
  induction l generalizing b with
  | nil => exact Untouched.refl b
  | cons a l ih => exact (step b a).trans (ih _)

theorem Untouched.foldlFst {α β : Type} {f : State × β → α → State × β} (step : ∀ r a, Untouched r.1 (f r a).1) (l : List α)
    (r : State × β) : Untouched r.1 (l.foldl f r).1 := by
  induction l generalizing r with
  | nil => exact Untouched.refl r.1
  | cons a l ih => exact (step r a).trans (ih _)

/-- A step that changes neither cells, lines, codes nor sectors. -/
theorem home_of_eq {b t : State} (mem : t.mem = b.mem) (codes : t.codes = b.codes) (dev : t.dev = b.dev)
    (latent : t.latent = b.latent) (llc : t.llc = b.llc) (l1 : t.l1 = b.l1) (legible : Legible b) (settled : Settled b) :
    SameMemory b t ∧ Legible t ∧ Settled t := by
  refine ⟨SameMemory.of_eq mem codes (congrArg Device.mcwin dev), ⟨?_, ?_, ?_⟩, ?_⟩
  · rw [codes]
    exact legible.codes
  · rw [latent]
    exact legible.latent
  · intro l hl hd
    rw [heldCode_eq codes]
    exact legible.held l (llc ▸ hl) hd
  · exact fun x hx => settled x (l1 ▸ hx)

theorem resolve_untouched (s : State) (priv : Bool) (core ctx va : Nat) (need : Need) :
    Untouched s (resolve s priv core ctx va need).1 :=
  .of_calm (resolve_sq s priv core ctx va need) fun h => resolve_calm h priv core ctx va need

theorem countSurvey_untouched (s : State) (r k n : Nat) : Untouched s (s.countSurvey r k n) :=
  ⟨rfl, home_of_eq rfl rfl rfl rfl rfl rfl⟩

theorem setCrew_untouched (s : State) (c : Crew) : Untouched s (s.setCrew c) := ⟨rfl, home_of_eq rfl rfl rfl rfl rfl rfl⟩

theorem raceWrite_untouched (s : State) (crew o n : Nat) (strong : Bool) : Untouched s (raceWrite s crew o n strong) := by
  unfold raceWrite
  split
  · exact .refl s
  · split
    · exact .refl s
    · exact setCrew_untouched s _

theorem raceWrites_untouched (s : State) (sp : Space) (va : List (Nat × Nat)) (strong : Bool) :
    Untouched s (raceWrites s sp va strong) := by
  unfold raceWrites
  split
  · exact .refl s
  · split
    · exact .refl s
    · exact .foldl (fun t a => raceWrite_untouched t _ a.1 a.2 strong) va s

/-! ### L1 sectors that hold nothing to write back (R93, R127) -/

/-- Steps on a list of sectors, each of which leaves the squad, and everything of a clean sector but the sector itself. -/
theorem sectors_untouched {f : State → L1Sector → State} (squad : ∀ t x, (f t x).sq = t.sq)
    (clean : ∀ t x, x.dirty = 0 → Untouched t (f t x)) (s : State) (l : List L1Sector) (held : ∀ x ∈ l, x ∈ s.l1) :
    Untouched s (l.foldl f s) := by
  refine ⟨foldl_same (fun t : State => t.sq) squad l s, fun legible settled => ?_⟩
  have all : ∀ x ∈ l, x.dirty = 0 := fun x hx => (settled x (held x hx)).1
  clear held
  induction l generalizing s with
  | nil => exact (Untouched.refl s).home legible settled
  | cons x l ih =>
    obtain ⟨m, legible', settled'⟩ := (clean s x (all x List.mem_cons_self)).home legible settled
    obtain ⟨m', rest⟩ := ih (f s x) legible' settled' fun y hy => all y (List.mem_cons_of_mem x hy)
    exact ⟨fun a => (m' a).trans (m a), rest⟩

theorem writeBack_clean {s : State} {x : L1Sector} (h : x.dirty = 0) : writeBack s x = s := by
  simp [writeBack, L1Sector.pending, h]

theorem l1Drop_untouched (s : State) (x : L1Sector) : Untouched s (l1Drop s x) :=
  ⟨rfl, fun legible settled => ⟨SameMemory.of_eq rfl rfl rfl, ⟨legible.codes, legible.latent, legible.held⟩,
    fun y hy => settled y (List.mem_filter.1 hy).1⟩⟩

theorem evictSector_sq (s : State) (x : L1Sector) : (evictSector s x).sq = s.sq := by
  simp only [evictSector]
  split
  · split
    · exact writeBack_sq s x
    · exact writeBack_sq s x
  · exact writeBack_sq s x

theorem evictSector_clean {s : State} {x : L1Sector} (h : x.dirty = 0) : Untouched s (evictSector s x) := by
  simp only [evictSector, writeBack_clean h]
  split
  · split
    · exact l1Drop_untouched s _
    · exact .refl s
  · exact .refl s

theorem sectorsAt_held (s : State) (core : Nat) (p : L1Sector → Bool) : ∀ x ∈ (sectorsAt s core).filter p, x ∈ s.l1 :=
  fun _ hx => (List.mem_filter.1 (List.mem_filter.1 hx).1).1

theorem evictRange_untouched (s : State) (core a n : Nat) : Untouched s (evictRange s core a n) :=
  sectors_untouched evictSector_sq (fun _ _ h => evictSector_clean h) s _ (sectorsAt_held s core _)

theorem writeBackRange_untouched (s : State) (core a n : Nat) : Untouched s (writeBackRange s core a n) :=
  sectors_untouched writeBack_sq (fun t _ h => (writeBack_clean (s := t) h).symm ▸ .refl t) s _ (sectorsAt_held s core _)

theorem settleRange_untouched (s : State) (va n : Nat) (write : Bool) : Untouched s (settleRange s va n write) := by
  refine .foldl (fun t p => ?_) _ s
  have resolved := resolve_untouched t s.sq.ident.priv s.sq.ident.core s.sq.ident.ctx p.1 needLeaf
  split
  · next e =>
    rw [e] at resolved
    split
    · exact resolved.trans (evictRange_untouched _ _ _ _)
    · exact resolved.trans (writeBackRange_untouched _ _ _ _)
  · exact .refl t

/-! ### Checks of accesses -/

theorem reachGlobal_untouched (s : State) (w : Want) (va : Nat) (lanes : Mask) : Untouched s (reachGlobal s w va lanes).1 := by
  have resolved := resolve_untouched s s.sq.ident.priv s.sq.ident.core s.sq.ident.ctx va w.need
  unfold reachGlobal
  dsimp only
  split
  · exact .refl s
  split
  · exact .refl s
  split
  · next e =>
    rw [e] at resolved
    exact resolved
  · next e =>
    rw [e] at resolved
    split <;> exact resolved

theorem reachScratch_state (s : State) (c : Option Crew) (w : Want) (o : Nat) (lanes : Mask) : (reachScratch s c w o lanes).1 = s := by
  unfold reachScratch
  split
  · rfl
  split
  · rfl
  split
  · rfl
  split <;> rfl

theorem reach_untouched (s : State) (sp : Space) (w : Want) (va : Nat) (lanes : Mask) : Untouched s (reach s sp w va lanes).1 := by
  cases sp with
  | global => exact reachGlobal_untouched s w va lanes
  | scratch => exact (reachScratch_state s _ w va lanes).symm ▸ .refl s
  | peer => exact (reachScratch_state s _ w va lanes).symm ▸ .refl s

theorem gather_untouched (s : State) (sp : Space) (w : Want) (ls : List Nat) (va x y : Nat → Nat) :
    Untouched s (gather s sp w ls va x y).1 := by
  refine Untouched.foldlFst (fun r l => ?_) ls (s, [], [])
  have reached := reach_untouched r.1 sp w (va l) (maskOf [l])
  split <;> next e => rw [e] at reached; exact reached

/-! ### What an own part that leaves an operation may answer -/

/-- Beside the program counters, only the scalar registers of a list, the operations and the poison marks of the squad change. -/
structure OpStands (b u : State) (ss : List Nat) : Prop where
  files   : KeepsFiles b u [] ss [] 0
  special : KeepsSpecial b u
  mode    : u.sq.mode = b.sq.mode
  flags   : u.sq.flags = b.sq.flags
  home    : Legible b → Settled b → SameMemory b u ∧ Legible u ∧ Settled u

/-- An operation becomes outstanding, or a check fails and no operation does. -/
def OnlyIssues (b : State) (ss : List Nat) : Eff → Prop
  | .done u => OpStands b u ss
  | .faultIn _ u => u.sq.ops = b.sq.ops
  | .fault _ => True
  | .stall => True
  | _ => False

theorem stopSquad_ops (s : State) : (stopSquad s).sq.ops = s.sq.ops := by
  have ready (t : State) (k : Nat) (b : Bool) : (setReady0 t k b).sq = t.sq := by
    unfold setReady0
    dsimp only
    split <;> rfl
  unfold stopSquad
  split
  · rw [stopMc, ready, State.mapSquads]
    dsimp only
    split
    · split <;> rfl
    · rfl
  · rfl

theorem enterSystem_ops (s : State) (group : Mask) (ret : DWord) (cause info0 info1 : Nat) :
    (enterSystem s group ret cause info0 info1).sq.ops = s.sq.ops := by
  unfold enterSystem
  rw [apply_ite State.sq, apply_ite Squad.ops, State.onSq]
  split
  · rw [stopSquad_ops, errorRecord_sq]
  · rfl

/-- A fault leaves the operations that are outstanding. -/
theorem takeFault_ops (s : State) (f : FaultInfo) : (takeFault s f).sq.ops = s.sq.ops := by
  unfold takeFault
  split
  · exact enterSystem_ops s _ _ _ _ _
  split
  · have records : (absentRecords s f).sq = s.sq := by
      refine foldl_same (fun t : State => t.sq) (fun t g => ?_) _ s
      split
      · rfl
      · exact pushRecord_sq _ _ _ _ _
    exact (show (awaitPages (absentRecords s f) f).sq.ops = (absentRecords s f).sq.ops from rfl).trans (congrArg Squad.ops records)
  · rw [stopSquad_ops, faultRecord, pushRecord_sq]

theorem begun_ops (s : State) : (begun s).sq.ops = s.sq.ops := (begun_like s).2.2

theorem prepare_memory (n : State) : SameMemory n (prepare n) := by
  have only := prepare_eq n
  generalize prepare n = p at only ⊢
  rw [only]
  exact SameMemory.of_eq rfl rfl rfl

/-- The frame of an instruction whose own part only leaves an operation. -/
theorem framedIssue_of {i : Instr} {body : State → Eff} {ss : List Nat}
    (arm : ∀ s, exec i s = issue (traitsOf i) (usesOf (extSet s.sq.cur) i) s body)
    (own : ∀ s, Issues i s → OnlyIssues (begun s) ss (body (begun s))) : FramedIssue i ss := by
  intro s t h next longer
  rw [exec_settleOwn arm h] at next
  obtain rfl : settleOwn s (noteStart s) (body (begun s)) = t := by injection next
  have only := own s h
  have same {u : State} (ops : u.sq.ops = s.sq.ops) (f : FaultInfo) :
      ¬ s.sq.ops.length < (endSequence (takeFault u f)).sq.ops.length := by
    have : (endSequence (takeFault u f)).sq.ops = s.sq.ops := (takeFault_ops u f).trans ops
    rw [this]
    exact lt_irrefl _
  cases e : body (begun s) with
  | done u =>
    rw [e] at only
    obtain ⟨⟨v, x, q⟩, special, mode, flags, home⟩ := only
    obtain ⟨first, -, -⟩ := begun_like s
    obtain ⟨last, last', -⟩ := ended_like u
    obtain ⟨a1, a2, a3, a4, a5, a6, a7, a8⟩ := first
    obtain ⟨b1, b2, b3, b4, b5, b6, b7, b8⟩ := special
    obtain ⟨c1, c2, c3, c4, c5, c6, c7, c8⟩ := last
    refine ⟨⟨fun n l hn hl h => ?_, fun n hn h => ?_, fun n l hn hl h => ?_⟩,
      ⟨c1.trans (b1.trans a1), c2.trans (b2.trans a2), c3.trans (b3.trans a3), c4.trans (b4.trans a4), c5.trans (b5.trans a5),
        c6.trans (b6.trans a6), c7.trans (b7.trans a7), c8.trans (b8.trans a8)⟩, ?_, ?_, fun legible settled => ?_⟩
    · rw [← begun_v s, ← v n l hn hl h]
      simp only [State.v, settleOwn_done, ended_regs]
    · rw [← begun_x s, ← x n hn h]
      simp only [State.x, settleOwn_done, ended_regs]
    · rw [← begun_regs s, ← q n l hn hl h, settleOwn_done, ended_regs]
    · exact last'.trans (mode.trans (begun_like s).2.1)
    · rw [settleOwn_done, ended_flags, flags, begun_flags]
    · have device : KeepsDevice u (ended u) := ended_device rfl
      have start : SameMemory (noteStart s) (begun s) := prepare_memory (noteStart s)
      rw [settleOwn_done]
      exact fun a => (device.memory a).trans (((home legible settled).1 a).trans (start a))
  | faultIn f u =>
    rw [e] at longer only
    have point : (faultPoint (noteStart s) f u).sq.ops = s.sq.ops := by
      rw [← begun_ops s, ← only]
      unfold faultPoint
      dsimp only
      split <;> rfl
    exact absurd longer (same point f)
  | fault f =>
    rw [e] at longer
    exact absurd longer (same (congrArg Squad.ops (noteStart_sq s)) f)
  | stall =>
    rw [e] at longer
    exact absurd longer (lt_irrefl _)
  | switch u => rw [e] at only; exact only.elim
  | after f u => rw [e] at only; exact only.elim
  | consume c f => rw [e] at only; exact only.elim
  | halted u => rw [e] at only; exact only.elim
  | hold => rw [e] at only; exact only.elim
  | block w u => rw [e] at only; exact only.elim

/-! ### Operations that become outstanding -/

theorem Untouched.stands {b t : State} (h : Untouched b t) : OpStands b t [] := by
  have files {α : Type} (f : Regs → α) : f t.sq.regs = f b.sq.regs := congrArg (fun q : Squad => f q.regs) h.squad
  refine ⟨⟨fun n l _ _ _ => files fun r => r.lane n l, fun n _ _ => files fun r => r.sreg n, fun n l _ _ _ =>
    files fun r => (r.pred n).getLsbD l⟩, ⟨?_, ?_, ?_, ?_, ?_, ?_, ?_, ?_⟩, ?_, ?_, h.home⟩
  all_goals rw [h.squad]

theorem OpStands.trans {b t u : State} {ss ss' : List Nat} (h : OpStands b t ss) (g : OpStands t u ss') (sub : ss ⊆ ss') :
    OpStands b u ss' := by
  obtain ⟨⟨v, x, q⟩, ⟨a1, a2, a3, a4, a5, a6, a7, a8⟩, mode, flags, home⟩ := h
  obtain ⟨⟨v', x', q'⟩, ⟨b1, b2, b3, b4, b5, b6, b7, b8⟩, mode', flags', home'⟩ := g
  refine ⟨⟨fun n l hn hl h => (v' n l hn hl h).trans (v n l hn hl (.inl List.not_mem_nil)),
      fun n hn h => (x' n hn h).trans (x n hn fun mem => h (sub mem)),
      fun n l hn hl h => (q' n l hn hl h).trans (q n l hn hl (.inl List.not_mem_nil))⟩,
    ⟨b1.trans a1, b2.trans a2, b3.trans a3, b4.trans a4, b5.trans a5, b6.trans a6, b7.trans a7, b8.trans a8⟩, mode'.trans mode,
    flags'.trans flags, fun legible settled => ?_⟩
  obtain ⟨m, legible', settled'⟩ := home legible settled
  obtain ⟨m', rest⟩ := home' legible' settled'
  exact ⟨fun a => (m' a).trans (m a), rest⟩

theorem OpStands.more {b u : State} {ss ss' : List Nat} (h : OpStands b u ss) (sub : ss ⊆ ss') : OpStands b u ss' :=
  h.trans ⟨⟨fun _ _ _ _ _ => rfl, fun _ _ _ => rfl, fun _ _ _ _ _ => rfl⟩, ⟨rfl, rfl, rfl, rfl, rfl, rfl, rfl, rfl⟩, rfl, rfl,
    (Untouched.refl u).home⟩ sub

theorem pushOp_stands (t : State) (cls : OpClass) (act : Act) (mask : Mask) (order : Nat × Nat) (strong : Bool)
    (last : Option (Nat × Word)) (tag token : Nat) (wrote : List (Nat × Nat)) :
    OpStands t (pushOp t cls act mask order strong last tag token wrote) [] :=
  ⟨⟨fun _ _ _ _ _ => rfl, fun _ _ _ => rfl, fun _ _ _ _ _ => rfl⟩, ⟨rfl, rfl, rfl, rfl, rfl, rfl, rfl, rfl⟩, rfl, rfl,
    home_of_eq rfl rfl rfl rfl rfl rfl⟩

theorem setX_stands (t : State) {d : Nat} (x : DWord) (low : d < 64) : OpStands t (t.setX d x) [d] := by
  refine ⟨⟨fun n l _ _ _ => setS_lane _ _ _ _ _, fun n hn h => ?_, fun n l _ _ _ => ?_⟩, ⟨rfl, rfl, rfl, rfl, rfl, rfl, rfl, rfl⟩, rfl,
    rfl, home_of_eq rfl rfl rfl rfl rfl rfl⟩
  · refine (setS_sreg t.sq.regs d n x low hn).trans (if_neg fun same => h (List.mem_singleton.2 same.1))
  · exact congrArg (fun m : Mask => m.getLsbD l) (setS_pred t.sq.regs d n x)

theorem countEngine_untouched (s : State) (cls : OpClass) (len : Nat) : Untouched s (countEngine s cls len) := by
  unfold countEngine
  dsimp only
  split
  · exact .refl s
  · split
    · exact countSurvey_untouched s _ _ _
    · exact countSurvey_untouched s _ _ _
    · exact .refl s

/-- The registers that an operation's token may name. -/
def TokenIn (token : Nat) (ss : List Nat) : Prop := token = 0 ∨ token ∈ ss ∧ token < 64

theorem token_stands (t : State) {token : Nat} (x : DWord) {ss : List Nat} (named : TokenIn token ss) :
    OpStands t (if token = 0 then t else t.setX token x) ss := by
  rcases named with rfl | ⟨mem, low⟩
  · exact (Untouched.refl t).stands.more (List.nil_subset ss)
  · split
    · exact (Untouched.refl t).stands.more (List.nil_subset ss)
    · exact (setX_stands t x low).more (List.cons_subset.2 ⟨mem, List.nil_subset ss⟩)

theorem engineOut_stands (s : State) (cls : OpClass) (act : Act) (tag len : Nat) (last : Option (Nat × Word))
    (reads writes : List (Nat × Nat)) {token : Nat} {ss : List Nat} (named : TokenIn token ss) :
    OpStands s (engineOut s cls act tag token len last reads writes) ss := by
  have settled : Untouched s (writes.foldl (fun u r => settleRange u r.1 r.2 true) (reads.foldl (fun u r => settleRange u r.1 r.2 false) s)) :=
    (Untouched.foldl (fun t r => settleRange_untouched t r.1 r.2 false) reads s).trans
      (.foldl (fun t r => settleRange_untouched t r.1 r.2 true) writes _)
  have named' := settled.stands.trans (token_stands _ (BitVec.ofNat 64 len) named) (List.nil_subset ss)
  have counted := named'.trans ((countEngine_untouched _ cls len).stands.more (List.nil_subset ss)) (List.Subset.refl ss)
  exact counted.trans ((pushOp_stands _ cls act _ (0, 0) false last tag token []).more (List.nil_subset ss)) (List.Subset.refl ss)

/-! ### Checks on the way to an operation -/

section
variable {b s : State} {ss : List Nat}

theorem OnlyIssues.failIf {bad : Bool} {f : FaultInfo} {k : Eff} (h : OnlyIssues b ss k) : OnlyIssues b ss (failIf bad f k) := by
  unfold Machine.failIf
  split
  · trivial
  · exact h

theorem OnlyIssues.aligned {a n : Nat} {write : Bool} {k : Eff} (h : OnlyIssues b ss k) : OnlyIssues b ss (aligned s a n write k) :=
  h.failIf

theorem OnlyIssues.globalRange {a n : Nat} {write : Bool} {k : Eff} (h : OnlyIssues b ss k) :
    OnlyIssues b ss (globalRange s a n write k) := h.failIf

theorem OnlyIssues.bankRange {c : Crew} {first n : Nat} {k : Eff} (h : OnlyIssues b ss k) :
    OnlyIssues b ss (bankRange s c first n k) := h.failIf

theorem OnlyIssues.withCrew {k : Crew → Eff} (h : ∀ c, OnlyIssues b ss (k c)) : OnlyIssues b ss (withCrew s k) := by
  unfold Machine.withCrew
  split
  · trivial
  · exact h _

theorem OnlyIssues.withWin {num : Nat} {k : ArrWindow → Eff} (h : ∀ w, OnlyIssues b ss (k w)) :
    OnlyIssues b ss (withWin s num k) := by
  unfold Machine.withWin
  split
  · trivial
  · exact h _

theorem OnlyIssues.withLast {k : Option (Nat × Word) → Eff} (h : ∀ m, OnlyIssues b ss (k m)) : OnlyIssues b ss (withLast s k) := by
  unfold Machine.withLast
  split
  · exact h _
  dsimp only
  split
  · trivial
  split
  · trivial
  split
  · trivial
  split
  · trivial
  · exact h _

theorem OnlyIssues.scratchRange {c : Option Crew} {o n : Nat} {write : Bool} {k : State → Eff} (h : Untouched b s)
    (next : ∀ t, Untouched b t → OnlyIssues b ss (k t)) : OnlyIssues b ss (scratchRange s c o n write k) := by
  unfold Machine.scratchRange
  split
  · trivial
  split
  · exact next s h
  split
  · trivial
  split
  · trivial
  · refine next _ ?_
    split
    · exact h.trans (raceWrite_untouched s _ _ _ _)
    · exact h

theorem OnlyIssues.startEngine {cls : OpClass} {act : Act} {tag token len : Nat} {last : Option (Nat × Word)}
    {reads writes : List (Nat × Nat)} (h : Untouched b s) (named : TokenIn token ss) :
    OnlyIssues b ss (startEngine s cls act tag token len last reads writes) := by
  unfold Machine.startEngine
  split
  · trivial
  · exact h.stands.trans (engineOut_stands s cls act tag len last reads writes named) (List.nil_subset ss)

theorem OnlyIssues.orFault {r : State × List Access × List FaultInfo} {k : State → List Access → Eff} (h : Untouched b r.1)
    (next : OnlyIssues b ss (k r.1 r.2.1)) : OnlyIssues b ss (orFault r k) := by
  unfold Machine.orFault
  split
  · next f _ =>
    unfold FaultInfo.orStall
    split
    · trivial
    · exact congrArg Squad.ops h.squad
  · exact next

end

end Sys2Proof.Machine
end

section
/-! The memory, engine and array instructions only leave an operation. -/

namespace Sys2Proof.Machine

section
variable {b : State} {ss : List Nat}

/-! ### Loads, stores and atomics -/

theorem Untouched.leaves {t : State} (h : Untouched b t) (cls : OpClass) (act : Act) (mask : Mask) (order : Nat × Nat)
    (strong : Bool) (last : Option (Nat × Word)) (tag token : Nat) (wrote : List (Nat × Nat)) :
    OnlyIssues b [] (.done (pushOp t cls act mask order strong last tag token wrote)) :=
  h.stands.trans (pushOp_stands t cls act mask order strong last tag token wrote) (List.Subset.refl [])

theorem onlyIssues_load (sp : Space) (w d : Nat) (va : Nat → Nat) (last : Option (Nat × Word)) :
    OnlyIssues b [] (issueLoad b sp w d va last) := by
  have checked := gather_untouched b sp ⟨accessBytes w, needR, 1, false, ordered b, false⟩ (laneList b.sq.cur.enabled) va
    (fun _ => 0) fun _ => 0
  unfold issueLoad
  refine .orFault checked ?_
  exact checked.leaves _ _ _ _ _ _ _ _ _

theorem onlyIssues_store (sp : Space) (w d : Nat) (va : Nat → Nat) : OnlyIssues b [] (issueStore b sp w d va) := by
  have checked := gather_untouched b sp ⟨accessBytes w, needW, 2, true, ordered b, false⟩ (laneList b.sq.cur.enabled) va
    (fun l => laneData b d (accessRegs w) l % 256 ^ accessBytes w) fun _ => 0
  unfold issueStore
  refine .orFault checked ?_
  exact (checked.trans (raceWrites_untouched _ sp _ _)).leaves _ _ _ _ _ _ _ _ _

theorem onlyIssues_atomic (sp : Space) (op : AtomOp) (n d : Nat) (va : Nat → Nat) : OnlyIssues b [] (issueAtomic b sp op n d va) := by
  have checked := gather_untouched b sp ⟨n, needRW, 3, true, true, true⟩ (laneList b.sq.cur.enabled) va
    (fun l => laneData b d (n / 4) l) fun l => laneData b (d + n / 4) (n / 4) l
  unfold issueAtomic
  refine .orFault checked ?_
  exact (checked.trans (raceWrites_untouched _ sp _ _)).leaves _ _ _ _ _ _ _ _ _

/-- The access of a group changes what its check changes. -/
theorem group_untouched (w : Want) (va : Nat → Nat) (x y : Nat → Nat) :
    Untouched b (groupFaults (gather b .global w (leader b) va x y)).1 := gather_untouched b .global w (leader b) va x y

theorem onlyIssues_scalarLoad (w d va : Nat) : OnlyIssues b [] (issueScalarLoad b w d va) := by
  have checked : Untouched b (groupFaults (gather b .global ⟨accessBytes w, needR, 1, false, ordered b, false⟩ (leader b)
    (fun _ => va) (fun _ => 0) fun _ => 0)).1 := group_untouched _ _ _ _
  refine .orFault checked ?_
  exact checked.leaves _ _ _ _ _ _ _ _ _

theorem onlyIssues_scalarStore (w d va : Nat) : OnlyIssues b [] (issueScalarStore b w d va) := by
  have checked : Untouched b (groupFaults (gather b .global ⟨accessBytes w, needW, 2, true, ordered b, false⟩ (leader b)
    (fun _ => va) (fun _ => (b.x d).toNat % 256 ^ accessBytes w) fun _ => 0)).1 := group_untouched _ _ _ _
  unfold issueScalarStore
  refine .orFault checked ?_
  exact checked.leaves _ _ _ _ _ _ _ _ _

theorem onlyIssues_scalarAtomic (op : AtomOp) (n d va : Nat) : OnlyIssues b [] (issueScalarAtomic b op n d va) := by
  have checked : Untouched b (groupFaults (gather b .global ⟨n, needRW, 3, true, true, true⟩ (leader b) (fun _ => va)
    (fun _ => (satomOperands b op n d).1) fun _ => (satomOperands b op n d).2)).1 := group_untouched _ _ _ _
  unfold issueScalarAtomic
  refine .orFault checked ?_
  exact checked.leaves _ _ _ _ _ _ _ _ _

/-! ### Copies and transforms -/

theorem onlyIssues_copy {e : Engine} {d : Nat} (x y : Nat) (rg wg peer : Bool) (last : Option (Nat × Word)) (named : TokenIn d ss) :
    OnlyIssues b ss (issueCopy b e d x y rg wg peer last) := by
  have go (t : State) (h : Untouched b t) (u v w n : _) (rs ws : List (Nat × Nat)) :
      OnlyIssues b ss (startEngine t .cp (.engine e d u v w 0 (Vector.replicate 32 0)) 0 d n last rs ws) := .startEngine h named
  refine .failIf (.aligned (.aligned (.aligned ?_)))
  dsimp only
  split
  · refine .globalRange ?_
    split
    · exact .globalRange (go b (.refl b) _ _ _ _ _ _)
    · exact .scratchRange (.refl b) fun t h => go t h _ _ _ _ _ _
  · refine .scratchRange (.refl b) fun t h => ?_
    split
    · exact .globalRange (go t h _ _ _ _ _ _)
    · exact .scratchRange h fun u g => go u g _ _ _ _ _ _

theorem onlyIssues_copy2 {e : Engine} {d : Nat} (x y : Nat) (toGlobal : Bool) (last : Option (Nat × Word)) (named : TokenIn d ss) :
    OnlyIssues b ss (issueCopy2 b e d x y toGlobal last) :=
  .failIf (.aligned (.aligned (.aligned (.globalRange (.scratchRange (.refl b) fun _ h => .startEngine h named)))))

theorem onlyIssues_xform {e : Engine} {d : Nat} (x y : Nat) (slots scales : Bool) (compute : Option Bool) (len : DWord → Nat)
    (named : TokenIn d ss) : OnlyIssues b ss (issueXform b e d x y slots scales compute len) := by
  refine .withCrew fun c => .failIf (.failIf (.failIf (.failIf ?_)))
  dsimp only
  split
  · exact .startEngine (.refl b) named
  · exact .scratchRange (.refl b) fun _ h => .startEngine h named

theorem onlyIssues_stk {e : Engine} {d : Nat} (x y len : Nat) (reads writes : List (Nat × Nat)) (named : TokenIn d ss) :
    OnlyIssues b ss (issueStk b e d x y len reads writes) :=
  .aligned (.aligned (.globalRange (.globalRange (.startEngine (.refl b) named))))

/-! ### Tiles and arrays -/

theorem onlyIssues_tacc (e : Engine) (d : Nat) (y x : DWord) (n : Nat) (bad : Crew → Bool) (v : Vector Word 32) :
    OnlyIssues b [] (issueTacc b e d y x n bad v) := .withCrew fun _ => .failIf (.startEngine (.refl b) (.inl rfl))

theorem onlyIssues_dotRange {s : State} {scratch : Bool} {a n : Nat} {k : State → Eff} (h : Untouched b s)
    (next : ∀ t, Untouched b t → OnlyIssues b ss (k t)) : OnlyIssues b ss (dotRange s scratch a n k) := by
  unfold dotRange
  split
  · exact .scratchRange h next
  · exact .globalRange (next s h)

theorem onlyIssues_range (e : Engine) (d x y : Nat) (mem : Option Bool) (fns : List Nat) :
    OnlyIssues b [] (issueRange b e d x y mem fns) := by
  refine .failIf (.withWin fun w => .failIf ?_)
  split
  · exact .startEngine (.refl b) (.inl rfl)
  · exact .aligned (.globalRange (.startEngine (.refl b) (.inl rfl)))

theorem onlyIssues_arr (e : Engine) (y x z : DWord) (srcs : List DWord) (fns : List Nat) :
    OnlyIssues b [] (issueArr b e y x z srcs fns) := .failIf (.withWin fun _ => .startEngine (.refl b) (.inl rfl))

end

/-- An instruction that names a token register may write it (R144). -/
theorem framedIssue_token {i : Instr} {body : State → Eff} {d : Nat} (names : ∀ s, d ∈ (usesNow s i).sw)
    (arm : ∀ s, exec i s = issue (traitsOf i) (usesOf (extSet s.sq.cur) i) s body)
    (own : ∀ b, TokenIn d [d] → OnlyIssues b [d] (body b)) : FramedIssue i [d] :=
  framedIssue_of arm fun s h => own (begun s) (.inr ⟨List.mem_singleton.2 rfl, h.write_low (names s)⟩)

end Sys2Proof.Machine

namespace Sys2Proof.Laws

open Sys2Proof.Machine

/-- Settles O37: every check on the way leaves the squad and its memory, and the operation that stands adds its token alone. -/
theorem frameOfIssuedOperations : Obligations.FrameOfIssuedOperations := by
  intro d a b w q m
  iterate 2 refine ⟨framedIssue_of (fun _ => by delta exec; exact rfl) fun _ _ => onlyIssues_load _ _ _ _ _, ?_⟩
  refine ⟨framedIssue_of (fun _ => by delta exec; exact rfl) fun _ _ => .withLast fun _ => onlyIssues_load _ _ _ _ _, ?_⟩
  iterate 3 refine ⟨framedIssue_of (fun _ => by delta exec; exact rfl) fun _ _ => onlyIssues_store _ _ _ _, ?_⟩
  refine ⟨framedIssue_of (fun _ => by delta exec; exact rfl) fun _ _ => onlyIssues_scalarLoad _ _ _,
    framedIssue_of (fun _ => by delta exec; exact rfl) fun _ _ => onlyIssues_scalarStore _ _ _, ?_⟩
  iterate 16 refine ⟨framedIssue_of (fun _ => by delta exec; exact rfl) fun _ _ => onlyIssues_atomic _ _ _ _ _, ?_⟩
  refine ⟨fun _ => framedIssue_of (fun _ => by delta exec; exact rfl) fun _ _ => onlyIssues_atomic _ _ _ _ _,
    fun _ => framedIssue_of (fun _ => by delta exec; exact rfl) fun _ _ => onlyIssues_scalarAtomic _ _ _ _, ?_⟩
  have named (i : Instr) (h : ∀ e, (usesOf e i).sw = [d.toNat]) (s : State) : d.toNat ∈ (usesNow s i).sw :=
    (h _).symm ▸ List.mem_singleton.2 rfl
  refine ⟨framedIssue_token (named _ fun _ => rfl) (fun _ => by delta exec; exact rfl) fun _ => onlyIssues_copy _ _ _ _ _ _,
    framedIssue_token (named _ fun _ => rfl) (fun _ => by delta exec; exact rfl) fun _ h => .withLast fun _ =>
      onlyIssues_copy _ _ _ _ _ _ h,
    framedIssue_token (named _ fun _ => rfl) (fun _ => by delta exec; exact rfl) fun _ => onlyIssues_copy _ _ _ _ _ _,
    framedIssue_token (named _ fun _ => rfl) (fun _ => by delta exec; exact rfl) fun _ h => .withLast fun _ =>
      onlyIssues_copy _ _ _ _ _ _ h,
    framedIssue_token (named _ fun _ => rfl) (fun _ => by delta exec; exact rfl) fun p h =>
      .failIf (.aligned (.aligned (.globalRange (.startEngine (.refl p) h)))),
    framedIssue_token (named _ fun _ => rfl) (fun _ => by delta exec; exact rfl) fun _ => onlyIssues_copy2 _ _ _ _,
    framedIssue_token (named _ fun _ => rfl) (fun _ => by delta exec; exact rfl) fun _ h => .withLast fun _ =>
      onlyIssues_copy2 _ _ _ _ h,
    framedIssue_token (named _ fun _ => rfl) (fun _ => by delta exec; exact rfl) fun p h =>
      .withCrew fun _ => .failIf (.aligned (.globalRange (.bankRange (.startEngine (.refl p) h)))), ?_⟩
  iterate 5
    refine ⟨framedIssue_token (named _ fun _ => rfl) (fun _ => by delta exec; exact rfl) fun _ => onlyIssues_xform _ _ _ _ _ _, ?_⟩
  refine ⟨framedIssue_of (fun _ => by delta exec; exact rfl) fun s _ => .withLast fun _ => .withCrew fun _ => .failIf (.aligned
      (.scratchRange (.refl _) fun _ h => .bankRange (.startEngine h (.inl rfl)))),
    framedIssue_of (fun _ => by delta exec; exact rfl) fun s _ => .withCrew fun _ => .failIf (.aligned (.aligned (.failIf
      (.globalRange (.globalRange (.startEngine (.refl _) (.inl rfl))))))), ?_⟩
  iterate 5 refine ⟨framedIssue_of (fun _ => by delta exec; exact rfl) fun _ _ => onlyIssues_tacc _ _ _ _ _ _ _, ?_⟩
  refine ⟨framedIssue_of (fun _ => by delta exec; exact rfl) fun s _ => .failIf (.aligned (.aligned
      (onlyIssues_dotRange (.refl _) fun _ h => onlyIssues_dotRange h fun _ k => .startEngine k (.inl rfl)))),
    framedIssue_of (fun _ => by delta exec; exact rfl) fun s _ => .failIf (.aligned (.globalRange (.startEngine (.refl _) (.inl rfl)))),
    framedIssue_of (fun _ => by delta exec; exact rfl) fun s _ => .failIf (.startEngine (.refl _) (.inl rfl)),
    framedIssue_of (fun _ => by delta exec; exact rfl) fun s _ => .failIf (.startEngine (.refl _) (.inl rfl)), ?_⟩
  iterate 3 refine ⟨framedIssue_of (fun _ => by delta exec; exact rfl) fun _ _ => onlyIssues_range _ _ _ _ _ _, ?_⟩
  iterate 8 refine ⟨framedIssue_of (fun _ => by delta exec; exact rfl) fun _ _ => onlyIssues_arr _ _ _ _ _ _, ?_⟩
  exact ⟨framedIssue_token (named _ fun _ => rfl) (fun _ => by delta exec; exact rfl) fun _ => onlyIssues_stk _ _ _ _ _,
    framedIssue_token (named _ fun _ => rfl) (fun _ => by delta exec; exact rfl) fun _ => onlyIssues_stk _ _ _ _ _,
    framedIssue_token (named _ fun _ => rfl) (fun _ => by delta exec; exact rfl) fun _ => onlyIssues_stk _ _ _ _ _⟩

end Sys2Proof.Laws
end

section
/-! The issue of bank, transform and tile instructions (R248, R255 to R261, R265, R268, R269): the checks of each own
part, when they pass. -/

namespace Sys2Proof.Machine

/-- An engine operation whose ranges the L1 can give up becomes outstanding (R127). -/
theorem startEngine_open {s : State} {cls : OpClass} {act : Act} {tag token len : Nat} {last : Option (Nat × Word)}
    {reads writes : List (Nat × Nat)} (h : rangesWait s (reads ++ writes) = false) :
    startEngine s cls act tag token len last reads writes = .done (engineOut s cls act tag token len last reads writes) := by
  simp [startEngine, h]

@[simp] theorem rangesWait_nil (s : State) : rangesWait s [] = false := by simp [rangesWait]

/-- An engine operation without ranges never waits to issue. -/
theorem startEngine_quiet (s : State) (cls : OpClass) (act : Act) (tag token len : Nat) (last : Option (Nat × Word)) :
    startEngine s cls act tag token len last [] [] = .done (engineOut s cls act tag token len last [] []) :=
  startEngine_open (rangesWait_nil s)

/-- A number below a power that a field's upper bits begin at has none of them. -/
theorem upper_bits_zero {x n : Nat} (h : x < n) : (x / n != 0) = false := by simp [Nat.div_eq_of_lt h]

section
variable {p : State} {c : Crew} {e : Engine} {d a b : Nat} {slots scales : Bool} {compute : Option Bool} {len : DWord → Nat} {n : Nat}

/-- The values of a transform's operands that R260 allows. -/
def xformFits (e : Engine) (x z : DWord) (slots scales : Bool) : Bool :=
  !(x.toNat / 8192 != 0 || xfFmt x == 3 || (xfScales x && (!scales || !xfCompute x || xfFmt x == 2))
    || ((slots || (scales && xfScales x)) && slotCount (xfFmt x) ≤ xfSlot x)
    || (!(slots || (scales && xfScales x)) && (xfSlot x != 0 || xfFmt x != 0)) || (e != .xformFill && z != 0))

/-- A transform of a storage bank marks the bank's sectors for race watch and leaves its operation (R136, R260). -/
theorem issueXform_storage (crew : p.myCrew = some c) (fits : xformFits e (p.x a) (p.x b) slots scales = true)
    (here : xfCompute (p.x a) = false) (lt : xfBank (p.x a) < c.storage.length) (space : compute ≠ some true)
    (reach : p.inScratch c (65536 * xfBank (p.x a)) 65536) (size : len (p.x a) = n) :
    issueXform p e d a b slots scales compute len =
      .done (engineOut (p.raceMarked c (65536 * xfBank (p.x a)) 65536) .cp (engineAct e d (p.x a) 0 (p.x b) 0) 0 d
        n none [] []) := by
  have named : (compute.any (· != xfCompute (p.x a)) || (xfCompute (p.x a) && c.detached (xfBank (p.x a)))) = false := by
    rw [here]
    rcases compute with _ | _ | _
    · rfl
    · rfl
    · exact absurd rfl space
  simp only [xformFits, Bool.not_eq_true'] at fits
  unfold issueXform
  simp only
  rw [withCrew_some crew, failIf_pass fits, failIf_pass (by simp [here]), failIf_pass (by simpa [here] using lt),
    failIf_pass named, here, if_neg Bool.false_ne_true, scratchRange_write reach, raceMarked_x, startEngine_quiet, size]
  rfl

/-- A transform of a compute bank that is mapped leaves its operation (R255, R260). -/
theorem issueXform_compute (crew : p.myCrew = some c) (fits : xformFits e (p.x a) (p.x b) slots scales = true)
    (here : xfCompute (p.x a) = true) (core : p.sq.ident.core ≠ Config.mcCore) (lt : xfBank (p.x a) < c.banksSeen)
    (space : compute ≠ some false) (mapped : c.detached (xfBank (p.x a)) = false) (size : len (p.x a) = n) :
    issueXform p e d a b slots scales compute len =
      .done (engineOut p .cp (engineAct e d (p.x a) 0 (p.x b) 0) 0 d n none [] []) := by
  have named : (compute.any (· != xfCompute (p.x a)) || (xfCompute (p.x a) && c.detached (xfBank (p.x a)))) = false := by
    rw [here, mapped]
    rcases compute with _ | _ | _
    · rfl
    · exact absurd rfl space
    · rfl
  simp only [xformFits, Bool.not_eq_true'] at fits
  unfold issueXform
  simp only
  rw [withCrew_some crew, failIf_pass fits, failIf_pass (by simp [core]), failIf_pass (by simpa [here] using lt),
    failIf_pass named, here, if_pos rfl, startEngine_quiet, size]
  rfl

/-- The operands of a transform of a slot. -/
theorem xformFits_slot {x z : DWord} (low : x.toNat < 8192) (zero : z = 0) (fmt : xfFmt x ≠ 3) (plain : xfScales x = false)
    (slot : xfSlot x < slotCount (xfFmt x)) : xformFits e x z true false = true := by
  simp [xformFits, Nat.div_eq_of_lt low, fmt, plain, slot, zero]

/-- The operands of a transform of a whole bank. -/
theorem xformFits_bank {x z : DWord} (low : x.toNat < 8192) (fmt : xfFmt x = 0) (plain : xfScales x = false)
    (slot : xfSlot x = 0) (word : e = .xformFill ∨ z = 0) : xformFits e x z false scales = true := by
  simpa [xformFits, Nat.div_eq_of_lt low, fmt, plain, slot] using word

/-- The operands of a fill of a slot's scales. -/
theorem xformFits_scales {x z : DWord} (low : x.toNat < 8192) (marked : xfScales x = true) (fmt : xfFmt x < 2)
    (slot : xfSlot x < slotCount (xfFmt x)) (here : xfCompute x = true) : xformFits .xformFill x z false true = true := by
  have h3 : xfFmt x ≠ 3 := by omega
  have h2 : xfFmt x ≠ 2 := by omega
  simp [xformFits, Nat.div_eq_of_lt low, h3, h2, marked, slot, here]

/-- A `tacc` whose descriptor fits leaves its operation (R268). -/
theorem issueTacc_ok {y x : DWord} {bad : Crew → Bool} {v : Vector Word 32} (crew : p.myCrew = some c)
    (fits : accBad c y n = false) (plain : accOvw y = false) (good : bad c = false) :
    issueTacc p e d y x n bad v =
      .done (engineOut p .tl (.engine e d x y (BitVec.ofNat 64 n) 0 v) (accTag y) 0 0 none [] []) := by
  unfold issueTacc
  rw [withCrew_some crew, failIf_pass (by simp [fits, plain, good]), startEngine_quiet]

/-- The check of a vector of a `dotv` passes where it lies in its space (R269). -/
theorem dotRange_pass {scratch : Bool} {o : Nat} {k : State → Eff} (crew : p.myCrew = some c)
    (h : if scratch then p.inScratch c o n else p.inGlobal o n) : dotRange p scratch o n k = k p := by
  unfold dotRange
  split
  · next e =>
    rw [if_pos e] at h
    rw [crew, scratchRange_read h]
  · next e =>
    rw [if_neg e] at h
    rw [globalRange_pass h]

end

end Sys2Proof.Machine
end

section
/-! A result's code fits the width of its format (R63). -/

namespace Sys2Proof.Machine

theorem signed_lt {f : Fmt} (neg : Bool) {code : Nat} (h : code < 2 ^ (f.eb + f.mb)) : f.signed neg code < 2 ^ f.width := by
  have wide : 2 ^ f.width = 2 * 2 ^ (f.eb + f.mb) := by rw [Fmt.width, Nat.add_assoc, Nat.pow_add, Nat.pow_one]
  rw [wide, Fmt.signed]
  split <;> omega

theorem encode_lt {f : Fmt} {n : Nat} {q : Int} (hn : n ≤ 2 ^ (f.mb + 1)) (range : f.past n q = false) :
    f.encode n q < 2 ^ (f.eb + f.mb) := by
  have two : 2 ^ (f.mb + 1) = 2 * 2 ^ f.mb := by rw [Nat.pow_succ, Nat.mul_comm]
  have pos := Nat.two_pow_pos f.eb
  rcases encode_fields f q hn with ⟨sub, code⟩ | ⟨norm, below, len, code⟩ | ⟨rfl, len, code⟩
  · rw [code]
    exact fields_lt (by omega) sub
  · obtain ⟨-, high, -⟩ := past_false (by have := Nat.two_pow_pos f.mb; omega) range
    rw [len] at high
    rw [code]
    exact fields_lt (by omega) (by omega)
  · obtain ⟨-, high, -⟩ := past_false (Nat.two_pow_pos _) range
    rw [len] at high
    rw [code]
    exact fields_lt (by omega) (Nat.two_pow_pos _)

section
variable {f : Fmt} (hmb : 1 ≤ f.mb) (heb : 1 ≤ f.eb)
include hmb heb

/-- The codes that have no sign: the largest finite value, infinity and NaN. -/
theorem special_codes_lt : f.largest < 2 ^ (f.eb + f.mb) ∧ f.inf < 2 ^ (f.eb + f.mb) ∧ f.nan < 2 ^ (f.eb + f.mb) := by
  have one : 2 ^ (f.mb - 1) < 2 ^ f.mb := Nat.pow_lt_pow_right (by decide) (by omega)
  have two : 2 ≤ 2 ^ f.eb := (Nat.pow_le_pow_right Nat.two_pos heb : 2 ^ 1 ≤ 2 ^ f.eb)
  have whole : 2 ^ (f.eb + f.mb) = (2 ^ f.eb - 1) * 2 ^ f.mb + 2 ^ f.mb := by
    rw [Nat.pow_add, ← Nat.succ_mul, Nat.succ_eq_add_one, Nat.sub_add_cancel (by omega)]
  have pos := Nat.two_pow_pos f.mb
  unfold Fmt.largest Fmt.inf Fmt.nan
  refine ⟨?_, by omega, ?_⟩
  · split <;> omega
  · split <;> omega

theorem finite_bits_lt (mode : Nat) (ftz sat neg : Bool) (m : Nat) (e : Int) :
    (f.finite mode ftz sat neg m e false).bits < 2 ^ f.width := by
  obtain ⟨largest, inf, nan⟩ := special_codes_lt hmb heb
  have zero : (0 : Nat) < 2 ^ (f.eb + f.mb) := Nat.two_pow_pos _
  rcases Nat.eq_zero_or_pos m with rfl | pos
  · simpa [Fmt.finite] using signed_lt neg zero
  have bounds := round_bounds f mode neg e false pos
  have range := round_beyond f mode neg m e false
  simp only [Fmt.finite, pos.ne', decide_false, Bool.false_and, Bool.false_eq_true, if_false]
  generalize f.round mode neg m e false = r at bounds range
  split
  · split
    · exact signed_lt neg largest
    · split
      · exact nan.trans_le (Nat.pow_le_pow_right Nat.two_pos (by rw [Fmt.width]; omega))
      · split
        · exact signed_lt neg largest
        · exact signed_lt neg inf
  · next within =>
    have code := encode_lt bounds.1 (range.symm.trans (Bool.eq_false_iff.2 within))
    split
    · exact signed_lt neg zero
    · exact signed_lt neg code

theorem sum_bits_lt (mode : Nat) (ftz : Bool) (ts : List Term) : (f.sum mode ftz ts).bits < 2 ^ f.width := by
  simp only [Fmt.sum]
  split
  · exact signed_lt _ (Nat.two_pow_pos _)
  · exact finite_bits_lt hmb heb _ _ _ _ _ _

theorem nanRes_bits_lt (invalid : Bool) : (f.nanRes invalid).bits < 2 ^ f.width :=
  signed_lt (f := f) false (special_codes_lt hmb heb).2.2

theorem add_bits_lt (mode : Nat) (ftz : Bool) (a b : Num) : (f.add mode ftz a b).bits < 2 ^ f.width := by
  unfold Fmt.add
  split
  · exact sum_bits_lt hmb heb _ _ _
  · split
    · exact nanRes_bits_lt hmb heb _
    · split
      · exact nanRes_bits_lt hmb heb _
      · split
        · exact nanRes_bits_lt hmb heb _
        · exact signed_lt _ (special_codes_lt hmb heb).2.1

/-- A number in a float format fits it (R266). -/
theorem narrow_bits_lt (sat : Bool) (v : Machine.Num) : (narrow f sat v).bits < 2 ^ f.width := by
  obtain ⟨largest, inf, nan⟩ := special_codes_lt hmb heb
  unfold narrow
  split
  · exact nanRes_bits_lt hmb heb _
  · split
    · split
      · exact signed_lt _ largest
      · exact signed_lt (f := f) false nan
    · split
      · exact signed_lt _ largest
      · exact signed_lt _ inf
  · exact finite_bits_lt hmb heb _ _ _ _ _ _

end

/-- A number as an integer of n bits fits them (R266). -/
theorem narrowInt_bits_lt (n : Nat) (v : Machine.Num) : (narrowInt n v).bits < 2 ^ n := by
  simp only [narrowInt]
  split
  · exact Nat.two_pow_pos n
  · exact BitVec.isLt _
  · exact BitVec.isLt _

theorem fp32_add_bits_lt (mode : Nat) (ftz : Bool) (a b : Machine.Num) : (fp32.add mode ftz a b).bits < 4294967296 :=
  add_bits_lt (f := fp32) (by decide) (by decide) mode ftz a b

end Sys2Proof.Machine
end

section
/-! Accumulator rows (R91): what a row reads after rows are written, one by one or in order. -/

namespace Sys2Proof.Machine

/-! ### Elements of constant size -/

/-- Piece i of pieces of w bytes each. -/
theorem flatMap_slice {α β : Type} {f : α → List β} {w : Nat} :
    ∀ {xs : List α} {i : Nat} (_ : ∀ x ∈ xs, (f x).length = w) (hi : i < xs.length),
      ((xs.flatMap f).drop (w * i)).take w = f xs[i]
  | x :: xs, 0, size, _ => by
    rw [Nat.mul_zero, List.drop_zero, List.flatMap_cons, ← size x List.mem_cons_self, List.take_left]
    rfl
  | x :: xs, i + 1, size, hi => by
    have step : w * (i + 1) = (f x).length + w * i := by rw [size x List.mem_cons_self, Nat.mul_succ, Nat.add_comm]
    rw [step, List.flatMap_cons, List.drop_append, List.drop_eq_nil_of_le (Nat.le_add_right _ _), List.nil_append,
      Nat.add_sub_cancel_left, flatMap_slice (fun y hy => size y (List.mem_cons_of_mem x hy)) (Nat.lt_of_succ_lt_succ hi)]
    rfl

theorem flatMap_length_const {α β : Type} {f : α → List β} {w : Nat} {xs : List α} (size : ∀ x ∈ xs, (f x).length = w) :
    (xs.flatMap f).length = w * xs.length := by
  induction xs with
  | nil => rfl
  | cons x xs ih =>
    rw [List.flatMap_cons, List.length_append, size x List.mem_cons_self,
      ih fun y hy => size y (List.mem_cons_of_mem x hy), List.length_cons, Nat.mul_succ, Nat.add_comm]

theorem memRead_slice (m : List Host.Cell) (a n i w : Nat) (h : i + w ≤ n) :
    ((memRead m a n).drop i).take w = memRead m (a + i) w := by
  rw [memRead_eq, memRead_eq]
  refine List.ext_getElem (by simp; omega) fun j h1 h2 => ?_
  simp [Nat.add_assoc]

/-- Part of what was written. -/
theorem memRead_memPut_in (m : List Host.Cell) (a : Nat) (bs : List Byte) (i w : Nat) (h : i + w ≤ bs.length) :
    memRead (memPut m a bs) (a + i) w = (bs.drop i).take w := by
  rw [← memRead_slice _ a bs.length i w h, memRead_memPut]

theorem memNat_lt (m : List Host.Cell) (a n : Nat) : memNat m a n < 256 ^ n := by
  have bound : ∀ bs : List Byte, leNat bs < 256 ^ bs.length := by
    intro bs
    induction bs with
    | nil => exact Nat.one_pos
    | cons b bs ih =>
      have := b.isLt
      rw [leNat, List.length_cons, Nat.pow_succ]
      omega
  have := bound (memRead m a n)
  rwa [memRead_length] at this

/-! ### One row -/

@[simp] theorem rowRead_length (s : State) (c row : Nat) : (rowRead s c row).length = 128 := by simp [rowRead]

/-- An element of a row is its four bytes. -/
theorem rowRead_getElem (s : State) (c row n : Nat) (h : n < (rowRead s c row).length) :
    (rowRead s c row)[n] = memNat s.mem (rowKey c row n) 4 := by
  rw [rowRead_length] at h
  have key : rowKey c row n = rowKey c row 0 + 4 * n := by unfold rowKey; omega
  simp only [rowRead, List.getElem_map, List.getElem_range]
  rw [memRead_slice _ _ _ _ _ (by omega), ← key]
  rfl

theorem rowRead_getD (s : State) (c row : Nat) {n : Nat} (h : n < 128) :
    (rowRead s c row).getD n 0 = memNat s.mem (rowKey c row n) 4 := by
  rw [List.getD_eq_getElem _ _ (by simpa using h), rowRead_getElem]

theorem rowRead_lt (s : State) (c row n : Nat) : (rowRead s c row).getD n 0 < 4294967296 := by
  rcases Nat.lt_or_ge n 128 with h | h
  · rw [rowRead_getD s c row h]
    exact memNat_lt _ _ 4
  · rw [List.getD_eq_default _ _ (by simpa using h)]
    decide

theorem rowRead_eq {s t : State} (h : t.mem = s.mem) (c row : Nat) : rowRead t c row = rowRead s c row := by
  unfold rowRead
  rw [h]

theorem words_length (xs : List Nat) : (xs.flatMap (leBytes 4)).length = 4 * xs.length :=
  flatMap_length_const fun x _ => leBytes_length 4 x

/-- A written element reads as its low 32 bits. -/
theorem rowWrite_at (s : State) (c row k : Nat) (xs : List Nat) {n : Nat} (low : k ≤ n) (high : n < k + xs.length) (h : n < 128) :
    (rowRead (rowWrite s c row k xs) c row).getD n 0 = xs.getD (n - k) 0 % 4294967296 := by
  have key : rowKey c row n = rowKey c row k + 4 * (n - k) := by unfold rowKey; omega
  have size := words_length xs
  have here : n - k < xs.length := by omega
  rw [rowRead_getD _ _ _ h, memNat, rowWrite, key, memRead_memPut_in _ _ _ _ _ (by omega),
    flatMap_slice (fun x _ => leBytes_length 4 x) here, leNat_leBytes, List.getD_eq_getElem _ _ here]
  rfl

/-- An element that was not written. -/
theorem rowWrite_beside (s : State) (c row k : Nat) (xs : List Nat) {row' n : Nat} (fits : k + xs.length ≤ 128) (h : n < 128)
    (away : row' ≠ row ∨ n < k ∨ k + xs.length ≤ n) :
    (rowRead (rowWrite s c row k xs) c row').getD n 0 = (rowRead s c row').getD n 0 := by
  have size := words_length xs
  rw [rowRead_getD _ _ _ h, rowRead_getD _ _ _ h, memNat, rowWrite, memRead_memPut_out, memNat]
  rw [size]
  unfold rowKey
  omega

/-- Lists of the length of a row are equal when their elements are. -/
theorem row_ext {xs ys : List Nat} (hx : xs.length = 128) (hy : ys.length = 128)
    (h : ∀ n, n < 128 → xs.getD n 0 = ys.getD n 0) : xs = ys := by
  refine List.ext_getElem (hx.trans hy.symm) fun n h1 h2 => ?_
  have := h n (by omega)
  rwa [List.getD_eq_getElem _ _ h1, List.getD_eq_getElem _ _ h2] at this

theorem rowRead_rowWrite_other (s : State) (c row k : Nat) (xs : List Nat) {row' : Nat} (fits : k + xs.length ≤ 128)
    (away : row' ≠ row) : rowRead (rowWrite s c row k xs) c row' = rowRead s c row' :=
  row_ext (rowRead_length _ _ _) (rowRead_length _ _ _) fun _ h => rowWrite_beside s c row k xs fits h (.inl away)

/-! ### Rows in order -/

section
variable {α β : Type} {step : State × β → α → State × β} {c : Nat} {row : α → Nat} {new : State → α → List Nat}
  (writes : ∀ u a, (step u a).1 = rowWrite u.1 c (row a) 0 (new u.1 a)) (full : ∀ u a, (new u a).length = 128)
include writes full

/-- A fold that rewrites rows leaves every other row as it was. -/
theorem rowFold_other {r : Nat} :
    ∀ (l : List α) (u : State × β), r ∉ l.map row → rowRead (l.foldl step u).1 c r = rowRead u.1 c r
  | [], _, _ => rfl
  | a :: l, u, h => by
    rw [List.map_cons, List.mem_cons, not_or] at h
    obtain ⟨here, later⟩ := h
    rw [List.foldl_cons, rowFold_other l _ later, writes, rowRead_rowWrite_other _ _ _ _ _ (by simp [full]) here]

/-- A row that is rewritten once holds what its step made of the state that it found. -/
theorem rowFold_here {l₁ l₂ : List α} {a : α} (u : State × β) (later : row a ∉ l₂.map row) {n : Nat} (h : n < 128) :
    (rowRead ((l₁ ++ a :: l₂).foldl step u).1 c (row a)).getD n 0 =
      (new (l₁.foldl step u).1 a).getD n 0 % 4294967296 := by
  rw [List.foldl_append, List.foldl_cons, rowFold_other writes full l₂ _ later, writes,
    rowWrite_at _ _ _ _ _ (Nat.zero_le n) (by simpa [full] using h) h, Nat.sub_zero]

end

end Sys2Proof.Machine
end

section
/-! What a `tmac` computes (R72 to R76, R261 to R264): each element of its rows once, from the element that stood there. -/

namespace Sys2Proof.Machine

theorem satInt_eq {x lo hi : Int} (h : lo ≤ hi) : satInt x lo hi = max lo (min hi x) := by
  unfold satInt
  split
  · omega
  · split <;> omega

theorem foldl_add_eq_sum {α : Type} (f : α → Int) (l : List α) (x : Int) : l.foldl (fun t a => t + f a) x = x + (l.map f).sum := by
  induction l generalizing x with
  | nil => simp
  | cons a l ih => rw [List.foldl_cons, ih, List.map_cons, List.sum_cons, Int.add_assoc]

/-- The sum of products over K positions (R72). -/
theorem sumK_eq (a w : Nat → Int) (k n : Nat) : sumK a w k n = ((List.range n).map fun i => a (k + i) * w (k + i)).sum := by
  rw [sumK, foldl_add_eq_sum (fun i => a (k + i) * w (k + i)), Int.zero_add]

/-- A function as a table of its first 64 values. -/
def table64 (a : Nat → Int) (j : Nat) : Int := ((List.range 64).map a).toArray.getD j 0

theorem table64_lt (a : Nat → Int) {j : Nat} (h : j < 64) : table64 a j = a j := by simp [table64, Array.getD, h]

/-- A sum that reaches no further than 64 positions takes its factors from their tables. -/
theorem sum_table64 (a w : Nat → Int) {k n : Nat} (h : k + n ≤ 64) :
    ((List.range n).map fun i => table64 a (k + i) * table64 w (k + i)).sum =
      ((List.range n).map fun i => a (k + i) * w (k + i)).sum := by
  refine congrArg List.sum (List.map_congr_left fun i hi => ?_)
  have : k + i < 64 := by have := List.mem_range.1 hi; omega
  rw [table64_lt a this, table64_lt w this]

/-! ### Elements -/

/-- An integer accumulator element (R74). -/
theorem ciUpdate_bits (a w : Nat → Int) (acc : Nat) :
    (ciUpdate a w acc).bits =
      (BitVec.ofInt 32 (max (-2147483648) (min 2147483647 ((BitVec.ofNat 32 acc).toInt + sumK a w 0 64)))).toNat := by
  simp only [ciUpdate]
  rw [satInt_eq (by decide)]

/-- One converted block sum, as an FP32 word (R73). -/
def blockWord (ftz : Bool) (e : Int) (nan : Bool) (h : Int) : Nat :=
  if nan then 0x7FC00000 else if h = 0 then 0 else (fp32.finite 0 ftz false (decide (h < 0)) h.natAbs e false).bits

/-- One addition to an FP32 element, as words (R73). -/
def addWord (ftz : Bool) (acc q : Nat) : Nat := (fp32.add 0 ftz (fp32.operand ftz acc) (fp32.operand ftz q)).bits

theorem addBlock_bits (ftz : Bool) (e : Int) (nan : Bool) (acc : FRes) (h : Int) :
    (addBlock ftz e nan acc h).bits = addWord ftz acc.bits (blockWord ftz e nan h) := by
  unfold addBlock addWord blockWord
  cases nan
  · by_cases hh : h = 0 <;> simp [hh]
  · rfl

/-- The additions of an MX update: of each K-block, whole or in halves under version 1, the block, where it begins and how many positions
it sums (R73, R76). -/
def mxSteps (v1 : Bool) : List (Nat × Nat × Nat) :=
  if v1 then [(0, 0, 16), (0, 16, 16), (1, 32, 16), (1, 48, 16)] else [(0, 0, 32), (1, 32, 32)]

theorem mxSteps_eq (n : Nat) : mxSteps (n == 1) =
    if n = 1 then [(0, 0, 16), (0, 16, 16), (1, 32, 16), (1, 48, 16)] else [(0, 0, 32), (1, 32, 32)] := by
  simp [mxSteps]

/-- The word that one step of an MX update adds: a NaN where a scale is one (R73). -/
def mxWord (v1 : Bool) (g : Int) (xa xw : Nat → Nat) (a w : Nat → Int) (b : Nat × Nat × Nat) : Nat :=
  let h := ((List.range b.2.2).map fun k => a (b.2.1 + k) * w (b.2.1 + k)).sum
  if xa b.1 = 255 ∨ xw b.1 = 255 then 0x7FC00000 else if h = 0 then 0
    else (fp32.finite 0 v1 false (decide (h < 0)) h.natAbs ((xa b.1 : Int) + xw b.1 - 254 + g) false).bits

/-- One step of an MX update, as words. -/
def mxStep (v1 : Bool) (g : Int) (xa xw : Nat → Nat) (a w : Nat → Int) (acc : Nat) (b : Nat × Nat × Nat) : Nat :=
  addWord v1 acc (mxWord v1 g xa xw a w b)

theorem blockWord_eq (v1 : Bool) (g : Int) (xa xw : Nat → Nat) (a w : Nat → Int) (b : Nat × Nat × Nat) :
    blockWord v1 ((xa b.1 : Int) + xw b.1 - 254 + g) (xa b.1 == 255 || xw b.1 == 255) (sumK a w b.2.1 b.2.2) =
      mxWord v1 g xa xw a w b := by
  simp only [blockWord, mxWord, sumK_eq, Bool.or_eq_true, beq_iff_eq]

theorem mxUpdate_bits (v1 : Bool) (g : Int) (xa xw : Nat → Nat) (a w : Nat → Int) (acc : Nat) :
    (mxUpdate v1 g xa xw a w acc).bits = (mxSteps v1).foldl (mxStep v1 g xa xw a w) acc := by
  have two : List.range 2 = [0, 1] := rfl
  cases v1
  · simp only [mxUpdate, mxSteps, two, List.foldl_cons, List.foldl_nil, Bool.false_eq_true, if_false, addBlock_bits, mxStep,
      ← blockWord_eq]
  · simp only [mxUpdate, mxSteps, two, List.foldl_cons, List.foldl_nil, if_true, addBlock_bits, mxStep, ← blockWord_eq]

theorem mxUpdate_lt (v1 : Bool) (g : Int) (xa xw : Nat → Nat) (a w : Nat → Int) (acc : Nat) :
    (mxUpdate v1 g xa xw a w acc).bits < 4294967296 := by
  rw [mxUpdate_bits]
  cases v1 <;> exact fp32_add_bits_lt _ _ _ _

/-! ### Rows -/

/-- Each bank's slot with its place, and each row of the activation tile. -/
def tmacWork (x : DWord) (slots : List (List Nat × List Byte)) : List (((List Nat × List Byte) × Nat) × Nat) :=
  slots.zipIdx.flatMap fun b => (List.range (actRows x)).map fun m => (b, m)

/-- The accumulator row of one bank and one activation row (R263). -/
def tmacTarget (y z : DWord) (a : ((List Nat × List Byte) × Nat) × Nat) : Nat := accRow y + a.2 * bankCount z + a.1.2

/-- The words of one accumulator row after its update. -/
def tmacWords (c : Crew) (p : Nat) (x y z : DWord) (tile : Array Byte) (u : State) (a : ((List Nat × List Byte) × Nat) × Nat) : List Nat :=
  (tmacRow u c p x y z tile a.2 a.1.2 a.1.1.1 a.1.1.2).map (·.bits)

/-- One row of a `tmac`. -/
def tmacStep (c : Crew) (p : Nat) (x y z : DWord) (tile : Array Byte) (u : State × List FRes)
    (a : ((List Nat × List Byte) × Nat) × Nat) : State × List FRes :=
  (rowWrite u.1 c.id (tmacTarget y z a) 0 (tmacWords c p x y z tile u.1 a),
    u.2 ++ tmacRow u.1 c p x y z tile a.2 a.1.2 a.1.1.1 a.1.1.2)

section
variable (s : State) (c : Crew) (p : Nat) (x y z : DWord) (tile : Array Byte) (slots : List (List Nat × List Byte))

theorem multiply_eq : multiply s c p x y z tile slots = (tmacWork x slots).foldl (tmacStep c p x y z tile) (s, []) := by
  rw [tmacWork, List.foldl_flatMap]
  simp only [List.foldl_map]
  rfl

theorem tmacRow_length (m i : Nat) (ws : List Nat) (xw : List Byte) : (tmacRow s c p x y z tile m i ws xw).length = 128 := by
  simp [tmacRow]

theorem tmacWords_length (a : ((List Nat × List Byte) × Nat) × Nat) : (tmacWords c p x y z tile s a).length = 128 := by
  rw [tmacWords, List.length_map, tmacRow_length]

theorem mem_tmacWork {a : ((List Nat × List Byte) × Nat) × Nat} :
    a ∈ tmacWork x slots ↔ slots[a.1.2]? = some a.1.1 ∧ a.2 < actRows x := by
  obtain ⟨b, m⟩ := a
  simp only [tmacWork, List.mem_flatMap, List.mem_map, List.mem_range, Prod.mk.injEq]
  constructor
  · rintro ⟨b, hb, m, hm, rfl, rfl⟩
    exact ⟨List.mem_zipIdx_iff_getElem?.1 hb, hm⟩
  · rintro ⟨hb, hm⟩
    exact ⟨b, List.mem_zipIdx_iff_getElem?.2 hb, m, hm, rfl, rfl⟩

/-- Two places of a `tmac` that name one row are the same. -/
theorem place_unique {r B m i m' i' : Nat} (hi : i < B) (hi' : i' < B) (h : r + m * B + i = r + m' * B + i') : m = m' ∧ i = i' := by
  have same : m * B + i = m' * B + i' := by omega
  have first : (m * B + i) / B = m := by
    rw [Nat.mul_comm, Nat.mul_add_div (by omega), Nat.div_eq_of_lt hi, Nat.add_zero]
  have second : (m' * B + i') / B = m' := by
    rw [Nat.mul_comm, Nat.mul_add_div (by omega), Nat.div_eq_of_lt hi', Nat.add_zero]
  have : m = m' := by rw [← first, same, second]
  subst this
  exact ⟨rfl, by omega⟩

/-- Every row of a `tmac` is updated once. -/
theorem tmacWork_nodup (h : slots.length = bankCount z) : ((tmacWork x slots).map (tmacTarget y z)).Nodup := by
  have places : (slots.zipIdx).Pairwise fun b d => b.2 ≠ d.2 := by
    have := List.zipIdx_map_snd 0 slots ▸ (List.nodup_range' (s := 0) (n := slots.length))
    exact List.pairwise_map.1 this
  have bound : ∀ b ∈ slots.zipIdx, b.2 < bankCount z := fun b hb =>
    h ▸ (List.mem_zipIdx' hb).1
  have flat : (tmacWork x slots).map (tmacTarget y z) =
      slots.zipIdx.flatMap fun b => (List.range (actRows x)).map fun m => accRow y + m * bankCount z + b.2 := by
    simp only [tmacWork, List.map_flatMap, List.map_map]
    rfl
  rw [flat, List.nodup_flatMap]
  refine ⟨fun b hb => ?_, ?_⟩
  · exact List.Nodup.map_on (fun m _ m' _ e => (place_unique (bound b hb) (bound b hb) e).1) List.nodup_range
  · refine List.Pairwise.imp_of_mem (fun {b d} hb hd ne => ?_) places
    simp only [Function.onFun, List.Disjoint, List.mem_map]
    rintro r ⟨m, -, rfl⟩ ⟨m', -, e⟩
    exact ne (place_unique (bound d hd) (bound b hb) e).2.symm

/-- Rows that a `tmac` does not name stay as they are (R263). -/
theorem multiply_other {row : Nat} (h : slots.length = bankCount z)
    (away : row < accRow y ∨ accRow y + actRows x * bankCount z ≤ row) :
    rowRead (multiply s c p x y z tile slots).1 c.id row = rowRead s c.id row := by
  rw [multiply_eq]
  refine rowFold_other (step := tmacStep c p x y z tile) (row := tmacTarget y z) (new := tmacWords c p x y z tile)
    (fun _ _ => rfl) (fun u a => tmacWords_length u c p x y z tile a) _ _ fun hit => ?_
  obtain ⟨⟨b, m⟩, hm, rfl⟩ := List.mem_map.1 hit
  obtain ⟨hb, hm⟩ := (mem_tmacWork x slots).1 hm
  obtain ⟨hi, -⟩ := List.getElem?_eq_some_iff.1 hb
  simp only [tmacTarget] at away hm hi
  have : m * bankCount z + bankCount z ≤ actRows x * bankCount z := by
    rw [← Nat.succ_mul]
    exact Nat.mul_le_mul_right _ hm
  omega

theorem tmacStep_nbv (l : List (((List Nat × List Byte) × Nat) × Nat)) (u : State × List FRes) :
    (l.foldl (tmacStep c p x y z tile) u).1.nbv = u.1.nbv := 
  foldl_same (f := tmacStep c p x y z tile) (fun u : State × List FRes => u.1.nbv) (fun _ _ => rfl) l u

/-- A row that a `tmac` names holds what its update makes of the row as it stood (R263). -/
theorem multiply_here {m i n : Nat} (h : slots.length = bankCount z) (hm : m < actRows x) (hi : i < bankCount z) (hn : n < 128) :
    ∃ u : State, u.nbv = s.nbv ∧ rowRead u c.id (accRow y + m * bankCount z + i) = rowRead s c.id (accRow y + m * bankCount z + i) ∧
      (rowRead (multiply s c p x y z tile slots).1 c.id (accRow y + m * bankCount z + i)).getD n 0 =
        (tmacWords c p x y z tile u ((slots.getD i ([], []), i), m)).getD n 0 % 4294967296 := by
  have place : slots[i]? = some (slots.getD i ([], [])) := by
    rw [List.getD_eq_getElem _ _ (h ▸ hi), List.getElem?_eq_getElem (h ▸ hi)]
  obtain ⟨l₁, l₂, work⟩ := List.append_of_mem ((mem_tmacWork (a := ((slots.getD i ([], []), i), m)) x slots).2 ⟨place, hm⟩)
  have once := tmacWork_nodup x y z slots h
  rw [work, List.map_append, List.map_cons, List.nodup_append] at once
  obtain ⟨-, once, apart⟩ := once
  refine ⟨(l₁.foldl (tmacStep c p x y z tile) (s, [])).1, tmacStep_nbv c p x y z tile l₁ _, ?_, ?_⟩
  · exact rowFold_other (step := tmacStep c p x y z tile) (row := tmacTarget y z) (new := tmacWords c p x y z tile)
      (fun _ _ => rfl) (fun u a => tmacWords_length u c p x y z tile a) l₁ _ fun hit => apart _ hit _ List.mem_cons_self rfl
  · rw [multiply_eq, work]
    exact rowFold_here (step := tmacStep c p x y z tile) (row := tmacTarget y z) (new := tmacWords c p x y z tile)
      (fun _ _ => rfl) (fun u a => tmacWords_length u c p x y z tile a) _ (List.nodup_cons.1 once).1 hn

/-- One element after its update, from the element that stood there (R72 to R74, R76). -/
theorem tmacWords_getD (m i : Nat) (w : List Nat × List Byte) {n : Nat} (hn : n < 128) :
    let old := if accOvw y then 0 else (rowRead s c.id (accRow y + m * bankCount z + i)).getD n 0
    let A := actElem (actFmt p) (actPlanes x (slotPlanes (actFmt p))) tile m
    let W := fun k => planesInt w.1 k n
    (tmacWords c p x y z tile s ((w, i), m)).getD n 0 = if p = 3
      then (BitVec.ofInt 32 (max (-2147483648) (min 2147483647 ((BitVec.ofNat 32 old).toInt +
        ((List.range 64).map fun k => A k * W k).sum)))).toNat
      else (mxSteps (s.nbv == 1)).foldl (mxStep (s.nbv == 1) (pairConstant p)
        (fun b => (tile.getD (actBytes (actFmt p) (actRows x) + 2 * m + b) 0).toNat) (fun b => (w.2.getD (2 * n + b) 0).toNat) A W) old := by
  intro old A W
  have stood : (if accOvw y then List.replicate 128 0 else rowRead s c.id (accRow y + m * bankCount z + i)).getD n 0 = old := by
    simp only [old]
    split
    · rw [List.getD_eq_getElem _ _ (by simpa using hn), List.getElem_replicate]
    · rfl
  have entry : (tmacWords c p x y z tile s ((w, i), m)).getD n 0 = (if p = 3 then ciUpdate (table64 A) (table64 W) old
      else mxUpdate (s.nbv == 1) (pairConstant p) (fun b => (tile.getD (actBytes (actFmt p) (actRows x) + 2 * m + b) 0).toNat)
        (fun b => (w.2.getD (2 * n + b) 0).toNat) (table64 A) (table64 W) old).bits := by
    rw [← stood]
    simp only [tmacWords, tmacRow, List.map_map]
    rw [List.getD_eq_getElem _ _ (by simpa using hn), List.getElem_map, List.getElem_range]
    rfl
  rw [entry]
  split
  · rw [ciUpdate_bits, sumK_eq, sum_table64 A W (by decide)]
    simp only [Nat.zero_add]
  · rw [mxUpdate_bits]
    refine List.foldl_ext _ _ _ fun acc b hb => ?_
    have within : b.2.1 + b.2.2 ≤ 64 := by
      have all : ∀ v, ∀ b ∈ mxSteps v, b.2.1 + b.2.2 ≤ 64 := by decide
      exact all _ b hb
    rw [mxStep, mxStep, mxWord, mxWord, sum_table64 A W within]

theorem tmacWords_lt (a : ((List Nat × List Byte) × Nat) × Nat) (n : Nat) :
    (tmacWords c p x y z tile s a).getD n 0 < 4294967296 := by
  rcases Nat.lt_or_ge n 128 with hn | hn
  · simp only [tmacWords, tmacRow, List.map_map]
    rw [List.getD_eq_getElem _ _ (by simpa using hn), List.getElem_map, List.getElem_range]
    simp only [Function.comp]
    split
    · rw [ciUpdate_bits]
      exact BitVec.isLt _
    · exact mxUpdate_lt _ _ _ _ _ _ _
  · rw [List.getD_eq_default _ _ (by rw [tmacWords_length]; exact hn)]
    decide

end

/-! ### Runs (R264) -/

section
variable {s : State} {o : Op} {p : Nat} {x y z : DWord} {c : Crew} {bank : Nat} (crew : s.myCrew = some c)
  (rows : accRow y + actRows x * bankCount z ≤ c.rows) (mapped : c.mapped (bankFirst z + o.pos) = some bank)
  (sound : slotBad s bank (weightFmt p) (bankSlot z) = false)
include crew rows mapped sound

/-- A run before the last reads one more bank. -/
theorem runTmac_part (more : o.pos + 1 < bankCount z) :
    runTmac s o p x y z = .part (setOp s { o with slots := o.slots ++ [readSlot s p z bank] }) (o.pos + 1) o.detail := by
  unfold runTmac withRows runCrew
  simp only [crew, Nat.not_lt.2 rows, if_false, mapped, sound, Bool.false_eq_true, more, if_true]

/-- The last run multiplies. -/
theorem runTmac_last (last : bankCount z ≤ o.pos + 1) (fits : actOff x + tileBytes (actFmt p) (actRows x) ≤ c.spadBytes)
    (clean : tilePoison s c (actFmt p) x = false) :
    let r := multiply s c p x y z (spadRead s c.storage (actOff x) (tileBytes (actFmt p) (actRows x))).toArray
      (o.slots ++ [readSlot s p z bank])
    runTmac s o p x y z = .ended (countResults r.1 (accTag y) r.2) 0 0 := by
  unfold runTmac withRows runCrew withTile
  simp only [crew, Nat.not_lt.2 rows, if_false, mapped, sound, Bool.false_eq_true, Nat.not_lt.2 last, Nat.not_lt.2 fits, clean]

end

end Sys2Proof.Machine
end

section
/-! The integers of an activation tile (R69, R72, R262). -/

namespace Sys2Proof.Machine

theorem lowered_eq (n p : Nat) (x : Int) : lowered n p x = x / 2 ^ (n - p) * 2 ^ (n - p) := by
  simp [lowered]

/-- The sign and magnitude of an E2M1 code (R72). -/
theorem twiceE2m1_eq {c : Nat} (h : c < 16) :
    twiceE2m1 c = (if 8 ≤ c then -1 else 1) * ([0, 1, 2, 3, 4, 6, 8, 12] : List Int).getD (c % 8) 0 := by
  unfold twiceE2m1
  rw [Nat.mod_eq_of_lt h]
  simp only
  split
  · rw [Int.neg_one_mul]
  · rw [Int.one_mul]

/-- The number that bits give, the first the highest. -/
def bitsNat (b : Nat → Bool) (p : Nat) : Nat := (List.range p).foldl (fun y j => 2 * y + (if b j then 1 else 0)) 0

theorem bitsNat_succ (b : Nat → Bool) (p : Nat) : bitsNat b (p + 1) = 2 * bitsNat b p + (if b p then 1 else 0) := by
  simp [bitsNat, List.range_succ]

/-- Bits as a sum of powers, the first the highest. -/
theorem bitsNat_eq_sum (b : Nat → Bool) (p : Nat) :
    (bitsNat b p : Int) = ((List.range p).map fun j => if b j = true then (2 ^ (p - 1 - j) : Int) else 0).sum := by
  induction p with
  | zero => rfl
  | succ p ih =>
    have shift : ((List.range p).map fun j => if b j = true then (2 ^ (p + 1 - 1 - j) : Int) else 0) =
        (List.range p).map fun j => 2 * (if b j = true then (2 ^ (p - 1 - j) : Int) else 0) := by
      refine List.map_congr_left fun j hj => ?_
      have hj := List.mem_range.1 hj
      have : p + 1 - 1 - j = (p - 1 - j) + 1 := by omega
      rw [this, Int.pow_succ]
      split
      · exact Int.mul_comm _ _
      · rfl
    rw [bitsNat_succ, List.range_succ, List.map_append, List.sum_append, shift, List.sum_map_mul_left, ← ih]
    by_cases h : b p = true <;> simp [h]

theorem bitsNat_bounds (b : Nat → Bool) (p : Nat) :
    bitsNat b (p + 1) < 2 ^ (p + 1) ∧ (b 0 = true ↔ 2 ^ p ≤ bitsNat b (p + 1)) := by
  induction p with
  | zero =>
    rw [bitsNat_succ]
    by_cases h : b 0 = true <;> simp [h, bitsNat]
  | succ p ih =>
    obtain ⟨high, top⟩ := ih
    rw [bitsNat_succ, Nat.pow_succ 2 (p + 1), top, Nat.pow_succ 2 p]
    rw [Nat.pow_succ] at high
    split <;> omega

/-- Bits in two's complement, the sign first (R69). -/
theorem signedBits_bitsNat (b : Nat → Bool) {p : Nat} (h : 1 ≤ p) : signedBits p (bitsNat b p) =
    ((List.range p).map fun j => if b j = true then (2 ^ (p - 1 - j) : Int) else 0).sum - (if b 0 = true then 2 ^ p else 0) := by
  obtain ⟨p, rfl⟩ : ∃ k, p = k + 1 := ⟨p - 1, by omega⟩
  obtain ⟨high, top⟩ := bitsNat_bounds b p
  have sign : bit (bitsNat b (p + 1)) (p + 1 - 1) = b 0 := by
    rw [Bool.eq_iff_iff, top, bit, Nat.add_sub_cancel, beq_iff_eq]
    rcases Nat.lt_or_ge (bitsNat b (p + 1)) (2 ^ p) with low | up
    · simp [Nat.div_eq_of_lt low, Nat.not_le.2 low]
    · have one : bitsNat b (p + 1) / 2 ^ p = 1 :=
        Nat.div_eq_of_lt_le (by omega) (by rw [Nat.pow_succ] at high; omega)
      simp [one, up]
  rw [signedBits, sign, bitsNat_eq_sum]
  split <;> simp

/-- An element of an activation tile with p planes (R262). -/
theorem actElem_eq {f p m k : Nat} {tile : Array Byte} (h : 1 ≤ p) (hf : f < 3) : actElem f p tile m k =
    if f = 0 then (tile.getD (64 * m + k) 0).toInt / 2 ^ (8 - p) * 2 ^ (8 - p)
    else if f = 1 then
      let e := (tile.getD (32 * m + k / 2) 0).toNat / 16 ^ (k % 2) % 16
      (if 8 ≤ e then -1 else 1) * ([0, 1, 2, 3, 4, 6, 8, 12] : List Int).getD (e % 8) 0 / 2 ^ (5 - p) * 2 ^ (5 - p)
    else
      let e := 64 * (m % 8) + k
      let b := fun j => (tile.getD (512 * (m / 8) + 64 * j + e / 8) 0).getLsbD (e % 8)
      ((List.range p).map fun j => if b j = true then (2 ^ (p - 1 - j) : Int) else 0).sum - (if b 0 = true then 2 ^ p else 0) := by
  rcases (by omega : f = 0 ∨ f = 1 ∨ f = 2) with rfl | rfl | rfl
  · simp only [actElem, if_true, lowered_eq]
  · have half : (tile.getD (32 * m + k / 2) 0).toNat / 16 ^ (k % 2) % 16 =
        if k % 2 = 0 then (tile.getD (32 * m + k / 2) 0).toNat % 16 else (tile.getD (32 * m + k / 2) 0).toNat / 16 := by
      have byte := (tile.getD (32 * m + k / 2) 0).isLt
      rcases Nat.mod_two_eq_zero_or_one k with even | odd
      · simp [even]
      · rw [odd, Nat.pow_one, if_neg (by decide), Nat.mod_eq_of_lt (by omega)]
    simp only [actElem, one_ne_zero, if_false, if_true]
    rw [lowered_eq, ← half, twiceE2m1_eq (Nat.mod_lt _ (by decide))]
  · simp only [OfNat.ofNat_ne_zero, if_false, OfNat.ofNat_ne_one]
    exact signedBits_bitsNat (fun j => (tile.getD (512 * (m / 8) + 64 * j + (64 * (m % 8) + k) / 8) 0).getLsbD ((64 * (m % 8) + k) % 8)) h

end Sys2Proof.Machine
end

section
/-! Accumulator elements as numbers, and numbers in the formats of a drain and of the accumulator (R75, R76, R266, R268). -/

namespace Sys2Proof.Machine

/-! ### Products -/

/-- A product that IEEE 754 gives no value. -/
theorem product_nan {v u : Machine.Num} (h : (v.isNan || u.isNan || (v.isInf && u.isZero) || (v.isZero && u.isInf)) = true) :
    product v u = .nan false := by
  simp only [Bool.or_eq_true, Bool.and_eq_true] at h
  unfold product
  split
  · rfl
  · next number =>
    simp only [Bool.or_eq_true, not_or] at number
    obtain ⟨hv, hu⟩ := number
    rcases h with ((h | h) | ⟨inf, zero⟩) | ⟨zero, inf⟩
    · exact absurd h hv
    · exact absurd h hu
    · cases v <;> cases u <;> simp_all [Num.isInf, Num.isNan, Num.isZero, Num.mul]
    · cases v <;> cases u <;> simp_all [Num.isInf, Num.isNan, Num.isZero, Num.mul]

theorem product_finite (n k : Bool) (m q : Nat) (e g : Int) : product (.fin n m e) (.fin k q g) = .fin (n != k) (m * q) (e + g) := rfl

theorem product_infinite {v u : Machine.Num} (h : (v.isNan || u.isNan || (v.isInf && u.isZero) || (v.isZero && u.isInf)) = false)
    (inf : (v.isInf || u.isInf) = true) : product v u = .inf (v.neg != u.neg) := by
  simp only [Bool.or_eq_false_iff, Bool.and_eq_false_iff] at h
  obtain ⟨⟨⟨hv, hu⟩, here⟩, there⟩ := h
  unfold product
  rw [if_neg (by simp [hv, hu])]
  cases v with
  | nan s => exact absurd hv (by simp [Num.isNan])
  | inf n => cases u <;> simp_all [Num.isInf, Num.isZero, Num.mul]
  | fin n m e => cases u <;> simp_all [Num.isInf, Num.isZero, Num.mul]

/-! ### Narrowing -/

theorem narrow_nan (f : Fmt) (sat s : Bool) : (narrow f sat (.nan s)).bits = f.nan ∧ (narrow f sat (.nan s)).nan = true := ⟨rfl, rfl⟩

theorem narrowInt_nan (n : Nat) (s : Bool) : narrowInt n (.nan s) = { bits := 0, nan := true } := rfl

theorem narrow_finite (f : Fmt) (sat n : Bool) (m : Nat) (e : Int) : narrow f sat (.fin n m e) = f.finite 0 false sat n m e false := rfl

/-- An infinity where the format has one, has NaN alone, or saturates (R70, R266). -/
theorem narrow_inf {f : Fmt} (h : f ∈ [fp32, bf16, e4m3, e5m2]) (sat n : Bool) :
    (narrow f sat (.inf n)).bits = if sat = true then f.signed n f.largest else if f = e4m3 then 0x7F else f.signed n f.inf := by
  simp only [List.mem_cons, List.not_mem_nil, or_false] at h
  rcases h with rfl | rfl | rfl | rfl <;> cases sat <;> rfl

/-- The bounds of a signed integer of w bits. -/
theorem narrowInt_inf {w : Nat} (n : Bool) : (narrowInt w (.inf n)).bits =
      (BitVec.ofInt w (if n = true then -((2 : Int) ^ (w - 1) - 1) - 1 else 2 ^ (w - 1) - 1)).toNat ∧
    (narrowInt w (.inf n)).sat = true := by
  have lo : -((2 : Int) ^ (w - 1) - 1) - 1 = -((2 ^ (w - 1) : Nat) : Int) := by push_cast; omega
  rw [lo]
  cases n
  · simp [narrowInt]
  · simp [narrowInt]

/-- A finite number as an integer of w bits: rounded, then saturated (R266). -/
theorem narrowInt_finite (w : Nat) (n : Bool) (m : Nat) (e : Int) :
    let hi : Int := 2 ^ (w - 1) - 1
    ∃ k, Rounds 0 (signedUnits (min e 0) n m e) (units (min e 0) 0 1) k ∧
      (narrowInt w (.fin n m e)).bits = (BitVec.ofInt w (max (-hi - 1) (min hi k))).toNat ∧
      ((narrowInt w (.fin n m e)).sat = true ↔ max (-hi - 1) (min hi k) ≠ k) := by
  intro hi
  have lo : -((2 ^ (w - 1) : Nat) : Int) = -hi - 1 := by simp only [hi]; push_cast; omega
  have top : ((2 ^ (w - 1) : Nat) : Int) - 1 = hi := by simp only [hi]; push_cast; rfl
  have order : -hi - 1 ≤ hi := by
    have : (0 : Int) < 2 ^ (w - 1) := by positivity
    simp only [hi]; omega
  refine ⟨(toInteger 0 n m e).1, (toInteger_rounds 0 n m e).1, ?_, ?_⟩
  · simp only [narrowInt]
    rw [lo, top, satInt_eq order]
  · simp only [narrowInt]
    rw [lo, top, satInt_eq order, bne_iff_ne, ne_comm]

/-! ### Elements -/

/-- The sum of integer elements saturates (R268). -/
theorem accSum_int (v1 : Bool) (a b : Nat) : (accSum v1 true a b).bits =
    (BitVec.ofInt 32 (max (-2147483648) (min 2147483647 ((BitVec.ofNat 32 a).toInt + (BitVec.ofNat 32 b).toInt)))).toNat := by
  simp only [accSum, if_true]
  rw [satInt_eq (by decide)]

theorem accSum_float (v1 : Bool) (a b : Nat) :
    (accSum v1 false a b).bits = (fp32.add 0 v1 (fp32.operand v1 a) (fp32.operand v1 b)).bits := rfl

theorem accSum_lt (v1 int : Bool) (a b : Nat) : (accSum v1 int a b).bits < 4294967296 := by
  cases int
  · exact fp32_add_bits_lt _ _ _ _
  · rw [accSum_int]
    exact BitVec.isLt _

theorem accWord_int (v1 : Bool) (a : Nat) : accWord v1 true a = a := by simp [accWord]

theorem accWord_kept (a : Nat) : accWord false false a = a := by simp [accWord]

/-- Version 1 reads a subnormal element as a zero of its sign (R76). -/
theorem accWord_flushed {a : Nat} (h : a < 4294967296) :
    accWord true false a = if a / 8388608 % 256 = 0 then a / 2147483648 * 2147483648 else a := by
  simp only [accWord, Fmt.subnormal, Bool.not_false, Bool.and_true, Bool.true_and, Bool.and_eq_true, beq_iff_eq, bne_iff_ne]
  norm_num
  split <;> split <;> omega

theorem accTimes_lt (v1 int : Bool) (u : Machine.Num) (a : Nat) : (accTimes v1 int u a).bits < 4294967296 := by
  cases int
  · exact narrow_bits_lt (f := fp32) (by decide) (by decide) false _
  · exact narrowInt_bits_lt 32 _

theorem accTimes_bits (v1 int : Bool) (u : Machine.Num) (a : Nat) : (accTimes v1 int u a).bits =
    (if int = true then narrowInt 32 (product (accValue v1 int a) u) else narrow fp32 false (product (accValue v1 int a) u)).bits := rfl

end Sys2Proof.Machine
end

section
/-! What a `tdrain` writes: each row in its format, at its stride (R68, R69, R214, R215, R265 to R267). -/

namespace Sys2Proof.Machine

/-! ### Pieces of bytes and bits -/

/-- An element of pieces of w elements each. -/
theorem flatMap_getElem? {α β : Type} {f : α → List β} {w : Nat} {xs : List α} {i j : Nat} (size : ∀ x ∈ xs, (f x).length = w)
    (hi : i < xs.length) (hj : j < w) : (xs.flatMap f)[w * i + j]? = (f xs[i])[j]? := by
  rw [← flatMap_slice size hi, List.getElem?_take_of_lt hj, List.getElem?_drop]

theorem flatMap_getD {α β : Type} {f : α → List β} {w : Nat} {xs : List α} {n : Nat} (d : β) (size : ∀ x ∈ xs, (f x).length = w)
    (hw : 0 < w) (hi : n / w < xs.length) : (xs.flatMap f).getD n d = (f xs[n / w]).getD (n % w) d := by
  rw [List.getD_eq_getElem?_getD, List.getD_eq_getElem?_getD, ← flatMap_getElem? size hi (Nat.mod_lt n hw), Nat.div_add_mod]

/-- Bits packed into a number, the first the lowest. -/
theorem foldr_testBit (p : Nat) : ∀ (b : Nat → Bool) (k : Nat),
    ((List.range p).foldr (fun i x => (if b i then 1 else 0) + 2 * x) 0).testBit k = (decide (k < p) && b k) := by
  induction p with
  | zero => simp
  | succ p ih =>
    intro b k
    rw [List.range_succ_eq_map, List.foldr_cons, List.foldr_map]
    have rest := ih fun i => b (i + 1)
    generalize (List.range p).foldr (fun i x => (if b (i + 1) then 1 else 0) + 2 * x) 0 = y at rest
    cases k with
    | zero => cases b 0 <;> simp [Nat.testBit_zero]
    | succ k =>
      have half : ((if b 0 then 1 else 0) + 2 * y) / 2 = y := by split <;> omega
      rw [Nat.testBit_succ, half, rest k]
      simp

/-- A byte of eight bits. -/
theorem byteOf_getLsbD (b : Nat → Bool) {k : Nat} (h : k < 8) :
    (BitVec.ofNat 8 ((List.range 8).foldr (fun i x => (if b i then 1 else 0) + 2 * x) 0)).getLsbD k = b k := by
  rw [BitVec.getLsbD_ofNat, foldr_testBit]
  simp [h]

theorem bit_eq_testBit (x k : Nat) : bit x k = x.testBit k := by
  rw [bit, Nat.testBit_eq_decide_div_mod_eq]
  rfl

/-- Two codes a byte (R68). -/
theorem packNibbles_spec (k : Nat) : ∀ codes : List Nat, codes.length = 2 * k → (packNibbles codes).length = k ∧
    ∀ j, j < k → (packNibbles codes).getD j 0 = BitVec.ofNat 8 (codes.getD (2 * j) 0 + 16 * codes.getD (2 * j + 1) 0) := by
  induction k with
  | zero =>
    intro codes h
    rw [List.length_eq_zero_iff.1 h]
    exact ⟨rfl, fun j hj => absurd hj (Nat.not_lt_zero j)⟩
  | succ k ih =>
    rintro (_ | ⟨a, _ | ⟨b, rest⟩⟩) h
    · simp at h
    · simp at h; omega
    · obtain ⟨size, bytes⟩ := ih rest (by simp at h; omega)
      refine ⟨by simp [packNibbles, size], fun j hj => ?_⟩
      cases j with
      | zero => rfl
      | succ j => exact bytes j (Nat.lt_of_succ_lt_succ hj)

/-- A nibble of a packed byte. -/
theorem packNibbles_nibble {k : Nat} {codes : List Nat} (size : codes.length = 2 * k) (small : ∀ n, codes.getD n 0 < 16) {n : Nat}
    (h : n < 2 * k) : ((packNibbles codes).getD (n / 2) 0).toNat / 16 ^ (n % 2) % 16 = codes.getD n 0 := by
  have low := small (2 * (n / 2))
  have high := small (2 * (n / 2) + 1)
  have byte := Nat.mod_eq_of_lt (show codes.getD (2 * (n / 2)) 0 + 16 * codes.getD (2 * (n / 2) + 1) 0 < 2 ^ 8 by omega)
  rw [(packNibbles_spec k codes size).2 _ (by omega), BitVec.toNat_ofNat, byte]
  rcases Nat.mod_two_eq_zero_or_one n with even | odd
  · have here : 2 * (n / 2) = n := by omega
    rw [even, Nat.pow_zero, Nat.div_one]
    rw [here] at low high ⊢
    omega
  · have here : 2 * (n / 2) + 1 = n := by omega
    rw [odd, Nat.pow_one]
    rw [here] at high ⊢
    omega

/-- One bit of a line of codes in planes (R69). -/
theorem ciLine_bit (codes : Array Nat) {j e : Nat} (hj : j < 8) (he : e < 512) :
    ((ciLine codes).getD (64 * j + e / 8) 0).getLsbD (e % 8) = (codes.getD e 0).testBit (7 - j) := by
  have block : (64 * j + e / 8) / 64 = j := by omega
  have place : (64 * j + e / 8) % 64 * 8 + e % 8 = e := by omega
  rw [ciLine, List.getD_eq_getElem _ _ (by simp; omega), List.getElem_map, List.getElem_range, block]
  rw [byteOf_getLsbD (fun b => bit (codes.getD ((64 * j + e / 8) % 64 * 8 + b) 0) (7 - j)) (by omega), place, bit_eq_testBit]

/-! ### Rows in float formats -/

theorem drainFmt_eq {f : Nat} (h : f < 4) : drainFmt f = [fp32, bf16, e4m3, e5m2].getD f fp32 ∧
    (drainFmt f).width = 8 * ([4, 2, 1, 1] : List Nat).getD f 0 ∧ 1 ≤ (drainFmt f).mb ∧ 1 ≤ (drainFmt f).eb ∧
    drainMx f = false ∧ f ≠ 6 := by
  revert f
  decide

section
variable {s : State} {f i n : Nat} {x y z x2 : DWord} {rows : List (List Nat)}

/-- A row of full length, by its place. -/
theorem row_at (A : Nat → Machine.Num) (lens : ∀ q ∈ rows, q.length = 128) (hi : i < rows.length) :
    rows[i] = rows.getD i [] ∧ ((rows.getD i []).map A).length = 128 := by
  have row : rows[i] = rows.getD i [] := (List.getD_eq_getElem _ _ _).symm
  rw [List.length_map, ← row]
  exact ⟨rfl, lens _ (List.getElem_mem _)⟩

/-- Row i of a drain to a float format. -/
theorem drainOutputs_float (hf : f < 4) (hi : i < rows.length) : (drainOutputs s f x y z x2 rows).1[i]? =
    some (x.toNat + drainStride z * i, (drainFloat s f (z.getLsbD 7) (fp32.decode (x2.toNat % 4294967296))
      (rows[i].map (accValue (s.nbv == 1) (accInt y)))).flatMap fun e => leBytes ((drainFmt f).width / 8) e.bits) := by
  obtain ⟨-, -, -, -, plain, planes⟩ := drainFmt_eq hf
  simp only [drainOutputs, planes, plain, if_false, Bool.false_eq_true, List.getElem?_map, List.getElem?_zipIdx,
    List.getElem?_eq_getElem hi, Option.map_some, Nat.zero_add]

/-- An element of a row in a float format (R266). -/
theorem drainFloat_element {row : List Machine.Num} {sat : Bool} {u : Machine.Num} (hf : f < 4) (hn : n < row.length) (d : Machine.Num) :
    let w := ([4, 2, 1, 1] : List Nat).getD f 0
    let bs := (drainFloat s f sat u row).flatMap fun e => leBytes ((drainFmt f).width / 8) e.bits
    bs.length = w * row.length ∧ leNat ((bs.drop (w * n)).take w) =
      (narrow ([fp32, bf16, e4m3, e5m2].getD f fp32) (sat || (f == 2 && s.nbv == 1)) (product (row.getD n d) u)).bits := by
  obtain ⟨fmt, width, mb, eb, -, -⟩ := drainFmt_eq hf
  have bytes : (drainFmt f).width / 8 = ([4, 2, 1, 1] : List Nat).getD f 0 := by omega
  have size : (drainFloat s f sat u row).length = row.length := by simp [drainFloat]
  have here : n < (drainFloat s f sat u row).length := size ▸ hn
  intro w bs
  have fits := narrow_bits_lt mb eb (sat || (f == 2 && s.nbv == 1)) (product (row.getD n d) u)
  have range : 256 ^ w = 2 ^ (drainFmt f).width := by rw [width, Nat.pow_mul]
  simp only [bs, bytes]
  refine ⟨?_, ?_⟩
  · rw [flatMap_length_const fun e _ => leBytes_length _ e.bits, size]
  · rw [flatMap_slice (fun e _ => leBytes_length _ e.bits) here, leNat_leBytes, range]
    simp only [drainFloat, List.getElem_map]
    rw [← List.getD_eq_getElem _ d hn, ← fmt, Nat.mod_eq_of_lt fits]

/-! ### Lines of codes in planes -/

/-- Line i of a drain to planes. -/
theorem drainOutputs_planes (hi : i < drainRows z / 4) : (drainOutputs s 6 x y z x2 rows).1[i]? = some (x.toNat + drainStride z * i,
    ciLine (((((rows.map fun r => r.map (accValue (s.nbv == 1) (accInt y))).map fun r => r.map fun v =>
      narrowInt 8 (product v (fp32.decode (x2.toNat % 4294967296)))).drop (4 * i)).take 4).flatten.map (·.bits)).toArray) := by
  simp only [drainOutputs, if_true, drainOuts, List.getElem?_map, List.getElem?_range hi, Option.map_some]

/-- An element among four rows. -/
theorem four_rows {α : Type} {w r : Nat} {xs : List (List α)} {d : α} (size : ∀ q ∈ xs, q.length = w) (hr : r < 4) (hn : n < w)
    (hi : 4 * i + 4 ≤ xs.length) : ((xs.drop (4 * i)).take 4).flatten.getD (w * r + n) d = (xs.getD (4 * i + r) []).getD n d := by
  have four : ((xs.drop (4 * i)).take 4).length = 4 := by simp; omega
  have sizes : ∀ q ∈ (xs.drop (4 * i)).take 4, (id q).length = w := fun q hq => size q (List.mem_of_mem_drop (List.mem_of_mem_take hq))
  have at_ := flatMap_getElem? (i := r) sizes (by omega) hn
  rw [List.getD_eq_getElem?_getD, ← List.flatMap_id, at_, List.getD_eq_getElem?_getD, List.getD_eq_getElem _ _ (by omega)]
  simp

/-- A code among four rows of codes (R69). -/
theorem planes_code {r : Nat} (A : Nat → Machine.Num) (B : Machine.Num → FRes) (lens : ∀ q ∈ rows, q.length = 128) (hr : r < 4) (hn : n < 128)
    (hi : 4 * i + 4 ≤ rows.length) :
    (((((rows.map fun q => q.map A).map fun q => q.map B).drop (4 * i)).take 4).flatten.map (·.bits)).toArray.getD (128 * r + n) 0 =
      (B (A ((rows.getD (4 * i + r) []).getD n 0))).bits := by
  have sizes : ∀ q ∈ (rows.map fun q => q.map A).map fun q => q.map B, q.length = 128 := by
    simp only [List.mem_map]
    rintro q ⟨_, ⟨r, hr, rfl⟩, rfl⟩
    simpa using lens r hr
  have here : 4 * i + r < rows.length := by omega
  have row : n < rows[4 * i + r].length := by rw [lens _ (List.getElem_mem here)]; exact hn
  have code := four_rows (d := ({ bits := 0 } : FRes)) sizes hr hn (by simpa using hi)
  have last : (List.getD ((rows.map fun q => q.map A).map fun q => q.map B) (4 * i + r) []).getD n { bits := 0 } =
      B (A ((rows.getD (4 * i + r) []).getD n 0)) := by
    simp only [List.getD_eq_getElem?_getD, List.getElem?_map, List.getElem?_eq_getElem here, Option.map_some, Option.getD_some,
      List.getElem?_eq_getElem row]
  rw [← last, ← code]
  generalize ((((rows.map fun q => q.map A).map fun q => q.map B).drop (4 * i)).take 4).flatten = L
  have element := List.getD_map L ({ bits := 0 } : FRes) (n := 128 * r + n) FRes.bits
  rw [← element, List.getD_eq_getElem?_getD]
  simp

end

end Sys2Proof.Machine
end

section
/-! MX rows of a `tdrain`, and how its run ends (R214, R215, R266, R267). -/

namespace Sys2Proof.Machine

theorem mxScale_le (g : Int) (xs : List Machine.Num) : mxScale g xs ≤ 255 := by
  simp only [mxScale]
  split
  · exact Nat.le_refl _
  · split
    · decide
    · rw [satInt_eq (by decide)]
      omega

/-- The code of an MX element (R215). -/
def mxCode (fp4 : Bool) (X : Nat) (v : Machine.Num) : Nat := if fp4 then (mxFp4 X v).1 else (mxInt8 X v).1

theorem mxFp4_lt (X : Nat) (v : Machine.Num) : (mxFp4 X v).1 < 16 := by
  unfold mxFp4
  split
  · split
    · decide
    · exact finite_bits_lt (f := e2m1) (by decide) (by decide) _ _ _ _ _ _
  · decide

theorem mxLane_code (fp4 : Bool) (X : Nat) (v : Machine.Num) :
    ((mxLane (if fp4 then 1 else 0) X v).words.getD 0 0).toNat % 256 = mxCode fp4 X v % 256 := by
  cases fp4
  · simp [mxLane, mxCode]
  · simp [mxLane, mxCode]

section
variable {s : State} {f i n : Nat} {x y z x2 : DWord} {rows : List (List Nat)} {row : List Machine.Num} {fp4 : Bool}

/-- The codes of a row's blocks. -/
def blockCodes (fp4 : Bool) (row : List Machine.Num) : List Nat :=
  ((rowBlocks row).map (drainBlock fp4)).flatMap fun b => b.2.map (·.bits)

/-- Block k of a row. -/
theorem rowBlocks_getElem {k : Nat} (h : k < (rowBlocks row).length) : (rowBlocks row)[k] = (row.drop (32 * k)).take 32 := by
  simp [rowBlocks]

theorem rowBlocks_size (size : row.length = 128) : ∀ b ∈ (rowBlocks row).map (drainBlock fp4), (b.2.map (·.bits)).length = 32 := by
  intro b hb
  obtain ⟨xs, hxs, rfl⟩ := List.mem_map.1 hb
  obtain ⟨k, hk, rfl⟩ := List.mem_map.1 hxs
  have := List.mem_range.1 hk
  simp [drainBlock, size]
  omega

theorem blockCodes_length (size : row.length = 128) : (blockCodes fp4 row).length = 128 := by
  rw [blockCodes, flatMap_length_const (rowBlocks_size size)]
  simp [rowBlocks]

/-- A code of a row, under the scale of its block. -/
theorem blockCodes_getD (size : row.length = 128) (hn : n < 128) (d : Machine.Num) : (blockCodes fp4 row).getD n 0 =
    mxCode fp4 (mxScale (if fp4 then 2 else 0) ((row.drop (32 * (n / 32))).take 32)) (row.getD n d) := by
  have place : 32 * (n / 32) + n % 32 = n := Nat.div_add_mod n 32
  have blocks : ((rowBlocks row).map (drainBlock fp4)).length = 4 := by simp [rowBlocks]
  rw [blockCodes, flatMap_getD 0 (rowBlocks_size size) (by decide) (by omega), List.getElem_map, rowBlocks_getElem]
  simp only [drainBlock, List.map_map]
  rw [List.getD_eq_getElem _ _ (by simp; omega), List.getElem_map, List.getElem_take, List.getElem_drop,
    List.getD_eq_getElem _ _ (by omega)]
  simp only [place, Function.comp, mxCode]
  cases fp4 <;> rfl

/-- The bytes of an MX row. -/
def blockBytes (f : Nat) (codes : List Nat) : List Byte := if f = 4 then packNibbles codes else codes.map (BitVec.ofNat 8)

/-- Row i of a drain to MX blocks, and its scales. -/
theorem drainOutputs_mx (hf : f = 4 ∨ f = 5) (hi : i < rows.length) :
    (drainOutputs s f x y z x2 rows).1[i]? = some (x.toNat + drainStride z * i,
      blockBytes f (blockCodes (f == 4) (rows[i].map (accValue (s.nbv == 1) (accInt y))))) ∧
    (drainOutputs s f x y z x2 rows).1[rows.length + i]? = some (x2.toNat + 4 * i,
      ((rowBlocks (rows[i].map (accValue (s.nbv == 1) (accInt y)))).map (drainBlock (f == 4))).map fun k => BitVec.ofNat 8 k.1) := by
  have blocks : drainMx f = true := by rcases hf with rfl | rfl <;> rfl
  have planes : f ≠ 6 := by omega
  constructor
  · simp only [drainOutputs, planes, blocks, if_true, if_false]
    rw [List.getElem?_append_left (by simpa using hi)]
    simp only [List.getElem?_map, List.getElem?_zipIdx, List.getElem?_eq_getElem hi, Option.map_some, Nat.zero_add]
    rfl
  · simp only [drainOutputs, planes, blocks, if_true, if_false]
    rw [List.getElem?_append_right (by simp)]
    simp only [List.length_map, List.length_zipIdx, Nat.add_sub_cancel_left, List.getElem?_map, List.getElem?_zipIdx,
      List.getElem?_eq_getElem hi, Option.map_some, Nat.zero_add]

/-- The scale bytes of a row. -/
theorem scales_getD (hn : n < 128) :
    let ss : List Byte := ((rowBlocks row).map (drainBlock fp4)).map fun k => BitVec.ofNat 8 k.1
    ss.length = 4 ∧ (ss.getD (n / 32) 0).toNat = mxScale (if fp4 then 2 else 0) ((row.drop (32 * (n / 32))).take 32) := by
  have low := mxScale_le (if fp4 then 2 else 0) ((row.drop (32 * (n / 32))).take 32)
  refine ⟨by simp [rowBlocks], ?_⟩
  rw [List.getD_eq_getElem _ _ (by simp [rowBlocks]; omega)]
  simp only [List.getElem_map, rowBlocks_getElem, drainBlock]
  rw [BitVec.toNat_ofNat, Nat.mod_eq_of_lt (by omega)]

/-- An element of an MX row: half a byte of MXFP4, or a byte of MXINT8 (R68, R215). -/
theorem blockBytes_element (hf : f = 4 ∨ f = 5) (size : row.length = 128) (hn : n < 128) (d : Machine.Num) :
    let bs := blockBytes f (blockCodes (f == 4) row)
    bs.length = (if f = 4 then 64 else 128) ∧
    (if f = 4 then (bs.getD (n / 2) 0).toNat / 16 ^ (n % 2) % 16 else (bs.getD n 0).toNat) =
      mxCode (f == 4) (mxScale (if f == 4 then 2 else 0) ((row.drop (32 * (n / 32))).take 32)) (row.getD n d) % 256 := by
  have codes := blockCodes_length (fp4 := f == 4) size
  have element := blockCodes_getD (fp4 := f == 4) size hn d
  rw [← element]
  rcases hf with rfl | rfl
  · have small : ∀ k, (blockCodes true row).getD k 0 < 16 := by
      intro k
      rcases Nat.lt_or_ge k 128 with hk | hk
      · rw [blockCodes_getD size hk d]
        exact mxFp4_lt _ _
      · rw [List.getD_eq_default _ _ (by rw [blockCodes_length size]; exact hk)]
        decide
    have below := small n
    refine ⟨(packNibbles_spec 64 _ codes).1, ?_⟩
    have nibble := packNibbles_nibble (k := 64) codes small hn
    simp only [blockBytes, if_true]
    exact nibble.trans (Nat.mod_eq_of_lt (by omega)).symm
  · refine ⟨by simpa [blockBytes] using codes, ?_⟩
    simp only [blockBytes, if_neg (show (5 : Nat) ≠ 4 by decide)]
    rw [List.getD_eq_getElem _ _ (by rw [List.length_map, codes]; exact hn), List.getElem_map, BitVec.toNat_ofNat,
      List.getD_eq_getElem _ _ (by rw [codes]; exact hn)]

/-- Row i of a drain to MX blocks, with its scales: element n under the scale of its block (R214, R215, R266). -/
theorem drain_mx_row (hf : f = 4 ∨ f = 5) (lens : ∀ q ∈ rows, q.length = 128) (hi : i < rows.length) (hn : n < 128) :
    let fm : BitVec 1 := if f = 4 then 1 else 0
    let row := (rows.getD i []).map (accValue (s.nbv == 1) (y.getLsbD 19))
    let X := mxScale (mxEmax fm) ((row.drop (32 * (n / 32))).take 32)
    ∃ bs ss, (drainOutputs s f x y z x2 rows).1[i]? = some (x.toNat + drainStride z * i, bs) ∧
      (drainOutputs s f x y z x2 rows).1[rows.length + i]? = some (x2.toNat + 4 * i, ss) ∧ ss.length = 4 ∧
      (ss.getD (n / 32) 0).toNat = X ∧ bs.length = (if f = 4 then 64 else 128) ∧
      (if f = 4 then (bs.getD (n / 2) 0).toNat / 16 ^ (n % 2) % 16 else (bs.getD n 0).toNat) =
        ((mxLane fm X (row.getD n (.nan false))).words.getD 0 0).toNat % 256 := by
  obtain ⟨at_, full⟩ := row_at (accValue (s.nbv == 1) (accInt y)) lens hi
  obtain ⟨bytes, scales⟩ := drainOutputs_mx (s := s) (x := x) (y := y) (z := z) (x2 := x2) hf hi
  rw [at_] at bytes scales
  obtain ⟨four, scale⟩ := scales_getD (row := (rows.getD i []).map (accValue (s.nbv == 1) (accInt y))) (fp4 := f == 4) hn
  obtain ⟨len, element⟩ := blockBytes_element hf full hn (.nan false)
  have selects : (if f = 4 then 1 else 0 : BitVec 1) = if (f == 4) = true then 1 else 0 := by simp
  have top : mxEmax (if (f == 4) = true then 1 else 0) = if (f == 4) = true then 2 else 0 := by cases f == 4 <;> rfl
  intro fm row X
  have same : X = mxScale (if (f == 4) = true then 2 else 0) ((row.drop (32 * (n / 32))).take 32) := by
    simp only [X, fm, selects, top]
  refine ⟨_, _, bytes, scales, four, scale.trans same.symm, len, ?_⟩
  rw [element, same]
  simp only [fm, selects]
  exact (mxLane_code _ _ _).symm

end

/-! ### Runs (R267) -/

/-- A drain whose lines and sectors take all that it writes ends, with its rows cleared where the descriptor says so. -/
theorem runDrain_ended {s t w p : State} {o : Op} {f : Nat} {x y z x2 : DWord} {c : Crew} {ks : List (Nat × Nat × Nat)}
    (crew : s.myCrew = some c) (fits : accRow y + drainRows z ≤ c.rows)
    (reached : reachRanges s o needW (drainRanges f x z x2) = (t, .keys ks)) :
    let outs := drainOutputs t f x y z x2 ((List.range (drainRows z)).map fun i => rowRead t c.id (accRow y + i))
    writeLines (noteWritten t o.id ks) (placeOutputs ks outs.1) = (w, none) → poisonOutputs w f y z c outs.1 ks = (p, none) →
    runDrain s o f x y z x2 =
      .ended (countResults (if accOvw y then zeroRows p c (accRow y) (drainRows z) else p) (accTag y) outs.2) 0 0 := by
  intro outs written sound
  simp only [runDrain, withRows, runCrew, crew, Nat.not_lt.2 fits, if_false, reached]
  simp only [outs] at written sound
  rw [written]
  simp only [sound]
  rfl

end Sys2Proof.Machine
end

section
/-! What a `tacc` computes (R75, R76, R92, R268). -/

namespace Sys2Proof.Machine

theorem addStats_mem (s : State) (tag a b c : Nat) : (addStats s tag a b c).mem = s.mem := by
  unfold addStats
  split
  · rfl
  · split <;> rfl

theorem rowRead_countResults (s : State) (tag : Nat) (rs : List FRes) (c row : Nat) :
    rowRead (countResults s tag rs) c row = rowRead s c row := rowRead_eq (addStats_mem s tag _ _ _) c row

/-! ### Rows changed in order -/

section
variable (s : State) (c : Crew) (r : Nat) (f : State → Nat → Nat → Nat → FRes)

/-- The words that row r + i becomes. -/
def mappedWords (c : Crew) (r : Nat) (f : State → Nat → Nat → Nat → FRes) (u : State) (i : Nat) : List Nat :=
  ((rowRead u c.id (r + i)).zipIdx.map fun x => f u i x.2 x.1).map (·.bits)

/-- One row of `mapRows`. -/
def mapStep (c : Crew) (r : Nat) (f : State → Nat → Nat → Nat → FRes) (st : State × List FRes) (i : Nat) : State × List FRes :=
  (rowWrite st.1 c.id (r + i) 0 (mappedWords c r f st.1 i), st.2 ++ (rowRead st.1 c.id (r + i)).zipIdx.map fun x => f st.1 i x.2 x.1)

theorem mapRows_eq (n : Nat) : mapRows s c r n f = (List.range n).foldl (mapStep c r f) (s, []) := rfl

theorem mappedWords_length (u : State) (i : Nat) : (mappedWords c r f u i).length = 128 := by simp [mappedWords]

theorem mappedWords_getD (u : State) (i : Nat) {n : Nat} (h : n < 128) :
    (mappedWords c r f u i).getD n 0 = (f u i n ((rowRead u c.id (r + i)).getD n 0)).bits := by
  have size : n < (rowRead u c.id (r + i)).length := by rw [rowRead_length]; exact h
  rw [List.getD_eq_getElem _ _ (by rw [mappedWords_length]; exact h), List.getD_eq_getElem _ _ size]
  simp [mappedWords]

/-- The first i rows, then the next, then the others. -/
theorem range_split {i n : Nat} (h : i < n) : ∃ l, List.range n = List.range i ++ i :: l ∧ ∀ j ∈ l, i < j := by
  obtain ⟨k, rfl⟩ : ∃ k, n = i + (k + 1) := ⟨n - i - 1, by omega⟩
  refine ⟨(List.range k).map fun j => i + (j + 1), ?_, fun j hj => ?_⟩
  · rw [List.range_add, List.range_succ_eq_map]
    simp
  · obtain ⟨j, -, rfl⟩ := List.mem_map.1 hj
    omega

/-- Rows outside those that change. -/
theorem mapRows_other {n row : Nat} (away : row < r ∨ r + n ≤ row) : rowRead (mapRows s c r n f).1 c.id row = rowRead s c.id row := by
  rw [mapRows_eq]
  refine rowFold_other (step := mapStep c r f) (row := fun i => r + i) (new := mappedWords c r f) (fun _ _ => rfl)
    (mappedWords_length c r f) _ _ fun hit => ?_
  obtain ⟨i, hi, rfl⟩ := List.mem_map.1 hit
  have := List.mem_range.1 hi
  omega

/-- A row that changed early is not changed again. -/
theorem mapRows_earlier {i n row : Nat} (h : i < n) (early : row < r + i) :
    rowRead (mapRows s c r n f).1 c.id row = rowRead (mapRows s c r i f).1 c.id row := by
  obtain ⟨l, split, later⟩ := range_split h
  rw [mapRows_eq, mapRows_eq, split, List.foldl_append]
  refine rowFold_other (step := mapStep c r f) (row := fun i => r + i) (new := mappedWords c r f) (fun _ _ => rfl)
    (mappedWords_length c r f) _ _ fun hit => ?_
  obtain ⟨j, hj, rfl⟩ := List.mem_map.1 hit
  rcases List.mem_cons.1 hj with rfl | hj
  · omega
  · have := later j hj
    omega

/-- A row that changes, from the state in which its turn comes. -/
theorem mapRows_here {i n col : Nat} (h : i < n) (hcol : col < 128) : (rowRead (mapRows s c r n f).1 c.id (r + i)).getD col 0 =
    (f (mapRows s c r i f).1 i col ((rowRead s c.id (r + i)).getD col 0)).bits % 4294967296 := by
  obtain ⟨l, split, later⟩ := range_split h
  have here := rowFold_here (step := mapStep c r f) (row := fun i => r + i) (new := mappedWords c r f) (c := c.id) (fun _ _ => rfl)
    (mappedWords_length c r f) (l₁ := List.range i) (l₂ := l) (a := i) (s, []) (fun hit => by
      obtain ⟨j, hj, e⟩ := List.mem_map.1 hit
      have := later j hj
      omega) hcol
  rw [mapRows_eq, split, here, mappedWords_getD _ _ _ _ _ hcol, ← mapRows_eq, mapRows_other s c r f (by omega)]

end

/-! ### Columns -/

/-- A column that is written, lane by lane. -/
theorem column_fold (c row c0 : Nat) (v : Vector Word 32) (fits : c0 ≤ 96) {n : Nat} (h : n < 128) :
    ∀ (ls : List Nat) (s : State), (∀ l ∈ ls, l < 32) →
      (rowRead (ls.foldl (fun u l => rowWrite u c row (c0 + l) [(vget v l).toNat]) s) c row).getD n 0 =
        if c0 ≤ n ∧ n - c0 ∈ ls then (vget v (n - c0)).toNat else (rowRead s c row).getD n 0
  | [], s, _ => by simp
  | l :: ls, s, low => by
    have hl := low l List.mem_cons_self
    rw [List.foldl_cons, column_fold c row c0 v fits h ls _ fun k hk => low k (List.mem_cons_of_mem l hk)]
    by_cases here : n = c0 + l
    · subst here
      have place : c0 + l - c0 = l := Nat.add_sub_cancel_left ..
      have word := (vget v l).isLt
      have written := rowWrite_at s c row (c0 + l) [(vget v l).toNat] (Nat.le_refl (c0 + l)) (by simp) h
      rw [Nat.sub_self, List.getD_cons_zero, Nat.mod_eq_of_lt word] at written
      rw [place, written, ite_self, if_pos ⟨Nat.le_add_right .., List.mem_cons_self⟩]
    · rw [rowWrite_beside s c row (c0 + l) _ (by simp; omega) h (by simp; omega)]
      have same : (c0 ≤ n ∧ n - c0 ∈ l :: ls) ↔ c0 ≤ n ∧ n - c0 ∈ ls := by
        rw [List.mem_cons]
        exact and_congr_right fun low => or_iff_right (by omega)
      simp only [same]

/-- A column read, lane by lane; marks are no values. -/
theorem readColumn_v (s : State) (c : Crew) (o : Op) (int : Bool) {d : Nat} (row c0 : Nat) {l : Nat} (hd : d < 128) (hl : l < 32) :
    (readColumn s c o int d row c0).v d l = if o.active.getLsbD l = true
      then BitVec.ofNat 32 (accWord (s.nbv == 1) int ((rowRead s c.id row).getD (c0 + l) 0)) else s.v d l := by
  have marks : ∀ (ls : List Nat) (t : State), (ls.foldl (fun u l => if isMarked c row (c0 + l) then markV u d l 0 else u) t).sq.regs =
      t.sq.regs := by
    refine fun ls t => foldl_same (fun t : State => t.sq.regs) (fun t l => ?_) ls t
    split <;> rfl
  simp only [readColumn, State.v, marks]
  simp [State.setV, State.onSq, setV_lane _ _ _ _ _ _ hl hd hd]

section
variable {s : State} {o : Op} {d : Nat} {x y z x2 : DWord} {v : Vector Word 32} {c : Crew} (crew : s.myCrew = some c)
  (fits : accRow y + z.toNat ≤ c.rows)
include crew fits

theorem runTacc_zero : runTacc s o .taccZero d x y z.toNat v = .ended (zeroRows s c (accRow y) z.toNat) 0 0 := by
  simp [runTacc, withRows, runCrew, crew, Nat.not_lt.2 fits]

theorem runTacc_read : runTacc s o .taccRead d x y z.toNat v = .ended (readColumn s c o (accInt y) d (accRow y) x.toNat) 0 0 := by
  simp [runTacc, withRows, runCrew, crew, Nat.not_lt.2 fits]

theorem runTacc_write : runTacc s o .taccWrite d x y z.toNat v = .ended (writeColumn s c o (accRow y) x.toNat v) 0 0 := by
  simp [runTacc, withRows, runCrew, crew, Nat.not_lt.2 fits]

theorem runTacc_add (source : accRow x + z.toNat ≤ c.rows) :
    let r := addRows s c (accInt y) (accRow y) (accRow x) z.toNat
    runTacc s o .taccAdd d x y z.toNat v = .ended (countResults r.1 (accTag y) r.2) 0 0 := by
  simp [runTacc, withRows, runCrew, crew, Nat.not_lt.2 fits, Nat.not_lt.2 source]

theorem runTacc_scale :
    let r := mapRows s c (accRow y) z.toNat fun _ _ _ a => accTimes (s.nbv == 1) (accInt y) (fp32.decode (x.toNat % 4294967296)) a
    runTacc s o .taccScale d x y z.toNat v = .ended (countResults r.1 (accTag y) r.2) 0 0 := by
  simp [runTacc, withRows, runCrew, crew, Nat.not_lt.2 fits]

end

/-- A column that a `tacc.write` writes (R268). -/
theorem writeColumn_element (s : State) (c : Crew) (o : Op) (row c0 : Nat) (v : Vector Word 32) (fits : c0 ≤ 96) {n : Nat} (h : n < 128) :
    (rowRead (writeColumn s c o row c0 v) c.id row).getD n 0 =
      if c0 ≤ n ∧ n < c0 + 32 ∧ o.active.getLsbD (n - c0) = true then (vget v (n - c0)).toNat else (rowRead s c.id row).getD n 0 := by
  have fold := column_fold c.id row c0 v fits h (laneList o.active) s fun l hl => (mem_laneList.1 hl).1
  have lanes : (c0 ≤ n ∧ n - c0 ∈ laneList o.active) ↔ c0 ≤ n ∧ n < c0 + 32 ∧ o.active.getLsbD (n - c0) = true := by
    rw [mem_laneList]
    constructor
    · rintro ⟨low, high, on⟩
      exact ⟨low, by omega, on⟩
    · rintro ⟨low, high, on⟩
      exact ⟨low, by omega, on⟩
  simp only [lanes] at fold
  exact fold

/-- A sum of rows, in order: a source row that was a destination before is read as it was then left (R268). -/
theorem addRows_element (s : State) (c : Crew) (int : Bool) {r q n i col : Nat} (hi : i < n) (h : col < 128) :
    let t := (addRows s c int r q n).1
    let b := if r ≤ q + i ∧ q + i < r + i then (rowRead t c.id (q + i)).getD col 0 else (rowRead s c.id (q + i)).getD col 0
    (rowRead t c.id (r + i)).getD col 0 = (accSum (s.nbv == 1) int ((rowRead s c.id (r + i)).getD col 0) b).bits := by
  intro t b
  let f : State → Nat → Nat → Nat → FRes := fun t i col x => accSum (s.nbv == 1) int x ((rowRead t c.id (q + i)).getD col 0)
  have kept : ∀ row, rowRead t c.id row = rowRead (mapRows s c r n f).1 c.id row := fun _ => rfl
  have source : b = (rowRead (mapRows s c r i f).1 c.id (q + i)).getD col 0 := by
    simp only [b]
    split
    · next early => rw [kept, mapRows_earlier s c r f hi early.2]
    · next out => rw [mapRows_other s c r f (by omega)]
  rw [source, kept, mapRows_here s c r f hi h, Nat.mod_eq_of_lt (accSum_lt _ _ _ _)]

end Sys2Proof.Machine
end

section
/-! What a `dotv` computes (R75, R269). -/

namespace Sys2Proof.Machine

/-! ### Runs -/

/-- A vector that the engine reads (R248, R253). -/
theorem dotBytesOf_reads {s t : State} {o : Op} {scratch : Bool} {a n : Nat} {bs : List Byte} {k : State → List Byte → Ran}
    (h : Reads s o scratch a n t bs) : dotBytesOf s o scratch a n k = k t bs := by
  unfold Reads at h
  unfold dotBytesOf
  cases scratch
  · obtain ⟨u, ks, reached, read⟩ := h
    rw [if_neg Bool.false_ne_true, withBytes, withRanges, reached]
    simp only [read]
  · obtain ⟨c, crew, fits, sound, rfl, rfl⟩ := h
    rw [if_pos rfl, runCrew, crew]
    have inside : (n != 0 && decide (c.spadBytes < a + n)) = false := by
      rw [Bool.and_eq_false_iff, bne_eq_false_iff_eq, decide_eq_false_iff_not, Nat.not_lt]
      exact fits
    simp only [withScratch, inside, sound, Bool.false_eq_true, if_false]

theorem runDot_ended {s t u : State} {o : Op} {f d : Nat} {x y z : DWord} {xs ys : List Byte}
    (left : Reads s o (dotXs z) x.toNat (dotLen z * dotBytes f) t xs) (right : Reads t o (dotYs z) y.toNat (dotLen z * dotBytes f) u ys) :
    runDot s o f d x y z =
      .ended (u.setX d (dotProduct (o.mode.toNat % 4) (o.mode.getLsbD 2) f (dotLen z) xs.toArray ys.toArray)) 0 0 := by
  rw [runDot, dotBytesOf_reads left, dotBytesOf_reads right]

theorem dotLen_eq (z : DWord) : dotLen z = z.toNat % 4294967296 := by simp [dotLen, field]

/-! ### Elements -/

theorem dotElem_fp32 (b : Array Byte) (i : Nat) : dotElem 0 b i = leNat ((List.range 4).map fun k => b.getD (4 * i + k) 0) := by
  have four : List.range 4 = [0, 1, 2, 3] := rfl
  simp only [dotElem, four, List.map_cons, List.map_nil, leNat, Nat.add_zero]
  omega

theorem dotElem_bf16 (b : Array Byte) (i : Nat) :
    dotElem 1 b i = 65536 * leNat ((List.range 2).map fun k => b.getD (2 * i + k) 0) := by
  have two : List.range 2 = [0, 1] := rfl
  simp only [dotElem, two, List.map_cons, List.map_nil, leNat, Nat.add_zero]
  omega

/-! ### Products -/

/-- An integer dot product is an exact sum. -/
theorem dotProduct_int (mode n : Nat) (ftz : Bool) (x y : Array Byte) : dotProduct mode ftz 3 n x y =
    BitVec.ofInt 64 ((List.range n).map fun i => (x.getD i 0).toInt * (y.getD i 0).toInt).sum := by
  rw [dotProduct, if_pos rfl, foldl_add_eq_sum (fun i => (x.getD i 0).toInt * (y.getD i 0).toInt), Int.zero_add]

/-- The positions of chain j, in order. -/
theorem chain_positions {j : Nat} (hj : j < 32) (n : Nat) :
    (List.range n).filter (fun i => i % 32 == j) = (List.range ((n + 31 - j) / 32)).map fun k => 32 * k + j := by
  induction n with
  | zero =>
    have : (0 + 31 - j) / 32 = 0 := by omega
    rw [this]
    rfl
  | succ n ih =>
    rw [List.range_succ, List.filter_append, ih]
    by_cases here : n % 32 = j
    · have more : (n + 1 + 31 - j) / 32 = (n + 31 - j) / 32 + 1 := by omega
      have place : 32 * ((n + 31 - j) / 32) + j = n := by omega
      rw [more, List.range_succ, List.map_append]
      simp [here, place]
    · have same : (n + 1 + 31 - j) / 32 = (n + 31 - j) / 32 := by omega
      rw [same]
      simp [here]

/-- One chain of a dot product: fused multiply-adds from −0 over every 32nd element (R75). -/
theorem dotPartial_eq (mode : Nat) (ftz : Bool) (f n : Nat) (x y : Array Byte) {j : Nat} (hj : j < 32) :
    dotPartial mode ftz f n x y j = ((List.range n).filter fun i => i % 32 == j).foldl (fun acc i =>
      (fp32.fma mode ftz (fp32.operand ftz (dotElem f x i)) (fp32.operand ftz (dotElem f y i)) (fp32.operand ftz acc)).bits) 0x80000000 := by
  rw [chain_positions hj, List.foldl_map]
  rfl

/-- One level of the butterfly: each of k values with the one k places on. -/
def butterflyStep (mode : Nat) (ftz : Bool) (g : Nat → Nat) (k j : Nat) : Nat :=
  (fp32.add mode ftz (fp32.operand ftz (g j)) (fp32.operand ftz (g (j + k)))).bits

theorem combineTree_step (mode : Nat) (ftz : Bool) (d k : Nat) (g : Nat → Nat) :
    combineTree mode ftz (d + 1) ((List.range (2 * k)).map g) = combineTree mode ftz d ((List.range k).map (butterflyStep mode ftz g k)) := by
  have half : ((List.range (2 * k)).map g).length / 2 = k := by simp
  rw [combineTree, half]
  refine congrArg (combineTree mode ftz d) (List.map_congr_left fun l hl => ?_)
  have hl := List.mem_range.1 hl
  rw [List.getD_eq_getElem _ _ (by simp; omega), List.getD_eq_getElem _ _ (by simp; omega)]
  simp only [List.getElem_map, List.getElem_range, butterflyStep]

/-- The five levels of the butterfly over 32 values. -/
theorem combineTree_five (mode : Nat) (ftz : Bool) (g : Nat → Nat) :
    let step := butterflyStep mode ftz
    (combineTree mode ftz 5 ((List.range 32).map g)).headD 0 = step (step (step (step (step g 16) 8) 4) 2) 1 0 := by
  intro step
  rw [combineTree_step mode ftz 4 16, combineTree_step mode ftz 3 8, combineTree_step mode ftz 2 4, combineTree_step mode ftz 1 2,
    combineTree_step mode ftz 0 1]
  rfl

theorem dotProduct_empty (mode f : Nat) (ftz : Bool) (x y : Array Byte) (hf : f < 3) : dotProduct mode ftz f 0 x y = 0 := by
  rw [dotProduct, if_neg (by omega), if_pos rfl]

/-- A float dot product: 32 chains, combined as `redsq` combines lanes (R75). -/
theorem dotProduct_float (mode : Nat) (ftz : Bool) {f n : Nat} (x y : Array Byte) (hf : f < 3) (pos : 0 < n) :
    let step := butterflyStep mode ftz
    let p := fun j => ((List.range n).filter fun i => i % 32 == j).foldl (fun acc i =>
      (fp32.fma mode ftz (fp32.operand ftz (dotElem f x i)) (fp32.operand ftz (dotElem f y i)) (fp32.operand ftz acc)).bits) 0x80000000
    dotProduct mode ftz f n x y = BitVec.ofNat 64 (step (step (step (step (step p 16) 8) 4) 2) 1 0) := by
  intro step p
  have chains : (List.range 32).map (dotPartial mode ftz f n x y) = (List.range 32).map p :=
    List.map_congr_left fun j hj => dotPartial_eq mode ftz f n x y (List.mem_range.1 hj)
  rw [dotProduct, if_neg (by omega), if_neg pos.ne', chains, combineTree_five]

end Sys2Proof.Machine
end

section
/-! The bytes of lines (R103): what metadata, storage and poison have to do with what a reader sees. -/

namespace Sys2Proof.Machine

/-! ### Codes -/

theorem find?_filter_key {α : Type} (l : List (Nat × α)) (k k' : Nat) :
    (l.filter fun c => c.1 != k).find? (fun c => c.1 == k') = if k' = k then none else l.find? fun c => c.1 == k' := by
  rw [List.find?_filter]
  split
  · next h =>
    rw [List.find?_eq_none]
    intro c _
    simp [h]
  · next h =>
    refine congrArg (fun p => List.find? p l) (funext fun c => ?_)
    by_cases e : c.1 = k' <;> simp [e, h]

theorem assocGet_assocSet {α : Type} (l : List (Nat × α)) (k k' : Nat) (v d : α) :
    assocGet (assocSet l k v) k' d = if k' = k then v else assocGet l k' d := by
  unfold assocGet assocSet
  by_cases h : k' = k
  · simp [h]
  · have away : (k == k') = false := by simpa using Ne.symm h
    rw [if_neg h, List.find?_cons, away, find?_filter_key, if_neg h]

theorem assocGet_filter_out {α : Type} (l : List (Nat × α)) (k k' : Nat) (d : α) :
    assocGet (l.filter fun c => c.1 != k) k' d = if k' = k then d else assocGet l k' d := by
  unfold assocGet
  rw [find?_filter_key]
  by_cases h : k' = k
  · rw [if_pos h, if_pos h]
  · rw [if_neg h, if_neg h]

/-- A line's code after one is set. -/
theorem heldCode_setCode (s : State) (line code line' : Nat) :
    heldCode (setCode s line code) line' = if line' / 512 = line / 512 then code else heldCode s line' := by
  unfold heldCode setCode
  by_cases h : code = 0
  · simp only [h, if_true]
    exact assocGet_filter_out s.codes _ _ 0
  · simp only [h, if_false]
    exact assocGet_assocSet s.codes _ _ code 0

theorem codeOf_setCode_other (s : State) (line code : Nat) {line' : Nat} (h : line' / 512 ≠ line / 512) :
    codeOf (setCode s line code) line' = codeOf s line' := by
  unfold codeOf
  rw [heldCode_setCode, if_neg h]
  rfl

theorem codeOf_setCode_zero (s : State) (line : Nat) : codeOf (setCode s line 0) line = 0 := by
  unfold codeOf
  rw [heldCode_setCode, if_pos rfl, ite_self]

/-! ### Bytes of a line -/

/-- One step of the expansion of a compressed form (R102). -/
def expandStep (mask : Nat) (st : List (List Byte) × List Byte) (i : Nat) : List (List Byte) × List Byte :=
  if bit mask i then (st.2.take 8 :: st.1, st.2.drop 8) else (List.replicate 8 0 :: st.1, st.2)

theorem expandForm_eq (raw : List Byte) :
    expandForm raw = ((List.range 64).foldl (expandStep (leNat (raw.take 8))) ([], raw.drop 8)).1.reverse.flatten := rfl

/-- Expansion gives 8 bytes for each word, while the form holds the words that its mask names. -/
theorem expandStep_sizes (mask n : Nat) (rest : List Byte) (enough : 8 * n ≤ rest.length) :
    let st := (List.range n).foldl (expandStep mask) ([], rest)
    (∀ w ∈ st.1, w.length = 8) ∧ st.1.length = n ∧ rest.length ≤ st.2.length + 8 * n := by
  induction n with
  | zero => simp
  | succ n ih =>
    obtain ⟨words, count, left⟩ := ih (by omega)
    rw [List.range_succ, List.foldl_append, List.foldl_cons, List.foldl_nil]
    generalize (List.range n).foldl (expandStep mask) ([], rest) = st at words count left
    unfold expandStep
    split
    · refine ⟨fun w hw => ?_, by simp [count], by simp; omega⟩
      rcases List.mem_cons.1 hw with rfl | hw
      · simp; omega
      · exact words w hw
    · refine ⟨fun w hw => ?_, by simp [count], by simp; omega⟩
      rcases List.mem_cons.1 hw with rfl | hw
      · simp
      · exact words w hw

theorem flatten_length_const {α : Type} {w : Nat} {xs : List (List α)} (size : ∀ x ∈ xs, x.length = w) : xs.flatten.length = w * xs.length := by
  have := flatMap_length_const (f := id) size
  rwa [List.flatMap_id] at this

theorem expandForm_length {raw : List Byte} (h : raw.length = 520) : (expandForm raw).length = 512 := by
  obtain ⟨words, count, -⟩ := expandStep_sizes (leNat (raw.take 8)) 64 (raw.drop 8) (by simp [h])
  rw [expandForm_eq, flatten_length_const fun w hw => words w (List.mem_reverse.1 hw), List.length_reverse, count]

theorem lineBytes_length (s : State) (line : Nat) : (lineBytes s line).length = 512 := by
  unfold lineBytes
  simp only
  split
  · exact List.length_replicate
  · split
    · exact expandForm_length (by simp [memRead_length])
    · exact memRead_length _ _ _

/-- A raw line is what its storage holds. -/
theorem lineBytes_raw {s : State} {line : Nat} (h : codeOf s line = 0) : lineBytes s line = memRead s.mem line 512 := by
  simp [lineBytes, h]

/-- The bytes of a line depend on its code and its storage. -/
theorem lineBytes_of_same {s t : State} {line : Nat} (code : codeOf t line = codeOf s line)
    (stored : memRead t.mem line 512 = memRead s.mem line 512) : lineBytes t line = lineBytes s line := by
  unfold lineBytes
  rw [code, stored]

/-- A byte of a line of its own. -/
theorem byteAt_eq (s : State) {line i : Nat} (h : line % 512 = 0) (hi : i < 512) : s.byteAt (line + i) = (lineBytes s line).getD i 0 := by
  have here : (line + i) / 512 * 512 = line := by omega
  have place : (line + i) % 512 = i := by omega
  rw [State.byteAt, here, place]

/-- Equal lines are equal memory. -/
theorem SameMemory.of_lines {s t : State} (h : ∀ line, line % 512 = 0 → lineBytes t line = lineBytes s line) : SameMemory s t := by
  intro a
  unfold State.byteAt
  rw [h _ (Nat.mul_mod_left _ _)]

theorem SameMemory.trans {s t u : State} (h : SameMemory s t) (g : SameMemory t u) : SameMemory s u := fun a => (g a).trans (h a)

/-! ### Storing a line raw (R267, R374) -/

/-- A line stored raw reads as before, and so does every other. -/
theorem storeRaw_memory (s : State) {line : Nat} (h : line % 512 = 0) : SameMemory s (storeRaw s line) := by
  unfold storeRaw
  split
  · exact fun _ => rfl
  · refine SameMemory.of_lines fun line' h' => ?_
    have size := lineBytes_length s line
    by_cases same : line' = line
    · subst same
      rw [lineBytes_raw (codeOf_setCode_zero _ _)]
      have whole := memRead_memPut s.mem line' (lineBytes s line')
      rw [size] at whole
      exact whole
    · refine lineBytes_of_same (codeOf_setCode_other _ _ _ (by omega)) ?_
      exact memRead_memPut_out _ _ _ _ _ (by rw [size]; omega)

/-- Poisoning the sectors of what a drain wrote changes no byte. -/
theorem poisonOutputs_memory (s : State) (f : Nat) (y z : DWord) (c : Crew) (outs : List (Nat × List Byte)) (ks : List (Nat × Nat × Nat)) :
    SameMemory s (poisonOutputs s f y z c outs ks).1 := by
  have fold : ∀ (ls : List Nat) (s : State), (∀ l ∈ ls, l % 512 = 0) → SameMemory s (ls.foldl storeRaw s) := by
    intro ls
    induction ls with
    | nil => exact fun s _ _ => rfl
    | cons l ls ih =>
      exact fun s h => (storeRaw_memory s (h l List.mem_cons_self)).trans (ih _ fun k hk => h k (List.mem_cons_of_mem l hk))
  unfold poisonOutputs
  simp only
  refine SameMemory.trans (fold _ s fun l hl => ?_) (SameMemory.of_eq rfl rfl rfl)
  obtain ⟨x, -, rfl⟩ := List.mem_map.1 (List.mem_eraseDups.1 hl)
  exact Nat.mul_mod_left _ _

end Sys2Proof.Machine
end

section
/-! A line compressed and stored reads as it was (R102, R103). -/

namespace Sys2Proof.Machine

/-! ### Masks -/

/-- The mask of the numbers below n that a test accepts. -/
def maskBelow (p : Nat → Bool) (n : Nat) : Nat := (List.range n).foldl (fun m i => if p i then setBit m i true else m) 0

theorem setBit_new {x k : Nat} (h : x < 2 ^ k) : setBit x k true = 2 ^ k + x := by
  have clear : bit x k = false := by simp [bit, Nat.div_eq_of_lt h]
  simp [setBit, clear, Nat.add_comm]

theorem maskBelow_spec (p : Nat → Bool) (n : Nat) :
    maskBelow p n < 2 ^ n ∧ ∀ i, (maskBelow p n).testBit i = (decide (i < n) && p i) := by
  induction n with
  | zero => simp [maskBelow]
  | succ n ih =>
    obtain ⟨low, bits⟩ := ih
    have step : maskBelow p (n + 1) = if p n then 2 ^ n + maskBelow p n else maskBelow p n := by
      simp only [maskBelow, List.range_succ, List.foldl_append, List.foldl_cons, List.foldl_nil]
      split
      · exact setBit_new low
      · rfl
    rw [step]
    constructor
    · rw [Nat.pow_succ]
      split <;> omega
    · intro i
      rcases Nat.lt_trichotomy i n with h | rfl | h
      · have within : i < n + 1 := by omega
        split
        · rw [Nat.testBit_two_pow_add_gt h, bits]
          simp [h, within]
        · rw [bits]
          simp [h, within]
      · split
        · next on => rw [Nat.testBit_two_pow_add_eq, bits]; simp [on]
        · next off => rw [bits]; simp [off]
      · have high : (if p n then 2 ^ n + maskBelow p n else maskBelow p n) < 2 ^ i := by
          have : 2 ^ n * 2 ≤ 2 ^ i := by rw [← Nat.pow_succ]; exact Nat.pow_le_pow_right Nat.two_pos h
          split <;> omega
        rw [Nat.testBit_lt_two_pow high]
        simp; omega

/-! ### Words -/

theorem leBytes_leNat : ∀ bs : List Byte, leBytes bs.length (leNat bs) = bs
  | [] => rfl
  | b :: bs => by
    have byte := b.isLt
    have low : BitVec.ofNat 8 (b.toNat + 256 * leNat bs) = b := by
      apply BitVec.eq_of_toNat_eq
      rw [BitVec.toNat_ofNat]
      omega
    have high : (b.toNat + 256 * leNat bs) / 256 = leNat bs := by omega
    rw [leNat, List.length_cons, leBytes, low, high, leBytes_leNat bs]

theorem leBytes_zero : ∀ n, leBytes n 0 = List.replicate n 0
  | 0 => rfl
  | n + 1 => by rw [leBytes, Nat.zero_div, leBytes_zero n]; rfl

/-- The bytes of word i of a line. -/
def wordBytes (bs : List Byte) (i : Nat) : List Byte := (bs.drop (8 * i)).take 8

theorem lineWords_getD (bs : List Byte) {i : Nat} (h : i < 64) : (lineWords bs).getD i 0 = leNat (wordBytes bs i) := by
  rw [List.getD_eq_getElem _ _ (by simp [lineWords]; exact h)]
  simp [lineWords, wordBytes]

theorem wordBytes_length {bs : List Byte} (size : bs.length = 512) {i : Nat} (h : i < 64) : (wordBytes bs i).length = 8 := by
  simp [wordBytes, size]
  omega

/-- The words of a line, one after the other, are the line. -/
theorem lineWords_flatten {bs : List Byte} (size : bs.length = 512) : (List.range 64).flatMap (wordBytes bs) = bs := by
  have sizes : ∀ i ∈ List.range 64, (wordBytes bs i).length = 8 := fun i hi => wordBytes_length size (List.mem_range.1 hi)
  refine List.ext_getElem? fun k => ?_
  rcases Nat.lt_or_ge k 512 with hk | hk
  · have at_ := flatMap_getElem? (i := k / 8) (j := k % 8) sizes (by simp; omega) (Nat.mod_lt _ (by decide))
    rw [Nat.div_add_mod] at at_
    rw [at_]
    simp only [List.getElem_range, wordBytes]
    rw [List.getElem?_take_of_lt (Nat.mod_lt _ (by decide)), List.getElem?_drop, Nat.div_add_mod]
  · have whole := flatMap_length_const sizes
    rw [List.getElem?_eq_none (by rw [whole]; simpa using hk), List.getElem?_eq_none (by omega)]

/-! ### Expansion -/

/-- Expansion reads the words that the mask names, in order, and gives 0 for the others. -/
theorem expandStep_words {mask : Nat} {w : Nat → List Byte} {N : Nat} (tail : List Byte) (size : ∀ i, i < N → (w i).length = 8)
    (clear : ∀ i, i < N → bit mask i = false → w i = List.replicate 8 0) (n k : Nat) (h : n + k = N) :
    (List.range n).foldl (expandStep mask) ([], (((List.range N).filter (bit mask)).flatMap w ++ tail)) =
      (((List.range n).map w).reverse, ((List.range' n k).filter (bit mask)).flatMap w ++ tail) := by
  induction n generalizing k with
  | zero =>
    obtain rfl : k = N := by omega
    rw [List.range_eq_range']
    rfl
  | succ n ih =>
    have here := size n (by omega)
    rw [List.range_succ, List.foldl_append, ih (k + 1) (by omega), List.foldl_cons, List.foldl_nil, List.range'_succ]
    unfold expandStep
    split
    · next on =>
      rw [List.filter_cons_of_pos on, List.flatMap_cons, List.append_assoc, ← here, List.take_left, List.drop_left]
      simp
    · next off =>
      have off := Bool.eq_false_iff.2 off
      rw [List.filter_cons_of_neg (by simp [off]), List.map_append, List.map_cons, clear n (by omega) off]
      simp

/-- The words of a line that are not 0. -/
def heldWords (bs : List Byte) : List Nat := (List.range 64).filter fun i => (lineWords bs).getD i 0 != 0

/-- The compressed form of a line, without its padding. -/
def compressedForm (bs : List Byte) : List Byte :=
  leBytes 8 (maskBelow (fun i => (lineWords bs).getD i 0 != 0) 64) ++
    (heldWords bs).flatMap fun i => leBytes 8 ((lineWords bs).getD i 0)

theorem compressedForm_expands {bs : List Byte} (size : bs.length = 512) (tail : List Byte) :
    expandForm (compressedForm bs ++ tail) = bs := by
  obtain ⟨low, bits⟩ := maskBelow_spec (fun i => (lineWords bs).getD i 0 != 0) 64
  have form : compressedForm bs = leBytes 8 (maskBelow (fun i => (lineWords bs).getD i 0 != 0) 64) ++
    (heldWords bs).flatMap fun i => leBytes 8 ((lineWords bs).getD i 0) := rfl
  generalize maskBelow (fun i => (lineWords bs).getD i 0 != 0) 64 = mask at low bits form
  have eight := leBytes_length 8 mask
  have read : leNat (leBytes 8 mask) = mask := by rw [leNat_leBytes]; exact Nat.mod_eq_of_lt low
  have named : ∀ i, i < 64 → bit mask i = ((lineWords bs).getD i 0 != 0) := fun i hi => by rw [bit_eq_testBit, bits]; simp [hi]
  have word : ∀ i, i < 64 → leBytes 8 ((lineWords bs).getD i 0) = wordBytes bs i := fun i hi => by
    rw [lineWords_getD bs hi]
    have := leBytes_leNat (wordBytes bs i)
    rwa [wordBytes_length size hi] at this
  have chosen : (heldWords bs).flatMap (fun i => leBytes 8 ((lineWords bs).getD i 0)) =
      ((List.range 64).filter (bit mask)).flatMap (wordBytes bs) := by
    rw [heldWords, List.filter_congr fun i hi => (named i (List.mem_range.1 hi)).symm]
    exact List.flatMap_congr fun i hi => word i (List.mem_range.1 (List.mem_filter.1 hi).1)
  have clear : ∀ i, i < 64 → bit mask i = false → wordBytes bs i = List.replicate 8 0 := fun i hi off => by
    rw [named i hi] at off
    rw [← word i hi, bne_eq_false_iff_eq.1 off, leBytes_zero]
  have head : (compressedForm bs ++ tail).take 8 = leBytes 8 mask := by
    rw [form, List.append_assoc, List.take_append_of_le_length (by omega), List.take_of_length_le (by omega)]
  have rest : (compressedForm bs ++ tail).drop 8 = ((List.range 64).filter (bit mask)).flatMap (wordBytes bs) ++ tail := by
    rw [form, chosen, List.append_assoc, List.drop_append_of_le_length (by omega), List.drop_of_length_le (by omega), List.nil_append]
  rw [expandForm_eq, head, rest, read, expandStep_words tail (fun i hi => wordBytes_length size hi) clear 64 0 rfl]
  simp only [List.reverse_reverse]
  rw [← List.flatMap_def, lineWords_flatten size]

/-! ### Codes and forms -/

/-- What a line is stored as: zeros without data, the line itself, or its form with padding (R102, R103). -/
theorem compressLine_cases {bs : List Byte} (size : bs.length = 512) :
    (compressLine bs = (8, []) ∧ bs = List.replicate 512 0) ∨ compressLine bs = (0, bs) ∨
    ∃ n pad, compressLine bs = (n, compressedForm bs ++ pad) ∧ 1 ≤ n ∧ n ≤ 7 ∧ (compressedForm bs ++ pad).length ≤ 448 := by
  have form : leBytes 8 ((heldWords bs).foldl (fun m i => setBit m i true) 0) ++
      (heldWords bs).flatMap (fun i => leBytes 8 ((lineWords bs).getD i 0)) = compressedForm bs := by
    rw [compressedForm, heldWords, List.foldl_filter]
    rfl
  have parts : (compressedForm bs).length = 8 + 8 * (heldWords bs).length := by
    rw [compressedForm, List.length_append, leBytes_length, flatMap_length_const fun i _ => leBytes_length 8 _]
  have named : compressLine bs = if (heldWords bs).length = 0 then (8, []) else if 56 ≤ (heldWords bs).length then (0, bs)
      else ((8 + 8 * (heldWords bs).length + 63) / 64, compressedForm bs ++
        List.replicate (64 * ((8 + 8 * (heldWords bs).length + 63) / 64) - (compressedForm bs).length) 0) := by
    rw [← form]
    rfl
  rw [named]
  split
  · next none_ =>
    refine .inl ⟨rfl, ?_⟩
    have zero : ∀ i ∈ List.range 64, wordBytes bs i = List.replicate 8 0 := fun i hi => by
      have hi' := List.mem_range.1 hi
      have off := List.filter_eq_nil_iff.1 (List.length_eq_zero_iff.1 none_) i hi
      rw [lineWords_getD bs hi', Bool.not_eq_true, bne_eq_false_iff_eq] at off
      have := leBytes_leNat (wordBytes bs i)
      rw [wordBytes_length size hi', off, leBytes_zero] at this
      exact this.symm
    refine List.eq_replicate_iff.2 ⟨size, fun b hb => ?_⟩
    rw [← lineWords_flatten size, List.flatMap_congr zero, List.mem_flatMap] at hb
    obtain ⟨-, -, hb⟩ := hb
    exact List.eq_of_mem_replicate hb
  · split
    · exact .inr (.inl rfl)
    · refine .inr (.inr ⟨_, _, rfl, by omega, by omega, ?_⟩)
      rw [List.length_append, List.length_replicate, parts]
      omega

/-- A line whose storage begins with its compressed form reads as it was. -/
theorem lineBytes_compressed {s : State} {line : Nat} {bs : List Byte} (size : bs.length = 512) (code : codeOf s line = (compressLine bs).1)
    (stored : memRead s.mem line (compressLine bs).2.length = (compressLine bs).2) : lineBytes s line = bs := by
  rcases compressLine_cases size with ⟨form, zero⟩ | form | ⟨n, pad, form, low, high, short⟩
  · rw [form] at code
    simp [lineBytes, code, zero]
  · rw [form] at code stored
    rw [size] at stored
    rw [lineBytes_raw code, stored]
  · rw [form] at code stored
    simp only at stored code
    have whole : memRead s.mem line 512 = (compressedForm bs ++ pad) ++ (memRead s.mem line 512).drop (compressedForm bs ++ pad).length := by
      have front := memRead_slice s.mem line 512 0 (compressedForm bs ++ pad).length (by omega)
      rw [List.drop_zero, Nat.add_zero, stored] at front
      exact (front ▸ List.take_append_drop _ _).symm
    unfold lineBytes
    simp only [code]
    rw [if_neg (by omega), if_pos ⟨low, high⟩, whole, List.append_assoc, List.append_assoc, compressedForm_expands size]

end Sys2Proof.Machine
end

section
/-! Writes at the homes (R93, R104, R105, R376): the line that is written, and every other. -/

namespace Sys2Proof.Machine

/-! ### States whose lines stay legible -/

/-- No line holds a code that the device never writes, no metadata is about to be found bad, and no clean line of the LLC hides another
code below it. Entries that no line's address finds are let be: a write may leave such a one behind. -/
structure Tame (s : State) : Prop where
  codes  : ∀ c ∈ s.codes, c.2 ≤ 8
  latent : ∀ n, Latent.metadata n ∉ s.latent
  held   : ∀ l ∈ s.llc, l.addr % 512 = 0 → l.dirty = 0 → l.backCode = heldCode s l.addr

theorem Legible.tame {s : State} (h : Legible s) : Tame s := ⟨h.codes, h.latent, fun l hl _ => h.held l hl⟩

/-- A quiet step that leaves a tame state. -/
structure Mild (s t : State) : Prop where
  quiet : Quiet s t
  tame  : Tame t

theorem Mild.refl {s : State} (h : Tame s) : Mild s s := ⟨Quiet.refl s, h⟩

theorem Mild.trans {s t u : State} (h : Mild s t) (g : Mild t u) : Mild s u := ⟨h.quiet.trans g.quiet, g.tame⟩

theorem Mild.of_held {s t : State} (h : Tame s) (q : Quiet s t)
    (held : ∀ l ∈ t.llc, l.addr % 512 = 0 → l.dirty = 0 → l.backCode = heldCode s l.addr) : Mild s t where
  quiet := q
  tame := ⟨q.codes ▸ h.codes, q.latent ▸ h.latent, fun l hl ha hd => (held l hl ha hd).trans (heldCode_eq q.codes l.addr).symm⟩

section
variable {s : State} (h : Tame s)
include h

theorem codeOf_tame (line : Nat) : codeOf s line ≤ 8 := by
  unfold codeOf
  split
  · exact assocGet_le h.codes _
  · exact Nat.zero_le 8

theorem metaFails_tame (line : Nat) : metaFails s line = false := by
  have absent : s.latent.contains (.metadata (line / 512)) = false := by
    rw [Bool.eq_false_iff]
    intro held
    exact h.latent _ (List.contains_iff_mem.1 held)
  simp only [metaFails, absent, Bool.false_and]

theorem ticket_mild : Mild s s.ticket := .of_held h rfl h.held

theorem countSurvey_mild (r k n : Nat) : Mild s (s.countSurvey r k n) := .of_held h rfl h.held

theorem llcSet_mild {l : LlcLine} (e : l.addr % 512 = 0 → l.dirty = 0 → l.backCode = heldCode s l.addr) : Mild s (llcSet s l) :=
  .of_held h rfl fun k hk => (List.mem_cons.1 hk).elim (fun same => same ▸ e) fun old => h.held k (List.mem_filter.1 old).1

theorem llcShow_mild {l : LlcLine} (e : l.backCode = heldCode s l.addr) : Mild s (llcShow s l) := by
  have gone {t : State} (q : Quiet s t) (m : t.llc = s.llc.filter fun k => k.addr != l.addr) : Mild s t :=
    .of_held h q fun k hk => h.held k (List.mem_filter.1 (m ▸ hk)).1
  have same (t : State) (c : t.codes = s.codes) : (heldCode t l.addr == l.backCode) = true := by rw [heldCode_eq c, e, beq_self_eq_true]
  by_cases p : (linePoison s l.addr == l.backPoison) = true
  · simp only [llcShow, if_pos p]
    rw [if_pos (same s rfl)]
    exact gone rfl rfl
  · simp only [llcShow, if_neg p]
    rw [if_pos (same _ rfl)]
    exact gone rfl rfl

/-- A line that is written back is clean, and hides no other code. -/
theorem llcClean_mild (a : Nat) : Mild s (llcClean s a) ∧
    ∀ l, llcFind (llcClean s a) a = some l → l.backCode = heldCode (llcClean s a) l.addr := by
  unfold llcClean
  cases f : llcFind s a with
  | none => exact ⟨.refl h, fun l e => by simp only [f] at e; cases e⟩
  | some k =>
    by_cases z : k.dirty = 0
    · simp only [z, beq_self_eq_true, if_true]
      refine ⟨.refl h, fun l e => ?_⟩
      rw [f] at e
      cases e
      exact h.held k (llcFind_mem f) (by rw [llcFind_addr f]; exact Nat.mul_mod_left _ _) z
    · simp only [beq_iff_eq, z, if_false]
      have counted := countSurvey_mild h (128 + k.slice) 2 1
      refine ⟨counted.trans (llcSet_mild counted.tame fun _ _ => rfl), fun l e => ?_⟩
      have at_ := llcFind_addr f
      rw [llcFind_set _ _ (by exact at_)] at e
      cases e
      rfl

theorem llcEvict_mild (a : Nat) : Mild s (llcEvict s a) := by
  obtain ⟨clean, hides⟩ := llcClean_mild h a
  simp only [llcEvict]
  split
  · exact clean
  · next l e => exact clean.trans (llcShow_mild clean.tame (hides l e))

theorem llcRoom_mild (a : Nat) (ws : List Nat) : Mild s (llcRoom s a ws) := by
  simp only [llcRoom]
  repeat' split
  · exact .refl h
  · exact .refl h
  · exact .refl h
  · exact (ticket_mild h).trans (llcEvict_mild (ticket_mild h).tame _)

theorem llcFill_mild (ctx a : Nat) : Mild s (llcFill s ctx a) := by
  simp only [llcFill]
  repeat' split
  · exact .refl h
  · exact countSurvey_mild h _ _ _
  · exact countSurvey_mild h _ _ _
  · have counted := countSurvey_mild h (128 + sliceOf a) 1 1
    have room := counted.trans (llcRoom_mild counted.tame a (usableWays (s.countSurvey (128 + sliceOf a) 1 1) (sliceOf a)))
    have ticket := room.trans (ticket_mild room.tame)
    exact ticket.trans (llcSet_mild ticket.tame fun _ _ => rfl)

end

/-! ### A write marks its line -/

theorem touched_ne_zero {line a n : Nat} (pos : 0 < n) (low : line ≤ a) (high : a < line + 512) : touched line a n ≠ 0 := by
  have spec := (maskBelow_spec (fun j => decide (line + 64 * j < a + n) && decide (a < line + 64 * j + 64)) 8).2 ((a - line) / 64)
  have mask : touched line a n = BitVec.ofNat 8 (maskBelow (fun j => decide (line + 64 * j < a + n) && decide (a < line + 64 * j + 64)) 8) := rfl
  have here : line + 64 * ((a - line) / 64) < a + n ∧ a < line + 64 * ((a - line) / 64) + 64 := by omega
  have sector : (a - line) / 64 < 8 := by omega
  intro zero
  have bit := congrArg (fun m : BitVec 8 => m.getLsbD ((a - line) / 64)) (mask.symm.trans zero)
  rw [BitVec.getLsbD_ofNat, spec] at bit
  simp [sector, here] at bit

/-- A write leaves no clean entry of its line. -/
theorem llcWrite_mild {s : State} (h : Tame s) (ctx : Nat) {line a n : Nat} (aligned : line % 512 = 0) (meets : touched line a n ≠ 0) :
    Mild s (llcWrite s ctx line a n) ∧ ∀ l ∈ (llcWrite s ctx line a n).llc, l.addr = line → l.dirty ≠ 0 := by
  have fill := llcFill_mild h ctx line
  have here : line / 512 * 512 = line := by omega
  have marked (d : BitVec 8) : d ||| touched line a n ≠ 0 := fun zero => meets (BitVec.or_eq_zero_iff.1 zero).2
  simp only [llcWrite]
  generalize llcFill s ctx line = u at fill
  split
  · next none_ =>
    refine ⟨fill, fun l hl e => absurd (List.find?_eq_none.1 none_ l hl) ?_⟩
    rw [here, e, not_not]
    exact beq_self_eq_true _
  · next l found =>
    have at_ := llcFind_addr found
    refine ⟨fill.trans (llcSet_mild fill.tame fun _ clean => ?_), fun k hk e => ?_⟩
    · split at clean
      · exact absurd clean (marked _)
      · exact absurd clean (marked _)
    · rcases List.mem_cons.1 hk with rfl | old
      · split
        · exact marked _
        · exact marked _
      · have other := (List.mem_filter.1 old).2
        rw [bne_iff_ne] at other
        refine absurd ?_ other
        split
        · exact e.trans (at_.trans here).symm
        · exact e.trans (at_.trans here).symm

/-- A line's code may change where no clean entry hides the old one. -/
theorem setCode_tame {s : State} (h : Tame s) {line code : Nat} (aligned : line % 512 = 0) (low : code ≤ 8)
    (marked : ∀ l ∈ s.llc, l.addr = line → l.dirty ≠ 0) : Tame (setCode s line code) where
  codes := by
    unfold setCode
    simp only
    split
    · exact fun c hc => h.codes c (List.mem_filter.1 hc).1
    · intro c hc
      rcases List.mem_cons.1 hc with rfl | hc
      · exact low
      · exact h.codes c (List.mem_filter.1 hc).1
  latent := h.latent
  held := fun l hl ha hd => by
    have other : l.addr ≠ line := fun e => marked l hl e hd
    rw [heldCode_setCode, if_neg (by omega)]
    exact h.held l hl ha hd

end Sys2Proof.Machine
end

section
/-! What a write at a home leaves (R104, R105): its bytes, where it is not refused, and every other byte as it was. -/

namespace Sys2Proof.Machine

/-! ### Bytes within a line -/

/-- Bytes with others in their place from o on. -/
def splice (old : List Byte) (o : Nat) (bs : List Byte) : List Byte := old.take o ++ bs ++ old.drop (o + bs.length)

theorem splice_length {old : List Byte} {o : Nat} {bs : List Byte} (fits : o + bs.length ≤ old.length) :
    (splice old o bs).length = old.length := by
  simp only [splice, List.length_append, List.length_take, List.length_drop]
  omega

theorem splice_getD {old : List Byte} {o i : Nat} {bs : List Byte} (fits : o + bs.length ≤ old.length) :
    (splice old o bs).getD i 0 = if o ≤ i ∧ i < o + bs.length then bs.getD (i - o) 0 else old.getD i 0 := by
  have front : (old.take o).length = o := by rw [List.length_take]; omega
  simp only [List.getD_eq_getElem?_getD, splice]
  rcases Nat.lt_or_ge i o with low | low
  · rw [if_neg (by omega), List.append_assoc, List.getElem?_append_left (by omega), List.getElem?_take_of_lt low]
  · rcases Nat.lt_or_ge i (o + bs.length) with high | high
    · rw [if_pos ⟨low, high⟩, List.getElem?_append_left (by rw [List.length_append]; omega), List.getElem?_append_right (by omega), front]
    · rw [if_neg (by omega), List.getElem?_append_right (by rw [List.length_append]; omega), List.getElem?_drop, List.length_append, front]
      congr 2
      omega

theorem splice_whole {old bs : List Byte} (size : bs.length = old.length) : splice old 0 bs = bs := by
  simp [splice, size]

/-- Storage after a write within it. -/
theorem memRead_memPut_splice (m : List Host.Cell) {line a n : Nat} {bs : List Byte} (low : line ≤ a) (high : a + bs.length ≤ line + n) :
    memRead (memPut m a bs) line n = splice (memRead m line n) (a - line) bs := by
  have size := memRead_length m line n
  have fits : a - line + bs.length ≤ (memRead m line n).length := by omega
  refine List.ext_getElem (by rw [splice_length fits, size, memRead_length]) fun i h1 h2 => ?_
  rw [memRead_length] at h1
  rw [← List.getD_eq_getElem _ 0, ← List.getD_eq_getElem _ 0 h2, splice_getD fits, memRead_eq, memRead_eq,
    List.getD_eq_getElem _ _ (by simpa using h1), List.getElem_map, List.getElem_range]
  by_cases inside : a - line ≤ i ∧ i < a - line + bs.length
  · have written := memGet_memPut_in m a bs (i - (a - line)) (by omega)
    have place : a + (i - (a - line)) = line + i := by omega
    rw [if_pos inside, ← place, written, List.getD_eq_getElem]
  · rw [if_neg inside, List.getD_eq_getElem _ _ (by simpa using h1), List.getElem_map, List.getElem_range]
    exact memGet_memPut_out _ _ _ _ (by omega)

/-! ### What a write leaves -/

/-- After a write of bs at key: its bytes, every other byte as it was, and a state as tame as before. -/
structure Lands (s t : State) (key : Nat) (bs : List Byte) : Prop where
  tame  : Tame t
  squad : t.sq = s.sq
  bytes : ∀ j, t.byteAt j = if key ≤ j ∧ j < key + bs.length then bs.getD (j - key) 0 else s.byteAt j

/-- A write within one line, told by lines. -/
theorem Lands.of_lines {s t : State} {line key : Nat} {bs : List Byte} (tame : Tame t) (squad : t.sq = s.sq) (aligned : line % 512 = 0)
    (low : line ≤ key) (high : key + bs.length ≤ line + 512) (here : lineBytes t line = splice (lineBytes s line) (key - line) bs)
    (others : ∀ l, l % 512 = 0 → l ≠ line → lineBytes t l = lineBytes s l) : Lands s t key bs where
  tame := tame
  squad := squad
  bytes := fun j => by
    have size := lineBytes_length s line
    by_cases same : j / 512 * 512 = line
    · obtain ⟨i, hi, rfl⟩ : ∃ i, i < 512 ∧ j = line + i := ⟨j - line, by omega, by omega⟩
      rw [byteAt_eq t aligned hi, byteAt_eq s aligned hi, here, splice_getD (by omega)]
      by_cases inside : key ≤ line + i ∧ line + i < key + bs.length
      · rw [if_pos inside, if_pos (by omega)]
        congr 1
        omega
      · rw [if_neg inside, if_neg (by omega)]
    · rw [if_neg (by omega), State.byteAt, State.byteAt, others _ (Nat.mul_mod_left _ _) same]

/-! ### Writes of one line -/

/-- States that agree in what tameness speaks of. -/
theorem Tame.of_eq {s t : State} (h : Tame s) (codes : t.codes = s.codes) (latent : ∀ l ∈ t.latent, l ∈ s.latent) (llc : t.llc = s.llc) :
    Tame t where
  codes := codes ▸ h.codes
  latent := fun n held => h.latent n (latent _ held)
  held := fun l hl ha hd => by
    rw [heldCode_eq codes]
    exact h.held l (llc ▸ hl) ha hd

theorem noteOld_tame {s : State} (h : Tame s) (a : Nat) (old : List Byte) : Tame (noteOld s a old) := by
  unfold noteOld
  split
  · exact h
  · exact h.of_eq rfl (fun _ hl => hl) rfl

/-- What an old value is kept for is no memory (R140). -/
theorem noteOld_rest (s : State) (a : Nat) (old : List Byte) : (noteOld s a old).mem = s.mem ∧ (noteOld s a old).codes = s.codes ∧
    (noteOld s a old).dev = s.dev := by
  unfold noteOld
  split <;> exact ⟨rfl, rfl, rfl⟩

theorem linesOf_within {line a n : Nat} (aligned : line % 512 = 0) (pos : 0 < n) (low : line ≤ a) (high : a + n ≤ line + 512) :
    linesOf a n = [line] := by
  have one : (a + n - 1) / 512 - a / 512 + 1 = 1 := by omega
  have here : a / 512 * 512 = line := by omega
  rw [linesOf, if_neg (by omega), one]
  simp [here]

/-- What a write within one line leaves beside its bytes. -/
structure Puts (s t : State) (line a : Nat) (bs : List Byte) : Prop where
  tame   : Tame t
  squad  : t.sq = s.sq
  mem    : t.mem = memPut s.mem a bs
  codes  : t.codes = s.codes
  dev    : t.dev = s.dev
  marked : ∀ l ∈ t.llc, l.addr = line → l.dirty ≠ 0

section
variable {s : State} {line a : Nat} {bs : List Byte} (h : Tame s) (aligned : line % 512 = 0) (some_ : bs ≠ []) (low : line ≤ a)
  (high : a + bs.length ≤ line + 512)
include h aligned some_ low high

theorem homePut_puts (ctx : Nat) : Puts s (homePut s ctx a bs) line a bs := by
  have pos := List.length_pos_iff.2 some_
  obtain ⟨⟨quiet, tame⟩, marked⟩ := llcWrite_mild h ctx aligned (touched_ne_zero pos low (by omega))
  rw [homePut, linesOf_within aligned pos low high, List.foldl_cons, List.foldl_nil]
  exact ⟨tame.of_eq rfl (fun _ hl => hl) rfl, quiet.sq, congrArg (memPut · a bs) quiet.mem, quiet.codes, quiet.dev, marked⟩

end

/-- What is kept for old fetches changes nothing that a write speaks of (R140). -/
theorem Puts.noted {s t : State} {line a x : Nat} {bs old : List Byte} (p : Puts (noteOld s x old) t line a bs) : Puts s t line a bs := by
  obtain ⟨mem, codes, dev⟩ := noteOld_rest s x old
  exact ⟨p.tame, p.squad.trans (noteOld_sq s x old), p.mem.trans (congrArg (memPut · a bs) mem), p.codes.trans codes, p.dev.trans dev, p.marked⟩

section
variable {s t : State} {line a : Nat} {bs : List Byte} (p : Puts s t line a bs) (aligned : line % 512 = 0) (low : line ≤ a)
  (high : a + bs.length ≤ line + 512)
include p aligned low high

theorem Puts.others {l : Nat} (hl : l % 512 = 0) (other : l ≠ line) : memRead t.mem l 512 = memRead s.mem l 512 := by
  rw [p.mem]
  exact memRead_memPut_out _ _ _ _ _ (by omega)

/-- In a raw line the bytes lie where they are written. -/
theorem Puts.lands_raw (raw : codeOf s line = 0) : Lands s t a bs := by
  have codes (l : Nat) : codeOf t l = codeOf s l := codeOf_eq p.codes (by rw [p.dev]) l
  refine Lands.of_lines p.tame p.squad aligned low high ?_ fun l hl other => lineBytes_of_same (codes l) (p.others aligned low high hl other)
  rw [lineBytes_raw ((codes line).trans raw), lineBytes_raw raw, p.mem, memRead_memPut_splice _ low high]

end

/-- A line stored anew under a code. -/
theorem Puts.lands_coded {s t : State} {line a code : Nat} {bs form new : List Byte} (p : Puts s t line line form) (aligned : line % 512 = 0)
    (short : form.length ≤ 512) (le : code ≤ 8) (low : line ≤ a) (high : a + bs.length ≤ line + 512)
    (reads : ∀ u : State, u.mem = t.mem → codeOf u line = (if inWindow s line then code else 0) → lineBytes u line = new)
    (spliced : new = splice (lineBytes s line) (a - line) bs) : Lands s (setCode t line code) a bs := by
  have window (l : Nat) : inWindow t l = inWindow s l := inWindow_eq (by rw [p.dev]) l
  have here : codeOf (setCode t line code) line = if inWindow s line then code else 0 := by
    rw [← window]
    unfold codeOf
    rw [heldCode_setCode, if_pos rfl]
    rfl
  refine Lands.of_lines (setCode_tame p.tame aligned le p.marked) p.squad aligned low high
    ((reads (setCode t line code) rfl here).trans spliced) fun l hl other => ?_
  refine lineBytes_of_same ?_ (p.others aligned (Nat.le_refl line) (by omega) hl other)
  rw [codeOf_setCode_other _ _ _ (by omega), codeOf_eq p.codes (by rw [p.dev])]

/-- A write of part of a line that is not refused (R104, R105). -/
theorem homeWritePart_lands {s : State} (h : Tame s) (ctx : Nat) {line a : Nat} {bs : List Byte} (aligned : line % 512 = 0)
    (some_ : bs ≠ []) (low : line ≤ a) (high : a + bs.length ≤ line + 512) (taken : (homeWritePart s ctx line a bs).2 = false) :
    Lands s (homeWritePart s ctx line a bs).1 a bs := by
  have old := lineBytes_length s line
  have le := codeOf_tame h line
  unfold homeWritePart at taken ⊢
  simp only [metaFails_tame h line, Bool.false_eq_true, if_false, Nat.not_le.2 (show codeOf s line < 9 by omega)] at taken ⊢
  by_cases raw : codeOf s line = 0
  · rw [if_pos raw]
    exact (homePut_puts (noteOld_tame h _ _) aligned some_ low high ctx).noted.lands_raw aligned low high raw
  · rw [if_neg raw] at taken ⊢
    by_cases bad : sectorBad s (line / 64) = true
    · rw [if_pos bad] at taken
      exact absurd taken (by simp [refuseWrite])
    · rw [if_neg bad]
      have size : (splice (lineBytes s line) (a - line) bs).length = 512 := (splice_length (by omega)).trans old
      have p := (homePut_puts (noteOld_tame h line (lineBytes s line)) (bs := splice (lineBytes s line) (a - line) bs) aligned
        (fun e => by rw [e] at size; cases size) (Nat.le_refl line) (by omega) ctx).noted
      refine p.lands_coded aligned (by omega) (by decide) low high (fun u hm hc => ?_) rfl
      rw [lineBytes_raw (hc.trans (ite_self 0)), hm, p.mem, memRead_memPut_splice _ (Nat.le_refl line) (by omega), Nat.sub_self,
        splice_whole (by rw [size, memRead_length])]

/-- A whole line, written by the distiller or a copy (R104). -/
theorem homeWriteLine_lands {s : State} (h : Tame s) (ctx : Nat) {line : Nat} {bs : List Byte} (aligned : line % 512 = 0)
    (size : bs.length = 512) : Lands s (homeWriteLine s ctx line bs) line bs := by
  have old := lineBytes_length s line
  have whole : bs = splice (lineBytes s line) (line - line) bs := by rw [Nat.sub_self, splice_whole (by omega)]
  have known : Tame { s with latent := s.latent.filter (· != .metadata (line / 512)) } :=
    h.of_eq rfl (fun _ hl => (List.mem_filter.1 hl).1) rfl
  obtain ⟨mem, codes, dev⟩ := noteOld_rest { s with latent := s.latent.filter (· != .metadata (line / 512)) } line (lineBytes s line)
  have squad := noteOld_sq { s with latent := s.latent.filter (· != .metadata (line / 512)) } line (lineBytes s line)
  have tame := noteOld_tame known line (lineBytes s line)
  unfold homeWriteLine
  simp only
  generalize noteOld { s with latent := s.latent.filter (· != .metadata (line / 512)) } line (lineBytes s line) = u at mem codes dev squad tame ⊢
  have window : inWindow u line = inWindow s line := inWindow_eq (by rw [dev]) line
  by_cases inside : inWindow s line = true
  · rw [if_pos (window.trans inside)]
    have short : (compressLine bs).2.length ≤ 512 ∧ (compressLine bs).1 ≤ 8 := by
      rcases compressLine_cases size with ⟨form, -⟩ | form | ⟨n, pad, form, -, high, fits⟩
      · rw [form]; exact ⟨by decide, by decide⟩
      · rw [form]; exact ⟨size.le, Nat.zero_le 8⟩
      · rw [form]; exact ⟨by simp only; omega, by simp only; omega⟩
    have counted : Mild u (if (compressLine bs).1 = 0 then u else u.countSurvey (160 + stackOf u line) 3 1) := by
      split
      · exact .refl tame
      · exact countSurvey_mild tame _ _ _
    obtain ⟨written, marked⟩ := llcWrite_mild counted.tame ctx aligned (touched_ne_zero (n := 512) (by decide) (Nat.le_refl line) (by omega))
    have quiet := counted.quiet.trans written.quiet
    refine Puts.lands_coded (s := s) (form := (compressLine bs).2) (new := bs)
      ⟨written.tame.of_eq rfl (fun _ hl => hl) rfl, quiet.sq.trans squad, ?_, quiet.codes.trans codes, quiet.dev.trans dev, marked⟩
      aligned short.1 short.2 (Nat.le_refl line) (by omega) (fun v hm hc => ?_) whole
    · exact congrArg (memPut · line (compressLine bs).2) (quiet.mem.trans mem)
    · rw [if_pos inside] at hc
      refine lineBytes_compressed size hc ?_
      rw [hm]
      exact memRead_memPut _ _ _
  · have outside_ := Bool.eq_false_iff.2 inside
    rw [if_neg (by rw [window]; exact inside)]
    have p := homePut_puts tame aligned (fun e => by rw [e] at size; cases size) (Nat.le_refl line) (by omega) ctx (bs := bs)
    have q : Puts s (homePut u ctx line bs) line line bs := ⟨p.tame, p.squad.trans squad,
      p.mem.trans (congrArg (memPut · line bs) mem), p.codes.trans codes, p.dev.trans dev, p.marked⟩
    exact q.lands_raw aligned (Nat.le_refl line) (by omega) (by simp [codeOf, outside_])

end Sys2Proof.Machine
end

section
/-! The lines that the distiller writes (R267): afterwards memory holds what the pieces give, and is otherwise as it was. -/

namespace Sys2Proof.Machine

/-- Bytes within one line, as an engine that writes whole lines writes them (R104). -/
theorem writeKey_lands {s : State} (h : Tame s) {va line key : Nat} {bs : List Byte} (aligned : line % 512 = 0) (some_ : bs ≠ [])
    (low : line ≤ key) (high : key + bs.length ≤ line + 512) (open_ : toControl s key = false)
    (taken : (writeKey s true va key bs).2 = none) : Lands s (writeKey s true va key bs).1 key bs := by
  have pos := List.length_pos_iff.2 some_
  have first : Nat.max key line = key := Nat.max_eq_left low
  have last : Nat.min (key + bs.length) (line + 512) = key + bs.length := Nat.min_eq_left high
  have part : (bs.drop (key - key)).take (key + bs.length - key) = bs := by simp
  unfold writeKey at taken ⊢
  simp only [open_, Bool.false_eq_true, if_false, linesOf_within aligned pos low high, List.foldl_cons, List.foldl_nil, first, last,
    part, Bool.true_and, decide_eq_true_eq] at taken ⊢
  by_cases whole : key + bs.length - key = 512
  · obtain rfl : key = line := by omega
    rw [if_pos whole]
    exact homeWriteLine_lands h _ aligned (by omega)
  · rw [if_neg whole] at taken ⊢
    refine homeWritePart_lands h _ aligned some_ low high (Bool.eq_false_iff.2 fun refused => ?_)
    simp [refused] at taken

/-! ### Steps that write what is due -/

/-- t is s but for bytes that are as G says. -/
structure Follows (G : Nat → Option Byte) (s t : State) : Prop where
  tame  : Tame t
  squad : t.sq = s.sq
  bytes : ∀ j, t.byteAt j = s.byteAt j ∨ G j = some (t.byteAt j)

theorem Follows.trans {G : Nat → Option Byte} {s t u : State} (h : Follows G s t) (g : Follows G t u) : Follows G s u where
  tame := g.tame
  squad := g.squad.trans h.squad
  bytes := fun j => by
    rcases g.bytes j with same | due
    · rw [same]
      exact h.bytes j
    · exact .inr due

/-- What is written stays. -/
theorem Follows.keeps {G : Nat → Option Byte} {s t : State} (h : Follows G s t) {j : Nat} (done : G j = some (s.byteAt j)) :
    G j = some (t.byteAt j) := by
  rcases h.bytes j with same | due
  · rw [same]
    exact done
  · exact due

/-- Nothing was refused before if nothing is refused in the end. -/
theorem fold_taken {α : Type} {step : State × Option Nat → α → State × Option Nat} (mono : ∀ u a, (step u a).2 = none → u.2 = none) :
    ∀ (l : List α) (u : State × Option Nat), (l.foldl step u).2 = none → u.2 = none
  | [], _, taken => taken
  | a :: l, u, taken => mono u a (fold_taken mono l (step u a) taken)

/-- Steps of which each writes its own part of what is due, in order, while none is refused. -/
theorem fold_follows {α : Type} {G : Nat → Option Byte} {s : State} {step : State × Option Nat → α → State × Option Nat} {Q : α → Prop}
    {P : α → Nat → Prop} (mono : ∀ u a, (step u a).2 = none → u.2 = none)
    (one : ∀ u a, Q a → Tame u.1 → u.1.sq = s.sq → (step u a).2 = none →
      Follows G u.1 (step u a).1 ∧ ∀ j, P a j → G j = some ((step u a).1.byteAt j))
    (l : List α) (u : State × Option Nat) (ok : ∀ a ∈ l, Q a) (tame : Tame u.1) (squad : u.1.sq = s.sq) (taken : (l.foldl step u).2 = none) :
    Follows G u.1 (l.foldl step u).1 ∧ ∀ a ∈ l, ∀ j, P a j → G j = some ((l.foldl step u).1.byteAt j) := by
  induction l generalizing u with
  | nil => exact ⟨⟨tame, rfl, fun _ => .inl rfl⟩, fun a ha => absurd ha List.not_mem_nil⟩
  | cons a l ih =>
    obtain ⟨here, due⟩ := one u a (ok a List.mem_cons_self) tame squad (fold_taken mono l _ taken)
    obtain ⟨later, laterDue⟩ := ih (step u a) (fun b hb => ok b (List.mem_cons_of_mem a hb)) here.tame (here.squad.trans squad) taken
    refine ⟨here.trans later, fun b hb j hj => ?_⟩
    rcases List.mem_cons.1 hb with rfl | hb
    · exact later.keeps (due j hj)
    · exact laterDue b hb j hj

/-! ### Runs of bytes -/

/-- A run of bytes between A and A + n, each as g gives it. -/
structure RunOf (g : Nat → Option (Nat × Byte)) (A n : Nat) (r : Nat × Nat × List Byte) : Prop where
  filled : r.2.2 ≠ []
  low    : A ≤ r.2.1
  high   : r.2.1 + r.2.2.length ≤ A + n
  bytes  : ∀ i, i < r.2.2.length → (g (r.2.1 + i)).map (·.2) = some (r.2.2.getD i 0)

/-- The bytes that a run covers. -/
def Covers (r : Nat × Nat × List Byte) (j : Nat) : Prop := r.2.1 ≤ j ∧ j < r.2.1 + r.2.2.length

/-- The runs of the bytes that g gives between A and A + n. -/
structure RunsOf (g : Nat → Option (Nat × Byte)) (A n : Nat) (rs : List (Nat × Nat × List Byte)) : Prop where
  runs   : ∀ r ∈ rs, RunOf g A n r
  covers : ∀ j, A ≤ j → j < A + n → (g j).isSome → ∃ r ∈ rs, Covers r j

theorem RunOf.later {g : Nat → Option (Nat × Byte)} {A n : Nat} {r : Nat × Nat × List Byte} (h : RunOf g (A + 1) n r) : RunOf g A (n + 1) r :=
  ⟨h.filled, by have := h.low; omega, by have := h.high; omega, h.bytes⟩

theorem RunOf.single {g : Nat → Option (Nat × Byte)} {A va : Nat} {b : Byte} (n : Nat) (at_ : g A = some (va, b)) :
    RunOf g A (n + 1) (va, A, [b]) := by
  refine ⟨List.cons_ne_nil b [], Nat.le_refl A, by simp, fun i hi => ?_⟩
  obtain rfl : i = 0 := by simpa using hi
  simp [at_]

/-- A byte before a run that follows it. -/
theorem RunOf.cons {g : Nat → Option (Nat × Byte)} {A n va va' : Nat} {b : Byte} {bs : List Byte} (at_ : g A = some (va, b))
    (h : RunOf g (A + 1) n (va', A + 1, bs)) : RunOf g A (n + 1) (va, A, b :: bs) := by
  have high := h.high
  refine ⟨List.cons_ne_nil b bs, Nat.le_refl A, by simp only [List.length_cons] at *; omega, fun i hi => ?_⟩
  cases i with
  | zero => simp [at_]
  | succ i =>
    have := h.bytes i (Nat.lt_of_succ_lt_succ hi)
    rw [Nat.add_right_comm] at this
    exact this

theorem lineRuns_runsOf (g : Nat → Option (Nat × Byte)) :
    ∀ n A, RunsOf g A n (lineRuns ((List.range' A n).map fun a => (a, g a))) := by
  intro n
  induction n with
  | zero => exact fun A => ⟨fun r hr => absurd hr List.not_mem_nil, fun j h h' => by omega⟩
  | succ n ih =>
    intro A
    obtain ⟨runs, covers⟩ := ih (A + 1)
    rw [List.range'_succ, List.map_cons]
    cases at_ : g A with
    | none =>
      rw [lineRuns]
      refine ⟨fun r hr => (runs r hr).later, fun j low high given => covers j ?_ (by omega) given⟩
      rcases Nat.eq_or_lt_of_le low with rfl | low
      · rw [at_] at given
        cases given
      · exact low
    | some found =>
      obtain ⟨va, b⟩ := found
      rw [lineRuns]
      generalize lineRuns ((List.range' (A + 1) n).map fun a => (a, g a)) = rest at runs covers
      have rest_ (j : Nat) (low : A < j) (high : j < A + (n + 1)) (given : (g j).isSome) := covers j low (by omega) given
      have one := RunOf.single n at_
      match rest, runs, rest_ with
      | [], _, rest_ =>
        refine ⟨by simpa using one, fun j low high given => ⟨_, List.mem_singleton_self _, ?_⟩⟩
        rcases Nat.eq_or_lt_of_le low with rfl | low
        · exact ⟨Nat.le_refl A, Nat.lt_succ_self A⟩
        · obtain ⟨r, hr, -⟩ := rest_ j low high given
          exact absurd hr List.not_mem_nil
      | (va2, a2, bs) :: more, runs, rest_ =>
        have first := runs _ List.mem_cons_self
        have others (r : Nat × Nat × List Byte) (hr : r ∈ more) : RunOf g A (n + 1) r := (runs r (List.mem_cons_of_mem _ hr)).later
        by_cases next_ : a2 = A + 1
        · subst next_
          simp only [if_true]
          refine ⟨List.forall_mem_cons.2 ⟨first.cons at_, others⟩, fun j low high given => ?_⟩
          rcases Nat.eq_or_lt_of_le low with rfl | low
          · exact ⟨_, List.mem_cons_self, Nat.le_refl A, Nat.lt_add_of_pos_right (Nat.succ_pos _)⟩
          · obtain ⟨r, hr, above, below⟩ := rest_ j low high given
            rcases List.mem_cons.1 hr with rfl | hr
            · refine ⟨_, List.mem_cons_self, Nat.le_of_lt low, ?_⟩
              simp only [List.length_cons] at below ⊢
              omega
            · exact ⟨r, List.mem_cons_of_mem _ hr, above, below⟩
        · simp only [next_, if_false]
          refine ⟨List.forall_mem_cons.2 ⟨one, List.forall_mem_cons.2 ⟨first.later, others⟩⟩, fun j low high given => ?_⟩
          rcases Nat.eq_or_lt_of_le low with rfl | low
          · exact ⟨_, List.mem_cons_self, Nat.le_refl A, Nat.lt_succ_self A⟩
          · obtain ⟨r, hr, covered⟩ := rest_ j low high given
            exact ⟨r, List.mem_cons_of_mem _ hr, covered⟩

/-! ### Lines -/

/-- What pieces give at an address: the first that covers it. -/
def pieceByte (ps : List (Nat × Nat × List Byte)) (a : Nat) : Option Byte := (lineByte ps a).map (·.2)

/-- One run written. -/
def writeRun (u : State × Option Nat) (r : Nat × Nat × List Byte) : State × Option Nat :=
  ((writeKey u.1 true r.1 r.2.1 r.2.2).1, u.2.orElse fun _ => (writeKey u.1 true r.1 r.2.1 r.2.2).2)

/-- A run that nothing refused. -/
theorem writeRun_taken {u : State × Option Nat} {r : Nat × Nat × List Byte} (h : (writeRun u r).2 = none) :
    u.2 = none ∧ (writeKey u.1 true r.1 r.2.1 r.2.2).2 = none := by
  unfold writeRun at h
  cases e : u.2 with
  | none => simpa [e] using h
  | some a => simp [e] at h

/-- The pieces that meet a line. -/
def piecesOf (ps : List (Nat × Nat × List Byte)) (line : Nat) : List (Nat × Nat × List Byte) :=
  ps.filter fun p => p.2.1 < line + 512 && line < p.2.1 + p.2.2.length

/-- One line written, run by run. -/
def writeLine (ps : List (Nat × Nat × List Byte)) (u : State × Option Nat) (line : Nat) : State × Option Nat :=
  (lineRuns ((List.range' line 512).map fun a => (a, lineByte (piecesOf ps line) a))).foldl writeRun u

/-- The lines that pieces touch. -/
def linesTouched (ps : List (Nat × Nat × List Byte)) : List Nat := (ps.flatMap fun p => linesOf p.2.1 p.2.2.length).eraseDups

theorem writeLines_eq (s : State) (ps : List (Nat × Nat × List Byte)) :
    writeLines s ps = (linesTouched ps).foldl (writeLine ps) (s, none) := by
  have addresses (line : Nat) (g : Nat → Option (Nat × Byte)) :
      (List.range' line 512).map (fun a => (a, g a)) = (List.range 512).map fun i => (line + i, g (line + i)) := by
    rw [List.range'_eq_map_range, List.map_map]
    rfl
  unfold writeLines
  refine congrArg (fun f => List.foldl f (s, none) (linesTouched ps)) (funext fun u => funext fun line => ?_)
  rw [writeLine, addresses]
  rfl

theorem mem_linesOf {a n line : Nat} : line ∈ linesOf a n ↔ line % 512 = 0 ∧ line < a + n ∧ a < line + 512 ∧ 0 < n := by
  unfold linesOf
  split
  · next none_ => simp [none_]
  · next some_ =>
    simp only [List.mem_map, List.mem_range]
    constructor
    · rintro ⟨i, hi, rfl⟩
      omega
    · rintro ⟨aligned, low, high, pos⟩
      exact ⟨line / 512 - a / 512, by omega, by omega⟩

/-- Within a line, the pieces that meet it give what all pieces give. -/
theorem lineByte_piecesOf (ps : List (Nat × Nat × List Byte)) {line a : Nat} (low : line ≤ a) (high : a < line + 512) :
    lineByte (piecesOf ps line) a = lineByte ps a := by
  unfold lineByte piecesOf
  rw [List.find?_filter]
  refine congrArg (fun p => (List.find? p ps).map _) (funext fun p => ?_)
  rw [Bool.eq_iff_iff]
  simp only [Bool.and_eq_true, decide_eq_true_eq]
  omega

/-- A run is written where nothing is refused. -/
theorem writeRun_follows {G : Nat → Option Byte} {s : State} {u : State × Option Nat} {line : Nat} {g : Nat → Option (Nat × Byte)}
    {r : Nat × Nat × List Byte} (open_ : ∀ a, (G a).isSome → toControl s a = false) (aligned : line % 512 = 0)
    (run : RunOf g line 512 r) (given : ∀ a, line ≤ a → a < line + 512 → (g a).map (·.2) = G a) (tame : Tame u.1) (squad : u.1.sq = s.sq)
    (taken : (writeRun u r).2 = none) :
    Follows G u.1 (writeRun u r).1 ∧ ∀ j, Covers r j → G j = some ((writeRun u r).1.byteAt j) := by
  obtain ⟨filled, low, high, bytes⟩ := run
  have pos := List.length_pos_iff.2 filled
  have due (i : Nat) (hi : i < r.2.2.length) : G (r.2.1 + i) = some (r.2.2.getD i 0) := by
    rw [← given _ (by omega) (by omega), bytes i hi]
  have control : toControl u.1 r.2.1 = false := by
    have := open_ r.2.1 (by rw [← Nat.add_zero r.2.1, due 0 pos]; rfl)
    unfold toControl at this ⊢
    rw [squad]
    exact this
  obtain ⟨tame', squad', bytes'⟩ := writeKey_lands tame aligned filled low high control (writeRun_taken taken).2
  have covered (j : Nat) (hj : Covers r j) : G j = some ((writeRun u r).1.byteAt j) := by
    obtain ⟨above, below⟩ := hj
    have place : r.2.1 + (j - r.2.1) = j := by omega
    rw [writeRun, bytes' j, if_pos ⟨above, below⟩, ← due _ (by omega), place]
  refine ⟨⟨tame', squad', fun j => ?_⟩, covered⟩
  by_cases hj : Covers r j
  · exact .inr (covered j hj)
  · exact .inl ((bytes' j).trans (if_neg hj))

/-- A line is written where nothing is refused. -/
theorem writeLine_follows {s : State} {ps : List (Nat × Nat × List Byte)} (open_ : ∀ a, (pieceByte ps a).isSome → toControl s a = false)
    (u : State × Option Nat) (line : Nat) (aligned : line % 512 = 0) (tame : Tame u.1) (squad : u.1.sq = s.sq)
    (taken : (writeLine ps u line).2 = none) :
    Follows (pieceByte ps) u.1 (writeLine ps u line).1 ∧
      ∀ j, (line ≤ j ∧ j < line + 512) ∧ (pieceByte ps j).isSome → pieceByte ps j = some ((writeLine ps u line).1.byteAt j) := by
  have given (a : Nat) (low : line ≤ a) (high : a < line + 512) : (lineByte (piecesOf ps line) a).map (·.2) = pieceByte ps a := by
    rw [lineByte_piecesOf ps low high]
    rfl
  obtain ⟨runs, covers⟩ := lineRuns_runsOf (lineByte (piecesOf ps line)) 512 line
  obtain ⟨follows, due⟩ := fold_follows (s := s) (step := writeRun) (P := Covers)
    (fun _ _ h => (writeRun_taken h).1)
    (fun u r run tame squad taken => writeRun_follows open_ aligned run given tame squad taken) _ u runs tame squad taken
  refine ⟨follows, fun j ⟨⟨low, high⟩, some_⟩ => ?_⟩
  obtain ⟨r, hr, covered⟩ := covers j low high (by rw [← given j low high, Option.isSome_map] at some_; exact some_)
  exact due r hr j covered

/-- What a piece gives is due where no two pieces meet. -/
theorem pieceByte_of_mem {ps : List (Nat × Nat × List Byte)} (distinct : ps.Pairwise fun p q => apart p.2.1 p.2.2.length q.2.1 q.2.2.length)
    {p : Nat × Nat × List Byte} (hp : p ∈ ps) {i : Nat} (hi : i < p.2.2.length) : pieceByte ps (p.2.1 + i) = some (p.2.2.getD i 0) := by
  have covers : (decide (p.2.1 ≤ p.2.1 + i) && decide (p.2.1 + i < p.2.1 + p.2.2.length)) = true := by simpa using hi
  unfold pieceByte lineByte
  cases found : ps.find? fun q => q.2.1 ≤ p.2.1 + i && p.2.1 + i < q.2.1 + q.2.2.length with
  | none => exact absurd covers (List.find?_eq_none.1 found p hp)
  | some q =>
    have covered := List.find?_some found
    simp only [Bool.and_eq_true, decide_eq_true_eq] at covered
    have same : q = p := by
      by_contra other
      have symmetric : Std.Symm fun p q : Nat × Nat × List Byte => apart p.2.1 p.2.2.length q.2.1 q.2.2.length := ⟨fun _ _ => Or.symm⟩
      have away := distinct.forall (List.mem_of_find?_eq_some found) hp other
      unfold apart at away
      omega
    subst same
    simp

/-- An address outside all pieces is given nothing. -/
theorem pieceByte_outside {ps : List (Nat × Nat × List Byte)} {j : Nat} (h : ∀ p ∈ ps, outside j p.2.1 p.2.2.length) : pieceByte ps j = none := by
  unfold pieceByte lineByte
  rw [List.find?_eq_none.2 fun p hp => by
    have := h p hp
    unfold outside at this
    simp only [Bool.and_eq_true, decide_eq_true_eq]
    omega]
  rfl

/-- Lines written where no line refuses: the pieces' bytes, and every other byte as it was (R267). -/
theorem writeLines_bytes {s t : State} {ps : List (Nat × Nat × List Byte)} (tame : Tame s)
    (open_ : ∀ p ∈ ps, ∀ i, i < p.2.2.length → toControl s (p.2.1 + i) = false)
    (distinct : ps.Pairwise fun p q => apart p.2.1 p.2.2.length q.2.1 q.2.2.length) (taken : writeLines s ps = (t, none)) :
    (∀ p ∈ ps, ∀ i, i < p.2.2.length → t.byteAt (p.2.1 + i) = p.2.2.getD i 0) ∧
    ∀ j, (∀ p ∈ ps, outside j p.2.1 p.2.2.length) → t.byteAt j = s.byteAt j := by
  have control (a : Nat) (given : (pieceByte ps a).isSome) : toControl s a = false := by
    by_contra closed
    have none_ := pieceByte_outside (ps := ps) (j := a) fun p hp => by
      by_contra inside
      unfold outside at inside
      have := open_ p hp (a - p.2.1) (by omega)
      rw [show p.2.1 + (a - p.2.1) = a by omega] at this
      exact closed this
    rw [none_] at given
    cases given
  have lines (line : Nat) (h : line ∈ linesTouched ps) : line % 512 = 0 := by
    obtain ⟨p, -, hp⟩ := List.mem_flatMap.1 (List.mem_eraseDups.1 h)
    exact (mem_linesOf.1 hp).1
  have fold := fold_follows (s := s) (step := writeLine ps)
    (fun u line => fold_taken (step := writeRun) (fun _ _ h => (writeRun_taken h).1) _ u)
    (writeLine_follows control) (linesTouched ps) (s, none) lines tame rfl
  rw [← writeLines_eq, taken] at fold
  obtain ⟨follows, due⟩ := fold rfl
  refine ⟨fun p hp i hi => ?_, fun j out => ?_⟩
  · have given := pieceByte_of_mem distinct hp hi
    have touches : (p.2.1 + i) / 512 * 512 ∈ linesTouched ps :=
      List.mem_eraseDups.2 (List.mem_flatMap.2 ⟨p, hp, mem_linesOf.2 (by omega)⟩)
    have written := due _ touches (p.2.1 + i) ⟨by omega, by rw [given]; rfl⟩
    rw [given] at written
    exact (Option.some.inj written).symm
  · rcases follows.bytes j with same | given
    · exact same
    · rw [pieceByte_outside out] at given
      cases given

end Sys2Proof.Machine
end

section
/-! Bank and tile instructions: their issue, and what their engines compute. -/

namespace Sys2Proof.Laws

open Sys2Proof.Machine

/-- Settles O16: every own part passes its checks one by one and leaves its operation; a `tmac`, a `tacc` and a `tdrain` touch each
row once, in order, and the distiller's lines hold the pieces' bytes. -/
theorem bankAndTileInstructions : Obligations.BankAndTileInstructions := by
  refine ⟨fun d a b q m => ?_, ?_, ?_, ?_, ?_, ?_, ?_, ?_, ?_, ?_, ?_, ?_, ?_, ?_, ?_, ?_, ?_, ?_, ?_, ?_⟩
  · refine ⟨fun c => givesWhen_of_done (fun _ => by delta exec; exact rfl) fun p ⟨wait, crew, fits, planes, al, gl, maps⟩ => ?_, ?_⟩
    · simp only
      rw [withCrew_some crew, failIf_pass (by simp [fits, planes])]
      exact (aligned_pass al).trans <| (globalRange_pass gl).trans <| (bankRange_pass maps).trans <| startEngine_open wait
    iterate 2
      refine ⟨fun c => givesWhen_of_done (fun _ => by delta exec; exact rfl)
        fun p ⟨crew, low, zero, fmt, plain, slot, here, lt, reach⟩ => ?_, ?_⟩
      · exact issueXform_storage crew (xformFits_slot low zero fmt plain slot) here lt (by decide) reach rfl
    refine ⟨fun c => givesWhen_of_done (fun _ => by delta exec; exact rfl)
      fun p ⟨crew, low, zero, fmt, plain, slot, here, lt, reach⟩ => ?_, ?_⟩
    · exact issueXform_storage crew (xformFits_bank low fmt plain slot (.inr zero)) here lt (by decide) reach rfl
    refine ⟨fun c => givesWhen_of_done (fun _ => by delta exec; exact rfl)
      fun p ⟨crew, low, zero, fmt, plain, slot, here, core, lt, mapped⟩ => ?_, ?_⟩
    · exact issueXform_compute crew (xformFits_bank low fmt plain slot (.inr zero)) here core lt (by decide) mapped rfl
    refine ⟨fun c => givesWhen_of_done (fun _ => by delta exec; exact rfl)
      fun p ⟨crew, low, fmt, plain, slot, here, lt, reach⟩ => ?_, ?_⟩
    · exact issueXform_storage crew (xformFits_bank low fmt plain slot (.inl rfl)) here lt (by decide) reach (by simp [plain])
    refine ⟨fun c => givesWhen_of_done (fun _ => by delta exec; exact rfl)
      fun p ⟨crew, low, fmt, plain, slot, here, core, lt, mapped⟩ => ?_, ?_⟩
    · exact issueXform_compute crew (xformFits_bank low fmt plain slot (.inl rfl)) here core lt (by decide) mapped
        (by simp [plain])
    refine ⟨fun c => givesWhen_of_done (fun _ => by delta exec; exact rfl)
      fun p ⟨crew, low, marked, fmt, slot, here, core, lt, mapped⟩ => ?_, ?_⟩
    · exact issueXform_compute crew (xformFits_scales low marked fmt slot here) here core lt (by decide) mapped
        (by simp [marked])
    refine ⟨fun c => givesWhen_of_done (fun _ => by delta exec; exact rfl)
      fun p ⟨crew, low, zero, fmt, plain, slot, here, core, lt, mapped⟩ => ?_, ?_⟩
    · exact issueXform_compute crew (xformFits_bank low fmt plain slot (.inr zero)) here core lt (by decide) mapped rfl
    iterate 4
      refine ⟨fun c => givesWhen_of_done (fun _ => by delta exec; exact rfl) fun p ⟨crew, some_, quiet⟩ => ?_, ?_⟩
      · rw [withCrew_some crew, failIf_pass (by simpa using some_), changeBanks_quiet crew quiet]
    iterate 4
      refine ⟨fun c => faultsWhen_of_fault (fun _ => by delta exec; exact rfl) fun p ⟨crew, none_⟩ => ?_, ?_⟩
      · rw [withCrew_some crew, none_]
        rfl
    refine ⟨fun c => givesWhen_of_done (fun _ => by delta exec; exact rfl) fun p ⟨crew, zero⟩ => ?_, ?_⟩
    · rw [withCrew_some crew, zero, if_neg (by decide), failIf_pass (by simp)]
      rcases h : c.attached <;> simp [queryWord, b2n, h]
    refine ⟨fun c k => givesWhen_of_done (fun _ => by delta exec; exact rfl) fun p ⟨crew, named, form, bank⟩ => ?_, ?_⟩
    · simp only
      rw [withCrew_some crew, if_pos named, bank]
      exact failIf_pass (bne_eq_false_iff_eq.2 form)
    refine ⟨fun c => givesWhen_of_done (fun _ => by delta exec; exact rfl)
      fun p ⟨last, crew, fits, al, reach, maps⟩ => ?_, ?_⟩
    · simp only
      rw [withLast_ok last, withCrew_some crew, failIf_pass fits, aligned_pass al, scratchRange_read reach,
        bankRange_pass maps, startEngine_quiet]
      rfl
    refine ⟨fun c => givesWhen_of_done (fun _ => by delta exec; exact rfl)
      fun p ⟨wait, crew, fits, al, stride, scales, gl, gl2⟩ => ?_, ?_⟩
    · simp only
      rw [withCrew_some crew, failIf_pass fits]
      refine (aligned_pass al).trans <| (aligned_pass stride).trans <| (failIf_pass ?_).trans <|
        (globalRange_pass gl).trans <| (globalRange_pass gl2).trans <| startEngine_open wait
      simpa [State.num] using scales
    refine ⟨fun c => givesWhen_of_done (fun _ => by delta exec; exact rfl) fun p ⟨crew, fits, plain, few⟩ => ?_, ?_⟩
    · have own := issueTacc_ok (e := .taccZero) crew fits plain (bad := tooMany (p.x b.toNat))
        (d := 0) (x := 0) (v := Vector.replicate 32 0) (by simpa [tooMany, State.num] using few)
      rw [State.num, BitVec.ofNat_toNat, BitVec.setWidth_eq] at own
      exact own
    refine ⟨fun c => givesWhen_of_done (fun _ => by delta exec; exact rfl) fun p ⟨crew, fits, plain, few, col⟩ => ?_, ?_⟩
    · exact issueTacc_ok crew fits plain (by simpa [badColumn, State.num] using ⟨few, col⟩)
    refine ⟨fun c => givesWhen_of_done (fun _ => by delta exec; exact rfl) fun p ⟨crew, fits, plain, few, col⟩ => ?_, ?_⟩
    · exact issueTacc_ok crew fits plain (by simpa [badColumn, State.num] using ⟨few, col⟩)
    refine ⟨fun c => givesWhen_of_done (fun _ => by delta exec; exact rfl)
      fun p ⟨crew, fits, plain, few, fits2, plain2⟩ => ?_, ?_⟩
    · have own := issueTacc_ok (e := .taccAdd) crew fits plain (d := 0) (x := p.x d.toNat) (v := Vector.replicate 32 0)
        (bad := fun c => tooMany (p.x b.toNat) c || accBad c (p.x d.toNat) (p.num b.toNat) || accOvw (p.x d.toNat))
        (by simp only [tooMany, fits2, plain2, Bool.or_false, decide_eq_false_iff_not, Nat.not_lt]; exact few)
      rw [State.num, BitVec.ofNat_toNat, BitVec.setWidth_eq] at own
      exact own
    refine ⟨fun c => givesWhen_of_done (fun _ => by delta exec; exact rfl) fun p ⟨crew, fits, plain, few⟩ => ?_, ?_⟩
    · have own := issueTacc_ok (e := .taccScale) crew fits plain (bad := tooMany (p.x b.toNat))
        (d := 0) (x := p.x d.toNat) (v := Vector.replicate 32 0) (by simpa [tooMany, State.num] using few)
      rw [State.num, BitVec.ofNat_toNat, BitVec.setWidth_eq] at own
      exact own
    · refine fun c => givesWhen_of_done (fun _ => by delta exec; exact rfl)
        fun p ⟨wait, crew, form, len, ax, ay, rx, ry⟩ => ?_
      simp only
      rw [failIf_pass (by simpa using ⟨form, len⟩)]
      refine (aligned_pass ax).trans <| (aligned_pass ay).trans <| (dotRange_pass crew rx).trans <|
        (dotRange_pass crew ry).trans <| startEngine_open wait
  · intro s o d x y z x2 v p c bank crew rows mapped sound
    exact ⟨runTmac_part crew rows mapped sound, runTmac_last crew rows mapped sound⟩
  · intro s c p m i n x y z tile slots hp size hm hi hn
    obtain ⟨u, version, stood, here⟩ := multiply_here s c p x y z tile slots size hm hi hn
    simp only
    rw [here, Nat.mod_eq_of_lt (tmacWords_lt u c p x y z tile _ n), tmacWords_getD u c p x y z tile m i _ hn, version, stood, mxSteps_eq]
    rfl
  · exact fun s c p row x y z tile slots size away => multiply_other s c p x y z tile slots size away
  · exact fun f p m k tile hp _ hf => actElem_eq hp hf
  · intro s o d x y z x2 v f c t ks w p crew fits reached
    exact runDrain_ended crew fits reached
  · exact fun s t ps legible _ open_ distinct taken => writeLines_bytes legible.tame open_ distinct taken
  · exact poisonOutputs_memory
  · intro s f i n x y z x2 rows hf size lens hi hn
    have hi : i < rows.length := size ▸ hi
    obtain ⟨row, full⟩ := row_at (accValue (s.nbv == 1) (accInt y)) lens hi
    obtain ⟨len, element⟩ := drainFloat_element (s := s) (sat := z.getLsbD 7) (u := fp32.decode (x2.toNat % 4294967296)) hf
      (full.symm ▸ hn) (accValue (s.nbv == 1) (accInt y) 0)
    refine ⟨_, row ▸ drainOutputs_float hf hi, ?_, ?_⟩
    · rw [len, full, Nat.mul_comm]
    · rw [element, List.getD_map]
      rfl
  · intro s i r n j x y z x2 rows size lens _ hi hr hn hj
    refine ⟨_, drainOutputs_planes hi, ?_, ?_⟩
    · simp [ciLine]
    · have place : n % 8 = (128 * r + n) % 8 := by omega
      rw [place, ciLine_bit _ hj (by omega), planes_code _ _ lens hr hn (by omega)]
      rfl
  · exact fun s f i n x y z x2 rows hf size lens hi hn => size ▸ drain_mx_row hf lens (size ▸ hi) hn
  · exact fun v1 int w => rfl
  · intro f sat v u hf
    refine ⟨fun h => ?_, ?_, product_infinite, narrow_inf hf sat⟩
    · rw [product_nan h]
      exact ⟨rfl, rfl, rfl, rfl⟩
    · rintro n k m q e g rfl rfl
      rfl
  · decide
  · intro w n m e _
    obtain ⟨inf, sat⟩ := narrowInt_inf (w := w) n
    exact ⟨inf, sat, narrowInt_finite w n m e⟩
  · intro s o d x y z x2 v c crew fits
    refine ⟨runTacc_zero (d := d) (x := x) (v := v) crew fits,
      fun _ => ⟨_, runTacc_read (d := d) (x := x) (v := v) crew fits, fun hd l hl => ?_⟩,
      fun _ col => ⟨_, runTacc_write (d := d) (x := x) (v := v) crew fits, fun n hn => ?_⟩,
      fun source => ⟨_, runTacc_add (d := d) (v := v) crew fits source, fun i n hi hn => ?_⟩,
      _, runTacc_scale (d := d) (x := x) (v := v) crew fits, fun i n hi hn => ?_⟩
    · exact readColumn_v s c o (accInt y) (accRow y) x.toNat hd hl
    · exact writeColumn_element s c o (accRow y) x.toNat v col hn
    · simp only [rowRead_countResults]
      exact addRows_element s c (accInt y) hi hn
    · simp only [rowRead_countResults]
      rw [mapRows_here _ _ _ _ hi hn, Nat.mod_eq_of_lt (accTimes_lt _ _ _ _)]
      rfl
  · exact fun v1 a b => ⟨accSum_int v1 a b, accSum_float v1 a b, accWord_int v1 a, accWord_kept a, accWord_flushed⟩
  · intro s o d x y z x2 v f t xs u ys left right
    rw [← dotLen_eq] at left right ⊢
    exact runDot_ended left right
  · exact fun mode n ftz x y => ⟨dotProduct_int mode n ftz x y, fun f hf => ⟨dotProduct_empty mode f ftz x y hf,
      dotProduct_float mode ftz x y hf⟩⟩
  · exact fun b i => ⟨dotElem_fp32 b i, dotElem_bf16 b i, rfl⟩

end Sys2Proof.Laws
end

section
/-! Bytes of numbers, sectors and lines one by one (R17, R93, R102, R103). -/

namespace Sys2Proof.Machine

/-! ### Numbers as bytes -/

theorem leNat_lt (bs : List Byte) : leNat bs < 256 ^ bs.length := by
  have whole := leNat_leBytes bs.length (leNat bs)
  rw [leBytes_leNat] at whole
  rw [whole]
  exact Nat.mod_lt _ (Nat.pow_pos (by decide))

theorem leBytes_getD (n x : Nat) {i : Nat} (h : i < n) : (leBytes n x).getD i 0 = BitVec.ofNat 8 (x / 256 ^ i) := by
  induction n generalizing x i with
  | zero => omega
  | succ n ih =>
    cases i with
    | zero => simp [leBytes]
    | succ i =>
      rw [leBytes, List.getD_cons_succ, ih (x / 256) (by omega), Nat.div_div_eq_div_mul, Nat.pow_succ, Nat.mul_comm]

theorem leBytes_bit (n x : Nat) {i : Nat} (h : i / 8 < n) : ((leBytes n x).getD (i / 8) 0).getLsbD (i % 8) = x.testBit i := by
  have byte : (256 : Nat) ^ (i / 8) = 2 ^ (8 * (i / 8)) := by rw [Nat.pow_mul]
  rw [leBytes_getD n x h, BitVec.getLsbD_ofNat, byte, Nat.testBit_div_two_pow, Nat.mod_add_div]
  simp [Nat.mod_lt i (show 0 < 8 by decide)]

/-! ### Compressed forms (R102, R103) -/

theorem heldWords_eq {bs : List Byte} (size : bs.length = 512) :
    heldWords bs = (List.range 64).filter fun i => decide (wordBytes bs i ≠ List.replicate 8 0) := by
  refine List.filter_congr fun i hi => ?_
  have hi := List.mem_range.1 hi
  have bytes := leBytes_leNat (wordBytes bs i)
  rw [wordBytes_length size hi] at bytes
  rw [lineWords_getD bs hi, Bool.eq_iff_iff, bne_iff_ne, decide_eq_true_iff, not_iff_not]
  refine ⟨fun zero => ?_, fun zeros => ?_⟩
  · rw [← bytes, zero, leBytes_zero]
  · rw [zeros]
    rfl

theorem compressedForm_length (bs : List Byte) : (compressedForm bs).length = 8 + 8 * (heldWords bs).length := by
  rw [compressedForm, List.length_append, leBytes_length, flatMap_length_const fun i _ => leBytes_length 8 _]

/-- The sectors that a mask and z words take (R103). -/
def formSectors (z : Nat) : Nat := (8 + 8 * z + 63) / 64

theorem compressLine_eq (bs : List Byte) : compressLine bs =
    if (heldWords bs).length = 0 then (8, []) else if 56 ≤ (heldWords bs).length then (0, bs)
    else (formSectors (heldWords bs).length, compressedForm bs ++
      List.replicate (64 * formSectors (heldWords bs).length - (compressedForm bs).length) 0) := by
  have form : leBytes 8 ((heldWords bs).foldl (fun m i => setBit m i true) 0) ++
      (heldWords bs).flatMap (fun i => leBytes 8 ((lineWords bs).getD i 0)) = compressedForm bs := by
    rw [compressedForm, heldWords, List.foldl_filter]
    rfl
  rw [← form]
  rfl

/-- A form with its padding fills its sectors. -/
theorem paddedForm_length {bs : List Byte} {n : Nat} (fits : (compressedForm bs).length ≤ 64 * n) :
    (compressedForm bs ++ List.replicate (64 * n - (compressedForm bs).length) 0).length = 64 * n := by
  rw [List.length_append, List.length_replicate]
  omega

theorem compressLine_size {bs : List Byte} (low : 1 ≤ (compressLine bs).1) (high : (compressLine bs).1 ≤ 7) :
    (compressLine bs).2.length = 64 * (compressLine bs).1 := by
  have parts := compressedForm_length bs
  rw [compressLine_eq] at low high ⊢
  split at low
  · next none_ =>
    rw [if_pos none_] at high
    omega
  · next some_ =>
    rw [if_neg some_] at high ⊢
    split at low
    · omega
    · next few =>
      rw [if_neg few]
      refine paddedForm_length ?_
      rw [parts, formSectors]
      omega

theorem compressedForm_mask (bs tail : List Byte) {i : Nat} (h : i < 64) :
    ((compressedForm bs ++ tail).getD (i / 8) 0).getLsbD (i % 8) = decide (i ∈ heldWords bs) := by
  have front : (compressedForm bs ++ tail).getD (i / 8) 0 =
      (leBytes 8 (maskBelow (fun i => (lineWords bs).getD i 0 != 0) 64)).getD (i / 8) 0 := by
    rw [compressedForm, List.append_assoc, List.getD_append]
    rw [leBytes_length]
    omega
  rw [front, leBytes_bit 8 _ (by omega), (maskBelow_spec _ 64).2]
  rw [Bool.eq_iff_iff]
  simp [heldWords, h]

theorem compressedForm_words {bs : List Byte} (size : bs.length = 512) (tail : List Byte) :
    (compressedForm bs ++ tail).drop 8 = (heldWords bs).flatMap (wordBytes bs) ++ tail := by
  have words : (heldWords bs).flatMap (fun i => leBytes 8 ((lineWords bs).getD i 0)) = (heldWords bs).flatMap (wordBytes bs) := by
    refine List.flatMap_congr fun i hi => ?_
    have hi := List.mem_range.1 (List.mem_filter.1 hi).1
    have bytes := leBytes_leNat (wordBytes bs i)
    rwa [wordBytes_length size hi, ← lineWords_getD bs hi] at bytes
  have mask := leBytes_length 8 (maskBelow (fun i => (lineWords bs).getD i 0 != 0) 64)
  rw [compressedForm, words, List.append_assoc, List.drop_append_of_le_length (by omega), List.drop_of_length_le (by omega), List.nil_append]

end Sys2Proof.Machine
end

section
/-! Memory after reset, and lines that are compressed. -/

namespace Sys2Proof.Laws

open Sys2Proof.Machine

/-- Settles O59: the memory after reset lists nothing. -/
theorem resetHoldsMemoryForm : Obligations.ResetHoldsMemoryForm := by
  unfold Obligations.ResetHoldsMemoryForm
  exact ⟨wf_nil, rfl⟩

/-- Settles O54: the words that are not 0 decide the code, and the form is their mask, then they in order. -/
theorem compressionRoundTrip : Obligations.CompressionRoundTrip := by
  unfold Obligations.CompressionRoundTrip
  refine ⟨fun bs size => ?_, fun bs size => ?_⟩
  · rcases compressLine_cases size with ⟨form, zero⟩ | form | ⟨n, pad, form, low, high, -⟩
    · exact .inr (.inl ⟨by rw [form], by rw [form], zero⟩)
    · exact .inl ⟨by rw [form], by rw [form]⟩
    · obtain rfl : (compressLine bs).1 = n := congrArg Prod.fst form
      refine .inr (.inr ⟨low, high, compressLine_size low high, ?_⟩)
      rw [form, List.append_assoc]
      exact compressedForm_expands size _
  · have named := heldWords_eq size
    have cases_ := compressLine_eq bs
    intro word nz form
    change heldWords bs = nz at named
    rw [named] at cases_
    simp only [form, cases_]
    by_cases none_ : nz.length = 0
    · rw [if_pos none_, if_pos none_]
      exact ⟨rfl, fun pos => by omega⟩
    · rw [if_neg none_, if_neg none_]
      by_cases many : 56 ≤ nz.length
      · rw [if_pos many, if_neg (by omega)]
        exact ⟨rfl, fun _ few => by omega⟩
      · rw [if_neg many, if_pos (by omega)]
        refine ⟨rfl, fun _ _ => ⟨fun i hi => named ▸ compressedForm_mask bs _ hi, ?_⟩⟩
        rw [compressedForm_words size, named, List.length_append, compressedForm_length, List.length_replicate, named]
        congr 2
        omega
end Sys2Proof.Laws
end
section
/-! Sectors of an L1 one by one: what a store leaves there and what a load gives (R93). -/

namespace Sys2Proof.Machine

/-! ### The bytes of a sector's data -/

theorem sectorByte_eq (d : BitVec 512) {i : Nat} (h : i < 64) : sectorByte d i = (leBytes 64 d.toNat).getD i 0 := by
  rw [leBytes_getD 64 d.toNat h, sectorByte, Nat.pow_mul]

theorem leBytes_sectorOf {bs : List Byte} (size : bs.length = 64) : leBytes 64 (sectorOf bs).toNat = bs := by
  have whole {w : Nat} (width : 8 * bs.length = w) : (BitVec.ofNat w (leNat bs)).toNat = leNat bs := by
    subst width
    rw [BitVec.toNat_ofNat, Nat.mod_eq_of_lt]
    rw [Nat.pow_mul]
    exact leNat_lt bs
  rw [sectorOf, whole (by omega), ← size, leBytes_leNat]

theorem sectorByte_sectorPut (d : BitVec 512) {o i : Nat} {bs : List Byte} (fits : o + bs.length ≤ 64) (h : i < 64) :
    sectorByte (sectorPut d o bs) i = if o ≤ i ∧ i < o + bs.length then bs.getD (i - o) 0 else sectorByte d i := by
  have within : o + bs.length ≤ (leBytes 64 d.toNat).length := by rwa [leBytes_length]
  have size : (splice (leBytes 64 d.toNat) o bs).length = 64 := by rw [splice_length within, leBytes_length]
  rw [sectorByte_eq _ h, sectorByte_eq d h, ← splice_getD within]
  exact congrArg (·.getD i 0) (leBytes_sectorOf size)

/-- The bytes just put into a sector. -/
theorem sectorBytes_sectorPut (d : BitVec 512) {o : Nat} {bs : List Byte} (fits : o + bs.length ≤ 64) :
    ((List.range bs.length).map fun i => sectorByte (sectorPut d o bs) (o + i)) = bs := by
  refine List.ext_getElem (by simp) fun i low high => ?_
  rw [List.getElem_map, List.getElem_range, sectorByte_sectorPut d fits (by omega), if_pos (by omega), Nat.add_sub_cancel_left,
    List.getD_eq_getElem?_getD, List.getElem?_eq_getElem high, Option.getD_some]

/-! ### The sectors of an L1 -/

/-- The sector just set is the one found, where no pair of cores is fused otherwise. -/
theorem l1Find_l1Set {s t : State} {core a : Nat} {x : L1Sector} (fused : t.fused = s.fused) (place : x.core = l1Core s core a)
    (address : x.addr = a / 64 * 64) : l1Find (l1Set t x) core a = some x := by
  have same : l1Core (l1Set t x) core a = l1Core s core a := by unfold l1Core; rw [← fused]; rfl
  rw [l1Find, same, l1Set]
  exact List.find?_cons_of_pos (by simp [place, address])

/-- Where a core's L1 holds the bytes, a load gives them and changes nothing. -/
theorem l1Load_held {s : State} {core ctx a n : Nat} {x : L1Sector} (found : l1Find s core a = some x)
    (valid : x.valid &&& byteMask (a % 64) n = byteMask (a % 64) n) :
    l1Load s core ctx a n = (s, (List.range n).map fun i => sectorByte x.data (a % 64 + i), x.poison) := by
  have has : l1Has s core a n = true := by simp [l1Has, found, valid]
  simp [l1Load, has, found]

/-- A load of the bytes just written into a sector. -/
theorem l1Load_written {s t : State} {core ctx va a : Nat} {bs : List Byte} {x : L1Sector} (fits : a % 64 + bs.length ≤ 64)
    (fused : t.fused = s.fused) (place : x.core = l1Core s core a) (address : x.addr = a / 64 * 64) :
    (l1Load (l1Set t (x.written ctx va a bs)) core ctx a bs.length).2.1 = bs := by
  have found : l1Find (l1Set t (x.written ctx va a bs)) core a = some (x.written ctx va a bs) := l1Find_l1Set fused place address
  have valid : (x.written ctx va a bs).valid &&& byteMask (a % 64) bs.length = byteMask (a % 64) bs.length := by
    simp only [L1Sector.written]
    ext i
    simp only [BitVec.getElem_and, BitVec.getElem_or]
    cases (byteMask (a % 64) bs.length)[i] <;> simp
  rw [l1Load_held found valid]
  exact sectorBytes_sectorPut x.data fits

/-- A set with fewer lines than ways takes another. -/
theorem l1Room_free {s : State} {core a : Nat} (free : (l1SetLines s core a).length < l1Ways (l1Core s core a)) :
    l1Room s core a = (s, true) := by
  simp only [l1Room, if_pos free]
  exact ite_self _

theorem l1Find_place {s : State} {core a : Nat} {x : L1Sector} (found : l1Find s core a = some x) :
    x.core = l1Core s core a ∧ x.addr = a / 64 * 64 := by
  simpa using List.find?_some found

/-- A store to an L1 that has a place for its sector sets that sector alone. -/
theorem l1Store_sets {s : State} {core ctx va a : Nat} {bs : List Byte}
    (room : (l1Find s core a).isSome = true ∨ (l1SetLines s core a).length < l1Ways (l1Core s core a)) :
    ∃ x : L1Sector, l1Store s core ctx va a bs = l1Set s (x.written ctx va a bs) ∧ x.core = l1Core s core a ∧ x.addr = a / 64 * 64 := by
  unfold l1Store
  cases found : l1Find s core a with
  | some x => exact ⟨x, rfl, l1Find_place found⟩
  | none =>
    have free : (l1SetLines s core a).length < l1Ways (l1Core s core a) := room.resolve_left (by simp [found])
    rw [l1Room_free free]
    exact ⟨emptySector s core ctx va a, rfl, rfl, rfl⟩

end Sys2Proof.Machine
end

section
namespace Sys2Proof.Laws
open Sys2Proof.Machine

/-- Settles O53: the store sets one sector, whose bytes are then valid and the ones stored. -/
theorem weakStoreReadsBack : Obligations.WeakStoreReadsBack := by
  unfold Obligations.WeakStoreReadsBack
  intro s core ctx va a bs _ fits room
  obtain ⟨x, stored, place, address⟩ := l1Store_sets (ctx := ctx) (va := va) (bs := bs) room
  rw [stored]
  exact ⟨l1Load_written fits rfl place address, rfl, rfl, rfl⟩

end Sys2Proof.Laws
end
section
/-! A weak store to a page of a peer that is out of reach (R400): a witness. -/

namespace Sys2Proof.Laws
open Sys2Proof.Machine

/-- The bytes of a weak store of 1 to address 0, through a page that names peer 5. -/
def peerAccess : Access := { lane := 0, va := 0, pa := 0, n := 1, x := 1, via := some 5 }

/-- The store. -/
def peerStore : Op :=
  { id := 0, cls := .st, act := .store .global [peerAccess], mask := 1, active := 1, pc := 0, mode := 0, order := 0, scope := 0,
    strong := false, last := none, tag := 0, token := 0, done := false, err := none, stamp := 0, pos := 0, detail := 0, wrote := [],
    page := none, slots := [] }

/-- The sector of address 0 in the L1 of core 0, whole and zero. -/
def zeroSector : L1Sector := ⟨0, 0, 0, BitVec.allOnes 64, 0, 0, 0, 0, false, false, false, false⟩

theorem sectorByte_zero (i : Nat) : sectorByte 0 i = 0 := by
  simp only [sectorByte, BitVec.ofNat_eq_ofNat, BitVec.toNat_zero, Nat.zero_div]

/-- The device 1 ms after reset, with no span port trained, with one squad for which the store is outstanding, and with that
sector in the L1 of its core. -/
def peerLostState : State :=
  { State.reset with
    sq := { Squad.entry ⟨1, 0, 0, 0, 1, 0, 0, 0, 0, 0, 0, false⟩ 0 with ops := [peerStore] }
    l1 := [zeroSector]
    meridian := 1000000 }

theorem peerLostState_open : anyClosed peerLostState = false := by
  simp [anyClosed, peerLostState, State.reset, linkClosed, Link.reset]

theorem peerLostState_inWindow (a : Nat) : inWindow peerLostState a = false := by
  simp [inWindow, peerLostState, State.reset, Device.reset]

/-- The peer has been out of reach for 1 ms (R400). -/
theorem peerLostState_way : accessWay peerLostState true false 0 1 (some 5) = .lost := by
  have links : linksOpen peerLostState 0 0 (some 5) = true := by simp [linksOpen, peerLostState_open]
  have waits : meetsWaiting peerLostState 0 1 = false := by simp [meetsWaiting, peerLostState_open]
  have leaves : leavesCore peerLostState true false 0 1 (some 5) = true := by decide
  have peer : peerWay peerLostState (some 5) = .lost := by decide
  simp only [accessWay, leaves, waits, openWay]
  exact (if_pos links).trans peer

/-- The store ends with 0x4D. -/
def peerLostError : OpError := ⟨0x4D, 0, 0, 1, 0, 2⟩

theorem peerLostState_mayComplete : mayComplete peerLostState peerStore = true := by
  have way : peerStore.way peerLostState peerAccess = .lost := peerLostState_way
  simp only [mayComplete, peerStore, Op.accesses, List.all_cons, List.all_nil] at way ⊢
  rw [way]
  decide

/-- A store of one access whose bytes its home refuses or that is lost ends with 0x4D (R226, R400). -/
theorem completeStore_refused {s t : State} {o : Op} {a : Access} (plain : o.releases = false)
    (refused : writeAccess s .global (atHome s o.strong o.scope) a (leBytes a.n a.x) = (t, true)) :
    completeStore s o .global [a] = finishOp t o (some ⟨0x4D, 0, a.va, o.mask, 0, 2⟩) := by
  have before : releaseBefore s o .global = s := by simp [releaseBefore, plain]
  have gone : [a].filter (goneBank s .global) = [] := by simp [goneBank]
  have lanes : (if o.mask = maskOf [a.lane] then maskOf [a.lane] else o.mask) = o.mask := by
    split <;> simp_all only
  simp [completeStore, unlessGone, gone, before, refused, lanes]

theorem peerLostState_complete :
    completeStore peerLostState peerStore .global [peerAccess] = finishOp peerLostState peerStore (some peerLostError) := by
  have way : accessWay peerLostState true false 0 (leBytes 1 1).length (some 5) = .lost := peerLostState_way
  refine completeStore_refused rfl ?_
  show writePiece peerLostState false 0 0 (leBytes 1 1) (some 5) = _
  simp only [writePiece, way]
  rfl

/-- The peer is out of reach, so the store is lost, and the L1 still holds 0 (R400). -/
theorem peerLostState_step : ∃ r, exec (.storeComplete 1 0) peerLostState = .next r ∧
    (l1Load r r.sq.ident.core r.sq.ident.ctx 0 1).2.1 = [0] := by
  refine ⟨retireOps (finishOp peerLostState peerStore (some peerLostError)), ?_, ?_⟩
  · rw [← peerLostState_complete]
    show Host.Outcome.next (if mayComplete peerLostState peerStore = true then _ else _) = _
    rw [if_pos peerLostState_mayComplete]
  · have found : l1Find (retireOps (finishOp peerLostState peerStore (some peerLostError))) 0 0 = some zeroSector := by
      have sectors : (retireOps (finishOp peerLostState peerStore (some peerLostError))).l1 = [zeroSector] := rfl
      rw [l1Find, sectors]
      rfl
    have loaded := l1Load_held (ctx := 0) (n := 1) found (by decide)
    show (l1Load _ 0 0 0 1).2.1 = _
    rw [loaded]
    exact congrArg (fun b => [b]) (sectorByte_zero _)

/-- Refutes O41: its clause on weak stores into sectors that the L1 holds asks nothing of the page, and a store through the page of
a peer that is out of reach leaves the L1 as it was. -/
theorem not_globalAccessesLand : ¬ Obligations.GlobalAccessesLand := by
  unfold Obligations.GlobalAccessesLand
  rintro ⟨_, weak, _⟩
  obtain ⟨r, steps, kept⟩ := peerLostState_step
  have held : ∀ b ∈ [peerAccess], toControl peerLostState b.pa = false ∧ b.pa < paSpace ∧ inWindow peerLostState b.pa = false ∧
      0 < b.n ∧ b.pa % 64 + b.n ≤ 64 ∧ (l1Find peerLostState peerLostState.sq.ident.core b.pa).isSome = true := by
    intro b named
    rw [List.mem_singleton.mp named]
    exact ⟨by decide, by decide, peerLostState_inWindow _, by decide, by decide, by decide⟩
  obtain ⟨stored, _, _⟩ := weak peerLostState peerLostState r peerStore 1 0 [peerAccess] [] peerAccess [] rfl rfl rfl peerLostState_mayComplete rfl
    (fun _ later => absurd later List.not_mem_nil) held (by decide) rfl steps
  exact absurd (kept.symm.trans stored) (by decide)

end Sys2Proof.Laws
end
section
/-! A write of a column past a crew's last row (R268): a witness. -/

namespace Sys2Proof.Laws
open Sys2Proof.Machine

/-- A crew with 32 compute banks, hence 3072 accumulator rows. -/
def fullCrew : Crew :=
  { id := 1, grid := 0, core := 0, slot := 0, linear := 0, cx := 0, cy := 0, cz := 0, rank := 0, peer := 0, storage := [],
    compute := List.range 32, residen := [], attached := false, bars := Vector.replicate 16 Barrier.reset,
    tbars := Vector.replicate 4 Barrier.reset, queues := Vector.replicate 16 [], gen := 0, race := [], marks := [], squads := 1, began := 0 }

/-- A `tacc.write` by lane 0 to row 3072, column 0, whose row count is 0. -/
def pastRowsWrite : Op :=
  { id := 0, cls := .tl, act := .engine .taccWrite 0 0 3072 0 0 (Vector.replicate 32 1), mask := 1, active := 1, pc := 0, mode := 0,
    order := 0, scope := 0, strong := false, last := none, tag := 0, token := 0, done := false, err := none, stamp := 0, pos := 0,
    detail := 0, wrote := [], page := none, slots := [] }

/-- The device at reset with one squad of that crew, for which the write is outstanding. -/
def pastRowsState : State :=
  { State.reset with
    sq := { Squad.entry ⟨1, 0, 0, 0, 1, 0, 0, 0, 0, 0, 0, false⟩ 0 with ops := [pastRowsWrite] }
    crews := [fullCrew] }

/-- The write lands past the crew's last row: nothing compares the row itself with what the crew has, only row plus count. -/
theorem pastRowsState_step :
    ∃ r, exec (.engineOperationComplete 1 0) pastRowsState = .next r ∧ memGet r.mem (rowKey 1 3072 0) = 1 :=
  ⟨_, rfl, by decide⟩

/-- Refutes O42: in its clause on tile operations a `tacc.write` of count 0 at row 3072 of a crew with 3072 rows passes the check of
its rows, and it writes the bytes just past them. -/
theorem not_engineOperationsMoveTheirBytes : ¬ Obligations.EngineOperationsMoveTheirBytes := by
  unfold Obligations.EngineOperationsMoveTheirBytes
  rintro ⟨_, _, _, _, _, _, _, _, tiles, _⟩
  obtain ⟨r, steps, written⟩ := pastRowsState_step
  have calm : Settled pastRowsState := fun x held => absurd held List.not_mem_nil
  have beyond : outside (rowKey 1 3072 0) (rowKey 1 0 0) 1572864 := Or.inr (by decide)
  have kept := tiles pastRowsState pastRowsState r pastRowsWrite 1 0 .taccWrite 0 0 3072 0 0 (Vector.replicate 32 1) fullCrew 0
    rfl rfl rfl rfl (by decide) rfl (by decide) (fun _ => by decide) rfl calm steps (rowKey 1 3072 0) beyond
  have unwritten : memGet pastRowsState.mem (rowKey 1 3072 0) = 0 := by decide
  exact absurd (written.symm.trans (kept.trans unwritten)) (by decide)

end Sys2Proof.Laws
end
section
/-! Copies, in-stack operations and link instructions: their issue (R248, R251 to R254, R275 to R277). -/

namespace Sys2Proof.Machine

/-- What the checks of a copy with one row ask of its addresses and length (R251). -/
structure PlainFits (s : State) (a b : Nat) : Prop where
  source : s.num a % 64 = 0
  target : s.num (a + 1) % 64 = 0
  size   : s.num b % 64 = 0
  length : s.num b < 4294967296

theorem PlainFits.pass {s : State} {a b : Nat} (h : PlainFits s a b) {twice : Bool}
    (apart_ : (twice && s.num b != 0 && overlap (s.num a) (s.num (a + 1)) (s.num b)) = false) {k : Eff} :
    (failIf (decide (4294967296 ≤ s.num b) || (twice && s.num b != 0 && overlap (s.num a) (s.num (a + 1)) (s.num b))) (groupFault s 0x41) <|
      aligned s (s.num a) 64 false <| aligned s (s.num (a + 1)) 64 true <| aligned s (s.num b) 64 false k) = k := by
  obtain ⟨source, target, size, length⟩ := h
  refine (failIf_pass ?_).trans <| (aligned_pass source).trans <| (aligned_pass target).trans (aligned_pass size)
  rw [apart_, Bool.or_false]
  exact decide_eq_false (Nat.not_le.2 length)

/-- A copy from global to global memory. -/
theorem issueCopy_global {s : State} {e : Engine} {d a b : Nat} {last : Option (Nat × Word)} (fit : PlainFits s a b)
    (gx : s.inGlobal (s.num a) (s.num b)) (gy : s.inGlobal (s.num (a + 1)) (s.num b))
    (disjoint : s.num b = 0 ∨ overlap (s.num a) (s.num (a + 1)) (s.num b) = false)
    (wait : rangesWait s ([(s.num a, s.num b)] ++ [(s.num (a + 1), s.num b)]) = false) :
    issueCopy s e d a b true true false last = .done (engineOut s .cp (engineAct e d (s.x a) (s.x (a + 1)) (s.x b) 0) 0 d (s.num b) last
      [(s.num a, s.num b)] [(s.num (a + 1), s.num b)]) := by
  have apart_ : (true && s.num b != 0 && overlap (s.num a) (s.num (a + 1)) (s.num b)) = false := by
    rcases disjoint with zero | apart_
    · simp [zero]
    · simp [apart_]
  exact (fit.pass apart_).trans <| (globalRange_pass gx).trans <| (globalRange_pass gy).trans <| startEngine_open wait

/-- A copy from global memory to a scratchpad of a crew. -/
theorem issueCopy_toScratch {s : State} {e : Engine} {d a b : Nat} {last : Option (Nat × Word)} {c : Crew} (crew : s.myCrew = some c)
    (fit : PlainFits s a b) (gx : s.inGlobal (s.num a) (s.num b)) (fits : s.inScratch c (s.num (a + 1)) (s.num b))
    (wait : rangesWait (s.raceMarked c (s.num (a + 1)) (s.num b)) ([(s.num a, s.num b)] ++ []) = false) :
    issueCopy s e d a b true false false last = .done (engineOut (s.raceMarked c (s.num (a + 1)) (s.num b)) .cp
      (engineAct e d (s.x a) (s.x (a + 1)) (s.x b) 0) 0 d (s.num b) last [(s.num a, s.num b)] []) := by
  refine (fit.pass (twice := false) rfl).trans ?_
  refine (globalRange_pass gx).trans ?_
  simp only [Bool.false_eq_true, if_false, if_true, crewOf, crew]
  refine (scratchRange_write fits).trans ?_
  simp only [raceMarked_x]
  exact startEngine_open wait

/-- A copy from a scratchpad to global memory. -/
theorem issueCopy_fromScratch {s : State} {e : Engine} {d a b : Nat} {last : Option (Nat × Word)} {c : Crew} (crew : s.myCrew = some c)
    (fit : PlainFits s a b) (fits : s.inScratch c (s.num a) (s.num b)) (gy : s.inGlobal (s.num (a + 1)) (s.num b))
    (wait : rangesWait s ([] ++ [(s.num (a + 1), s.num b)]) = false) :
    issueCopy s e d a b false true false last = .done (engineOut s .cp (engineAct e d (s.x a) (s.x (a + 1)) (s.x b) 0) 0 d (s.num b) last
      [] [(s.num (a + 1), s.num b)]) := by
  refine (fit.pass (twice := false) rfl).trans ?_
  simp only [Bool.false_eq_true, if_false, if_true, crew]
  exact (scratchRange_read fits).trans <| (globalRange_pass gy).trans (startEngine_open wait)

/-- A copy from a scratchpad to that of the team's other crew. -/
theorem issueCopy_toPeer {s : State} {e : Engine} {d a b : Nat} {last : Option (Nat × Word)} {c p : Crew} (crew : s.myCrew = some c)
    (peer : s.peerCrew = some p) (fit : PlainFits s a b) (fits : s.inScratch c (s.num a) (s.num b))
    (room : s.inScratch p (s.num (a + 1)) (s.num b)) :
    issueCopy s e d a b false false true last = .done (engineOut (s.raceMarked p (s.num (a + 1)) (s.num b)) .cp
      (engineAct e d (s.x a) (s.x (a + 1)) (s.x b) 0) 0 d (s.num b) last [] []) := by
  refine (fit.pass (twice := false) rfl).trans ?_
  simp only [Bool.false_eq_true, if_false, if_true, crewOf, crew]
  refine (scratchRange_read fits).trans ?_
  simp only [peer]
  refine (scratchRange_write room).trans ?_
  simp only [raceMarked_x]
  exact startEngine_quiet ..

/-- What the checks of a 2-D copy ask of its shape (R252). -/
structure ShapeFits (s : State) (a b : Nat) : Prop where
  row     : (shapeOf (s.x b)).row ≠ 0
  pitch   : (shapeOf (s.x b)).row ≤ (shapeOf (s.x b)).pitch
  total   : (shapeOf (s.x b)).total ≤ 0xFFFFFFC0
  source  : s.num a % 64 = 0
  target  : s.num (a + 1) % 64 = 0
  aligned : (shapeOf (s.x b)).row % 64 = 0

/-- The bytes from the first of a 2-D copy's global side to the last (R252). -/
def shapeSpan (c : CopyShape) : Nat := c.pitch * (c.rows - 1) + c.row

/-- The runs of a 2-D copy on its global side. -/
def shapeRuns (c : CopyShape) (base : Nat) : List (Nat × Nat) := c.joined.runs base (c.rows + 1) 0 c.total

theorem ShapeFits.pass {s : State} {a b : Nat} (h : ShapeFits s a b) {k : Eff} :
    (failIf (decide ((shapeOf (s.x b)).row = 0) || decide ((shapeOf (s.x b)).pitch < (shapeOf (s.x b)).row) ||
        decide (0xFFFFFFC0 < (shapeOf (s.x b)).total)) (groupFault s 0x41) <|
      Machine.aligned s (s.num a) 64 false <| Machine.aligned s (s.num (a + 1)) 64 true <|
      Machine.aligned s (shapeOf (s.x b)).row 64 false k) = k := by
  obtain ⟨row, pitch, total, source, target, aligned⟩ := h
  refine (failIf_pass ?_).trans <| (aligned_pass source).trans <| (aligned_pass target).trans (aligned_pass aligned)
  simp [row, pitch, total]

/-- A 2-D copy from global memory. -/
theorem issueCopy2_toScratch {s : State} {e : Engine} {d a b : Nat} {last : Option (Nat × Word)} {c : Crew} (crew : s.myCrew = some c)
    (shape : ShapeFits s a b) (gl : s.inGlobal (s.num a) (shapeSpan (shapeOf (s.x b))))
    (fits : s.inScratch c (s.num (a + 1)) (shapeOf (s.x b)).total)
    (wait : rangesWait (s.raceMarked c (s.num (a + 1)) (shapeOf (s.x b)).total) (shapeRuns (shapeOf (s.x b)) (s.num a) ++ []) = false) :
    issueCopy2 s e d a b false last = .done (engineOut (s.raceMarked c (s.num (a + 1)) (shapeOf (s.x b)).total) .cp
      (engineAct e d (s.x a) (s.x (a + 1)) (s.x b) 0) 0 d (shapeOf (s.x b)).total last (shapeRuns (shapeOf (s.x b)) (s.num a)) []) := by
  refine shape.pass.trans <| (globalRange_pass gl).trans ?_
  rw [crew]
  refine (scratchRange_write fits).trans ?_
  simp only [raceMarked_x]
  exact startEngine_open wait

/-- A 2-D copy to global memory. -/
theorem issueCopy2_fromScratch {s : State} {e : Engine} {d a b : Nat} {last : Option (Nat × Word)} {c : Crew} (crew : s.myCrew = some c)
    (shape : ShapeFits s a b) (gl : s.inGlobal (s.num (a + 1)) (shapeSpan (shapeOf (s.x b))))
    (fits : s.inScratch c (s.num a) (shapeOf (s.x b)).total)
    (wait : rangesWait s ([] ++ shapeRuns (shapeOf (s.x b)) (s.num (a + 1))) = false) :
    issueCopy2 s e d a b true last = .done (engineOut s .cp (engineAct e d (s.x a) (s.x (a + 1)) (s.x b) 0) 0 d
      (shapeOf (s.x b)).total last [] (shapeRuns (shapeOf (s.x b)) (s.num (a + 1)))) := by
  refine shape.pass.trans <| (globalRange_pass gl).trans ?_
  rw [crew]
  exact (scratchRange_read fits).trans (startEngine_open wait)

/-- An in-stack operation on pages. -/
theorem issueStk_open {s : State} {e : Engine} {d a b len : Nat} {reads writes : List (Nat × Nat)} (ax : s.num a % 65536 = 0)
    (az : s.num b % 65536 = 0) (gx : s.inGlobal (s.num a) 65536) (gz : s.inGlobal (s.num b) 65536)
    (wait : rangesWait s (reads ++ writes) = false) :
    issueStk s e d a b len reads writes = .done (engineOut s .cp (engineAct e d (s.x a) 0 (s.x b) 0) 0 d len none reads writes) :=
  (aligned_pass ax).trans <| (aligned_pass az).trans <| (globalRange_pass gx).trans <| (globalRange_pass gz).trans (startEngine_open wait)

/-- The first page of the address space is in reach. -/
theorem inGlobal_zero (s : State) : s.inGlobal (s.num 0) 65536 := by
  have base : s.num 0 = 0 := rfl
  refine .inr ?_
  rw [base, addressTop]
  split <;> decide

end Sys2Proof.Machine
end
section
/-! Row operations on pages (R109, R275): what their engine finds, and what it writes. -/

namespace Sys2Proof.Machine

/-! ### Memory -/

/-- Memory after bytes that a function gives are put into it. -/
theorem memGet_memPut_map (m : List Host.Cell) (a n : Nat) (f : Nat → Byte) (i : Nat) :
    memGet (memPut m a ((List.range n).map f)) i = if a ≤ i ∧ i < a + n then f (i - a) else memGet m i := by
  have size : ((List.range n).map f).length = n := by rw [List.length_map, List.length_range]
  by_cases within : a ≤ i ∧ i < a + n
  · obtain ⟨k, rfl⟩ := Nat.exists_eq_add_of_le within.1
    rw [if_pos within, memGet_memPut_in m a _ k (by omega), List.getElem_map, List.getElem_range, Nat.add_sub_cancel_left]
  · rw [if_neg within, memGet_memPut_out m a _ i (by omega)]

theorem memRead_getD (m : List Host.Cell) (a : Nat) {n i : Nat} (h : i < n) : (memRead m a n).getD i 0 = memGet m (a + i) := by
  rw [memRead_eq, List.getD_eq_getElem?_getD, List.getElem?_map, List.getElem?_range h]
  rfl

theorem llcClean_mem (s : State) (a : Nat) : (llcClean s a).mem = s.mem := by
  unfold llcClean
  repeat' split
  all_goals rfl

theorem llcShow_mem (s : State) (l : LlcLine) : (llcShow s l).mem = s.mem := by
  simp only [llcShow]
  repeat' split
  all_goals rfl

theorem rowLine_mem (s : State) (dst : Nat) (pick : Nat → Bool) (new : Array Byte) (l : LlcLine) :
    (rowLine s dst pick new l).mem = s.mem := by
  simp only [rowLine]
  split
  · exact llcShow_mem _ _
  · rfl

theorem countSurvey_mem (s : State) (record k n : Nat) : (s.countSurvey record k n).mem = s.mem := rfl

/-- A fold of steps that leave memory leaves it. -/
theorem foldl_mem {α : Type} {f : State → α → State} (keeps : ∀ s a, (f s a).mem = s.mem) (l : List α) (s : State) :
    (l.foldl f s).mem = s.mem :=
  foldl_keeps (P := fun t => t.mem = s.mem) (fun t a e => (keeps t a).trans e) l s rfl

theorem llcCleans_mem (l : List LlcLine) (s : State) : (l.foldl (fun u k => llcClean u k.addr) s).mem = s.mem := by
  induction l generalizing s with
  | nil => rfl
  | cons k l ih => rw [List.foldl_cons, ih, llcClean_mem]

/-- The picked sectors of a page hold the new bytes, and every other byte is as before (R109, R411). -/
theorem rowSectors_memory (s : State) (dst : Nat) (pick : Nat → Bool) (bytes : List Byte) (bad : Nat → Bool) (i : Nat) :
    memGet (rowSectors s dst pick bytes bad).mem i =
      if dst ≤ i ∧ i < dst + 65536 ∧ pick ((i - dst) / 64) = true then bytes.getD (i - dst) 0 else memGet s.mem i := by
  have held (j : Nat) (h : j < 65536) : (memRead s.mem dst 65536).toArray.getD j 0 = memGet s.mem (dst + j) := by
    rw [← memRead_getD s.mem dst h, List.getD_eq_getElem?_getD, Array.getD_eq_getD_getElem?, List.getElem?_toArray]
  have new (j : Nat) : bytes.toArray.getD j 0 = bytes.getD j 0 := by
    rw [List.getD_eq_getElem?_getD, Array.getD_eq_getD_getElem?, List.getElem?_toArray]
  simp only [rowSectors]
  rw [foldl_mem (fun w l => rowLine_mem w dst pick _ l)]
  show memGet (memPut (noteOld _ dst _).mem dst _) i = _
  rw [(noteOld_rest _ _ _).1, memGet_memPut_map]
  simp only [pickByte]
  by_cases within : dst ≤ i ∧ i < dst + 65536
  · obtain ⟨low, high⟩ := within
    have back := held (i - dst) (by omega)
    rw [Nat.add_sub_cancel' low] at back
    simp only [low, high, true_and, if_true, new, back]
  · rw [if_neg within, if_neg (fun h => within ⟨h.1, h.2.1⟩)]

/-- A page of zeros. -/
theorem zeroPage_memory (s : State) (dst : Nat) (pick : Nat → Bool) (i : Nat) :
    memGet (zeroPage s dst pick).mem i =
      if dst ≤ i ∧ i < dst + 65536 ∧ pick ((i - dst) / 64) = true then 0 else memGet s.mem i := by
  have zero (j : Nat) : (List.replicate 65536 (0 : Byte)).getD j 0 = 0 := by
    rw [List.getD_eq_getElem?_getD, List.getElem?_replicate]
    split <;> rfl
  rw [zeroPage, rowSectors_memory, zero]

theorem copyPage_memory (s : State) (dst src : Nat) (pick : Nat → Bool) (i : Nat) :
    let c := (s.l1.filter fun l => l.meets src 65536).foldl writeBack s
    memGet (copyPage s dst src pick).mem i = if dst ≤ i ∧ i < dst + 65536 ∧ pick ((i - dst) / 64) = true
      then memGet c.mem (src + (i - dst)) else memGet c.mem i := by
  intro c
  simp only [copyPage]
  rw [rowSectors_memory]
  by_cases within : dst ≤ i ∧ i < dst + 65536 ∧ pick ((i - dst) / 64) = true
  · rw [if_pos within, if_pos within, memRead_getD _ _ (by omega), llcCleans_mem]
  · rw [if_neg within, if_neg within, llcCleans_mem]

/-! ### Pages -/

section
variable {s t : State} {o : Op} {va key : Nat} {need : Need} {k : State → Nat → Ran}

theorem withPage_found (found : resolve s s.sq.ident.priv s.sq.ident.core s.sq.ident.ctx va need = (t, .inl key)) :
    withPage s o va need k = k t key := by
  simp only [withPage, found]

theorem withPage_fault {f : TrFault} (found : (resolve s s.sq.ident.priv s.sq.ident.core s.sq.ident.ctx va need).2 = .inr f)
    (met : f.cause ≠ 0) (there : f.cause ≠ 0x44) : withPage s o va need k = .failed s (o.fails f.cause f.detail va need.w) := by
  rcases e : resolve s s.sq.ident.priv s.sq.ident.core s.sq.ident.ctx va need with ⟨t, r⟩
  rw [e] at found
  obtain rfl : r = .inr f := found
  simp only [withPage, e]
  rw [if_neg met, if_neg there]

theorem withOpenPage_found (found : resolve s s.sq.ident.priv s.sq.ident.core s.sq.ident.ctx va need = (t, .inl key))
    (free : inBacking t t.sq.ident.ctx va key 65536 = false) : withOpenPage s o va need k = k t key := by
  rw [withOpenPage, withPage_found found]
  exact if_neg (by rw [free]; exact Bool.false_ne_true)

end

theorem copyStatus_apart {a b : Nat × Nat} (h : a.1 ≠ b.1) : copyStatus a b = 2 := by simp [copyStatus, h]

theorem copyStatus_within {a b : Nat × Nat} (h : a.1 = b.1) : copyStatus a b = if a.2 / 512 = b.2 / 512 then 0 else 1 := by
  by_cases bank : a.2 / 512 = b.2 / 512 <;> simp [copyStatus, h, bank]

theorem copyStatus_within_ne {a b : Nat × Nat} (h : a.1 = b.1) : copyStatus a b ≠ 2 := by
  rw [copyStatus_within h]
  split <;> decide

/-- A row operation that need not wait does its next part, whose memory is that of the page. -/
theorem runRow_goes {s : State} {o : Op} {va dst : Nat} {src : Option Nat} {status : Nat} {f : State → (Nat → Bool) → State}
    (go : rowWaits s dst src = false) :
    ∃ r, runRow s o va dst src status f = (if o.pos = 0 then .part r (s.tickets + 1) o.detail else .ended r status 0) ∧
      r.mem = (f s (reaches s o)).mem := by
  simp only [runRow, go, Bool.false_eq_true, if_false]
  split
  · exact ⟨_, rfl, rfl⟩
  · refine ⟨_, rfl, ?_⟩
    split <;> rfl

/-! ### The in-stack operations -/

section
variable {s t : State} {o : Op} {x z k : Nat} (found : resolve s s.sq.ident.priv s.sq.ident.core s.sq.ident.ctx x needLeaf = (t, .inl k))
include found

theorem runStk_probe : runStk s o .stkProbe x z = .word t (probeWord t k) := by
  rw [runStk, withPage_found found]

theorem runStk_rowzero_incapable (none_ : stackPage t k = none) : runStk s o .stkRowzero x z = .ended t 3 0 := by
  rw [runStk, withPage_found found]
  simp [none_]

theorem runStk_rowzero_capable {g : Nat × Nat} {u : State} {a : Nat} (capable : stackPage t k = some g)
    (granted : resolve t t.sq.ident.priv t.sq.ident.core t.sq.ident.ctx x needW = (u, .inl a))
    (free : inBacking u u.sq.ident.ctx x a 65536 = false) :
    runStk s o .stkRowzero x z = runRow u o x a none 0 fun w pick => zeroPage w a pick := by
  rw [runStk, withPage_found found]
  simp only [capable]
  exact withOpenPage_found granted free

section
variable {u : State} {b : Nat} (source : resolve t t.sq.ident.priv t.sq.ident.core t.sq.ident.ctx z needLeaf = (u, .inl b))
include source

theorem runStk_rowcopy_incapable (none_ : stackPage u k = none ∨ stackPage u b = none) : runStk s o .stkRowcopy x z = .ended u 3 0 := by
  rw [runStk, withPage_found found]
  refine (withPage_found source).trans ?_
  cases g : stackPage u k with
  | none => rfl
  | some g =>
    cases h : stackPage u b with
    | none => rfl
    | some h => simp_all

theorem runStk_rowcopy_capable {g h : Nat × Nat} {w r : State} {a src : Nat} (target : stackPage u k = some g)
    (origin : stackPage u b = some h) (granted : resolve u u.sq.ident.priv u.sq.ident.core u.sq.ident.ctx x needW = (w, .inl a))
    (free : inBacking w w.sq.ident.ctx x a 65536 = false)
    (read : resolve w w.sq.ident.priv w.sq.ident.core w.sq.ident.ctx z needR = (r, .inl src))
    (open_ : inBacking r r.sq.ident.ctx z src 65536 = false) :
    runStk s o .stkRowcopy x z = if copyStatus g h = 2 then .ended r 2 0
      else runRow r o x a (some src) (copyStatus g h) fun v pick => copyPage v a src pick := by
  rw [runStk, withPage_found found]
  refine (withPage_found source).trans ?_
  simp only [target, origin]
  exact (withOpenPage_found granted free).trans (withOpenPage_found read open_)

end
end

/-- Between them the two parts of a row operation reach every sector once (R109; log 81). -/
theorem reaches_second {s t : State} {o p : Op} (first : o.pos = 0) (second : p.pos = s.tickets + 1) (j : Nat) :
    reaches t p j = !reaches s o j := by
  simp [reaches, first, second]

end Sys2Proof.Machine
end

section
namespace Sys2Proof.Laws
open Sys2Proof.Machine

/-- Settles O15: every own part passes its checks one by one; a row operation writes its page's sectors under what the L1s and the
LLC hold of them. -/
theorem copiesStackAndLinkInstructions : Obligations.CopiesStackAndLinkInstructions := by
  refine ⟨fun d a b => ?_, ?_, ?_⟩
  · refine ⟨fun c => givesWhen_of_done (fun _ => by delta exec; exact rfl) fun p ⟨wait, crew, ax, ay, an, len, gx, fits⟩ => ?_, ?_⟩
    · exact issueCopy_toScratch crew ⟨ax, ay, an, len⟩ gx fits wait
    refine ⟨fun c => givesWhen_of_done (fun _ => by delta exec; exact rfl) fun p ⟨wait, last, crew, ax, ay, an, len, fits, gy⟩ => ?_, ?_⟩
    · exact (withLast_ok last).trans (issueCopy_fromScratch crew ⟨ax, ay, an, len⟩ fits gy wait)
    refine ⟨givesWhen_of_done (fun _ => by delta exec; exact rfl) fun p ⟨wait, ax, ay, an, len, gx, gy, disjoint⟩ => ?_, ?_⟩
    · exact issueCopy_global ⟨ax, ay, an, len⟩ gx gy disjoint wait
    refine ⟨fun c c2 => givesWhen_of_done (fun _ => by delta exec; exact rfl)
      fun p ⟨last, crew, peer, ax, ay, an, len, fits, room⟩ => ?_, ?_⟩
    · exact (withLast_ok last).trans (issueCopy_toPeer crew peer ⟨ax, ay, an, len⟩ fits room)
    refine ⟨givesWhen_of_done (fun _ => by delta exec; exact rfl) fun p ⟨wait, ax, zero, an, len, gx⟩ => ?_, ?_⟩
    · refine (failIf_pass ?_).trans <| (aligned_pass ax).trans <| (aligned_pass an).trans <| (globalRange_pass gx).trans <|
        startEngine_open wait
      simpa [zero, State.num] using len
    refine ⟨fun c => givesWhen_of_done (fun _ => by delta exec; exact rfl)
      fun p ⟨wait, crew, row, pitch, total, ax, ay, ar, gl, fits⟩ => ?_, ?_⟩
    · exact issueCopy2_toScratch crew ⟨row, pitch, total, ax, ay, ar⟩ gl fits wait
    refine ⟨fun c => givesWhen_of_done (fun _ => by delta exec; exact rfl)
      fun p ⟨wait, last, crew, row, pitch, total, ax, ay, ar, gl, fits⟩ => ?_, ?_⟩
    · exact (withLast_ok last).trans (issueCopy2_fromScratch crew ⟨row, pitch, total, ax, ay, ar⟩ gl fits wait)
    refine ⟨givesWhen_of_done (fun _ => by delta exec; exact rfl) fun p ⟨wait, ax, az, gx, gz⟩ => ?_, ?_⟩
    · exact issueStk_open ax az gx gz wait
    refine ⟨givesWhen_of_done (fun _ => by delta exec; exact rfl) fun p ⟨wait, ax, gx⟩ => ?_, ?_⟩
    · exact issueStk_open ax rfl gx (inGlobal_zero p) wait
    refine ⟨givesWhen_of_done (fun _ => by delta exec; exact rfl) fun p ⟨ax, gx⟩ => ?_, ?_⟩
    · exact issueStk_open ax rfl gx (inGlobal_zero p) (rangesWait_nil p)
    refine ⟨givesWhen_of_done (fun _ => by delta exec; exact rfl) fun p ⟨reserved, small⟩ => ?_, ?_⟩
    · exact failIf_pass (by simpa [reserved, State.num] using small)
    · exact givesWhen_of_done (fun _ => by delta exec; exact rfl) fun p small => failIf_pass (upper_bits_zero small)
  · intro s o d x y z x2 v q
    refine ⟨fun f fault met there => withPage_fault fault met there, fun t k found =>
      ⟨?_, runStk_rowzero_incapable (z := z.toNat) found, ?_, ?_⟩⟩
    · refine (runStk_probe (z := z.toNat) found).trans (congrArg _ ?_)
      cases g : stackPage t k <;> simp only [probeWord, g]
    · intro g u a capable granted free go
      obtain ⟨r, run, mem⟩ := runRow_goes (o := o) (va := x.toNat) (status := 0) (f := fun w pick => zeroPage w a pick) go
      refine ⟨r, (runStk_rowzero_capable (z := z.toNat) found capable granted free).trans run, fun i => ?_⟩
      rw [mem, zeroPage_memory]
    · intro u b source
      refine ⟨runStk_rowcopy_incapable found source, ?_⟩
      intro g h w a r src target origin granted free read open_
      have run := runStk_rowcopy_capable (o := o) found source target origin granted free read open_
      refine ⟨fun other => run.trans (if_pos (copyStatus_apart other)), fun stack go => ?_⟩
      rw [if_neg (copyStatus_within_ne stack)] at run
      obtain ⟨m, part, mem⟩ := runRow_goes (o := o) (va := x.toNat) (status := copyStatus g h)
        (f := fun v pick => copyPage v a src pick) go
      refine ⟨m, ?_, fun i => ?_⟩
      · rw [← copyStatus_within stack]
        exact run.trans part
      · rw [mem]
        exact copyPage_memory r a src (reaches r o) i
  · exact fun s t o p j first second => reaches_second first second j
end Sys2Proof.Laws
end
section
/-! Array windows: descriptors, elements and the operations on them (R97, R270, R272, R273). -/

namespace Sys2Proof.Machine

/-! ### Digits of integers -/

/-- A low digit of an integer is one of its remainder by a higher power. -/
theorem emod_pow_digit (v : Int) {b : Int} (pos : 0 < b) {j n : Nat} (h : j < n) : v % b ^ n / b ^ j % b = v / b ^ j % b := by
  obtain ⟨k, rfl⟩ := Nat.exists_eq_add_of_lt h
  have split_ : v % b ^ (j + k + 1) = v + b ^ j * (b * (-(b ^ k * (v / b ^ (j + k + 1))))) := by
    rw [Int.emod_def]
    ring
  rw [split_, Int.add_mul_ediv_left _ _ (Int.pow_pos pos).ne', Int.add_mul_emod_self_left]

/-- The digits of an integer's remainder, as natural numbers. -/
theorem lowDigit (v : Int) {b : Nat} (pos : 0 < b) {j n : Nat} (h : j < n) :
    (((v % (b ^ n : Nat)).toNat / b ^ j % b : Nat) : Int) = v / (b : Int) ^ j % b := by
  have positive : (0 : Int) < b := Int.natCast_pos.2 pos
  have whole : ((v % (b ^ n : Nat)).toNat : Int) = v % (b : Int) ^ n := by
    rw [Int.toNat_of_nonneg (Int.emod_nonneg _ (by positivity)), Int.natCast_pow]
  rw [Int.natCast_emod, Int.natCast_ediv, whole, Int.natCast_pow, emod_pow_digit v positive h]

/-- A bit of the low bits of an integer. -/
theorem lowBits_testBit (v : Int) {w k : Nat} (h : k < w) : (v % (2 ^ w : Nat)).toNat.testBit k = decide (v / 2 ^ k % 2 = 1) := by
  have digit := lowDigit v (b := 2) (by decide) h
  rw [Nat.testBit_eq_decide_div_mod_eq]
  refine decide_eq_decide.2 ?_
  rw [← Int.natCast_inj, digit]
  rfl

theorem lowBits_lt (v : Int) (w : Nat) : (v % (2 ^ w : Nat)).toNat < 2 ^ w := by
  have bound := Int.emod_lt_of_pos v (show (0 : Int) < (2 ^ w : Nat) by positivity)
  omega

/-- The bytes of an integer's low bytes. -/
theorem leBytes_emod (v : Int) (n : Nat) :
    leBytes n (v % (256 ^ n : Nat)).toNat = (List.range n).map fun j => BitVec.ofInt 8 (v / 256 ^ j) := by
  refine List.ext_getElem (by simp [leBytes_length]) fun j low high => ?_
  have lt : j < n := by simpa using high
  have byte := leBytes_getD n (v % (256 ^ n : Nat)).toNat lt
  have digit := lowDigit v (b := 256) (by decide) lt
  rw [List.getD_eq_getElem _ _ low] at byte
  rw [byte, List.getElem_map, List.getElem_range]
  apply BitVec.eq_of_toNat_eq
  rw [BitVec.toNat_ofNat, BitVec.toNat_ofInt]
  exact congrArg Int.toNat digit

/-- A number of bytes that are 0 past the end of a list is the number of those that are there. -/
theorem leNat_window (bs : List Byte) (o z : Nat) :
    leNat ((List.range z).map fun j => bs.toArray.getD (o + j) 0) = leNat ((bs.drop o).take z) := by
  have at_ (j : Nat) : bs.toArray.getD (o + j) 0 = (bs.drop o).getD j 0 := by
    rw [Array.getD_eq_getD_getElem?, List.getElem?_toArray, List.getD_eq_getElem?_getD, List.getElem?_drop]
  simp only [at_]
  generalize bs.drop o = cs
  induction z generalizing cs with
  | zero => rfl
  | succ z ih =>
    rw [List.range_succ_eq_map, List.map_cons, List.map_map, leNat]
    cases cs with
    | nil =>
      have rest := ih []
      simp only [List.getD_nil, List.take_nil, Function.comp_def] at rest ⊢
      rw [rest]
      rfl
    | cons c cs =>
      rw [List.take_succ_cons, leNat, ← ih cs]
      rfl

/-! ### Descriptors (R272) -/

theorem widthInt_eq {w : Nat} (pos : 0 < w) (sgn : Bool) (x : Nat) :
    widthInt w sgn x = if sgn = true ∧ 2 ^ (w - 1) ≤ x % 2 ^ w then ((x % 2 ^ w : Nat) : Int) - 2 ^ w else (x % 2 ^ w : Nat) := by
  obtain ⟨k, rfl⟩ : ∃ k, w = k + 1 := ⟨w - 1, by omega⟩
  have small : x % 2 ^ (k + 1) < 2 ^ k * 2 := Nat.pow_succ 2 k ▸ Nat.mod_lt _ (by positivity)
  have top : bit (x % 2 ^ (k + 1)) k = decide (2 ^ k ≤ x % 2 ^ (k + 1)) := by
    have digit : x % 2 ^ (k + 1) / 2 ^ k < 2 := Nat.div_lt_of_lt_mul small
    have one := Nat.one_le_div_iff (a := x % 2 ^ (k + 1)) (b := 2 ^ k) (by positivity)
    rw [bit_eq_testBit, Nat.testBit_eq_decide_div_mod_eq, Nat.mod_eq_of_lt digit]
    exact decide_eq_decide.2 (by omega)
  simp only [widthInt, signedBits, Nat.add_sub_cancel, top, decide_eq_true_eq]
  by_cases signed : sgn = true
  · simp only [signed, if_true, true_and]
    push_cast
    rfl
  · simp only [signed, if_false, false_and, Bool.false_eq_true]

theorem vecW_pos (x : DWord) : 0 < vecW x := Nat.succ_pos _

theorem vecGet_eq (y : DWord) (el : BitVec 512) : vecGet y el =
    let u := el.toNat / 2 ^ vecRow y % 2 ^ vecW y
    if y.getLsbD 17 = true ∧ 2 ^ (vecW y - 1) ≤ u then (u : Int) - 2 ^ vecW y else u :=
  widthInt_eq (vecW_pos y) (vecSgn y) _

theorem vecSource_eq (x : DWord) (el : BitVec 512) : vecSource x el =
    let u := if x.toNat / 262144 % 64 = 32 then x.toNat / 4294967296 % 2 ^ vecW x else el.toNat / 2 ^ vecRow x % 2 ^ vecW x
    if x.getLsbD 17 = true ∧ 2 ^ (vecW x - 1) ≤ u then (u : Int) - 2 ^ vecW x else u := by
  have immediate : vecImm x = x.toNat / 4294967296 := Nat.mod_eq_of_lt (by have := x.isLt; omega)
  by_cases fn : x.toNat / 262144 % 64 = 32
  · have named : vecFn x = 0x20 := fn
    simp only [fn, if_true]
    rw [vecSource, if_pos named, immediate]
    exact widthInt_eq (vecW_pos x) (vecSgn x) _
  · have other : vecFn x ≠ 0x20 := fn
    simp only [fn, if_false]
    rw [vecSource, if_neg other]
    exact vecGet_eq x el

/-- The rows of a descriptor take the low bits of the value, and the others stand (R97). -/
theorem vecSet_bit (y : DWord) (el : BitVec 512) (r : Int) {j : Nat} (h : j < 512) : (vecSet y el r).getLsbD j =
    if vecRow y ≤ j ∧ j < vecRow y + vecW y then decide (r / 2 ^ (j - vecRow y) % 2 = 1) else el.getLsbD j := by
  have field_ : ((2 ^ vecW y - 1) * 2 ^ vecRow y).testBit j = decide (vecRow y ≤ j ∧ j < vecRow y + vecW y) := by
    rw [Nat.testBit_mul_two_pow, Nat.testBit_two_pow_sub_one, ← Bool.decide_and]
    exact decide_eq_decide.2 (by omega)
  have value : ((r % (2 ^ vecW y : Nat)).toNat * 2 ^ vecRow y).testBit j =
      (decide (vecRow y ≤ j) && (r % (2 ^ vecW y : Nat)).toNat.testBit (j - vecRow y)) := Nat.testBit_mul_two_pow ..
  simp only [vecSet, BitVec.getLsbD_or, BitVec.getLsbD_and, BitVec.getLsbD_not, BitVec.getLsbD_ofNat, h, decide_true, Bool.true_and,
    field_, value]
  by_cases inside : vecRow y ≤ j ∧ j < vecRow y + vecW y
  · rw [lowBits_testBit r (by omega)]
    simp [inside]
  · rw [if_neg inside, decide_eq_false inside]
    rcases Nat.lt_or_ge j (vecRow y) with below | above
    · simp [Nat.not_le.2 below]
    · have gone : (r % (2 ^ vecW y : Nat)).toNat.testBit (j - vecRow y) = false :=
        Nat.testBit_lt_two_pow ((lowBits_lt r _).trans_le (Nat.pow_le_pow_right (by decide) (by omega)))
      simp only [gone, Bool.and_false, Bool.or_false, Bool.not_false, Bool.and_true]

/-! ### Operations (R273) -/

theorem intBit_eq (x : Int) (q : Nat) : intBit x q = decide (x / 2 ^ q % 2 = 1) := by
  rw [intBit, Int.natCast_pow]
  rfl

theorem b2n_intBit (x : Int) (q : Nat) : b2n (intBit x q) = (x / 2 ^ q % 2).toNat := by
  rw [intBit_eq]
  rcases Int.emod_two_eq (x / 2 ^ q) with even | odd
  · simp [even, b2n]
  · simp [odd, b2n]

/-- The sum of the powers that a test accepts has the bits of the test. -/
theorem powersSum_bits (c : Nat → Bool) (w : Nat) :
    let x := (List.range w).foldl (fun (x : Int) j => if c j = true then x + (2 ^ j : Nat) else x) 0
    0 ≤ x ∧ x < 2 ^ w ∧ ∀ j, j < w → (x / 2 ^ j % 2 = 1 ↔ c j = true) := by
  induction w with
  | zero => exact ⟨le_refl _, Int.one_pos, fun j h => absurd h (Nat.not_lt_zero j)⟩
  | succ w ih =>
    obtain ⟨low, high, bits⟩ := ih
    simp only [List.range_succ, List.foldl_append, List.foldl_cons, List.foldl_nil]
    set x := (List.range w).foldl (fun (x : Int) j => if c j = true then x + (2 ^ j : Nat) else x) 0
    have double : (2 : Int) ^ (w + 1) = 2 ^ w * 2 := pow_succ 2 w
    have positive : (0 : Int) < 2 ^ w := by positivity
    by_cases set_ : c w = true
    · rw [if_pos set_, Int.natCast_pow, double]
      refine ⟨by positivity, by push_cast; omega, fun j h => ?_⟩
      rcases Nat.lt_succ_iff_lt_or_eq.1 h with lt | rfl
      · obtain ⟨k, rfl⟩ := Nat.exists_eq_add_of_lt lt
        have shift : (((2 : Nat) : Int)) ^ (j + k + 1) = 2 ^ j * (2 * 2 ^ k) := by push_cast; ring
        rw [shift, Int.add_mul_ediv_left _ _ (by positivity), Int.add_mul_emod_self_left]
        exact bits j lt
      · have top : (x + ((2 : Nat) : Int) ^ j) / 2 ^ j = 1 := by
          rw [← mul_one (((2 : Nat) : Int) ^ j), Nat.cast_ofNat, Int.add_mul_ediv_left _ _ positive.ne',
            Int.ediv_eq_zero_of_lt low high]
          rfl
        rw [top]
        simp [set_]
    · rw [if_neg set_, double]
      refine ⟨low, by omega, fun j h => ?_⟩
      rcases Nat.lt_succ_iff_lt_or_eq.1 h with lt | rfl
      · exact bits j lt
      · rw [Int.ediv_eq_zero_of_lt low high]
        simp [set_]

theorem truthTable_bit (t w : Nat) (a b : Int) {j : Nat} (h : j < w) :
    truthTable t w a b / 2 ^ j % 2 = 1 ↔ t.testBit (2 * (a / 2 ^ j % 2).toNat + (b / 2 ^ j % 2).toNat) = true := by
  rw [← b2n_intBit, ← b2n_intBit, ← bit_eq_testBit]
  exact (powersSum_bits (fun j => bit t (2 * b2n (intBit a j) + b2n (intBit b j))) w).2.2 j h

theorem arrRelation_eq (fn : Nat) (a b : Int) : arrRelation fn a b =
    [decide (a = b), decide (a ≠ b), decide (a < b), decide (a ≤ b), decide (b < a)].getD fn (decide (b ≤ a)) := by
  match fn with
  | 0 => rfl
  | 1 => by_cases same : a = b <;> simp [arrRelation, same]
  | 2 => rfl
  | 3 => rfl
  | 4 => rfl
  | n + 5 => rfl

theorem arrShift_eq (right : Bool) (a b : Int) : arrShift right a b =
    if b < 0 ∨ 32 ≤ b then (if right = true ∧ a < 0 then -1 else 0)
    else if right = true then a / 2 ^ b.toNat else a * 2 ^ b.toNat := by
  have far : (decide (b < 0) || decide (32 ≤ b)) = decide (b < 0 ∨ 32 ≤ b) := (Bool.decide_or ..).symm
  simp only [arrShift, far, decide_eq_true_eq, Int.natCast_pow]
  cases right <;> by_cases big : b < 0 ∨ 32 ≤ b <;> simp [big]

/-- The range of a descriptor's numbers is not empty. -/
theorem widthRange_le (w : Nat) (sgn : Bool) : (widthRange w sgn).1 ≤ (widthRange w sgn).2 := by
  have half : 0 < 2 ^ (w - 1) := by positivity
  have whole : 0 < 2 ^ w := by positivity
  unfold widthRange
  split <;> simp only <;> omega

/-- A result saturated to the destination's range where FN asks for that. -/
theorem arrCapped_eq (y : DWord) (r : Int) :
    (if bit (vecFn y) 1 = true then satInt r (widthRange (vecW y) (vecSgn y)).1 (widthRange (vecW y) (vecSgn y)).2 else r) =
      if vecFn y / 2 % 2 = 1 then max (if y.getLsbD 17 = true then -2 ^ (vecW y - 1) else 0)
        (min (if y.getLsbD 17 = true then 2 ^ (vecW y - 1) - 1 else 2 ^ vecW y - 1) r) else r := by
  have low : (widthRange (vecW y) (vecSgn y)).1 = if y.getLsbD 17 = true then -2 ^ (vecW y - 1) else 0 := by
    rw [widthRange, vecSgn]
    split <;> simp
  have high : (widthRange (vecW y) (vecSgn y)).2 = if y.getLsbD 17 = true then 2 ^ (vecW y - 1) - 1 else 2 ^ vecW y - 1 := by
    rw [widthRange, vecSgn]
    split <;> simp
  rw [satInt_eq (widthRange_le _ _), low, high]
  simp [bit]

theorem bit_zero (x : Nat) : (bit x 0 = true) = (x % 2 = 1) := by simp [bit]

end Sys2Proof.Machine
end
section
/-! Array windows: the windows of a context, and the run and the issue of `arrx` and `arr` (R97, R270, R272, R273). -/

namespace Sys2Proof.Machine

/-! ### Elements -/

theorem assocGet_map {α : Type} (f : α → α) (l : List (Nat × α)) (k : Nat) (d : α) :
    assocGet (l.map fun p => (p.1, f p.2)) k (f d) = f (assocGet l k d) := by
  unfold assocGet
  rw [List.find?_map]
  cases h : l.find? (fun c => c.1 == k) <;> simp [h]

theorem mapAll_elem (w : ArrWindow) (f : BitVec 512 → BitVec 512) (k : Nat) : (w.mapAll f).elem k = f (w.elem k) :=
  assocGet_map f w.elems k w.dflt

/-- A range changes its elements one by one and nothing else of its window. -/
theorem mapRange_spec (w : ArrWindow) (e0 n : Nat) (f : Nat → BitVec 512 → BitVec 512) :
    (w.mapRange e0 n f).num = w.num ∧ (w.mapRange e0 n f).armed = w.armed ∧
    ∀ k, (w.mapRange e0 n f).elem k = if e0 ≤ k ∧ k < e0 + n then f (k - e0) (w.elem k) else w.elem k := by
  induction n with
  | zero => exact ⟨rfl, rfl, fun k => (if_neg (by omega)).symm⟩
  | succ n ih =>
    obtain ⟨num, armed, elems⟩ := ih
    have step : w.mapRange e0 (n + 1) f = { w.mapRange e0 n f with
        elems := assocSet (w.mapRange e0 n f).elems (e0 + n) (f n ((w.mapRange e0 n f).elem (e0 + n))) } := by
      rw [ArrWindow.mapRange, List.range_succ, List.foldl_append]
      rfl
    rw [step]
    refine ⟨num, armed, fun k => ?_⟩
    rw [ArrWindow.elem, assocGet_assocSet]
    change (if k = e0 + n then _ else (w.mapRange e0 n f).elem k) = _
    by_cases last : k = e0 + n
    · subst last
      rw [if_pos rfl, if_pos (by omega), elems, if_neg (by omega), Nat.add_sub_cancel_left]
    · rw [if_neg last, elems]
      exact if_congr (by omega) rfl rfl

/-! ### The windows of a context -/

theorem armedWin_spec {s : State} {k : Nat} {w : ArrWindow} (h : armedWin s k = some w) : w.num = k ∧ w.armed = true := by
  obtain ⟨found, armed⟩ := Option.filter_eq_some_iff.1 h
  exact ⟨by simpa using List.find?_some found, armed⟩

/-- The windows of the squad's context after one of them is set. -/
theorem findWin_setWin (s : State) (w : ArrWindow) (k : Nat) :
    findWin (setWin s s.sq.ident.ctx w) k = if k = w.num then some w else findWin s k := by
  have wins : ((setWin s s.sq.ident.ctx w).ctx s.sq.ident.ctx).wins =
      w :: (s.ctx s.sq.ident.ctx).wins.filter fun v => v.num != w.num :=
    congrArg Context.wins (vget_vset_same s.ctxs _ _ _ rfl)
  show ((setWin s s.sq.ident.ctx w).ctx s.sq.ident.ctx).wins.find? _ = _
  rw [wins]
  by_cases same : k = w.num
  · rw [if_pos same, List.find?_cons_of_pos (by simp [same])]
  · rw [if_neg same, List.find?_cons_of_neg (by simpa using Ne.symm same), List.find?_filter, findWin]
    congr 1
    funext v
    by_cases hit : v.num = k <;> simp [hit, same]

theorem armedWin_setWin {s : State} {w : ArrWindow} (armed : w.armed = true) :
    armedWin (setWin s s.sq.ident.ctx w) w.num = some w := by
  rw [armedWin, findWin_setWin, if_pos rfl]
  exact Option.filter_some_pos armed

/-! ### Runs -/

/-- Element i of a range with its bytes of a load in the rows of a descriptor (R270). -/
def loadedElem (x : DWord) (bs : List Byte) (i : Nat) (el : BitVec 512) : BitVec 512 :=
  vecSet x el (leNat ((bs.drop (elemBytes (vecW x) * i)).take (elemBytes (vecW x))))

theorem runWin_armed {s : State} {o : Op} {k : Nat} {w : ArrWindow} (h : armedWin s k = some w) (f : ArrWindow → Ran) :
    runWin s o k f = f w := by
  simp only [runWin, h]

theorem runRange_armed {s : State} {o : Op} {x y : DWord} {w : ArrWindow} (h : armedWin s (vecWin x) = some w)
    (fits : rangeFirst y + rangeCount y ≤ w.size) (f : ArrWindow → Ran) : runRange s o x y f = f w := by
  rw [runRange, runWin_armed h, if_neg (Nat.not_lt.2 fits)]

/-- A run that changes the elements of the window alone. -/
theorem setWin_elements {s : State} {k : Nat} {w u : ArrWindow} (h : armedWin s k = some w) (num : u.num = w.num)
    (armed : u.armed = w.armed) :
    armedWin (setWin s s.sq.ident.ctx u) k = some u ∧ ∀ j, j ≠ k → findWin (setWin s s.sq.ident.ctx u) j = findWin s j := by
  obtain ⟨here, on⟩ := armedWin_spec h
  have at_ : u.num = k := num.trans here
  refine ⟨at_ ▸ armedWin_setWin (armed.trans on), fun j other => ?_⟩
  rw [findWin_setWin, if_neg (at_ ▸ other)]

theorem runArr_armed {s : State} {o : Op} {e : Engine} {y x z : DWord} {w : ArrWindow} (h : armedWin s (vecWin y) = some w) :
    runArr s o e y x z =
      .ended (setWin s s.sq.ident.ctx (w.mapAll fun el => vecSet y el (arrResult e y x z el))) 0 0 :=
  runWin_armed h _

theorem rangeCount_eq (y : DWord) : rangeCount y = y.toNat / 4294967296 := Nat.mod_eq_of_lt (by have := y.isLt; omega)

theorem rangeFirst_eq (y : DWord) : rangeFirst y = y.toNat % 4294967296 := by 
  rw [rangeFirst, field, Nat.pow_zero, Nat.div_one]
  rfl

theorem vecImm_eq (x : DWord) : vecImm x = x.toNat / 4294967296 := rangeCount_eq x

theorem elemBytes_pos (w : Nat) : 0 < elemBytes w := by
  unfold elemBytes
  repeat' split
  all_goals decide

section
variable {s : State} {o : Op} {x y : DWord} {va : Nat} {w : ArrWindow} (h : armedWin s (vecWin x) = some w)
  (fits : rangeFirst y + rangeCount y ≤ w.size)
include h fits

theorem runMove_load {u t : State} {ks : List (Nat × Nat × Nat)} {bs : List Byte}
    (reached : reachRanges s o needR [(va, elemBytes (vecW x) * rangeCount y)] = (u, .keys ks)) (read : readKeys u ks = (t, bs, none)) :
    runMove s o .arrxLoad x y va = .ended (setWin t s.sq.ident.ctx (w.mapRange (rangeFirst y) (rangeCount y)
      (loadedElem x bs))) 0 0 := by
  simp only [runMove, runRange_armed h fits, withBytes, withRanges, reached, read, leNat_window]
  rfl

theorem runMove_store {t r : State} {ks : List (Nat × Nat × Nat)}
    (reached : reachRanges s o needW [(va, elemBytes (vecW x) * rangeCount y)] = (t, .keys ks))
    (written : writeKeys t false o ks ((List.range (rangeCount y)).flatMap fun i => (List.range (elemBytes (vecW x))).map fun j =>
      BitVec.ofInt 8 (vecGet x (w.elem (rangeFirst y + i)) / 256 ^ j)) = (r, none)) :
    runMove s o .arrxStore x y va = .ended r 0 0 := by
  simp only [runMove, runRange_armed h fits, withRanges, reached, leBytes_emod, written]

theorem runMove_fill : runMove s o .arrxFill x y va =
    .ended (setWin s s.sq.ident.ctx (w.mapRange (rangeFirst y) (rangeCount y) fun _ el => vecSet x el (vecImm x))) 0 0 := by
  simp only [runMove, runRange_armed h fits]

end

/-! ### Issue -/

theorem withWin_none {s : State} {k : Nat} (h : armedWin s k = none) (f : ArrWindow → Eff) :
    withWin s k f = .fault { cause := 0x46, lanes := s.sq.cur.active } := by
  simp only [withWin, h]
  rfl

/-- The descriptors of an `arr` that pass its check. -/
theorem issueArr_pass {s : State} {e : Engine} {y x z : DWord} {srcs : List DWord} {fns : List Nat} (legal : vecBad y = false)
    (fn : vecFn y ∈ fns) (sources : ∀ d ∈ srcs, ArrSource y d) :
    issueArr s e y x z srcs fns = withWin s (vecWin y) fun _ => startArray s e 0 x y z [] [] := by
  have good : (srcs.any fun d => vecBad d || (vecFn d != 0 && vecFn d != 0x20) || (vecFn d == 0 && vecWin d != vecWin y)) = false := by
    refine List.any_eq_false.2 fun d named => ?_
    obtain ⟨plain, immediate | ⟨rows, window⟩⟩ := sources d named
    · simp [plain, immediate]
    · simp [plain, rows, window]
  exact failIf_pass (by simp [legal, fn, good])

theorem issueArr_armed {s : State} {e : Engine} {y x z : DWord} {srcs : List DWord} {fns : List Nat} {w : ArrWindow}
    (legal : vecBad y = false) (fn : vecFn y ∈ fns) (sources : ∀ d ∈ srcs, ArrSource y d) (armed : armedWin s (vecWin y) = some w) :
    issueArr s e y x z srcs fns = .done (engineOut s .ar (engineAct e 0 x y z 0) 0 0 0 none [] []) :=
  (issueArr_pass legal fn sources).trans <| (withWin_armed armed).trans (startEngine_quiet ..)

theorem issueArr_unarmed {s : State} {e : Engine} {y x z : DWord} {srcs : List DWord} {fns : List Nat} (legal : vecBad y = false)
    (fn : vecFn y ∈ fns) (sources : ∀ d ∈ srcs, ArrSource y d) (none_ : armedWin s (vecWin y) = none) :
    issueArr s e y x z srcs fns = .fault { cause := 0x46, lanes := s.sq.cur.active } :=
  (issueArr_pass legal fn sources).trans (withWin_none none_ _)

section
variable {s : State} {d a b : Nat} {fns : List Nat} (legal : vecBad (s.x a) = false) (some_ : rangeCount (s.x d) ≠ 0)
  (fn : vecFn (s.x a) ∈ fns)
include legal some_ fn

/-- The descriptors of an `arrx` on a range that pass its first check. -/
theorem rangeLegal : (vecBad (s.x a) || !fns.contains (vecFn (s.x a)) || rangeCount (s.x d) == 0) = false := by
  simp [legal, fn, some_]

theorem issueRange_unarmed {e : Engine} {mem : Option Bool} (none_ : armedWin s (vecWin (s.x a)) = none) :
    issueRange s e d a b mem fns = .fault { cause := 0x46, lanes := s.sq.cur.active } :=
  (failIf_pass (rangeLegal legal some_ fn)).trans (withWin_none none_ _)

variable {w : ArrWindow} (armed : armedWin s (vecWin (s.x a)) = some w)
  (fits : rangeFirst (s.x d) + rangeCount (s.x d) ≤ w.size)
include armed fits

theorem issueRange_fill {e : Engine} :
    issueRange s e d a b none fns = .done (engineOut s .ar (engineAct e 0 (s.x a) (s.x d) 0 0) 0 0 0 none [] []) := by
  refine (failIf_pass (rangeLegal legal some_ fn)).trans <| (withWin_armed armed).trans <| (failIf_pass ?_).trans (startEngine_quiet ..)
  exact decide_eq_false (Nat.not_lt.2 fits)

variable (al : s.num b % elemBytes (vecW (s.x a)) = 0)
  (reach : s.inGlobal (s.num b) (elemBytes (vecW (s.x a)) * rangeCount (s.x d)))
include al reach

theorem issueRange_load {e : Engine}
    (wait : rangesWait s ([(s.num b, elemBytes (vecW (s.x a)) * rangeCount (s.x d))] ++ []) = false) :
    issueRange s e d a b (some false) fns = .done (engineOut s .ar (engineAct e 0 (s.x a) (s.x d) (s.x b) 0) 0 0 0 none
      [(s.num b, elemBytes (vecW (s.x a)) * rangeCount (s.x d))] []) := by
  refine (failIf_pass (rangeLegal legal some_ fn)).trans <| (withWin_armed armed).trans <| (failIf_pass ?_).trans <|
    (aligned_pass al).trans <| (globalRange_pass reach).trans (startEngine_open wait)
  exact decide_eq_false (Nat.not_lt.2 fits)

theorem issueRange_store {e : Engine}
    (wait : rangesWait s ([] ++ [(s.num b, elemBytes (vecW (s.x a)) * rangeCount (s.x d))]) = false) :
    issueRange s e d a b (some true) fns = .done (engineOut s .ar (engineAct e 0 (s.x a) (s.x d) (s.x b) 0) 0 0 0 none
      [] [(s.num b, elemBytes (vecW (s.x a)) * rangeCount (s.x d))]) := by
  refine (failIf_pass (rangeLegal legal some_ fn)).trans <| (withWin_armed armed).trans <| (failIf_pass ?_).trans <|
    (aligned_pass al).trans <| (globalRange_pass reach).trans (startEngine_open wait)
  exact decide_eq_false (Nat.not_lt.2 fits)

end

end Sys2Proof.Machine
end
section
namespace Sys2Proof.Laws
open Sys2Proof.Machine

/-- Settles O17: every own part passes its checks one by one; the engine maps the elements of the window, each by its own rows. -/
theorem arrayInstructions : Obligations.ArrayInstructions := by
  refine ⟨fun d a b => ?_, ?_, fun y el r j h => vecSet_bit y el r h, vecSource_eq, fun x => ⟨?_, rfl, rfl, rfl⟩, ?_, vecGet_eq, ?_⟩
  · refine ⟨givesWhen_of_done (fun _ => by delta exec; exact rfl) fun p ⟨wait, small, al, reach⟩ => ?_, ?_⟩
    · exact (failIf_pass (upper_bits_zero small)).trans <| (aligned_pass al).trans <| (globalRange_pass reach).trans <|
        startEngine_open wait
    refine ⟨givesWhen_of_done (fun _ => by delta exec; exact rfl) fun p ⟨wait, small⟩ => ?_, ?_⟩
    · exact (failIf_pass (upper_bits_zero small)).trans (startEngine_open wait)
    refine ⟨givesWhen_of_done (fun _ => by delta exec; exact rfl) fun p small => ?_, ?_⟩
    · exact (failIf_pass (upper_bits_zero small)).trans (startEngine_quiet ..)
    refine ⟨fun w => givesWhen_of_done (fun _ => by delta exec; exact rfl)
      fun p ⟨wait, legal, some_, armed, fits, fn, al, reach⟩ => ?_, ?_⟩
    · exact issueRange_load legal some_ (by simp [fn]) armed fits al reach wait
    refine ⟨fun w => givesWhen_of_done (fun _ => by delta exec; exact rfl)
      fun p ⟨wait, legal, some_, armed, fits, fn, al, reach⟩ => ?_, ?_⟩
    · exact issueRange_store legal some_ (by simp [fn]) armed fits al reach wait
    refine ⟨fun w => givesWhen_of_done (fun _ => by delta exec; exact rfl) fun p ⟨legal, some_, armed, fits, fn⟩ => ?_, ?_⟩
    · exact issueRange_fill legal some_ (by simpa using fn) armed fits
    iterate 2
      refine ⟨faultsWhen_of_fault (fun _ => by delta exec; exact rfl) fun p ⟨legal, some_, fn, none_⟩ => ?_, ?_⟩
      · exact issueRange_unarmed legal some_ (by simp [fn]) none_
    refine ⟨faultsWhen_of_fault (fun _ => by delta exec; exact rfl) fun p ⟨legal, some_, fn, none_⟩ => ?_, ?_⟩
    · exact issueRange_unarmed legal some_ (by simpa using fn) none_
    iterate 6
      refine ⟨fun w => givesWhen_of_done (fun _ => by delta exec; exact rfl) fun p ⟨legal, fn, left, right, armed⟩ => ?_, ?_⟩
      · exact issueArr_armed legal (by simp; omega) (by simp [left, right]) armed
      refine ⟨faultsWhen_of_fault (fun _ => by delta exec; exact rfl) fun p ⟨legal, fn, left, right, none_⟩ => ?_, ?_⟩
      · exact issueArr_unarmed legal (by simp; omega) (by simp [left, right]) none_
    refine ⟨fun w => givesWhen_of_done (fun _ => by delta exec; exact rfl) fun p ⟨legal, fn, source, armed⟩ => ?_, ?_⟩
    · exact issueArr_armed legal (by simp [fn]) (by simp [source]) armed
    refine ⟨fun w => givesWhen_of_done (fun _ => by delta exec; exact rfl) fun p ⟨legal, fn, armed⟩ => ?_, ?_⟩
    · exact issueArr_armed legal (by simp [fn]) (by simp) armed
    refine ⟨faultsWhen_of_fault (fun _ => by delta exec; exact rfl) fun p ⟨legal, fn, source, none_⟩ => ?_, ?_⟩
    · exact issueArr_unarmed legal (by simp [fn]) (by simp [source]) none_
    · exact faultsWhen_of_fault (fun _ => by delta exec; exact rfl) fun p ⟨legal, fn, none_⟩ =>
        issueArr_unarmed legal (by simp [fn]) (by simp) none_
  · intro s o d x y z x2 v e w named armed
    have run : runEngine s o e d x y z x2 v = runArr s o e y x z := by
      simp only [List.mem_cons, List.not_mem_nil, or_false] at named
      rcases named with rfl | rfl | rfl | rfl | rfl | rfl | rfl | rfl <;> rfl
    obtain ⟨here, others⟩ := setWin_elements (u := w.mapAll fun el => vecSet y el (arrResult e y x z el)) armed rfl rfl
    exact ⟨_, _, run.trans (runArr_armed armed), here, mapAll_elem w _, others, rfl⟩
  · rw [vecRow, field, Nat.pow_zero, Nat.div_one]
    rfl
  · intro y x z el a b fn lo hi cap
    refine ⟨?_, arrCapped_eq y _, ?_, ?_, ?_, ?_, congrArg _ (vecImm_eq y), fun j h => truthTable_bit fn (vecW y) a b h⟩
    · simp only [cap, ← bit_zero fn]
      exact arrCapped_eq y _
    · rw [← arrRelation_eq]
      rfl
    · by_cases zero : a = 0
      · simp [arrResult, a, zero]
      · simp [arrResult, a, b, zero]
    · simp only [← bit_zero fn]
      exact arrShift_eq _ a b
    · simp only [← intBit_eq, List.countP_eq_length_filter]
      rfl
  · intro s o d x y z x2 v w e0 n b armed fits
    have first : rangeFirst y = e0 := rangeFirst_eq y
    have count : rangeCount y = n := rangeCount_eq y
    have inside : rangeFirst y + rangeCount y ≤ w.size := by rwa [first, count]
    have length : elemBytes (vecW x) * rangeCount y = b * n := congrArg (b * ·) count
    refine ⟨fun t bs reads pos ident ctxs => ?_, fun t ks r reached written => ?_, ?_⟩
    · obtain ⟨u, ks, reached, read⟩ := reads
      have some_ : b * n ≠ 0 := Nat.mul_ne_zero (elemBytes_pos (vecW x)).ne' pos.ne'
      rw [if_neg some_, ← length] at reached
      have there : armedWin t (vecWin x) = some w := by
        rw [armedWin, findWin, State.ctx, ident, ctxs]
        exact armed
      obtain ⟨num, on, elems⟩ := mapRange_spec w (rangeFirst y) (rangeCount y) (loadedElem x bs)
      refine ⟨_, w.mapRange (rangeFirst y) (rangeCount y) (loadedElem x bs), runMove_load armed inside reached read,
        ?_, rfl, fun k => ?_⟩
      · rw [← ident]
        exact (setWin_elements there num on).1
      · rw [elems, first, count]
        rfl
    · refine runMove_store armed inside (length ▸ reached) ?_
      rw [first, count]
      exact written
    · obtain ⟨num, on, elems⟩ := mapRange_spec w (rangeFirst y) (rangeCount y) fun _ el => vecSet x el (vecImm x)
      refine ⟨_, _, runMove_fill (va := z.toNat) armed inside, (setWin_elements armed num on).1, rfl, fun k => ?_⟩
      rw [elems, first, count, vecImm_eq]

end Sys2Proof.Laws
end
section
/-! Writes of any length at their homes (R104, R105): what they leave as it was. -/

namespace Sys2Proof.Machine

/-- A write at its home that changes no byte outside a range, and leaves a tame state. -/
structure WritesWithin (s t : State) (a n : Nat) : Prop where
  tame  : Tame t
  squad : t.sq = s.sq
  bytes : ∀ j, outside j a n → t.byteAt j = s.byteAt j

theorem WritesWithin.refl {s : State} (h : Tame s) (a n : Nat) : WritesWithin s s a n := ⟨h, rfl, fun _ _ => rfl⟩

theorem WritesWithin.trans {s t u : State} {a n : Nat} (h : WritesWithin s t a n) (g : WritesWithin t u a n) : WritesWithin s u a n :=
  ⟨g.tame, g.squad.trans h.squad, fun j out => (g.bytes j out).trans (h.bytes j out)⟩

theorem Lands.within {s t : State} {key a n : Nat} {bs : List Byte} (h : Lands s t key bs) (low : a ≤ key)
    (high : key + bs.length ≤ a + n) : WritesWithin s t a n := by
  refine ⟨h.tame, h.squad, fun j out => (h.bytes j).trans (if_neg fun inside => ?_)⟩
  rcases out with before | after <;> omega

/-- A range that begins before a line and reaches it marks the line's first sector. -/
theorem touched_ne_zero_of_before {line a n : Nat} (before : a < line) (reaches_ : line < a + n) : touched line a n ≠ 0 := by
  have spec := (maskBelow_spec (fun j => decide (line + 64 * j < a + n) && decide (a < line + 64 * j + 64)) 8).2 0
  have mask : touched line a n = BitVec.ofNat 8
      (maskBelow (fun j => decide (line + 64 * j < a + n) && decide (a < line + 64 * j + 64)) 8) := rfl
  have near : a < line + 64 := by omega
  intro zero
  have bit := congrArg (fun m : BitVec 8 => m.getLsbD 0) (mask.symm.trans zero)
  rw [BitVec.getLsbD_ofNat, spec] at bit
  simp [reaches_, near] at bit

theorem llcWrite_mild_of_mem {s : State} (h : Tame s) (ctx : Nat) {line a n : Nat} (meets : line ∈ linesOf a n) :
    Mild s (llcWrite s ctx line a n) := by
  obtain ⟨aligned, before, after, pos⟩ := mem_linesOf.1 meets
  refine (llcWrite_mild h ctx aligned ?_).1
  rcases Nat.lt_or_ge a line with early | late
  · exact touched_ne_zero_of_before early before
  · exact touched_ne_zero pos late after

theorem llcWrites_mild {ctx a n : Nat} (lines : List Nat) {s : State} (h : Tame s) (meets : ∀ l ∈ lines, l ∈ linesOf a n) :
    Mild s (lines.foldl (fun t line => llcWrite t ctx line a n) s) := by
  induction lines generalizing s with
  | nil => exact .refl h
  | cons line lines ih =>
    have first := llcWrite_mild_of_mem h ctx (meets line List.mem_cons_self)
    exact first.trans (ih first.tame fun l hl => meets l (List.mem_cons_of_mem line hl))

theorem byteAt_raw {s : State} {j : Nat} (raw : codeOf s (j / 512 * 512) = 0) : s.byteAt j = memGet s.mem j := by
  have place : j / 512 * 512 + j % 512 = j := by omega
  rw [State.byteAt, lineBytes_raw raw, memRead_getD _ _ (Nat.mod_lt _ (by decide)), place]

/-- Bytes put into raw lines. -/
theorem homePut_within {s : State} (h : Tame s) (ctx a : Nat) {bs : List Byte} (raw : ∀ line ∈ linesOf a bs.length, codeOf s line = 0) :
    WritesWithin s (homePut s ctx a bs) a bs.length := by
  obtain ⟨quiet, tame⟩ := llcWrites_mild (ctx := ctx) (linesOf a bs.length) h fun _ hl => hl
  have mem : (homePut s ctx a bs).mem = memPut s.mem a bs := congrArg (memPut · a bs) quiet.mem
  have code (line : Nat) : codeOf (homePut s ctx a bs) line = codeOf s line := codeOf_eq quiet.codes (by rw [← quiet.dev]) line
  refine ⟨tame.of_eq rfl (fun _ hl => hl) rfl, quiet.sq, fun j out => ?_⟩
  by_cases plain : codeOf s (j / 512 * 512) = 0
  · rw [byteAt_raw plain, byteAt_raw ((code _).trans plain), mem]
    exact memGet_memPut_out _ _ _ _ out
  · have clear : a + bs.length ≤ j / 512 * 512 ∨ j / 512 * 512 + 512 ≤ a ∨ bs.length = 0 := by
      have missed := mt (raw _) plain
      rw [mem_linesOf] at missed
      omega
    have stored : memRead (homePut s ctx a bs).mem (j / 512 * 512) 512 = memRead s.mem (j / 512 * 512) 512 := by
      rw [mem, memRead_eq, memRead_eq]
      refine List.map_congr_left fun i hi => memGet_memPut_out _ _ _ _ ?_
      have := List.mem_range.1 hi
      omega
    rw [State.byteAt, State.byteAt, lineBytes_of_same (code _) stored]

/-- What homeWrite does with one line of its range. -/
def writePart (ctx a : Nat) (bs : List Byte) (st : State × Bool) (line : Nat) : State × Bool :=
  let lo := Nat.max a line
  let hi := Nat.min (a + bs.length) (line + 512)
  let r := homeWritePart st.1 ctx line lo ((bs.drop (lo - a)).take (hi - lo))
  (r.1, st.2 || r.2)

theorem writePart_within {ctx a line : Nat} {bs : List Byte} {st : State × Bool} (h : Tame st.1) (meets : line ∈ linesOf a bs.length)
    (taken : (writePart ctx a bs st line).2 = false) : WritesWithin st.1 (writePart ctx a bs st line).1 a bs.length := by
  obtain ⟨aligned, before, after, pos⟩ := mem_linesOf.1 meets
  obtain ⟨_, accepted⟩ := Bool.or_eq_false_iff.1 taken
  have low : Nat.max a line = max a line := rfl
  have high : Nat.min (a + bs.length) (line + 512) = min (a + bs.length) (line + 512) := rfl
  have size : ((bs.drop (Nat.max a line - a)).take (Nat.min (a + bs.length) (line + 512) - Nat.max a line)).length =
      Nat.min (a + bs.length) (line + 512) - Nat.max a line := by
    rw [List.length_take, List.length_drop]
    omega
  refine (homeWritePart_lands h ctx aligned ?_ (by omega) (by omega) accepted).within (by omega) (by omega)
  exact List.ne_nil_of_length_pos (by omega)

theorem writeParts_taken {ctx a : Nat} {bs : List Byte} (lines : List Nat) {st : State × Bool}
    (taken : (lines.foldl (writePart ctx a bs) st).2 = false) : st.2 = false := by
  induction lines generalizing st with
  | nil => exact taken
  | cons line lines ih => exact (Bool.or_eq_false_iff.1 (ih taken)).1

theorem writeParts_within {ctx a : Nat} {bs : List Byte} (lines : List Nat) {st : State × Bool} (h : Tame st.1)
    (meets : ∀ l ∈ lines, l ∈ linesOf a bs.length) (taken : (lines.foldl (writePart ctx a bs) st).2 = false) :
    WritesWithin st.1 (lines.foldl (writePart ctx a bs) st).1 a bs.length := by
  induction lines generalizing st with
  | nil => exact .refl h _ _
  | cons line lines ih =>
    have first := writePart_within h (meets line List.mem_cons_self) (writeParts_taken lines taken)
    exact first.trans (ih first.tame (fun l hl => meets l (List.mem_cons_of_mem line hl)) taken)

/-- A write at its homes that is not refused changes its own bytes alone. -/
theorem homeWrite_within {s r : State} (h : Tame s) {ctx a : Nat} {bs : List Byte} (taken : homeWrite s ctx a bs = (r, false)) :
    WritesWithin s r a bs.length := by
  unfold homeWrite at taken
  split at taken
  · next plain =>
    obtain rfl : homePut (noteOld s a (memRead s.mem a bs.length)) ctx a bs = r := congrArg Prod.fst taken
    obtain ⟨_, raw⟩ := Bool.and_eq_true_iff.1 plain
    obtain ⟨mem, codes, dev⟩ := noteOld_rest s a (memRead s.mem a bs.length)
    have code (line : Nat) : codeOf (noteOld s a (memRead s.mem a bs.length)) line = codeOf s line :=
      codeOf_eq codes (by rw [dev]) line
    have same : SameMemory s (noteOld s a (memRead s.mem a bs.length)) := .of_eq mem codes (by rw [dev])
    have put := homePut_within (noteOld_tame h a (memRead s.mem a bs.length)) ctx a (bs := bs) fun line hl =>
      (code line).trans (by simpa using List.all_eq_true.1 raw line hl)
    exact ⟨put.tame, put.squad.trans (noteOld_sq ..), fun j out => (put.bytes j out).trans (same j)⟩
  · obtain rfl : ((linesOf a bs.length).foldl (writePart ctx a bs) (s, false)).1 = r := congrArg Prod.fst taken
    exact writeParts_within (linesOf a bs.length) h (fun _ hl => hl) (congrArg Prod.snd taken)

end Sys2Proof.Machine
end
section
/-! What span queues, semaphores and bank mode changes leave unchanged (R85, R240 to R244, R255). -/

namespace Sys2Proof.Machine

/-! ### The squad -/

/-- Beside the program counters and what threads wait for, only the scalar registers of a list change in the squad. -/
structure SquadStands (b u : State) (ss : List Nat) : Prop where
  files   : KeepsFiles b u [] ss [] 0
  special : KeepsSpecial b u
  mode    : u.sq.mode = b.sq.mode
  flags   : u.sq.flags = b.sq.flags
  ops     : u.sq.ops = b.sq.ops

theorem SquadStands.of_sq {b u : State} (h : u.sq = b.sq) (ss : List Nat) : SquadStands b u ss := by
  have files {α : Type} (f : Regs → α) : f u.sq.regs = f b.sq.regs := congrArg (fun q : Squad => f q.regs) h
  refine ⟨⟨fun n l _ _ _ => files fun r => r.lane n l, fun n _ _ => files fun r => r.sreg n, fun n l _ _ _ =>
    files fun r => (r.pred n).getLsbD l⟩, ⟨?_, ?_, ?_, ?_, ?_, ?_, ?_, ?_⟩, ?_, ?_, ?_⟩
  all_goals rw [h]

/-- A step like those of an issue, which leaves the registers. -/
theorem SquadStands.of_like {b u : State} (like : SquadLike b u) (regs : u.sq.regs = b.sq.regs) (flags : u.sq.flags = b.sq.flags)
    (ss : List Nat) : SquadStands b u ss := by
  have files {α : Type} (f : Regs → α) : f u.sq.regs = f b.sq.regs := congrArg f regs
  obtain ⟨special, mode, ops⟩ := like
  exact ⟨⟨fun n l _ _ _ => files fun r => r.lane n l, fun n _ _ => files fun r => r.sreg n, fun n l _ _ _ =>
    files fun r => (r.pred n).getLsbD l⟩, special, mode, flags, ops⟩

theorem SquadStands.trans {b t u : State} {ss : List Nat} (h : SquadStands b t ss) (g : SquadStands t u ss) : SquadStands b u ss := by
  obtain ⟨⟨v, x, p⟩, special, mode, flags, ops⟩ := h
  obtain ⟨⟨v', x', p'⟩, special', mode', flags', ops'⟩ := g
  obtain ⟨like, _, _⟩ := SquadLike.trans ⟨special, mode, ops⟩ ⟨special', mode', ops'⟩
  exact ⟨⟨fun n l hn hl h => (v' n l hn hl h).trans (v n l hn hl h), fun n hn h => (x' n hn h).trans (x n hn h),
    fun n l hn hl h => (p' n l hn hl h).trans (p n l hn hl h)⟩, like, mode'.trans mode, flags'.trans flags, ops'.trans ops⟩

theorem SquadStands.setX {b u : State} {ss : List Nat} (h : SquadStands b u ss) {d : Nat} (named : d ∈ ss) (low : d < 64) (x : DWord) :
    SquadStands b (u.setX d x) ss := by
  obtain ⟨files, special, mode, flags, _⟩ := (setX_stands u x low).more (List.cons_subset.2 ⟨named, List.nil_subset ss⟩)
  exact h.trans ⟨files, special, mode, flags, rfl⟩

theorem begun_squad (s : State) (ss : List Nat) : SquadStands s (begun s) ss :=
  .of_like (begun_like s) (begun_regs s) (begun_flags s) ss

theorem ended_squad (u : State) (ss : List Nat) : SquadStands u (ended u) ss :=
  .of_like (ended_like u) (ended_regs u) (ended_flags u) ss

/-! ### Memory -/

/-- Where lines are legible and L1s hold nothing to write back, only the bytes of some ranges change, and the state stays tame. -/
def HomeStands (b u : State) (rs : List (Nat × Nat)) : Prop :=
  Legible b → Settled b → Tame u ∧ ∀ j, (∀ r ∈ rs, outside j r.1 r.2) → u.byteAt j = b.byteAt j

theorem Untouched.homeStands {b u : State} (h : Untouched b u) (rs : List (Nat × Nat)) : HomeStands b u rs := fun legible settled => by
  obtain ⟨same, after, _⟩ := h.home legible settled
  exact ⟨after.tame, fun j _ => same j⟩

theorem HomeStands.write {b u r : State} {ctx a : Nat} {bs : List Byte} {rs : List (Nat × Nat)} (h : HomeStands b u rs)
    (taken : homeWrite u ctx a bs = (r, false)) (named : (a, bs.length) ∈ rs) : HomeStands b r rs := fun legible settled => by
  obtain ⟨tame, bytes⟩ := h legible settled
  have written := homeWrite_within tame taken
  exact ⟨written.tame, fun j out => (written.bytes j (out _ named)).trans (bytes j out)⟩

/-- A step that changes neither cells, lines nor codes. -/
theorem HomeStands.of_eq {b u t : State} {rs : List (Nat × Nat)} (h : HomeStands b u rs) (mem : t.mem = u.mem) (codes : t.codes = u.codes)
    (dev : t.dev = u.dev) (latent : t.latent = u.latent) (llc : t.llc = u.llc) : HomeStands b t rs := fun legible settled => by
  obtain ⟨tame, bytes⟩ := h legible settled
  have same : SameMemory u t := .of_eq mem codes (congrArg Device.mcwin dev)
  exact ⟨tame.of_eq codes (fun l hl => latent ▸ hl) llc, fun j out => (same j).trans (bytes j out)⟩

theorem HomeStands.setX {b u : State} {rs : List (Nat × Nat)} (h : HomeStands b u rs) (d : Nat) (x : DWord) :
    HomeStands b (u.setX d x) rs := h.of_eq rfl rfl rfl rfl rfl

theorem HomeStands.acquire {b u : State} {rs : List (Nat × Nat)} (h : HomeStands b u rs) (core scope : Nat) :
    HomeStands b (acquireAction u core scope) rs := by
  unfold acquireAction
  split
  · exact h
  · exact h.of_eq rfl rfl rfl rfl rfl

theorem acquireAction_sq (s : State) (core scope : Nat) : (acquireAction s core scope).sq = s.sq := by
  unfold acquireAction
  split <;> rfl

theorem releaseAction_untouched (s : State) (core scope : Nat) : Untouched s (releaseAction s core scope) := by
  unfold releaseAction
  split
  · exact .refl s
  · exact sectors_untouched writeBack_sq (fun t _ clean => (writeBack_clean (s := t) clean).symm ▸ .refl t) s _
      fun _ held => (List.mem_filter.1 held).1

/-- No release waits where L1s hold nothing to write back. -/
theorem releaseWaits_settled {s : State} (h : Settled s) (core scope : Nat) : releaseWaits s core scope = false := by
  have quiet : unflushed s core = false := by
    refine List.any_eq_false.2 fun x held => ?_
    simp [wbWaits, L1Sector.pending, (h x (List.mem_filter.1 held).1).1]
  rw [releaseWaits, quiet, Bool.and_false]

/-! ### Accesses at homes -/

theorem Homes.untouched {s t : State} {va n key : Nat} {need : Need} (h : Homes s va n need t key) : Untouched s t := by
  obtain ⟨named, reached, _, _, _⟩ := h
  have checked := reachGlobal_untouched s ⟨n, need, if need.w then 3 else 1, need.w, true, true⟩ va s.sq.cur.active
  rwa [reached] at checked

/-- A synchronous access finds one state and one place. -/
theorem Homes.unique {s t u : State} {va n k l : Nat} {need : Need} (h : Homes s va n need t k) (g : Homes s va n need u l) :
    t = u ∧ k = l := by
  obtain ⟨named, reached, rfl, _, _⟩ := h
  obtain ⟨other, again, rfl, _, _⟩ := g
  obtain ⟨rfl, place⟩ := Prod.mk.inj (reached.symm.trans again)
  exact ⟨rfl, congrArg (canon t) (Sum.inl.inj place)⟩

theorem homeRead_untouched {s u : State} {ctx a n : Nat} {bs : List Byte} {bad : Bool} (h : homeRead s ctx a n = (u, bs, bad)) :
    Untouched s u := by
  obtain rfl : (homeRead s ctx a n).1 = u := congrArg Prod.fst h
  exact .of_calm (homeRead_sq s ctx a n) fun legible => homeRead_calm legible ctx a n

theorem SpanFound.untouched {s u : State} {va : Nat} {e : SpanDesc} (h : SpanFound s va u e) : Untouched s u := by
  obtain ⟨t, key, bs, homes, _, read, _⟩ := h
  exact homes.untouched.trans (homeRead_untouched read)

theorem SemFound.untouched {s u : State} {va key v scope : Nat} {need : Need} (h : SemFound s va need u key v scope) : Untouched s u := by
  obtain ⟨t, bs, homes, _, read, _⟩ := h
  exact homes.untouched.trans (homeRead_untouched read)

theorem homeWrite_squad {s r : State} {ctx a : Nat} {bs : List Byte} {refused : Bool} (h : homeWrite s ctx a bs = (r, refused)) :
    r.sq = s.sq := by
  obtain rfl : (homeWrite s ctx a bs).1 = r := congrArg Prod.fst h
  exact homeWrite_sq s ctx a bs

/-- A push changes the 16 bytes of its entry and the 8 of the tail (R241). -/
theorem SpanPushed.stands {b u r v : State} {e : SpanDesc} {x : DWord} {k : Nat} (h : Untouched b u) (pushed : SpanPushed u e x r)
    (place : Homes (releaseAction u u.sq.ident.core e.scope) (spanEntry e e.t) 16 needRW v k) :
    r.sq = b.sq ∧ HomeStands b r [(k, 16), (e.key + 0x18, 8)] := by
  obtain ⟨_, t, key, w, homes, entry, tail⟩ := pushed
  obtain ⟨rfl, rfl⟩ := homes.unique place
  have before := (h.trans (releaseAction_untouched u u.sq.ident.core e.scope)).trans homes.untouched
  refine ⟨(homeWrite_squad tail).trans <| (homeWrite_squad entry).trans before.squad, ?_⟩
  refine ((before.homeStands _).write entry ?_).write tail ?_
  · simp [leBytes_length]
  · simp [leBytes_length]

/-- A pop changes the pair and the 8 bytes of the head (R241). -/
theorem SpanPopped.stands {b u r : State} {e : SpanDesc} {d : Nat} {ss : List Nat} (h : Untouched b u) (popped : SpanPopped u e d r)
    (low : d + 1 < 64) (first : d ∈ ss) (second : d + 1 ∈ ss) : SquadStands b r ss ∧ HomeStands b r [(e.key + 0x10, 8)] := by
  obtain ⟨t, key, w, bs, v, homes, read, head, rfl⟩ := popped
  have before := (h.trans homes.untouched).trans (homeRead_untouched read)
  have squad : v.sq = b.sq := (homeWrite_squad head).trans before.squad
  refine ⟨?_, ?_⟩
  · exact (((SquadStands.of_sq squad ss).setX first (by omega) _).setX second low _).trans (.of_sq (acquireAction_sq _ _ _) ss)
  · refine HomeStands.acquire (HomeStands.setX (HomeStands.setX ((before.homeStands _).write head ?_) _ _) _ _) _ _
    simp [leBytes_length]

/-! ### Frames -/

theorem framedHome_of {s u t : State} {ss : List Nat} {rs : List (Nat × Nat)} (squad : SquadStands s t ss)
    (home : HomeStands (begun s) u rs) (same : SameMemory u t) : FramedHome s t ss rs := by
  obtain ⟨files, special, mode, flags, ops⟩ := squad
  refine ⟨files, special, mode, flags, ops, fun legible _ settled j out => ?_⟩
  exact (same j).trans (((home legible settled).2 j out).trans (prepare_memory (noteStart s) j))

/-- The frame of an instruction whose own part completes. -/
theorem framedHome_done {i : Instr} {body : State → Eff} {s u t : State} {ss : List Nat} {rs : List (Nat × Nat)}
    (arm : ∀ s, exec i s = issue (traitsOf i) (usesOf (extSet s.sq.cur) i) s body) (h : Issues i s) (next : exec i s = .next t)
    (done : body (begun s) = .done u) (squad : SquadStands (begun s) u ss) (home : HomeStands (begun s) u rs) : FramedHome s t ss rs := by
  rw [exec_settleOwn arm h, done, settleOwn_done] at next
  obtain rfl : ended u = t := by injection next
  have device : KeepsDevice u (ended u) := ended_device rfl
  exact framedHome_of (((begun_squad s ss).trans squad).trans (ended_squad u ss)) home device.memory

/-- Blocking changes what the group's threads wait for, and the quantum. -/
theorem blockGroup_squad (u : State) (w : Blocked) : SquadStands u (endSequence (blockGroup (issued u) w)) [] := by
  have blocked (v : State) : SquadStands (endSequence v) (endSequence (blockGroup v w)) [] := by
    refine SquadStands.of_like (b := endSequence v) (u := endSequence (blockGroup v w)) ?_ rfl rfl []
    exact ⟨⟨rfl, rfl, rfl, rfl, rfl, rfl, rfl, rfl⟩, rfl, rfl⟩
  exact (ended_squad u []).trans (blocked (issued u))

/-- The threads before the instruction, with the squad that its own part began with. -/
theorem restoreThreads_squad {s u : State} (squad : u.sq = (begun s).sq) : SquadStands s (restoreThreads (noteStart s) u) [] := by
  obtain ⟨⟨trap, sys, _, _, _, ident, status, errs⟩, mode, ops⟩ := begun_like s
  have regs := begun_regs s
  have flags := begun_flags s
  rw [← squad] at trap sys ident status errs mode ops regs flags
  have thr : (restoreThreads (noteStart s) u).sq.thr = s.sq.thr := by
    show (noteStart s).sq.thr = s.sq.thr
    rw [noteStart_sq]
  have special : KeepsSpecial s (restoreThreads (noteStart s) u) :=
    ⟨trap, sys, congrArg Threads.handlerMark thr, congrArg Threads.sysMark thr, congrArg Threads.live thr, ident, status, errs⟩
  exact .of_like ⟨special, mode, ops⟩ regs flags []

theorem blocked_memory (n u : State) (w : Blocked) : SameMemory u (endSequence (blockGroup (issued (restoreThreads n u)) w)) := by
  rcases issued_cases (restoreThreads n u) with e | e <;> rw [e] <;> exact .of_eq rfl rfl rfl

/-- The frame of an instruction whose own part blocks. -/
theorem framedHome_block {i : Instr} {body : State → Eff} {s u t : State} {w : Blocked}
    (arm : ∀ s, exec i s = issue (traitsOf i) (usesOf (extSet s.sq.cur) i) s body) (h : Issues i s) (next : exec i s = .next t)
    (block : body (begun s) = .block w u) (untouched : Untouched (begun s) u) : FramedHome s t [] [] := by
  rw [exec_settleOwn arm h, block, settleOwn_block] at next
  obtain rfl : endSequence (blockGroup (issued (restoreThreads (noteStart s) u)) w) = t := by injection next
  exact framedHome_of ((restoreThreads_squad untouched.squad).trans (blockGroup_squad _ w)) (untouched.homeStands []) (blocked_memory _ _ _)

end Sys2Proof.Machine
end
section
/-! Bank mode changes (R85, R255), and the frames of homes and bank modes. -/

namespace Sys2Proof.Machine

/-! ### Bank modes -/

/-- Only the crews, the cells, the poison and the damage change. -/
structure BankStands (b u : State) (rs : List (Nat × Nat)) : Prop where
  rest  : { u with crews := b.crews, mem := b.mem, poison := b.poison, latent := b.latent } = b
  cells : ∀ j, (∀ r ∈ rs, outside j r.1 r.2) → memGet u.mem j = memGet b.mem j

theorem setCrew_bank (s : State) (c : Crew) : BankStands s (s.setCrew c) [] := ⟨rfl, fun _ _ => rfl⟩

/-- Rows that come or go lose their cells. -/
theorem memClear_cells (m : List Host.Cell) (a n : Nat) :
    ∀ j, (∀ r ∈ [(a, n)], outside j r.1 r.2) → memGet (memClear m a n) j = memGet m j := by
  intro j out
  rw [memGet_memClear, if_neg]
  rintro ⟨low, high⟩
  rcases out (a, n) (List.mem_singleton.2 rfl) with before | after
  · exact absurd low (Nat.not_le.2 before)
  · exact absurd high (Nat.not_lt.2 after)

theorem poisonPlanes_rest (bank : Nat) (p : State → Nat → Bool) (l : List Nat) (s : State) :
    { l.foldl (fun u i => if p u i then poisonPlane u bank i else u) s with poison := s.poison } = s :=
  foldl_keeps (P := fun t => { t with poison := s.poison } = s) (fun t i e => by split <;> exact e) l s rfl

theorem toCompute_bank (s : State) (c : Crew) : BankStands s (toCompute s c) [(rowKey c.id (96 * c.banksSeen) 0, 49152)] := by
  unfold toCompute
  generalize List.range 64 = l
  let cleared : State := { s with mem := memClear s.mem (rowKey c.id (96 * c.banksSeen) 0) 49152 }
  have planes := poisonPlanes_rest (c.storage.getD (c.storage.length - 1) 0)
    (fun u p => planeBad u (c.storage.getD (c.storage.length - 1) 0) p) l cleared
  refine ⟨?_, fun j out => ?_⟩
  · exact (congrArg (fun t : State => { t with crews := s.crews, mem := s.mem, poison := s.poison, latent := s.latent }) planes :)
  · exact (congrArg (memGet · j) (congrArg State.mem planes :)).trans (memClear_cells s.mem _ _ j out)

theorem toStorage_bank (s : State) (c : Crew) : BankStands s (toStorage s c) [(rowKey c.id (96 * (c.banksSeen - 1)) 0, 49152)] :=
  ⟨rfl, memClear_cells s.mem _ _⟩

/-- t with the squad and the survey of s, and with what a bank mode change may touch. -/
def State.framedBy (t s : State) : State :=
  { t with sq := s.sq, survey := s.survey, crews := s.crews, mem := s.mem, poison := s.poison, latent := s.latent }

theorem ended_rest (u : State) : { ended u with sq := u.sq, survey := u.survey } = u := by
  unfold ended
  rcases issued_cases u with e | e <;> rw [e] <;> rfl

/-- The frame of a bank mode change whose own part completes. -/
theorem framedBank_done {i : Instr} {body : State → Eff} {s u t : State} {rs : List (Nat × Nat)}
    (arm : ∀ s, exec i s = issue (traitsOf i) (usesOf (extSet s.sq.cur) i) s body) (h : Issues i s) (next : exec i s = .next t)
    (done : body (begun s) = .done u) (bank : BankStands (begun s) u rs) : FramedBank s t rs := by
  rw [exec_settleOwn arm h, done, settleOwn_done] at next
  obtain rfl : ended u = t := by injection next
  obtain ⟨rest, cells⟩ := bank
  have squad : u.sq = (begun s).sq := (congrArg State.sq rest :)
  obtain ⟨files, special, mode, flags, ops⟩ := ((begun_squad s []).trans (.of_sq squad [])).trans (ended_squad u [])
  have start : begun s = { noteStart s with sq := (begun s).sq } := prepare_eq (noteStart s)
  have same : { ended u with sq := u.sq, survey := u.survey } = u := ended_rest u
  generalize ended u = e at *
  generalize begun s = b at *
  refine ⟨files, special, mode, flags, ops, ?_, fun j out => ?_⟩
  · calc e.framedBy s
      _ = u.framedBy s := (congrArg (State.framedBy · s) same :)
      _ = b.framedBy s := (congrArg (State.framedBy · s) rest :)
      _ = (noteStart s).framedBy s := (congrArg (State.framedBy · s) start :)
  · have cell : e.mem = u.mem := (congrArg State.mem same :)
    have first : b.mem = (noteStart s).mem := (congrArg State.mem start :)
    rw [cell, cells j out, first]

/-! ### Semaphores -/

/-- Where no dependence is pending, none is evaluated (R342). -/
theorem evalDeps_none {s : State} (none_ : ∀ g ∈ s.grids, g.pend0 = false ∧ g.pend1 = false) : evalDeps s = s := by
  have empty : s.grids.filter (fun g => g.pend0 || g.pend1) = [] :=
    List.filter_eq_nil_iff.2 fun g hg => by simp [none_ g hg]
  rw [evalDeps, empty, List.foldl_nil]

/-- The release before the add, and the store of the sum (R243). -/
theorem semAdd_found {s u : State} {a d key v scope : Nat} (found : SemFound s (s.num a) needRW u key v scope) :
    semAdd s a d = if releaseWaits u u.sq.ident.core scope then .stall
      else homeStore (releaseAction u u.sq.ident.core scope) (s.num a) key (leBytes 8 (v + (u.x d).toNat)) fun r => .done (evalDeps r) := by
  unfold semAdd
  refine (withSem_found found).trans ?_
  rfl

/-- The frame of an instruction whose own part stalls, which where L1s hold nothing to write back it does not. -/
theorem framedHome_stall {i : Instr} {body : State → Eff} {s t : State} {rs : List (Nat × Nat)}
    (arm : ∀ s, exec i s = issue (traitsOf i) (usesOf (extSet s.sq.cur) i) s body) (h : Issues i s) (next : exec i s = .next t)
    (stall : body (begun s) = .stall) (never : Legible (begun s) → ¬ Settled (begun s)) : FramedHome s t [] rs := by
  rw [exec_settleOwn arm h, stall] at next
  obtain rfl : endSequence s = t := by injection next
  have squad : SquadStands s (endSequence s) [] :=
    .of_like (b := s) (u := endSequence s) ⟨⟨rfl, rfl, rfl, rfl, rfl, rfl, rfl, rfl⟩, rfl, rfl⟩ rfl rfl []
  obtain ⟨files, special, mode, flags, ops⟩ := squad
  exact ⟨files, special, mode, flags, ops, fun legible _ settled => absurd settled (never legible)⟩

end Sys2Proof.Machine
end
section
namespace Sys2Proof.Laws
open Sys2Proof.Machine

/-- Settles O36: what finds an object leaves the squad and memory, each write changes its own bytes, and a bank mode change the crew. -/
theorem frameOfHomesAndBankModes : Obligations.FrameOfHomesAndBankModes := by
  refine ⟨fun d a b => ?_, ?_⟩
  · refine ⟨?_, ?_, ?_, ?_, ?_, ?_, ?_, ?_, ?_, ?_, ?_⟩
    · intro s u e r t v k h found may pushed place next
      obtain ⟨squad, home⟩ := pushed.stands found.untouched place
      refine framedHome_done (fun _ => by delta exec; exact rfl) h next ?_ (.of_sq squad []) home
      exact (withSpan_found found).trans <| (if_pos may).trans (spanPush_pushed pushed)
    · intro s u e r t v k h found may pushed place next
      obtain ⟨squad, home⟩ := pushed.stands found.untouched place
      have low : b.toNat < 64 := h.write_low (by simp [usesNow, usesOf, usesQpushSpanTry])
      refine framedHome_done (fun _ => by delta exec; exact rfl) h next ?_
        (SquadStands.setX (.of_sq squad _) (List.mem_singleton.2 rfl) low 1) (home.setX b.toNat 1)
      exact (withSpan_found found).trans <| (if_pos may).trans (spanPush_pushed pushed)
    · intro s u e r t h found may popped next
      have low : d.toNat + 1 < 64 := h.write_low (by simp [usesNow, usesOf, usesQpopSpan])
      obtain ⟨squad, home⟩ := popped.stands (ss := [d.toNat, d.toNat + 1]) found.untouched low (by simp) (by simp)
      refine framedHome_done (fun _ => by delta exec; exact rfl) h next ?_ squad home
      exact (withSpan_found found).trans <| (if_pos may).trans (spanPop_popped popped)
    · intro s u e r t h found may popped next
      have low : d.toNat + 1 < 64 := h.write_low (by simp [usesNow, usesOf, usesQpopSpanTry])
      have low_b : b.toNat < 64 := h.write_low (by simp [usesNow, usesOf, usesQpopSpanTry])
      obtain ⟨squad, home⟩ := popped.stands (ss := [d.toNat, d.toNat + 1, b.toNat]) found.untouched low (by simp) (by simp)
      refine framedHome_done (fun _ => by delta exec; exact rfl) h next ?_ (squad.setX (by simp) low_b 1) (home.setX b.toNat 1)
      exact (withSpan_found found).trans <| (if_pos may).trans (spanPop_popped popped)
    · intro s u e t h found may next
      have low : b.toNat < 64 := h.write_low (by simp [usesNow, usesOf, usesQpushSpanTry])
      refine framedHome_done (fun _ => by delta exec; exact rfl) h next ?_
        (SquadStands.setX (.of_sq found.untouched.squad _) (List.mem_singleton.2 rfl) low 0)
        ((found.untouched.homeStands []).setX b.toNat 0)
      exact (withSpan_found found).trans (if_neg (by simp [may]))
    · intro s u e t h found may next
      have low : b.toNat < 64 := h.write_low (by simp [usesNow, usesOf, usesQpopSpanTry])
      refine framedHome_done (fun _ => by delta exec; exact rfl) h next ?_
        (SquadStands.setX (.of_sq found.untouched.squad _) (List.mem_singleton.2 rfl) low 0)
        ((found.untouched.homeStands []).setX b.toNat 0)
      exact (withSpan_found found).trans (if_neg (by simp [may]))
    · intro s u e t h found may next
      refine framedHome_block (w := .qpushSpan a.toNat d.toNat) (fun _ => by delta exec; exact rfl) h next ?_ found.untouched
      exact (withSpan_found found).trans (if_neg (by simp [may]))
    · intro s u e t h found may next
      refine framedHome_block (w := .qpopSpan a.toNat d.toNat) (fun _ => by delta exec; exact rfl) h next ?_ found.untouched
      exact (withSpan_found found).trans (if_neg (by simp [may]))
    · intro s u key v scope r t h found write none_ next
      have released := found.untouched.trans (releaseAction_untouched u u.sq.ident.core scope)
      by_cases way : releaseWaits u u.sq.ident.core scope = true
      · refine framedHome_stall (fun _ => by delta exec; exact rfl) h next ?_ fun legible settled => ?_
        · exact (semAdd_found found).trans (if_pos way)
        · have after := (found.untouched.home legible settled).2.2
          rw [releaseWaits_settled after] at way
          cases way
      · refine framedHome_done (u := r) (fun _ => by delta exec; exact rfl) h next ?_
          (.of_sq ((homeWrite_squad write).trans released.squad) [])
          ((released.homeStands _).write write (by simp [leBytes_length]))
        refine (semAdd_found found).trans <| (if_neg way).trans ?_
        have written : homeWrite (releaseAction u u.sq.ident.core scope) (releaseAction u u.sq.ident.core scope).sq.ident.ctx key
            (leBytes 8 (v + (u.x d.toNat).toNat)) = (r, false) := write
        simp only [homeStore, written, evalDeps_none none_]
        rfl
    · intro s u key v scope t h found next
      have low : b.toNat < 64 := h.write_low (by simp [usesNow, usesOf, usesSemWait])
      by_cases reached : u.num d.toNat ≤ v
      · rw [if_pos reached]
        refine framedHome_done (fun _ => by delta exec; exact rfl) h next ((withSem_found found).trans (if_pos reached))
          ((SquadStands.setX (.of_sq found.untouched.squad _) (List.mem_singleton.2 rfl) low _).trans (.of_sq (acquireAction_sq _ _ _) _))
          (((found.untouched.homeStands []).setX _ _).acquire _ _)
      · rw [if_neg reached]
        exact framedHome_block (fun _ => by delta exec; exact rfl) h next ((withSem_found found).trans (if_neg reached)) found.untouched
    · intro s u key v scope t h found next
      have low : b.toNat < 64 := h.write_low (by simp [usesNow, usesOf, usesSemRead])
      exact framedHome_done (fun _ => by delta exec; exact rfl) h next (withSem_found found)
        (SquadStands.setX (.of_sq found.untouched.squad _) (List.mem_singleton.2 rfl) low _) ((found.untouched.homeStands []).setX _ _)
  · refine ⟨fun c s t h crew some_ quiet next => ?_, fun c s t h crew some_ quiet next => ?_, fun c s t h crew some_ quiet next => ?_,
      fun c s t h crew some_ quiet next => ?_⟩
    · refine framedBank_done (fun _ => by delta exec; exact rfl) h next ?_ (toCompute_bank (begun s) c)
      exact (withCrew_some crew).trans <| (failIf_pass (by simpa using some_)).trans (changeBanks_quiet crew quiet)
    · refine framedBank_done (fun _ => by delta exec; exact rfl) h next ?_ (toStorage_bank (begun s) c)
      exact (withCrew_some crew).trans <| (failIf_pass (by simpa using some_)).trans (changeBanks_quiet crew quiet)
    · refine framedBank_done (fun _ => by delta exec; exact rfl) h next ?_ (setCrew_bank (begun s) { c with attached := true })
      exact (withCrew_some crew).trans <| (failIf_pass (by simpa using some_)).trans (changeBanks_quiet crew quiet)
    · refine framedBank_done (fun _ => by delta exec; exact rfl) h next ?_ (setCrew_bank (begun s) { c with attached := false })
      exact (withCrew_some crew).trans <| (failIf_pass (by simpa using some_)).trans (changeBanks_quiet crew quiet)

end Sys2Proof.Laws
end
